-- ==== Sys2Proof/Word.lean ====
section
/-! DEFINITION. The word types of the S96 (R5, R9): bytes, 32-bit words, 56-bit addresses and the
96-bit lane masks of the execution mask. -/

namespace Sys2Proof

/-- A byte of memory (R5). -/
abbrev Byte := BitVec 8

/-- A 32-bit word: a scalar, one lane of a vector register, an instruction word (R9, R50). -/
abbrev Word := BitVec 32

/-- A 64-bit quantity held low word first (R5). -/
abbrev DWord := BitVec 64

/-- A 56-bit byte address of global memory (R9, R21). -/
abbrev Addr := BitVec 56

/-- One bit for each of the 96 lanes of a group; lane l is bit l (R14). -/
abbrev LaneMask := BitVec 96

/-- The lanes of a group (R2, R145). -/
abbrev lanes : Nat := 96

end Sys2Proof
end

