-- ==== Sys2Proof/Syntax.lean ====
section
/-! DEFINITION. The syntax: one constructor of `Instr` for each row of spec/opcode_table.json.
The rows up to PROGRESS are instructions of a group (R55 to R63); UNDEFINED_INSTRUCTION and
RESERVED_MAJOR are the words that are no instruction (R64); the other rows are steps of the
device's other agents (95_what_each_step_holds.md), which have no encoding: their operands say which
group, line, command, queue or packet the step is about. -/

namespace Sys2Proof

/-- The second operand B of VR and VX words: a vector, or with bs = 1 a scalar (R55, R88). -/
inductive Src where
  | v (r : BitVec 7)
  | s (r : BitVec 6)
  deriving DecidableEq, Repr

/-- The lane number k of LROT, LREAD and LWRITE: fn2[6:0], or with bs = 1 a scalar (R108, R109). -/
inductive LaneIdx where
  | imm (k : BitVec 7)
  | s (r : BitVec 6)
  deriving DecidableEq, Repr

/-- The second word of an ML instruction: offset, hint, order, scope (R55 to R57). -/
structure MlExt where
  off : BitVec 24
  hint : BitVec 2
  order : BitVec 2
  scope : BitVec 3
  deriving DecidableEq, Repr

/-- The fields of fn2 that the atomics share, with the type field (R224). -/
structure AtomFields where
  op : BitVec 4
  ty : BitVec 4
  order : BitVec 2
  scope : BitVec 3
  deriving DecidableEq, Repr

/-- A Tiade packet as it arrives, after its carrier is accepted (R325): the header's fields and the
payload's bytes. -/
structure TiadePacket where
  flags : BitVec 8
  stream : Nat
  psn : BitVec 32
  win : Nat
  key : BitVec 32
  offset : Nat
  length : Nat
  aop : BitVec 32
  payload : List Byte
  deriving DecidableEq, Repr

/-- What a frame at the host port is checked for before its Tiade header is read (R325). -/
structure HostFrame where
  size : Nat
  ethertype : Nat
  vlanTags : Nat
  ipv4 : Bool
  ipFragment : Bool
  udpPort : Nat
  op : Nat
  order : BitVec 2
  deriving DecidableEq, Repr

/-- A management packet (OP 5): its stream, whether the management host sent it, its sequence number
and the payload words after the operation code (R328). -/
structure MgmtPacket where
  stream : Nat
  fromMgmtHost : Bool
  psn : BitVec 32
  words : List Word
  deriving DecidableEq, Repr

/-- The partial sum of one element of an exact network sum: the signed accumulator in units of
2^-149 and the four status bits (R47, R320). -/
structure PartialElem where
  acc : Int
  nan : Bool
  pinf : Bool
  ninf : Bool
  allneg : Bool
  deriving DecidableEq, Repr

/-- A partial that crosses a peer link to a sys-scope root of this device: the sender and its number for it; `bad` where
a router on its way found a disagreement in n or P (R320, R321, R333, R335). -/
structure PeerPartial where
  dev : Nat
  seq : Nat
  ctx : Nat
  slot : Nat
  n : Nat
  p : Nat
  count : Nat
  rootDev : Nat
  elems : List PartialElem
  bad : Bool := false
  deriving DecidableEq, Repr

/-- What one device asks of another: an access (R332), or the merging of a partial at a sys-scope root (R335). -/
inductive PeerOp where
  | load (size : Nat)
  | store (data : List Byte)
  | atomic (op ty : BitVec 4) (b c : Word)
  | merge (ctx slot n p count : Nat) (bad : Bool) (elems : List PartialElem)
  deriving DecidableEq, Repr

/-- An access that arrives from a peer device, with its 64-bit sequence number, the context of this device that it names
and its virtual address there (R332, R333). -/
structure PeerRequest where
  dev : Nat
  seq : Nat
  ctx : Nat
  va : Nat
  op : PeerOp
  deriving DecidableEq, Repr

/-- What reaches a router that merges or is a root: a command's own contribution, a partial that another router holds,
or a peer's partial (R320, R321, R335). -/
inductive MergeSource where
  | command (id : Nat)
  | held (round : Nat)
  | peer (p : PeerPartial)
  deriving DecidableEq, Repr

/-- The outcome of the unit tests a boot makes: for each step of R364 that fails, its unit. -/
structure BootFailure where
  step : Nat
  unit : Nat
  deriving DecidableEq, Repr

/-- One constructor for each row of spec/opcode_table.json, in the table's order but for the two words that are no
instruction, which stand after the instructions. -/
inductive Instr where
  -- scalar arithmetic, major 0x01 (R74, R75)
  | sadd (d a b : BitVec 6)
  | ssub (d a b : BitVec 6)
  | smul (d a b : BitVec 6)
  | smulhi (d a b : BitVec 6)
  | smulhn (d a b : BitVec 6)
  | sdiv (d a b : BitVec 6)
  | sdivn (d a b : BitVec 6)
  | srem (d a b : BitVec 6)
  | smin (d a b : BitVec 6)
  | smax (d a b : BitVec 6)
  | sminn (d a b : BitVec 6)
  | smaxn (d a b : BitVec 6)
  | saddc (d a b : BitVec 6)
  | ssubb (d a b : BitVec 6)
  -- scalar logic and shift, major 0x02 (R74, R76)
  | sand (d a b : BitVec 6)
  | sor (d a b : BitVec 6)
  | sxor (d a b : BitVec 6)
  | sandn (d a b : BitVec 6)
  | sshl (d a b : BitVec 6)
  | sshr (d a b : BitVec 6)
  | ssra (d a b : BitVec 6)
  | srot (d a b : BitVec 6)
  | sclz (d a : BitVec 6)
  | spopc (d a : BitVec 6)
  | sbrev (d a : BitVec 6)
  | sext (d a n : BitVec 6)
  -- compare, select, move, major 0x03
  | scmp (d a b : BitVec 6) (cc : BitVec 4)
  | ssel (d a b c : BitVec 6)
  | smov (d a : BitVec 6)
  -- immediates and literals, majors 0x04 to 0x07 (R77)
  | saddImm (d a : BitVec 6) (imm : BitVec 14)
  | sandImm (d a : BitVec 6) (imm : BitVec 14)
  | sshlImm (d a : BitVec 6) (n : BitVec 5)
  | sshrImm (d a : BitVec 6) (n : BitVec 5)
  | ssraImm (d a : BitVec 6) (n : BitVec 5)
  | srotImm (d a : BitVec 6) (n : BitVec 5)
  | slit (d : BitVec 6) (tag : BitVec 4) (lit : Word)
  | saddLit (d a : BitVec 6) (lit : Word)
  | sandLit (d a : BitVec 6) (lit : Word)
  | sorLit (d a : BitVec 6) (lit : Word)
  | sxorLit (d a : BitVec 6) (lit : Word)
  | smulLit (d a : BitVec 6) (lit : Word)
  -- scalar memory, base registers, system registers (R79 to R82)
  | sld (d a : BitVec 6) (off : BitVec 8) (look : BitVec 4)
  | sst (d a : BitVec 6) (off : BitVec 8)
  | btset (n : BitVec 2) (a : BitVec 6) (perm : BitVec 2)
  | btget (d : BitVec 6) (n : BitVec 2) (sel : BitVec 6)
  | srd (d : BitVec 6) (r : BitVec 12)
  | swr (d : BitVec 6) (r : BitVec 12)
  -- masks, major 0x0B (R86)
  | mand (d a b : BitVec 6)
  | mor (d a b : BitVec 6)
  | mxor (d a b : BitVec 6)
  | mandn (d a b : BitVec 6)
  | mnot (d a : BitVec 6)
  | mpopc (d a : BitVec 6)
  | mfirst (d a : BitVec 6)
  | msetx (d a : BitVec 6)
  | mgetx (d : BitVec 6)
  | mtest (d a : BitVec 6)
  -- control transfer (R60, R83 to R85)
  | br (u : BitVec 1) (cond : BitVec 4) (sc : BitVec 6) (disp : BitVec 15)
  | jmp (disp : BitVec 15)
  | call (sc : BitVec 6) (disp : BitVec 15)
  | ret (sc : BitVec 6)
  | jmpi (sc : BitVec 6)
  | loop (sc : BitVec 6) (disp : BitVec 15)
  | nop
  | halt
  | yield (sc : BitVec 6) (disp : BitVec 15)
  | ipref (disp : BitVec 15)
  -- barriers (R177 to R180)
  | bara (n : BitVec 6)
  | barw (n : BitVec 6)
  | baraw (n : BitVec 6)
  -- vector integer, majors 0x10 to 0x13 (R91, R92)
  | vadd (d a : BitVec 7) (b : Src)
  | vsub (d a : BitVec 7) (b : Src)
  | vmul (d a : BitVec 7) (b : Src)
  | vmulhi (d a : BitVec 7) (b : Src)
  | vmulhn (d a : BitVec 7) (b : Src)
  | vmin (d a : BitVec 7) (b : Src)
  | vmax (d a : BitVec 7) (b : Src)
  | vminn (d a : BitVec 7) (b : Src)
  | vmaxn (d a : BitVec 7) (b : Src)
  | vadds (d a : BitVec 7) (b : Src)
  | vsubs (d a : BitVec 7) (b : Src)
  | vabs (d a : BitVec 7)
  | vand (d a : BitVec 7) (b : Src)
  | vor (d a : BitVec 7) (b : Src)
  | vxor (d a : BitVec 7) (b : Src)
  | vandn (d a : BitVec 7) (b : Src)
  | vshl (d a : BitVec 7) (b : Src)
  | vshr (d a : BitVec 7) (b : Src)
  | vsra (d a : BitVec 7) (b : Src)
  | vclz (d a : BitVec 7)
  | vpopc (d a : BitVec 7)
  | vmad (d a : BitVec 7) (b : Src) (c : BitVec 7)
  | vsel (d a : BitVec 7) (b : Src) (c : BitVec 6)
  | vcmp (d : BitVec 6) (a : BitVec 7) (b : Src) (cc : BitVec 4)
  | vmov (d : BitVec 7) (b : Src)
  | vidx (d : BitVec 7) (b : Option (BitVec 6))
  | vbcast (d a : BitVec 7) (b : BitVec 6)
  -- FP32, majors 0x14 and 0x15 (R93 to R97)
  | fadd (d a : BitVec 7) (b : Src)
  | fsub (d a : BitVec 7) (b : Src)
  | fmul (d a : BitVec 7) (b : Src)
  | fmin (d a : BitVec 7) (b : Src)
  | fmax (d a : BitVec 7) (b : Src)
  | fscale (d a : BitVec 7) (b : Src)
  | fclass (d a : BitVec 7)
  | ffma (d a : BitVec 7) (b : Src) (c : BitVec 7) (rm : BitVec 3)
  | fcmp (d : BitVec 6) (a : BitVec 7) (b : Src) (cc : BitVec 4)
  | frnd (d a : BitVec 7) (rm : BitVec 3)
  | faddRm (d a : BitVec 7) (b : Src) (rm : BitVec 3)
  | fsubRm (d a : BitVec 7) (b : Src) (rm : BitVec 3)
  | fmulRm (d a : BitVec 7) (b : Src) (rm : BitVec 3)
  -- packed 16-bit, majors 0x16 and 0x17 (R100); f16 is type 9, else type 8
  | hadd2Bf16 (d a : BitVec 7) (b : Src)
  | hadd2F16 (d a : BitVec 7) (b : Src)
  | hmul2Bf16 (d a : BitVec 7) (b : Src)
  | hmul2F16 (d a : BitVec 7) (b : Src)
  | hfma2 (d a : BitVec 7) (b : Src) (c : BitVec 7) (rm : BitVec 3) (ty : BitVec 4)
  | hadd2 (d a : BitVec 7) (b : Src) (rm : BitVec 3) (ty : BitVec 4)
  | hmul2 (d a : BitVec 7) (b : Src) (rm : BitVec 3) (ty : BitVec 4)
  -- long-latency FP32, major 0x18 (R98, R99)
  | frcp (d a : BitVec 7) (look : BitVec 4)
  | frsq (d a : BitVec 7) (look : BitVec 4)
  | fsqrt (d a : BitVec 7) (rm : BitVec 3) (look : BitVec 4)
  | fdiv (d a : BitVec 7) (b : Src) (rm : BitVec 3) (look : BitVec 4)
  | fexp2 (d a : BitVec 7) (look : BitVec 4)
  | flog2 (d a : BitVec 7) (look : BitVec 4)
  | fsin (d a : BitVec 7) (look : BitVec 4)
  | fcos (d a : BitVec 7) (look : BitVec 4)
  -- conversion, packing and tags, major 0x19 (R101 to R105)
  | cvt (d a : BitVec 7) (t s : BitVec 4) (rm : BitVec 3) (sat : BitVec 1) (i j : BitVec 2)
  | cvtsr (d a : BitVec 7) (t : BitVec 4) (sat : BitVec 1) (j : BitVec 2)
  | pack2 (d a : BitVec 7) (b : Src) (ty : BitVec 4)
  | unpack2 (d a : BitVec 7) (ty : BitVec 4) (h : BitVec 1)
  | pack4 (d a b : BitVec 7) (ty : BitVec 4)
  | unpack4 (d a : BitVec 7) (ty : BitVec 4) (k : BitVec 2)
  | tagrd (d : BitVec 6) (src : Src)
  | tagwr (dst : Src) (tag : BitVec 4)
  | vrng (d : BitVec 7)
  -- interleave and permute, major 0x1A (R106 to R109)
  | zip2 (d a : BitVec 7)
  | zip3 (d a : BitVec 7)
  | zip4 (d a : BitVec 7)
  | unzip2 (d a : BitVec 7)
  | unzip3 (d a : BitVec 7)
  | unzip4 (d a : BitVec 7)
  | lshuf (d a : BitVec 7) (b : Src)
  | lrot (d a : BitVec 7) (k : LaneIdx)
  | lread (d : BitVec 6) (a : BitVec 7) (k : LaneIdx) (look : BitVec 4)
  | lwrite (d : BitVec 7) (a : BitVec 6) (k : LaneIdx)
  -- exact pairs and double words, majors 0x1B to 0x1D (R117 to R128)
  | faddx (d a : BitVec 7) (b : Src)
  | fsubx (d a : BitVec 7) (b : Src)
  | fmulx (d a : BitVec 7) (b : Src)
  | dwadd (d a : BitVec 7) (b : Src)
  | dwadds (d a : BitVec 7) (b : Src)
  | dwmul (d a : BitVec 7) (b : Src)
  | dwmuls (d a : BitVec 7) (b : Src)
  | dwdiv (d a : BitVec 7) (b : Src) (look : BitVec 4)
  | dwsqrt (d a : BitVec 7) (look : BitVec 4)
  | dwnorm (d a : BitVec 7)
  | dwcvt (d a : BitVec 7) (fromPair : BitVec 1) (ty : BitVec 4) (rm : BitVec 3)
  | dwcmp (d : BitVec 6) (a : BitVec 7) (b : Src) (cc : BitVec 4)
  | creduce (d : BitVec 6) (a : BitVec 7) (c : BitVec 6) (single : BitVec 1) (look : BitVec 4)
  | credseg (d a : BitVec 7) (c : BitVec 6) (single : BitVec 1) (look : BitVec 4)
  -- quad exchange and group collectives, majors 0x1E and 0x1F (R168 to R175)
  | qswapx (d a : BitVec 7)
  | qswapy (d a : BitVec 7)
  | qswapd (d a : BitVec 7)
  | qbcast (d a : BitVec 7) (k : BitVec 2)
  | greduce (d : BitVec 6) (a : BitVec 7) (c : BitVec 6) (op : BitVec 3) (ty : BitVec 4) (rm : BitVec 3) (sat : BitVec 1) (look : BitVec 4)
  | gscan (d a : BitVec 7) (op : BitVec 3) (excl : BitVec 1) (ty : BitVec 4) (rm : BitVec 3) (sat : BitVec 1) (look : BitVec 4)
  | gsegred (d a : BitVec 7) (c : BitVec 6) (op : BitVec 3) (ty : BitVec 4) (rm : BitVec 3) (sat : BitVec 1) (look : BitVec 4)
  | gmatch (d a : BitVec 7) (mode : BitVec 2) (look : BitVec 4)
  -- memory, majors 0x20 to 0x24 (R110 to R116, R219 to R221)
  | vld (d : BitVec 7) (t : BitVec 2) (o : BitVec 7) (look : BitVec 4) (z : BitVec 3)
  | vld2w (d : BitVec 7) (t : BitVec 2) (o : BitVec 7) (look : BitVec 4) (z : BitVec 3) (x : MlExt)
  | vst (s : BitVec 7) (t : BitVec 2) (o : BitVec 7) (z : BitVec 3)
  | vst2w (s : BitVec 7) (t : BitVec 2) (o : BitVec 7) (z : BitVec 3) (x : MlExt)
  | vlds (d : BitVec 7) (t : BitVec 2) (o : BitVec 6) (look : BitVec 4) (z : BitVec 3)
  | vlds2w (d : BitVec 7) (t : BitVec 2) (o : BitVec 6) (look : BitVec 4) (z : BitVec 3) (x : MlExt)
  | vsts (s : BitVec 7) (t : BitVec 2) (o : BitVec 6) (z : BitVec 3)
  | vsts2w (s : BitVec 7) (t : BitVec 2) (o : BitVec 6) (z : BitVec 3) (x : MlExt)
  | pref (t : BitVec 2) (o : BitVec 7)
  | pref2w (t : BitVec 2) (o : BitVec 7) (x : MlExt)
  | vldp (d : BitVec 7) (o : BitVec 7) (look : BitVec 4) (z : BitVec 3)
  | vldp2w (d : BitVec 7) (o : BitVec 7) (look : BitVec 4) (z : BitVec 3) (x : MlExt)
  | vstp (s : BitVec 7) (o : BitVec 7) (z : BitVec 3)
  | vstp2w (s : BitVec 7) (o : BitVec 7) (z : BitVec 3) (x : MlExt)
  | vldi (d : BitVec 7) (t : BitVec 2) (o : BitVec 7) (look : BitVec 4) (z : BitVec 3)
  | vldi2w (d : BitVec 7) (t : BitVec 2) (o : BitVec 7) (look : BitVec 4) (z : BitVec 3) (x : MlExt)
  | vsti (s : BitVec 7) (t : BitVec 2) (o : BitVec 7) (z : BitVec 3)
  | vsti2w (s : BitVec 7) (t : BitVec 2) (o : BitVec 7) (z : BitVec 3) (x : MlExt)
  | spld (d : BitVec 7) (o : BitVec 7) (look : BitVec 4) (z : BitVec 3)
  | spld2w (d : BitVec 7) (o : BitVec 7) (look : BitVec 4) (z : BitVec 3) (x : MlExt)
  | spst (s : BitVec 7) (o : BitVec 7) (z : BitVec 3)
  | spst2w (s : BitVec 7) (o : BitVec 7) (z : BitVec 3) (x : MlExt)
  | spldx (d : BitVec 7) (n : BitVec 2) (o : BitVec 7) (look : BitVec 4) (z : BitVec 3)
  | spldx2w (d : BitVec 7) (n : BitVec 2) (o : BitVec 7) (look : BitVec 4) (z : BitVec 3) (x : MlExt)
  | spstx (s : BitVec 7) (n : BitVec 2) (o : BitVec 7) (z : BitVec 3)
  | spstx2w (s : BitVec 7) (n : BitVec 2) (o : BitVec 7) (z : BitVec 3) (x : MlExt)
  -- atomics, fences, code and messages, majors 0x25 to 0x29 (R224 to R235)
  | atom (d a : BitVec 7) (b : Src) (c : BitVec 7) (t : BitVec 2) (f : AtomFields) (lock : BitVec 1) (look : BitVec 4)
  | red (a : BitVec 7) (b : Src) (t : BitVec 2) (f : AtomFields) (lock : BitVec 1)
  | spatom (d a : BitVec 7) (b : Src) (c : BitVec 7) (x : BitVec 1) (n : BitVec 2) (f : AtomFields) (nr : BitVec 1) (look : BitVec 4)
  | satom (d a b c : BitVec 6) (f : AtomFields) (lock nr : BitVec 1) (look : BitVec 4)
  | fence (order : BitVec 2) (scope : BitVec 3)
  | icinv (scope : BitVec 3) (a b : BitVec 6)
  | ifence
  | msend (q : BitVec 3) (a b : BitVec 6) (k : BitVec 3) (order : BitVec 2) (scope : BitVec 3)
  | mrecv (d : BitVec 6) (q : BitVec 3) (poll : BitVec 1) (order : BitVec 2) (scope : BitVec 3) (look : BitVec 4)
  | wakew (a b : BitVec 6) (scope : BitVec 3)
  | waitw (d a b c : BitVec 6) (order : BitVec 2) (scope : BitVec 3)
  -- engine commands and controls, majors 0x2A to 0x2E (R263 to R277)
  | cpy (s t : BitVec 6) (cont acq : BitVec 1)
  | ewait (s : BitVec 6)
  | epoll (s t : BitVec 6)
  | mma (s t : BitVec 6) (acc : BitVec 1)
  | mmas (s t : BitVec 6) (acc : BitVec 1)
  | mmag (s t : BitVec 6) (acc : BitVec 1)
  | mbatch (t : BitVec 6)
  | mwait (s : BitVec 6)
  | gath (s t : BitVec 6) (acq resume : BitVec 1)
  | scat (s t : BitVec 6) (resume : BitVec 1)
  | scbegin (s t : BitVec 6)
  | scprobe (s t : BitVec 6) (bf16 sp acq : BitVec 1)
  | scsave (s t : BitVec 6)
  | nredx (s t : BitVec 6) (scope : BitVec 3)
  -- promotion, traps, frames, context, progress, majors 0x2F to 0x33 (R181, R301 to R305)
  | promote (up : BitVec 1)
  | trap (n : BitVec 18)
  | bkpt (n : BitVec 18)
  | rte
  | rteEnd
  | tsave (s : BitVec 7) (k : BitVec 4)
  | tload (d : BitVec 7) (k : BitVec 4)
  | ctxsave (c a : BitVec 6)
  | ctxload (c a : BitVec 6)
  | progress (k : BitVec 3)
  -- words that are no instruction (R64)
  | undefinedInstruction (w : Word)
  | reservedMajor (w : Word)
  -- steps of the groups' fetch, memory and release machinery; g is 48 * core + slot
  | clauseStart (g : Nat)
  | instructionCacheFill (g : Nat)
  | loadReturn (g id : Nat)
  | storeAccepted (g id : Nat)
  | atomicReturn (g id : Nat)
  | resultWrite (g : Nat)
  | releaseComplete (g : Nat)
  | icinvComplete (g : Nat)
  | promotionStart (g : Nat)
  | promotionSwitchDone (g : Nat)
  | demotionSwitchDone (g : Nat)
  | barrierLaggardQualify (g n : Nat)
  | barrierPhaseComplete (team n : Nat)
  | barrierWake (team n : Nat)
  | groupRegistersReturn (g : Nat)
  | teamEnd (team : Nat)
  -- the dispatcher
  | cbitmapSet (team : Nat)
  | dispatcherTailRead (q : Nat)
  | launchRecordTake (q : Nat)
  | teamPlacement (ctx : Nat)
  | consumerRelease (grid team : Nat)
  -- home slices, caches, translation
  | pinGrant (g id line : Nat)
  | accessRetryResend (g id line : Nat)
  | recallComplete (line : Nat)
  | l1LineFill (g id line : Nat) (victim : Option Nat)
  | l2LineFill (line : Nat) (victim : Option Nat)
  | pageWalkComplete (g page : Nat)
  | faultRecordAnswer (ctx seq : Nat)
  | invalidateRange (ctx : Nat)
  | invalidateRangeDone (ctx : Nat)
  | compact (ctx : Nat)
  | compactDone (ctx : Nat)
  | translationRequestFail (ctx : Nat)
  -- engines
  | commandIssueResume (g : Nat)
  | sourceReadDone (cmd : Nat)
  | copyEngineTake (core : Nat)
  | cpyComplete (cmd : Nat)
  | enginePageFault (cmd : Nat)
  | engineFailure (cmd : Nat)
  | matrixEngineTake (core : Nat)
  | matrixCommandComplete (cmd : Nat)
  | gatherScatterComplete (cmd : Nat)
  | scsaveStart (cmd : Nat)
  | scsaveComplete (cmd : Nat)
  | scprobeComplete (cmd : Nat)
  | partialMerge (src : MergeSource)
  | roundResultSend (slot : Nat)
  | nredxComplete (cmd : Nat)
  -- messages, wakes, routers, held records
  | messageDelivery (core q msg : Nat)
  | wakeDelivery (core : Nat)
  | waitwTimeout (g : Nat)
  | routerPowerDown (r : Nat)
  | routerWake (r : Nat)
  | faultRecordRelease (ctx : Nat)
  | eventRecordRelease (ctx : Nat)
  -- pre-emption
  | forcedSave (team steps : Nat)
  | preemptStatusWrite (ctx : Nat)
  | teamRestore (ctx : Nat)
  -- the host port, management and the husk
  | tiadeRead (p : TiadePacket)
  | tiadeWrite (p : TiadePacket)
  | tiadeAtomic (p : TiadePacket)
  | tiadeFrameDrop (f : HostFrame)
  | createContext (p : MgmtPacket)
  | destroyContext (p : MgmtPacket)
  | setStep (p : MgmtPacket)
  | preemptContext (p : MgmtPacket)
  | resumeContext (p : MgmtPacket)
  | registerWindow (p : MgmtPacket)
  | removeWindow (p : MgmtPacket)
  | registerLaunchQueueTable (p : MgmtPacket)
  | harvestRecord (p : MgmtPacket)
  | rosterRecord (p : MgmtPacket)
  | getVersion (p : MgmtPacket)
  | getCapabilities (p : MgmtPacket)
  | negotiateAlgorithms (p : MgmtPacket)
  | getMeasurements (p : MgmtPacket)
  | vendorHarvestRequest (p : MgmtPacket)
  | vendorRosterRequest (p : MgmtPacket)
  | spdmUnsupportedRequest (p : MgmtPacket)
  -- peer links
  | linkAuthentication (port : Nat) (nonce peerNonce peerKey peerSig : List Byte)
  | linkAuthRetry (port : Nat)
  | peerAccess (r : PeerRequest)
  | peerAck (dev seq : Nat) (ok : Bool) (data : List Byte)
  | linkFailure (port : Nat)
  | peerPathTimeout (dev : Nat)
  -- observation
  | sample (core : Nat)
  | trialDelayExpire (g : Nat)
  | chunkCommit (g : Nat)
  -- controls (R369), boot and the part's life (R364 to R371)
  | powerLimit (w : Word) (host : Bool)
  | coreClock (w : Word) (host : Bool)
  | routerPowerDownControl (w : Word) (host : Bool)
  | hostPortControl (w : Word) (host : Bool)
  | peerPortsControl (w : Word) (host : Bool)
  | samplingControl (w : Word) (host : Bool)
  | reuseHistogramControl (w : Word) (host : Bool)
  | causalTrialControl (w : Word) (host : Bool)
  | replayControl (w : Word) (host : Bool)
  | expertBlockWrite (fn idx : Nat) (w : Word)
  | controlApply (fn : Nat)
  | bootRecordClear
  | moduleReset (failures : List BootFailure)
  | coreFailure (core : Nat)
  | clockStepDown
  | coolantFlowLost
  | coolantFlowRestored
  | flitCrcError (port : Nat)
  deriving DecidableEq, Repr

end Sys2Proof
end

