-- ==== Sys2Proof/WellFormed.lean ====
section
/-! DEFINITION. Which instructions are well formed: the limits that the encoding and the instruction
descriptions put on their fields (R55 to R57, R63). Words whose fields break one of them raise the
undefined-instruction fault at decode (R64). A pair that names an odd register and a vector at or
above the declared count are not breaches of form: they fault with the state at hand (R10, R20). -/

namespace Sys2Proof

/-- A rounding field names a mode: 000 GCTL.RM, 001 .rne, 010 .rtz, 011 .rup, 100 .rdn (R56). -/
def rmOk (rm : BitVec 3) : Bool := rm.toNat ≤ 4

/-- A scope field names a scope, .grp to .sys (R56). -/
def scopeOk (s : BitVec 3) : Bool := s.toNat ≤ 5

/-- The first register of a scalar triple is at most s61 (R55). -/
def tripleOk (r : BitVec 6) : Bool := r.toNat ≤ 61

/-- An EC operand block of eight scalars lies in s0 to s60 (R55). -/
def sbaseOk (r : BitVec 6) : Bool := r.toNat ≤ 53

/-- A ticket destination is s0 to s60, or 63 for none (R263). -/
def tdestOk (t : BitVec 6) : Bool := t != 61 && t != 62

/-- The sizes of a load or store, 000 to 101 (R57). -/
def sizeOk (z : BitVec 3) : Bool := z.toNat ≤ 5

/-- The sizes of a private access: 32 or 64 bits (R114). -/
def privSizeOk (z : BitVec 3) : Bool := z == 4 || z == 5

/-- The second word of a global load or store: hint 11 and scopes 6 and 7 are reserved, and `order` is
the one ordering beside .rlx that the instruction allows (R56, R116). -/
def MlExt.globalOk (x : MlExt) (order : BitVec 2) : Bool :=
  x.hint != 3 && (x.order == 0 || x.order == order) && scopeOk x.scope

/-- The second word of a private access: order .rlx and scope zero (R114, R116). -/
def MlExt.privOk (x : MlExt) : Bool := x.hint != 3 && x.order == 0 && x.scope == 0

/-- The second word of a prefetch: a hint may be given and the order is .rlx (R115, R116). -/
def MlExt.prefOk (x : MlExt) : Bool := x.hint != 3 && x.order == 0 && scopeOk x.scope

/-- The second word of a scratchpad access: hint .ca (R219). -/
def MlExt.spOk (x : MlExt) (order : BitVec 2) : Bool :=
  x.hint == 0 && (x.order == 0 || x.order == order) && scopeOk x.scope

/-- Types 1, 2 and 7: i32, n32, f32 (R56). -/
def tyNum (ty : BitVec 4) : Bool := ty == 1 || ty == 2 || ty == 7

/-- op and type of an atomic, and its scope (R224). -/
def AtomFields.ok (f : AtomFields) : Bool :=
  scopeOk f.scope &&
    (if f.op.toNat ≤ 2 then tyNum f.ty else f.op.toNat ≤ 7 && f.ty == 0)

/-- Where LOCK may stand on an ATOM or SATOM (R227): on an acquiring cas or swap, or on a release. -/
def AtomFields.lockOk (f : AtomFields) (lock : BitVec 1) : Bool :=
  lock == 0 || f.order == 2 || f.order == 3 ||
    (f.order == 1 && (f.op == 6 || f.op == 7))

/-- op, type, rm and sat of GREDUCE, GSCAN and GSEGRED (R170). -/
def collectiveOk (op : BitVec 3) (ty : BitVec 4) (rm : BitVec 3) (sat : BitVec 1) : Bool :=
  (if op.toNat ≤ 2 then tyNum ty else op.toNat ≤ 5 && ty == 0) &&
    (if op == 0 && ty == 7 then rmOk rm else rm == 0) &&
    (sat == 0 || (op == 0 && (ty == 1 || ty == 2)))

/-- Elements of a packed type code: bf16 and f16 hold two, e4m3 and e5m2 four, others one (R101). -/
def packCount (ty : BitVec 4) : Nat :=
  if ty == 8 || ty == 9 then 2 else if ty == 10 || ty == 11 then 4 else 1

/-- Type codes 1 to 6 are the integers (R56). -/
def tyInt (ty : BitVec 4) : Bool := 1 ≤ ty.toNat && ty.toNat ≤ 6

/-- The fields of CVT (R101). rm may hold any rounding mode in every CVT, also where nothing is rounded.
DESIGN CHOICE, log entry 116. -/
def cvtOk (t s : BitVec 4) (rm : BitVec 3) (sat : BitVec 1) (i j : BitVec 2) : Bool :=
  (s == 1 || s == 2 || s == 7 || s == 8 || s == 9 || s == 10 || s == 11) &&
    1 ≤ t.toNat && t.toNat ≤ 11 && t != s && rmOk rm &&
    i.toNat < packCount s && j.toNat < packCount t &&
    (sat == 0 || t == 10 || t == 11 || (tyInt s && tyInt t))

/-- The system-register numbers of the table of R23. -/
def sysRegKnown (r : BitVec 12) : Bool :=
  let n := r.toNat
  n == 0 || n == 1 || (4 ≤ n && n ≤ 6) || n == 8 || n == 0x10 || (0x12 ≤ n && n ≤ 0x18) ||
    (0x40 ≤ n && n ≤ 0x4F) || (0x80 ≤ n && n ≤ 0xBF)

/-- The conditions of BR: 0 takes no scalar, 8 to 11 name a triple, 7 and 12 to 15 are reserved (R60). -/
def brOk (cond : BitVec 4) (sc : BitVec 6) : Bool :=
  let c := cond.toNat
  if c == 0 then sc == 0 else if c ≤ 6 then true else 8 ≤ c && c ≤ 11 && tripleOk sc

/-- A well-formed instruction: every field holds a value that R55 to R57 and the instruction's own
description allow. The device's other steps carry no encoded fields and are always well formed. -/
def Instr.wf : Instr → Bool
  | .sext _ _ n => 1 ≤ n.toNat && n.toNat ≤ 32
  | .scmp _ _ _ cc => cc.toNat ≤ 9
  | .btset _ _ perm => perm != 0
  | .btget _ _ sel => sel.toNat ≤ 2
  | .srd _ r => sysRegKnown r
  | .swr _ r => sysRegKnown r
  | .mand d a b => tripleOk d && tripleOk a && tripleOk b
  | .mor d a b => tripleOk d && tripleOk a && tripleOk b
  | .mxor d a b => tripleOk d && tripleOk a && tripleOk b
  | .mandn d a b => tripleOk d && tripleOk a && tripleOk b
  | .mnot d a => tripleOk d && tripleOk a
  | .mpopc _ a => tripleOk a
  | .mfirst _ a => tripleOk a
  | .msetx d a => d.toNat ≤ 58 && tripleOk a
  | .mgetx d => tripleOk d
  | .mtest _ a => tripleOk a
  | .br _ cond sc _ => brOk cond sc
  | .jmpi sc => sc.toNat ≤ 60
  | .loop sc _ => sc.toNat ≤ 60
  | .bara n => n.toNat ≤ 19
  | .barw n => n.toNat ≤ 19
  | .baraw n => n.toNat ≤ 19
  | .vsel _ _ _ c => tripleOk c
  | .vcmp d _ _ cc => tripleOk d && cc.toNat ≤ 9
  | .ffma _ _ _ _ rm => rmOk rm
  | .fcmp d _ _ cc => tripleOk d && cc.toNat ≤ 7
  | .frnd _ _ rm => rmOk rm
  | .faddRm _ _ _ rm => rmOk rm
  | .fsubRm _ _ _ rm => rmOk rm
  | .fmulRm _ _ _ rm => rmOk rm
  | .hfma2 _ _ _ _ rm ty => rmOk rm && (ty == 8 || ty == 9)
  | .hadd2 _ _ _ rm ty => rmOk rm && (ty == 8 || ty == 9)
  | .hmul2 _ _ _ rm ty => rmOk rm && (ty == 8 || ty == 9)
  | .fsqrt _ _ rm _ => rmOk rm
  | .fdiv _ _ _ rm _ => rmOk rm
  | .cvt _ _ t s rm sat i j => cvtOk t s rm sat i j
  | .cvtsr _ _ t sat j =>
      8 ≤ t.toNat && t.toNat ≤ 11 && j.toNat < packCount t && (sat == 0 || t == 10 || t == 11)
  | .pack2 _ _ _ ty => ty == 0 || ty == 3 || ty == 4 || ty == 8 || ty == 9
  | .unpack2 _ _ ty _ => ty == 0 || ty == 3 || ty == 4
  | .pack4 _ _ _ ty => ty == 0 || ty == 5 || ty == 6 || ty == 10 || ty == 11
  | .unpack4 _ _ ty _ => ty == 0 || ty == 5 || ty == 6
  | .lrot _ _ (.imm k) => k.toNat ≤ 95
  | .lread _ _ (.imm k) _ => k.toNat ≤ 95
  | .lwrite _ _ (.imm k) => k.toNat ≤ 95
  | .lrot _ _ (.s _) | .lread _ _ (.s _) _ | .lwrite _ _ (.s _) => true
  | .dwcvt _ _ fromPair ty rm => tyNum ty && (if fromPair == 1 then rmOk rm else rm == 0)
  | .dwcmp d _ _ cc => tripleOk d && cc.toNat ≤ 7
  | .creduce _ _ c _ _ => tripleOk c
  | .credseg _ _ c _ _ => tripleOk c
  | .greduce _ _ c op ty rm sat _ => tripleOk c && collectiveOk op ty rm sat
  | .gscan _ _ op _ ty rm sat _ => collectiveOk op ty rm sat
  | .gsegred _ _ c op ty rm sat _ => tripleOk c && collectiveOk op ty rm sat
  | .gmatch _ _ mode _ => mode != 3
  | .vld _ _ _ _ z => sizeOk z
  | .vld2w _ _ _ _ z x => sizeOk z && x.globalOk 1
  | .vst _ _ _ z => sizeOk z
  | .vst2w _ _ _ z x => sizeOk z && x.globalOk 2
  | .vlds _ _ _ _ z => sizeOk z
  | .vlds2w _ _ _ _ z x => sizeOk z && x.globalOk 1
  | .vsts _ _ _ z => sizeOk z
  | .vsts2w _ _ _ z x => sizeOk z && x.globalOk 2
  | .pref2w _ _ x => x.prefOk
  | .vldp _ _ _ z => privSizeOk z
  | .vldp2w _ _ _ z x => privSizeOk z && x.privOk
  | .vstp _ _ z => privSizeOk z
  | .vstp2w _ _ z x => privSizeOk z && x.privOk
  | .vldi _ _ _ _ z => sizeOk z
  | .vldi2w _ _ _ _ z x => sizeOk z && x.globalOk 1
  | .vsti _ _ _ z => sizeOk z
  | .vsti2w _ _ _ z x => sizeOk z && x.globalOk 2
  | .spld _ _ _ z => sizeOk z
  | .spld2w _ _ _ z x => sizeOk z && x.spOk 1
  | .spst _ _ z => sizeOk z
  | .spst2w _ _ z x => sizeOk z && x.spOk 2
  | .spldx _ _ _ _ z => sizeOk z
  | .spldx2w _ _ _ _ z x => sizeOk z && x.spOk 1
  | .spstx _ _ _ z => sizeOk z
  | .spstx2w _ _ _ z x => sizeOk z && x.spOk 2
  | .atom _ _ _ c _ f lock _ => f.ok && f.lockOk lock && (f.op == 7 || c == 0)
  | .red _ _ _ f lock =>
      f.ok && f.op != 7 && (f.order == 0 || f.order == 2) && (lock == 0 || f.order == 2)
  | .spatom d _ _ c x n f nr look =>
      f.ok && (f.op == 7 || c == 0) && (x == 1 || n == 0) && (nr == 0 || (d == 0 && look == 0))
  | .satom d _ _ c f lock nr look =>
      f.ok && f.lockOk lock && (f.op == 7 || c == 0) && (nr == 0 || (d == 0 && look == 0))
  | .fence order scope => order != 0 && scopeOk scope
  | .icinv scope _ _ => 1 ≤ scope.toNat && scope.toNat ≤ 4
  | .msend _ a _ k order scope =>
      a.toNat + k.toNat ≤ 60 && (order == 0 || order == 2) && scopeOk scope
  | .mrecv d _ _ order scope _ => d.toNat ≤ 52 && (order == 0 || order == 1) && scopeOk scope
  | .wakew _ _ scope => scopeOk scope
  | .waitw _ _ _ _ order scope => (order == 0 || order == 1) && scopeOk scope
  | .cpy s t _ _ => sbaseOk s && tdestOk t
  | .ewait s => sbaseOk s
  | .epoll s t => sbaseOk s && tdestOk t
  | .mma s t _ => sbaseOk s && tdestOk t
  | .mmas s t _ => sbaseOk s && tdestOk t
  | .mmag s t _ => sbaseOk s && tdestOk t
  | .mbatch t => tdestOk t
  | .mwait s => sbaseOk s
  | .gath s t _ _ => sbaseOk s && tdestOk t
  | .scat s t _ => sbaseOk s && tdestOk t
  | .scbegin s t => sbaseOk s && tdestOk t
  | .scprobe s t _ _ _ => sbaseOk s && tdestOk t
  | .scsave s t => sbaseOk s && tdestOk t
  | .nredx s t scope => sbaseOk s && tdestOk t && 2 ≤ scope.toNat && scope.toNat ≤ 5
  | .reservedMajor w => 0x34 ≤ (w.extractLsb' 26 6).toNat
  | .sadd .. | .ssub .. | .smul .. | .smulhi .. | .smulhn .. | .sdiv .. | .sdivn .. | .srem .. | .smin ..
  | .smax .. | .sminn .. | .smaxn .. | .saddc .. | .ssubb .. | .sand .. | .sor .. | .sxor .. | .sandn ..
  | .sshl .. | .sshr .. | .ssra .. | .srot .. | .sclz .. | .spopc .. | .sbrev .. | .ssel .. | .smov ..
  | .saddImm .. | .sandImm .. | .sshlImm .. | .sshrImm .. | .ssraImm .. | .srotImm .. | .slit .. | .saddLit ..
  | .sandLit .. | .sorLit .. | .sxorLit .. | .smulLit .. | .sld .. | .sst .. | .jmp .. | .call .. | .ret ..
  | .nop | .halt | .yield .. | .ipref .. | .vadd .. | .vsub .. | .vmul .. | .vmulhi .. | .vmulhn .. | .vmin ..
  | .vmax .. | .vminn .. | .vmaxn .. | .vadds .. | .vsubs .. | .vabs .. | .vand .. | .vor .. | .vxor ..
  | .vandn .. | .vshl .. | .vshr .. | .vsra .. | .vclz .. | .vpopc .. | .vmad .. | .vmov .. | .vidx ..
  | .vbcast .. | .fadd .. | .fsub .. | .fmul .. | .fmin .. | .fmax .. | .fscale .. | .fclass .. | .hadd2Bf16 ..
  | .hadd2F16 .. | .hmul2Bf16 .. | .hmul2F16 .. | .frcp .. | .frsq .. | .fexp2 .. | .flog2 .. | .fsin ..
  | .fcos .. | .tagrd .. | .tagwr .. | .vrng .. | .zip2 .. | .zip3 .. | .zip4 .. | .unzip2 .. | .unzip3 ..
  | .unzip4 .. | .lshuf .. | .faddx .. | .fsubx .. | .fmulx .. | .dwadd .. | .dwadds .. | .dwmul ..
  | .dwmuls .. | .dwdiv .. | .dwsqrt .. | .dwnorm .. | .qswapx .. | .qswapy .. | .qswapd .. | .qbcast ..
  | .pref .. | .ifence | .promote .. | .trap .. | .bkpt .. | .rte | .rteEnd | .tsave .. | .tload ..
  | .ctxsave .. | .ctxload .. | .progress .. | .undefinedInstruction .. | .clauseStart ..
  | .instructionCacheFill .. | .loadReturn .. | .storeAccepted .. | .atomicReturn .. | .resultWrite ..
  | .releaseComplete .. | .icinvComplete .. | .promotionStart .. | .promotionSwitchDone ..
  | .demotionSwitchDone .. | .barrierLaggardQualify .. | .barrierPhaseComplete .. | .barrierWake ..
  | .groupRegistersReturn .. | .teamEnd .. | .cbitmapSet .. | .dispatcherTailRead .. | .launchRecordTake ..
  | .teamPlacement .. | .consumerRelease .. | .pinGrant .. | .accessRetryResend .. | .recallComplete ..
  | .l1LineFill .. | .l2LineFill .. | .pageWalkComplete .. | .faultRecordAnswer .. | .invalidateRange ..
  | .invalidateRangeDone .. | .compact .. | .compactDone .. | .translationRequestFail ..
  | .commandIssueResume .. | .sourceReadDone .. | .copyEngineTake .. | .cpyComplete .. | .enginePageFault ..
  | .engineFailure .. | .matrixEngineTake .. | .matrixCommandComplete .. | .gatherScatterComplete ..
  | .scsaveStart .. | .scsaveComplete .. | .scprobeComplete .. | .partialMerge .. | .roundResultSend ..
  | .nredxComplete .. | .messageDelivery .. | .wakeDelivery .. | .waitwTimeout .. | .routerPowerDown ..
  | .routerWake .. | .faultRecordRelease .. | .eventRecordRelease .. | .forcedSave .. | .preemptStatusWrite ..
  | .teamRestore .. | .tiadeRead .. | .tiadeWrite .. | .tiadeAtomic .. | .tiadeFrameDrop .. | .createContext ..
  | .destroyContext .. | .setStep .. | .preemptContext .. | .resumeContext .. | .registerWindow ..
  | .removeWindow .. | .registerLaunchQueueTable .. | .harvestRecord .. | .rosterRecord .. | .getVersion ..
  | .getCapabilities .. | .negotiateAlgorithms .. | .getMeasurements .. | .vendorHarvestRequest ..
  | .vendorRosterRequest .. | .spdmUnsupportedRequest .. | .linkAuthentication .. | .linkAuthRetry ..
  | .peerAccess .. | .peerAck .. | .linkFailure .. | .peerPathTimeout .. | .sample .. | .trialDelayExpire ..
  | .chunkCommit .. | .powerLimit .. | .coreClock .. | .routerPowerDownControl .. | .hostPortControl ..
  | .peerPortsControl .. | .samplingControl .. | .reuseHistogramControl .. | .causalTrialControl ..
  | .replayControl .. | .expertBlockWrite .. | .controlApply .. | .bootRecordClear | .moduleReset ..
  | .coreFailure .. | .clockStepDown | .coolantFlowLost | .coolantFlowRestored | .flitCrcError .. => true

end Sys2Proof
end

