-- ==== Sys2Proof/Decode.lean ====
section
/-! DEFINITION. From words to instructions and back: the formats of R55, the second words of R56 and
R57, and the map of majors and functions of R62 and R63. `decode` is total: a word that is no
instruction decodes to the row that names its fate (R64). `encode` is written from the same tables. -/

namespace Sys2Proof

/-! ### The formats (R55) -/

/-- SR: [31:26] major, [25:20] d, [19:14] a, [13:8] b, [7:0] fn. EC has the same places: kind, sbase,
ticket destination, flags. -/
def packSR (m d a b : BitVec 6) (fn : BitVec 8) : Word := m ++ d ++ a ++ b ++ fn

/-- EC: [25:20] kind, [19:14] sbase, [13:8] ticket destination, [7:0] flags. -/
def packEC (m k s t : BitVec 6) (fl : BitVec 8) : Word := m ++ k ++ s ++ t ++ fl

/-- SI and the first word of SL: [25:20] d, [19:14] a, [13:0] imm14. -/
def packSI (m d a : BitVec 6) (imm : BitVec 14) : Word := m ++ d ++ a ++ imm

/-- VR and the first word of VX: [25:19] vd, [18:12] va, [11] bs, [10:4] b, [3:0] fn. -/
def packVR (m : BitVec 6) (vd va : BitVec 7) (bs : BitVec 1) (b : BitVec 7) (fn : BitVec 4) : Word :=
  m ++ vd ++ va ++ bs ++ b ++ fn

/-- The second word of VX; an unused field is zero (R88). -/
structure XWord where
  vc : BitVec 7 := 0
  rm : BitVec 3 := 0
  sat : BitVec 1 := 0
  look : BitVec 4 := 0
  ty : BitVec 4 := 0
  fn2 : BitVec 13 := 0
  deriving DecidableEq, Repr

/-- [31:25] vc, [24:22] rm, [21] sat, [20:17] look, [16:13] type, [12:0] fn2. -/
def packX (x : XWord) : Word := x.vc ++ x.rm ++ x.sat ++ x.look ++ x.ty ++ x.fn2

/-- The fields of a VX second word. -/
def unpackX (w : Word) : XWord :=
  { vc := w.extractLsb' 25 7, rm := w.extractLsb' 22 3, sat := w.extractLsb' 21 1,
    look := w.extractLsb' 17 4, ty := w.extractLsb' 13 4, fn2 := w.extractLsb' 0 13 }

/-- ML: [25:19] vd or vs, [18:17] bt, [16:10] vo, [9:6] look, [5:3] size, [2:0] qual. -/
def packML (m : BitVec 6) (v : BitVec 7) (t : BitVec 2) (o : BitVec 7) (look : BitVec 4)
    (z q : BitVec 3) : Word := m ++ v ++ t ++ o ++ look ++ z ++ q

/-- The second word of ML: [31:8] offset, [7] zero, [6:5] hint, [4:3] order, [2:0] scope. -/
def packMLX (x : MlExt) : Word := x.off ++ 0#1 ++ x.hint ++ x.order ++ x.scope

/-- The fields of an ML second word. -/
def unpackMLX (w : Word) : MlExt :=
  { off := w.extractLsb' 8 24, hint := w.extractLsb' 5 2, order := w.extractLsb' 3 2,
    scope := w.extractLsb' 0 3 }

/-- BR: [25] U, [24:21] cond, [20:15] sc, [14:0] displacement. -/
def packBR (m : BitVec 6) (u : BitVec 1) (cond : BitVec 4) (sc : BitVec 6) (disp : BitVec 15) : Word :=
  m ++ u ++ cond ++ sc ++ disp

/-- SY: [25:20] sd, [19:8] system-register number, [7:0] fn. -/
def packSY (m d : BitVec 6) (r : BitVec 12) (fn : BitVec 8) : Word := m ++ d ++ r ++ fn

/-- The major opcode, bits [31:26] of every instruction word (R55). -/
def major (w : Word) : BitVec 6 := w.extractLsb' 26 6

/-! ### Field helpers -/

/-- The bs bit of an operand B (R55). -/
def Src.bs : Src → BitVec 1
  | .v _ => 0
  | .s _ => 1

/-- The b field of an operand B: a scalar stands in b[9:4] of the word with b[10] zero (R55). -/
def Src.num : Src → BitVec 7
  | .v r => r
  | .s r => r.setWidth 7

/-- The bs bit of a lane number (R108, R109). -/
def LaneIdx.bs : LaneIdx → BitVec 1
  | .imm _ => 0
  | .s _ => 1

/-- The b field of a lane number. -/
def LaneIdx.num : LaneIdx → BitVec 7
  | .imm _ => 0
  | .s r => r.setWidth 7

/-- fn2 of a lane number: k in fn2[6:0] when it is immediate. -/
def LaneIdx.fn2 : LaneIdx → BitVec 13
  | .imm k => k.setWidth 13
  | .s _ => 0

/-- A 7-bit field that names a scalar in [5:0]. -/
def lo6 (r : BitVec 7) : BitVec 6 := r.extractLsb' 0 6

/-- The top bit of a 7-bit field that names a scalar is zero. -/
def hi0 (r : BitVec 7) : Bool := r.extractLsb' 6 1 == 0#1

/-- An instruction whose must-be-zero fields are zero (R7). -/
def need (c : Bool) (i : Instr) : Option Instr := if c then some i else none

/-- The operand B of VR and VX: with bs = 1, b[10] of the word must be zero (R55). -/
def src (bs : BitVec 1) (b : BitVec 7) (k : Src → Option Instr) : Option Instr :=
  if bs == 0 then k (.v b) else if hi0 b then k (.s (lo6 b)) else none

/-- The lane number of LROT, LREAD and LWRITE (R108, R109). -/
def laneIdx (bs : BitVec 1) (b k7 : BitVec 7) (k : LaneIdx → Option Instr) : Option Instr :=
  if bs == 0 then (if b == 0 then k (.imm k7) else none)
  else if hi0 b then k (.s (lo6 b)) else none

/-- op, order and scope of an atomic from fn2, and its type (R224). -/
def atomOf (x : XWord) : AtomFields :=
  { op := x.fn2.extractLsb' 0 4, ty := x.ty, order := x.fn2.extractLsb' 4 2,
    scope := x.fn2.extractLsb' 6 3 }

/-- fn2 of an atomic: [12], [11], [10:9], [8:6] scope, [5:4] order, [3:0] op (R224). -/
def AtomFields.fn2 (f : AtomFields) (b12 b11 : BitVec 1) (t : BitVec 2) : BitVec 13 :=
  b12 ++ b11 ++ t ++ f.scope ++ f.order ++ f.op

/-! ### The opcode map (R62, R63) -/

/-- Majors of the SR format but 0x03. -/
def decodeSR (m d a b : BitVec 6) (fn : BitVec 8) : Option Instr :=
  match m.toNat, fn.toNat with
  | 0x01, 0 => some (.sadd d a b)
  | 0x01, 1 => some (.ssub d a b)
  | 0x01, 2 => some (.smul d a b)
  | 0x01, 3 => some (.smulhi d a b)
  | 0x01, 4 => some (.smulhn d a b)
  | 0x01, 5 => some (.sdiv d a b)
  | 0x01, 6 => some (.sdivn d a b)
  | 0x01, 7 => some (.srem d a b)
  | 0x01, 8 => some (.smin d a b)
  | 0x01, 9 => some (.smax d a b)
  | 0x01, 10 => some (.sminn d a b)
  | 0x01, 11 => some (.smaxn d a b)
  | 0x01, 12 => some (.saddc d a b)
  | 0x01, 13 => some (.ssubb d a b)
  | 0x02, 0 => some (.sand d a b)
  | 0x02, 1 => some (.sor d a b)
  | 0x02, 2 => some (.sxor d a b)
  | 0x02, 3 => some (.sandn d a b)
  | 0x02, 4 => some (.sshl d a b)
  | 0x02, 5 => some (.sshr d a b)
  | 0x02, 6 => some (.ssra d a b)
  | 0x02, 7 => some (.srot d a b)
  | 0x02, 8 => need (b == 0) (.sclz d a)
  | 0x02, 9 => need (b == 0) (.spopc d a)
  | 0x02, 10 => need (b == 0) (.sbrev d a)
  | 0x02, 11 => some (.sext d a b)
  | 0x09, 0 => need (d.toNat < 4 && b.toNat < 4) (.btset (d.setWidth 2) a (b.setWidth 2))
  | 0x09, 1 => need (a.toNat < 4) (.btget d (a.setWidth 2) b)
  | 0x0B, 0 => some (.mand d a b)
  | 0x0B, 1 => some (.mor d a b)
  | 0x0B, 2 => some (.mxor d a b)
  | 0x0B, 3 => some (.mandn d a b)
  | 0x0B, 4 => need (b == 0) (.mnot d a)
  | 0x0B, 5 => need (b == 0) (.mpopc d a)
  | 0x0B, 6 => need (b == 0) (.mfirst d a)
  | 0x0B, 7 => need (b == 0) (.msetx d a)
  | 0x0B, 8 => need (a == 0 && b == 0) (.mgetx d)
  | 0x0B, 9 => need (b == 0) (.mtest d a)
  | 0x0F, 0 => need (d == 0 && b == 0) (.bara a)
  | 0x0F, 1 => need (d == 0 && b == 0) (.barw a)
  | 0x0F, 2 => need (d == 0 && b == 0) (.baraw a)
  | 0x27, 0 => need (d == 0 && b == 0 && a.extractLsb' 5 1 == 0#1) (.fence (a.extractLsb' 3 2) (a.extractLsb' 0 3))
  | 0x27, 1 => need (d.toNat < 8) (.icinv (d.setWidth 3) a b)
  | 0x27, 2 => need (d == 0 && a == 0 && b == 0) .ifence
  | 0x2F, 0 => need (d == 0 && b == 0 && a.toNat < 2) (.promote (a.setWidth 1))
  | 0x30, 0 => some (.trap (d ++ a ++ b))
  | 0x30, 2 => some (.bkpt (d ++ a ++ b))
  | 0x30, 1 => need (d == 0 && b == 0 && a.toNat < 2) (if a == 0 then .rte else .rteEnd)
  | 0x32, 0 => need (b == 0) (.ctxsave d a)
  | 0x32, 1 => need (b == 0) (.ctxload d a)
  | 0x33, 0 => need (d == 0 && b == 0 && a.toNat < 8) (.progress (a.setWidth 3))
  | _, _ => none

/-- Major 0x03: SCMP 0x00 to 0x09, SSEL 0x40 to 0x7F, SMOV 0x80. -/
def decodeSel (d a b : BitVec 6) (fn : BitVec 8) : Option Instr :=
  if fn.extractLsb' 6 2 == 1#2 then some (.ssel d a b (fn.extractLsb' 0 6))
  else if fn.extractLsb' 4 4 == 0#4 then some (.scmp d a b (fn.extractLsb' 0 4))
  else need (fn == 0x80 && b == 0) (.smov d a)

/-- Major 0x06: shift immediates, by imm14[13:12]. -/
def decodeShiftImm (d a : BitVec 6) (imm : BitVec 14) : Option Instr :=
  let n := imm.extractLsb' 0 5
  if imm.extractLsb' 5 7 == 0#7 then
    match (imm.extractLsb' 12 2).toNat with
    | 0 => some (.sshlImm d a n)
    | 1 => some (.sshrImm d a n)
    | 2 => some (.ssraImm d a n)
    | _ => some (.srotImm d a n)
  else none

/-- Major 0x07: literals, by imm14[3:0]; SLIT's tag is imm14[7:4]. -/
def decodeLit (d a : BitVec 6) (imm : BitVec 14) (lit : Word) : Option Instr :=
  match (imm.extractLsb' 0 4).toNat with
  | 0 => need (a == 0 && imm.extractLsb' 8 6 == 0#6) (.slit d (imm.extractLsb' 4 4) lit)
  | 1 => need (imm.extractLsb' 4 10 == 0#10) (.saddLit d a lit)
  | 2 => need (imm.extractLsb' 4 10 == 0#10) (.sandLit d a lit)
  | 3 => need (imm.extractLsb' 4 10 == 0#10) (.sorLit d a lit)
  | 4 => need (imm.extractLsb' 4 10 == 0#10) (.sxorLit d a lit)
  | 5 => need (imm.extractLsb' 4 10 == 0#10) (.smulLit d a lit)
  | _ => none

/-- Major 0x08: SLD and SST, by imm14[1:0]. -/
def decodeScalarMem (d a : BitVec 6) (imm : BitVec 14) : Option Instr :=
  match (imm.extractLsb' 0 2).toNat with
  | 0 => some (.sld d a (imm.extractLsb' 6 8) (imm.extractLsb' 2 4))
  | 1 => need (imm.extractLsb' 2 4 == 0#4) (.sst d a (imm.extractLsb' 6 8))
  | _ => none

/-- Majors 0x0D and 0x0E: BR frame with cond as the function code. -/
def decodeBR (m : BitVec 6) (u : BitVec 1) (cond : BitVec 4) (sc : BitVec 6) (disp : BitVec 15) :
    Option Instr :=
  match m.toNat, cond.toNat with
  | 0x0D, 0 => need (u == 0 && sc == 0) (.jmp disp)
  | 0x0D, 1 => need (u == 0) (.call sc disp)
  | 0x0D, 2 => need (u == 0 && disp == 0) (.ret sc)
  | 0x0D, 3 => need (u == 0 && disp == 0) (.jmpi sc)
  | 0x0D, 4 => need (u == 0) (.loop sc disp)
  | 0x0E, 0 => need (u == 0 && sc == 0 && disp == 0) .nop
  | 0x0E, 1 => need (u == 0 && sc == 0 && disp == 0) .halt
  | 0x0E, 2 => need (u == 0) (.yield sc disp)
  | 0x0E, 3 => need (u == 0 && sc == 0) (.ipref disp)
  | _, _ => none

/-- Majors of the VR format. -/
def decodeVR (m : BitVec 6) (vd va : BitVec 7) (bs : BitVec 1) (b : BitVec 7) (fn : BitVec 4) :
    Option Instr :=
  match m.toNat, fn.toNat with
  | 0x10, 0 => src bs b fun s => some (.vadd vd va s)
  | 0x10, 1 => src bs b fun s => some (.vsub vd va s)
  | 0x10, 2 => src bs b fun s => some (.vmul vd va s)
  | 0x10, 3 => src bs b fun s => some (.vmulhi vd va s)
  | 0x10, 4 => src bs b fun s => some (.vmulhn vd va s)
  | 0x10, 5 => src bs b fun s => some (.vmin vd va s)
  | 0x10, 6 => src bs b fun s => some (.vmax vd va s)
  | 0x10, 7 => src bs b fun s => some (.vminn vd va s)
  | 0x10, 8 => src bs b fun s => some (.vmaxn vd va s)
  | 0x10, 9 => src bs b fun s => some (.vadds vd va s)
  | 0x10, 10 => src bs b fun s => some (.vsubs vd va s)
  | 0x10, 11 => need (bs == 0 && b == 0) (.vabs vd va)
  | 0x11, 0 => src bs b fun s => some (.vand vd va s)
  | 0x11, 1 => src bs b fun s => some (.vor vd va s)
  | 0x11, 2 => src bs b fun s => some (.vxor vd va s)
  | 0x11, 3 => src bs b fun s => some (.vandn vd va s)
  | 0x11, 4 => src bs b fun s => some (.vshl vd va s)
  | 0x11, 5 => src bs b fun s => some (.vshr vd va s)
  | 0x11, 6 => src bs b fun s => some (.vsra vd va s)
  | 0x11, 7 => need (bs == 0 && b == 0) (.vclz vd va)
  | 0x11, 8 => need (bs == 0 && b == 0) (.vpopc vd va)
  | 0x13, 0 => src bs b fun s => need (va == 0) (.vmov vd s)
  | 0x13, 1 => if bs == 0 then need (va == 0 && b == 0) (.vidx vd none) else need (va == 0 && hi0 b) (.vidx vd (some (lo6 b)))
  | 0x13, 2 => need (bs == 1 && hi0 b) (.vbcast vd va (lo6 b))
  | 0x14, 0 => src bs b fun s => some (.fadd vd va s)
  | 0x14, 1 => src bs b fun s => some (.fsub vd va s)
  | 0x14, 2 => src bs b fun s => some (.fmul vd va s)
  | 0x14, 3 => src bs b fun s => some (.fmin vd va s)
  | 0x14, 4 => src bs b fun s => some (.fmax vd va s)
  | 0x14, 5 => src bs b fun s => some (.fscale vd va s)
  | 0x14, 6 => need (bs == 0 && b == 0) (.fclass vd va)
  | 0x16, 0 => src bs b fun s => some (.hadd2Bf16 vd va s)
  | 0x16, 1 => src bs b fun s => some (.hadd2F16 vd va s)
  | 0x16, 2 => src bs b fun s => some (.hmul2Bf16 vd va s)
  | 0x16, 3 => src bs b fun s => some (.hmul2F16 vd va s)
  | 0x1B, 0 => src bs b fun s => some (.faddx vd va s)
  | 0x1B, 1 => src bs b fun s => some (.fsubx vd va s)
  | 0x1B, 2 => src bs b fun s => some (.fmulx vd va s)
  | 0x1E, 0 => need (bs == 0 && b == 0) (.qswapx vd va)
  | 0x1E, 1 => need (bs == 0 && b == 0) (.qswapy vd va)
  | 0x1E, 2 => need (bs == 0 && b == 0) (.qswapd vd va)
  | 0x1E, 3 => need (bs == 0 && b.toNat < 4) (.qbcast vd va (b.setWidth 2))
  | 0x31, 0 => need (va == 0 && bs == 0 && b.toNat < 16) (.tsave vd (b.setWidth 4))
  | 0x31, 1 => need (va == 0 && bs == 0 && b.toNat < 16) (.tload vd (b.setWidth 4))
  | _, _ => none

/-- Majors of the VX format. -/
def decodeVX (m : BitVec 6) (vd va : BitVec 7) (bs : BitVec 1) (b : BitVec 7) (fn : BitVec 4)
    (x : XWord) : Option Instr :=
  match m.toNat, fn.toNat with
  | 0x12, 0 => src bs b fun s => need (x == {vc := x.vc}) (.vmad vd va s x.vc)
  | 0x12, 1 => src bs b fun s => need (x == {vc := (lo6 x.vc).setWidth 7}) (.vsel vd va s (lo6 x.vc))
  | 0x12, 2 => src bs b fun s => need (hi0 vd && x == {fn2 := (x.fn2.extractLsb' 0 4).setWidth 13}) (.vcmp (lo6 vd) va s (x.fn2.extractLsb' 0 4))
  | 0x15, 0 => src bs b fun s => need (x == {vc := x.vc, rm := x.rm}) (.ffma vd va s x.vc x.rm)
  | 0x15, 1 => src bs b fun s => need (hi0 vd && x == {fn2 := (x.fn2.extractLsb' 0 4).setWidth 13}) (.fcmp (lo6 vd) va s (x.fn2.extractLsb' 0 4))
  | 0x15, 2 => need (bs == 0 && b == 0 && x == {rm := x.rm}) (.frnd vd va x.rm)
  | 0x15, 3 => src bs b fun s => need (x == {rm := x.rm}) (.faddRm vd va s x.rm)
  | 0x15, 4 => src bs b fun s => need (x == {rm := x.rm}) (.fsubRm vd va s x.rm)
  | 0x15, 5 => src bs b fun s => need (x == {rm := x.rm}) (.fmulRm vd va s x.rm)
  | 0x17, 0 => src bs b fun s => need (x == {vc := x.vc, rm := x.rm, ty := x.ty}) (.hfma2 vd va s x.vc x.rm x.ty)
  | 0x17, 1 => src bs b fun s => need (x == {rm := x.rm, ty := x.ty}) (.hadd2 vd va s x.rm x.ty)
  | 0x17, 2 => src bs b fun s => need (x == {rm := x.rm, ty := x.ty}) (.hmul2 vd va s x.rm x.ty)
  | 0x18, 0 => need (bs == 0 && b == 0 && x == {look := x.look}) (.frcp vd va x.look)
  | 0x18, 1 => need (bs == 0 && b == 0 && x == {look := x.look}) (.frsq vd va x.look)
  | 0x18, 4 => need (bs == 0 && b == 0 && x == {look := x.look}) (.fexp2 vd va x.look)
  | 0x18, 5 => need (bs == 0 && b == 0 && x == {look := x.look}) (.flog2 vd va x.look)
  | 0x18, 6 => need (bs == 0 && b == 0 && x == {look := x.look}) (.fsin vd va x.look)
  | 0x18, 7 => need (bs == 0 && b == 0 && x == {look := x.look}) (.fcos vd va x.look)
  | 0x18, 2 => need (bs == 0 && b == 0 && x == {rm := x.rm, look := x.look}) (.fsqrt vd va x.rm x.look)
  | 0x18, 3 => src bs b fun s => need (x == {rm := x.rm, look := x.look}) (.fdiv vd va s x.rm x.look)
  | 0x19, 0 => need (bs == 0 && b == 0 && x == {rm := x.rm, sat := x.sat, ty := x.ty, fn2 := 0#5 ++ (x.fn2.extractLsb' 6 2) ++ (x.fn2.extractLsb' 4 2) ++ (x.fn2.extractLsb' 0 4)}) (.cvt vd va x.ty (x.fn2.extractLsb' 0 4) x.rm x.sat (x.fn2.extractLsb' 4 2) (x.fn2.extractLsb' 6 2))
  | 0x19, 1 => need (bs == 0 && b == 0 && x == {sat := x.sat, ty := x.ty, fn2 := 0#5 ++ (x.fn2.extractLsb' 6 2) ++ 0#2 ++ 7#4}) (.cvtsr vd va x.ty x.sat (x.fn2.extractLsb' 6 2))
  | 0x19, 2 => src bs b fun s => need (x == {ty := x.ty}) (.pack2 vd va s x.ty)
  | 0x19, 3 => need (bs == 0 && b == 0 && x == {ty := x.ty, fn2 := (x.fn2.extractLsb' 0 1).setWidth 13}) (.unpack2 vd va x.ty (x.fn2.extractLsb' 0 1))
  | 0x19, 4 => need (bs == 0 && x == {ty := x.ty}) (.pack4 vd va b x.ty)
  | 0x19, 5 => need (bs == 0 && b == 0 && x == {ty := x.ty, fn2 := (x.fn2.extractLsb' 0 2).setWidth 13}) (.unpack4 vd va x.ty (x.fn2.extractLsb' 0 2))
  | 0x19, 6 => if bs == 0 then need (hi0 vd && b == 0 && x == {}) (.tagrd (lo6 vd) (.v va)) else need (hi0 vd && va == 0 && hi0 b && x == {}) (.tagrd (lo6 vd) (.s (lo6 b)))
  | 0x19, 7 => if x.fn2.extractLsb' 4 1 == 0#1 then need (va == 0 && bs == 0 && b == 0 && x == {fn2 := (x.fn2.extractLsb' 0 4).setWidth 13}) (.tagwr (.v vd) (x.fn2.extractLsb' 0 4)) else need (hi0 vd && va == 0 && bs == 0 && b == 0 && x == {fn2 := 0#8 ++ 1#1 ++ (x.fn2.extractLsb' 0 4)}) (.tagwr (.s (lo6 vd)) (x.fn2.extractLsb' 0 4))
  | 0x19, 8 => need (va == 0 && bs == 0 && b == 0 && x == {}) (.vrng vd)
  | 0x1A, 0 => need (bs == 0 && b == 0 && x == {}) (.zip2 vd va)
  | 0x1A, 1 => need (bs == 0 && b == 0 && x == {}) (.zip3 vd va)
  | 0x1A, 2 => need (bs == 0 && b == 0 && x == {}) (.zip4 vd va)
  | 0x1A, 3 => need (bs == 0 && b == 0 && x == {}) (.unzip2 vd va)
  | 0x1A, 4 => need (bs == 0 && b == 0 && x == {}) (.unzip3 vd va)
  | 0x1A, 5 => need (bs == 0 && b == 0 && x == {}) (.unzip4 vd va)
  | 0x1A, 6 => src bs b fun s => need (x == {}) (.lshuf vd va s)
  | 0x1A, 7 => laneIdx bs b (x.fn2.extractLsb' 0 7) fun k => need (x == {fn2 := k.fn2}) (.lrot vd va k)
  | 0x1A, 8 => laneIdx bs b (x.fn2.extractLsb' 0 7) fun k => need (hi0 vd && x == {look := x.look, fn2 := k.fn2}) (.lread (lo6 vd) va k x.look)
  | 0x1A, 9 => laneIdx bs b (x.fn2.extractLsb' 0 7) fun k => need (hi0 va && x == {fn2 := k.fn2}) (.lwrite vd (lo6 va) k)
  | 0x1C, 0 => src bs b fun s => need (x == {}) (.dwadd vd va s)
  | 0x1C, 1 => src bs b fun s => need (x == {}) (.dwadds vd va s)
  | 0x1C, 2 => src bs b fun s => need (x == {}) (.dwmul vd va s)
  | 0x1C, 3 => src bs b fun s => need (x == {}) (.dwmuls vd va s)
  | 0x1C, 4 => src bs b fun s => need (x == {look := x.look}) (.dwdiv vd va s x.look)
  | 0x1C, 5 => need (bs == 0 && b == 0 && x == {look := x.look}) (.dwsqrt vd va x.look)
  | 0x1C, 6 => need (bs == 0 && b == 0 && x == {}) (.dwnorm vd va)
  | 0x1C, 7 => need (bs == 0 && b == 0 && x == {rm := x.rm, ty := x.ty, fn2 := (x.fn2.extractLsb' 0 1).setWidth 13}) (.dwcvt vd va (x.fn2.extractLsb' 0 1) x.ty x.rm)
  | 0x1C, 8 => src bs b fun s => need (hi0 vd && x == {fn2 := (x.fn2.extractLsb' 0 4).setWidth 13}) (.dwcmp (lo6 vd) va s (x.fn2.extractLsb' 0 4))
  | 0x1D, 0 => need (hi0 vd && bs == 0 && b == 0 && x == {vc := (lo6 x.vc).setWidth 7, look := x.look, fn2 := (x.fn2.extractLsb' 0 1).setWidth 13}) (.creduce (lo6 vd) va (lo6 x.vc) (x.fn2.extractLsb' 0 1) x.look)
  | 0x1D, 1 => need (bs == 0 && b == 0 && x == {vc := (lo6 x.vc).setWidth 7, look := x.look, fn2 := (x.fn2.extractLsb' 0 1).setWidth 13}) (.credseg vd va (lo6 x.vc) (x.fn2.extractLsb' 0 1) x.look)
  | 0x1F, 0 => need (hi0 vd && bs == 0 && b == 0 && x == {vc := (lo6 x.vc).setWidth 7, rm := x.rm, sat := x.sat, look := x.look, ty := x.ty, fn2 := (x.fn2.extractLsb' 0 3).setWidth 13}) (.greduce (lo6 vd) va (lo6 x.vc) (x.fn2.extractLsb' 0 3) x.ty x.rm x.sat x.look)
  | 0x1F, 1 => need (bs == 0 && b == 0 && x == {rm := x.rm, sat := x.sat, look := x.look, ty := x.ty, fn2 := 0#9 ++ (x.fn2.extractLsb' 3 1) ++ (x.fn2.extractLsb' 0 3)}) (.gscan vd va (x.fn2.extractLsb' 0 3) (x.fn2.extractLsb' 3 1) x.ty x.rm x.sat x.look)
  | 0x1F, 2 => need (bs == 0 && b == 0 && x == {vc := (lo6 x.vc).setWidth 7, rm := x.rm, sat := x.sat, look := x.look, ty := x.ty, fn2 := (x.fn2.extractLsb' 0 3).setWidth 13}) (.gsegred vd va (lo6 x.vc) (x.fn2.extractLsb' 0 3) x.ty x.rm x.sat x.look)
  | 0x1F, 3 => need (bs == 0 && b == 0 && x == {look := x.look, fn2 := (x.fn2.extractLsb' 0 2).setWidth 13}) (.gmatch vd va (x.fn2.extractLsb' 0 2) x.look)
  | 0x25, 0 => src bs b fun s => need (x == {vc := x.vc, look := x.look, ty := x.ty, fn2 := (atomOf x).fn2 0 (x.fn2.extractLsb' 11 1) (x.fn2.extractLsb' 9 2)}) (.atom vd va s x.vc (x.fn2.extractLsb' 9 2) (atomOf x) (x.fn2.extractLsb' 11 1) x.look)
  | 0x25, 1 => src bs b fun s => need (vd == 0 && x == {ty := x.ty, fn2 := (atomOf x).fn2 0 (x.fn2.extractLsb' 11 1) (x.fn2.extractLsb' 9 2)}) (.red va s (x.fn2.extractLsb' 9 2) (atomOf x) (x.fn2.extractLsb' 11 1))
  | 0x26, 0 => src bs b fun s => need (x == {vc := x.vc, look := x.look, ty := x.ty, fn2 := (atomOf x).fn2 (x.fn2.extractLsb' 12 1) (x.fn2.extractLsb' 11 1) (x.fn2.extractLsb' 9 2)}) (.spatom vd va s x.vc (x.fn2.extractLsb' 11 1) (x.fn2.extractLsb' 9 2) (atomOf x) (x.fn2.extractLsb' 12 1) x.look)
  | 0x26, 1 => need (hi0 vd && hi0 va && bs == 0 && hi0 b && x == {vc := (lo6 x.vc).setWidth 7, look := x.look, ty := x.ty, fn2 := (atomOf x).fn2 (x.fn2.extractLsb' 12 1) (x.fn2.extractLsb' 11 1) 0}) (.satom (lo6 vd) (lo6 va) (lo6 b) (lo6 x.vc) (atomOf x) (x.fn2.extractLsb' 11 1) (x.fn2.extractLsb' 12 1) x.look)
  | 0x29, 0 => need (vd.toNat < 8 && hi0 va && bs == 0 && hi0 b && x == {fn2 := 0#4 ++ (x.fn2.extractLsb' 6 3) ++ (x.fn2.extractLsb' 4 2) ++ 0#1 ++ (x.fn2.extractLsb' 0 3)}) (.msend (vd.setWidth 3) (lo6 va) (lo6 b) (x.fn2.extractLsb' 0 3) (x.fn2.extractLsb' 4 2) (x.fn2.extractLsb' 6 3))
  | 0x29, 1 => need (hi0 vd && va == 0 && bs == 0 && b == 0 && x == {look := x.look, fn2 := (x.fn2.extractLsb' 12 1) ++ 0#3 ++ (x.fn2.extractLsb' 6 3) ++ (x.fn2.extractLsb' 4 2) ++ 0#1 ++ (x.fn2.extractLsb' 0 3)}) (.mrecv (lo6 vd) (x.fn2.extractLsb' 0 3) (x.fn2.extractLsb' 12 1) (x.fn2.extractLsb' 4 2) (x.fn2.extractLsb' 6 3) x.look)
  | 0x29, 2 => need (vd == 0 && hi0 va && bs == 0 && hi0 b && x == {fn2 := 0#4 ++ (x.fn2.extractLsb' 6 3) ++ 0#6}) (.wakew (lo6 va) (lo6 b) (x.fn2.extractLsb' 6 3))
  | 0x29, 3 => need (hi0 vd && hi0 va && bs == 0 && hi0 b && x == {vc := (lo6 x.vc).setWidth 7, fn2 := 0#4 ++ (x.fn2.extractLsb' 6 3) ++ (x.fn2.extractLsb' 4 2) ++ 0#4}) (.waitw (lo6 vd) (lo6 va) (lo6 b) (lo6 x.vc) (x.fn2.extractLsb' 4 2) (x.fn2.extractLsb' 6 3))
  | _, _ => none

/-- Majors of the ML format without a second word, by qual[1:0]. -/
def decodeML (m : BitVec 6) (v : BitVec 7) (t : BitVec 2) (o : BitVec 7) (look : BitVec 4)
    (z : BitVec 3) (q : BitVec 2) : Option Instr :=
  match m.toNat, q.toNat with
  | 0x20, 0 =>
    if z == 7 then need (v == 0 && look == 0) (.pref t o) else some (.vld v t o look z)
  | 0x21, 0 => need (t == 0) (.vldp v o look z)
  | 0x21, 1 => need (t == 0 && look == 0) (.vstp v o z)
  | 0x22, 0 => some (.vldi v t o look z)
  | 0x22, 1 => need (look == 0) (.vsti v t o z)
  | 0x23, 0 => need (t == 0) (.spld v o look z)
  | 0x23, 1 => need (t == 0 && look == 0) (.spst v o z)
  | 0x24, 0 => some (.spldx v t o look z)
  | 0x24, 1 => need (look == 0) (.spstx v t o z)
  | 0x20, 1 => need (look == 0) (.vst v t o z)
  | 0x20, 2 => need (hi0 o) (.vlds v t (lo6 o) look z)
  | 0x20, 3 => need (hi0 o && look == 0) (.vsts v t (lo6 o) z)
  | _, _ => none

/-- Majors of the ML format with a second word. -/
def decodeMLX (m : BitVec 6) (v : BitVec 7) (t : BitVec 2) (o : BitVec 7) (look : BitVec 4)
    (z : BitVec 3) (q : BitVec 2) (x : MlExt) : Option Instr :=
  match m.toNat, q.toNat with
  | 0x20, 0 =>
    if z == 7 then need (v == 0 && look == 0) (.pref2w t o x) else some (.vld2w v t o look z x)
  | 0x21, 0 => need (t == 0) (.vldp2w v o look z x)
  | 0x21, 1 => need (t == 0 && look == 0) (.vstp2w v o z x)
  | 0x22, 0 => some (.vldi2w v t o look z x)
  | 0x22, 1 => need (look == 0) (.vsti2w v t o z x)
  | 0x23, 0 => need (t == 0) (.spld2w v o look z x)
  | 0x23, 1 => need (t == 0 && look == 0) (.spst2w v o z x)
  | 0x24, 0 => some (.spldx2w v t o look z x)
  | 0x24, 1 => need (look == 0) (.spstx2w v t o z x)
  | 0x20, 1 => need (look == 0) (.vst2w v t o z x)
  | 0x20, 2 => need (hi0 o) (.vlds2w v t (lo6 o) look z x)
  | 0x20, 3 => need (hi0 o && look == 0) (.vsts2w v t (lo6 o) z x)
  | _, _ => none

/-- Majors of the EC format. -/
def decodeEC (m k s t : BitVec 6) (fl : BitVec 8) : Option Instr :=
  match m.toNat, k.toNat with
  | 0x2A, 0 => need (fl.toNat < 4) (.cpy s t (fl.extractLsb' 1 1) (fl.extractLsb' 0 1))
  | 0x2A, 1 => need (t == 0 && fl == 0) (.ewait s)
  | 0x2A, 2 => need (fl == 0) (.epoll s t)
  | 0x2B, 0 => need (fl.toNat < 2) (.mma s t (fl.extractLsb' 0 1))
  | 0x2B, 1 => need (fl.toNat < 2) (.mmas s t (fl.extractLsb' 0 1))
  | 0x2B, 2 => need (fl.toNat < 2) (.mmag s t (fl.extractLsb' 0 1))
  | 0x2B, 3 => need (s == 0 && fl == 0) (.mbatch t)
  | 0x2B, 4 => need (t == 0 && fl == 0) (.mwait s)
  | 0x2C, 0 => need (fl.toNat < 4) (.gath s t (fl.extractLsb' 1 1) (fl.extractLsb' 0 1))
  | 0x2C, 1 => need (fl.toNat < 2) (.scat s t (fl.extractLsb' 0 1))
  | 0x2D, 0 => need (fl == 0) (.scbegin s t)
  | 0x2D, 1 => need (fl.toNat < 8) (.scprobe s t (fl.extractLsb' 2 1) (fl.extractLsb' 1 1) (fl.extractLsb' 0 1))
  | 0x2D, 2 => need (fl == 0) (.scsave s t)
  | 0x2E, 0 => need (fl.toNat < 8) (.nredx s t (fl.extractLsb' 0 3))
  | _, _ => none

/-- The formats by major (R62). -/
inductive Format where
  | none | sr | sel | si | shift | lit | smem | sy | br | brf | vr | vx | ml | ec
  deriving DecidableEq, Repr

/-- The format that a major fixes (R62); none for 0x00, 0x28 and 0x34 to 0x3F. -/
def formatOf (m : BitVec 6) : Format :=
  match m.toNat with
  | 0x01 => .sr | 0x02 => .sr | 0x03 => .sel | 0x04 => .si | 0x05 => .si | 0x06 => .shift
  | 0x07 => .lit | 0x08 => .smem | 0x09 => .sr | 0x0A => .sy | 0x0B => .sr | 0x0C => .br
  | 0x0D => .brf | 0x0E => .brf | 0x0F => .sr | 0x10 => .vr | 0x11 => .vr | 0x12 => .vx
  | 0x13 => .vr | 0x14 => .vr | 0x15 => .vx | 0x16 => .vr | 0x17 => .vx | 0x18 => .vx
  | 0x19 => .vx | 0x1A => .vx | 0x1B => .vr | 0x1C => .vx | 0x1D => .vx | 0x1E => .vr
  | 0x1F => .vx | 0x20 => .ml | 0x21 => .ml | 0x22 => .ml | 0x23 => .ml | 0x24 => .ml
  | 0x25 => .vx | 0x26 => .vx | 0x27 => .sr | 0x29 => .vx | 0x2A => .ec | 0x2B => .ec
  | 0x2C => .ec | 0x2D => .ec | 0x2E => .ec | 0x2F => .sr | 0x30 => .sr | 0x31 => .vr
  | 0x32 => .sr | 0x33 => .sr
  | _ => .none

/-- Whether the word is the first of two: SL, VX, and ML with qual[2] = 1 (R55, R57). A word that is no
instruction is one word (R64). -/
def twoWords (w : Word) : Bool :=
  match formatOf (major w) with
  | .lit => true
  | .vx => true
  | .ml => w.extractLsb' 2 1 == 1#1
  | _ => false

/-- The instruction whose fields the words hold; none where a code is unassigned or a must-be-zero bit
is set. -/
def decodeFields (w x : Word) : Option Instr :=
  let m := major w
  let d6 := w.extractLsb' 20 6
  let a6 := w.extractLsb' 14 6
  let b6 := w.extractLsb' 8 6
  let lo8 := w.extractLsb' 0 8
  let imm := w.extractLsb' 0 14
  let u := w.extractLsb' 25 1
  let cond := w.extractLsb' 21 4
  let sc := w.extractLsb' 15 6
  let disp := w.extractLsb' 0 15
  let vd := w.extractLsb' 19 7
  let va := w.extractLsb' 12 7
  let bs := w.extractLsb' 11 1
  let vb := w.extractLsb' 4 7
  let fn := w.extractLsb' 0 4
  match formatOf m with
  | .none => none
  | .sr => decodeSR m d6 a6 b6 lo8
  | .sel => decodeSel d6 a6 b6 lo8
  | .si => if m == 0x04 then some (.saddImm d6 a6 imm) else some (.sandImm d6 a6 imm)
  | .shift => decodeShiftImm d6 a6 imm
  | .lit => decodeLit d6 a6 imm x
  | .smem => decodeScalarMem d6 a6 imm
  | .sy =>
    if lo8 == 0 then some (.srd d6 (w.extractLsb' 8 12))
    else need (lo8 == 1) (.swr d6 (w.extractLsb' 8 12))
  | .br => some (.br u cond sc disp)
  | .brf => decodeBR m u cond sc disp
  | .vr => decodeVR m vd va bs vb fn
  | .vx => decodeVX m vd va bs vb fn (unpackX x)
  | .ml =>
    let t := w.extractLsb' 17 2
    let o := w.extractLsb' 10 7
    let look := w.extractLsb' 6 4
    let z := w.extractLsb' 3 3
    let q := w.extractLsb' 0 2
    if w.extractLsb' 2 1 == 0#1 then decodeML m vd t o look z q
    else if x.extractLsb' 7 1 == 0#1 then decodeMLX m vd t o look z q (unpackMLX x)
    else none
  | .ec => decodeEC m d6 a6 b6 lo8

/-- The instruction that word w begins, with x the word after it in the clause. It is total: a major
from 0x34 is RESERVED_MAJOR, and every other word that is no well-formed instruction is
UNDEFINED_INSTRUCTION (R64). -/
def decode (w x : Word) : Instr :=
  match decodeFields w x with
  | some i => if i.wf then i else .undefinedInstruction w
  | none => if 0x34 ≤ (major w).toNat then .reservedMajor w else .undefinedInstruction w

/-- The words of a well-formed instruction, from the same tables (R55 to R63). The device's other steps
are no instructions and have none. -/
def encode : Instr → List Word
  | .sadd d a b => [packSR 0x01 d a b 0x00]
  | .ssub d a b => [packSR 0x01 d a b 0x01]
  | .smul d a b => [packSR 0x01 d a b 0x02]
  | .smulhi d a b => [packSR 0x01 d a b 0x03]
  | .smulhn d a b => [packSR 0x01 d a b 0x04]
  | .sdiv d a b => [packSR 0x01 d a b 0x05]
  | .sdivn d a b => [packSR 0x01 d a b 0x06]
  | .srem d a b => [packSR 0x01 d a b 0x07]
  | .smin d a b => [packSR 0x01 d a b 0x08]
  | .smax d a b => [packSR 0x01 d a b 0x09]
  | .sminn d a b => [packSR 0x01 d a b 0x0A]
  | .smaxn d a b => [packSR 0x01 d a b 0x0B]
  | .saddc d a b => [packSR 0x01 d a b 0x0C]
  | .ssubb d a b => [packSR 0x01 d a b 0x0D]
  | .sand d a b => [packSR 0x02 d a b 0x00]
  | .sor d a b => [packSR 0x02 d a b 0x01]
  | .sxor d a b => [packSR 0x02 d a b 0x02]
  | .sandn d a b => [packSR 0x02 d a b 0x03]
  | .sshl d a b => [packSR 0x02 d a b 0x04]
  | .sshr d a b => [packSR 0x02 d a b 0x05]
  | .ssra d a b => [packSR 0x02 d a b 0x06]
  | .srot d a b => [packSR 0x02 d a b 0x07]
  | .sclz d a => [packSR 0x02 d a 0 0x08]
  | .spopc d a => [packSR 0x02 d a 0 0x09]
  | .sbrev d a => [packSR 0x02 d a 0 0x0A]
  | .sext d a n => [packSR 0x02 d a n 0x0B]
  | .scmp d a b cc => [packSR 0x03 d a b (0#4 ++ cc)]
  | .ssel d a b c => [packSR 0x03 d a b (1#2 ++ c)]
  | .smov d a => [packSR 0x03 d a 0 0x80]
  | .saddImm d a imm => [packSI 0x04 d a imm]
  | .sandImm d a imm => [packSI 0x05 d a imm]
  | .sshlImm d a n => [packSI 0x06 d a (0#2 ++ 0#7 ++ n)]
  | .sshrImm d a n => [packSI 0x06 d a (1#2 ++ 0#7 ++ n)]
  | .ssraImm d a n => [packSI 0x06 d a (2#2 ++ 0#7 ++ n)]
  | .srotImm d a n => [packSI 0x06 d a (3#2 ++ 0#7 ++ n)]
  | .slit d tag lit => [packSI 0x07 d 0 (0#6 ++ tag ++ 0#4), lit]
  | .saddLit d a lit => [packSI 0x07 d a 1, lit]
  | .sandLit d a lit => [packSI 0x07 d a 2, lit]
  | .sorLit d a lit => [packSI 0x07 d a 3, lit]
  | .sxorLit d a lit => [packSI 0x07 d a 4, lit]
  | .smulLit d a lit => [packSI 0x07 d a 5, lit]
  | .sld d a off look => [packSI 0x08 d a (off ++ look ++ 0#2)]
  | .sst d a off => [packSI 0x08 d a (off ++ 0#4 ++ 1#2)]
  | .btset n a perm => [packSR 0x09 (n.setWidth 6) a (perm.setWidth 6) 0x00]
  | .btget d n sel => [packSR 0x09 d (n.setWidth 6) sel 0x01]
  | .srd d r => [packSY 0x0A d r 0x00]
  | .swr d r => [packSY 0x0A d r 0x01]
  | .mand d a b => [packSR 0x0B d a b 0x00]
  | .mor d a b => [packSR 0x0B d a b 0x01]
  | .mxor d a b => [packSR 0x0B d a b 0x02]
  | .mandn d a b => [packSR 0x0B d a b 0x03]
  | .mnot d a => [packSR 0x0B d a 0 0x04]
  | .mpopc d a => [packSR 0x0B d a 0 0x05]
  | .mfirst d a => [packSR 0x0B d a 0 0x06]
  | .msetx d a => [packSR 0x0B d a 0 0x07]
  | .mgetx d => [packSR 0x0B d 0 0 0x08]
  | .mtest d a => [packSR 0x0B d a 0 0x09]
  | .br u cond sc disp => [packBR 0x0C u cond sc disp]
  | .jmp disp => [packBR 0x0D 0 0 0 disp]
  | .call sc disp => [packBR 0x0D 0 1 sc disp]
  | .ret sc => [packBR 0x0D 0 2 sc 0]
  | .jmpi sc => [packBR 0x0D 0 3 sc 0]
  | .loop sc disp => [packBR 0x0D 0 4 sc disp]
  | .nop => [packBR 0x0E 0 0 0 0]
  | .halt => [packBR 0x0E 0 1 0 0]
  | .yield sc disp => [packBR 0x0E 0 2 sc disp]
  | .ipref disp => [packBR 0x0E 0 3 0 disp]
  | .bara n => [packSR 0x0F 0 n 0 0x00]
  | .barw n => [packSR 0x0F 0 n 0 0x01]
  | .baraw n => [packSR 0x0F 0 n 0 0x02]
  | .vadd d a b => [packVR 0x10 d a b.bs b.num 0]
  | .vsub d a b => [packVR 0x10 d a b.bs b.num 1]
  | .vmul d a b => [packVR 0x10 d a b.bs b.num 2]
  | .vmulhi d a b => [packVR 0x10 d a b.bs b.num 3]
  | .vmulhn d a b => [packVR 0x10 d a b.bs b.num 4]
  | .vmin d a b => [packVR 0x10 d a b.bs b.num 5]
  | .vmax d a b => [packVR 0x10 d a b.bs b.num 6]
  | .vminn d a b => [packVR 0x10 d a b.bs b.num 7]
  | .vmaxn d a b => [packVR 0x10 d a b.bs b.num 8]
  | .vadds d a b => [packVR 0x10 d a b.bs b.num 9]
  | .vsubs d a b => [packVR 0x10 d a b.bs b.num 10]
  | .vabs d a => [packVR 0x10 d a 0 0 11]
  | .vand d a b => [packVR 0x11 d a b.bs b.num 0]
  | .vor d a b => [packVR 0x11 d a b.bs b.num 1]
  | .vxor d a b => [packVR 0x11 d a b.bs b.num 2]
  | .vandn d a b => [packVR 0x11 d a b.bs b.num 3]
  | .vshl d a b => [packVR 0x11 d a b.bs b.num 4]
  | .vshr d a b => [packVR 0x11 d a b.bs b.num 5]
  | .vsra d a b => [packVR 0x11 d a b.bs b.num 6]
  | .vclz d a => [packVR 0x11 d a 0 0 7]
  | .vpopc d a => [packVR 0x11 d a 0 0 8]
  | .vmad d a b c => [packVR 0x12 d a b.bs b.num 0, packX { vc := c }]
  | .vsel d a b c => [packVR 0x12 d a b.bs b.num 1, packX { vc := c.setWidth 7 }]
  | .vcmp d a b cc => [packVR 0x12 (d.setWidth 7) a b.bs b.num 2, packX { fn2 := cc.setWidth 13 }]
  | .vmov d b => [packVR 0x13 d 0 b.bs b.num 0]
  | .vidx d none => [packVR 0x13 d 0 0 0 1]
  | .vidx d (some b) => [packVR 0x13 d 0 1 (b.setWidth 7) 1]
  | .vbcast d a b => [packVR 0x13 d a 1 (b.setWidth 7) 2]
  | .fadd d a b => [packVR 0x14 d a b.bs b.num 0]
  | .fsub d a b => [packVR 0x14 d a b.bs b.num 1]
  | .fmul d a b => [packVR 0x14 d a b.bs b.num 2]
  | .fmin d a b => [packVR 0x14 d a b.bs b.num 3]
  | .fmax d a b => [packVR 0x14 d a b.bs b.num 4]
  | .fscale d a b => [packVR 0x14 d a b.bs b.num 5]
  | .fclass d a => [packVR 0x14 d a 0 0 6]
  | .ffma d a b c rm => [packVR 0x15 d a b.bs b.num 0, packX { vc := c, rm := rm }]
  | .fcmp d a b cc => [packVR 0x15 (d.setWidth 7) a b.bs b.num 1, packX { fn2 := cc.setWidth 13 }]
  | .frnd d a rm => [packVR 0x15 d a 0 0 2, packX { rm := rm }]
  | .faddRm d a b rm => [packVR 0x15 d a b.bs b.num 3, packX { rm := rm }]
  | .fsubRm d a b rm => [packVR 0x15 d a b.bs b.num 4, packX { rm := rm }]
  | .fmulRm d a b rm => [packVR 0x15 d a b.bs b.num 5, packX { rm := rm }]
  | .hadd2Bf16 d a b => [packVR 0x16 d a b.bs b.num 0]
  | .hadd2F16 d a b => [packVR 0x16 d a b.bs b.num 1]
  | .hmul2Bf16 d a b => [packVR 0x16 d a b.bs b.num 2]
  | .hmul2F16 d a b => [packVR 0x16 d a b.bs b.num 3]
  | .hfma2 d a b c rm ty => [packVR 0x17 d a b.bs b.num 0, packX { vc := c, rm := rm, ty := ty }]
  | .hadd2 d a b rm ty => [packVR 0x17 d a b.bs b.num 1, packX { rm := rm, ty := ty }]
  | .hmul2 d a b rm ty => [packVR 0x17 d a b.bs b.num 2, packX { rm := rm, ty := ty }]
  | .frcp d a look => [packVR 0x18 d a 0 0 0, packX { look := look }]
  | .frsq d a look => [packVR 0x18 d a 0 0 1, packX { look := look }]
  | .fexp2 d a look => [packVR 0x18 d a 0 0 4, packX { look := look }]
  | .flog2 d a look => [packVR 0x18 d a 0 0 5, packX { look := look }]
  | .fsin d a look => [packVR 0x18 d a 0 0 6, packX { look := look }]
  | .fcos d a look => [packVR 0x18 d a 0 0 7, packX { look := look }]
  | .fsqrt d a rm look => [packVR 0x18 d a 0 0 2, packX { rm := rm, look := look }]
  | .fdiv d a b rm look => [packVR 0x18 d a b.bs b.num 3, packX { rm := rm, look := look }]
  | .cvt d a t s rm sat i j => [packVR 0x19 d a 0 0 0, packX { rm := rm, sat := sat, ty := t, fn2 := 0#5 ++ j ++ i ++ s }]
  | .cvtsr d a t sat j => [packVR 0x19 d a 0 0 1, packX { sat := sat, ty := t, fn2 := 0#5 ++ j ++ 0#2 ++ 7#4 }]
  | .pack2 d a b ty => [packVR 0x19 d a b.bs b.num 2, packX { ty := ty }]
  | .unpack2 d a ty h => [packVR 0x19 d a 0 0 3, packX { ty := ty, fn2 := h.setWidth 13 }]
  | .pack4 d a b ty => [packVR 0x19 d a 0 b 4, packX { ty := ty }]
  | .unpack4 d a ty k => [packVR 0x19 d a 0 0 5, packX { ty := ty, fn2 := k.setWidth 13 }]
  | .tagrd d (.v a) => [packVR 0x19 (d.setWidth 7) a 0 0 6, packX {}]
  | .tagrd d (.s b) => [packVR 0x19 (d.setWidth 7) 0 1 (b.setWidth 7) 6, packX {}]
  | .tagwr (.v d) tag => [packVR 0x19 d 0 0 0 7, packX { fn2 := tag.setWidth 13 }]
  | .tagwr (.s d) tag => [packVR 0x19 (d.setWidth 7) 0 0 0 7, packX { fn2 := 0#8 ++ 1#1 ++ tag }]
  | .vrng d => [packVR 0x19 d 0 0 0 8, packX {}]
  | .zip2 d a => [packVR 0x1A d a 0 0 0, packX {}]
  | .zip3 d a => [packVR 0x1A d a 0 0 1, packX {}]
  | .zip4 d a => [packVR 0x1A d a 0 0 2, packX {}]
  | .unzip2 d a => [packVR 0x1A d a 0 0 3, packX {}]
  | .unzip3 d a => [packVR 0x1A d a 0 0 4, packX {}]
  | .unzip4 d a => [packVR 0x1A d a 0 0 5, packX {}]
  | .lshuf d a b => [packVR 0x1A d a b.bs b.num 6, packX {}]
  | .lrot d a k => [packVR 0x1A d a k.bs k.num 7, packX { fn2 := k.fn2 }]
  | .lread d a k look => [packVR 0x1A (d.setWidth 7) a k.bs k.num 8, packX { look := look, fn2 := k.fn2 }]
  | .lwrite d a k => [packVR 0x1A d (a.setWidth 7) k.bs k.num 9, packX { fn2 := k.fn2 }]
  | .faddx d a b => [packVR 0x1B d a b.bs b.num 0]
  | .fsubx d a b => [packVR 0x1B d a b.bs b.num 1]
  | .fmulx d a b => [packVR 0x1B d a b.bs b.num 2]
  | .dwadd d a b => [packVR 0x1C d a b.bs b.num 0, packX {}]
  | .dwadds d a b => [packVR 0x1C d a b.bs b.num 1, packX {}]
  | .dwmul d a b => [packVR 0x1C d a b.bs b.num 2, packX {}]
  | .dwmuls d a b => [packVR 0x1C d a b.bs b.num 3, packX {}]
  | .dwdiv d a b look => [packVR 0x1C d a b.bs b.num 4, packX { look := look }]
  | .dwsqrt d a look => [packVR 0x1C d a 0 0 5, packX { look := look }]
  | .dwnorm d a => [packVR 0x1C d a 0 0 6, packX {}]
  | .dwcvt d a fromPair ty rm => [packVR 0x1C d a 0 0 7, packX { rm := rm, ty := ty, fn2 := fromPair.setWidth 13 }]
  | .dwcmp d a b cc => [packVR 0x1C (d.setWidth 7) a b.bs b.num 8, packX { fn2 := cc.setWidth 13 }]
  | .creduce d a c single look => [packVR 0x1D (d.setWidth 7) a 0 0 0, packX { vc := c.setWidth 7, look := look, fn2 := single.setWidth 13 }]
  | .credseg d a c single look => [packVR 0x1D d a 0 0 1, packX { vc := c.setWidth 7, look := look, fn2 := single.setWidth 13 }]
  | .qswapx d a => [packVR 0x1E d a 0 0 0]
  | .qswapy d a => [packVR 0x1E d a 0 0 1]
  | .qswapd d a => [packVR 0x1E d a 0 0 2]
  | .qbcast d a k => [packVR 0x1E d a 0 (k.setWidth 7) 3]
  | .greduce d a c op ty rm sat look => [packVR 0x1F (d.setWidth 7) a 0 0 0, packX { vc := c.setWidth 7, rm := rm, sat := sat, look := look, ty := ty, fn2 := op.setWidth 13 }]
  | .gscan d a op excl ty rm sat look => [packVR 0x1F d a 0 0 1, packX { rm := rm, sat := sat, look := look, ty := ty, fn2 := 0#9 ++ excl ++ op }]
  | .gsegred d a c op ty rm sat look => [packVR 0x1F d a 0 0 2, packX { vc := c.setWidth 7, rm := rm, sat := sat, look := look, ty := ty, fn2 := op.setWidth 13 }]
  | .gmatch d a mode look => [packVR 0x1F d a 0 0 3, packX { look := look, fn2 := mode.setWidth 13 }]
  | .vld d t o look z => [packML 0x20 d t o look z 0]
  | .vld2w d t o look z x => [packML 0x20 d t o look z 4, packMLX x]
  | .vst s t o z => [packML 0x20 s t o 0 z 1]
  | .vst2w s t o z x => [packML 0x20 s t o 0 z 5, packMLX x]
  | .vlds d t o look z => [packML 0x20 d t (o.setWidth 7) look z 2]
  | .vlds2w d t o look z x => [packML 0x20 d t (o.setWidth 7) look z 6, packMLX x]
  | .vsts s t o z => [packML 0x20 s t (o.setWidth 7) 0 z 3]
  | .vsts2w s t o z x => [packML 0x20 s t (o.setWidth 7) 0 z 7, packMLX x]
  | .pref t o => [packML 0x20 0 t o 0 7 0]
  | .pref2w t o x => [packML 0x20 0 t o 0 7 4, packMLX x]
  | .vldp d o look z => [packML 0x21 d 0 o look z 0]
  | .vldp2w d o look z x => [packML 0x21 d 0 o look z 4, packMLX x]
  | .vstp s o z => [packML 0x21 s 0 o 0 z 1]
  | .vstp2w s o z x => [packML 0x21 s 0 o 0 z 5, packMLX x]
  | .vldi d t o look z => [packML 0x22 d t o look z 0]
  | .vldi2w d t o look z x => [packML 0x22 d t o look z 4, packMLX x]
  | .vsti s t o z => [packML 0x22 s t o 0 z 1]
  | .vsti2w s t o z x => [packML 0x22 s t o 0 z 5, packMLX x]
  | .spld d o look z => [packML 0x23 d 0 o look z 0]
  | .spld2w d o look z x => [packML 0x23 d 0 o look z 4, packMLX x]
  | .spst s o z => [packML 0x23 s 0 o 0 z 1]
  | .spst2w s o z x => [packML 0x23 s 0 o 0 z 5, packMLX x]
  | .spldx d n o look z => [packML 0x24 d n o look z 0]
  | .spldx2w d n o look z x => [packML 0x24 d n o look z 4, packMLX x]
  | .spstx s n o z => [packML 0x24 s n o 0 z 1]
  | .spstx2w s n o z x => [packML 0x24 s n o 0 z 5, packMLX x]
  | .atom d a b c t f lock look => [packVR 0x25 d a b.bs b.num 0, packX { vc := c, look := look, ty := f.ty, fn2 := f.fn2 0 lock t }]
  | .red a b t f lock => [packVR 0x25 0 a b.bs b.num 1, packX { ty := f.ty, fn2 := f.fn2 0 lock t }]
  | .spatom d a b c x n f nr look => [packVR 0x26 d a b.bs b.num 0, packX { vc := c, look := look, ty := f.ty, fn2 := f.fn2 nr x n }]
  | .satom d a b c f lock nr look => [packVR 0x26 (d.setWidth 7) (a.setWidth 7) 0 (b.setWidth 7) 1, packX { vc := c.setWidth 7, look := look, ty := f.ty, fn2 := f.fn2 nr lock 0 }]
  | .fence order scope => [packSR 0x27 0 (0#1 ++ order ++ scope) 0 0x00]
  | .icinv scope a b => [packSR 0x27 (scope.setWidth 6) a b 0x01]
  | .ifence => [packSR 0x27 0 0 0 0x02]
  | .msend q a b k order scope => [packVR 0x29 (q.setWidth 7) (a.setWidth 7) 0 (b.setWidth 7) 0, packX { fn2 := 0#4 ++ scope ++ order ++ 0#1 ++ k }]
  | .mrecv d q poll order scope look => [packVR 0x29 (d.setWidth 7) 0 0 0 1, packX { look := look, fn2 := poll ++ 0#3 ++ scope ++ order ++ 0#1 ++ q }]
  | .wakew a b scope => [packVR 0x29 0 (a.setWidth 7) 0 (b.setWidth 7) 2, packX { fn2 := 0#4 ++ scope ++ 0#6 }]
  | .waitw d a b c order scope => [packVR 0x29 (d.setWidth 7) (a.setWidth 7) 0 (b.setWidth 7) 3, packX { vc := c.setWidth 7, fn2 := 0#4 ++ scope ++ order ++ 0#4 }]
  | .cpy s t cont acq => [packEC 0x2A 0 s t (0#6 ++ cont ++ acq)]
  | .ewait s => [packEC 0x2A 1 s 0 0]
  | .epoll s t => [packEC 0x2A 2 s t 0]
  | .mma s t acc => [packEC 0x2B 0 s t (0#7 ++ acc)]
  | .mmas s t acc => [packEC 0x2B 1 s t (0#7 ++ acc)]
  | .mmag s t acc => [packEC 0x2B 2 s t (0#7 ++ acc)]
  | .mbatch t => [packEC 0x2B 3 0 t 0]
  | .mwait s => [packEC 0x2B 4 s 0 0]
  | .gath s t acq resume => [packEC 0x2C 0 s t (0#6 ++ acq ++ resume)]
  | .scat s t resume => [packEC 0x2C 1 s t (0#7 ++ resume)]
  | .scbegin s t => [packEC 0x2D 0 s t 0]
  | .scprobe s t bf16 sp acq => [packEC 0x2D 1 s t (0#5 ++ bf16 ++ sp ++ acq)]
  | .scsave s t => [packEC 0x2D 2 s t 0]
  | .nredx s t scope => [packEC 0x2E 0 s t (scope.setWidth 8)]
  | .promote up => [packSR 0x2F 0 (up.setWidth 6) 0 0x00]
  | .trap n => [0x30#6 ++ n ++ 0x00#8]
  | .bkpt n => [0x30#6 ++ n ++ 0x02#8]
  | .rte => [packSR 0x30 0 0 0 0x01]
  | .rteEnd => [packSR 0x30 0 1 0 0x01]
  | .tsave s k => [packVR 0x31 s 0 0 (k.setWidth 7) 0]
  | .tload d k => [packVR 0x31 d 0 0 (k.setWidth 7) 1]
  | .ctxsave c a => [packSR 0x32 c a 0 0x00]
  | .ctxload c a => [packSR 0x32 c a 0 0x01]
  | .progress k => [packSR 0x33 0 (k.setWidth 6) 0 0x00]
  | .undefinedInstruction w => [w]
  | .reservedMajor w => [w]
  | .clauseStart .. | .instructionCacheFill .. | .loadReturn .. | .storeAccepted .. | .atomicReturn ..
  | .resultWrite .. | .releaseComplete .. | .icinvComplete .. | .promotionStart .. | .promotionSwitchDone ..
  | .demotionSwitchDone .. | .barrierLaggardQualify .. | .barrierPhaseComplete .. | .barrierWake ..
  | .groupRegistersReturn .. | .teamEnd .. | .cbitmapSet .. | .dispatcherTailRead .. | .launchRecordTake ..
  | .teamPlacement .. | .consumerRelease .. | .pinGrant .. | .accessRetryResend .. | .recallComplete ..
  | .l1LineFill .. | .l2LineFill .. | .pageWalkComplete .. | .faultRecordAnswer .. | .invalidateRange ..
  | .invalidateRangeDone .. | .compact .. | .compactDone .. | .translationRequestFail ..
  | .commandIssueResume .. | .sourceReadDone .. | .copyEngineTake .. | .cpyComplete .. | .enginePageFault ..
  | .engineFailure .. | .matrixEngineTake .. | .matrixCommandComplete .. | .gatherScatterComplete ..
  | .scsaveStart .. | .scsaveComplete .. | .scprobeComplete .. | .partialMerge .. | .roundResultSend ..
  | .nredxComplete .. | .messageDelivery .. | .wakeDelivery .. | .waitwTimeout .. | .routerPowerDown ..
  | .routerWake .. | .faultRecordRelease .. | .eventRecordRelease .. | .forcedSave .. | .preemptStatusWrite ..
  | .teamRestore .. | .tiadeRead .. | .tiadeWrite .. | .tiadeAtomic .. | .tiadeFrameDrop .. | .createContext ..
  | .destroyContext .. | .setStep .. | .preemptContext .. | .resumeContext .. | .registerWindow ..
  | .removeWindow .. | .registerLaunchQueueTable .. | .harvestRecord .. | .rosterRecord .. | .getVersion ..
  | .getCapabilities .. | .negotiateAlgorithms .. | .getMeasurements .. | .vendorHarvestRequest ..
  | .vendorRosterRequest .. | .spdmUnsupportedRequest .. | .linkAuthentication .. | .linkAuthRetry ..
  | .peerAccess .. | .peerAck .. | .linkFailure .. | .peerPathTimeout .. | .sample .. | .trialDelayExpire ..
  | .chunkCommit .. | .powerLimit .. | .coreClock .. | .routerPowerDownControl .. | .hostPortControl ..
  | .peerPortsControl .. | .samplingControl .. | .reuseHistogramControl .. | .causalTrialControl ..
  | .replayControl .. | .expertBlockWrite .. | .controlApply .. | .bootRecordClear | .moduleReset ..
  | .coreFailure .. | .clockStepDown | .coolantFlowLost | .coolantFlowRestored | .flitCrcError .. => []

/-- The number of words of an instruction. -/
def Instr.size (i : Instr) : Nat := (encode i).length

/-- The first word of an instruction, as TVAL reports it (R284). -/
def Instr.word (i : Instr) : Word := (encode i).headD 0

/-- The instruction this decoder reads from an instruction whose bits are w: the first word is
[31:0], the second [63:32]. -/
def decodeTableWord (_nbits w : Nat) : Option Instr :=
  some (decode (BitVec.ofNat 32 w) (BitVec.ofNat 32 (w / 2 ^ 32)))

end Sys2Proof
end

