-- ==== Sys2Proof/Machine/Fp.lean ====
section
/-! DEFINITION. Number formats and rounding (R28 to R31, R36 to R42): values are exact dyadic numbers, and
each operation rounds once at its end. -/

namespace Sys2Proof.Machine

/-- A set of GSTAT flags, in GSTAT's bit order (R24). -/
abbrev Flags := BitVec 6

/-- invalid (R40) -/
def fINV : Flags := 1
/-- divide-by-zero (R40) -/
def fDZ : Flags := 2
/-- overflow (R40) -/
def fOVF : Flags := 4
/-- underflow (R40) -/
def fUNF : Flags := 8
/-- inexact (R40) -/
def fINX : Flags := 16
/-- pair-inexact (R40) -/
def fPINX : Flags := 32

/-- The rounding modes (R36). -/
inductive RMode where
  | rne | rtz | rup | rdn
  deriving DecidableEq, Repr

/-- GCTL.RM (R24): 00 RNE, 01 RTZ, 10 RUP, 11 RDN. -/
def RMode.ofGctl (b : BitVec 2) : RMode :=
  match b.toNat with
  | 0 => .rne
  | 1 => .rtz
  | 2 => .rup
  | _ => .rdn

/-- A rounding field (R56): 000 names `dflt`. -/
def RMode.ofField (dflt : RMode) (b : BitVec 3) : RMode :=
  match b.toNat with
  | 0 => dflt
  | 1 => .rne
  | 2 => .rtz
  | 3 => .rup
  | _ => .rdn

/-- The formats of R28. -/
inductive Fmt where
  | fp32 | bf16 | fp16 | e5m2 | e4m3 | fp26
  deriving DecidableEq, Repr

/-- Fraction bits f (R28). -/
def Fmt.f : Fmt → Nat
  | .fp32 => 23 | .bf16 => 7 | .fp16 => 10 | .e5m2 => 2 | .e4m3 => 3 | .fp26 => 17

/-- Exponent bits (R28). -/
def Fmt.ew : Fmt → Nat
  | .fp32 => 8 | .bf16 => 8 | .fp16 => 5 | .e5m2 => 5 | .e4m3 => 4 | .fp26 => 8

/-- Bias (R28). -/
def Fmt.bias : Fmt → Nat
  | .fp32 => 127 | .bf16 => 127 | .fp16 => 15 | .e5m2 => 15 | .e4m3 => 7 | .fp26 => 127

/-- Total width (R28). -/
def Fmt.width (t : Fmt) : Nat := 1 + t.ew + t.f

/-- The exponent of the unit in the last place of subnormals: 1 - bias - f (R28). -/
def Fmt.qmin (t : Fmt) : Int := 1 - (t.bias : Int) - (t.f : Int)

/-- The bits of the largest finite magnitude (R28). -/
def Fmt.maxBits (t : Fmt) : Nat :=
  match t with
  | .e4m3 => 0x7E
  | _ => (2 ^ t.ew - 1) * 2 ^ t.f - 1

/-- The canonical NaN (R29). -/
def Fmt.nan : Fmt → Nat
  | .fp32 => 0x7FC00000 | .bf16 => 0x7FC0 | .fp16 => 0x7E00 | .e5m2 => 0x7E | .e4m3 => 0x7F
  | .fp26 => 0x1FF0000

/-- The bits of an infinity's magnitude; E4M3 has none and takes its NaN (R36). -/
def Fmt.inf (t : Fmt) : Nat :=
  match t with
  | .e4m3 => 0x7F
  | _ => (2 ^ t.ew - 1) * 2 ^ t.f

/-- The bits of a signed magnitude. -/
def Fmt.signed (t : Fmt) (neg : Bool) (mag : Nat) : Nat :=
  if neg then 2 ^ (t.ew + t.f) + mag else mag

/-- A floating-point value: a NaN (signalling or quiet), an infinity, or the exact number
(-1)^neg * m * 2^e, a zero when m = 0. -/
inductive FpVal where
  | nan (signalling : Bool)
  | inf (neg : Bool)
  | fin (neg : Bool) (m : Nat) (e : Int)
  deriving DecidableEq, Repr

/-- The value that bits hold in a format (R28, R29). -/
def Fmt.decode (t : Fmt) (bits : Nat) : FpVal :=
  let neg := bits / 2 ^ (t.ew + t.f) % 2 == 1
  let ex := bits / 2 ^ t.f % 2 ^ t.ew
  let fr := bits % 2 ^ t.f
  if ex = 0 then .fin neg fr t.qmin
  else if ex = 2 ^ t.ew - 1 then
    match t with
    | .e4m3 => if fr = 7 then .nan false else .fin neg (2 ^ t.f + fr) (t.qmin + ex - 1)
    | _ =>
      if fr = 0 then .inf neg
      else .nan (fr / 2 ^ (t.f - 1) == 0)
  else .fin neg (2 ^ t.f + fr) (t.qmin + ex - 1)

/-- The number of bits of a natural number. -/
def bitLen (m : Nat) : Nat := if m = 0 then 0 else Nat.log2 m + 1

/-- 2^k for an exponent that is not negative. -/
def pow2 (k : Int) : Nat := 2 ^ k.toNat

/-- Whether the mode rounds the magnitude up, from the remainder rem of a division by 2^sh and the parity of
the quotient (R36). -/
def roundsUp (rm : RMode) (neg odd : Bool) (rem sh : Nat) : Bool :=
  match rm with
  | .rne => if 2 * rem = 2 ^ sh then odd else 2 ^ sh < 2 * rem
  | .rtz => false
  | .rup => !neg && rem != 0
  | .rdn => neg && rem != 0

/-- m * 2^e as a multiple of 2^q, rounded in the mode; and whether anything was lost. -/
def toQuantum (rm : RMode) (neg : Bool) (m : Nat) (e q : Int) : Nat × Bool :=
  if q ≤ e then (m * pow2 (e - q), false)
  else
    let sh := (q - e).toNat
    let n := m / 2 ^ sh
    let rem := m % 2 ^ sh
    (if roundsUp rm neg (n % 2 == 1) rem sh then n + 1 else n, rem != 0)

/-- The quantum of the number m * 2^e in a format, with unbounded exponents above and subnormals below. -/
def Fmt.quantum (t : Fmt) (m : Nat) (e : Int) : Int :=
  max (e + bitLen m - 1 - t.f) t.qmin

/-- Whether a mode rounds a magnitude of this sign away from zero wherever it is not exact. -/
def RMode.outward (rm : RMode) (neg : Bool) : Bool :=
  match rm with
  | .rne => false | .rtz => false | .rup => !neg | .rdn => neg

/-- The result of an overflow in a mode (R36); sat keeps the largest finite value. -/
def Fmt.overflow (t : Fmt) (rm : RMode) (sat neg : Bool) : Nat :=
  if (rm == .rne || rm.outward neg) && !sat then
    (match t with | .e4m3 => t.nan | _ => t.signed neg t.inf)
  else t.signed neg t.maxBits

/-- The bits of a magnitude n * 2^q whose quantum is q and which does not overflow. -/
def Fmt.pack (t : Fmt) (n : Nat) (q : Int) : Nat :=
  if n < 2 ^ t.f then n
  else
    let (n, q) := if 2 ^ (t.f + 1) ≤ n then (n / 2, q + 1) else (n, q)
    (q - t.qmin + 1).toNat * 2 ^ t.f + (n - 2 ^ t.f)

/-- Whether the magnitude overflows (R36), from the bits it rounds to: RNE is tested after rounding, every other
mode on the exact magnitude, which lies above the largest finite value also where it is cut back to it.
DEDUCED, log entry 86. -/
def Fmt.overflows (t : Fmt) (rm : RMode) (neg : Bool) (bits : Nat) (inexact : Bool) : Bool :=
  t.maxBits < bits || (bits == t.maxBits && inexact && rm != .rne && !rm.outward neg)

/-- Rounds (-1)^neg * m * 2^e to a format in a mode, once (R36), with the flags of R40. A tiny result is one
below the smallest normal magnitude after rounding. DEDUCED, log entry 21. -/
def Fmt.round (t : Fmt) (rm : RMode) (sat neg : Bool) (m : Nat) (e : Int) : Nat × Flags :=
  if m = 0 then (t.signed neg 0, 0)
  else
    let q := t.quantum m e
    let (n, inexact) := toQuantum rm neg m e q
    let bits := t.pack n q
    if t.overflows rm neg bits inexact then (t.overflow rm sat neg, fOVF ||| fINX)
    else
      (t.signed neg bits,
        (if inexact then fINX else 0) ||| (if inexact && bits < 2 ^ t.f then fUNF else 0))

/-- The bits of a value known to be held exactly, or its canonical NaN. -/
def Fmt.exact (t : Fmt) (v : FpVal) : Nat :=
  match v with
  | .nan _ => t.nan
  | .inf neg => t.signed neg t.inf
  | .fin neg m e => (t.round .rne false neg m e).1

/-- INV for a signalling NaN (R29). -/
def snanFlag : FpVal → Flags
  | .nan true => fINV
  | _ => 0

/-- Whether a value is a NaN. -/
def FpVal.isNan : FpVal → Bool
  | .nan _ => true
  | _ => false

/-- Whether a value is a zero. -/
def FpVal.isZero : FpVal → Bool
  | .fin _ 0 _ => true
  | _ => false

/-- The sign of a value. -/
def FpVal.neg : FpVal → Bool
  | .nan _ => false
  | .inf n => n
  | .fin n _ _ => n

/-- A value with its sign turned. -/
def FpVal.negate : FpVal → FpVal
  | .nan s => .nan s
  | .inf n => .inf (!n)
  | .fin n m e => .fin (!n) m e

/-- A finite value as a signed multiple of 2^q, exact when q is at most its exponent. -/
def signedAt (neg : Bool) (m : Nat) (e q : Int) : Int :=
  let v : Int := (m * pow2 (e - q) : Nat)
  if neg then -v else v

/-- The exact sum of two finite values as (neg, m, e); an exact zero of opposite signs is +0, or -0 under
RDN (R93). -/
def sumExact (rm : RMode) (n1 : Bool) (m1 : Nat) (e1 : Int) (n2 : Bool) (m2 : Nat) (e2 : Int) :
    Bool × Nat × Int :=
  let q := min e1 e2
  let v := signedAt n1 m1 e1 q + signedAt n2 m2 e2 q
  if v = 0 then
    (if n1 == n2 then n1 else rm == .rdn, 0, q)
  else (v < 0, v.natAbs, q)

/-- a + b rounded once (R93, R94). -/
def Fmt.add (t : Fmt) (rm : RMode) (a b : FpVal) : Nat × Flags :=
  match a, b with
  | .nan s1, .nan s2 => (t.nan, if s1 || s2 then fINV else 0)
  | .nan s, _ => (t.nan, if s then fINV else 0)
  | _, .nan s => (t.nan, if s then fINV else 0)
  | .inf n1, .inf n2 => if n1 == n2 then (t.signed n1 t.inf, 0) else (t.nan, fINV)
  | .inf n, _ => (t.signed n t.inf, 0)
  | _, .inf n => (t.signed n t.inf, 0)
  | .fin n1 m1 e1, .fin n2 m2 e2 =>
    let (n, m, e) := sumExact rm n1 m1 e1 n2 m2 e2
    t.round rm false n m e

/-- a - b rounded once. A NaN stays what it is. -/
def Fmt.sub (t : Fmt) (rm : RMode) (a b : FpVal) : Nat × Flags := t.add rm a b.negate

/-- a * b rounded once (R93, R94). -/
def Fmt.mul (t : Fmt) (rm : RMode) (a b : FpVal) : Nat × Flags :=
  match a, b with
  | .nan s1, .nan s2 => (t.nan, if s1 || s2 then fINV else 0)
  | .nan s, _ => (t.nan, if s then fINV else 0)
  | _, .nan s => (t.nan, if s then fINV else 0)
  | .inf n1, .inf n2 => (t.signed (n1 != n2) t.inf, 0)
  | .inf n1, .fin n2 m _ => if m = 0 then (t.nan, fINV) else (t.signed (n1 != n2) t.inf, 0)
  | .fin n1 m _, .inf n2 => if m = 0 then (t.nan, fINV) else (t.signed (n1 != n2) t.inf, 0)
  | .fin n1 m1 e1, .fin n2 m2 e2 => t.round rm false (n1 != n2) (m1 * m2) (e1 + e2)

/-- The exact product, where it is defined: 0 * inf is a NaN that raises INV. -/
def mulExact (a b : FpVal) : FpVal × Flags :=
  match a, b with
  | .nan s1, .nan s2 => (.nan false, if s1 || s2 then fINV else 0)
  | .nan s, _ => (.nan false, if s then fINV else 0)
  | _, .nan s => (.nan false, if s then fINV else 0)
  | .inf n1, .inf n2 => (.inf (n1 != n2), 0)
  | .inf n1, .fin n2 m _ => if m = 0 then (.nan false, fINV) else (.inf (n1 != n2), 0)
  | .fin n1 m _, .inf n2 => if m = 0 then (.nan false, fINV) else (.inf (n1 != n2), 0)
  | .fin n1 m1 e1, .fin n2 m2 e2 => (.fin (n1 != n2) (m1 * m2) (e1 + e2), 0)

/-- a * b + c with one rounding (R94); 0 * inf raises INV beside a quiet NaN addend too. -/
def Fmt.fma (t : Fmt) (rm : RMode) (a b c : FpVal) : Nat × Flags :=
  let (p, f) := mulExact a b
  let (r, g) := t.add rm p c
  (r, f ||| g)

/-- a / b rounded once (R98, R99). -/
def Fmt.div (t : Fmt) (rm : RMode) (a b : FpVal) : Nat × Flags :=
  match a, b with
  | .nan s1, .nan s2 => (t.nan, if s1 || s2 then fINV else 0)
  | .nan s, _ => (t.nan, if s then fINV else 0)
  | _, .nan s => (t.nan, if s then fINV else 0)
  | .inf _, .inf _ => (t.nan, fINV)
  | .inf n1, .fin n2 _ _ => (t.signed (n1 != n2) t.inf, 0)
  | .fin n1 _ _, .inf n2 => (t.signed (n1 != n2) 0, 0)
  | .fin n1 m1 e1, .fin n2 m2 e2 =>
    if m2 = 0 then
      if m1 = 0 then (t.nan, fINV) else (t.signed (n1 != n2) t.inf, fDZ)
    else if m1 = 0 then (t.signed (n1 != n2) 0, 0)
    else
      let sh := t.f + 4 + bitLen m2
      let q := m1 * 2 ^ sh / m2
      let sticky := if m1 * 2 ^ sh % m2 = 0 then 0 else 1
      t.round rm false (n1 != n2) (2 * q + sticky) (e1 - e2 - sh - 1)

/-- Bits of the integer square root, from the highest down. -/
def isqrtBits (n : Nat) : Nat → Nat → Nat
  | 0, r => r
  | k + 1, r => if (r + 2 ^ k) * (r + 2 ^ k) ≤ n then isqrtBits n k (r + 2 ^ k) else isqrtBits n k r

/-- The integer part of the square root. -/
def isqrt (n : Nat) : Nat := isqrtBits n (bitLen n / 2 + 1) 0

/-- The square root rounded once (R98, R99). -/
def Fmt.sqrt (t : Fmt) (rm : RMode) (a : FpVal) : Nat × Flags :=
  match a with
  | .nan s => (t.nan, if s then fINV else 0)
  | .inf neg => if neg then (t.nan, fINV) else (t.inf, 0)
  | .fin neg m e =>
    if m = 0 then (t.signed neg 0, 0)
    else if neg then (t.nan, fINV)
    else
      let sh0 := 2 * (t.f + 4)
      let sh := if (e - sh0) % 2 = 0 then sh0 else sh0 + 1
      let big := m * 2 ^ sh
      let r := isqrt big
      t.round rm false false (2 * r + (if r * r = big then 0 else 1)) ((e - sh) / 2 - 1)

/-- Rounds to an integer in a mode: the magnitude and whether a fraction was lost. -/
def roundInt (rm : RMode) (neg : Bool) (m : Nat) (e : Int) : Nat × Bool := toQuantum rm neg m e 0

/-- Floating point to integer in [lo, hi] (R37): saturates with INV, a NaN gives 0 with INV, a lost fraction
raises INX. A value that saturates raises INV alone, a lost fraction or not. DEDUCED, log entry 87. -/
def toInt (rm : RMode) (lo hi : Int) (a : FpVal) : Int × Flags :=
  match a with
  | .nan _ => (0, fINV)
  | .inf neg => (if neg then lo else hi, fINV)
  | .fin neg m e =>
    let (n, inexact) := roundInt rm neg m e
    let v : Int := if neg then -(n : Int) else n
    if v < lo then (lo, fINV) else if hi < v then (hi, fINV)
    else (v, if inexact then fINX else 0)

/-- Integer to floating point (R37); sat clamps an overflow (R36). -/
def Fmt.ofInt (t : Fmt) (rm : RMode) (sat : Bool) (v : Int) : Nat × Flags :=
  t.round rm sat (v < 0) v.natAbs 0

/-- Floating point to floating point (R36): an infinity follows the target, a NaN is canonical. -/
def Fmt.convert (t : Fmt) (rm : RMode) (sat : Bool) (a : FpVal) : Nat × Flags :=
  match a with
  | .nan s => (t.nan, if s then fINV else 0)
  | .inf neg =>
    if sat then (t.signed neg t.maxBits, 0)
    else match t with
      | .e4m3 => (t.nan, fINV)
      | _ => (t.signed neg t.inf, 0)
  | .fin neg m e => t.round rm sat neg m e

/-- a < b for values that are no NaN; zeros are equal (R96). -/
def FpVal.lt (a b : FpVal) : Bool :=
  match a, b with
  | .inf n1, .inf n2 => n1 && !n2
  | .inf n1, _ => n1
  | _, .inf n2 => !n2
  | .fin n1 m1 e1, .fin n2 m2 e2 =>
    let q := min e1 e2
    signedAt n1 m1 e1 q < signedAt n2 m2 e2 q
  | _, _ => false

/-- a = b for values that are no NaN; zeros are equal (R96). -/
def FpVal.eq (a b : FpVal) : Bool := !a.isNan && !b.isNan && !a.lt b && !b.lt a

/-! ### FP32 words -/

/-- The FP32 value of a word. -/
def f32 (w : Word) : FpVal := Fmt.fp32.decode w.toNat

/-- A word from bits. -/
def toWord (p : Nat × Flags) : Word × Flags := (BitVec.ofNat 32 p.1, p.2)

/-- The FP32 canonical NaN. -/
def nan32 : Word := 0x7FC00000

/-- Whether a word is an FP32 subnormal. -/
def isSub32 (w : Word) : Bool := w.toNat % 2 ^ 31 != 0 && w.toNat % 2 ^ 31 < 2 ^ 23

/-- An FP32 word with only its sign kept. -/
def zeroOf (w : Word) : Word := w &&& 0x80000000

/-- An operand under GCTL.FTZ: a subnormal is read as zero of its sign, with no flag (R31). -/
def ftzIn (ftz : Bool) (w : Word) : Word := if ftz && isSub32 w then zeroOf w else w

/-- A result under GCTL.FTZ: a subnormal is written as zero of its sign and raises UNF and INX (R31). -/
def ftzOut (ftz : Bool) (p : Word × Flags) : Word × Flags :=
  if ftz && isSub32 p.1 then (zeroOf p.1, p.2 ||| fUNF ||| fINX) else p

/-- FMIN and FMAX without rounding (R95): -0 is smaller than +0, one NaN gives the other operand, and a
signalling NaN raises INV. -/
def fpMinMax (max : Bool) (a b : Word) : Word × Flags :=
  let x := f32 a
  let y := f32 b
  let fl := snanFlag x ||| snanFlag y
  if x.isNan then (if y.isNan then (nan32, fl) else (b, fl))
  else if y.isNan then (a, fl)
  else
    let aLess := x.lt y || (x.eq y && x.neg && !y.neg)
    if aLess == max then (b, fl) else (a, fl)

end Sys2Proof.Machine
end

