-- ==== Sys2Proof/Config.lean ====
section
/-! DEFINITION. What the spec fixes for the part, and what it leaves open: each open value is an opaque
constant, so that nothing proved of the model can rest on a value of it. -/

namespace Sys2Proof.Config

/-- Group slots of a core (R154). -/
abbrev slotsPerCore : Nat := 48

/-- Exposed cores, clusters of four (R2, R313). -/
abbrev cores : Nat := 256

/-- Register blocks of a core (R154). -/
abbrev blocksPerCore : Nat := 448

/-- Scratchpad bytes of a core (R2). -/
abbrev scratchBytes : Nat := 524288

/-- The base page: 24 KiB, 128 lines (R184). -/
abbrev pageBytes : Nat := 24576

/-- Bytes of a line and of its four sectors (R2). -/
abbrev lineBytes : Nat := 192

/-- Bytes of a sector (R2). -/
abbrev sectorBytes : Nat := 48

/-- Base frames of local memory (R186): 1,536 GiB. -/
abbrev frames : Nat := 2 ^ 26

/-- The keys of one window: window w of the hosts lies at windowKey * (1 + w), of the peers at
windowKey * (257 + w); local physical addresses lie below them all (R186, R332). DESIGN CHOICE, log entry 42. -/
abbrev windowKey : Nat := 192 * 2 ^ 40

/-- A free byte, one for each use: what the spec leaves open where it gives no value. DESIGN CHOICE, log entry 5. -/
opaque freeByte : Nat → Byte

/-- What the device reads at a place in a part of a save record of a layout of its own, from the part's bytes (R296).
DESIGN CHOICE, log entry 68. -/
opaque recordValue : List Byte → Nat → Nat

/-- A free word, one for each use. DESIGN CHOICE, log entry 5. -/
opaque freeWord : Nat → Word

/-- Which of the two FP32 values that bracket 1/a FRCP gives: true the larger (R98). DESIGN CHOICE, log entry 6. -/
opaque frcpUp : Word → Bool

/-- Which of the two FP32 values that bracket 1/sqrt a FRSQ gives: true the larger (R98).
DESIGN CHOICE, log entry 6. -/
opaque frsqUp : Word → Bool

/-- The FP32 value that FEXP2 offers for 2^a, before the bound of R98 is applied. DESIGN CHOICE, log entry 7. -/
opaque fexp2 : Word → Word

/-- The FP32 value that FLOG2 offers for log2 a, before the bound of R98 is applied. DESIGN CHOICE, log entry 7. -/
opaque flog2 : Word → Word

/-- The FP32 value that FSIN offers for sin a, before the bound of R98 is applied. DESIGN CHOICE, log entry 7. -/
opaque fsin : Word → Word

/-- The FP32 value that FCOS offers for cos a, before the bound of R98 is applied. DESIGN CHOICE, log entry 7. -/
opaque fcos : Word → Word

/-- The 64-byte SHAKE256 of some bytes (R331, R339, R340). DESIGN CHOICE, log entry 8. -/
opaque shake256 : List Byte → List Byte

/-- A Falcon-1024 signature in padded form over some bytes, with the salt of the n-th record (R339).
DESIGN CHOICE, log entry 8. -/
opaque falconSign : Nat → List Byte → List Byte

/-- Whether a Falcon-1024 signature of a message checks against a public key (R331). DESIGN CHOICE, log entry 8. -/
opaque falconVerify : List Byte → List Byte → List Byte → Bool

/-- The encoded public key of the husk's key pair (R339). DESIGN CHOICE, log entry 8. -/
opaque devKey : List Byte

/-- DEVID: the first 32 bytes of SHAKE256 of the encoded public key (R339). -/
def devId : List Byte := (shake256 devKey).take 32

/-- Whether a partner of a peer link, by its DEVID, relays accesses to a device (R333). DESIGN CHOICE, log entry 112. -/
opaque relays : List Byte → Nat → Bool

/-- FWMEAS: 64 bytes (R339). DESIGN CHOICE, log entry 8. -/
opaque fwMeas : List Byte

/-- The payload words of the SPDM answers whose contents the manual leaves to SPDM 1.2 (R342).
PRESUMED, log entry 9. -/
opaque spdmAnswer : Nat → List Byte → List Byte

/-- How far SEQ skips ahead after the n-th reset; used modulo 2^16 + 1 (R339). DESIGN CHOICE, log entry 8. -/
opaque seqSkip : Nat → Nat

/-- The hash by which a reuse register's filter is indexed; used modulo 1,024 (R359). DESIGN CHOICE, log entry 10. -/
opaque reuseHash : Nat → Nat

/-- Whether a slice tag register is armed at the n-th choice, with probability 2^-q (R359).
DESIGN CHOICE, log entry 10. -/
opaque reuseArm : Nat → Nat → Bool

/-- The core clock in MHz that a preset of the core-clock control names (R369). DESIGN CHOICE, log entry 11. -/
opaque clockMhz : Nat → Nat

/-- Which count of the units (R363) a word of the control window reads, between the boot record and the expert blocks: twice
its number, and 1 for its high word. DESIGN CHOICE, log entry 126. -/
opaque countAt : Nat → Option Nat

/-- The status that a host's access gets which finds an uncorrectable error (R327, R368). DESIGN CHOICE, log entry 122. -/
opaque spoiltStatus : Nat

/-- The set of its slice that an L2 line belongs to; used modulo the number of sets (R372). DESIGN CHOICE, log entry 96. -/
opaque l2Set : Nat → Nat

/-- The DMA windows of the management firmware, fixed at step 1 of the boot: base and length (R370).
DESIGN CHOICE, log entry 123. -/
opaque dmaWindows : List (Nat × Nat)

/-- The key of window 255, held in the husk (R369). DESIGN CHOICE, log entry 8. -/
opaque controlKey : Word

end Sys2Proof.Config
end

