-- ==== Sys2Proof/Machine/AMap.lean ====
section
/-! DEFINITION. Sorted association lists: how the state holds sparse data by number. -/

namespace Sys2Proof.Machine

/-- Data held by number, in rising order of the numbers. -/
abbrev AMap (α : Type) := List (Nat × α)

/-- The entry at k, or d where none is held. -/
def AMap.get {α : Type} (d : α) : AMap α → Nat → α
  | [], _ => d
  | p :: m, k => if p.1 = k then p.2 else AMap.get d m k

/-- The entry at k, if one is held. -/
def AMap.find? {α : Type} : AMap α → Nat → Option α
  | [], _ => none
  | p :: m, k => if p.1 = k then some p.2 else AMap.find? m k

/-- m without an entry at k. -/
def AMap.erase {α : Type} (m : AMap α) (k : Nat) : AMap α := m.filter fun p => p.1 != k

/-- m with an entry put where the numbers keep rising. -/
def AMap.ins {α : Type} (k : Nat) (v : α) : AMap α → AMap α
  | [] => [(k, v)]
  | p :: m => if k < p.1 then (k, v) :: p :: m else p :: AMap.ins k v m

/-- m with v at k. -/
def AMap.put {α : Type} (m : AMap α) (k : Nat) (v : α) : AMap α := (m.erase k).ins k v

/-- m with v at k, in the canonical form in which no entry equals the value d of an unlisted number. -/
def AMap.set {α : Type} [DecidableEq α] (d : α) (m : AMap α) (k : Nat) (v : α) : AMap α :=
  if v = d then m.erase k else (m.erase k).ins k v

/-- The numbers rise strictly. -/
def AMap.sorted {α : Type} : AMap α → Bool
  | [] => true
  | [_] => true
  | p :: q :: m => p.1 < q.1 && AMap.sorted (q :: m)

/-- m with f applied to the entry at k, where one is held. -/
def AMap.modify {α : Type} (m : AMap α) (k : Nat) (f : α → α) : AMap α :=
  m.map fun p => if p.1 = k then (p.1, f p.2) else p

/-- m with f applied to every entry. -/
def AMap.mapVals {α : Type} (m : AMap α) (f : Nat → α → α) : AMap α := m.map fun p => (p.1, f p.1 p.2)

end Sys2Proof.Machine
end

