-- ==== Sys2Proof/Machine/State.lean ====
section
/-! DEFINITION. The state of the device: every piece of state the spec gives it, as plain data. Fields
that the model adds for itself (which agent moves next, counters that number things and free values)
say so. -/

namespace Sys2Proof.Machine

/-! ### A group (R9) -/

/-- A scalar register with its format tag (R17). The tag raw is 0. -/
structure SReg where
  val : Word := 0
  tag : BitVec 4 := 0
  deriving DecidableEq, Repr

/-- A vector register: 96 lanes of 32 bits and one format tag (R17, R18). -/
structure VReg where
  tag : BitVec 4 := 0
  lanes : List Word := []
  deriving DecidableEq, Repr

/-- What a leaf entry points at: local memory, a peer window or a host window (R186). -/
inductive Target where
  | local
  | peer (win : Nat)
  | host (win : Nat)
  deriving DecidableEq, Repr

/-- A base register b0 to b3 (R21, R80). `start` is the physical byte that VB translated to, `run`
the first address of its run (R188). -/
structure BaseReg where
  vb : Addr := 0
  limit : Nat := 0
  rd : Bool := false
  wr : Bool := false
  valid : Bool := false
  everset : Bool := false
  target : Target := .local
  start : Nat := 0
  run : Nat := 0
  deriving DecidableEq, Repr

/-- A site: the clause header, the ticket and the word index (R244). -/
structure Site where
  clause : Addr := 0
  ticket : Word := 0
  word : Nat := 0
  deriving DecidableEq, Repr

/-- A clause in the fetch buffer: its header's address, the header and the words after it (R11, R165). -/
structure Clause where
  pc : Addr := 0
  header : Word := 0
  words : List Word := []
  deriving DecidableEq, Repr

/-- A register as an interlock, a look window or a fault names it. -/
inductive Reg where
  | s (n : Nat)
  | v (n : Nat)
  deriving DecidableEq, Repr

/-- An open look window: the instructions it still covers and the destinations it promises (R58). -/
structure Look where
  left : Nat
  regs : List Reg
  deriving DecidableEq, Repr

/-- A write that a long-latency instruction has yet to make to its destination. -/
inductive RegWrite where
  | sreg (r : Nat) (val : Word) (tag : BitVec 4)
  | vreg (r : Nat) (mask : LaneMask) (lanes : List Word) (tag : BitVec 4)
  deriving DecidableEq, Repr

/-- What brings a pending result: the event that completes it. -/
inductive ResultKind where
  | load | atomic | compute | store
  deriving DecidableEq, Repr

/-- One lane's part of a scratchpad store: its offset, its byte of the core's scratchpad, and what it stores. -/
structure BankLane where
  lane : Nat
  off : Nat
  key : Nat
  data : List Byte
  deriving DecidableEq, Repr

/-- A store on its way to a scratchpad: the core and the team it reaches, its lanes, and its place for the fault of a range
that a command has locked meanwhile (R214, R219, R281). `remote` names the scratchpad of another team (R220). -/
structure BankStore where
  core : Nat
  team : Nat
  remote : Bool := false
  lanes : List BankLane
  pc : Addr
  word : Nat
  site : Site
  deriving DecidableEq, Repr

/-- A result that is computed and not yet written, or a scratchpad store that the bank has yet to take:
its writes, the wait counter that falls with it, what it adds to harvest counters, and the store (R52, R58, R90). -/
structure Result where
  id : Nat
  kind : ResultKind
  writes : List RegWrite
  counter : Option Nat := none
  counts : List (Nat × Nat) := []
  bank : Option BankStore := none
  deriving DecidableEq, Repr

/-- One lane's part of an access to global memory. `key` is its physical byte (or window byte). -/
structure LaneAcc where
  lane : Nat
  va : Nat
  key : Nat
  data : List Byte := []
  b : Word := 0
  c : Word := 0
  deriving DecidableEq, Repr

/-- What a global access does when it is performed. -/
inductive AccessOp where
  | load (z : BitVec 3)
  | store
  | atomic (f : AtomFields) (lock : BitVec 1) (returns : Bool)
  deriving DecidableEq, Repr

/-- Where a returned value goes. -/
inductive Dest where
  | none
  | vec (r : Nat)
  | pair (r : Nat)
  | scalar (r : Nat)
  deriving DecidableEq, Repr

/-- An access to global memory that has issued and is not yet performed (R112, R202). `zeros` are the
helper lanes that receive zero (R147), `tag` the tag a load writes, `size` the bytes of each entry of
`lanes`; a lane of a private pair has two (R114). `replayOf` marks a replayed side-log entry with the number of its
instruction (R292), `pref` a prefetch (R115), `unsent` a replayed release whose part to a peer device waits for what it
releases (R223, R332). `sprint` marks one of the sprinter engine that takes effect, or executes, only once everything
older of its group has retired (R158, R236). -/
structure Access where
  id : Nat
  op : AccessOp
  size : Nat := 4
  dest : Dest := .none
  tag : BitVec 4 := 0
  zeros : LaneMask := 0
  lanes : List LaneAcc
  hint : BitVec 2 := 0
  order : BitVec 2 := 0
  scope : BitVec 3 := 0
  counter : Option Nat := none
  wake : Bool := false
  site : Site := {}
  retryAt : AMap Nat := []
  replayOf : Option Nat := none
  pref : Bool := false
  unsent : Bool := false
  sprint : Bool := false
  deriving DecidableEq, Repr

/-- A message: the sender's slot, team and index, the queue and the words (R232, R233). -/
structure Message where
  id : Nat
  ctx : Nat
  from_ : Nat
  team : Nat
  index : Nat
  toCore : Nat
  queue : Nat
  words : List Word
  deriving DecidableEq, Repr

/-- An entry of a range-lock table: the command, its team, a byte range and its kind, and the first clock of the core in
which it counts: the one after its entry, and at once for one that a restore brings (R214, R297). -/
structure RangeLock where
  cmd : Nat
  team : Nat
  lo : Nat
  hi : Nat
  dest : Bool
  from_ : Nat := 0
  deriving DecidableEq, Repr

/-- What a group waits for before it is ready again (R157). -/
inductive Wait where
  | none
  /-- fetch frozen until a 64-byte block of code arrives (R165) -/
  | fetch (block : Nat)
  /-- page walks that must finish before the instruction issues again (R187) -/
  | walk (pages : List Nat)
  /-- kind-1 records that wait for answers: sequence number and answer, with the address and lanes of the
  page fault that a deliver answer raises (R291) -/
  | records (recs : List (Nat × Option Nat)) (va : Nat) (lanes : LaneMask)
  /-- a store that needs a side-log entry while all are in use (R292) -/
  | sideLog
  /-- BARW or BARAW: phase of the barrier to end (R178) -/
  | barrier (n : Nat)
  /-- EWAIT or a ticket YIELD (R84, R266) -/
  | ticket (t : Word) (yield : Bool)
  /-- MWAIT (R266) -/
  | batch (t : Word)
  /-- MRECV: queue and the order in which waiting began (R233) -/
  | message (q : Nat) (since : Nat)
  /-- WAITW: the word's key, the order in which it registered and the clocks it may wait (R235) -/
  | word (key : Nat) (started : Nat) (limit : Nat)
  /-- a fence, release or barrier arrival at a scope whose conditions do not hold yet (R223, R228) -/
  | release (scope : BitVec 3)
  /-- ICINV until every named cache has dropped the blocks of [lo, hi) (R229) -/
  | icinv (lo hi : Nat) (scope : BitVec 3)
  /-- a command held at issue until it may take its range locks, its place in the matrix queue (`matrix`) and
  its place among the group's 32 (R214, R243, R248) -/
  | command (ents : List (Nat × RangeLock)) (matrix : Bool)
  /-- accesses to peer windows that have no answer yet (R332) -/
  | peer
  deriving DecidableEq, Repr

/-- A deferred fault that waits for a clause boundary (R285). -/
inductive Pending where
  | lateStore (site : Site) (count : Nat)
  | engine (site : Site) (status : Nat)
  deriving DecidableEq, Repr

/-- The registers a trap saves into (R298, R299). -/
structure TrapRegs where
  cause : BitVec 6 := 0
  mask : LaneMask := 0
  val : DWord := 0
  pc : Addr := 0
  word : BitVec 4 := 0
  site : Site := {}
  frame : Word := 0
  deriving DecidableEq, Repr

/-- The open region of the step cache: counted MACs by format pair (R258). -/
structure Region where
  key : Word
  id : Nat
  macs : AMap Nat := []
  deriving DecidableEq, Repr

/-- A promotion class (R162). -/
inductive PClass where
  | hint | tail | laggard | lock
  deriving DecidableEq, Repr

/-- Which engine issues the group, and the switches between them (R161). -/
inductive Engine where
  | herd
  | promoting (until_ : Nat)
  | sprinter
  | demoting (until_ : Nat)
  deriving DecidableEq, Repr

/-- A group slot of a core with the group resident in it (R9, R296). `lastIssue` and `lastPort` are the clock and the
port of its last issue (R157), and `issued` says that the instruction at its place, which waits, has issued; `qualHeld`
says that a qualification for promotion came while it waited (R163), and `demoteNext` that it is demoted once its switch
completes, or has been for the HALT at its place (R161, R162); `chunkPaid` says that the chunk which the instruction at its
place ends has committed before that instruction's wait is over (R361); `walkAt` is when a walk or fill of its code that got a retry
goes again, and `walkHeld` the line at which one is held through a recall (R194); `clauseDone` is the header of the last clause that it
ended outside a handler, and the clock (R360). -/
structure Group where
  resident : Bool := false
  halted : Bool := false
  ctx : Nat := 0
  grid : Nat := 0
  team : Nat := 0
  index : Nat := 0
  pc : Addr := 0
  word : Nat := 0
  s : AMap SReg := []
  ts : AMap SReg := []
  v : AMap VReg := []
  b : AMap BaseReg := []
  n : Nat := 128
  gctl : Word := 0
  gstat : BitVec 6 := 0
  helper : LaneMask := 0
  stklim : Word := 0
  pvbase : Addr := 0
  cycHold : Option Word := none
  harvHi : Word := 0
  ticket : Word := 0
  batch : Word := 0
  rng : AMap Word := []
  trapMode : Bool := false
  trap : TrapRegs := {}
  slotTags : AMap (BitVec 4) := []
  pending : List Pending := []
  counters : AMap Nat := []
  clause : Option Clause := none
  started : Bool := false
  fetchBuf : List Clause := []
  looks : List Look := []
  results : List Result := []
  accesses : List Access := []
  badPages : List (Nat × Nat) := []
  walkAt : Nat := 0
  walkHeld : Option Nat := none
  peerAns : List (Nat × Option (List Byte)) := []
  inbox : Option Message := none
  waitStart : Option Nat := none
  waitKey : Nat := 0
  waitAccess : Option Nat := none
  waitRead : Option Word := none
  waitAgain : Bool := false
  heldSince : Option Nat := none
  wait : Wait := .none
  resumed : Bool := false
  phases : AMap Nat := []
  arrivalDone : Bool := false
  region : Option Region := none
  lockDepth : Nat := 0
  classes : List PClass := []
  laggardOf : List Nat := []
  engine : Engine := .herd
  delayUntil : Option Nat := none
  promotedAt : Nat := 0
  demoteNext : Bool := false
  qualAt : Option Nat := none
  qualHeld : Bool := false
  displaced : Bool := false
  lastIssue : Option Nat := none
  lastPort : Nat := 0
  issued : Bool := false
  clauseDone : Option (Nat × Nat) := none
  chunk : Nat := 0
  chunkEnd : Option Nat := none
  chunkInput : Option Word := none
  chunkPaid : Bool := false
  sampledAt : Nat := 0
  deriving DecidableEq, Repr

/-- The open chunk of a group of a logging or replaying context: the group as it began the chunk, the lines it has read,
whether one of them has been written since, whether the chunk has done what no other may see before it commits, and what
its instructions have added to the harvest counters (R361). DEDUCED, log entry 46. -/
structure Chunk where
  start : Group
  reads : List Nat := []
  stale : Bool := false
  firm : Bool := false
  counts : AMap Nat := []
  deriving DecidableEq, Repr

/-! ### A core -/

/-- A line of an L1: for each sector valid, dirty, filled and pinned, the scope record, and the bytes
(R193). `stale` marks a clean sector whose bytes another agent has since changed at the home, and `used` is the core's
clock at its last use (the model's own). DEDUCED, log entries 97 and 98. -/
structure L1Line where
  valid : BitVec 4 := 0
  dirty : BitVec 4 := 0
  filled : BitVec 4 := 0
  stale : BitVec 4 := 0
  used : Nat := 0
  pinned : BitVec 4 := 0
  rec_ : BitVec 3 := 0
  bytes : AMap Byte := []
  deriving DecidableEq, Repr

/-- A page a TLB holds: its context, virtual base, size, physical base and permissions (R186, R189). -/
structure TlbEntry where
  ctx : Nat
  va : Nat
  size : Nat
  start : Nat
  target : Target
  rd : Bool
  wr : Bool
  ex : Bool
  deriving DecidableEq, Repr

/-- A write held in a side log: one instruction's writes to one line; `hold` until the answer to its record
(R292). -/
structure SideEntry where
  group : Nat
  ctx : Nat
  line : Nat
  lanes : List LaneAcc
  op : AccessOp
  hint : BitVec 2
  order : BitVec 2
  scope : BitVec 3
  wake : Bool
  site : Site
  seq : Nat
  hold : Bool := true
  deriving DecidableEq, Repr

/-- The scheduling and memory events a core counts (R167, R200, R363). -/
structure CoreEvents where
  fragmentation : Nat := 0
  slips : Nat := 0
  promotions : AMap Nat := []
  displacements : Nat := 0
  demotions : Nat := 0
  replays : Nat := 0
  pinRetries : Nat := 0
  recalls : Nat := 0
  pinnedEvictions : Nat := 0
  tlbMisses : Nat := 0
  retranslations : Nat := 0
  corrections : Nat := 0
  deriving DecidableEq, Repr

/-- A core: how far its clock count is ahead of the clocks of the package (R3, R25), L1, TLB, scratchpad bytes, range locks with those cleared of late and the clock of each clear, side log and message queues; `arrivals` holds the
clock and sender of the last message that each queue took (R317). -/
structure Core where
  ahead : Nat := 0
  l1 : AMap L1Line := []
  tlb : List TlbEntry := []
  scratch : AMap Byte := []
  locks : List RangeLock := []
  cleared : List (Nat × RangeLock) := []
  sideLog : List SideEntry := []
  queues : AMap (List Message) := []
  arrivals : AMap (Nat × Nat) := []
  limitAt : Option Nat := none
  failed : Bool := false
  seed : Bool := false
  trialStart : Option Nat := none
  nextSample : Nat := 0
  events : CoreEvents := {}
  deriving DecidableEq, Repr

/-- A 64-byte block of a cluster's instruction cache (R165, R229). DESIGN CHOICE, log entry 44. -/
structure CodeBlock where
  ctx : Nat
  va : Nat
  key : Nat
  bytes : List Byte
  deriving DecidableEq, Repr

/-- A cluster of four cores: its instruction cache and instruction TLB (R165, R199), and the block of a context that
a hint has asked the cache for (R51, R83). -/
structure Cluster where
  icache : List CodeBlock := []
  asked : Option (Nat × Nat) := none
  itlb : List TlbEntry := []
  absent : Bool := false
  deriving DecidableEq, Repr

/-! ### Work -/

/-- A launch record as the dispatcher read it (R149). -/
structure Launch where
  grid : DWord := 0
  entry : Addr := 0
  param : DWord := 0
  teams : Nat := 1
  tpg : Nat := 1
  gpt : Nat := 1
  extent : Nat := 1
  vregs : Nat := 8
  scratch : Nat := 0
  priv : Nat := 0
  gctl : Word := 0
  seed : Word := 0
  dep : Bool := false
  donew : Bool := false
  pager : Bool := false
  pbitmap : Nat := 0
  pteams : Nat := 0
  map : Nat := 0
  maparg : Nat := 0
  maptab : Nat := 0
  cbitmap : Nat := 0
  done : Nat := 0
  deriving DecidableEq, Repr

/-- An access of the dispatcher that met an unmapped page and waits for an answer (R153). -/
structure DispatcherHold where
  seq : Nat
  va : Nat
  write : Bool
  deriving DecidableEq, Repr

/-- A grid the dispatcher has taken: its record, the gangs placed, the teams released and ended, the bits set, and
its completion (R151 to R153). `offered`: its next gang fitted nowhere since a team last ended (R155). -/
structure Grid where
  ctx : Nat
  queue : Nat
  prio : Nat
  launch : Launch
  placed : List Nat := []
  released : List Nat := []
  ended : List Nat := []
  bits : List Nat := []
  offered : Bool := false
  cancelled : Bool := false
  holds : List DispatcherHold := []
  deriving DecidableEq, Repr

/-- A barrier of a team or gang: phase and arrived set, and for each core with waiters that a completed phase
readies, the clock of that core at which it does (R3, R178). -/
structure Barrier where
  phase : Nat := 0
  arrived : List Nat := []
  due : Bool := false
  quorumAt : Option Nat := none
  wakeAt : AMap Nat := []
  deriving DecidableEq, Repr

/-- A placed team: its core, its slots in group order, its register blocks and scratchpad, and its team
barriers (R145, R154). -/
structure Team where
  ctx : Nat
  grid : Nat
  index : Nat
  gang : Nat
  core : Nat
  slots : List Nat
  block : Nat
  blocks : Nat
  scratchBase : Nat
  scratch : Nat
  vregs : Nat
  priv : Nat
  barriers : AMap Barrier := []
  ended : Bool := false
  deriving DecidableEq, Repr

/-- A placed gang: its teams in order and its gang barriers (R145, R177). -/
structure Gang where
  grid : Nat
  teams : List Nat
  barriers : AMap Barrier := []
  deriving DecidableEq, Repr

/-! ### Engine commands -/

/-- The engine commands (R241). -/
inductive CmdKind where
  | cpy | mma | mmas | mmag | gath | scat | scprobe | scsave | nredx
  deriving DecidableEq, Repr

/-- How far a command has come: `stopped` waits for the answer to a record (R246), `asking` for a peer device,
`sent` for its round (R262); `begun` has written the first part of its step-store entry (R260). -/
inductive CmdPhase where
  | queued
  | running
  | stopped (seq : Nat) (va : Nat)
  | asking
  | sent
  | begun
  deriving DecidableEq, Repr

/-- A command that has issued and not completed (R241 to R244, R296): its block as it read it, the region and
batch it belongs to, and how far its engine has come: elements (`progress`), native tile and step with acc and
buf of the tile's elements in row order (R254), elements performed and failed (R256), a probe's first read and
match state (R261), a reduction's contribution, round, result and failure status, and the answers of peer devices for
the element in hand. `cleared` once a GATH or SCAT has cleared DONE (R257); a retry at a home slice is sent again at
`retryAt` (R194). `saved` while its team is saved. `old` is what the scalar that takes its ticket held before: a store of
its group that faults at its bank undoes it (R27, R281). `age` is the clock in which a reduction's contribution, or later its
result, set out (R316). -/
structure Cmd where
  group : Nat
  ctx : Nat
  grid : Nat
  team : Nat
  core : Nat
  kind : CmdKind
  ticket : Word
  site : Site
  block : List Word
  acc : Bool := false
  sp : Bool := false
  bf16 : Bool := false
  scope : BitVec 3 := 0
  step : Word := 0
  fmt : Word := 0
  rows : List (Option Nat) := []
  counter : Option Nat := none
  batch : Option Nat := none
  region : Option Nat := none
  macs : AMap Nat := []
  phase : CmdPhase := .queued
  begun : Bool := false
  sourceRead : Bool := false
  progress : Nat := 0
  tile : Nat := 0
  tileStep : Nat := 0
  accs : List Nat := []
  bufs : List Word := []
  done : Nat := 0
  fails : List (Nat × Nat × Nat) := []
  matching : Bool := true
  header : List Word := []
  round : Option Nat := none
  data : List Word := []
  result : Option (List Word) := none
  status : Nat := 0
  answers : List (Option (List Byte)) := []
  cleared : Bool := false
  retryAt : Nat := 0
  saved : Bool := false
  old : Option (Nat × SReg) := none
  age : Nat := 0
  deriving DecidableEq, Repr

/-- A partial of a reduction slot that a router holds: at the slot's root its round (R320 to R322). It has the first
contribution's n and P, the merged partial, the contributors (commands, and peers' partials by device and number), and
whether it has completed; `bad` where a router on the way to the root found a disagreement (R321); `age` is the clock of its
last merge (R316). -/
structure Round where
  ctx : Nat
  scope : BitVec 3
  inst : Nat
  slot : Nat
  n : Nat
  p : Nat
  count : Nat
  elems : List PartialElem
  contributors : List Nat
  peers : List (Nat × Nat) := []
  node : Nat
  bad : Bool := false
  completed : Bool := false
  age : Nat := 0
  deriving DecidableEq, Repr

/-! ### Contexts -/

/-- The stage of a context's pre-emption (R294, R304). -/
inductive Preempt where
  | none | draining | saved
  deriving DecidableEq, Repr

/-- A CTXSAVE or CTXLOAD whose status word is still to be written: the target context, the issuing context
and the address in it (R304). -/
structure CtxRequest where
  target : Nat
  save : Bool
  issuer : Nat
  addr : Nat
  status : Option Nat := none
  deriving DecidableEq, Repr

/-- A saved team (R296): the team with its barriers and the core it lay on, its number, its groups by the slots they held,
its range-lock entries, its side-log entries, the queues of a core saved whole with the messages on their way to it, and
where in memory its record lies, of `size` bytes; its scratchpad and private words stand there. `free` and `regs` number the
free bytes that the parts before and after those two were written with. `offered`: it fitted
nowhere since a team last ended (R155). Its commands stay in the list of commands. DESIGN CHOICE, log entry 68. -/
structure SavedTeam where
  team : Team
  key : Nat
  groups : List (Nat × Group)
  locks : List RangeLock
  sideLog : List SideEntry
  queues : AMap (List Message)
  messages : List Message
  at_ : Nat
  size : Nat
  free : Nat := 0
  regs : Nat := 0
  offered : Bool := false
  deriving DecidableEq, Repr

/-- A translation request in progress (R189, R192): its range, a compaction's frame, the address of its status, and
the accesses, and the requests to peer devices, that it waits for. -/
structure XlateOp where
  compact : Bool
  va : Nat
  bytes : Nat
  frame : Nat
  done : Nat
  waitFor : List (Nat × Nat) := []
  waitPeers : List (Nat × Nat) := []
  deriving DecidableEq, Repr

/-- A register of a slice that watches a line for its reuse, from the clock `armed` on; `leaving` in the clock in which
it is reused (true) or displaced (false), then by the arming for line `by_` (R359). -/
structure ReuseReg where
  ctx : Nat
  slot : Nat
  slice : Nat
  line : Nat
  armed : Nat := 0
  d : Nat := 0
  filter : List Nat := []
  leaving : Option Bool := none
  by_ : Nat := 0
  deriving DecidableEq, Repr

/-- A commit's log record, with the input it read; `size` is the number of instructions less 1 (R361). -/
structure LogRecord where
  agent : Nat
  core : Nat
  slot : Nat
  end_ : Nat
  size : Nat
  input : Option Word
  deriving DecidableEq, Repr

/-- The causal trial of a context (R360). -/
structure Trial where
  lo : Nat
  hi : Nat
  delay : Nat
  counter : Nat
  target : Nat
  deriving DecidableEq, Repr

/-- The observation block of a context (R357 to R362) and what arms it. -/
structure Observe where
  progress : AMap Nat := []
  trialResults : AMap Nat := []
  buckets : AMap Nat := []
  mode : Nat := 0
  chunks : Nat := 0
  squashes : Nat := 0
  divergences : Nat := 0
  log : List LogRecord := []
  replayAt : Nat := 0
  ringBase : Nat := 0
  ringEntries : Nat := 0
  ringHead : Nat := 0
  ringTail : Nat := 0
  dropped : Nat := 0
  trial : Option Trial := none
  deriving DecidableEq, Repr

/-- A live context: its descriptor (R334), STEP (R258), harvest counters (R336) with
those that stood when the present clock began (R340), queue numbers and held
records (R290, R330), the unanswered records' entries and addresses by number and the answers that a wake has named, pre-emption (R294) and
observation block (R357). -/
structure Context where
  priv : Bool := false
  pager : Bool := false
  clusters : DWord := 0
  job : DWord := 0
  ptroot : Nat := 0
  saveArea : Nat := 0
  faultq : Nat := 0
  eventq : Nat := 0
  xlate : Nat := 0
  pvbase : Nat := 0
  tbase : Addr := 0
  stepbase : Nat := 0
  stepj : Nat := 0
  stepent : Nat := 0
  preemptLimit : Word := 0
  sysroot : List Byte := []
  peerwin : Nat := 0
  pvstride : Nat := 1
  step : Word := 0
  harvest : AMap Nat := []
  harvestWas : AMap Nat := []
  saturated : List Nat := []
  faultSeq : Nat := 0
  eventSeq : Nat := 0
  heldFaults : List (List Word) := []
  heldEvents : List (List Word) := []
  records : AMap (Nat × Nat) := []
  woken : List Nat := []
  eventAt : AMap Nat := []
  preempt : Preempt := .none
  saved : List SavedTeam := []
  xlateOp : Option XlateOp := none
  lastCore : Option Nat := none
  fits : Bool := true
  roster : List Byte := []
  observe : Observe := {}
  deriving DecidableEq, Repr

/-! ### The package and its ports -/

/-- A line's pins at its home slice: the core that holds each pinned sector, the retries given, and the
requests held while the line is recalled (R194). -/
structure Pin where
  owners : AMap Nat := []
  retries : Nat := 0
  recalling : Bool := false
  held : List (Nat × Nat) := []
  deriving DecidableEq, Repr

/-- A crossbar router or die-link end: powered or not, the clock in which it last powered down and that from which it
has been idle, its event counts (R318, R319, R324), and of the flit that it served last the clock, the place of its
class in the order of service, its age and its queue (R316); `waiting` counts the flits that wait there for it to be
woken. -/
structure Router where
  powered : Bool := true
  downAt : Option Nat := none
  idleFrom : Nat := 0
  last : Option (Nat × Nat × Nat × Nat) := none
  waiting : Nat := 0
  powerDowns : Nat := 0
  abandoned : Nat := 0
  wakes : Nat := 0
  delayed : Nat := 0
  merged : Nat := 0
  rounds : Nat := 0
  deriving DecidableEq, Repr

/-- A wake on its way to a core, with its number in the order of sending (R234, R215, R316), and where it comes from: a
core, or 256 for the husk (R314). -/
structure Wake where
  id : Nat
  from_ : Nat
  core : Nat
  key : Nat
  deriving DecidableEq, Repr

/-- A registered Tiade window (R327). -/
structure Window where
  ctx : Nat
  base : Nat
  length : Nat
  rd : Bool
  wr : Bool
  key : Word
  deriving DecidableEq, Repr

/-- A packet or response the host port sends: its stream, number, status and payload (R325 to R329). -/
structure HostOut where
  op : Nat
  stream : Nat
  psn : BitVec 32
  status : Nat
  payload : List Byte
  deriving DecidableEq, Repr

/-- A peer port: whether its link carries traffic, its partner and the SEQ in force when it authenticated, the
signature that this end sent last, and what it counts (R331, R341). -/
structure PeerPort where
  up : Bool := false
  partner : List Byte := []
  authSeq : Nat := 0
  signed : List Byte := []
  failures : Nat := 0
  retryAt : Option Nat := none
  crcErrors : Nat := 0
  deriving DecidableEq, Repr

/-- An access sent to a peer device and not yet acknowledged: its key in the peer window, the remote context and virtual
address that the window's entry gives it, whether it lies within the entry's length, its group, lane and virtual address,
and for a store the access it belongs to and its site, or the engine command, the commands of a partial, or the host's
access and the offset in it (R327, R332, R333, R335). `port` carries it, 16 for none. -/
structure PeerSend where
  dev : Nat
  seq : Nat
  key : Nat := 0
  rctx : Nat := 0
  rva : Nat := 0
  fits : Bool := true
  op : PeerOp
  group : Nat
  lane : Nat
  va : Nat
  access : Option Nat := none
  cmd : Option Nat := none
  cmds : List Nat := []
  host : Option (Nat × Nat) := none
  site : Site := {}
  since : Nat := 0
  port : Nat := 0
  deriving DecidableEq, Repr

/-- What the device answers to a peer's access: whether it was performed, and the bytes of a load or atomic
(R332, R333). -/
structure PeerAnswer where
  dev : Nat
  seq : Nat
  ok : Bool
  data : List Byte
  deriving DecidableEq, Repr

/-- An access of a host stream to bytes of a peer window, answered once the peer devices have acknowledged every part:
its packet's stream and number, the bytes that have come by their offset, the parts still out, and whether one failed
(R327, R332); or one of a peer device, with its device and number. DEDUCED, log entry 104. -/
structure HostWait where
  stream : Nat
  psn : BitVec 32
  peer : Option (Nat × Nat) := none
  parts : List (Nat × List Byte) := []
  left : Nat
  failed : Bool := false
  deriving DecidableEq, Repr

/-- One of the nine control functions: basic control word and expert block (R369); `due` while a write has not taken
effect. -/
structure Control where
  en : Bool
  level : Nat := 0
  expert : AMap Word := []
  due : Bool := false
  deriving DecidableEq, Repr

/-- A write of a control function: its basic control word, or a word of its expert block (R369). -/
inductive ControlWrite where
  | basic (fn : Nat) (w : Word)
  | expert (fn idx : Nat) (w : Word)
  deriving DecidableEq, Repr

/-- The boot record (R365). -/
structure BootRecord where
  failStep : Nat := 0
  alt : Nat := 0
  detail : Nat := 0
  boots : Nat := 0
  deriving DecidableEq, Repr

/-- Soft errors that a turn may bring: one that is corrected; one that spoils a line; one of a register, which no replay
mends; one of a word of a scratchpad or queue, with its address (R368). -/
inductive SoftError where
  | none
  | corrected
  | line
  | register
  | word (va : Nat)
  deriving DecidableEq, Repr

/-- Which agent moves: a group of a core issues, another agent of the device takes the step that an event of
the table names, an engine goes on with n elements or steps of a command, or the management firmware writes `data` at
a local address, or with no data reads n bytes there (R370). -/
inductive Act where
  | issue (g : Nat)
  | event (i : Instr)
  | engine (cmd n : Nat)
  | dma (at_ n : Nat) (data : List Byte)
  deriving DecidableEq, Repr

/-- A turn: the clocks that pass before it on every unit, the further clocks of single cores, the act, and the soft
error it meets (the model's own). DESIGN CHOICE, log entry 4. -/
structure Turn where
  dt : Nat := 1
  ticks : List (Nat × Nat) := []
  act : Act
  err : SoftError := .none
  deriving DecidableEq, Repr

/-- The state of the device. -/
structure State where
  /-- what the schedule still holds (the model's own); empty: the eager order of Step.lean -/
  turns : List Turn := []
  /-- the group that issues next, 48 * core + slot (the model's own) -/
  cur : Nat := 0
  /-- numbers things made at run time: accesses, commands, teams (the model's own) -/
  fresh : Nat := 1
  /-- numbers uses of free values (the model's own) -/
  free : Nat := 0
  /-- clocks of the units that lie on no core: routers, links, ports (the model's own) -/
  clock : Nat := 0
  /-- the soft error that the present turn meets (the model's own) -/
  err : SoftError := .none
  /-- whether an interlock holds the group that the present sample takes (R358; the model's own) -/
  interlock : Bool := false
  groups : AMap Group := []
  chunks : AMap Chunk := []
  cores : AMap Core := []
  clusters : AMap Cluster := []
  mem : AMap Byte := []
  poison : List Nat := []
  l2 : List Nat := []
  pins : AMap Pin := []
  /-- the group that a line at its home slice or in an L1, or a core's scratchpad, last served and the clock (R226; the
  model's own) -/
  served : AMap (Nat × Nat) := []
  reuse : List ReuseReg := []
  contexts : AMap Context := []
  grids : AMap Grid := []
  teams : AMap Team := []
  gangs : AMap Gang := []
  queueTable : Option Nat := none
  queueSeen : AMap Word := []
  requests : List CtxRequest := []
  cmds : AMap Cmd := []
  rounds : AMap Round := []
  messages : List Message := []
  wakes : List Wake := []
  routers : AMap Router := []
  windows : AMap Window := []
  streams : AMap (BitVec 32) := []
  hostOut : List HostOut := []
  framesDropped : Nat := 0
  windowFails : Nat := 0
  hostWaits : AMap HostWait := []
  ports : AMap PeerPort := []
  allow : List (List Byte) := []
  peerSeq : AMap Nat := []
  peerSends : List PeerSend := []
  peerDone : List (Nat × Nat) := []
  peerOut : List PeerAnswer := []
  seq : Nat := 0
  resets : Nat := 0
  off : Bool := false
  boot : BootRecord := {}
  spares : List BootFailure := []
  controls : AMap Control := []
  inForce : AMap Control := []
  /-- the clock in which the firmware last wrote a control, what it wrote in it, and the controls before that (R369) -/
  firmwareAt : Option Nat := none
  firmwareWrites : List ControlWrite := []
  controlsWas : AMap Control := []
  clamps : Nat := 0
  dmaDrops : Nat := 0
  clockStep : Nat := 0
  powerStep : Nat := 0
  coolant : Bool := true
  dieCorrections : Nat := 0
  deriving DecidableEq, Repr

/-- Why the machine stops. DESIGN CHOICE, log entry 85. -/
inductive Fault where
  /-- Raised by a turn of any unit while the module is off: it stays off until the management host clears
  FAILSTEP (R365). Safe: the machine is stuck there, as the part is. -/
  | moduleOff
  deriving DecidableEq, Repr

/-- Why an instruction or turn has no meaning. -/
inductive Refusal where
  /-- An instruction the model gives no meaning to yet, by its mnemonic. Safe. -/
  | notModelled (mnemonic : String)
  /-- A turn of the schedule that names an event whose conditions do not hold: the device does not take that
  step then. Safe: no such run exists. -/
  | notEnabled (event : String)
  /-- A turn of the schedule that names an instruction where an event stands. Safe: no such run exists. -/
  | notAnEvent
  deriving DecidableEq, Repr

/-- The nine control functions after reset: EN 1 for 0x000 to 0x040, 0 otherwise, LEVEL 0 (R369). -/
def resetControls : AMap Control :=
  [(0, { en := true }), (1, { en := true }), (2, { en := true }), (3, { en := true }),
    (4, { en := true }), (5, { en := false }), (6, { en := false }), (7, { en := false }),
    (8, { en := false })]

/-- The device right after module reset: no context, no work, empty caches, the controls of R369. Every
field not named here stands at the value its structure gives.
DESIGN CHOICE where the spec names no value, log entry 1. -/
def State.reset : State := { controls := resetControls, inForce := resetControls }

end Sys2Proof.Machine
end

