-- ==== Sys2Proof/Machine/Ops.lean ====
section
/-! DEFINITION. The named operations over registers and memory, the fault queue, taking an exception (R286,
R287), and the frame in which every instruction runs: its decode faults in the order of R66, its
interlocks, its effect, and its retirement. -/

namespace Sys2Proof.Machine

/-! ### Bytes and words -/

/-- The number whose bytes, lowest first, are given (R5). -/
def leNat : List Byte → Nat
  | [] => 0
  | b :: bs => b.toNat + 256 * leNat bs

/-- The n bytes of a number, lowest first (R5). -/
def leBytes : Nat → Nat → List Byte
  | 0, _ => []
  | n + 1, v => BitVec.ofNat 8 v :: leBytes n (v / 256)

/-- The bytes of words, lowest first. -/
def wordsBytes (ws : List Word) : List Byte := ws.flatMap fun w => leBytes 4 w.toNat

/-- The words of bytes. -/
def bytesWords : Nat → List Byte → List Word
  | 0, _ => []
  | n + 1, bs => BitVec.ofNat 32 (leNat (bs.take 4)) :: bytesWords n (bs.drop 4)

/-- The numbers 0 to 95. -/
def laneList : List Nat := List.range 96

/-- A mask from a condition on lanes. -/
def maskOf (f : Nat → Bool) : LaneMask :=
  BitVec.ofNat 96 (laneList.foldl (fun m l => if f l then m + 2 ^ l else m) 0)

/-- The lanes of a mask, rising. -/
def lanesOf (m : LaneMask) : List Nat := laneList.filter fun l => m.getLsbD l

/-- The number of one bits. -/
def popCount (m : LaneMask) : Nat := (lanesOf m).length

/-! ### Parts of the state -/

/-- The core of a group slot. -/
def coreOf (k : Nat) : Nat := k / 48

/-- The slot number within its core. -/
def slotOf (k : Nat) : Nat := k % 48

/-- The group in a slot. -/
def State.group (s : State) (k : Nat) : Group := s.groups.get {} k

/-- The state with the group in a slot replaced. -/
def State.setGroup (s : State) (k : Nat) (g : Group) : State := { s with groups := s.groups.put k g }

/-- The state with the group in a slot changed. -/
def State.modGroup (s : State) (k : Nat) (f : Group → Group) : State := s.setGroup k (f (s.group k))

/-- The group that issues. -/
def State.g (s : State) : Group := s.group s.cur

/-- The state with the group that issues replaced. -/
def State.setG (s : State) (g : Group) : State := s.setGroup s.cur g

/-- A core. -/
def State.core (s : State) (c : Nat) : Core := s.cores.get {} c

/-- The state with a core replaced. -/
def State.setCore (s : State) (c : Nat) (x : Core) : State := { s with cores := s.cores.put c x }

/-- The state with a core changed. -/
def State.modCore (s : State) (c : Nat) (f : Core → Core) : State := s.setCore c (f (s.core c))

/-- A cluster. -/
def State.cluster (s : State) (c : Nat) : Cluster := s.clusters.get {} c

/-- The state with a cluster changed. -/
def State.modCluster (s : State) (c : Nat) (f : Cluster → Cluster) : State :=
  { s with clusters := s.clusters.put c (f (s.cluster c)) }

/-- A context; the default stands for none. -/
def State.context (s : State) (c : Nat) : Context := s.contexts.get {} c

/-- The state with a live context changed. -/
def State.modCtx (s : State) (c : Nat) (f : Context → Context) : State :=
  { s with contexts := s.contexts.modify c f }

/-- A core's clock count: it runs with the package and, from turns that give single cores further clocks, ahead of it
(R3, R25). DESIGN CHOICE, log entry 57. -/
def State.coreCycle (s : State) (c : Nat) : Nat := s.clock + (s.core c).ahead

/-- The clock count of a group's core (R25). -/
def State.cycle (s : State) (k : Nat) : Nat := s.coreCycle (coreOf k)

/-- A fresh number, and the state that has used it. -/
def State.bump (s : State) : State := { s with fresh := s.fresh + 1 }

/-- A count that stops at 2^64 - 1 (R337, R357, R363). -/
def sat64 (n : Nat) : Nat := min n (2 ^ 64 - 1)

/-- Event counts, each stopped at 2^64 - 1 (R363). -/
def CoreEvents.sat (e : CoreEvents) : CoreEvents :=
  { fragmentation := sat64 e.fragmentation, slips := sat64 e.slips, promotions := e.promotions.mapVals fun _ n => sat64 n
    displacements := sat64 e.displacements, demotions := sat64 e.demotions, replays := sat64 e.replays
    pinRetries := sat64 e.pinRetries, recalls := sat64 e.recalls, pinnedEvictions := sat64 e.pinnedEvictions
    tlbMisses := sat64 e.tlbMisses, retranslations := sat64 e.retranslations, corrections := sat64 e.corrections }

/-- Adds to a core's event counts. -/
def State.countEvent (s : State) (c : Nat) (f : CoreEvents → CoreEvents) : State :=
  s.modCore c fun x => { x with events := (f x.events).sat }

/-- Adds to a harvest counter of a context: it stops at 2^64 - 1 and then sets its SATWORD bit (R337). -/
def State.harvest (s : State) (c i n : Nat) : State :=
  s.modCtx c fun x =>
    let v := x.harvest.get 0 i + n
    { x with
      harvest := x.harvest.set 0 i (sat64 v)
      saturated := if 2 ^ 64 ≤ v && !x.saturated.contains i then x.saturated ++ [i] else x.saturated }

/-- Adds several amounts to harvest counters. -/
def State.harvests (s : State) (c : Nat) (l : List (Nat × Nat)) : State :=
  l.foldl (fun s p => if p.2 = 0 then s else s.harvest c p.1 p.2) s

/-! ### Registers -/

/-- A scalar as a field names it: in trap mode 0 to 7 name ts0 to ts7 (R286). DEDUCED, log entry 14. -/
def Group.sreg (g : Group) (r : Nat) : SReg :=
  if g.trapMode && r < 8 then g.ts.get {} r else g.s.get {} r

/-- A scalar's 32 bits. -/
def Group.sval (g : Group) (r : Nat) : Word := (g.sreg r).val

/-- Writes a scalar with its tag (R18). -/
def Group.setS (g : Group) (r : Nat) (v : Word) (tag : BitVec 4) : Group :=
  if g.trapMode && r < 8 then { g with ts := g.ts.set {} r ⟨v, tag⟩ }
  else { g with s := g.s.set {} r ⟨v, tag⟩ }

/-- The execution mask: s61 lanes 0 to 31, s62 lanes 32 to 63, s63 lanes 64 to 95 (R14, R15). -/
def Group.xm (g : Group) : LaneMask :=
  (g.s.get {} 63).val ++ (g.s.get {} 62).val ++ (g.s.get {} 61).val

/-- Whether a lane is active (R14). -/
def Group.active (g : Group) (l : Nat) : Bool := g.xm.getLsbD l

/-- The 96-bit value of a triple, lane l at bit (l mod 32) of word floor(l / 32) (R86). -/
def Group.triple (g : Group) (r : Nat) : LaneMask := g.sval (r + 2) ++ g.sval (r + 1) ++ g.sval r

/-- Writes a triple with the tag mask in all three words (R86). -/
def Group.setTriple (g : Group) (r : Nat) (m : LaneMask) : Group :=
  ((g.setS r (m.extractLsb' 0 32) 13).setS (r + 1) (m.extractLsb' 32 32) 13).setS (r + 2)
    (m.extractLsb' 64 32) 13

/-- A vector register. -/
def Group.vreg (g : Group) (r : Nat) : VReg := g.v.get {} r

/-- One lane of a vector register. -/
def Group.lane (g : Group) (r l : Nat) : Word := (g.vreg r).lanes.getD l 0

/-- Writes the lanes of a mask and the tag of a vector register; an empty mask changes nothing (R14, R18). -/
def Group.setV (g : Group) (r : Nat) (m : LaneMask) (f : Nat → Word) (tag : BitVec 4) : Group :=
  if m = 0 then g
  else
    let old := (g.vreg r).lanes
    { g with
      v := g.v.put r ⟨tag, laneList.map fun l => if m.getLsbD l then f l else old.getD l 0⟩ }

/-- A base register b0 to b3 (R21). -/
def Group.base (g : Group) (n : Nat) : BaseReg := g.b.get {} n

/-- The value of a scalar pair: low word first (R5, R78). -/
def Group.pairNat (g : Group) (r : Nat) : Nat := (g.sval (r + 1)).toNat * 2 ^ 32 + (g.sval r).toNat

/-- A scalar's number in the register file: a trap scalar ts0 to ts7 is 64 to 71, so that a result on its way to it
stays its own across RTE (R286, R302). -/
def Group.phys (g : Group) (r : Nat) : Nat := if g.trapMode && r < 8 then 64 + r else r

/-- A register by its number in the register file. -/
def Group.physReg (g : Group) : Reg → Reg
  | .s r => .s (g.phys r)
  | .v r => .v r

/-- The scalar at a number of the register file. -/
def Group.file (g : Group) (r : Nat) : SReg := if 64 ≤ r then g.ts.get {} (r - 64) else g.s.get {} r

/-- Makes a pending register write (R58); a scalar is named by its number in the register file. -/
def Group.write (g : Group) (w : RegWrite) : Group :=
  match w with
  | .sreg r v t => if 64 ≤ r then { g with ts := g.ts.set {} (r - 64) ⟨v, t⟩ } else { g with s := g.s.set {} r ⟨v, t⟩ }
  | .vreg r m l t => g.setV r m (fun i => l.getD i 0) t

/-- GCTL.FMT (R24). -/
def Group.fmt (g : Group) : Bool := g.gctl.getLsbD 3

/-- GCTL.FTZ (R24). -/
def Group.ftz (g : Group) : Bool := g.gctl.getLsbD 2

/-- GCTL.RM (R24). -/
def Group.rm (g : Group) : RMode := RMode.ofGctl (g.gctl.extractLsb' 0 2)

/-- GCTL.TEN (R24). -/
def Group.ten (g : Group) : Flags := g.gctl.extractLsb' 8 6

/-- Raises a wait counter at issue (R52). -/
def Group.raiseCounter (g : Group) (c : Nat) : Group :=
  { g with counters := g.counters.set 0 c (g.counters.get 0 c + 1) }

/-- Lowers a wait counter (R52). -/
def Group.lowerCounter (g : Group) (c : Option Nat) : Group :=
  match c with
  | none => g
  | some c => { g with counters := g.counters.set 0 c (g.counters.get 0 c - 1) }

/-- The registers that a pending write will change. -/
def RegWrite.reg : RegWrite → Reg
  | .sreg r _ _ => .s r
  | .vreg r _ _ _ => .v r

/-- The registers that an access in flight will write. -/
def Access.regs (a : Access) : List Reg :=
  match a.dest with
  | .none => []
  | .vec r => [.v r]
  | .pair r => [.v r, .v (r + 1)]
  | .scalar r => [.s r]

/-- The registers that issued instructions have yet to write (R58, R87). -/
def Group.pendingRegs (g : Group) : List Reg :=
  (g.results.flatMap fun r => r.writes.map RegWrite.reg) ++ g.accesses.flatMap Access.regs

/-- Every earlier instruction of the group has completed (R27, R58). -/
def Group.quiet (g : Group) : Bool := g.results.isEmpty && g.accesses.isEmpty

/-- Every earlier instruction of the group has retired: no register, tag or count of one is still to come. A store or
reduction on its way to memory has retired (R73, R158). DEDUCED, log entry 90. -/
def Group.retired (g : Group) : Bool :=
  g.results.all (fun r => r.kind == .store) && g.accesses.all fun a => a.dest == .none

/-- Every instruction of the group older than the one that issued with a number has retired (R158). DEDUCED, log entry 90. -/
def Group.retiredBefore (g : Group) (id : Nat) : Bool :=
  (g.results.all fun r => r.kind == .store || id ≤ r.id) && g.accesses.all fun a => a.dest == .none || id ≤ a.id

/-- The counters that a clause waits for read zero (R52). -/
def Group.waitMet (g : Group) (h : Word) : Bool :=
  (List.range 8).all fun i => !(h.getLsbD (8 + i)) || g.counters.get 0 i == 0

/-! ### Home memory -/

/-- The byte that the home slice holds. A byte that nothing has written reads 0 (a choice of the model).
DESIGN CHOICE for bytes nothing has written, log entry 2. -/
def State.byte (s : State) (k : Nat) : Byte := s.mem.get 0 k

/-- The home bytes from k. -/
def State.bytes (s : State) (k n : Nat) : List Byte := (List.range n).map fun i => s.byte (k + i)

/-- Home memory in its canonical form: addresses rise strictly, and no entry holds what an unlisted address reads as. -/
def Memory.wf (m : AMap Byte) : Bool := m.sorted && m.all fun p => p.2 != 0

/-- Home memory with bytes put from k. -/
def putBytes (m : AMap Byte) (k : Nat) : List Byte → AMap Byte
  | [] => m
  | b :: bs => putBytes (m.set 0 k b) (k + 1) bs

/-- The line of a byte (R2). -/
def lineOf (k : Nat) : Nat := k / 192

/-- The sector of a byte within its line (R193). -/
def sectorOf (k : Nat) : Nat := k % 192 / 48

/-- The sectors of a line that bytes k to k + n - 1 touch, as a mask. -/
def sectorMask (line k n : Nat) : BitVec 4 :=
  (List.range n).foldl
    (fun m i => if lineOf (k + i) = line then m ||| (1#4 <<< sectorOf (k + i)) else m) 0

/-- A line of a core's L1, if held. -/
def State.l1 (s : State) (c line : Nat) : Option L1Line := (s.core c).l1.find? line

/-- The state with a line of a core's L1 replaced. -/
def State.setL1 (s : State) (c line : Nat) (x : L1Line) : State :=
  s.modCore c fun r => { r with l1 := r.l1.put line x }

/-- Puts at the home the bytes of the sectors of a mask. -/
def putSectors (m : AMap Byte) (line : Nat) (mask : BitVec 4) (b : AMap Byte) : AMap Byte :=
  (List.range 192).foldl
    (fun m i => if mask.getLsbD (i / 48) then m.set 0 (192 * line + i) (b.get 0 i) else m) m

/-- Marks as stale the clean sectors that other cores hold of bytes the home has just changed, so that their next
acquire drops them, also those that a core wrote back itself (R195, R206). DEDUCED, log entry 97. -/
def State.markStale (s : State) (by_ : Option Nat) (line : Nat) (mask : BitVec 4) : State :=
  { s with
    cores := s.cores.mapVals fun c x =>
      if some c = by_ then x
      else { x with l1 := x.l1.modify line fun l => { l with stale := l.stale ||| (l.valid &&& mask &&& ~~~l.dirty) } } }

/-- Whether a line is one of local memory: neither of a host nor of a peer window. -/
def localLine (line : Nat) : Bool := line < Config.windowKey / 192

/-- The slice of a line (R191). -/
def sliceOf (line : Nat) : Nat := line % 128 / 2

/-- The set of the L2 that a line belongs to: its slice, and one of the sets that 32 MiB in 16 ways hold (R191, R372).
DESIGN CHOICE, log entry 96. -/
def l2SetOf (line : Nat) : Nat × Nat := (sliceOf line, Config.l2Set line % (32 * 2 ^ 20 / (192 * 16)))

/-- The lines that a slice holds in the set of a line, the last served first. -/
def State.l2Way (s : State) (line : Nat) : List Nat := s.l2.filter fun l => l2SetOf l == l2SetOf line

/-! ### Reuse histograms (R359) -/

/-- A control function as it is in force (R369). -/
def State.control (s : State) (fn : Nat) : Control := s.inForce.get { en := false } fn

/-- A level in force: LEVEL, or word 0 of the expert block when LEVEL is 15. -/
def Control.setting (c : Control) : Nat := if c.level = 15 then (c.expert.get 0 0).toNat else c.level

/-- The kernel slot that an ENTRY is armed under, from words 1 and 2 + 2 * slot of the expert block. -/
def State.reuseSlot (s : State) (entry : Nat) : Option Nat :=
  (List.range 16).filter (fun i =>
    let e := (s.control 6).expert
    entry != 0 && (e.get 0 (1 + 2 * i)).toNat + 2 ^ 32 * (e.get 0 (2 + 2 * i)).toNat == entry) |>.head?

/-- Adds 1 to a bucket of a context: it stops at 2^32 - 1 (R357). -/
def State.addBucket (s : State) (ctx slot b : Nat) : State :=
  s.modCtx ctx fun c =>
    let i := 33 * slot + b
    { c with
      observe := { c.observe with
        buckets := c.observe.buckets.set 0 i (min (2 ^ 32 - 1) (c.observe.buckets.get 0 i + 1)) } }

/-- A register watches the line that an access reaches its slice for, and has not yet seen it come back. -/
def ReuseReg.awaits (r : ReuseReg) (clock line : Nat) : Bool :=
  r.line == line && r.armed ≤ clock && r.leaving != some true

/-- An access of any agent to a line, as the armed registers of its slice see it: the register of the line itself has
its reuse, and an arming that displaced it in this clock waits a clock; each other counts a line whose bit of its
filter is clear. -/
def State.reuseSeen (s : State) (line : Nat) : State :=
  if s.reuse.isEmpty then s
  else
    let hits := s.reuse.filter fun r => r.awaits s.clock line
    let s : State := hits.foldl (fun s r => s.addBucket r.ctx r.slot (min 31 (Nat.log2 (r.d + 1)))) s
    let bit := Config.reuseHash line % 1024
    let late (r : ReuseReg) : Bool := r.armed == s.clock &&
      hits.any fun h => h.leaving == some false && h.slot == r.slot && h.slice == r.slice && h.by_ == r.line
    { s with
      reuse := s.reuse.map fun r =>
        if r.awaits s.clock line then { r with leaving := some true }
        else if late r then { r with armed := s.clock + 1 }
        else if r.slice = sliceOf line && r.armed ≤ s.clock && !r.filter.contains bit then
          { r with d := r.d + 1, filter := bit :: r.filter }
        else r }

/-- The end of a clock: registers reused in it are free, and those displaced in it count as not seen again. -/
def State.reuseTick (s : State) : State :=
  let s : State := (s.reuse.filter fun r => r.leaving == some false).foldl (fun s r => s.addBucket r.ctx r.slot 32) s
  { s with reuse := s.reuse.filter fun r => r.leaving == none }

/-! ### Routers and the paths of traffic (R314, R316, R318, R319) -/

/-- The die-link end on die a towards die b. Routers 0 to 7 are the local crossbars, bed by bed, 8 to 11 the central
crossbars of the dies, and 12 to 23 the link ends, three on each die. -/
def linkEnd (a b : Nat) : Nat := 12 + 3 * a + if b < a then b else b - 1

/-- The routers between the central crossbars of two dies, the second one's crossbar the last. -/
def crossing (a b : Nat) : List Nat := if a = b then [] else [linkEnd a b, linkEnd b a, 8 + b]

/-- The routers between a core and the central crossbar of a die. -/
def routePart (v die : Nat) : List Nat := [v / 32, 8 + v / 64] ++ crossing (v / 64) die

/-- The routers between the host port and the husk, on die 0, and the central crossbar of a die. -/
def huskPart (die : Nat) : List Nat := 8 :: crossing 0 die

/-- The die of a line's home slice (R191). -/
def dieOf (line : Nat) : Nat := line % 128 / 32

/-- A flit passes a router in this clock; `window` is the idle window, none while power-down is turned off. One that comes in
the clock of the decision to power down, before or after it, abandons the power-down; one that finds the router powered down
wakes it and waits for it, as those do that wait there already (R318, R319, R324). -/
def Router.pass (x : Router) (window : Option Nat) (clock : Nat) : Router :=
  if x.powered then
    { x with
      idleFrom := clock + 1
      abandoned := if window.any fun w => x.idleFrom + w == clock + 1 then sat64 (x.abandoned + 1) else x.abandoned }
  else if x.downAt = some clock then
    { x with
      powered := true, powerDowns := x.powerDowns - 1, abandoned := sat64 (x.abandoned + 1), idleFrom := clock + 1 }
  else
    { x with
      powered := true, wakes := sat64 (x.wakes + 1), delayed := sat64 (x.delayed + x.waiting + 1), idleFrom := clock + 1
      waiting := 0 }

/-- A router holds a flit in this clock: it is not idle, and a power-down in the clock of the flit's arrival is
abandoned; one powered down before waits to be woken (R318, R319). -/
def Router.hold (x : Router) (window : Option Nat) (clock : Nat) : Router :=
  if x.powered || x.downAt == some clock then x.pass window clock else x

/-- Whether a router may serve a flit after the one that it served last in this clock: by class, and within a class the
oldest first, but for messages to one queue, which R317 orders. `rank` is the place of the class in the order 0, 1, 3, 2.
DEDUCED, log entry 105. -/
def Router.inTurn (x : Router) (clock rank age queue : Nat) : Bool :=
  match x.last with
  | some (c, r, a, q) => c != clock || r < rank || (r == rank && (a ≤ age || (rank == 3 && q == queue)))
  | none => true

/-- The idle window of a router in clocks (R318, R369). -/
def State.idleWindow (s : State) : Nat := 512 * 2 ^ min 14 (s.control 2).setting

/-- The idle window after which routers power down, none while that is turned off (R318). -/
def State.downWindow (s : State) : Option Nat := if (s.control 2).en then some s.idleWindow else none

/-- A router. -/
def State.router (s : State) (r : Nat) : Router := s.routers.get {} r

/-- The state with some routers changed. -/
def State.onRouters (s : State) (rs : List Nat) (f : Router → Router) : State :=
  { s with routers := rs.foldl (fun m r => if r < 24 then m.put r (f (m.get {} r)) else m) s.routers }

/-- The routers between a core and the bytes at a key: of local memory the home slice's, else those to the ports of the
package, on die 0 (R314). -/
def pathTo (core key : Nat) : List Nat := routePart core (if localLine (lineOf key) then dieOf (lineOf key) else 0)

/-- A flit passes the routers of a path. -/
def State.flit (s : State) (rs : List Nat) : State := s.onRouters rs fun x => x.pass s.downWindow s.clock

/-- Whether every router of a path may serve a flit of a class and age now (R316). -/
def State.inTurns (s : State) (rs : List Nat) (rank age queue : Nat) : Bool :=
  rs.all fun r => (s.router r).inTurn s.clock rank age queue

/-- Whether every router of a path is powered. -/
def State.awake (s : State) (rs : List Nat) : Bool := rs.all fun r => (s.router r).powered

/-- Whether every router of a path is powered and may serve a flit of a class and age now (R316). -/
def State.mayPass (s : State) (rs : List Nat) (rank age queue : Nat) : Bool := s.awake rs && s.inTurns rs rank age queue

/-- A flit of a class and age passes the routers of a path, which note it. -/
def State.passes (s : State) (rs : List Nat) (rank age queue : Nat) : State :=
  s.onRouters rs fun x => { x.pass s.downWindow s.clock with last := some (s.clock, rank, age, queue) }

/-! ### Service at the home slices (R193, R194, R372) -/

/-- A slice serves an access to a local line: one that it does not hold is filled, and a full set of 16 ways evicts
the line that it served longest ago (R372). DESIGN CHOICE, log entry 96. -/
def State.l2Serve (s : State) (line : Nat) : State :=
  let s := s.reuseSeen line
  if !localLine line then s
  else
    let s := s.flit [8 + dieOf line]
    if s.l2.contains line then { s with l2 := line :: s.l2.filter (· != line) }
    else
      let way := s.l2Way line
      let gone := if way.length < 16 then none else way.getLast?
      { s with l2 := line :: s.l2.filter fun l => some l != gone }

/-- Takes a core's sectors out of a line's pins; with none left the count of retries restarts, and the entry
goes unless requests are held with it (R194). -/
def unpin (pins : AMap Pin) (c line : Nat) (mask : BitVec 4) : AMap Pin :=
  match pins.find? line with
  | none => pins
  | some p =>
    let o := p.owners.filter fun x => x.2 != c || !mask.getLsbD x.1
    if !o.isEmpty then pins.put line { p with owners := o }
    else if p.held.isEmpty then pins.erase line
    else pins.put line { held := p.held }

/-- Writes the dirty ones of some sectors of a line of an L1 to its home and leaves those sectors clean and unpinned,
with the scope record `rec_` (R193 to R195, R211); a line written whole ends its poison (R368). -/
def State.writeSectors (s : State) (c line : Nat) (mask : BitVec 4) (rec_ : BitVec 3) : State :=
  match s.l1 c line with
  | none => s
  | some l =>
    let d := l.dirty &&& mask
    let s := { s with
      mem := putSectors s.mem line d l.bytes, pins := unpin s.pins c line mask
      poison := if d = 15 then s.poison.filter (· != line) else s.poison }
    let s := if d = 0 then s else (s.flit (routePart c (dieOf line))).l2Serve line
    (s.markStale (some c) line d).setL1 c line
      { l with
        filled := l.filled &&& ~~~d, stale := l.stale &&& ~~~d
        dirty := l.dirty &&& ~~~d, pinned := l.pinned &&& ~~~mask, rec_ := rec_ }

/-- Writes every dirty sector of a line of an L1 to its home and leaves the line clean and unpinned. -/
def State.writeBack (s : State) (c line : Nat) (rec_ : BitVec 3) : State := s.writeSectors c line 15 rec_

/-- The core that holds a sector of a line pinned (R194). -/
def State.pinOwner (s : State) (line sector : Nat) : Option Nat :=
  match s.pins.find? line with
  | none => none
  | some p => p.owners.find? sector

/-- Recalls a pinned line: its holders write the dirty sectors back and keep them clean, and each counts a recall
(R194, R200). -/
def State.recallLine (s : State) (line : Nat) : State :=
  match s.pins.find? line with
  | none => s
  | some p =>
    ((p.owners.map (·.2)).eraseDups).foldl (fun s c =>
      (s.writeBack c line 1).countEvent c fun e => { e with recalls := e.recalls + 1 }) s

/-- Recalls a line if one of some of its sectors is pinned. -/
def State.recallSectors (s : State) (line : Nat) (mask : BitVec 4) : State :=
  if (List.range 4).any fun i => mask.getLsbD i && (s.pinOwner line i).isSome then s.recallLine line else s

/-- The lines that bytes k to k + n - 1 lie in. -/
def linesOf (k n : Nat) : List Nat := (List.range ((k + n + 191) / 192 - k / 192)).map fun i => k / 192 + i

/-- Recalls every line of which bytes k to k + n - 1 lie in a pinned sector. -/
def State.recallRange (s : State) (k n : Nat) : State :=
  (linesOf k n).foldl (fun s line => s.recallSectors line (sectorMask line k n)) s

/-- Whether another core holds one of the sectors pinned. -/
def State.pinnedElsewhere (s : State) (c line : Nat) (mask : BitVec 4) : Bool :=
  (List.range 4).any fun i => mask.getLsbD i && (match s.pinOwner line i with
    | some o => o != c
    | none => false)

/-- How the request of a beat of an access is named among those held: 3 for each access. A walk's or a code fill's is 0, and
a command's engine uses the first of its number. -/
def requestKey (id beat : Nat) : Nat := 3 * id + beat

/-- A request joins those held through a recall: the one that brought it stays first, the others follow in the order
of R226. -/
def holdRequest (held : List (Nat × Nat)) (r : Nat × Nat) : List (Nat × Nat) :=
  match held with
  | [] => [r]
  | h :: hs => h :: (hs.filter (fun x => x.1 ≤ r.1) ++ r :: hs.filter (fun x => r.1 < x.1))

/-- Whether a request that a line holds is still made. -/
def State.heldLive (s : State) (line : Nat) (h : Nat × Nat) : Bool :=
  (s.group h.1).accesses.any (fun a => a.id == h.2 / 3) || (h.2 == 0 && (s.group h.1).walkHeld == some line) ||
    s.cmds.any fun c => c.1 == h.2 / 3 && !c.2.saved

/-- The held request that a line's slice serves next. -/
def State.nextHeld (s : State) (line : Nat) (p : Pin) : Option (Nat × Nat) := (p.held.filter (s.heldLive line)).head?

/-- What a request of a core's walker or engine, or for its code, comes to at a home slice (R194, R368). -/
inductive Meet where
  /-- served -/
  | served (s : State)
  /-- turned away with a retry, which is counted: it goes again 32 clocks later -/
  | retry (s : State)
  /-- held through the recall that it has brought or that runs -/
  | held (s : State)
  /-- behind requests that were held, or held still -/
  | waits
  /-- of a line that an error has spoilt -/
  | spoilt (line : Nat)

/-- A request that a line held is served or dropped. -/
def State.dropHeld (s : State) (line : Nat) (r : Nat × Nat) : State :=
  match s.pins.find? line with
  | none => s
  | some p =>
    if !p.held.contains r then s
    else
      let held := p.held.filter (· != r)
      let s := if r.2 = 0 then s.modGroup r.1 fun g => { g with walkHeld := none } else s
      { s with
        pins := if p.owners.isEmpty && held.isEmpty && !p.recalling then s.pins.erase line else s.pins.put line { p with held := held } }

/-- A request joins those that a line holds. -/
def State.joinHeld (s : State) (line : Nat) (p : Pin) (r : Nat × Nat) : State :=
  let s := { s with pins := s.pins.put line p }
  if r.2 = 0 then s.modGroup r.1 fun g => { g with walkHeld := some line } else s

/-- What a request of a core's walker or engine, or for its code, for n bytes of one line meets at their home slice: at a
sector that another core holds pinned a retry, counted; the 4,096th of a count is held and the line recalled, and with it
those that come while the recall runs (R194). -/
def State.meetPins (s : State) (c : Nat) (r : Nat × Nat) (k n : Nat) : Meet :=
  let line := lineOf k
  match s.pins.find? line with
  | none => .served s
  | some p =>
    if p.recalling then if p.held.contains r then .waits else .held (s.joinHeld line { p with held := holdRequest p.held r } r)
    else if (s.nextHeld line p).any (· != r) then .waits
    else if !s.pinnedElsewhere c line (sectorMask line k n) then .served (s.dropHeld line r)
    else if 4095 ≤ p.retries then
      .held (s.joinHeld line { p with recalling := true, held := r :: p.held.filter (· != r) } r)
    else
      .retry ({ s.dropHeld line r with
        pins := s.pins.put line { p with retries := p.retries + 1, held := p.held.filter (· != r) } }.countEvent c
          fun e => { e with pinRetries := e.pinRetries + 1 })

/-- The home slice takes from a core's L1 the pinned ones of the sectors that n bytes lie in (R211, R213). -/
def State.takePinned (s : State) (c k n : Nat) : State :=
  let line := lineOf k
  let mask := sectorMask line k n
  if (List.range 4).any fun i => mask.getLsbD i && s.pinOwner line i == some c then s.writeSectors c line mask 1 else s

/-- An agent that is no core reads n bytes at their home slices: pinned sectors are recalled first, and the slices hold
the lines after it (R194, R372). -/
def State.sliceRead (s : State) (k n : Nat) : State × List Byte :=
  let s := (linesOf k n).foldl State.l2Serve (s.recallRange k n)
  (s, s.bytes k n)

/-- The newest byte of a location in coherence order: a pinned dirty sector's, else the home's. The agents
that are no core read so, as if the line were recalled (R194, R213). -/
def State.peek (s : State) (k : Nat) : Byte :=
  match s.pinOwner (lineOf k) (sectorOf k) with
  | none => s.byte k
  | some c =>
    match s.l1 c (lineOf k) with
    | none => s.byte k
    | some l => if l.dirty.getLsbD (sectorOf k) then l.bytes.get 0 (k % 192) else s.byte k

/-- The newest bytes from k. DEDUCED, log entry 45. -/
def State.peeks (s : State) (k n : Nat) : List Byte := (List.range n).map fun i => s.peek (k + i)

/-- The newest n-byte number at k. -/
def State.peekNat (s : State) (k n : Nat) : Nat := leNat (s.peeks k n)

/-- The newest word at k. -/
def State.peekWord (s : State) (k : Nat) : Word := BitVec.ofNat 32 (s.peekNat k 4)

/-- Drops from an L1 the clean sectors of a line that the home has just changed for this core (R203,
R213). -/
def State.dropClean (s : State) (c line : Nat) (mask : BitVec 4) : State :=
  s.modCore c fun x =>
    { x with l1 := x.l1.modify line fun l => { l with valid := l.valid &&& (l.dirty ||| ~~~mask) } }

/-- A line is written: a chunk that has read it, and that no other yet depends on, is to run again (R361). -/
def State.dirtied (s : State) (line : Nat) : State :=
  { s with chunks := s.chunks.mapVals fun _ c => if !c.firm && c.reads.contains line then { c with stale := true } else c }

/-- A group's open chunk has read lines. -/
def State.noteReads (s : State) (k : Nat) (lines : List Nat) : State :=
  { s with chunks := s.chunks.modify k fun c => { c with reads := lines.filter (!c.reads.contains ·) ++ c.reads } }

/-- A line of a core's scratchpad, as a chunk notes it beside those of memory (R361). -/
def scratchLine (core off : Nat) : Nat := 2 ^ 60 + 4096 * core + off / 192

/-- Performs a write of bytes at their home slice, on behalf of a core or of another agent: a sector that is pinned is
recalled with its line first, the writer's own clean copies are dropped and others' marked (R193 to R195, R203, R372).
A store that covers a whole line ends its poison (R368). DEDUCED, log entry 45. -/
def State.homeWrite (s : State) (by_ : Option Nat) (k : Nat) (bs : List Byte) : State :=
  let n := bs.length
  let s := s.recallRange k n
  let s := { s with mem := putBytes s.mem k bs }
  let s := (linesOf k n).foldl (fun s line =>
    let m := sectorMask line k n
    let s := ((s.l2Serve line).markStale by_ line m).dirtied line
    match by_ with
    | none => s.flit (huskPart (dieOf line))
    | some c => s.dropClean c line m) s
  { s with poison := s.poison.filter fun line => !(k ≤ 192 * line && 192 * line + 192 ≤ k + n) }

/-- Writes a word at its home for an agent that is no core. -/
def State.homeWord (s : State) (k : Nat) (w : Word) : State := s.homeWrite none k (leBytes 4 w.toNat)

/-- A line in which an uncorrectable error has been found is poisoned (R368). -/
def State.spoil (s : State) (line : Nat) : State :=
  { s with poison := if s.poison.contains line then s.poison else line :: s.poison }

/-! ### Translation (R184 to R187) -/

/-- How a page-table walk ends (R187). -/
inductive Walk where
  | ok (e : TlbEntry)
  | absent
  | malformed
  deriving DecidableEq, Repr

/-- Whether a leaf's fields are well formed for its level: 3 maps 65,536 frames, 2 256, 1 one (R185, R186). -/
def leafOk (e : Nat) (frames : Nat) : Bool :=
  let tgt := e / 2 ^ 56 % 16
  e / 2 ^ 60 == 0 && e / 64 % 1024 == 0 && e / 4 % 2 == 0 && tgt ≤ 2 &&
    (if tgt == 0 then
      e / 2 ^ 48 % 256 == 0 && e / 2 ^ 42 % 64 == 0 && e / 2 ^ 16 % 2 ^ 26 % frames == 0
    else e / 2 ^ 16 % 2 ^ 32 % frames == 0)

/-- Whether a table entry is well formed (R186). -/
def tableOk (e : Nat) : Bool :=
  e / 2 ^ 60 == 0 && e / 2 ^ 56 % 16 == 0 && e / 2 ^ 48 % 256 == 0 && e / 2 ^ 46 % 4 == 0 &&
    e / 64 % 1024 == 0 && e / 4 % 2 == 0

/-- The page that a leaf maps around va (R184, R186). -/
def leafPage (ctx va e frames : Nat) : TlbEntry :=
  let size := 24576 * frames
  let tgt := e / 2 ^ 56 % 16
  let win := e / 2 ^ 48 % 256
  { ctx := ctx, va := va / size * size, size := size,
    start := if tgt = 0 then e / 2 ^ 16 % 2 ^ 26 * 24576 else e / 2 ^ 16 % 2 ^ 32 * 24576,
    target := if tgt = 0 then .local else if tgt = 1 then .peer win else .host win,
    rd := e / 8 % 2 == 1, wr := e / 16 % 2 == 1, ex := e / 32 % 2 == 1 }

/-- The walk below the root: levels 3, 2 and 1 with 256 entries each. `frames` is what a leaf of the level
maps (R185). -/
def State.walkFrom (s : State) (ctx va : Nat) : Nat → Nat → Walk
  | 0, _ => .malformed
  | lvl + 1, table =>
    let frames := 256 ^ lvl
    let e := leNat (s.bytes (table + 8 * (va / 24576 / frames % 256)) 8)
    if e % 2 = 0 then .absent
    else if e / 2 % 2 = 1 then
      if leafOk e frames then .ok (leafPage ctx va e frames) else .malformed
    else if lvl = 0 then .malformed
    else if tableOk e then s.walkFrom ctx va lvl (e / 2 ^ 16 % 2 ^ 30 * 2048)
    else .malformed

/-- The page-table walk of a context (R185): one entry at the root, then levels 3, 2 and 1. The walker does not use the
L1: it reads what the home slices hold (R198). -/
def State.walk (s : State) (ctx va : Nat) : Walk :=
  let e := leNat (s.bytes ((s.context ctx).ptroot + 8 * (va / 24576 / 2 ^ 24)) 8)
  if e % 2 = 0 then .absent
  else if e / 2 % 2 = 1 then .malformed
  else if tableOk e then s.walkFrom ctx va 3 (e / 2 ^ 16 % 2 ^ 30 * 2048)
  else .malformed

/-- The addresses of the entries below the root that a walk reads, as far as it goes. -/
def State.walkTables (s : State) (va : Nat) : Nat → Nat → List Nat
  | 0, _ => []
  | lvl + 1, table =>
    let at_ := table + 8 * (va / 24576 / 256 ^ lvl % 256)
    let e := leNat (s.bytes at_ 8)
    at_ :: (if e % 4 = 1 && tableOk e && lvl != 0 then s.walkTables va lvl (e / 2 ^ 16 % 2 ^ 30 * 2048) else [])

/-- The addresses of the entries that a walk of a context reads (R185, R198). -/
def State.walkReads (s : State) (ctx va : Nat) : List Nat :=
  let root := (s.context ctx).ptroot + 8 * (va / 24576 / 2 ^ 24)
  let e := leNat (s.bytes root 8)
  root :: (if e % 4 = 1 && tableOk e then s.walkTables va 3 (e / 2 ^ 16 % 2 ^ 30 * 2048) else [])

/-- The key of a byte of a target: local physical, or a byte of a window. -/
def Target.key (t : Target) (offset : Nat) : Nat :=
  match t with
  | .local => offset
  | .host w => Config.windowKey * (1 + w) + offset
  | .peer w => Config.windowKey * (257 + w) + offset

/-- The byte that an address of a page lies at. -/
def TlbEntry.key (e : TlbEntry) (va : Nat) : Nat := e.target.key (e.start + (va - e.va))

/-- Whether a page holds an address of a context. -/
def TlbEntry.holds (e : TlbEntry) (ctx va : Nat) : Bool :=
  e.ctx == ctx && e.va ≤ va && va < e.va + e.size

/-- The key of a virtual address of a context, where it translates and the permission is held; used by the
agents that are no core. -/
def State.keyOf (s : State) (ctx va : Nat) (write : Bool) : Option Nat :=
  if 2 ^ 56 ≤ va then none
  else match s.walk ctx va with
    | .ok e => if (if write then e.wr else e.rd) then some (e.key va) else none
    | _ => none

/-- The reads, of n bytes each, of a core's walker or code at their home slices, for a request r: each passes the network,
meets pins, and leaves its line in the slice; a line that an error has spoilt gives none (R194, R198, R314, R368, R372). -/
def State.readReach (s : State) (c : Nat) (r : Nat × Nat) (n : Nat) : List Nat → Meet
  | [] => .served s
  | a :: as =>
    match s.meetPins c r a n with
    | .served s =>
      if s.poison.contains (lineOf a) then .spoilt (lineOf a) else ((s.flit (pathTo c a)).l2Serve (lineOf a)).readReach c r n as
    | m => m

/-- A walk of a group's core, or a fill of its code, once the 32 clocks after a retry have passed (R194). -/
def State.tryWalk (s : State) (k : Nat) (reads : List Nat) (n : Nat) : Meet :=
  if s.cycle k < (s.group k).walkAt then .waits
  else match s.readReach (coreOf k) (k, 0) n reads with
    | .retry t => .retry (t.modGroup k fun g => { g with walkAt := s.cycle k + 32 })
    | m => m

/-- The husk or the dispatcher reads n bytes at their home slices, over its path to them (R194, R314, R372). -/
def State.agentTouch (s : State) (k n : Nat) : State :=
  (linesOf k n).foldl (fun s line => (s.flit (huskPart (dieOf line))).l2Serve line) (s.recallRange k n)

/-- The state after the first n reads of a walk by an agent that is no core: it recalls pinned sectors, and the slices hold
the lines (R194, R314, R372). -/
def State.agentWalk (s : State) (ctx va : Nat) : Nat → State
  | 0 => s
  | n + 1 =>
    let s := s.agentWalk ctx va n
    match (s.walkReads ctx va)[n]? with
    | some a => s.agentTouch a 8
    | none => s

/-- Whether a walk reads a line that an error has spoilt (R368). -/
def State.walkSpoilt (s : State) (ctx va : Nat) : Bool := (s.walkReads ctx va).any fun a => s.poison.contains (lineOf a)

/-! ### Wakes and the queues of a context -/

/-- The clusters of a context (R313, R334). -/
def Context.hasCluster (c : Context) (k : Nat) : Bool := c.clusters.getLsbD k

/-- The cores of a context, rising (R313). -/
def Context.coreList (c : Context) : List Nat := (List.range 256).filter fun v => c.hasCluster (v / 4)

/-- A wake that names a word goes from a core, or with 256 from the husk, to every core of the context that has groups
(R234). -/
def State.sendWake (s : State) (from_ ctx key : Nat) : State :=
  { s.bump with wakes := s.wakes ++ (s.context ctx).coreList.map fun c => ⟨s.fresh, from_, c, key⟩ }

/-- A packet leaves by the host port. -/
def State.send (s : State) (p : HostOut) : State := { s with hostOut := s.hostOut ++ [p] }

/-- The event packet that announces a new TAIL: CTXID, the queue (0 fault, 1 event) and TAIL, at most once
every 1,024 clocks for each queue (R329). -/
def State.eventPacket (s : State) (ctx q : Nat) (tail : Word) : State :=
  let at_ := (s.context ctx).eventAt.get 0 q
  if s.clock < at_ then s
  else
    (s.send ⟨6, 0, 0, 0, wordsBytes [BitVec.ofNat 32 ctx, BitVec.ofNat 32 q, tail]⟩).modCtx ctx
      fun c => { c with eventAt := c.eventAt.put q (s.clock + 1024) }

/-- Whether a boot left the observation and replay logic out (R364, step 8). -/
def State.noObserve (s : State) : Bool := s.spares.any fun f => f.step == 8

/-- A queue described at a physical address has room (R148, R290). -/
def State.queueRoom (s : State) (desc : Nat) : Bool :=
  let entries := s.peekNat (desc + 8) 4
  let head := s.peekNat (desc + 0x18) 4
  let tail := s.peekNat (desc + 0x1C) 4
  (tail + 2 ^ 32 - head) % 2 ^ 32 < entries

/-- The address of the entry at TAIL of a queue of 64-byte records. -/
def State.queueEntry (s : State) (desc : Nat) : Nat :=
  s.peekNat desc 8 + 64 * (s.peekNat (desc + 0x1C) 4 % s.peekNat (desc + 8) 4)

/-- Writes a record into entry TAIL, advances TAIL, wakes TAIL's word and sends the event packet (R290,
R330). DEDUCED, log entry 66. -/
def State.pushRecord (s : State) (ctx q desc : Nat) (ws : List Word) : State :=
  let tail := BitVec.ofNat 32 (s.peekNat (desc + 0x1C) 4 + 1)
  let s := s.homeWrite none (s.queueEntry desc) (wordsBytes ws)
  ((s.homeWord (desc + 0x1C) tail).sendWake 256 ctx (desc + 0x1C)).eventPacket ctx q tail

/-- A fault record before it has its number: KIND, CODE, GRID, SITE, VA, LOC, TEAM, COUNT (R290). -/
structure FaultRecord where
  kind : Nat
  code : Nat := 0
  grid : DWord := 0
  site : Site := {}
  va : Nat := 0
  loc : Word := 0
  team : Word := 0
  count : Nat := 0
  deriving DecidableEq, Repr

/-- The four words of a site (R244). -/
def Site.words (t : Site) : List Word :=
  [t.clause.setWidth 32, BitVec.ofNat 32 (t.clause.toNat / 2 ^ 32), t.ticket, BitVec.ofNat 32 (t.word % 16)]

/-- The sixteen words of a fault record (R290). DEDUCED, log entry 29. -/
def FaultRecord.words (r : FaultRecord) (seq : Nat) : List Word :=
  [BitVec.ofNat 32 r.kind, BitVec.ofNat 32 r.code, r.grid.setWidth 32, BitVec.ofNat 32 (r.grid.toNat / 2 ^ 32)]
    ++ r.site.words ++
    [BitVec.ofNat 32 r.va, BitVec.ofNat 32 (r.va / 2 ^ 32), r.loc, r.team, 0, BitVec.ofNat 32 seq,
      BitVec.ofNat 32 r.count, BitVec.ofNat 32 (r.count / 2 ^ 32)]

/-- Writes a numbered record into the fault queue; one of kinds 1 to 3 waits for its answer (R290). -/
def State.pushFault (s : State) (ctx : Nat) (ws : List Word) : State :=
  let desc := (s.context ctx).faultq
  let entry := s.queueEntry desc
  let va := (ws.getD 8 0).toNat + 2 ^ 32 * (ws.getD 9 0).toNat
  let s := s.pushRecord ctx 0 desc ws
  if 1 ≤ (ws.getD 0 0).toNat && (ws.getD 0 0).toNat ≤ 3 then
    s.modCtx ctx fun c => { c with records := c.records.put (ws.getD 13 0).toNat (entry, va) }
  else s

/-- Puts a numbered record in the fault queue, or holds it while the queue is full or others wait (R290). -/
def State.enqueueFault (s : State) (ctx : Nat) (ws : List Word) : State :=
  let c := s.context ctx
  if c.heldFaults.isEmpty && s.queueRoom c.faultq then s.pushFault ctx ws
  else s.modCtx ctx fun c => { c with heldFaults := c.heldFaults ++ [ws] }

/-- Writes a fault record with the context's next number (R290). -/
def State.faultRecord (s : State) (ctx : Nat) (r : FaultRecord) : State :=
  let seq := (s.context ctx).faultSeq
  (s.enqueueFault ctx (r.words seq)).modCtx ctx fun c => { c with faultSeq := (seq + 1) % 2 ^ 32 }

/-- LOC: virtual core and group slot (R290). -/
def locWord (k : Nat) : Word := BitVec.ofNat 32 (coreOf k + 256 * slotOf k)

/-- The fields of a record that name a group: GRID, LOC and TEAM (R290). -/
def State.groupRecord (s : State) (k : Nat) (r : FaultRecord) : FaultRecord :=
  let g := s.group k
  { r with
    grid := ((s.grids.find? g.grid).map fun x => x.launch.grid).getD 0
    loc := locWord k
    team := BitVec.ofNat 32 (((s.teams.find? g.team).map fun t => t.index).getD 0) }

/-! ### Promotion state (R161 to R163) -/

/-- The clause that a group executes, or an empty one. -/
def Group.code (g : Group) : Clause := g.clause.getD {}

/-- The instruction that a group stands at, in its clause. -/
def Group.instr (g : Group) : Instr := decode (g.code.words.getD g.word 0) (g.code.words.getD (g.word + 1) 0)

/-- Whether a group stands at a BARW or a BARAW. -/
def Group.atBarrier (g : Group) : Bool :=
  (List.range 20).any fun n => g.instr == .barw (BitVec.ofNat 6 n) || g.instr == .baraw (BitVec.ofNat 6 n)

/-- Whether a group waits in a way in which promotion is not tried: at a barrier in BARW or BARAW, on a ticket or batch, in
MRECV or in WAITW (R163). -/
def Group.keepsHerd (g : Group) : Bool :=
  match g.wait with
  | .barrier _ => g.atBarrier
  | .release _ => g.atBarrier
  | .ticket _ _ => true
  | .batch _ => true
  | .message _ _ => true
  | .word _ _ _ => true
  | _ => false

/-- Begins the demotion of a promoted group: it issues nothing for 12 clocks. A group that is still being promoted
completes its switch first (R161). -/
def State.demote (s : State) (k : Nat) : State :=
  match (s.group k).engine with
  | .sprinter =>
    (s.modGroup k fun g => { g with engine := .demoting (s.cycle k + 12), demoteNext := false }).countEvent (coreOf k)
      fun e => { e with demotions := e.demotions + 1 }
  | .promoting _ => s.modGroup k fun g => { g with demoteNext := true }
  | _ => s

/-- Whether a group qualifies for the tail class: its grid has no team left unplaced, and its core holds at most four
groups of that grid (R162), a group counted until the clock in which its HALT issues has passed (R239). -/
def State.isTail (s : State) (k : Nat) : Bool :=
  let g := s.group k
  match s.grids.find? g.grid with
  | none => false
  | some q =>
    q.placed.length * q.launch.tpg == q.launch.teams &&
      (s.groups.filter fun p => coreOf p.1 == coreOf k && p.2.resident && p.2.grid == g.grid &&
        (!p.2.halted || p.2.lastIssue == some (s.cycle k))).length ≤ 4

/-- A group qualifies for a class; lock and hint qualifications are decided at this clock, and a hint asked for again
is a qualification of its own (R162, R163, R181). -/
def State.gainClass (s : State) (k : Nat) (c : PClass) : State :=
  s.modGroup k fun g =>
    { g with
      classes := if g.classes.contains c then g.classes else g.classes ++ [c], qualAt := some (s.cycle k)
      qualHeld := g.keepsHerd }

/-- A group leaves a class; a promoted group that leaves all of them is demoted, and a displaced one is no longer tried
as such (R162, R163). -/
def State.leaveClass (s : State) (k : Nat) (c : PClass) : State :=
  let s := s.modGroup k fun g => { g with classes := g.classes.filter (· != c) }
  if (s.group k).classes.isEmpty && !s.isTail k then (s.demote k).modGroup k fun g => { g with displaced := false } else s

/-- A group's wait ends at a clock; a qualification that came meanwhile is decided then (R163). -/
def Group.wakes (g : Group) (now : Nat) : Group :=
  { g with wait := .none, qualAt := if g.qualHeld then some now else g.qualAt, qualHeld := false }

/-- What a group drops when it leaves an instruction it waits in: WAITW's registration and read, and the
answers of peer devices. -/
def Group.dropWaits (g : Group) : Group :=
  { g with waitStart := none, waitAccess := none, waitRead := none, waitAgain := false, heldSince := none, peerAns := []
           badPages := [], walkHeld := none }

/-! ### Barriers (R178) -/

/-- The groups of a team that have not halted; its slots may hold groups of another team once it has ended. -/
def State.teamAlive (s : State) (id : Nat) (t : Team) : List Nat :=
  (t.slots.map fun l => 48 * t.core + l).filter fun k => (s.group k).team == id && !(s.group k).halted

/-- The expected set of barrier n of a team: of its own groups, or for a gang barrier of the gang's. -/
def State.expected (s : State) (team n : Nat) : List Nat :=
  match s.teams.find? team with
  | none => []
  | some t =>
    if n < 16 then s.teamAlive team t
    else ((s.gangs.find? t.gang).map fun q => q.teams).getD [] |>.flatMap fun u =>
      ((s.teams.find? u).map (s.teamAlive u)).getD []

/-- Barrier n of a team, team or gang barrier (R177). -/
def State.barrier (s : State) (team n : Nat) : Barrier :=
  match s.teams.find? team with
  | none => {}
  | some t =>
    if n < 16 then t.barriers.get {} n
    else ((s.gangs.find? t.gang).map fun q => q.barriers.get {} n).getD {}

/-- The state with barrier n of a team replaced. -/
def State.setBarrier (s : State) (team n : Nat) (b : Barrier) : State :=
  match s.teams.find? team with
  | none => s
  | some t =>
    if n < 16 then { s with teams := s.teams.put team { t with barriers := t.barriers.put n b } }
    else { s with gangs := s.gangs.modify t.gang fun q => { q with barriers := q.barriers.put n b } }

/-- A phase whose arrived set holds the expected set, and someone, is due to complete (R178). -/
def State.checkBarrier (s : State) (team n : Nat) : State :=
  let b := s.barrier team n
  if !b.arrived.isEmpty && (s.expected team n).all b.arrived.contains then
    s.setBarrier team n { b with due := true }
  else s

/-! ### Ending a group (R85) -/

/-- Records that pending late stores become when they are not delivered (R287). -/
def State.flushPending (s : State) (k : Nat) : State :=
  let g := s.group k
  let s := g.pending.foldl (fun s p =>
    match p with
    | .lateStore site n =>
      s.faultRecord g.ctx (s.groupRecord k { kind := 4, code := 0x11, site := site, count := n })
    | .engine _ _ => s) s
  s.modGroup k fun g => { g with pending := [] }

/-- Ends a group as HALT does: it issues nothing more, leaves its barriers, and its loads complete without
effect (R85, R178). -/
def State.haltGroup (s : State) (k : Nat) : State :=
  let g := s.group k
  let s := s.demote k
  let s := s.modGroup k fun g =>
    { g.dropWaits with
      halted := true, trapMode := false, wait := .none, clause := none, started := false, looks := [], classes := [], lockDepth := 0
      issued := false, displaced := false, qualHeld := false
      results := g.results.map fun r => { r with writes := [] }
      accesses := g.accesses.map fun a => { a with dest := .none } }
  (List.range 20).foldl (fun s n =>
    let b := s.barrier g.team n
    let s := s.setBarrier g.team n { b with arrived := b.arrived.filter (· != k) }
    s.checkBarrier g.team n) s

/-! ### Faults (R284 to R287) -/

/-- A fault: its cause, TVAL and TMASK, and the flags whose enable is 0 that are set beside it (R41, R284). -/
structure Trap where
  cause : Nat
  val : Nat := 0
  mask : LaneMask := 0
  flags : Flags := 0
  deriving DecidableEq, Repr

/-- The site of an instruction: clause, word index, and the group's TICKET (R286). -/
def Group.site (g : Group) : Site := ⟨g.pc, g.ticket, g.word⟩

/-- Vectoring outside trap mode, and the double trap inside it: the group of slot k takes fault t, with the
pc, word index and site that the trap registers save (R286, R287). -/
def State.vector (s : State) (k : Nat) (t : Trap) (pc : Addr) (word : Nat) (site : Site) : State :=
  let g := s.group k
  if g.trapMode then
    let s := s.flushPending k
    let s := s.faultRecord g.ctx (s.groupRecord k { kind := 6, code := t.cause, site := site })
    s.haltGroup k
  else
    let s := s.demote k
    let tb := (s.context g.ctx).tbase
    s.modGroup k fun g =>
      { g.dropWaits with
        looks := []
        wait := .none
        gstat := g.gstat ||| t.flags
        trap := {
          cause := BitVec.ofNat 6 t.cause, mask := t.mask, val := BitVec.ofNat 64 t.val, pc := pc,
          word := BitVec.ofNat 4 word, site := site, frame := g.stklim }
        trapMode := true
        pc := tb + BitVec.ofNat 56 (64 * t.cause)
        word := 0, clause := none, started := false, fetchBuf := [], issued := false, qualHeld := false
        demoteNext := g.demoteNext && g.engine != .herd }

/-! ### Running an instruction -/

/-- Where control goes after an instruction (R11, R13). -/
inductive Flow where
  | seq
  | jump (pc : Addr)
  | nextClause
  | resume (pc : Addr) (word : Nat)
  | ended
  deriving DecidableEq, Repr

/-- What an instruction's own effect comes to: done, a fault, or a wait at the instruction. -/
inductive Res where
  | done (s : State) (f : Flow)
  | trap (t : Trap)
  | hold (s : State)
  deriving DecidableEq, Repr

/-- A field that names a register pair (R20): its number, and whether it is a scalar pair. -/
structure PairField where
  scalar : Bool
  num : Nat
  deriving DecidableEq, Repr

/-- What an instruction reads and writes, what tags it expects, and how it meets look windows, counters and
chunks: all that decode faults and interlocks need (R58, R66). `serial`: it waits until every older instruction has
retired, in the sprinter alone (some false) or in either engine (some true) (R73). `beside`: it may issue beside a store of
its group that is on its way to a scratchpad (R281). -/
structure Info where
  sr : List Nat := []
  sw : List Nat := []
  vr : List Nat := []
  vw : List Nat := []
  mask : Bool := false
  pairs : List PairField := []
  tags : List (Reg × BitVec 4) := []
  barred : Bool := false
  look : Option Nat := none
  closes : Bool := false
  counter : Option Nat := none
  access : Bool := false
  ends : Option Nat := none
  serial : Option Bool := none
  beside : Bool := false
  deriving DecidableEq, Repr

/-- Every register that an instruction reads or writes, the implicit mask read among them (R58). -/
def Info.regs (n : Info) : List Reg :=
  n.sr.map .s ++ n.vr.map .v ++ n.sw.map .s ++ n.vw.map .v
    ++ (if n.mask then [.s 61, .s 62, .s 63] else [])

/-- Its destination registers. -/
def Info.dests (n : Info) : List Reg := n.sw.map .s ++ n.vw.map .v

/-- The number that TVAL names a register by (R284). -/
def Reg.code : Reg → Nat
  | .s n => n
  | .v n => 128 + n

/-- The tag a register carries. -/
def Group.tagOf (g : Group) : Reg → BitVec 4
  | .s n => (g.sreg n).tag
  | .v n => (g.vreg n).tag

/-- A source matches when its tag is the expected one or raw, or raw is expected (R19). -/
def tagMatches (found expected : BitVec 4) : Bool := found == expected || found == 0 || expected == 0

/-- A pair field that is odd, or a scalar pair that reaches s61 (R20). DEDUCED, log entry 17. -/
def PairField.bad (p : PairField) : Bool := p.num % 2 == 1 || (p.scalar && 60 ≤ p.num)

/-- The first decode fault of an instruction in the order of R66 that depends on the state: a vector at or
above N, privilege, pair alignment, format tag, independence. The partner of a pair field counts as named: v(N) beside
an odd v(N-1) is a fault of the first kind. DEDUCED, log entry 92. -/
def Group.decodeTrap (g : Group) (i : Instr) (n : Info) : Option Trap :=
  if (n.vr ++ n.vw).any fun r => g.n ≤ r then some ⟨0x01, i.word.toNat, g.xm, 0⟩
  else if n.barred then some ⟨0x14, i.word.toNat, g.xm, 0⟩
  else match n.pairs.find? PairField.bad with
    | some p => some ⟨0x08, p.num, g.xm, 0⟩
    | none =>
      match (if g.fmt then n.tags.find? fun p => !tagMatches (g.tagOf p.1) p.2 else none) with
      | some (r, t) => some ⟨0x06, (g.tagOf r).toNat + 16 * t.toNat + 256 * r.code, g.xm, 0⟩
      | none =>
        match n.regs.find? fun r => g.looks.any fun w => w.regs.contains r with
        | some r => some ⟨0x05, r.code, g.xm, 0⟩
        | none => none

/-- Whether an instruction of a serial kind has to wait for older ones to retire (R73). -/
def Group.serialWaits (g : Group) (serial : Option Bool) : Bool :=
  match serial with
  | none => false
  | some always => (always || g.engine == .sprinter) && !g.retired

/-- Whether a store of the group is on its way to a scratchpad. -/
def Group.bankWaits (g : Group) : Bool := g.results.any fun r => r.bank.isSome

/-- An instruction may issue: the group waits for nothing, its registers are free of interlock, its counter
is below 63, no acquire is outstanding before an access, and older instructions have retired before a serial one
(R52, R58, R73, R157, R222). While a store of the group is on its way to a scratchpad, commands and stores of its kind
alone issue: what it undoes at a fault is theirs (R27, R281). DESIGN CHOICE, log entry 110. -/
def Group.ready (g : Group) (n : Info) : Bool :=
  (n.beside || !g.bankWaits) && !(n.regs.any fun r => g.pendingRegs.contains (g.physReg r)) && !g.serialWaits n.serial &&
    (match n.counter with
      | none => true
      | some c => g.counters.get 0 c < 63) &&
    !(n.access && g.accesses.any fun a => a.order == 1 || a.order == 3)

/-- A group's side-log entries. -/
def State.ownEntries (s : State) (k : Nat) : List SideEntry :=
  (s.core (coreOf k)).sideLog.filter fun e => e.group == k

/-- The instruction may issue: its group is ready for it, and before an access no acquire of the group lies in its side
log (R204). -/
def State.ready (s : State) (n : Info) : Bool :=
  s.g.ready n && !(n.access && (s.ownEntries s.cur).any fun e => e.order.getLsbD 0)

/-- The address of the clause after one whose header lies at pc (R11). Beyond 2^56 - 1 it wraps to 0.
DESIGN CHOICE, log entry 91. -/
def nextHeader (pc : Addr) (count : Nat) : Addr := pc + BitVec.ofNat 56 (4 * (count + 1))

/-- A group at the header of a clause that it has not begun. -/
def Group.goto (g : Group) (pc : Addr) : Group :=
  { g with pc := pc, word := 0, clause := none, started := false, resumed := false }

/-- Where the group stands after an instruction of `size` words (R11, R13, R302). -/
def Group.advance (g : Group) (size : Nat) (f : Flow) : Group :=
  match f with
  | .seq =>
    if g.word + size < g.code.words.length then { g with word := g.word + size }
    else g.goto (nextHeader g.pc g.code.words.length)
  | .jump pc => g.goto pc
  | .nextClause => g.goto (nextHeader g.pc g.code.words.length)
  | .resume pc word =>
    { g with pc := pc, word := word, clause := none, started := false, resumed := true }
  | .ended => g

/-- The look windows after an instruction: each covers one instruction less, a closing instruction closes
all, and a long-latency one opens its own (R58). -/
def Group.countLooks (g : Group) (n : Info) (transfers : Bool) : Group :=
  let old := if n.closes || transfers then []
    else (g.looks.map fun w => { w with left := w.left - 1 }).filter fun w => w.left != 0
  { g with
    looks := match n.look with
      | some k => if k = 0 then old else old ++ [⟨k, n.dests⟩]
      | none => old }

/-- Flow that leaves the clause by a transfer. -/
def Flow.transfers : Flow → Bool
  | .jump _ => true
  | .resume _ _ => true
  | _ => false

/-- Flow that resumes from a handler. -/
def Flow.resumes : Flow → Bool
  | .resume _ _ => true
  | _ => false

/-- A trial delays a group that has ended a clause outside its range: it issues nothing in the D clocks that follow (R360). -/
def Trial.delays (t : Trial) (header now : Nat) (g : Group) : Group :=
  if t.lo ≤ header && header < t.hi then g else { g with delayUntil := some (now + t.delay + 1) }

/-- The end of a clause is noted with its clock, and a trial may delay the group; not in a handler, the clause that leaves
it by RTE included (R360). -/
def State.trialDelay (s : State) (before : Group) (f : Flow) (g : Group) : Group :=
  if g.clause == none && !before.trapMode && !f.resumes then
    let header := before.pc.toNat
    let now := s.cycle s.cur
    let g := { g with clauseDone := some (header, now) }
    match (s.context g.ctx).observe.trial with
    | none => g
    | some t => t.delays header now g
  else g

/-- A chunk of the logging or replay mode counts the instruction, and ends at 4,096 or after a
synchronising one (R361); of one whose chunk has committed before its wait nothing is left to count. -/
def State.countChunk (s : State) (n : Info) (g : Group) : Group :=
  if (s.context g.ctx).observe.mode = 0 then g
  else if g.chunkPaid then { g with chunkPaid := false }
  else
    { g with
      chunk := g.chunk + 1
      chunkEnd := match n.ends with
        | some e => some e
        | none => if 4096 ≤ g.chunk + 1 then some 0 else g.chunkEnd }

/-- The port that an instruction issues through, by its first word's major: 0 vector, 1 scalar, 2 memory (R156). -/
def portOf (w : Word) : Nat :=
  let m := (major w).toNat
  if 0x10 ≤ m && m ≤ 0x1F then 0 else if m == 8 || (0x20 ≤ m && m ≤ 0x26) || m == 0x31 then 2 else 1

/-- The port of a group's next instruction. -/
def Group.port (g : Group) : Nat := portOf (g.code.words.getD g.word 0)

/-- The group has issued the instruction at its place, in this clock and through its port (R157). -/
def Group.issues (g : Group) (now port : Nat) : Group := { g with lastIssue := some now, lastPort := port }

/-- Retirement: windows, the place in the clause, the issue's clock and port unless it issued before it waited, trials and
chunks (R11, R58, R157, R360, R361). -/
def State.retire (s : State) (i : Instr) (n : Info) (f : Flow) : State :=
  let g := s.g
  let g' := (g.countLooks n f.transfers).advance i.size f
  let g' := if g.issued then { g' with issued := false } else g'.issues (s.cycle s.cur) g.port
  s.setG (s.countChunk n (s.trialDelay g f g'))

/-- A group takes a fault at a place; in a logging or replaying context it ends the chunk (R286, R361). -/
def State.takeFault (s : State) (k : Nat) (t : Trap) (pc : Addr) (word : Nat) (site : Site) : State :=
  let s' := s.vector k t pc word site
  if (s.context (s.group k).ctx).observe.mode = 0 then s' else s'.modGroup k fun g => { g with chunkEnd := some 2, chunkPaid := false }

/-- The group that issues takes a fault once its earlier instructions have completed (R27, R58).
DEDUCED, log entry 20. -/
def State.raise (s : State) (t : Trap) : State :=
  let g := s.g
  if g.quiet then s.takeFault s.cur t g.pc g.word g.site else s

/-- Runs an instruction of the group that issues: decode faults in the order of R66, then interlocks, then
its own effect, then retirement. While it may not issue the state stays as it is.
DESIGN CHOICE of its waits, log entry 84. -/
def perform (i : Instr) (n : Info) (body : State → Res) (s : State) :
    Host.Outcome State Fault Refusal :=
  if s.g.wait != .none then .next s
  else match s.g.decodeTrap i n with
    | some t => .next (s.raise t)
    | none =>
      if s.ready n then
        match body s with
        | .done s' f => .next (s'.retire i n f)
        | .trap t => .next (s.raise t)
        | .hold s' => .next s'
      else .next s

/-- An instruction whose effect lies in its group alone: the group after it, where control goes, and what it
adds to harvest counters (R90). -/
structure Eff where
  g : Group
  flow : Flow := .seq
  counts : List (Nat × Nat) := []
  deriving DecidableEq, Repr

/-- Runs an instruction whose effect lies in its group. -/
def performG (i : Instr) (n : Info) (body : Group → Except Trap Eff) (s : State) :
    Host.Outcome State Fault Refusal :=
  perform i n (fun s =>
    match body s.g with
    | .ok e => .done ((s.setG e.g).harvests e.g.ctx e.counts) e.flow
    | .error t => .trap t) s

/-- An effect on the group that falls through. -/
def pureG (f : Group → Group) (g : Group) : Except Trap Eff := .ok { g := f g }

end Sys2Proof.Machine
end

