-- ==== Sys2Proof/Machine/Ending.lean ====
section
/-! DEFINITION. The end of a grid (R289): which groups stop at once and how one ends, the end over an uncorrectable error
(R368), and what a group's own walk or code fill comes to (R194, R198). -/

namespace Sys2Proof.Machine

/-! ### The end of a grid (R289) -/

/-- The wait counter that an instruction raises (R52), as the wait at a counter that stands at 63 needs it. -/
def raises : Instr → Option Nat
  | .vld .. | .vld2w .. | .vlds .. | .vlds2w .. | .vldi .. | .vldi2w .. | .vldp .. | .vldp2w .. | .tload .. => some 0
  | .spld .. | .spld2w .. | .spldx .. | .spldx2w .. => some 1
  | .spatom (nr := nr) .. => if nr = 0 then some 1 else none
  | .sld .. => some 2
  | .satom (nr := nr) .. => if nr = 0 then some 2 else none
  | .vst .. | .vst2w .. | .vsts .. | .vsts2w .. | .vsti .. | .vsti2w .. | .vstp .. | .vstp2w .. | .tsave .. => some 3
  | .spst .. | .spst2w .. | .spstx .. | .spstx2w .. | .sst .. | .red .. | .wakew .. => some 3
  | .atom .. | .mrecv .. => some 4
  | .cpy .. => some 5
  | .mbatch .. => some 6
  | .gath .. | .scat .. | .scprobe .. | .scsave .. | .nredx .. => some 7
  | .sadd .. | .ssub .. | .smul .. | .smulhi .. | .smulhn .. | .sdiv .. | .sdivn .. | .srem .. | .smin ..
  | .smax .. | .sminn .. | .smaxn .. | .saddc .. | .ssubb .. | .sand .. | .sor .. | .sxor .. | .sandn ..
  | .sshl .. | .sshr .. | .ssra .. | .srot .. | .sclz .. | .spopc .. | .sbrev .. | .sext .. | .scmp ..
  | .ssel .. | .smov .. | .saddImm .. | .sandImm .. | .sshlImm .. | .sshrImm .. | .ssraImm .. | .srotImm ..
  | .slit .. | .saddLit .. | .sandLit .. | .sorLit .. | .sxorLit .. | .smulLit .. | .btset .. | .btget ..
  | .srd .. | .swr .. | .mand .. | .mor .. | .mxor .. | .mandn .. | .mnot .. | .mpopc .. | .mfirst ..
  | .msetx .. | .mgetx .. | .mtest .. | .br .. | .jmp .. | .call .. | .ret .. | .jmpi .. | .loop .. | .nop
  | .halt | .yield .. | .ipref .. | .bara .. | .barw .. | .baraw .. | .vadd .. | .vsub .. | .vmul ..
  | .vmulhi .. | .vmulhn .. | .vmin .. | .vmax .. | .vminn .. | .vmaxn .. | .vadds .. | .vsubs .. | .vabs ..
  | .vand .. | .vor .. | .vxor .. | .vandn .. | .vshl .. | .vshr .. | .vsra .. | .vclz .. | .vpopc ..
  | .vmad .. | .vsel .. | .vcmp .. | .vmov .. | .vidx .. | .vbcast .. | .fadd .. | .fsub .. | .fmul ..
  | .fmin .. | .fmax .. | .fscale .. | .fclass .. | .ffma .. | .fcmp .. | .frnd .. | .faddRm .. | .fsubRm ..
  | .fmulRm .. | .hadd2Bf16 .. | .hadd2F16 .. | .hmul2Bf16 .. | .hmul2F16 .. | .hfma2 .. | .hadd2 ..
  | .hmul2 .. | .frcp .. | .frsq .. | .fsqrt .. | .fdiv .. | .fexp2 .. | .flog2 .. | .fsin .. | .fcos ..
  | .cvt .. | .cvtsr .. | .pack2 .. | .unpack2 .. | .pack4 .. | .unpack4 .. | .tagrd .. | .tagwr .. | .vrng ..
  | .zip2 .. | .zip3 .. | .zip4 .. | .unzip2 .. | .unzip3 .. | .unzip4 .. | .lshuf .. | .lrot .. | .lread ..
  | .lwrite .. | .faddx .. | .fsubx .. | .fmulx .. | .dwadd .. | .dwadds .. | .dwmul .. | .dwmuls ..
  | .dwdiv .. | .dwsqrt .. | .dwnorm .. | .dwcvt .. | .dwcmp .. | .creduce .. | .credseg .. | .qswapx ..
  | .qswapy .. | .qswapd .. | .qbcast .. | .greduce .. | .gscan .. | .gsegred .. | .gmatch .. | .pref ..
  | .pref2w .. | .fence .. | .icinv .. | .ifence | .msend .. | .waitw .. | .ewait .. | .epoll .. | .mma ..
  | .mmas .. | .mmag .. | .mwait .. | .scbegin .. | .promote .. | .trap .. | .bkpt .. | .rte | .rteEnd
  | .ctxsave .. | .ctxload .. | .progress .. | .undefinedInstruction .. | .reservedMajor .. | .clauseStart ..
  | .instructionCacheFill .. | .loadReturn .. | .storeAccepted .. | .atomicReturn .. | .resultWrite ..
  | .releaseComplete .. | .icinvComplete .. | .promotionStart .. | .promotionSwitchDone ..
  | .demotionSwitchDone .. | .barrierLaggardQualify .. | .barrierPhaseComplete .. | .barrierWake ..
  | .groupRegistersReturn .. | .teamEnd .. | .cbitmapSet .. | .dispatcherTailRead .. | .launchRecordTake ..
  | .teamPlacement .. | .consumerRelease .. | .pinGrant .. | .accessRetryResend .. | .recallComplete ..
  | .l1LineFill .. | .l2LineFill .. | .pageWalkComplete .. | .faultRecordAnswer .. | .invalidateRange ..
  | .invalidateRangeDone .. | .compact .. | .compactDone .. | .translationRequestFail ..
  | .commandIssueResume .. | .sourceReadDone .. | .copyEngineTake .. | .cpyComplete .. | .enginePageFault ..
  | .engineFailure .. | .matrixEngineTake .. | .matrixCommandComplete .. | .gatherScatterComplete ..
  | .scsaveStart .. | .scsaveComplete .. | .scprobeComplete .. | .partialMerge .. | .roundResultSend ..
  | .nredxComplete .. | .messageDelivery .. | .wakeDelivery .. | .waitwTimeout .. | .routerPowerDown ..
  | .routerWake .. | .faultRecordRelease .. | .eventRecordRelease .. | .forcedSave .. | .preemptStatusWrite ..
  | .teamRestore .. | .tiadeRead .. | .tiadeWrite .. | .tiadeAtomic .. | .tiadeFrameDrop .. | .createContext ..
  | .destroyContext .. | .setStep .. | .preemptContext .. | .resumeContext .. | .registerWindow ..
  | .removeWindow .. | .registerLaunchQueueTable .. | .harvestRecord .. | .rosterRecord .. | .getVersion ..
  | .getCapabilities .. | .negotiateAlgorithms .. | .getMeasurements .. | .vendorHarvestRequest ..
  | .vendorRosterRequest .. | .spdmUnsupportedRequest .. | .linkAuthentication .. | .linkAuthRetry ..
  | .peerAccess .. | .peerAck .. | .linkFailure .. | .peerPathTimeout .. | .sample .. | .trialDelayExpire ..
  | .chunkCommit .. | .powerLimit .. | .coreClock .. | .routerPowerDownControl .. | .hostPortControl ..
  | .peerPortsControl .. | .samplingControl .. | .reuseHistogramControl .. | .causalTrialControl ..
  | .replayControl .. | .expertBlockWrite .. | .controlApply .. | .bootRecordClear | .moduleReset ..
  | .coreFailure .. | .clockStepDown | .coolantFlowLost | .coolantFlowRestored | .flitCrcError .. => none

/-- Whether an instruction does what other agents may see, or ends its chunk: all but loads without an order and what lies
within the group and its caches (R361). -/
def effect : Instr → Bool
  | .vld2w (x := x) .. | .vlds2w (x := x) .. | .vldi2w (x := x) .. | .vldp2w (x := x) ..
  | .spld2w (x := x) .. | .spldx2w (x := x) .. => x.order != 0
  | .vst .. | .vst2w .. | .vsts .. | .vsts2w .. | .vsti .. | .vsti2w .. | .vstp .. | .vstp2w .. | .tsave ..
  | .tload .. | .spst .. | .spst2w .. | .spstx .. | .spstx2w .. | .sst .. | .red .. | .wakew .. | .atom ..
  | .mrecv .. | .cpy .. | .mbatch .. | .gath .. | .scat .. | .scprobe .. | .scsave .. | .nredx ..
  | .spatom .. | .satom .. | .srd .. | .swr .. | .yield .. | .bara .. | .barw .. | .baraw .. | .halt
  | .fence .. | .icinv .. | .ifence | .msend .. | .waitw .. | .ewait .. | .epoll .. | .mma .. | .mmas ..
  | .mmag .. | .mwait .. | .scbegin .. | .promote .. | .trap .. | .bkpt .. | .rte | .rteEnd | .ctxsave ..
  | .ctxload .. | .progress .. => true
  | .sadd .. | .ssub .. | .smul .. | .smulhi .. | .smulhn .. | .sdiv .. | .sdivn .. | .srem .. | .smin ..
  | .smax .. | .sminn .. | .smaxn .. | .saddc .. | .ssubb .. | .sand .. | .sor .. | .sxor .. | .sandn ..
  | .sshl .. | .sshr .. | .ssra .. | .srot .. | .sclz .. | .spopc .. | .sbrev .. | .sext .. | .scmp ..
  | .ssel .. | .smov .. | .saddImm .. | .sandImm .. | .sshlImm .. | .sshrImm .. | .ssraImm .. | .srotImm ..
  | .slit .. | .saddLit .. | .sandLit .. | .sorLit .. | .sxorLit .. | .smulLit .. | .btset .. | .btget ..
  | .mand .. | .mor .. | .mxor .. | .mandn .. | .mnot .. | .mpopc .. | .mfirst .. | .msetx .. | .mgetx ..
  | .mtest .. | .br .. | .jmp .. | .call .. | .ret .. | .jmpi .. | .loop .. | .nop | .ipref .. | .vadd ..
  | .vsub .. | .vmul .. | .vmulhi .. | .vmulhn .. | .vmin .. | .vmax .. | .vminn .. | .vmaxn .. | .vadds ..
  | .vsubs .. | .vabs .. | .vand .. | .vor .. | .vxor .. | .vandn .. | .vshl .. | .vshr .. | .vsra ..
  | .vclz .. | .vpopc .. | .vmad .. | .vsel .. | .vcmp .. | .vmov .. | .vidx .. | .vbcast .. | .fadd ..
  | .fsub .. | .fmul .. | .fmin .. | .fmax .. | .fscale .. | .fclass .. | .ffma .. | .fcmp .. | .frnd ..
  | .faddRm .. | .fsubRm .. | .fmulRm .. | .hadd2Bf16 .. | .hadd2F16 .. | .hmul2Bf16 .. | .hmul2F16 ..
  | .hfma2 .. | .hadd2 .. | .hmul2 .. | .frcp .. | .frsq .. | .fsqrt .. | .fdiv .. | .fexp2 .. | .flog2 ..
  | .fsin .. | .fcos .. | .cvt .. | .cvtsr .. | .pack2 .. | .unpack2 .. | .pack4 .. | .unpack4 ..
  | .tagrd .. | .tagwr .. | .vrng .. | .zip2 .. | .zip3 .. | .zip4 .. | .unzip2 .. | .unzip3 .. | .unzip4 ..
  | .lshuf .. | .lrot .. | .lread .. | .lwrite .. | .faddx .. | .fsubx .. | .fmulx .. | .dwadd ..
  | .dwadds .. | .dwmul .. | .dwmuls .. | .dwdiv .. | .dwsqrt .. | .dwnorm .. | .dwcvt .. | .dwcmp ..
  | .creduce .. | .credseg .. | .qswapx .. | .qswapy .. | .qswapd .. | .qbcast .. | .greduce .. | .gscan ..
  | .gsegred .. | .gmatch .. | .pref .. | .pref2w .. | .undefinedInstruction .. | .reservedMajor ..
  | .clauseStart .. | .instructionCacheFill .. | .loadReturn .. | .storeAccepted .. | .atomicReturn ..
  | .resultWrite .. | .releaseComplete .. | .icinvComplete .. | .promotionStart .. | .promotionSwitchDone ..
  | .demotionSwitchDone .. | .barrierLaggardQualify .. | .barrierPhaseComplete .. | .barrierWake ..
  | .groupRegistersReturn .. | .teamEnd .. | .cbitmapSet .. | .dispatcherTailRead .. | .launchRecordTake ..
  | .teamPlacement .. | .consumerRelease .. | .pinGrant .. | .accessRetryResend .. | .recallComplete ..
  | .l1LineFill .. | .l2LineFill .. | .pageWalkComplete .. | .faultRecordAnswer .. | .invalidateRange ..
  | .invalidateRangeDone .. | .compact .. | .compactDone .. | .translationRequestFail ..
  | .commandIssueResume .. | .sourceReadDone .. | .copyEngineTake .. | .cpyComplete .. | .enginePageFault ..
  | .engineFailure .. | .matrixEngineTake .. | .matrixCommandComplete .. | .gatherScatterComplete ..
  | .scsaveStart .. | .scsaveComplete .. | .scprobeComplete .. | .partialMerge .. | .roundResultSend ..
  | .nredxComplete .. | .messageDelivery .. | .wakeDelivery .. | .waitwTimeout .. | .routerPowerDown ..
  | .routerWake .. | .faultRecordRelease .. | .eventRecordRelease .. | .forcedSave ..
  | .preemptStatusWrite .. | .teamRestore .. | .tiadeRead .. | .tiadeWrite .. | .tiadeAtomic ..
  | .tiadeFrameDrop .. | .createContext .. | .destroyContext .. | .setStep .. | .preemptContext ..
  | .resumeContext .. | .registerWindow .. | .removeWindow .. | .registerLaunchQueueTable ..
  | .harvestRecord .. | .rosterRecord .. | .getVersion .. | .getCapabilities .. | .negotiateAlgorithms ..
  | .getMeasurements .. | .vendorHarvestRequest .. | .vendorRosterRequest .. | .spdmUnsupportedRequest ..
  | .linkAuthentication .. | .linkAuthRetry .. | .peerAccess .. | .peerAck .. | .linkFailure ..
  | .peerPathTimeout .. | .sample .. | .trialDelayExpire .. | .chunkCommit .. | .powerLimit ..
  | .coreClock .. | .routerPowerDownControl .. | .hostPortControl .. | .peerPortsControl ..
  | .samplingControl .. | .reuseHistogramControl .. | .causalTrialControl .. | .replayControl ..
  | .expertBlockWrite .. | .controlApply .. | .bootRecordClear | .moduleReset .. | .coreFailure ..
  | .clockStepDown | .coolantFlowLost | .coolantFlowRestored | .flitCrcError .. | .vld .. | .vlds ..
  | .vldi .. | .vldp .. | .spld .. | .spldx .. | .sld .. => false

/-- Whether a group stands inside a clause at a wait counter that reads 63 and that its instruction would raise. -/
def Group.counterFull (g : Group) : Bool :=
  g.started && match raises g.instr with
    | some c => g.counters.get 0 c == 63
    | none => false

/-- The header of the clause that a group stands at, where it is fetched. -/
def Group.nextHead (g : Group) : Option Word :=
  (g.clause.map (·.header)).orElse fun _ => (g.fetchBuf.find? fun c => c.pc == g.pc).map (·.header)

/-- Whether a group waits for what another agent must do, and nothing of its own is on its way: for a wake, for the answer to a
page fault, for range locks, or for a counter that engines alone lower. -/
def Group.waitsOthers (g : Group) : Bool :=
  match g.wait with
  | .word _ _ _ => true
  | .records _ _ _ => true
  | .sideLog => true
  | .command _ _ => true
  | .none => g.quiet && (g.counterFull || (!g.started && g.nextHead.any fun h => !g.waitMet h))
  | _ => false

/-- Whether a group's open chunk has done what others may not see before it commits. -/
def State.chunkFirm (s : State) (k : Nat) : Bool := ((s.chunks.find? k).map fun c => c.firm).getD false

/-- Whether such a chunk of a logging or replaying context, but for that of one group, bars others: one that has ended and
not committed, or one whose group goes on without them (R361). DEDUCED, log entry 46. -/
def State.chunkOpen (s : State) (ctx : Nat) (except_ : Option Nat) : Bool :=
  (s.context ctx).observe.mode != 0 && s.groups.any fun p =>
    some p.1 != except_ && p.2.ctx == ctx && p.2.resident && s.chunkFirm p.1 &&
      (p.2.chunkEnd.isSome || (!p.2.halted && !p.2.waitsOthers))

/-- Whether a group waits inside a clause in one of the ways that R295 lists, or is held by R291 or R292: it
stops at once. A BARAW that waits for its arrival is one. -/
def Group.stopsAtOnce (g : Group) : Bool :=
  match g.wait with
  | .none => g.counterFull
  | .barrier _ => g.atBarrier
  | .release _ => g.atBarrier
  | .fetch _ => false
  | .walk _ => false
  | .icinv _ _ _ => false
  | .peer => false
  | _ => true

/-- Ends a group of a grid that is ended; its pending faults become records (R287, R289). -/
def State.endGroup (s : State) (k : Nat) : State := (s.flushPending k).haltGroup k

/-- Whether the grid of a group has been ended (R289). -/
def State.gridEnded (s : State) (k : Nat) : Bool := ((s.grids.find? (s.group k).grid).map fun q => q.cancelled).getD false

/-- A group of an ended grid that has come to a wait in which it stops at once ends there (R289, R295). -/
def State.stopEnded (s : State) (k : Nat) : State :=
  let g := s.group k
  if s.gridEnded k && g.resident && !g.halted && g.stopsAtOnce then s.endGroup k else s

/-- The resident groups of a grid. -/
def State.gridGroups (s : State) (grid : Nat) : List Nat :=
  (s.groups.filter fun p => p.2.resident && !p.2.halted && p.2.grid == grid).map (·.1)

/-- Ends a grid: groups that wait stop at once, the others at their next clause boundary; unplaced and saved
teams are discarded; a grid-ended record is written (R289). `code` and `va` are those of its record.
DEDUCED, log entry 51. -/
def State.endGrid (s : State) (grid code va : Nat) : State :=
  match s.grids.find? grid with
  | none => s
  | some q =>
    if q.cancelled then s
    else
      let s := { s with
        grids := s.grids.put grid { q with cancelled := true, holds := [] }
        cmds := s.cmds.filter fun c => !(c.2.saved && c.2.grid == grid)
        contexts := s.contexts.modify q.ctx fun c => { c with saved := c.saved.filter fun t => t.team.grid != grid } }
      let s := (s.gridGroups grid).foldl (fun s k =>
        if (s.group k).stopsAtOnce then s.endGroup k else s) s
      s.faultRecord q.ctx { kind := 7, code := code, grid := q.launch.grid, va := va }

/-- The grid of a group is ended over an uncorrectable error (R289, R368). -/
def State.errorEnd (s : State) (g va : Nat) : State := s.endGrid (s.group g).grid 0xE0 va

/-! ### Walks of a group -/

/-- A group's walk for an address that does not end now: the group waits for it, or an error that it has found in a line ends
the grid and the group with it (R194, R368). None where the walk ends. -/
def State.walkTurned (s : State) (k va : Nat) (reads : List Nat) : Option State :=
  match s.tryWalk k reads 8 with
  | .served _ => none
  | .retry t => some t
  | .held t => some t
  | .waits => some s
  | .spoilt _ => some ((s.errorEnd k va).endGroup k)

/-- The state after the reads of a group's walk that ends. -/
def State.walkMade (s : State) (k : Nat) (reads : List Nat) : State :=
  match s.tryWalk k reads 8 with
  | .served t => t
  | _ => s

end Sys2Proof.Machine
end

