-- ==== Sys2Proof/Machine/Fetch.lean ====
section
/-! DEFINITION. Fetching code: the checks of a clause (R12, R50, R53), the instruction cache and TLB of the
cluster (R165, R199), and the start of a clause (R52, R285). -/

namespace Sys2Proof.Machine

/-- COUNT of a clause header: the words that follow it (R50). -/
def headerCount (h : Word) : Nat := (h.extractLsb' 0 4).toNat

/-- CLASS of a clause header (R50). -/
def headerClass (h : Word) : Nat := (h.extractLsb' 6 2).toNat

/-- A header with the marker, zero bits zero, a class and a count of at least one (R12, R50). -/
def headerOk (h : Word) : Bool :=
  h.extractLsb' 24 8 == 0xA0#8 && h.extractLsb' 4 2 == 0#2 && headerClass h != 3 && headerCount h != 0

/-- The majors that a clause of a class may hold (R53). -/
def classHolds (cls : Nat) (m : Nat) : Bool :=
  let engine := 0x2A ≤ m && m ≤ 0x2E
  let system := 0x30 ≤ m && m ≤ 0x32
  if cls = 0 then !engine && !system else if cls = 1 then !system else !engine

/-- The first words of a clause's instructions keep to its class, and no second word lies beyond the last
(R12, R53). -/
def wordsOk (cls : Nat) : List Word → Bool
  | [] => true
  | [w] => classHolds cls (major w).toNat && !twoWords w
  | w :: x :: ws =>
    classHolds cls (major w).toNat && (if twoWords w then wordsOk cls ws else wordsOk cls (x :: ws))

/-- The word indexes at which an instruction of a clause begins. -/
def starts (i : Nat) : List Word → List Nat
  | [] => []
  | [_] => [i]
  | w :: x :: ws => i :: (if twoWords w then starts (i + 2) ws else starts (i + 1) (x :: ws))

/-- A clause that passes every check made when it is fetched (R12). -/
def Clause.ok (c : Clause) : Bool := headerOk c.header && wordsOk (headerClass c.header) c.words

/-- How the translation of an instruction fetch ends (R199). -/
inductive FetchKey where
  | ok (key : Nat)
  | protection
  | absent (code : Nat)
  /-- its walk has got a retry, or is held, or has found an error -/
  | turned
  /-- its walk waits -/
  | waits
  deriving DecidableEq, Repr

/-- The cluster of a group slot (R313). -/
def clusterOf (k : Nat) : Nat := coreOf k / 4

/-- Translates a code address through the instruction TLB, walking on a miss (R187, R194, R198, R199); the page
found is kept there, and the one taken longest ago goes from a full TLB of 64.
DESIGN CHOICE of which one goes, log entry 119. -/
def State.fetchKey (s : State) (k : Nat) (va : Nat) : State × FetchKey :=
  let ctx := (s.group k).ctx
  let answer (e : TlbEntry) : FetchKey := if e.ex then .ok (e.key va) else .protection
  match (s.cluster (clusterOf k)).itlb.find? fun e => e.holds ctx va with
  | some e => (s, answer e)
  | none =>
    match s.tryWalk k (s.walkReads ctx va) 8 with
    | .served s =>
      match s.walk ctx va with
      | .ok e => (s.modCluster (clusterOf k) fun c => { c with itlb := (e :: c.itlb).take 64 }, answer e)
      | .absent => (s, .absent 1)
      | .malformed => (s, .absent 2)
    | .retry t => (t, .turned)
    | .held t => (t, .turned)
    | .waits => (s, .waits)
    | .spoilt _ => ((s.errorEnd k va).endGroup k, .turned)

/-- The cached block of code that holds an address, with the bytes it was filled with. -/
def State.codeBlock (s : State) (k va key : Nat) : Option CodeBlock :=
  (s.cluster (clusterOf k)).icache.find? fun b =>
    b.ctx == (s.group k).ctx && b.va == va / 64 * 64 && b.key == key / 64 * 64

/-- The word at a code address, where its block is cached; else the block that must be filled. -/
def State.codeWord (s : State) (k va key : Nat) : Except Nat Word :=
  match s.codeBlock k va key with
  | some b => .ok (BitVec.ofNat 32 (leNat ((b.bytes.drop (va % 64)).take 4)))
  | none => .error (va / 64 * 64)

/-- n words of code from an address within one page. -/
def State.codeWords (s : State) (k va key : Nat) : Nat → Except Nat (List Word)
  | 0 => .ok []
  | n + 1 =>
    match s.codeWord k va key with
    | .error b => .error b
    | .ok w =>
      match s.codeWords k (va + 4) (key + 4) n with
      | .error b => .error b
      | .ok ws => .ok (w :: ws)

/-- Whether a group belongs to its context's pager grid (R291). -/
def State.isPager (s : State) (k : Nat) : Bool :=
  ((s.grids.find? (s.group k).grid).map fun x => x.launch.pager).getD false

/-- A load or fetch whose translation fails: one kind-1 record for each distinct base page, in the order
given, and the group is held; a pager's group takes the page fault at once (R291). -/
def State.loadPageFault (s : State) (k : Nat) (fails : List (Nat × Nat)) (va : Nat) (lanes : LaneMask) :
    State :=
  let g := s.group k
  if s.isPager k then s.vector k ⟨0x09, va, lanes, 0⟩ g.pc g.word g.site
  else
    let (s, recs) := fails.foldl (fun p f =>
      let s := p.1
      let seq := (s.context g.ctx).faultSeq
      (s.faultRecord g.ctx (s.groupRecord k
        { kind := 1, code := 0x09 + 256 * f.2, site := g.site, va := f.1 }), p.2 ++ [(seq, none)]))
      (s, [])
    s.modGroup k fun g => { g with wait := .records recs va lanes, badPages := [] }

/-- A fault raised at the first instruction of a clause that is being fetched (R12, R199). -/
def State.fetchFault (s : State) (k : Nat) (t : Trap) : State :=
  let g := s.group k
  s.vector k t g.pc g.word g.site

/-- Freezes a group until a block of its code arrives, and counts the slip (R165). -/
def State.freeze (s : State) (k block : Nat) : State :=
  (s.modGroup k fun g => { g with wait := .fetch block }).countEvent (coreOf k)
    fun e => { e with slips := e.slips + 1 }

/-- What the group's fetch buffer takes along: up to two clauses that follow, while they lie whole in the
cache on the same page (R165, R217). -/
def State.following (s : State) (k : Nat) : Nat → Addr → Nat → List Clause
  | 0, _, _ => []
  | n + 1, pc, key =>
    match s.codeWord k pc.toNat key with
    | .error _ => []
    | .ok h =>
      if headerOk h && key % 24576 + 64 ≤ 24576 then
        match s.codeWords k (pc.toNat + 4) (key + 4) (headerCount h) with
        | .error _ => []
        | .ok ws =>
          ⟨pc, h, ws⟩ :: s.following k n (nextHeader pc (headerCount h)) (key + 4 * (headerCount h + 1))
      else []

/-- Delivers the oldest pending deferred fault at a clause boundary (R285, R286). -/
def State.deliverPending (s : State) (k : Nat) (p : Pending) : State :=
  let g := s.group k
  let s := s.modGroup k fun g => { g with pending := g.pending.tail }
  match p with
  | .lateStore site n => s.vector k ⟨0x11, n, 0, 0⟩ g.pc 0 site
  | .engine site st => s.vector k ⟨0x12, st, g.xm, 0⟩ g.pc 0 site

/-- A hint asks the cluster's cache for the block of code that holds an address; it is dropped where the cache holds
the block, where the address is none, and while the cache is busy with the block of an earlier hint (R51, R83).
DESIGN CHOICE of what busy is, log entry 94. -/
def State.askCode (s : State) (k : Nat) (va : Int) : State :=
  let c := s.cluster (clusterOf k)
  let block := va.toNat / 64 * 64
  let ctx := (s.group k).ctx
  if va < 0 || 2 ^ 56 ≤ va || c.asked.isSome || c.icache.any (fun b => b.ctx == ctx && b.va == block) then s
  else s.modCluster (clusterOf k) fun c => { c with asked := some (ctx, block) }

/-- The address that a header's HINT names (R51). -/
def hintAddr (pc : Addr) (h : Word) : Int := pc.toNat / 64 * 64 + 64 * (h.extractLsb' 16 8).toInt

/-- A header gives its hint to the cache; a HINT of 0 is none (R50, R51). -/
def State.takeHint (s : State) (k : Nat) (c : Clause) : State :=
  if c.header.extractLsb' 16 8 = 0 then s else s.askCode k (hintAddr c.pc c.header)

/-- Starts a fetched clause once it passes its checks and its WAIT counters read zero (R12, R52, R302), and gives its
header's hint to the cache (R51). -/
def State.beginClause (s : State) (k : Nat) (c : Clause) : Option State :=
  let g := s.group k
  if !c.ok || (g.resumed && !((starts 0 c.words).contains g.word)) then
    if g.quiet then some (s.fetchFault k ⟨0x03, c.header.toNat, g.xm, 0⟩) else none
  else if g.waitMet c.header then
    some ((s.takeHint k c).modGroup k fun g =>
      { g with clause := some c, started := true, resumed := false })
  else none

/-- Fetches the clause at the group's PC from the cache, with the clauses that follow it (R165, R199). -/
def State.fetchClause (s : State) (k : Nat) : Option State :=
  let g := s.group k
  let va := g.pc.toNat
  let (s, r) := (s.flit [coreOf k / 32]).fetchKey k va
  match r with
  | .protection => if g.quiet then some (s.fetchFault k ⟨0x0A, va, g.xm, 0⟩) else none
  | .absent code => if g.quiet then some (s.loadPageFault k [(va, code)] va g.xm) else none
  | .turned => some s
  | .waits => none
  | .ok key =>
    match s.codeWord k va key with
    | .error b => some (s.freeze k b)
    | .ok h =>
      if !headerOk h then s.beginClause k ⟨g.pc, h, []⟩
      else
        let n := headerCount h
        let end_ := va + 4 * (n + 1)
        if va / 24576 = (end_ - 1) / 24576 then
          match s.codeWords k (va + 4) (key + 4) n with
          | .error b => some (s.freeze k b)
          | .ok ws =>
            let s := s.modGroup k fun g =>
              { g with fetchBuf := s.following k 2 (nextHeader g.pc n) (key + 4 * (n + 1)) }
            let c : Clause := ⟨g.pc, h, ws⟩
            match s.beginClause k c with
            | some s => some s
            | none => some (s.modGroup k fun g => { g with clause := some c })
        else
          -- a clause that crosses a base page: its words are translated one by one
          let next := (va / 24576 + 1) * 24576
          let (s, r2) := s.fetchKey k next
          match r2 with
          | .protection => if g.quiet then some (s.fetchFault k ⟨0x0A, next, g.xm, 0⟩) else none
          | .absent code => if g.quiet then some (s.loadPageFault k [(next, code)] next g.xm) else none
          | .turned => some s
          | .waits => none
          | .ok key2 =>
            let n1 := (next - va) / 4 - 1
            match s.codeWords k (va + 4) (key + 4) n1, s.codeWords k next key2 (n - n1) with
            | .error b, _ => some (s.freeze k b)
            | _, .error b => some (s.freeze k b)
            | .ok w1, .ok w2 =>
              let c : Clause := ⟨g.pc, h, w1 ++ w2⟩
              match s.beginClause k c with
              | some s => some s
              | none => some (s.modGroup k fun g => { g with clause := some c, fetchBuf := [] })

/-- The start of a clause: a pending deferred fault comes first, then the clause from the fetch buffer or
the cache (R52, R285). None while it may not start. -/
def State.clauseStart (s : State) (k : Nat) : Option State :=
  let g := s.group k
  if g.started || g.wait != .none then none
  else match (if g.trapMode || g.word != 0 then none else g.pending.head?) with
    | some p => if g.quiet then some (s.deliverPending k p) else none
    | none =>
      match g.clause with
      | some c => s.beginClause k c
      | none =>
        match g.fetchBuf.find? fun c => c.pc == g.pc with
        | some c =>
          let s := s.modGroup k fun g =>
            { g with fetchBuf := g.fetchBuf.filter fun x => c.pc.toNat < x.pc.toNat, clause := some c }
          some ((s.beginClause k c).getD s)
        | none => s.fetchClause k

/-- The cluster's instruction cache takes a block with the bytes that its home holds; of 4,096 blocks the one that was filled
longest ago goes. A neighbouring block whose code has changed since it was filled goes too, so that the blocks that a clause
spans are of one time (R54, R165, R217). DEDUCED, log entry 95; DESIGN CHOICE of the block that goes, log entry 119. -/
def State.putBlock (s : State) (k block at_ : Nat) : State :=
  let ctx := (s.group k).ctx
  let old := (s.cluster (clusterOf k)).icache.filter fun x =>
    !(x.ctx == ctx && x.va == block) &&
      !(x.ctx == ctx && (x.va == block + 64 || x.va + 64 == block) && x.bytes != s.bytes x.key 64)
  s.modCluster (clusterOf k) fun c => { c with icache := (⟨ctx, block, at_, s.bytes at_ 64⟩ :: old).take 4096 }

/-- What the fill of a block of code for a group comes to: the block is taken, or the state while it is not. -/
inductive Filled where
  | taken (s : State)
  | turned (s : State)
  | waits
  /-- an error has spoilt its line -/
  | spoilt (s : State) (line : Nat)

/-- Fills a block of the cluster's instruction cache from its home slice, as a load of the group's core would read it: a
sector that another core holds pinned gives a retry (R165, R194, R199, R372). A block that does not translate brings
nothing. -/
def State.fillBlock (s : State) (k block : Nat) : Filled :=
  let (s, r) := s.fetchKey k block
  match r with
  | .ok key =>
    let at_ := key / 64 * 64
    match s.tryWalk k [at_] 64 with
    | .served t => if s.err = .line then .spoilt s (lineOf at_) else .taken (t.putBlock k block at_)
    | .retry t => .turned t
    | .held t => .turned t
    | .waits => .waits
    | .spoilt line => .spoilt s line
  | .turned => .turned s
  | .waits => .waits
  | _ => .taken s

/-- An error in a line of code: the line is spoilt from then on, the grid is ended, and with it the group that waits for the
code (R289, R368). -/
def State.codeError (s : State) (k block line : Nat) : State :=
  ((s.spoil line).errorEnd k block).endGroup k

/-- The block that a frozen group waits for arrives, and it goes on (R165). None while it waits for it. -/
def State.fillCode (s : State) (k block : Nat) : Option State :=
  match s.fillBlock k block with
  | .taken t => some (t.modGroup k fun g => { g with wait := .none })
  | .turned t => some t
  | .waits => none
  | .spoilt t line => some (t.codeError k block line)

/-- The block that a hint asked for arrives; one that an error has spoilt does not (R51, R83, R368). -/
def State.fillAsked (s : State) (k block : Nat) : Option State :=
  let done (t : State) : State := t.modCluster (clusterOf k) fun c => { c with asked := none }
  match s.fillBlock k block with
  | .taken t => some (done t)
  | .turned t => some t
  | .waits => none
  | .spoilt t _ => some (done t)

end Sys2Proof.Machine
end

