-- ==== Sys2Proof/Machine/Operands.lean ====
section
/-! DEFINITION. Operand forms: the format tags and the tag conversion of R42, the second operand B, pairs,
and lane numbers. -/

namespace Sys2Proof.Machine

/-! ### Tags (R17) -/

/-- The four classes of tags (R42). -/
inductive TagClass where
  | binary32
  | integer (signed : Bool)
  | packed (t : Fmt) (n : Nat)
  | bits
  deriving DecidableEq, Repr

/-- The class of a tag code (R17, R42). -/
def tagClass (t : BitVec 4) : TagClass :=
  match t.toNat with
  | 1 => .integer true
  | 2 => .integer false
  | 3 => .binary32
  | 4 => .packed .bf16 2
  | 5 => .packed .fp16 2
  | 6 => .packed .e4m3 4
  | 7 => .packed .e5m2 4
  | 11 => .binary32
  | 12 => .binary32
  | _ => .bits

/-- Element i of a packed word (R30). -/
def element (t : Fmt) (w : Word) (i : Nat) : Nat := w.toNat / 2 ^ (t.width * i) % 2 ^ t.width

/-- A word with element i replaced (R30). -/
def setElement (t : Fmt) (w : Word) (i v : Nat) : Word :=
  let sh := t.width * i
  (w &&& ~~~(BitVec.ofNat 32 ((2 ^ t.width - 1) * 2 ^ sh))) ||| BitVec.ofNat 32 (v * 2 ^ sh)

/-- A word from its elements, lowest first. -/
def packElements (t : Fmt) (l : List Nat) : Word :=
  BitVec.ofNat 32 (l.foldr (fun v acc => v + 2 ^ t.width * acc) 0)

/-- A 32-bit value read as i32 or n32 (R33). -/
def intOf (signed : Bool) (w : Word) : Int := if signed then w.toInt else w.toNat

/-- The range of i32 or n32. -/
def intRange (signed : Bool) : Int × Int :=
  if signed then (-(2 ^ 31), 2 ^ 31 - 1) else (0, 2 ^ 32 - 1)

/-- A floating-point value converted to i32 or n32 (R37). -/
def fpToWord (rm : RMode) (signed : Bool) (v : FpVal) : Word × Flags :=
  let r := intRange signed
  let (x, f) := toInt rm r.1 r.2 v
  (BitVec.ofInt 32 x, f)

/-- One value put in element 0 of a packed format, the other elements +0 (R42). -/
def packFirst (p : Nat × Flags) : Word × Flags := (BitVec.ofNat 32 p.1, p.2)

/-- The conversion of a source whose tag mismatches under FMT = 0 (R42). DEDUCED, log entry 12. -/
def convertTag (rm : RMode) (found expected : BitVec 4) (w : Word) : Word × Flags :=
  match tagClass found, tagClass expected with
  | .binary32, .integer sg => fpToWord .rtz sg (f32 w)
  | .binary32, .packed t _ => packFirst (t.convert rm false (f32 w))
  | .integer sg, .binary32 => toWord (Fmt.fp32.ofInt rm false (intOf sg w))
  | .integer sg, .packed t _ => packFirst (t.ofInt rm false (intOf sg w))
  | .packed t _, .binary32 => toWord (Fmt.fp32.convert .rne false (t.decode (element t w 0)))
  | .packed t _, .integer sg => fpToWord .rtz sg (t.decode (element t w 0))
  | .packed t n, .packed u m =>
    let es := (List.range (min n m)).map fun i => u.convert rm false (t.decode (element t w i))
    (packElements u (es.map (·.1)), es.foldl (fun f e => f ||| e.2) 0)
  | _, _ => (w, 0)

/-- A source's value under its expected tag: as it stands when the tags match, else converted (R19). -/
def readAs (rm : RMode) (found expected : BitVec 4) (w : Word) : Word × Flags :=
  if tagMatches found expected then (w, 0) else convertTag rm found expected w

/-- A scalar source under an expected tag; the integer and scalar instructions take the value. -/
def Group.ssrc (g : Group) (r : Nat) (expected : BitVec 4) : Word × Flags :=
  readAs g.rm (g.sreg r).tag expected (g.sval r)

/-- A scalar source's value under an expected tag. -/
def Group.sread (g : Group) (r : Nat) (expected : BitVec 4) : Word := (g.ssrc r expected).1

/-- Lane l of a vector source under an expected tag (R19, R42). -/
def Group.vsrc (g : Group) (r : Nat) (expected : BitVec 4) (l : Nat) : Word × Flags :=
  readAs g.rm (g.vreg r).tag expected (g.lane r l)

/-! ### The second operand B (R88) -/

end Sys2Proof.Machine

namespace Sys2Proof

open Machine

/-- The vector registers that B names. -/
def Src.vregs : Src → List Nat
  | .v r => [r.toNat]
  | .s _ => []

/-- The scalars that B names. -/
def Src.sregs : Src → List Nat
  | .v _ => []
  | .s r => [r.toNat]

/-- B as a register. -/
def Src.reg : Src → Reg
  | .v r => .v r.toNat
  | .s r => .s r.toNat

/-- The pair's second register. -/
def Src.reg1 : Src → Reg
  | .v r => .v (r.toNat + 1)
  | .s r => .s (r.toNat + 1)

/-- The pair field that a pair B is. -/
def Src.pair : Src → PairField
  | .v r => ⟨false, r.toNat⟩
  | .s r => ⟨true, r.toNat⟩

/-- The scalars a lane number names. -/
def LaneIdx.sregs : LaneIdx → List Nat
  | .imm _ => []
  | .s r => [r.toNat]

end Sys2Proof

namespace Sys2Proof.Machine

/-- The tag of B. -/
def Group.btag (g : Group) (b : Src) : BitVec 4 := g.tagOf b.reg

/-- The lane number k of LROT, LREAD and LWRITE, before any limit (R108, R109). -/
def Group.laneNum (g : Group) (k : LaneIdx) : Nat :=
  match k with
  | .imm k => k.toNat
  | .s r => (g.sval r.toNat).toNat

/-- The tag that a type field names for a packed or plain value (R17, R56). -/
def typeTag (ty : BitVec 4) : BitVec 4 :=
  match ty.toNat with
  | 1 => 1 | 2 => 2 | 3 => 1 | 4 => 2 | 5 => 1 | 6 => 2 | 7 => 3
  | 8 => 4 | 9 => 5 | 10 => 6 | 11 => 7
  | _ => 0

/-- The floating-point format of a type code, if it has one (R56). -/
def typeFmt (ty : BitVec 4) : Option Fmt :=
  match ty.toNat with
  | 7 => some .fp32 | 8 => some .bf16 | 9 => some .fp16 | 10 => some .e4m3 | 11 => some .e5m2
  | _ => none

/-- Width and sign of an integer type code (R33, R56). -/
def typeInt (ty : BitVec 4) : Option (Nat × Bool) :=
  match ty.toNat with
  | 1 => some (32, true) | 2 => some (32, false) | 3 => some (16, true) | 4 => some (16, false)
  | 5 => some (8, true) | 6 => some (8, false)
  | _ => none

end Sys2Proof.Machine
end

