-- ==== Sys2Proof/Machine/Flags.lean ====
section
/-! DEFINITION. Flags (R40) and the FP exception trap (R41): every flag an instruction raises comes with the
lanes it belongs to. -/

namespace Sys2Proof.Machine

/-- Flags raised together, with the lanes they belong to: one lane for an element, every lane that takes part
for a shared computation (R41). -/
structure FlagEvent where
  flags : Flags
  lanes : LaneMask
  deriving DecidableEq, Repr

/-- One lane as a mask. -/
def laneBit (l : Nat) : LaneMask := 1#96 <<< l

/-- The flags of element computations in the active lanes. -/
def laneEvents (m : LaneMask) (f : Nat → Flags) : List FlagEvent :=
  (lanesOf m).filterMap fun l => if f l = 0 then none else some { flags := f l, lanes := laneBit l }

/-- A flag of a computation that lanes share. DEDUCED, log entry 13. -/
def sharedEvent (m : LaneMask) (f : Flags) : List FlagEvent := if f = 0 then [] else [{ flags := f, lanes := m }]

/-- The events that are raised: those in which some lane is no helper lane (R41, R147). -/
def Group.raised (g : Group) (evs : List FlagEvent) : List FlagEvent :=
  evs.filter fun e => e.flags != 0 && (e.lanes &&& ~~~g.helper) != 0

/-- The flags that an instruction would set. -/
def Group.raisedFlags (g : Group) (evs : List FlagEvent) : Flags :=
  (g.raised evs).foldl (fun f e => f ||| e.flags) 0

/-- Sets the flags, or traps when one of them is enabled: TVAL holds all the flags the instruction would set,
TMASK the lanes of the enabled ones, and a flag whose enable is 0 is set all the same. In trap mode no flag
is set and nothing traps (R40, R41, R286). -/
def Group.settle (g : Group) (evs : List FlagEvent) (done : Group) : Except Trap Group :=
  if g.trapMode then .ok done
  else
    let all := g.raisedFlags evs
    if all &&& g.ten = 0 then .ok { done with gstat := done.gstat ||| all }
    else
      .error {
        cause := 0x0E, val := all.toNat
        mask := ((g.raised evs).filter fun e => e.flags &&& g.ten != 0).foldl (fun m e => m ||| e.lanes) 0
        flags := all &&& ~~~g.ten }

end Sys2Proof.Machine
end

