-- ==== Sys2Proof/Machine/Access.lean ====
section
/-! DEFINITION. Accesses to global memory: the checks of a lane (R79, R111, R114), translation through base
registers and the TLB (R187, R188), the side log (R216, R292), peer windows (R332, R333), and the issue of an
access. Its performance is in MemoryEvents.lean. -/

namespace Sys2Proof.Machine

/-! ### The order within a clock -/

/-- The points of coherence that are no home slices: the scratchpads and lines of a core; at its home slice a line is
its own number. -/
def corePoints : Nat := 2 ^ 60

/-- The point of coherence that a core's scratchpad is. -/
def bankPoint (core : Nat) : Nat := corePoints + core

/-- The point of coherence that a line in a core's L1 is. -/
def l1Point (core line : Nat) : Nat := corePoints * (core + 2) + line

/-- The place of a group's request in the order of a point: by core and slot at a home slice, by slot at an L1 or a
scratchpad (R226). -/
def placeAt (point k : Nat) : Nat := if corePoints ≤ point then slotOf k else k

/-- Whether a group's request may be served at a point of coherence now: within one clock requests are served in a fixed
order, so that none comes after a higher one (R226). DEDUCED, log entry 102. -/
def State.turnOf (s : State) (point k : Nat) : Bool :=
  match s.served.find? point with
  | some p => p.1 != s.clock || placeAt point p.2 ≤ placeAt point k
  | none => true

/-- Notes the group that a point of coherence has served in this clock. -/
def State.noteServed (s : State) (point k : Nat) : State := { s with served := s.served.put point (s.clock, k) }

/-! ### Lanes -/

/-- How a lane's access stands at issue. -/
inductive LaneRes where
  /-- it translates to the byte `key` -/
  | ok (va key : Nat)
  /-- it fails a check, with a cause and TVAL -/
  | fail (cause val : Nat)
  /-- its page must be walked first -/
  | miss (va : Nat)
  /-- its page is not present (1) or malformed (2) -/
  | absent (va code : Nat)
  /-- a store into a region that a compaction holds (R192) -/
  | held (va : Nat)
  deriving DecidableEq, Repr

/-- The base page of an address (R184). -/
def pageOf (va : Nat) : Nat := va / 24576

/-- Whether a compaction of the context is moving the region of an address (R192). -/
def State.compacting (s : State) (ctx va : Nat) : Bool :=
  match (s.context ctx).xlateOp with
  | some o => o.compact && o.va ≤ va && va < o.va + 24576 * 256
  | none => false

/-- A lane whose byte is known and whose permissions hold or not. -/
def State.permitted (s : State) (ctx va key : Nat) (rd wr haveR haveW : Bool) : LaneRes :=
  if (rd && !haveR) || (wr && !haveW) then .fail 0x0A va
  else if wr && s.compacting ctx va then .held va
  else .ok va key

/-- Translation through the core's TLB, or by the outcome of a walk that failed (R187, R188). -/
def State.translate (s : State) (k va : Nat) (rd wr : Bool) : LaneRes :=
  let g := s.group k
  match (s.core (coreOf k)).tlb.find? fun e => e.holds g.ctx va with
  | some e => s.permitted g.ctx va (e.key va) rd wr e.rd e.wr
  | none =>
    match g.badPages.find? fun p => p.1 == pageOf va with
    | some p => .absent va p.2
    | none => .miss va

/-- An address as TVAL shows it. -/
def addrVal (a : Int) : Nat := (a % 2 ^ 64).toNat

/-- The checks of R111 for an access through a base register, in their order. -/
def State.baseLane (s : State) (k : Nat) (b : BaseReg) (a : Int) (align : Nat) (rd wr : Bool) : LaneRes :=
  if !b.everset then .fail 0x0A (addrVal a)
  else if a < 0 || 2 ^ 56 ≤ a then .fail 0x0A (addrVal a)
  else if a.toNat % align ≠ 0 then .fail 0x0D a.toNat
  else
    let va := a.toNat
    if b.vb.toNat ≤ va && va < b.vb.toNat + b.limit then
      s.permitted (s.group k).ctx va (b.target.key (b.start + (va - b.vb.toNat))) rd wr b.rd b.wr
    else s.translate k va rd wr

/-- The checks of R79 for an access through an address pair: `hi` is its high word. An address below 0 is a protection
fault as one above 2^56 - 1 is. DESIGN CHOICE, log entry 115. -/
def State.pairLane (s : State) (k : Nat) (hi : Word) (a : Int) (rd wr : Bool) : LaneRes :=
  if hi.extractLsb' 24 8 ≠ 0 || a < 0 || 2 ^ 56 ≤ a then .fail 0x0A (addrVal a)
  else if a.toNat % 4 ≠ 0 then .fail 0x0D a.toNat
  else s.translate k a.toNat rd wr

/-- The checks of R114 for a private access: word w of lane l, m more words after it. -/
def State.privLane (s : State) (k : Nat) (w : Int) (m l : Nat) (rd wr : Bool) : LaneRes :=
  let g := s.group k
  if w < 0 || (g.stklim.toNat : Int) ≤ w + m then .fail 0x0B (addrVal w)
  else
    let a := g.pvbase.toNat + 384 * w.toNat + 4 * l
    if 2 ^ 56 ≤ a then .fail 0x0A a else s.translate k a rd wr

/-! ### BTSET's run (R188) -/

/-- Whether a walk finds the base page that goes on with a run at frame address `start`, with its target and permissions. -/
def Walk.follows (w : Walk) (e : TlbEntry) (start : Nat) : Bool :=
  match w with
  | .ok f => f.size = 24576 && f.target = e.target && f.rd = e.rd && f.wr = e.wr && f.ex = e.ex && f.start = start
  | _ => false

/-- The end of the run that goes on after a page: the following base pages of the 6 MiB region that continue
its frames with the same target and permissions. -/
def State.runEnd (s : State) (ctx : Nat) (e : TlbEntry) : Nat → Nat → Nat → Nat
  | 0, end_, _ => end_
  | n + 1, end_, start =>
    if end_ % (24576 * 256) != 0 && (s.walk ctx end_).follows e start then s.runEnd ctx e n (end_ + 24576) (start + 24576)
    else end_

/-- The table entries that finding the end of a run reads (R188, R198). -/
def State.runReads (s : State) (ctx : Nat) (e : TlbEntry) : Nat → Nat → Nat → List Nat
  | 0, _, _ => []
  | n + 1, end_, start =>
    if end_ % (24576 * 256) = 0 then []
    else
      s.walkReads ctx end_ ++
        if (s.walk ctx end_).follows e start then s.runReads ctx e n (end_ + 24576) (start + 24576) else []

/-- A base register set to VB with the requested permissions (R80, R188). -/
def State.setBase (s : State) (ctx : Nat) (vb : Addr) (rd wr : Bool) : BaseReg :=
  match s.walk ctx vb.toNat with
  | .ok e =>
    let end_ := if e.size = 24576 then s.runEnd ctx e 256 (e.va + e.size) (e.start + e.size) else e.va + e.size
    { vb := vb, limit := min (end_ - vb.toNat) (2 ^ 32 - 1), rd := rd && e.rd, wr := wr && e.wr
      valid := true, everset := true, target := e.target, start := e.start + (vb.toNat - e.va)
      run := e.va }
  | _ => { vb := vb, limit := 0, rd := rd, wr := wr, valid := true, everset := true }

/-- The table entries that setting a base register to VB reads (R188, R198). -/
def State.baseReads (s : State) (ctx : Nat) (vb : Addr) : List Nat :=
  s.walkReads ctx vb.toNat ++ match s.walk ctx vb.toNat with
    | .ok e => if e.size = 24576 then s.runReads ctx e 256 (e.va + e.size) (e.start + e.size) else []
    | _ => []

/-- A base register that an invalidation has cleared: its next use translates it again (R81, R190). -/
def BaseReg.cleared (b : BaseReg) : Bool := b.everset && !b.valid

/-- The walk that a cleared base register needs does not end now (R190, R194). None where it does, or none is needed. -/
def State.baseTurned (s : State) (k n : Nat) : Option State :=
  let b := (s.group k).base n
  if b.cleared then s.walkTurned k b.vb.toNat (s.baseReads (s.group k).ctx b.vb) else none

/-- A cleared base register is translated again on its next use, without a fault, with the permissions that it still holds
(R190). DESIGN CHOICE of those, log entry 121. -/
def State.freshBase (s : State) (k n : Nat) : State :=
  let b := (s.group k).base n
  if b.cleared then
    let s := s.walkMade k (s.baseReads (s.group k).ctx b.vb)
    (s.modGroup k fun g => { g with b := g.b.put n (s.setBase g.ctx b.vb b.rd b.wr) }).countEvent (coreOf k)
      fun e => { e with retranslations := e.retranslations + 1 }
  else s

/-! ### Peer windows -/

/-- Whether a key lies in a peer window. -/
def isPeer (key : Nat) : Bool := Config.windowKey * 257 ≤ key

/-- The window of a peer key. -/
def peerWin (key : Nat) : Nat := key / Config.windowKey - 257

/-- The port over which accesses to a device leave: a direct link if there is one, else one to a relay; 16 where no path
remains (R333). DEDUCED, log entry 41. -/
def State.portTo (s : State) (dev : Nat) : Nat :=
  let up := s.ports.filter fun p => p.2.up
  match (up.filter fun p => leNat p.2.partner == dev) ++ up.filter fun p => Config.relays p.2.partner dev with
  | p :: _ => p.1
  | [] => 16

/-- Whether some path leads to another device: an authenticated link, direct or to a relay (R333). -/
def State.hasPath (s : State) (dev : Nat) : Bool := s.portTo dev < 16

/-- A link goes down: it carries nothing until it authenticates afresh, and what it carried and has not acknowledged goes
over another path to its device, or waits for one from this clock on (R331, R333). -/
def State.linkDown (s : State) (port : Nat) : State :=
  let s := { s with ports := s.ports.modify port fun p => { p with up := false, partner := [] } }
  { s with
    peerSends := s.peerSends.map fun p => if p.port = port then { p with port := s.portTo p.dev, since := s.clock } else p }

/-- The bytes that an operation at a peer device touches. -/
def peerBytes : PeerOp → Nat
  | .load n => n
  | .store bs => bs.length
  | .atomic _ _ _ _ => 4
  | .merge _ _ _ _ _ _ _ => 0

/-- Sends an access to a peer device, with the next sequence number, over a port that leads there; its device, and for an
access through a peer window where it goes, come from the entry that its key names: the DEVID in 32 bytes, the remote
CTXID and the length in base frames in 4 bytes each, and the remote base in 8 (R332, R333).
PRESUMED, log entry 40. -/
def State.sendTo (s : State) (ctx : Nat) (p : PeerSend) : State :=
  let at_ := (s.context ctx).peerwin + 64 * peerWin p.key
  let offset := p.key % Config.windowKey
  let dev := s.peekNat at_ 32
  let seq := s.peerSeq.get 0 dev
  { s with
    peerSeq := s.peerSeq.put dev (seq + 1)
    peerSends := s.peerSends ++ [{ p with
      dev := dev, seq := seq, rctx := s.peekNat (at_ + 32) 4, rva := s.peekNat (at_ + 40) 8 + offset
      fits := offset + peerBytes p.op ≤ 24576 * s.peekNat (at_ + 36) 4, since := s.clock, port := s.portTo dev }] }

/-- An agent that is no core writes a word at a byte of a context: at its home, or where it lies in a peer window at the
device of the window, with no answer to wait for (R332). -/
def State.agentWord (s : State) (ctx va key : Nat) (w : Word) : State :=
  if isPeer key then
    (s.flit (huskPart 0)).sendTo ctx
      { dev := 0, seq := 0, key := key, op := .store (leBytes 4 w.toNat), group := 0, lane := 0, va := va, host := some (0, 0) }
  else s.homeWord key w

/-- Sends one access of a group to the device of a peer window, over its path to the ports (R314, R333).
DEDUCED, log entry 39. -/
def State.sendPeer (s : State) (k : Nat) (lane va key : Nat) (op : PeerOp) (access : Option Nat) (site : Site) :
    State :=
  (s.flit (pathTo (coreOf k) key)).sendTo (s.group k).ctx
    { dev := 0, seq := 0, key := key, op := op, group := k, lane := lane, va := va, access := access, site := site }

/-- What a lane asks of the peer device. -/
def peerOp (op : AccessOp) (size : Nat) (x : LaneAcc) : PeerOp :=
  match op with
  | .load _ => .load size
  | .store => .store x.data
  | .atomic f _ _ => .atomic f.op f.ty x.b x.c

/-! ### The side log -/

/-- Keeps the first entry of each key. -/
def firstOf {α : Type} : AMap α → AMap α
  | [] => []
  | p :: l => p :: (firstOf l).filter fun q => q.1 != p.1

/-- The bytes that an entry writes from its address: the data of a store, the word of an atomic. -/
def LaneAcc.bytes (x : LaneAcc) : Nat := if x.data.isEmpty then 4 else x.data.length

/-- Whether bytes [va, va + n) overlap an entry of the group (R216). -/
def State.logOverlaps (s : State) (k va n : Nat) : Bool :=
  (s.ownEntries k).any fun e => e.lanes.any fun x => va < x.va + x.bytes && x.va < va + n

/-- Whether the line of an address holds an entry of the group (R216). -/
def State.logLine (s : State) (k va : Nat) : Bool := (s.ownEntries k).any fun e => e.line == va / 192

/-! ### Issue -/

/-- An access to issue: what it does, where its value goes, and how it is ordered and counted. A scalar
access is made once for the group: TMASK of its faults is xm. With `helpers` a helper lane counts like any
other (R303). -/
structure Req where
  op : AccessOp
  size : Nat
  dest : Dest := .none
  tag : BitVec 4 := 0
  hint : BitVec 2 := 0
  order : BitVec 2 := 0
  scope : BitVec 3 := 0
  counter : Option Nat := none
  wake : Bool := false
  scalar : Bool := false
  helpers : Bool := false
  deriving DecidableEq, Repr

/-- Whether an access counts as a load for translation: it returns a value (R187, R225). -/
def AccessOp.returns : AccessOp → Bool
  | .load _ => true
  | .store => false
  | .atomic _ _ r => r

/-- Whether an access writes. -/
def AccessOp.writes : AccessOp → Bool
  | .load _ => false
  | _ => true

/-- A lane as it stands, with the bytes it stores and the operands of its atomic. -/
structure ReqLane where
  lane : Nat
  res : LaneRes
  data : List Byte := []
  b : Word := 0
  c : Word := 0
  deriving DecidableEq, Repr

/-- A lane's part of an access at a byte. -/
def ReqLane.acc (x : ReqLane) (va key : Nat) : LaneAcc :=
  { lane := x.lane, va := va, key := key, data := x.data, b := x.b, c := x.c }

/-- The lanes that translate, as parts of the access. -/
def okLanes (l : List ReqLane) : List LaneAcc :=
  l.filterMap fun x =>
    match x.res with
    | .ok va key => some (x.acc va key)
    | _ => none

/-- The lanes that enter the side log: those on absent pages, those that a compaction holds, and those on a
line that holds an entry of the group (R192, R216, R292). -/
def State.logLanes (s : State) (l : List ReqLane) : List LaneAcc :=
  l.filterMap fun x =>
    match x.res with
    | .absent va _ => some (x.acc va 0)
    | .held va => some (x.acc va 0)
    | .ok va key => if s.logLine s.cur va then some (x.acc va key) else none
    | _ => none

/-- The lines whose pages do not serve the store now: absent ones and those a compaction holds. -/
def blockedLines (l : List ReqLane) : List Nat :=
  l.filterMap fun x =>
    match x.res with
    | .absent va _ => some (va / 192)
    | .held va => some (va / 192)
    | _ => none

/-- The side-log entries of an instruction, one for each line (R292). The LOCK of a release falls once, with its
instruction, and is in no entry (R227). -/
def logEntries (ctx k : Nat) (r : Req) (site : Site) (seq : Nat) (ls : List LaneAcc) (blocked : List Nat) :
    List SideEntry :=
  let lines := (firstOf (ls.map fun x => (x.va / 192, ()))).map (·.1)
  lines.map fun line =>
    { group := k, ctx := ctx, hold := blocked.contains line, line := line, lanes := ls.filter fun x => x.va / 192 == line
      op := match r.op with
        | .atomic f lock ret => .atomic f (if r.order.getLsbD 0 then lock else 0) ret
        | op => op
      hint := r.hint, order := r.order, scope := r.scope, wake := r.wake, site := site, seq := seq }

/-- Writes a kind-2 record for each distinct absent page of a store: page, first address and code (R292). -/
def State.storeRecords (s : State) (k : Nat) (site : Site) (ls : AMap (Nat × Nat × Nat)) : State :=
  (firstOf ls).foldl (fun s p =>
    s.faultRecord (s.group k).ctx (s.groupRecord k
      { kind := 2, code := 0x09 + 256 * p.2.2.2, site := site, va := p.2.2.1 })) s

/-- The release conditions of R223 for a group: no access older than `id` remains, no store on its way to a scratchpad,
and no entry of its side log, in the log or replayed (R216). DEDUCED, log entry 49. -/
def State.drained (s : State) (k id : Nat) : Bool :=
  !(s.group k).bankWaits && (s.group k).accesses.all (fun a => (id ≤ a.id && a.replayOf.isNone) || a.pref) && (s.ownEntries k).isEmpty

/-- The L1 work of a release at a scope (R195): at gang scope or wider every dirty line is written back. -/
def State.releaseL1 (s : State) (c : Nat) (scope : BitVec 3) : State :=
  if scope.toNat < 2 then s
  else (s.core c).l1.foldl (fun s p => if p.2.dirty = 0 then s else s.writeBack c p.1 scope) s

/-- The L1 work of an acquire at a scope (R195): at gang scope or wider every clean sector goes that was filled from L2,
or that another agent has since changed at the home. DEDUCED, log entry 97. -/
def State.acquireL1 (s : State) (c : Nat) (scope : BitVec 3) : State :=
  if scope.toNat < 2 then s
  else s.modCore c fun x =>
    { x with l1 := x.l1.mapVals fun _ l => { l with valid := l.valid &&& ~~~((l.filled ||| l.stale) &&& ~~~l.dirty) } }

/-- The lanes that fail a check at issue, for an access that does or does not count as a load (R111, R291);
helper lanes never do (R147). -/
def badLanes (loads pager : Bool) (helper : LaneMask) (l : List ReqLane) : List ReqLane :=
  l.filter fun x =>
    !helper.getLsbD x.lane &&
      match x.res with
      | .fail _ _ => true
      | .absent _ _ => loads || pager
      | _ => false

/-- The lanes of a list as a mask. -/
def laneMask (l : List Nat) : LaneMask := l.foldl (fun m x => m ||| laneBit x) 0

/-- How an answer of a peer device is found: by lane and address. -/
def peerKey (lane va : Nat) : Nat := lane + 96 * va

/-- The answer of a peer device for a lane's entry. -/
def Group.peerAnswer (g : Group) (x : LaneAcc) : Option (Option (List Byte)) :=
  (g.peerAns.find? fun p => p.1 == peerKey x.lane x.va).map (·.2)

/-- The pages of lanes that must be walked first, once each (R187). DEDUCED, log entry 28. -/
def missPages (l : List ReqLane) : List Nat :=
  (firstOf (l.filterMap fun x =>
    match x.res with
    | .miss va => some (pageOf va, ())
    | _ => none)).map (·.1)

/-- Whether a lane is held by a compaction (R192). -/
def anyHeld (l : List ReqLane) : Bool :=
  l.any fun x =>
    match x.res with
    | .held _ => true
    | _ => false

/-- The lanes that get no byte: a failed check, and for an access that counts as a load an absent page. -/
def goneLanes (loads : Bool) (l : List ReqLane) : List ReqLane :=
  l.filter fun x =>
    match x.res with
    | .fail _ _ => true
    | .absent _ _ => loads
    | _ => false

/-- The lanes on absent pages: page, lane, address and code. -/
def absentLanes (l : List ReqLane) : AMap (Nat × Nat × Nat) :=
  l.filterMap fun x =>
    match x.res with
    | .absent va code => some (pageOf va, x.lane, va, code)
    | _ => none

/-- Issues the lanes that translate, once every check is passed: raises the counter and puts the access in
flight. What writes, and what acquires, waits in the sprinter for everything older to retire (R158, R236). -/
def State.putAccess (s : State) (r : Req) (lanes : List LaneAcc) (zeros : LaneMask) : State :=
  let g := s.g
  let g := match r.counter with
    | some c => g.raiseCounter c
    | none => g
  let a : Access :=
    { id := s.fresh, op := r.op, size := r.size, dest := r.dest, tag := r.tag, zeros := zeros, lanes := lanes, hint := r.hint
      order := r.order, scope := r.scope, counter := r.counter, wake := r.wake, site := g.site
      sprint := g.engine == .sprinter && (r.op.writes || r.order.getLsbD 0) }
  s.bump.setG { g with accesses := g.accesses ++ [a], badPages := [], peerAns := [] }

/-- A group lets go of a lock: its depth falls by 1, and at 0 it leaves the lock class (R162, R227). -/
def State.unlock (s : State) (k : Nat) : State :=
  let d := (s.group k).lockDepth
  let s := s.modGroup k fun g => { g with lockDepth := d - 1 }
  if d ≤ 1 then s.leaveClass k .lock else s

/-- Whether an instruction is a release with LOCK that returns nothing: in the sprinter its depth falls when it retires,
at its issue; in the herd when it completes (R227). DEDUCED, log entry 99. -/
def Req.unlocksAtIssue (r : Req) (g : Group) : Bool :=
  g.engine == .sprinter && !r.order.getLsbD 0 &&
    match r.op with
    | .atomic _ lock false => lock == 1
    | _ => false

/-- The request with its LOCK spent. -/
def Req.unlocked (r : Req) : Req :=
  match r.op with
  | .atomic f _ ret => { r with op := .atomic f 0 ret }
  | _ => r

/-- Puts a store or reduction in flight; a release with LOCK that returns nothing lets go of it at once in the sprinter
(R227). -/
def State.putWrites (s : State) (r : Req) (lanes : List LaneAcc) : State :=
  if r.unlocksAtIssue s.g then (s.putAccess r.unlocked lanes 0).unlock s.cur else s.putAccess r lanes 0

/-- The issue of a store or reduction: failing lanes go to the side log, peer lanes to their device, the
others into flight (R292, R332). A pager's stores enter no side log: one that a compaction holds waits at issue (R192,
R291). DEDUCED, log entry 100. -/
def State.issueStore (s : State) (r : Req) (lanes : List ReqLane) : Res :=
  let g := s.g
  let logged := s.logLanes lanes
  let rest := (okLanes lanes).filter fun x => !(logged.any fun y => y.lane == x.lane && y.va == x.va)
  let es := logEntries g.ctx s.cur r g.site s.fresh logged (blockedLines lanes)
  let c := coreOf s.cur
  let peers := rest.filter fun x => isPeer x.key
  if s.isPager s.cur && anyHeld lanes then .hold s
  else if g.engine == .sprinter && !g.retired && !(es.isEmpty && peers.isEmpty) then .hold s
  else if !es.isEmpty && 512 < (s.core c).sideLog.length + es.length then
    .hold (s.setG { g with wait := .sideLog })
  else if !peers.isEmpty &&
      ((r.order ≠ 0 && !(s.drained s.cur s.fresh)) ||
        s.peerSends.any fun p => p.group == s.cur && peers.any fun x =>
          p.key + 192 > x.key && p.key < x.key + 192) then .hold s
  else
    let s := if !peers.isEmpty && r.order ≠ 0 then s.releaseL1 c r.scope else s
    let id := s.fresh
    let s := s.putWrites r rest
    let s := if es.isEmpty then s else s.modCore c fun x => { x with sideLog := x.sideLog ++ es }
    let s := s.storeRecords s.cur g.site (absentLanes lanes)
    .done (peers.foldl (fun s x => s.sendPeer s.cur x.lane x.va x.key (peerOp r.op r.size x) (some id) g.site) s)
      .seq

/-- The issue of a load or a returning atomic: peer lanes are asked first and their answers awaited (R332);
a lane whose answer is a failure raises a protection fault, but a helper lane takes zero (R111, R147). -/
def State.issueLoad (s : State) (r : Req) (lanes : List ReqLane) (zeros helper : LaneMask) : Res :=
  let g := s.g
  let ok := okLanes lanes
  if anyHeld lanes || ok.any fun x => s.logOverlaps s.cur x.va r.size then .hold s
  else
    let peers := ok.filter fun x => isPeer x.key
    if peers.isEmpty then .done (s.putAccess r ok zeros) .seq
    else if g.peerAns.isEmpty then
      if r.order.getLsbD 1 && !(s.drained s.cur s.fresh) then .hold s
      else if g.engine == .sprinter && !g.retired && (r.op.writes || r.order.getLsbD 0) then .hold s
      else
        let s := if r.order.getLsbD 1 then s.releaseL1 (coreOf s.cur) r.scope else s
        let s := peers.foldl (fun s x => s.sendPeer s.cur x.lane x.va x.key (peerOp r.op r.size x) none g.site) s
        .hold (s.modGroup s.cur fun g => { g with wait := .peer })
    else
      let failed := peers.filter fun x => g.peerAnswer x == some none
      match failed.filter fun x => !helper.getLsbD x.lane with
      | x :: xs => .trap ⟨0x0A, x.va, laneMask ((x :: xs).map fun y => y.lane), 0⟩
      | [] =>
        let none_ := laneMask (failed.map fun y => y.lane)
        .done (s.putAccess r ((ok.filter fun x => !none_.getLsbD x.lane).map fun x =>
          match g.peerAnswer x with
          | some (some d) => { x with data := d }
          | _ => x) (zeros ||| none_)) .seq

/-- Issues an access: pages that no TLB entry maps are walked first (R187); then the lowest failing lane
decides the fault (R111), a load on an absent page is held (R291), and the rest goes on. -/
def State.issue (s : State) (r : Req) (lanes : List ReqLane) (zeros : LaneMask) : Res :=
  let g := s.g
  let misses := missPages lanes
  if !misses.isEmpty then .hold (s.setG { g with wait := .walk misses })
  else
    let pager := s.isPager s.cur
    let helper := if r.scalar || r.helpers then 0 else g.helper
    match badLanes r.op.returns pager helper lanes with
    | x :: xs =>
      let bad := x :: xs
      let m := if r.scalar then g.xm else laneMask (bad.map fun y => y.lane)
      match x.res with
      | .fail cause v => .trap ⟨cause, v, m, 0⟩
      | .absent va _ =>
        if pager then .trap ⟨0x09, va, m, 0⟩
        else
          let absent := absentLanes bad
          .hold (s.loadPageFault s.cur ((firstOf absent).map (·.2.2)) va
            (if r.scalar then g.xm else laneMask (absent.map (·.2.1))))
      | _ => .hold s
    | [] =>
      if r.op.returns then
        s.issueLoad r lanes (zeros ||| laneMask ((goneLanes r.op.returns lanes).map fun x => x.lane)) helper
      else s.issueStore r lanes

/-- An access that issues with an empty mask: it accesses nothing, and its counter rises and falls (R16,
R52). -/
def State.issueEmpty (s : State) (kind : ResultKind) (counter : Option Nat) : Res :=
  match counter with
  | none => .done s .seq
  | some c =>
    let g := s.g.raiseCounter c
    .done (s.bump.setG { g with results := g.results ++ [{ id := s.fresh, kind := kind, writes := [], counter := some c }] })
      .seq

end Sys2Proof.Machine
end

