-- ==== Sys2Proof/Machine/Memory.lean ====
section
/-! DEFINITION. Base registers (R80, R81), plain, strided, private and indexed access to global memory (R79,
R110 to R116, R221), and the scratchpad (R219, R220). -/

namespace Sys2Proof.Machine

/-! ### Base registers -/

/-- BTSET: translates VB once, with a walk that reads the home slices; beyond the check on the high byte it raises no fault
(R80, R188, R194). -/
def execBtset (n : BitVec 2) (a : BitVec 6) (perm : BitVec 2) (s : State) :
    Host.Outcome State Fault Refusal :=
  perform (.btset n a perm)
    { sr := [a.toNat, a.toNat + 1], pairs := [⟨true, a.toNat⟩]
      tags := [(.s a.toNat, 14), (.s (a.toNat + 1), 14)], serial := some false } (fun s =>
    let g := s.g
    let v := g.pairNat a.toNat
    if 2 ^ 56 ≤ v then .trap ⟨0x0A, v, g.xm, 0⟩
    else
      let vb := BitVec.ofNat 56 v
      let reads := s.baseReads g.ctx vb
      match s.walkTurned s.cur v reads with
      | some t => .hold t
      | none =>
        let t := s.walkMade s.cur reads
        .done (t.modGroup t.cur fun x =>
          { x with b := x.b.put n.toNat (s.setBase g.ctx vb (perm.getLsbD 0) (perm.getLsbD 1)) }) .seq) s

/-- BTGET: reads a base register back (R81). -/
def execBtget (d : BitVec 6) (n : BitVec 2) (sel : BitVec 6) (s : State) :
    Host.Outcome State Fault Refusal :=
  performG (.btget d n sel)
    { sw := if sel = 0 then [d.toNat, d.toNat + 1] else [d.toNat]
      pairs := if sel = 0 then [⟨true, d.toNat⟩] else [] } (pureG fun g =>
    let b := g.base n.toNat
    if sel = 0 then
      (g.setS d.toNat (b.vb.setWidth 32) 14).setS (d.toNat + 1) (BitVec.ofNat 32 (b.vb.toNat / 2 ^ 32)) 14
    else if sel = 1 then g.setS d.toNat (BitVec.ofNat 32 b.limit) 2
    else
      let bit (x : Bool) (k : Nat) : Nat := if x then 2 ^ k else 0
      g.setS d.toNat (BitVec.ofNat 32 (bit b.valid 31 + bit b.everset 30 + bit b.wr 1 + bit b.rd 0)) 0) s

/-! ### Sizes (R110) -/

/-- Bytes of an access size code. -/
def sizeBytes (z : BitVec 3) : Nat :=
  match z.toNat with
  | 0 => 1 | 1 => 1 | 2 => 2 | 3 => 2 | 5 => 8
  | _ => 4

/-- The tag that a load of a size writes. -/
def sizeTag (z : BitVec 3) : BitVec 4 :=
  match z.toNat with
  | 0 => 1 | 1 => 2 | 2 => 1 | 3 => 2
  | _ => 0

/-- The word that a load of a size makes of its bytes; of a pair, the word at A. -/
def loadWord (z : BitVec 3) (bs : List Byte) : Word :=
  let v := leNat (bs.take (min 4 (sizeBytes z)))
  match z.toNat with
  | 0 => (BitVec.ofNat 8 v).signExtend 32
  | 2 => (BitVec.ofNat 16 v).signExtend 32
  | _ => BitVec.ofNat 32 v

/-- The registers of a vector operand of a size: a pair for the 64-bit one. -/
def sizeRegs (r : BitVec 7) (z : BitVec 3) : List Nat := if z = 5 then [r.toNat, r.toNat + 1] else [r.toNat]

/-- The pair field of a vector operand of a size. -/
def sizePairs (r : BitVec 7) (z : BitVec 3) : List PairField := if z = 5 then [⟨false, r.toNat⟩] else []

/-- The bytes that a store of a size takes from lane l (R5, R110). -/
def Group.storeBytes (g : Group) (r : BitVec 7) (z : BitVec 3) (l : Nat) : List Byte :=
  if z = 5 then leBytes 4 (g.lane (r.toNat + 1) l).toNat ++ leBytes 4 (g.lane r.toNat l).toNat
  else leBytes (sizeBytes z) (g.lane r.toNat l).toNat

/-- Where a load of a size puts its value. -/
def loadDest (r : BitVec 7) (z : BitVec 3) : Dest := if z = 5 then .pair r.toNat else .vec r.toNat

/-! ### Global accesses by vector -/

/-- The second word that a one-word form implies: offset 0, .ca, .rlx, scope 0 (R57). -/
def noExt : MlExt := { off := 0, hint := 0, order := 0, scope := 0 }

/-- What an ordered access does to a chunk: it ends it (R361). -/
def orderEnds (order : BitVec 2) : Option Nat := if order = 0 then none else some 1

/-- Issues and settles the flags of the conversions of its operands beside it (R42). -/
def issueWith (s : State) (evs : List FlagEvent) (r : Req) (lanes : List ReqLane) (zeros : LaneMask) : Res :=
  match s.g.settle evs s.g with
  | .error t => .trap t
  | .ok g' =>
    match s.issue r lanes zeros with
    | .done s' f => .done (s'.modGroup s'.cur fun g => { g with gstat := g'.gstat }) f
    | x => x

/-- One entry of a lane: how it stands, the bytes it stores, and the operands of its atomic. -/
structure Entry where
  res : LaneRes
  data : List Byte := []
  b : Word := 0
  c : Word := 0
  deriving DecidableEq, Repr

/-- The event that ends an access of each kind. -/
def AccessOp.kind : AccessOp → ResultKind
  | .load _ => .load
  | .store => .store
  | .atomic _ _ r => if r then .atomic else .store

/-- A vector access to global memory: `entries` gives what lane l accesses, `evs` the flags of its operands; `turned` and
`refresh` are the translation again of a base register that it uses, while that does not end and once it does.
Helper lanes store nothing, and an atomic returns zero in them (R147). -/
def vecAccess (i : Instr) (n : Info) (r : Req) (turned : State → Option State) (refresh : State → State) (entries : State → Nat → List Entry)
    (evs : Group → List FlagEvent) (s : State) : Host.Outcome State Fault Refusal :=
  perform i { n with mask := true, access := true, counter := r.counter } (fun s =>
    let g := s.g
    if g.xm = 0 then s.issueEmpty r.op.kind r.counter
    else match turned s with
    | some t => .hold t
    | none =>
      let s := refresh s
      let m := if r.op.writes then g.xm &&& ~~~g.helper else g.xm
      let lanes := (lanesOf m).flatMap fun l => (entries s l).map fun e =>
        { lane := l, res := e.res, data := e.data, b := e.b, c := e.c : ReqLane }
      issueWith s (evs g) r lanes (if r.op.writes then g.xm &&& g.helper else 0)) s

/-- The address of a base-register access in lane l: VB + off + what the form adds. -/
def baseAddr (t : BitVec 2) (x : MlExt) (z : BitVec 3) (rd wr : Bool) (add : Group → Nat → Int) (s : State)
    (l : Nat) : LaneRes :=
  let b := s.g.base t.toNat
  s.baseLane s.cur b (b.vb.toNat + x.off.toInt + add s.g l) (sizeBytes z) rd wr

/-- The hint that a load acts by: an acquire at gang scope or wider reads as a .bp load does (R222). -/
def loadHint (x : MlExt) : BitVec 2 := if x.order.getLsbD 0 && 2 ≤ x.scope.toNat then 2 else x.hint

/-- A load through a base register. -/
def baseLoad (i : Instr) (n : Info) (d : BitVec 7) (t : BitVec 2) (look : BitVec 4) (z : BitVec 3) (x : MlExt)
    (add : Group → Nat → Int) (evs : Group → List FlagEvent) (s : State) : Host.Outcome State Fault Refusal :=
  vecAccess i
    { n with vw := sizeRegs d z, pairs := sizePairs d z, look := some look.toNat, ends := orderEnds x.order }
    { op := .load z, size := sizeBytes z, dest := loadDest d z, tag := sizeTag z, hint := loadHint x
      order := x.order, scope := x.scope, counter := some 0 }
    (fun s => s.baseTurned s.cur t.toNat) (fun s => s.freshBase s.cur t.toNat) (fun s l => [{ res := baseAddr t x z true false add s l }]) evs s

/-- A store through a base register. -/
def baseStore (i : Instr) (n : Info) (r : BitVec 7) (t : BitVec 2) (z : BitVec 3) (x : MlExt)
    (add : Group → Nat → Int) (evs : Group → List FlagEvent) (s : State) : Host.Outcome State Fault Refusal :=
  vecAccess i
    { n with vr := n.vr ++ sizeRegs r z, pairs := sizePairs r z, ends := orderEnds x.order }
    { op := .store, size := sizeBytes z, hint := x.hint, order := x.order, scope := x.scope, counter := some 3 }
    (fun s => s.baseTurned s.cur t.toNat) (fun s => s.freshBase s.cur t.toNat)
    (fun s l => [{ res := baseAddr t x z false true add s l, data := s.g.storeBytes r z l }]) evs s

/-- vO[l] as n32 (R110). -/
def addVec (o : BitVec 7) (g : Group) (l : Nat) : Int := (g.lane o.toNat l).toNat

/-- l times the stride s(t) as i32 (R113). -/
def addStride (o : BitVec 6) (g : Group) (l : Nat) : Int := l * (g.sval o.toNat).toInt

/-- z times the element index vO[l] as i32 (R221). -/
def addIndex (o : BitVec 7) (z : BitVec 3) (g : Group) (l : Nat) : Int :=
  sizeBytes z * (g.vsrc o.toNat 1 l).1.toInt

/-- The flags of the conversion of an index vector that does not carry i32 (R42, R221). -/
def indexEvents (o : BitVec 7) (g : Group) : List FlagEvent := laneEvents g.xm fun l => (g.vsrc o.toNat 1 l).2

/-- VLD (R110). -/
def execVld (d : BitVec 7) (t : BitVec 2) (o : BitVec 7) (look : BitVec 4) (z : BitVec 3) (s : State) :
    Host.Outcome State Fault Refusal :=
  baseLoad (.vld d t o look z) { vr := [o.toNat] } d t look z noExt (addVec o) (fun _ => []) s

/-- VLD with a second word (R110, R116). -/
def execVld2w (d : BitVec 7) (t : BitVec 2) (o : BitVec 7) (look : BitVec 4) (z : BitVec 3) (x : MlExt)
    (s : State) : Host.Outcome State Fault Refusal :=
  baseLoad (.vld2w d t o look z x) { vr := [o.toNat] } d t look z x (addVec o) (fun _ => []) s

/-- VST (R110). -/
def execVst (r : BitVec 7) (t : BitVec 2) (o : BitVec 7) (z : BitVec 3) (s : State) :
    Host.Outcome State Fault Refusal :=
  baseStore (.vst r t o z) { vr := [o.toNat] } r t z noExt (addVec o) (fun _ => []) s

/-- VST with a second word (R110, R116). -/
def execVst2w (r : BitVec 7) (t : BitVec 2) (o : BitVec 7) (z : BitVec 3) (x : MlExt) (s : State) :
    Host.Outcome State Fault Refusal :=
  baseStore (.vst2w r t o z x) { vr := [o.toNat] } r t z x (addVec o) (fun _ => []) s

/-- VLDS (R113). -/
def execVlds (d : BitVec 7) (t : BitVec 2) (o : BitVec 6) (look : BitVec 4) (z : BitVec 3) (s : State) :
    Host.Outcome State Fault Refusal :=
  baseLoad (.vlds d t o look z) { sr := [o.toNat] } d t look z noExt (addStride o) (fun _ => []) s

/-- VLDS with a second word (R113). -/
def execVlds2w (d : BitVec 7) (t : BitVec 2) (o : BitVec 6) (look : BitVec 4) (z : BitVec 3) (x : MlExt)
    (s : State) : Host.Outcome State Fault Refusal :=
  baseLoad (.vlds2w d t o look z x) { sr := [o.toNat] } d t look z x (addStride o) (fun _ => []) s

/-- VSTS (R113). -/
def execVsts (r : BitVec 7) (t : BitVec 2) (o : BitVec 6) (z : BitVec 3) (s : State) :
    Host.Outcome State Fault Refusal :=
  baseStore (.vsts r t o z) { sr := [o.toNat] } r t z noExt (addStride o) (fun _ => []) s

/-- VSTS with a second word (R113). -/
def execVsts2w (r : BitVec 7) (t : BitVec 2) (o : BitVec 6) (z : BitVec 3) (x : MlExt) (s : State) :
    Host.Outcome State Fault Refusal :=
  baseStore (.vsts2w r t o z x) { sr := [o.toNat] } r t z x (addStride o) (fun _ => []) s

/-- VLDI (R221). -/
def execVldi (d : BitVec 7) (t : BitVec 2) (o : BitVec 7) (look : BitVec 4) (z : BitVec 3) (s : State) :
    Host.Outcome State Fault Refusal :=
  baseLoad (.vldi d t o look z) { vr := [o.toNat], tags := [(.v o.toNat, 1)] } d t look z noExt
    (addIndex o z) (indexEvents o) s

/-- VLDI with a second word (R221). -/
def execVldi2w (d : BitVec 7) (t : BitVec 2) (o : BitVec 7) (look : BitVec 4) (z : BitVec 3) (x : MlExt)
    (s : State) : Host.Outcome State Fault Refusal :=
  baseLoad (.vldi2w d t o look z x) { vr := [o.toNat], tags := [(.v o.toNat, 1)] } d t look z x
    (addIndex o z) (indexEvents o) s

/-- VSTI (R221). -/
def execVsti (r : BitVec 7) (t : BitVec 2) (o : BitVec 7) (z : BitVec 3) (s : State) :
    Host.Outcome State Fault Refusal :=
  baseStore (.vsti r t o z) { vr := [o.toNat], tags := [(.v o.toNat, 1)] } r t z noExt (addIndex o z)
    (indexEvents o) s

/-- VSTI with a second word (R221). -/
def execVsti2w (r : BitVec 7) (t : BitVec 2) (o : BitVec 7) (z : BitVec 3) (x : MlExt) (s : State) :
    Host.Outcome State Fault Refusal :=
  baseStore (.vsti2w r t o z x) { vr := [o.toNat], tags := [(.v o.toNat, 1)] } r t z x (addIndex o z)
    (indexEvents o) s

/-! ### Private access (R114) -/

/-- Word `j` of lane l's private access at word vO[l] + off; a pair is two words, 384 bytes apart. -/
def privAddr (o : BitVec 7) (z : BitVec 3) (x : MlExt) (rd wr : Bool) (j : Nat) (s : State) (l : Nat) : LaneRes :=
  s.privLane s.cur ((s.g.lane o.toNat l).toNat + x.off.toInt + j) (if z = 5 ∧ j = 0 then 1 else 0) l rd wr

/-- The words of a private access of a size. -/
def privWords (z : BitVec 3) : List Nat := if z = 5 then [0, 1] else [0]

/-- A private load (R114). -/
def privLoad (i : Instr) (d o : BitVec 7) (look : BitVec 4) (z : BitVec 3) (x : MlExt) (s : State) :
    Host.Outcome State Fault Refusal :=
  vecAccess i
    { vr := [o.toNat], vw := sizeRegs d z, pairs := sizePairs d z, look := some look.toNat }
    { op := .load z, size := 4, dest := loadDest d z, hint := x.hint, counter := some 0 } (fun _ => none) id
    (fun s l => (privWords z).map fun j => { res := privAddr o z x true false j s l }) (fun _ => []) s

/-- A private store (R114). -/
def privStore (i : Instr) (r o : BitVec 7) (z : BitVec 3) (x : MlExt) (s : State) :
    Host.Outcome State Fault Refusal :=
  vecAccess i
    { vr := o.toNat :: sizeRegs r z, pairs := sizePairs r z }
    { op := .store, size := 4, hint := x.hint, counter := some 3 } (fun _ => none) id
    (fun s l => (privWords z).map fun j =>
      { res := privAddr o z x false true j s l, data := ((s.g.storeBytes r z l).drop (4 * j)).take 4 })
    (fun _ => []) s

/-- VLDP (R114). -/
def execVldp (d o : BitVec 7) (look : BitVec 4) (z : BitVec 3) (s : State) :
    Host.Outcome State Fault Refusal :=
  privLoad (.vldp d o look z) d o look z noExt s

/-- VLDP with a second word (R114). -/
def execVldp2w (d o : BitVec 7) (look : BitVec 4) (z : BitVec 3) (x : MlExt) (s : State) :
    Host.Outcome State Fault Refusal :=
  privLoad (.vldp2w d o look z x) d o look z x s

/-- VSTP (R114). -/
def execVstp (r o : BitVec 7) (z : BitVec 3) (s : State) : Host.Outcome State Fault Refusal :=
  privStore (.vstp r o z) r o z noExt s

/-- VSTP with a second word (R114). -/
def execVstp2w (r o : BitVec 7) (z : BitVec 3) (x : MlExt) (s : State) : Host.Outcome State Fault Refusal :=
  privStore (.vstp2w r o z x) r o z x s

/-- A prefetch: the lines of the lanes whose addresses translate at once are asked for, to be brought into the L1 under
.ca. It writes no register, a base register not excepted, raises no counter and no fault, and an address that does not translate
is dropped (R115).
DESIGN CHOICE of what is dropped, log entry 101. -/
def prefetch (t : BitVec 2) (o : BitVec 7) (x : MlExt) (s : State) : State :=
  let old := s.g.b
  let turned := (s.baseTurned s.cur t.toNat).isSome
  let s := if turned then s else s.freshBase s.cur t.toNat
  let b := s.g.base t.toNat
  let s := s.setG { s.g with b := old }
  let ls := okLanes ((lanesOf s.g.xm).map fun l =>
    { lane := l, res := s.baseLane s.cur b (b.vb.toNat + x.off.toInt + addVec o s.g l) 1 true false : ReqLane })
  let ls := ls.filter fun y => y.key < Config.windowKey
  if turned || x.hint != 0 || ls.isEmpty then s
  else
    s.bump.setG
      { s.g with
        accesses := s.g.accesses ++ [{ id := s.fresh, op := .load 0, size := 1, lanes := ls, site := s.g.site, pref := true }] }

/-- PREF (R115). -/
def execPref (t : BitVec 2) (o : BitVec 7) (s : State) : Host.Outcome State Fault Refusal :=
  perform (.pref t o) { vr := [o.toNat], mask := true }
    (fun s => .done (if s.g.xm = 0 then s else prefetch t o noExt s) .seq) s

/-- PREF with a second word (R115). -/
def execPref2w (t : BitVec 2) (o : BitVec 7) (x : MlExt) (s : State) : Host.Outcome State Fault Refusal :=
  perform (.pref2w t o x) { vr := [o.toNat], mask := true }
    (fun s => .done (if s.g.xm = 0 then s else prefetch t o x s) .seq) s

/-! ### Scalar access (R79) -/

/-- SLD (R79). -/
def execSld (d a : BitVec 6) (off : BitVec 8) (look : BitVec 4) (s : State) :
    Host.Outcome State Fault Refusal :=
  perform (.sld d a off look)
    { sr := [a.toNat, a.toNat + 1], sw := [d.toNat], pairs := [⟨true, a.toNat⟩], access := true
      tags := [(.s a.toNat, 14), (.s (a.toNat + 1), 14)], look := some look.toNat, counter := some 2 } (fun s =>
    let g := s.g
    s.issue { op := .load 4, size := 4, dest := .scalar (s.g.phys d.toNat), counter := some 2, scalar := true }
      [{ lane := 0
         res := s.pairLane s.cur (g.sval (a.toNat + 1)) (g.pairNat a.toNat + 4 * off.toInt) true false }] 0) s

/-- SST (R79). -/
def execSst (d a : BitVec 6) (off : BitVec 8) (s : State) : Host.Outcome State Fault Refusal :=
  perform (.sst d a off)
    { sr := [d.toNat, a.toNat, a.toNat + 1], pairs := [⟨true, a.toNat⟩], access := true
      tags := [(.s a.toNat, 14), (.s (a.toNat + 1), 14)], counter := some 3 } (fun s =>
    let g := s.g
    s.issue { op := .store, size := 4, counter := some 3, scalar := true }
      [{ lane := 0, data := leBytes 4 (g.sval d.toNat).toNat
         res := s.pairLane s.cur (g.sval (a.toNat + 1)) (g.pairNat a.toNat + 4 * off.toInt) false true }] 0) s

/-! ### The scratchpad (R183, R219, R220) -/

/-- The team that a scratchpad access reaches: the group's own, or team n of its gang (R220). -/
def State.spTeam (s : State) (k : Nat) (remote : Option Nat) : Option Team :=
  match s.teams.find? (s.group k).team with
  | none => none
  | some t =>
    match remote with
    | none => some t
    | some n =>
      match s.gangs.find? t.gang with
      | none => none
      | some q =>
        match q.teams[n]? with
        | none => none
        | some u => s.teams.find? u

/-- The team's number in State. -/
def State.spTeamId (s : State) (k : Nat) (remote : Option Nat) : Nat :=
  match remote with
  | none => (s.group k).team
  | some n =>
    ((s.teams.find? (s.group k).team).bind fun t =>
      (s.gangs.find? t.gang).bind fun q => q.teams[n]?).getD 0

/-- Whether a lock of the core's table stops an access to bytes [o, o + n) of a team: a destination stops any
access, a source one that writes. An entry counts from the clock after it was made, and until the clock after it was
cleared (R214). -/
def State.locked (s : State) (core team o n : Nat) (writes : Bool) : Bool :=
  let now := s.coreCycle core
  let stops (e : RangeLock) : Bool := e.team == team && o < e.hi && e.lo < o + n && (e.dest || writes) && e.from_ ≤ now
  (s.core core).locks.any stops || (s.core core).cleared.any fun e => e.1 == now && stops e.2

/-- How a lane of a scratchpad access at offset o stands: bounds, alignment, range locks (R219). The key is
the byte of the core's scratchpad. -/
def State.spLane (s : State) (t : Option Team) (id : Nat) (o : Int) (n : Nat) (writes : Bool) : LaneRes :=
  match t with
  | none => .fail 0x0A (addrVal o)
  | some t =>
    if o < 0 || (t.scratch : Int) < o + n then .fail 0x0A (addrVal o)
    else if o.toNat % n ≠ 0 then .fail 0x0D o.toNat
    else if s.locked t.core id o.toNat n writes then .fail 0x0C o.toNat
    else .ok o.toNat (t.scratchBase + o.toNat)

/-- The bytes of a core's scratchpad from k. A byte that nothing has written reads 0 (a choice of the
model). -/
def State.spBytes (s : State) (core k n : Nat) : List Byte :=
  (List.range n).map fun i => (s.core core).scratch.get 0 (k + i)

/-- Writes bytes of a core's scratchpad. -/
def State.spWrite (s : State) (core k : Nat) (bs : List Byte) : State :=
  (s.dirtied (scratchLine core k)).modCore core fun c => { c with scratch := putBytes c.scratch k bs }

/-- The failing lanes of a scratchpad access: TMASK, cause and TVAL of the lowest; helper lanes never fail
(R111, R147, R219). -/
def spFault (helper : LaneMask) (lanes : List (Nat × LaneRes)) : Option Trap :=
  let bad := lanes.filterMap fun p =>
    if helper.getLsbD p.1 then none
    else match p.2 with
      | .fail c v => some (p.1, c, v)
      | _ => none
  match bad with
  | [] => none
  | x :: _ => some ⟨x.2.1, x.2.2, laneMask (bad.map (·.1)), 0⟩

/-- A scratchpad access's ordering at issue: a release needs R223's conditions and its L1 work; an acquire
does its L1 work once the values are read (R222, R223). -/
def State.spRelease (s : State) (order : BitVec 2) (scope : BitVec 3) : Option State :=
  if order.getLsbD 1 then
    if s.drained s.cur s.fresh then some (s.releaseL1 (coreOf s.cur) scope) else none
  else some s

/-- The acquire side. -/
def State.spAcquire (s : State) (order : BitVec 2) (scope : BitVec 3) : State :=
  if order.getLsbD 0 then s.acquireL1 (coreOf s.cur) scope else s

/-- Adds a scratchpad result that an event completes, and raises its counter. -/
def State.addResult (s : State) (kind : ResultKind) (writes : List RegWrite) (counter : Option Nat)
    (bank : Option BankStore := none) : State :=
  let g := s.g
  let g := match counter with
    | some c => g.raiseCounter c
    | none => g
  s.bump.setG
    { g with results := g.results ++ [{ id := s.fresh, kind := kind, writes := writes, counter := counter, bank := bank }] }

/-- The fault of an access to the scratchpad of a team outside the gang: TMASK is xm (R220, R284). -/
def State.spOutside (s : State) (remote : Option Nat) : Option Trap :=
  match remote, s.spTeam s.cur remote with
  | some n, none => some ⟨0x13, n, s.g.xm, 0⟩
  | _, _ => none

/-- The lanes of a scratchpad access to a team. -/
def State.spLanes (s : State) (remote : Option Nat) (m : LaneMask) (off : Group → Nat → Int) (n : Nat)
    (writes : Bool) : List (Nat × LaneRes) :=
  let t := s.spTeam s.cur remote
  let id := s.spTeamId s.cur remote
  (lanesOf m).map fun l => (l, s.spLane t id (off s.g l) n writes)

/-- The core whose scratchpad an access reaches. -/
def State.spCore (s : State) (remote : Option Nat) : Nat :=
  ((s.spTeam s.cur remote).map fun t => t.core).getD (coreOf s.cur)

/-- An access to the scratchpad of another team of the gang passes the bed's local crossbar (R220, R314). -/
def State.spFlit (s : State) (remote : Option Nat) : State :=
  if remote.isSome then s.flit [coreOf s.cur / 32] else s

/-- The byte of a lane that passed its checks. -/
def LaneRes.key : LaneRes → Option Nat
  | .ok _ key => some key
  | _ => none

/-- An access that acquires executes in the sprinter once everything older has retired (R236). -/
def acquireSerial (order : BitVec 2) : Option Bool := if order.getLsbD 0 then some false else none

/-- A scratchpad load (R219): the bank serves it in the step that issues it, in its turn of the clock (R226). -/
def spLoad (i : Instr) (d o : BitVec 7) (remote : Option Nat) (look : BitVec 4) (z : BitVec 3) (x : MlExt)
    (s : State) : Host.Outcome State Fault Refusal :=
  perform i
    { vr := [o.toNat], vw := sizeRegs d z, pairs := sizePairs d z, mask := true, access := true
      look := some look.toNat, counter := some 1, ends := orderEnds x.order, serial := acquireSerial x.order } (fun s =>
    let g := s.g
    if g.xm = 0 then s.issueEmpty .load (some 1)
    else
      let lanes := s.spLanes remote g.xm (fun g l => addVec o g l + x.off.toInt) (sizeBytes z) false
      match (s.spOutside remote).orElse fun _ => spFault g.helper lanes with
      | some t => .trap t
      | none =>
        let core := s.spCore remote
        if !s.turnOf (bankPoint core) s.cur then .hold s else
        let bytes (l : Nat) : List Byte := match (lanes.find? fun p => p.1 == l).bind fun p => p.2.key with
          | some key => s.spBytes core key (sizeBytes z)
          | none => List.replicate (sizeBytes z) 0
        let vals := laneList.map fun l => if g.active l then bytes l else []
        let low := vals.map (loadWord z)
        let writes : List RegWrite :=
          if z = 5 then
            [.vreg (d.toNat + 1) g.xm low 0, .vreg d.toNat g.xm (vals.map fun b => loadWord 4 (b.drop 4)) 0]
          else [.vreg d.toNat g.xm low (sizeTag z)]
        let s := s.noteReads s.cur ((lanes.filterMap fun p => p.2.key).map (scratchLine core))
        .done ((((s.spFlit remote).noteServed (bankPoint core) s.cur).spAcquire x.order x.scope).addResult .load writes (some 1)) .seq) s

/-- A scratchpad store that has passed its checks, on its way to the bank. -/
def State.bankStore (s : State) (remote : Option Nat) (r : BitVec 7) (z : BitVec 3) (lanes : List (Nat × LaneRes)) : BankStore :=
  let g := s.g
  { core := s.spCore remote, team := s.spTeamId s.cur remote, remote := remote.isSome, pc := g.pc, word := g.word, site := g.site
    lanes := lanes.filterMap fun p =>
      match p.2 with
      | .ok off key => some ⟨p.1, off, key, g.storeBytes r z p.1⟩
      | _ => none }

/-- A scratchpad store (R219): it issues, and the bank takes it later, at STORE_ACCEPTED. In the sprinter it issues at its
retirement (R236). -/
def spStore (i : Instr) (r o : BitVec 7) (remote : Option Nat) (z : BitVec 3) (x : MlExt) (s : State) :
    Host.Outcome State Fault Refusal :=
  perform i
    { vr := o.toNat :: sizeRegs r z, pairs := sizePairs r z, mask := true, access := true
      counter := some 3, ends := orderEnds x.order, serial := some false, beside := true } (fun s =>
    let g := s.g
    if g.xm = 0 then s.issueEmpty .store (some 3)
    else
      let lanes := s.spLanes remote (g.xm &&& ~~~g.helper) (fun g l => addVec o g l + x.off.toInt) (sizeBytes z) true
      match (s.spOutside remote).orElse fun _ => spFault 0 lanes with
      | some t => .trap t
      | none =>
        match s.spRelease x.order x.scope with
        | none => .hold s
        | some s => .done (s.addResult .store [] (some 3) (some (s.bankStore remote r z lanes))) .seq) s

/-- SPLD (R219). -/
def execSpld (d o : BitVec 7) (look : BitVec 4) (z : BitVec 3) (s : State) :
    Host.Outcome State Fault Refusal :=
  spLoad (.spld d o look z) d o none look z noExt s

/-- SPLD with a second word (R219). -/
def execSpld2w (d o : BitVec 7) (look : BitVec 4) (z : BitVec 3) (x : MlExt) (s : State) :
    Host.Outcome State Fault Refusal :=
  spLoad (.spld2w d o look z x) d o none look z x s

/-- SPST (R219). -/
def execSpst (r o : BitVec 7) (z : BitVec 3) (s : State) : Host.Outcome State Fault Refusal :=
  spStore (.spst r o z) r o none z noExt s

/-- SPST with a second word (R219). -/
def execSpst2w (r o : BitVec 7) (z : BitVec 3) (x : MlExt) (s : State) : Host.Outcome State Fault Refusal :=
  spStore (.spst2w r o z x) r o none z x s

/-- SPLDX (R220). -/
def execSpldx (d : BitVec 7) (n : BitVec 2) (o : BitVec 7) (look : BitVec 4) (z : BitVec 3) (s : State) :
    Host.Outcome State Fault Refusal :=
  spLoad (.spldx d n o look z) d o (some n.toNat) look z noExt s

/-- SPLDX with a second word (R220). -/
def execSpldx2w (d : BitVec 7) (n : BitVec 2) (o : BitVec 7) (look : BitVec 4) (z : BitVec 3) (x : MlExt)
    (s : State) : Host.Outcome State Fault Refusal :=
  spLoad (.spldx2w d n o look z x) d o (some n.toNat) look z x s

/-- SPSTX (R220). -/
def execSpstx (r : BitVec 7) (n : BitVec 2) (o : BitVec 7) (z : BitVec 3) (s : State) :
    Host.Outcome State Fault Refusal :=
  spStore (.spstx r n o z) r o (some n.toNat) z noExt s

/-- SPSTX with a second word (R220). -/
def execSpstx2w (r : BitVec 7) (n : BitVec 2) (o : BitVec 7) (z : BitVec 3) (x : MlExt) (s : State) :
    Host.Outcome State Fault Refusal :=
  spStore (.spstx2w r n o z x) r o (some n.toNat) z x s

end Sys2Proof.Machine
end

