-- ==== Sys2Proof/Machine/Scalar.lean ====
section
/-! DEFINITION. Scalar arithmetic, logic, shifts, compares, moves, immediates and literals (R71 to R78). -/

namespace Sys2Proof.Machine

/-- Runs an instruction on two scalars a and b that are expected to carry ea and eb: s(d) takes the value
under the tag. No flag is raised, a source's conversion included (R42, R71, R74). DEDUCED, log entry 12. -/
def scalar2 (i : Instr) (d a b : BitVec 6) (ea eb : BitVec 4) (f : Word → Word → Word)
    (tag : Group → BitVec 4) (s : State) : Host.Outcome State Fault Refusal :=
  performG i { sr := [a.toNat, b.toNat], sw := [d.toNat],
               tags := [(.s a.toNat, ea), (.s b.toNat, eb)] }
    (pureG fun g => g.setS d.toNat (f (g.ssrc a.toNat ea).1 (g.ssrc b.toNat eb).1) (tag g)) s

/-- Runs an instruction on one scalar that is expected raw, or on a scalar and a constant. -/
def scalar1 (i : Instr) (d a : BitVec 6) (f : Word → Word) (tag : Group → BitVec 4) (s : State) :
    Host.Outcome State Fault Refusal :=
  performG i { sr := [a.toNat], sw := [d.toNat] }
    (pureG fun g => g.setS d.toNat (f (g.sval a.toNat)) (tag g)) s

/-- The tag t, but addr when s(a) carries addr: SADD, SSUB and SAND (R74). -/
def addrTag (a : BitVec 6) (t : BitVec 4) (g : Group) : BitVec 4 :=
  if (g.sreg a.toNat).tag = 14 then 14 else t

/-- floor(a * b / 2^32) of two integers (R74). -/
def mulHigh (a b : Int) : Word := BitVec.ofInt 32 (a * b / 2 ^ 32)

/-- The signed quotient of R75: all ones for b = 0, -2^31 for -2^31 / -1, else truncated. -/
def sdivQ (a b : Word) : Word :=
  if b = 0 then 0xFFFFFFFF else BitVec.ofInt 32 (a.toInt.tdiv b.toInt)

/-- The unsigned quotient of R75. -/
def sdivNQ (a b : Word) : Word :=
  if b = 0 then 0xFFFFFFFF else BitVec.ofNat 32 (a.toNat / b.toNat)

/-- The signed remainder of R75: a for b = 0, else with the sign of a. -/
def sremR (a b : Word) : Word :=
  if b = 0 then a else BitVec.ofInt 32 (a.toInt.tmod b.toInt)

/-- The shift left of R76: 0 for a count of 32 or more. -/
def shl (a c : Word) : Word := a <<< c.toNat

/-- The logical shift right of R76. -/
def shr (a c : Word) : Word := a >>> c.toNat

/-- The arithmetic shift right of R76: the sign alone for a count of 32 or more. -/
def sra (a c : Word) : Word := a.sshiftRight c.toNat

/-- The rotation left of R76, by c mod 32. -/
def rot (a c : Word) : Word := a.rotateLeft (c.toNat % 32)

/-- Leading zero bits, 0 to 32 (R74). -/
def clz (a : Word) : Word := BitVec.ofNat 32 (32 - bitLen a.toNat)

/-- One bits (R74). -/
def popc (a : Word) : Word := BitVec.ofNat 32 ((List.range 32).filter fun i => a.getLsbD i).length

/-- a[n-1:0] sign-extended, for n from 1 to 32 (R74). -/
def signExt (a : Word) (n : Nat) : Word := (a <<< (32 - n)).sshiftRight (32 - n)

/-- The smaller or larger of two words in an order. -/
def pick (less : Bool) (a b : Word) : Word := if less then a else b

/-- Whether a cc b holds (R63, R74): eq, ne, lt, ge, gt, le, ltu, geu, gtu, leu. -/
def cmpHolds (cc : BitVec 4) (a b : Word) : Bool :=
  match cc.toNat with
  | 0 => a == b
  | 1 => a != b
  | 2 => a.slt b
  | 3 => b.sle a
  | 4 => b.slt a
  | 5 => a.sle b
  | 6 => a.ult b
  | 7 => b.ule a
  | 8 => b.ult a
  | _ => a.ule b

/-- The tag that a compare expects: raw for eq and ne, i32 for 2 to 5, n32 for 6 to 9 (R74). -/
def cmpTag (cc : BitVec 4) : BitVec 4 := if cc.toNat ≤ 1 then 0 else if cc.toNat ≤ 5 then 1 else 2

/-- 1 or 0. -/
def bit (b : Bool) : Word := if b then 1 else 0

/-- SADD: a + b modulo 2^32 (R74). -/
def execSadd (d a b : BitVec 6) (s : State) : Host.Outcome State Fault Refusal :=
  scalar2 (.sadd d a b) d a b 0 0 ((· + ·)) (addrTag a 1) s

/-- SSUB: a - b modulo 2^32 (R74). -/
def execSsub (d a b : BitVec 6) (s : State) : Host.Outcome State Fault Refusal :=
  scalar2 (.ssub d a b) d a b 0 0 ((· - ·)) (addrTag a 1) s

/-- SMUL: low 32 bits of a * b (R74). -/
def execSmul (d a b : BitVec 6) (s : State) : Host.Outcome State Fault Refusal :=
  scalar2 (.smul d a b) d a b 0 0 ((· * ·)) (fun _ => 1) s

/-- SMULHI: floor(a * b / 2^32) as i32 (R74). -/
def execSmulhi (d a b : BitVec 6) (s : State) : Host.Outcome State Fault Refusal :=
  scalar2 (.smulhi d a b) d a b 1 1 (fun x y => mulHigh x.toInt y.toInt) (fun _ => 1) s

/-- SMULHN: floor(a * b / 2^32) as n32 (R74). -/
def execSmulhn (d a b : BitVec 6) (s : State) : Host.Outcome State Fault Refusal :=
  scalar2 (.smulhn d a b) d a b 2 2 (fun x y => mulHigh x.toNat y.toNat) (fun _ => 2) s

/-- SDIV: the signed quotient (R75). -/
def execSdiv (d a b : BitVec 6) (s : State) : Host.Outcome State Fault Refusal :=
  scalar2 (.sdiv d a b) d a b 1 1 (sdivQ) (fun _ => 1) s

/-- SDIVN: the unsigned quotient (R75). -/
def execSdivn (d a b : BitVec 6) (s : State) : Host.Outcome State Fault Refusal :=
  scalar2 (.sdivn d a b) d a b 2 2 (sdivNQ) (fun _ => 2) s

/-- SREM: the signed remainder (R75). -/
def execSrem (d a b : BitVec 6) (s : State) : Host.Outcome State Fault Refusal :=
  scalar2 (.srem d a b) d a b 1 1 (sremR) (fun _ => 1) s

/-- SMIN: the smaller as i32 (R74). -/
def execSmin (d a b : BitVec 6) (s : State) : Host.Outcome State Fault Refusal :=
  scalar2 (.smin d a b) d a b 1 1 (fun x y => pick (x.slt y) x y) (fun _ => 1) s

/-- SMAX: the larger as i32 (R74). -/
def execSmax (d a b : BitVec 6) (s : State) : Host.Outcome State Fault Refusal :=
  scalar2 (.smax d a b) d a b 1 1 (fun x y => pick (y.slt x) x y) (fun _ => 1) s

/-- SMINN: the smaller as n32 (R74). -/
def execSminn (d a b : BitVec 6) (s : State) : Host.Outcome State Fault Refusal :=
  scalar2 (.sminn d a b) d a b 2 2 (fun x y => pick (x.ult y) x y) (fun _ => 2) s

/-- SMAXN: the larger as n32 (R74). -/
def execSmaxn (d a b : BitVec 6) (s : State) : Host.Outcome State Fault Refusal :=
  scalar2 (.smaxn d a b) d a b 2 2 (fun x y => pick (y.ult x) x y) (fun _ => 2) s

/-- SADDC: the carry out of a + b (R74). -/
def execSaddc (d a b : BitVec 6) (s : State) : Host.Outcome State Fault Refusal :=
  scalar2 (.saddc d a b) d a b 0 0 (fun x y => bit (2 ^ 32 ≤ x.toNat + y.toNat)) (fun _ => 2) s

/-- SSUBB: the borrow of a - b (R74). -/
def execSsubb (d a b : BitVec 6) (s : State) : Host.Outcome State Fault Refusal :=
  scalar2 (.ssubb d a b) d a b 0 0 (fun x y => bit (x.ult y)) (fun _ => 2) s

/-- SAND: a and b (R74). -/
def execSand (d a b : BitVec 6) (s : State) : Host.Outcome State Fault Refusal :=
  scalar2 (.sand d a b) d a b 0 0 ((· &&& ·)) (addrTag a 0) s

/-- SOR: a or b (R74). -/
def execSor (d a b : BitVec 6) (s : State) : Host.Outcome State Fault Refusal :=
  scalar2 (.sor d a b) d a b 0 0 ((· ||| ·)) (fun _ => 0) s

/-- SXOR: a xor b (R74). -/
def execSxor (d a b : BitVec 6) (s : State) : Host.Outcome State Fault Refusal :=
  scalar2 (.sxor d a b) d a b 0 0 ((· ^^^ ·)) (fun _ => 0) s

/-- SANDN: a and not b (R74). -/
def execSandn (d a b : BitVec 6) (s : State) : Host.Outcome State Fault Refusal :=
  scalar2 (.sandn d a b) d a b 0 0 (fun x y => x &&& ~~~y) (fun _ => 0) s

/-- SSHL: a shifted left by b (R76). -/
def execSshl (d a b : BitVec 6) (s : State) : Host.Outcome State Fault Refusal :=
  scalar2 (.sshl d a b) d a b 0 0 (shl) (fun _ => 0) s

/-- SSHR: a shifted right by b, zeros in (R76). -/
def execSshr (d a b : BitVec 6) (s : State) : Host.Outcome State Fault Refusal :=
  scalar2 (.sshr d a b) d a b 0 0 (shr) (fun _ => 0) s

/-- SSRA: a shifted right by b, sign in (R76). -/
def execSsra (d a b : BitVec 6) (s : State) : Host.Outcome State Fault Refusal :=
  scalar2 (.ssra d a b) d a b 0 0 (sra) (fun _ => 1) s

/-- SROT: a rotated left by b mod 32 (R76). -/
def execSrot (d a b : BitVec 6) (s : State) : Host.Outcome State Fault Refusal :=
  scalar2 (.srot d a b) d a b 0 0 (rot) (fun _ => 0) s

/-- SCLZ: leading zero bits of a (R74). -/
def execSclz (d a : BitVec 6) (s : State) : Host.Outcome State Fault Refusal :=
  scalar1 (.sclz d a) d a (clz) (fun _ => 2) s

/-- SPOPC: one bits of a (R74). -/
def execSpopc (d a : BitVec 6) (s : State) : Host.Outcome State Fault Refusal :=
  scalar1 (.spopc d a) d a (popc) (fun _ => 2) s

/-- SBREV: bit i moved to bit 31 - i (R74). -/
def execSbrev (d a : BitVec 6) (s : State) : Host.Outcome State Fault Refusal :=
  scalar1 (.sbrev d a) d a (fun x => x.reverse) (fun _ => 0) s

/-- SEXT: a[n-1:0] sign-extended (R74). -/
def execSext (d a n : BitVec 6) (s : State) : Host.Outcome State Fault Refusal :=
  scalar1 (.sext d a n) d a (fun x => signExt x n.toNat) (fun _ => 1) s

/-- SCMP: 1 if a cc b holds, else 0 (R74). -/
def execScmp (d a b : BitVec 6) (cc : BitVec 4) (s : State) : Host.Outcome State Fault Refusal :=
  scalar2 (.scmp d a b cc) d a b (cmpTag cc) (cmpTag cc) (fun x y => bit (cmpHolds cc x y)) (fun _ => 2) s

/-- SSEL: a if s(c) is not 0, else b, with the selected source's tag; s(c) is read as plain bits (R74). -/
def execSsel (d a b c : BitVec 6) (s : State) : Host.Outcome State Fault Refusal :=
  performG (.ssel d a b c) { sr := [a.toNat, b.toNat, c.toNat], sw := [d.toNat] } (pureG fun g =>
    let r := g.sreg (if g.sval c.toNat = 0 then b.toNat else a.toNat)
    g.setS d.toNat r.val r.tag) s

/-- SMOV: a with its tag (R74). -/
def execSmov (d a : BitVec 6) (s : State) : Host.Outcome State Fault Refusal :=
  scalar1 (.smov d a) d a id (fun g => (g.sreg a.toNat).tag) s

/-- SADD with imm14 sign-extended (R77). -/
def execSaddImm (d a : BitVec 6) (imm : BitVec 14) (s : State) : Host.Outcome State Fault Refusal :=
  scalar1 (.saddImm d a imm) d a (fun x => x + imm.signExtend 32) (addrTag a 1) s

/-- SAND with imm14 sign-extended (R77). -/
def execSandImm (d a : BitVec 6) (imm : BitVec 14) (s : State) : Host.Outcome State Fault Refusal :=
  scalar1 (.sandImm d a imm) d a (fun x => x &&& imm.signExtend 32) (addrTag a 0) s

/-- SSHL by a constant from 0 to 31 (R77). -/
def execSshlImm (d a : BitVec 6) (n : BitVec 5) (s : State) : Host.Outcome State Fault Refusal :=
  scalar1 (.sshlImm d a n) d a (fun x => shl x (n.setWidth 32)) (fun _ => 0) s

/-- SSHR by a constant from 0 to 31 (R77). -/
def execSshrImm (d a : BitVec 6) (n : BitVec 5) (s : State) : Host.Outcome State Fault Refusal :=
  scalar1 (.sshrImm d a n) d a (fun x => shr x (n.setWidth 32)) (fun _ => 0) s

/-- SSRA by a constant from 0 to 31 (R77). -/
def execSsraImm (d a : BitVec 6) (n : BitVec 5) (s : State) : Host.Outcome State Fault Refusal :=
  scalar1 (.ssraImm d a n) d a (fun x => sra x (n.setWidth 32)) (fun _ => 1) s

/-- SROT by a constant from 0 to 31 (R77). -/
def execSrotImm (d a : BitVec 6) (n : BitVec 5) (s : State) : Host.Outcome State Fault Refusal :=
  scalar1 (.srotImm d a n) d a (fun x => rot x (n.setWidth 32)) (fun _ => 0) s

/-- SLIT: the literal under the tag its encoding names (R77). -/
def execSlit (d : BitVec 6) (tag : BitVec 4) (lit : Word) (s : State) :
    Host.Outcome State Fault Refusal :=
  performG (.slit d tag lit) { sw := [d.toNat] } (pureG fun g => g.setS d.toNat lit tag) s

/-- SADD with a literal word (R77). -/
def execSaddLit (d a : BitVec 6) (lit : Word) (s : State) : Host.Outcome State Fault Refusal :=
  scalar1 (.saddLit d a lit) d a (fun x => x + lit) (addrTag a 1) s

/-- SAND with a literal word (R77). -/
def execSandLit (d a : BitVec 6) (lit : Word) (s : State) : Host.Outcome State Fault Refusal :=
  scalar1 (.sandLit d a lit) d a (fun x => x &&& lit) (addrTag a 0) s

/-- SOR with a literal word (R77). -/
def execSorLit (d a : BitVec 6) (lit : Word) (s : State) : Host.Outcome State Fault Refusal :=
  scalar1 (.sorLit d a lit) d a (fun x => x ||| lit) (fun _ => 0) s

/-- SXOR with a literal word (R77). -/
def execSxorLit (d a : BitVec 6) (lit : Word) (s : State) : Host.Outcome State Fault Refusal :=
  scalar1 (.sxorLit d a lit) d a (fun x => x ^^^ lit) (fun _ => 0) s

/-- SMUL with a literal word (R77). -/
def execSmulLit (d a : BitVec 6) (lit : Word) (s : State) : Host.Outcome State Fault Refusal :=
  scalar1 (.smulLit d a lit) d a (fun x => x * lit) (fun _ => 1) s

end Sys2Proof.Machine
end

