-- ==== Sys2Proof/Machine/VecInt.lean ====
section
/-! DEFINITION. Vector integer instructions (R91, R92), and how an element-wise instruction runs (R14, R16,
R88). -/

namespace Sys2Proof.Machine

/-- The number of active lanes that are no helper lanes (R90). -/
def Group.counted (g : Group) : Nat := popCount (g.xm &&& ~~~g.helper)

/-- What an instruction adds to a harvest counter: so much for each active lane that is no helper (R90). -/
def Group.counts (g : Group) (c : Option (Nat × Nat)) : List (Nat × Nat) :=
  match c with
  | some (i, n) => [(i, n * g.counted)]
  | none => []

/-- The flags of a scalar B's conversion: they belong to every active lane (R41). -/
def Group.bshared (g : Group) (b : Src) (e : BitVec 4) : Flags :=
  match b with
  | .v _ => 0
  | .s r => (g.ssrc r.toNat e).2

/-- Lane l of B, with the flags that belong to the lane alone. -/
def Group.blane (g : Group) (b : Src) (e : BitVec 4) (l : Nat) : Word × Flags :=
  match b with
  | .v r => g.vsrc r.toNat e l
  | .s r => ((g.ssrc r.toNat e).1, 0)

/-- The values and flags of the active lanes, once each. -/
def Group.lanes96 (g : Group) (f : Nat → Word × Flags) : List (Word × Flags) :=
  laneList.map fun l => if g.active l then f l else (0, 0)

/-- The flag events of lane values and of a shared conversion. -/
def Group.events (g : Group) (vals : List (Word × Flags)) (shared : Flags) : List FlagEvent :=
  laneEvents g.xm (fun l => (vals.getD l (0, 0)).2) ++ sharedEvent g.xm shared

/-- An element-wise instruction: lane l of the destination from lane l of the sources, in the active lanes
only; with an empty mask it has no effect (R14, R16, R88). -/
def vecRun (i : Instr) (n : Info) (d : Nat) (tag : Group → BitVec 4) (lane : Group → Nat → Word × Flags)
    (shared : Group → Flags) (count : Option (Nat × Nat)) (s : State) :
    Host.Outcome State Fault Refusal :=
  performG i { n with mask := true } (fun g =>
    if g.xm = 0 then .ok { g := g }
    else
      let vals := g.lanes96 (lane g)
      match g.settle (g.events vals (shared g))
          (g.setV d g.xm (fun l => (vals.getD l (0, 0)).1) (tag g)) with
      | .ok g' => .ok { g := g', counts := g.counts count }
      | .error t => .error t) s

/-- An element-wise long-latency instruction: its flags are settled at issue and its destination is written
by a later event (R58, R89). -/
def vecLate (i : Instr) (n : Info) (d : Nat) (tag : Group → BitVec 4) (lane : Group → Nat → Word × Flags)
    (shared : Group → Flags) (count : Option (Nat × Nat)) (s : State) :
    Host.Outcome State Fault Refusal :=
  perform i { n with mask := true } (fun s =>
    let g := s.g
    if g.xm = 0 then .done s .seq
    else
      let vals := g.lanes96 (lane g)
      match g.settle (g.events vals (shared g)) g with
      | .ok g' =>
        .done (s.bump.setG
          { g' with
            results := g'.results ++ [{
              id := s.fresh, kind := .compute, writes := [.vreg d g.xm (vals.map (·.1)) (tag g)]
              counts := g.counts count }] }) .seq
      | .error t => .trap t) s

/-- The registers and tags of an instruction on v(a) and B. -/
def info2 (d a : BitVec 7) (b : Src) (ea eb : BitVec 4) : Info :=
  { sr := b.sregs, vr := a.toNat :: b.vregs, vw := [d.toNat], tags := [(.v a.toNat, ea), (b.reg, eb)] }

/-- An element-wise instruction on v(a) and B. -/
def vec2 (i : Instr) (d a : BitVec 7) (b : Src) (ea eb tag : BitVec 4)
    (f : Group → Word → Word → Word × Flags) (count : Option (Nat × Nat)) (s : State) :
    Host.Outcome State Fault Refusal :=
  vecRun i (info2 d a b ea eb) d.toNat (fun _ => tag) (fun g l =>
    let x := g.vsrc a.toNat ea l
    let y := g.blane b eb l
    let r := f g x.1 y.1
    (r.1, x.2 ||| y.2 ||| r.2)) (fun g => g.bshared b eb) count s

/-- An element-wise instruction on v(a) alone. -/
def vec1 (i : Instr) (d a : BitVec 7) (ea tag : BitVec 4) (f : Group → Word → Word × Flags)
    (count : Option (Nat × Nat)) (s : State) : Host.Outcome State Fault Refusal :=
  vecRun i { vr := [a.toNat], vw := [d.toNat], tags := [(.v a.toNat, ea)] } d.toNat (fun _ => tag)
    (fun g l =>
      let x := g.vsrc a.toNat ea l
      let r := f g x.1
      (r.1, x.2 ||| r.2)) (fun _ => 0) count s

/-- A vector integer instruction on v(a) and B: no flag beyond its sources' conversions (R91). -/
def vint2 (i : Instr) (d a : BitVec 7) (b : Src) (e tag : BitVec 4) (f : Word → Word → Word) (s : State) :
    Host.Outcome State Fault Refusal :=
  vec2 i d a b e e tag (fun _ x y => (f x y, 0)) none s

/-- An exact integer clamped to i32 (R91). -/
def clamp32 (v : Int) : Word := BitVec.ofInt 32 (max (-(2 ^ 31)) (min (2 ^ 31 - 1) v))

/-- VADD: a + b modulo 2^32 (R91). -/
def execVadd (d a : BitVec 7) (b : Src) (s : State) : Host.Outcome State Fault Refusal :=
  vint2 (.vadd d a b) d a b 0 1 ((· + ·)) s

/-- VSUB: a - b modulo 2^32 (R91). -/
def execVsub (d a : BitVec 7) (b : Src) (s : State) : Host.Outcome State Fault Refusal :=
  vint2 (.vsub d a b) d a b 0 1 ((· - ·)) s

/-- VMUL: low 32 bits of a * b (R91). -/
def execVmul (d a : BitVec 7) (b : Src) (s : State) : Host.Outcome State Fault Refusal :=
  vint2 (.vmul d a b) d a b 0 1 ((· * ·)) s

/-- VMULHI: floor(a * b / 2^32) as i32 (R91). -/
def execVmulhi (d a : BitVec 7) (b : Src) (s : State) : Host.Outcome State Fault Refusal :=
  vint2 (.vmulhi d a b) d a b 1 1 (fun x y => mulHigh x.toInt y.toInt) s

/-- VMULHN: floor(a * b / 2^32) as n32 (R91). -/
def execVmulhn (d a : BitVec 7) (b : Src) (s : State) : Host.Outcome State Fault Refusal :=
  vint2 (.vmulhn d a b) d a b 2 2 (fun x y => mulHigh x.toNat y.toNat) s

/-- VMIN: the smaller as i32 (R91). -/
def execVmin (d a : BitVec 7) (b : Src) (s : State) : Host.Outcome State Fault Refusal :=
  vint2 (.vmin d a b) d a b 1 1 (fun x y => pick (x.slt y) x y) s

/-- VMAX: the larger as i32 (R91). -/
def execVmax (d a : BitVec 7) (b : Src) (s : State) : Host.Outcome State Fault Refusal :=
  vint2 (.vmax d a b) d a b 1 1 (fun x y => pick (y.slt x) x y) s

/-- VMINN: the smaller as n32 (R91). -/
def execVminn (d a : BitVec 7) (b : Src) (s : State) : Host.Outcome State Fault Refusal :=
  vint2 (.vminn d a b) d a b 2 2 (fun x y => pick (x.ult y) x y) s

/-- VMAXN: the larger as n32 (R91). -/
def execVmaxn (d a : BitVec 7) (b : Src) (s : State) : Host.Outcome State Fault Refusal :=
  vint2 (.vmaxn d a b) d a b 2 2 (fun x y => pick (y.ult x) x y) s

/-- VADDS: a + b clamped to i32 (R91). -/
def execVadds (d a : BitVec 7) (b : Src) (s : State) : Host.Outcome State Fault Refusal :=
  vint2 (.vadds d a b) d a b 1 1 (fun x y => clamp32 (x.toInt + y.toInt)) s

/-- VSUBS: a - b clamped to i32 (R91). -/
def execVsubs (d a : BitVec 7) (b : Src) (s : State) : Host.Outcome State Fault Refusal :=
  vint2 (.vsubs d a b) d a b 1 1 (fun x y => clamp32 (x.toInt - y.toInt)) s

/-- VABS: |a| as i32, -2^31 giving -2^31 (R91). -/
def execVabs (d a : BitVec 7) (s : State) : Host.Outcome State Fault Refusal :=
  vec1 (.vabs d a) d a 1 1 (fun _ x => (if x.slt 0 then -x else x, 0)) none s

/-- VAND: a and b (R91). -/
def execVand (d a : BitVec 7) (b : Src) (s : State) : Host.Outcome State Fault Refusal :=
  vint2 (.vand d a b) d a b 0 0 ((· &&& ·)) s

/-- VOR: a or b (R91). -/
def execVor (d a : BitVec 7) (b : Src) (s : State) : Host.Outcome State Fault Refusal :=
  vint2 (.vor d a b) d a b 0 0 ((· ||| ·)) s

/-- VXOR: a xor b (R91). -/
def execVxor (d a : BitVec 7) (b : Src) (s : State) : Host.Outcome State Fault Refusal :=
  vint2 (.vxor d a b) d a b 0 0 ((· ^^^ ·)) s

/-- VANDN: a and not b (R91). -/
def execVandn (d a : BitVec 7) (b : Src) (s : State) : Host.Outcome State Fault Refusal :=
  vint2 (.vandn d a b) d a b 0 0 (fun x y => x &&& ~~~y) s

/-- VSHL: a shifted left by b (R76, R91). -/
def execVshl (d a : BitVec 7) (b : Src) (s : State) : Host.Outcome State Fault Refusal :=
  vint2 (.vshl d a b) d a b 0 0 (shl) s

/-- VSHR: a shifted right by b, zeros in (R76, R91). -/
def execVshr (d a : BitVec 7) (b : Src) (s : State) : Host.Outcome State Fault Refusal :=
  vint2 (.vshr d a b) d a b 0 0 (shr) s

/-- VSRA: a shifted right by b, sign in (R76, R91). -/
def execVsra (d a : BitVec 7) (b : Src) (s : State) : Host.Outcome State Fault Refusal :=
  vint2 (.vsra d a b) d a b 0 1 (sra) s

/-- VCLZ: leading zero bits (R91). -/
def execVclz (d a : BitVec 7) (s : State) : Host.Outcome State Fault Refusal :=
  vec1 (.vclz d a) d a 0 2 (fun _ x => (clz x, 0)) none s

/-- VPOPC: one bits (R91). -/
def execVpopc (d a : BitVec 7) (s : State) : Host.Outcome State Fault Refusal :=
  vec1 (.vpopc d a) d a 0 2 (fun _ x => (popc x, 0)) none s

/-- VMAD: (a * b + c) modulo 2^32 (R92). -/
def execVmad (d a : BitVec 7) (b : Src) (c : BitVec 7) (s : State) : Host.Outcome State Fault Refusal :=
  vecRun (.vmad d a b c)
    { sr := b.sregs, vr := a.toNat :: c.toNat :: b.vregs, vw := [d.toNat] } d.toNat (fun _ => 1)
    (fun g l => (g.lane a.toNat l * (g.blane b 0 l).1 + g.lane c.toNat l, 0)) (fun _ => 0) none s

/-- VSEL: a where the triple's bit is 1, else b; the triple is read as plain bits (R92). -/
def execVsel (d a : BitVec 7) (b : Src) (c : BitVec 6) (s : State) : Host.Outcome State Fault Refusal :=
  vecRun (.vsel d a b c)
    { sr := b.sregs ++ [c.toNat, c.toNat + 1, c.toNat + 2], vr := a.toNat :: b.vregs, vw := [d.toNat] }
    d.toNat (fun g => if (g.vreg a.toNat).tag = g.btag b then g.btag b else 0)
    (fun g l => (if (g.triple c.toNat).getLsbD l then g.lane a.toNat l else (g.blane b 0 l).1, 0))
    (fun _ => 0) none s

/-- Writes the bits of the active lanes of a triple; when any lane is active all three words take the tag
mask (R92). -/
def Group.setBits (g : Group) (d : Nat) (bits : LaneMask) : Group :=
  if g.xm = 0 then g else g.setTriple d ((g.triple d &&& ~~~g.xm) ||| (bits &&& g.xm))

/-- A compare into a triple: its lane results and flags (R92, R96, R125). -/
def cmpRun (i : Instr) (n : Info) (d : BitVec 6) (lane : Group → Nat → Bool × Flags)
    (shared : Group → Flags) (count : Option (Nat × Nat)) (s : State) : Host.Outcome State Fault Refusal :=
  performG i { n with mask := true, sw := [d.toNat, d.toNat + 1, d.toNat + 2] } (fun g =>
    if g.xm = 0 then .ok { g := g }
    else
      let vals := laneList.map fun l => if g.active l then lane g l else (false, 0)
      match g.settle (laneEvents g.xm (fun l => (vals.getD l (false, 0)).2) ++ sharedEvent g.xm (shared g))
          (g.setBits d.toNat (maskOf fun l => (vals.getD l (false, 0)).1)) with
      | .ok g' => .ok { g := g', counts := g.counts count }
      | .error t => .error t) s

/-- VCMP: bit l of the triple is 1 if a cc b holds, under the old mask (R92). -/
def execVcmp (d : BitVec 6) (a : BitVec 7) (b : Src) (cc : BitVec 4) (s : State) :
    Host.Outcome State Fault Refusal :=
  let e := cmpTag cc
  cmpRun (.vcmp d a b cc)
    { sr := b.sregs, vr := a.toNat :: b.vregs, tags := [(.v a.toNat, e), (b.reg, e)] } d (fun g l =>
      let x := g.vsrc a.toNat e l
      let y := g.blane b e l
      (cmpHolds cc x.1 y.1, x.2 ||| y.2)) (fun g => g.bshared b e) none s

/-- VMOV: B with its tag (R91). -/
def execVmov (d : BitVec 7) (b : Src) (s : State) : Host.Outcome State Fault Refusal :=
  vecRun (.vmov d b) { sr := b.sregs, vr := b.vregs, vw := [d.toNat] } d.toNat (fun g => g.btag b)
    (fun g l => ((g.blane b 0 l).1, 0)) (fun _ => 0) none s

/-- VIDX: l + s(b), or l (R91). -/
def execVidx (d : BitVec 7) (b : Option (BitVec 6)) (s : State) : Host.Outcome State Fault Refusal :=
  vecRun (.vidx d b) { sr := (b.map fun r => [r.toNat]).getD [], vw := [d.toNat] } d.toNat (fun _ => 1)
    (fun g l => (BitVec.ofNat 32 l + ((b.map fun r => g.sval r.toNat).getD 0), 0)) (fun _ => 0) none s

/-- VBCAST: lane k of v(a), k = s(b) as n32, or 0 when k is 96 or more (R91). -/
def execVbcast (d a : BitVec 7) (b : BitVec 6) (s : State) : Host.Outcome State Fault Refusal :=
  vecRun (.vbcast d a b) { sr := [b.toNat], vr := [a.toNat], vw := [d.toNat] } d.toNat
    (fun g => (g.vreg a.toNat).tag)
    (fun g _ =>
      let k := (g.sval b.toNat).toNat
      (if k < 96 then g.lane a.toNat k else 0, 0)) (fun _ => 0) none s

end Sys2Proof.Machine
end

