-- ==== Sys2Proof/Machine/VecFp.lean ====
section
/-! DEFINITION. FP32 instructions (R93 to R97), packed 16-bit arithmetic (R100) and the long-latency FP32
instructions (R98, R99). -/

namespace Sys2Proof.Machine

/-- One count of vector FP, f32, for each lane (R90, R336). -/
def cntF32 (n : Nat) : Option (Nat × Nat) := some (24, n)

/-- An FP32 operation on two words under GCTL.FTZ (R31, R93). -/
def fp2 (f : FpVal → FpVal → Nat × Flags) (g : Group) (x y : Word) : Word × Flags :=
  ftzOut g.ftz (toWord (f (f32 (ftzIn g.ftz x)) (f32 (ftzIn g.ftz y))))

/-- FADD, FSUB, FMUL: a and B in FP32, rounded in the mode (R94). -/
def fpArith (i : Instr) (d a : BitVec 7) (b : Src) (f : RMode → FpVal → FpVal → Nat × Flags)
    (rm : BitVec 3) (s : State) : Host.Outcome State Fault Refusal :=
  vec2 i d a b 3 3 3 (fun g => fp2 (f (RMode.ofField g.rm rm)) g) (cntF32 1) s

/-- FADD (R94). -/
def execFadd (d a : BitVec 7) (b : Src) (s : State) : Host.Outcome State Fault Refusal :=
  fpArith (.fadd d a b) d a b Fmt.fp32.add 0 s

/-- FSUB (R94). -/
def execFsub (d a : BitVec 7) (b : Src) (s : State) : Host.Outcome State Fault Refusal :=
  fpArith (.fsub d a b) d a b Fmt.fp32.sub 0 s

/-- FMUL (R94). -/
def execFmul (d a : BitVec 7) (b : Src) (s : State) : Host.Outcome State Fault Refusal :=
  fpArith (.fmul d a b) d a b Fmt.fp32.mul 0 s

/-- FADD with a rounding suffix (R94). -/
def execFaddRm (d a : BitVec 7) (b : Src) (rm : BitVec 3) (s : State) : Host.Outcome State Fault Refusal :=
  fpArith (.faddRm d a b rm) d a b Fmt.fp32.add rm s

/-- FSUB with a rounding suffix (R94). -/
def execFsubRm (d a : BitVec 7) (b : Src) (rm : BitVec 3) (s : State) : Host.Outcome State Fault Refusal :=
  fpArith (.fsubRm d a b rm) d a b Fmt.fp32.sub rm s

/-- FMUL with a rounding suffix (R94). -/
def execFmulRm (d a : BitVec 7) (b : Src) (rm : BitVec 3) (s : State) : Host.Outcome State Fault Refusal :=
  fpArith (.fmulRm d a b rm) d a b Fmt.fp32.mul rm s

/-- FMIN: the smaller operand as read (R95). -/
def execFmin (d a : BitVec 7) (b : Src) (s : State) : Host.Outcome State Fault Refusal :=
  vec2 (.fmin d a b) d a b 3 3 3 (fun g x y => fpMinMax false (ftzIn g.ftz x) (ftzIn g.ftz y)) (cntF32 1) s

/-- FMAX: the larger operand as read (R95). -/
def execFmax (d a : BitVec 7) (b : Src) (s : State) : Host.Outcome State Fault Refusal :=
  vec2 (.fmax d a b) d a b 3 3 3 (fun g x y => fpMinMax true (ftzIn g.ftz x) (ftzIn g.ftz y)) (cntF32 1) s

/-- a * 2^n rounded once; beyond 1,000 either way the result no longer depends on n (R97).
DESIGN CHOICE, log entry 24. -/
def fscale (rm : RMode) (a : FpVal) (n : Int) : Nat × Flags :=
  match a with
  | .nan s => (Fmt.fp32.nan, if s then fINV else 0)
  | .inf neg => (Fmt.fp32.signed neg Fmt.fp32.inf, 0)
  | .fin neg m e => Fmt.fp32.round rm false neg m (e + max (-1000) (min 1000 n))

/-- FSCALE: a * 2^n, n = B as i32 (R97). -/
def execFscale (d a : BitVec 7) (b : Src) (s : State) : Host.Outcome State Fault Refusal :=
  vec2 (.fscale d a b) d a b 3 1 3 (fun g x y =>
    ftzOut g.ftz (toWord (fscale g.rm (f32 (ftzIn g.ftz x)) y.toInt))) none s

/-- The bit of FCLASS that a word sets (R97). -/
def fclassBit (w : Word) : Nat :=
  match f32 w with
  | .nan s => if s then 0 else 1
  | .inf neg => if neg then 2 else 9
  | .fin neg m _ =>
    if m = 0 then (if neg then 5 else 6)
    else if isSub32 w then (if neg then 4 else 7)
    else if neg then 3 else 8

/-- FCLASS (R97). -/
def execFclass (d a : BitVec 7) (s : State) : Host.Outcome State Fault Refusal :=
  vec1 (.fclass d a) d a 3 2 (fun _ x => (1#32 <<< fclassBit x, 0)) none s

/-- FFMA: a * b + c with one rounding (R94). -/
def execFfma (d a : BitVec 7) (b : Src) (c : BitVec 7) (rm : BitVec 3) (s : State) :
    Host.Outcome State Fault Refusal :=
  vecRun (.ffma d a b c rm)
    { sr := b.sregs, vr := a.toNat :: c.toNat :: b.vregs, vw := [d.toNat]
      tags := [(.v a.toNat, 3), (b.reg, 3), (.v c.toNat, 3)] } d.toNat (fun _ => 3)
    (fun g l =>
      let x := g.vsrc a.toNat 3 l
      let y := g.blane b 3 l
      let z := g.vsrc c.toNat 3 l
      let r := ftzOut g.ftz (toWord (Fmt.fp32.fma (RMode.ofField g.rm rm) (f32 (ftzIn g.ftz x.1))
        (f32 (ftzIn g.ftz y.1)) (f32 (ftzIn g.ftz z.1))))
      (r.1, x.2 ||| y.2 ||| z.2 ||| r.2)) (fun g => g.bshared b 3) (cntF32 2) s

/-- Whether a condition of FCMP holds, and its flags (R96). -/
def fpCompare (cc : BitVec 4) (x y : FpVal) : Bool × Flags :=
  let nan := x.isNan || y.isNan
  let snan := snanFlag x ||| snanFlag y
  let any : Flags := if nan then fINV else 0
  match cc.toNat with
  | 0 => (x.eq y, snan)
  | 1 => (!x.eq y, snan)
  | 2 => (!nan && x.lt y, any)
  | 3 => (!nan && !x.lt y, any)
  | 4 => (!nan && y.lt x, any)
  | 5 => (!nan && !y.lt x, any)
  | 6 => (nan, snan)
  | _ => (!nan, snan)

/-- FCMP (R96). -/
def execFcmp (d : BitVec 6) (a : BitVec 7) (b : Src) (cc : BitVec 4) (s : State) :
    Host.Outcome State Fault Refusal :=
  cmpRun (.fcmp d a b cc)
    { sr := b.sregs, vr := a.toNat :: b.vregs, tags := [(.v a.toNat, 3), (b.reg, 3)] } d (fun g l =>
      let x := g.vsrc a.toNat 3 l
      let y := g.blane b 3 l
      let r := fpCompare cc (f32 (ftzIn g.ftz x.1)) (f32 (ftzIn g.ftz y.1))
      (r.1, x.2 ||| y.2 ||| r.2)) (fun g => g.bshared b 3) none s

/-- A value rounded to an integral FP32 value, the sign of zero kept (R97). -/
def frnd (rm : RMode) (a : FpVal) : Nat × Flags :=
  match a with
  | .nan s => (Fmt.fp32.nan, if s then fINV else 0)
  | .inf neg => (Fmt.fp32.signed neg Fmt.fp32.inf, 0)
  | .fin neg m e =>
    if 0 ≤ e then (Fmt.fp32.exact (.fin neg m e), 0)
    else (Fmt.fp32.exact (.fin neg (roundInt rm neg m e).1 0), 0)

/-- FRND (R97). -/
def execFrnd (d a : BitVec 7) (rm : BitVec 3) (s : State) : Host.Outcome State Fault Refusal :=
  vec1 (.frnd d a rm) d a 3 3 (fun g x =>
    ftzOut g.ftz (toWord (frnd (RMode.ofField g.rm rm) (f32 (ftzIn g.ftz x))))) none s

/-! ### Packed 16-bit arithmetic (R100) -/

/-- The element format of a packed 16-bit type: 9 FP16, 8 BF16 (R56). -/
def halfFmt (ty : BitVec 4) : Fmt := if ty = 9 then .fp16 else .bf16

/-- Its tag (R17). -/
def halfTag (ty : BitVec 4) : BitVec 4 := if ty = 9 then 5 else 4

/-- Its harvest counter (R90, R336). -/
def halfCount (ty : BitVec 4) (n : Nat) : Option (Nat × Nat) := some (if ty = 9 then 25 else 26, n)

/-- An operation on each of the two elements of a lane. -/
def half2 (t : Fmt) (f : FpVal → FpVal → Nat × Flags) (x y : Word) : Word × Flags :=
  let p := f (t.decode (element t x 0)) (t.decode (element t y 0))
  let q := f (t.decode (element t x 1)) (t.decode (element t y 1))
  (packElements t [p.1, q.1], p.2 ||| q.2)

/-- HADD2 and HMUL2 of an element type in a mode. -/
def halfArith (i : Instr) (d a : BitVec 7) (b : Src) (ty : BitVec 4) (rm : BitVec 3)
    (f : Fmt → RMode → FpVal → FpVal → Nat × Flags) (s : State) : Host.Outcome State Fault Refusal :=
  vec2 i d a b (halfTag ty) (halfTag ty) (halfTag ty)
    (fun g => half2 (halfFmt ty) (f (halfFmt ty) (RMode.ofField g.rm rm))) (halfCount ty 2) s

/-- HADD2.bf16 (R100). -/
def execHadd2Bf16 (d a : BitVec 7) (b : Src) (s : State) : Host.Outcome State Fault Refusal :=
  halfArith (.hadd2Bf16 d a b) d a b 8 0 Fmt.add s

/-- HADD2.f16 (R100). -/
def execHadd2F16 (d a : BitVec 7) (b : Src) (s : State) : Host.Outcome State Fault Refusal :=
  halfArith (.hadd2F16 d a b) d a b 9 0 Fmt.add s

/-- HMUL2.bf16 (R100). -/
def execHmul2Bf16 (d a : BitVec 7) (b : Src) (s : State) : Host.Outcome State Fault Refusal :=
  halfArith (.hmul2Bf16 d a b) d a b 8 0 Fmt.mul s

/-- HMUL2.f16 (R100). -/
def execHmul2F16 (d a : BitVec 7) (b : Src) (s : State) : Host.Outcome State Fault Refusal :=
  halfArith (.hmul2F16 d a b) d a b 9 0 Fmt.mul s

/-- HADD2 with a rounding suffix (R100). -/
def execHadd2 (d a : BitVec 7) (b : Src) (rm : BitVec 3) (ty : BitVec 4) (s : State) :
    Host.Outcome State Fault Refusal :=
  halfArith (.hadd2 d a b rm ty) d a b ty rm Fmt.add s

/-- HMUL2 with a rounding suffix (R100). -/
def execHmul2 (d a : BitVec 7) (b : Src) (rm : BitVec 3) (ty : BitVec 4) (s : State) :
    Host.Outcome State Fault Refusal :=
  halfArith (.hmul2 d a b rm ty) d a b ty rm Fmt.mul s

/-- HFMA2: a * b + c in each element, rounded once (R100). -/
def execHfma2 (d a : BitVec 7) (b : Src) (c : BitVec 7) (rm : BitVec 3) (ty : BitVec 4) (s : State) :
    Host.Outcome State Fault Refusal :=
  let t := halfFmt ty
  let e := halfTag ty
  vecRun (.hfma2 d a b c rm ty)
    { sr := b.sregs, vr := a.toNat :: c.toNat :: b.vregs, vw := [d.toNat]
      tags := [(.v a.toNat, e), (b.reg, e), (.v c.toNat, e)] } d.toNat (fun _ => e)
    (fun g l =>
      let x := g.vsrc a.toNat e l
      let y := g.blane b e l
      let z := g.vsrc c.toNat e l
      let f (k : Nat) := t.fma (RMode.ofField g.rm rm) (t.decode (element t x.1 k))
        (t.decode (element t y.1 k)) (t.decode (element t z.1 k))
      let p := f 0
      let q := f 1
      (packElements t [p.1, q.1], x.2 ||| y.2 ||| z.2 ||| p.2 ||| q.2)) (fun g => g.bshared b e)
    (halfCount ty 4) s

/-! ### Bounds of the long-latency functions (R98)

The six functions that are not correctly rounded take the value that the part offers, an opaque constant of
Config, where it keeps to the bound of R98, and the nearest value otherwise. The operand is held exactly, and the exact value
to 2^-155 of itself (FEXP2), 2^-119 (FLOG2) or 2^-220 (FSIN, FCOS): no FP32 value is known to lie so near a bound that this
decides for it. DESIGN CHOICE, log entry 7. -/

/-- Whether a finite value lies within tol * 2^tq of v * 2^q. -/
def within (c : FpVal) (v : Int) (q : Int) (tol : Nat) (tq : Int) : Bool :=
  match c with
  | .fin neg m e =>
    let k := min e (min q tq)
    (signedAt neg m e k - v * pow2 (q - k)).natAbs ≤ tol * pow2 (tq - k)
  | _ => false

/-- The offered word where it lies within the bound, else v * 2^q rounded to the nearest. -/
def offered (c : Word) (v : Int) (q : Int) (tol : Nat) (tq : Int) : Word :=
  if within (f32 c) v q tol tq then c
  else BitVec.ofNat 32 (Fmt.fp32.round .rne false (v < 0) v.natAbs q).1

/-- Of the two values that bracket an exact result, the exact one where they agree, else the one further
from zero when `up`. -/
def bracket (neg up : Bool) (f : RMode → Nat × Flags) : Word :=
  let away : RMode := if neg then .rdn else .rup
  BitVec.ofNat 32 (f (if up then away else .rtz)).1

/-- FRCP of an operand as read (R98, R99). R143 gives the value at 3.0. Of ±2^-128, whose reciprocal lies above
the largest finite value, it gives that value or infinity and raises nothing. DEDUCED, log entry 89. -/
def frcp (w : Word) : Word × Flags :=
  match f32 w with
  | .nan s => (nan32, if s then fINV else 0)
  | .inf _ => (zeroOf w, 0)
  | .fin neg m e =>
    let infinity := BitVec.ofNat 32 (Fmt.fp32.signed neg Fmt.fp32.inf)
    if m = 0 then (infinity, fDZ)
    else if w.toNat % 2 ^ 31 < 0x00200000 then (infinity, fOVF ||| fINX)
    else
      (bracket neg (if w = 0x40400000 then true else Config.frcpUp w)
        (fun rm => Fmt.fp32.div rm (.fin false 1 0) (.fin neg m e)), 0)

/-- 1 / sqrt(m * 2^e) in a mode, m not zero. -/
def rsqrt (m : Nat) (e : Int) (rm : RMode) : Nat × Flags :=
  let m := if e % 2 = 0 then m else 2 * m
  let e := if e % 2 = 0 then e else e - 1
  let sh := 28 + bitLen m
  let r := isqrt (2 ^ (2 * sh) / m)
  Fmt.fp32.round rm false false (2 * r + (if r * r * m = 2 ^ (2 * sh) then 0 else 1)) (-(e / 2) - sh - 1)

/-- FRSQ of an operand as read (R98, R99). -/
def frsq (w : Word) : Word × Flags :=
  match f32 w with
  | .nan s => (nan32, if s then fINV else 0)
  | .inf neg => if neg then (nan32, fINV) else (0, 0)
  | .fin neg m e =>
    if m = 0 then (BitVec.ofNat 32 (Fmt.fp32.signed neg Fmt.fp32.inf), fDZ)
    else if neg then (nan32, fINV)
    else (bracket false (Config.frsqUp w) (rsqrt m e), 0)

/-- ln 2 in units of 2^-160. -/
def ln2Fx : Nat := 0xb17217f7d1cf79abc9e3b39803f2f6af40f34326

/-- The Taylor series of e^y in units of 2^-160: k terms are still to come after the n-th. -/
def expSeries (y : Nat) : Nat → Nat → Nat → Nat
  | 0, _, _ => 0
  | k + 1, n, t => t + expSeries y k (n + 1) (t * y / 2 ^ 160 / (n + 1))

/-- Whether a word is within 2 ulp, 2^-148, of a positive value below 2^-160. -/
def nearZero (c : Word) : Bool := c.toNat ≤ 2 || c == 0x80000000 || c == 0x80000001

/-- FEXP2 of an operand as read (R98, R99). -/
def fexp2 (w : Word) : Word × Flags :=
  match f32 w with
  | .nan s => (nan32, if s then fINV else 0)
  | .inf neg => (if neg then 0 else 0x7F800000, 0)
  | .fin neg m e =>
    let a : Int := signedAt neg (m * pow2 (e + 160)) 0 0 / pow2 (-(e + 160))
    if m = 0 || w.toNat % 2 ^ 31 < 0x00200000 then (0x3F800000, 0)
    else if 128 * 2 ^ 160 ≤ a then (0x7F800000, fOVF ||| fINX)
    else if a < -(160 * 2 ^ 160) then (if nearZero (Config.fexp2 w) then Config.fexp2 w else 0, 0)
    else
      let n := a / 2 ^ 160
      let f := (a % 2 ^ 160).toNat
      if f = 0 && -149 ≤ n then (BitVec.ofNat 32 (Fmt.fp32.exact (.fin false 1 n)), 0)
      else
        let v := expSeries (f * ln2Fx / 2 ^ 160) 42 0 (2 ^ 160)
        (offered (Config.fexp2 w) v (n - 160) 2 (max (n - 23) (-149)), 0)

/-- The fraction bits of log2 x, x in units of 2^-126 from 1 to 2, by repeated squaring. -/
def logBits : Nat → Nat → Nat → Nat
  | 0, _, acc => acc
  | k + 1, x, acc =>
    let y := x * x / 2 ^ 126
    if 2 ^ 127 ≤ y then logBits k (y / 2) (2 * acc + 1) else logBits k y (2 * acc)

/-- FLOG2 of an operand as read (R98, R99). -/
def flog2 (w : Word) : Word × Flags :=
  match f32 w with
  | .nan s => (nan32, if s then fINV else 0)
  | .inf neg => if neg then (nan32, fINV) else (0x7F800000, 0)
  | .fin neg m e =>
    if m = 0 then (0xFF800000, fDZ)
    else if neg then (nan32, fINV)
    else
      let k := bitLen m - 1
      let n := e + k
      if m = 2 ^ k then (BitVec.ofNat 32 (Fmt.fp32.ofInt .rne false n).1, 0)
      else
        let v : Int := n * 2 ^ 120 + logBits 120 (m * 2 ^ (126 - k)) 0
        if n = -1 || n = 0 then (offered (Config.flog2 w) v (-120) 1 (-22), 0)
        else (offered (Config.flog2 w) v (-120) 2 (bitLen v.natAbs - 121 - 23), 0)

/-- pi in units of 2^-240. -/
def piFx : Nat := 0x3243f6a8885a308d313198a2e03707344a4093822299f31d0082efa98ec4e

/-- The Taylor series of sine (odd) or cosine (even) in units of 2^-240. -/
def trigSeries (x2 : Int) : Nat → Nat → Int → Int
  | 0, _, _ => 0
  | k + 1, n, t => t + trigSeries x2 k (n + 2) (-(t * x2 / 2 ^ 240) / ((n + 1) * (n + 2)))

/-- sin or cos of (-1)^neg * m * 2^e in units of 2^-240. -/
def trigFx (cosine neg : Bool) (m : Nat) (e : Int) : Int :=
  let a : Int := signedAt neg (m * pow2 (e + 240)) 0 0
  let r := a % (2 * piFx)
  let x := if (piFx : Int) < r then r - 2 * piFx else r
  let x2 := x * x / 2 ^ 240
  if cosine then trigSeries x2 45 0 (2 ^ 240) else trigSeries x2 45 1 x

/-- FSIN or FCOS of an operand as read (R98, R99). -/
def ftrig (cosine : Bool) (w : Word) : Word × Flags :=
  match f32 w with
  | .nan s => (nan32, if s then fINV else 0)
  | .inf _ => (nan32, fINV)
  | .fin neg m e =>
    if m = 0 then (if cosine then 0x3F800000 else w, 0)
    else if 0x47800000 < w.toNat % 2 ^ 31 then (nan32, fINV)
    else
      (offered (if cosine then Config.fcos w else Config.fsin w) (trigFx cosine neg m e) (-240) 1 (-21), 0)

/-- A long-latency instruction on v(a) alone (R98). -/
def longFp1 (i : Instr) (d a : BitVec 7) (look : BitVec 4) (f : Group → Word → Word × Flags) (s : State) :
    Host.Outcome State Fault Refusal :=
  vecLate i { vr := [a.toNat], vw := [d.toNat], tags := [(.v a.toNat, 3)], look := some look.toNat } d.toNat
    (fun _ => 3)
    (fun g l =>
      let x := g.vsrc a.toNat 3 l
      let r := ftzOut g.ftz (f g (ftzIn g.ftz x.1))
      (r.1, x.2 ||| r.2)) (fun _ => 0) (cntF32 1) s

/-- FRCP (R98). -/
def execFrcp (d a : BitVec 7) (look : BitVec 4) (s : State) : Host.Outcome State Fault Refusal :=
  longFp1 (.frcp d a look) d a look (fun _ => frcp) s

/-- FRSQ (R98). -/
def execFrsq (d a : BitVec 7) (look : BitVec 4) (s : State) : Host.Outcome State Fault Refusal :=
  longFp1 (.frsq d a look) d a look (fun _ => frsq) s

/-- FSQRT (R98). -/
def execFsqrt (d a : BitVec 7) (rm : BitVec 3) (look : BitVec 4) (s : State) :
    Host.Outcome State Fault Refusal :=
  longFp1 (.fsqrt d a rm look) d a look
    (fun g x => toWord (Fmt.fp32.sqrt (RMode.ofField g.rm rm) (f32 x))) s

/-- FDIV (R98, R99). -/
def execFdiv (d a : BitVec 7) (b : Src) (rm : BitVec 3) (look : BitVec 4) (s : State) :
    Host.Outcome State Fault Refusal :=
  vecLate (.fdiv d a b rm look) { info2 d a b 3 3 with look := some look.toNat } d.toNat (fun _ => 3)
    (fun g l =>
      let x := g.vsrc a.toNat 3 l
      let y := g.blane b 3 l
      let r := fp2 (Fmt.fp32.div (RMode.ofField g.rm rm)) g x.1 y.1
      (r.1, x.2 ||| y.2 ||| r.2)) (fun g => g.bshared b 3) (cntF32 1) s

/-- FEXP2 (R98). -/
def execFexp2 (d a : BitVec 7) (look : BitVec 4) (s : State) : Host.Outcome State Fault Refusal :=
  longFp1 (.fexp2 d a look) d a look (fun _ => fexp2) s

/-- FLOG2 (R98). -/
def execFlog2 (d a : BitVec 7) (look : BitVec 4) (s : State) : Host.Outcome State Fault Refusal :=
  longFp1 (.flog2 d a look) d a look (fun _ => flog2) s

/-- FSIN (R98). -/
def execFsin (d a : BitVec 7) (look : BitVec 4) (s : State) : Host.Outcome State Fault Refusal :=
  longFp1 (.fsin d a look) d a look (fun _ => ftrig false) s

/-- FCOS (R98). -/
def execFcos (d a : BitVec 7) (look : BitVec 4) (s : State) : Host.Outcome State Fault Refusal :=
  longFp1 (.fcos d a look) d a look (fun _ => ftrig true) s

end Sys2Proof.Machine
end

