-- ==== Sys2Proof/Machine/Sync.lean ====
section
/-! DEFINITION. Atomics (R224 to R227), fences and code (R228 to R230), messages and wake words (R231 to
R235). -/

namespace Sys2Proof.Machine

/-! ### Atomics -/

/-- The value an atomic writes, none for a failing cas (R224). -/
def atomNew (op ty : BitVec 4) (old b c : Word) : Option Word :=
  match op.toNat with
  | 0 => some (if ty = 7 then BitVec.ofNat 32 (Fmt.fp32.add .rne (f32 old) (f32 b)).1 else old + b)
  | 1 => some (if ty = 7 then (fpMinMax false old b).1
      else pick (if ty = 1 then old.slt b else old.ult b) old b)
  | 2 => some (if ty = 7 then (fpMinMax true old b).1
      else pick (if ty = 1 then b.slt old else b.ult old) old b)
  | 3 => some (old &&& b)
  | 4 => some (old ||| b)
  | 5 => some (old ^^^ b)
  | 6 => some b
  | _ => if old = c then some b else none

/-- Whether an atomic takes a comparison value: cas alone (R224). -/
def isCas (op : BitVec 4) : Bool := op == 7

/-- The vector that cas compares with. -/
def casRegs (op : BitVec 4) (c : BitVec 7) : List Nat := if isCas op then [c.toNat] else []

/-- B and C of a vector atomic in lane l. -/
def atomOperands (b : Src) (c : BitVec 7) (f : AtomFields) (g : Group) (l : Nat) : Word × Word :=
  let e := typeTag f.ty
  ((g.blane b e l).1, if isCas f.op then (g.vsrc c.toNat e l).1 else 0)

/-- The registers and tags of a vector atomic. -/
def atomInfo (a : BitVec 7) (b : Src) (c : BitVec 7) (f : AtomFields) : Info :=
  let e := typeTag f.ty
  { sr := b.sregs, vr := a.toNat :: (b.vregs ++ casRegs f.op c), ends := some 1
    tags := (b.reg, e) :: (casRegs f.op c).map fun r => (.v r, e) }

/-- The entry of lane l of a global vector atomic: the word at VB + vO[l] (R225). -/
def atomEntry (a : BitVec 7) (b : Src) (c : BitVec 7) (t : BitVec 2) (f : AtomFields) (returns : Bool) (s : State)
    (l : Nat) : List Entry :=
  let base := s.g.base t.toNat
  let o := atomOperands b c f s.g l
  [{ res := s.baseLane s.cur base (base.vb.toNat + (s.g.lane a.toNat l).toNat) 4 returns true, b := o.1, c := o.2 }]

/-- ATOM (R225). -/
def execAtom (d a : BitVec 7) (b : Src) (c : BitVec 7) (t : BitVec 2) (f : AtomFields) (lock : BitVec 1)
    (look : BitVec 4) (s : State) : Host.Outcome State Fault Refusal :=
  vecAccess (.atom d a b c t f lock look) { atomInfo a b c f with vw := [d.toNat], look := some look.toNat }
    { op := .atomic f lock true, size := 4, dest := .vec d.toNat, tag := typeTag f.ty, order := f.order
      scope := f.scope, counter := some 4 }
    (fun s => s.baseTurned s.cur t.toNat) (fun s => s.freshBase s.cur t.toNat) (atomEntry a b c t f true) (fun _ => []) s

/-- An atomic that returns nothing and lets go of a lock does so at its issue in the sprinter, which is its retirement
there (R227). -/
def unlockSerial (lock : BitVec 1) : Option Bool := if lock = 1 then some false else none

/-- RED (R225). -/
def execRed (a : BitVec 7) (b : Src) (t : BitVec 2) (f : AtomFields) (lock : BitVec 1) (s : State) :
    Host.Outcome State Fault Refusal :=
  vecAccess (.red a b t f lock) { atomInfo a b 0 f with serial := unlockSerial lock }
    { op := .atomic f lock false, size := 4, order := f.order, scope := f.scope, counter := some 3 }
    (fun s => s.baseTurned s.cur t.toNat) (fun s => s.freshBase s.cur t.toNat) (atomEntry a b 0 t f false) (fun _ => []) s

/-- SATOM: one word through an address pair; executes whatever xm holds (R225). -/
def execSatom (d a b c : BitVec 6) (f : AtomFields) (lock nr : BitVec 1) (look : BitVec 4) (s : State) :
    Host.Outcome State Fault Refusal :=
  let e := typeTag f.ty
  let returns := nr == 0
  let cs := if isCas f.op then [c.toNat] else []
  let counter := if returns then some 2 else none
  perform (.satom d a b c f lock nr look)
    { sr := [a.toNat, a.toNat + 1, b.toNat] ++ cs, sw := if returns then [d.toNat] else []
      pairs := [⟨true, a.toNat⟩], access := true, counter := counter, ends := some 1
      look := if returns then some look.toNat else none, serial := if returns then none else unlockSerial lock
      tags := [(.s a.toNat, 14), (.s (a.toNat + 1), 14), (.s b.toNat, e)] ++ cs.map fun r => (.s r, e) } (fun s =>
    let g := s.g
    s.issue
      { op := .atomic f lock returns, size := 4, dest := if returns then .scalar (g.phys d.toNat) else .none
        tag := e, order := f.order, scope := f.scope, counter := counter, scalar := true }
      [{ lane := 0, b := (g.ssrc b.toNat e).1, c := if isCas f.op then (g.ssrc c.toNat e).1 else 0
         res := s.pairLane s.cur (g.sval (a.toNat + 1)) (g.pairNat a.toNat) returns true }] 0) s

/-- The old values and the scratchpad after the lanes of an atomic, in ascending order (R226). -/
def spAtomLanes (f : AtomFields) (core : Nat) (ops : Nat → Word × Word) (s : State) :
    List (Nat × LaneRes) → State × AMap Word
  | [] => (s, [])
  | (l, r) :: ls =>
    match r.key with
    | none => spAtomLanes f core ops s ls
    | some key =>
      let old := BitVec.ofNat 32 (leNat (s.spBytes core key 4))
      let o := ops l
      let s' := match atomNew f.op f.ty old o.1 o.2 with
        | some v => s.spWrite core key (leBytes 4 v.toNat)
        | none => s
      let p := spAtomLanes f core ops s' ls
      (p.1, (l, old) :: p.2)

/-- SPATOM: on the team's scratchpad or that of team n of the gang (R225). -/
def execSpatom (d a : BitVec 7) (b : Src) (c : BitVec 7) (x : BitVec 1) (n : BitVec 2) (f : AtomFields)
    (nr : BitVec 1) (look : BitVec 4) (s : State) : Host.Outcome State Fault Refusal :=
  let returns := nr == 0
  let remote := if x = 1 then some n.toNat else none
  let counter := if returns then some 1 else none
  perform (.spatom d a b c x n f nr look)
    { atomInfo a b c f with
      vw := if returns then [d.toNat] else [], mask := true, access := true, counter := counter
      look := if returns then some look.toNat else none, serial := some false } (fun s =>
    let g := s.g
    if g.xm = 0 then s.issueEmpty .atomic counter
    else
      let lanes := s.spLanes remote (g.xm &&& ~~~g.helper) (addVec a) 4 true
      match (s.spOutside remote).orElse fun _ => spFault 0 lanes with
      | some t => .trap t
      | none =>
        if !s.turnOf (bankPoint (s.spCore remote)) s.cur then .hold s
        else match s.spRelease f.order f.scope with
          | none => .hold s
          | some s =>
            let core := s.spCore remote
            let p := spAtomLanes f core (atomOperands b c f g) ((s.spFlit remote).noteServed (bankPoint core) s.cur) lanes
            let s := p.1.spAcquire f.order f.scope
            .done (if returns then
              s.addResult .atomic [.vreg d.toNat g.xm (laneList.map fun l => p.2.get 0 l) (typeTag f.ty)] counter
            else s) .seq) s

/-! ### Fences and code -/

/-- FENCE: completes once its conditions hold, with the L1 work of its scope (R228). -/
def execFence (order : BitVec 2) (scope : BitVec 3) (s : State) : Host.Outcome State Fault Refusal :=
  perform (.fence order scope) { ends := some 1, serial := some false } (fun s =>
    let c := coreOf s.cur
    if order.getLsbD 1 then
      if s.drained s.cur s.fresh then
        let s := s.releaseL1 c scope
        .done (if order.getLsbD 0 then s.acquireL1 c scope else s) .seq
      else .hold (s.modGroup s.cur fun g => { g with wait := .release scope })
    else if (s.ownEntries s.cur).isEmpty && s.g.accesses.all (fun a => (!a.op.returns || a.pref) && a.replayOf.isNone) then
      .done (s.acquireL1 c scope) .seq
    else .hold s) s

/-- ICINV: the group issues nothing more until every named cache has dropped the blocks of the range (R229). -/
def execIcinv (scope : BitVec 3) (a b : BitVec 6) (s : State) : Host.Outcome State Fault Refusal :=
  perform (.icinv scope a b)
    { sr := [a.toNat, a.toNat + 1, b.toNat], pairs := [⟨true, a.toNat⟩], ends := some 1
      tags := [(.s a.toNat, 14), (.s (a.toNat + 1), 14)], serial := some false } (fun s =>
    let g := s.g
    let lo := g.pairNat a.toNat
    let hi := lo + (g.sval b.toNat).toNat
    if 2 ^ 56 < hi then .trap ⟨0x0A, lo, g.xm, 0⟩
    else .done (s.setG { g with wait := .icinv lo hi scope }) .seq) s

/-- IFENCE: discards the fetch buffer and goes on at the next clause, fetched afresh (R230). -/
def execIfence (s : State) : Host.Outcome State Fault Refusal :=
  perform .ifence { ends := some 1, serial := some false } (fun s => .done (s.modGroup s.cur fun g => { g with fetchBuf := [] }) .nextClause) s

/-! ### Messages -/

/-- The messages of a group that are accepted and not yet delivered. -/
def State.undelivered (s : State) (g : Group) : Nat :=
  (s.messages.filter fun m => m.team == g.team && m.index == g.index).length

/-- MSEND: sends k + 1 words to a queue of a core of the context (R232). -/
def execMsend (q : BitVec 3) (a b : BitVec 6) (k : BitVec 3) (order : BitVec 2) (scope : BitVec 3) (s : State) :
    Host.Outcome State Fault Refusal :=
  let regs := (List.range (k.toNat + 1)).map (a.toNat + ·)
  perform (.msend q a b k order scope) { sr := b.toNat :: regs, ends := some 1, serial := some false } (fun s =>
    let g := s.g
    let to_ := (g.sval b.toNat).toNat
    if 256 ≤ to_ || !((s.context g.ctx).hasCluster (to_ / 4)) then .trap ⟨0x0A, to_, g.xm, 0⟩
    else if 4 ≤ s.undelivered g then .hold s
    else match s.spRelease order scope with
      | none => .hold s
      | some s =>
        let m : Message :=
          { id := s.fresh, ctx := g.ctx, from_ := s.cur, team := g.team, index := g.index, toCore := to_, queue := q.toNat
            words := regs.map fun r => g.sval r }
        .done { s.bump with messages := s.messages ++ [m] } .seq) s

/-- The header that MRECV writes for a message (R233). -/
def Message.header (m : Message) : Word :=
  BitVec.ofNat 32 (coreOf m.from_ + 2 ^ 8 * slotOf m.from_ + 2 ^ 14 * m.words.length)

/-- The record that a replay holds for the chunk of a group: the first of its own that is not yet used (R362). -/
def State.ownRecord (s : State) (k : Nat) : Option LogRecord :=
  let o := (s.context (s.group k).ctx).observe
  if o.mode = 2 then
    (o.log.drop o.replayAt).find? fun r => r.agent == 0 && r.core == coreOf k && r.slot == slotOf k
  else none

/-- The input that a replay feeds to the instruction that issues, where the log holds one for it: the last instruction of
its chunk (R361, R362). -/
def State.logged (s : State) : Option Word :=
  (s.ownRecord s.cur).bind fun r => if r.size = s.g.chunk then r.input else none

/-- A live input, or in replay mode the value that the log holds for it (R362). -/
def State.input (s : State) (live : Word) : Word := s.logged.getD live

/-- Notes an input that the chunk's log record carries (R361). -/
def Group.noteInput (g : Group) (v : Word) : Group := { g with chunkInput := some v }

/-- MRECV's writes: the header and the words (R233). -/
def Group.recvWrites (g : Group) (d : BitVec 6) (h : Word) (ws : List Word) : List RegWrite :=
  .sreg (g.phys d.toNat) h 2 :: (ws.zip (List.range ws.length)).map fun p => .sreg (g.phys (d.toNat + 1 + p.2)) p.1 0

/-- MRECV: takes the oldest message of a queue of the group's own core (R233). A polling one whose replay holds a message
waits for it (R362). -/
def execMrecv (d : BitVec 6) (q : BitVec 3) (poll : BitVec 1) (order : BitVec 2) (scope : BitVec 3)
    (look : BitVec 4) (s : State) : Host.Outcome State Fault Refusal :=
  perform (.mrecv d q poll order scope look)
    { sw := (List.range 9).map (d.toNat + ·), look := some look.toNat, counter := some 4
      ends := some (if poll = 1 then 4 else 1), serial := some false } (fun s =>
    let g := s.g
    let c := coreOf s.cur
    let queue := (s.core c).queues.get [] q.toNat
    let take (s : State) (m : Message) : Res :=
      let s := s.spAcquire order scope
      let s := if poll = 1 then s.modGroup s.cur fun g => g.noteInput m.header else s
      .done (s.addResult .compute (g.recvWrites d m.header m.words) (some 4)) .seq
    match g.inbox with
    | some m => take (s.setG { g with inbox := none }) m
    | none =>
      let empty := poll = 1 && s.logged == some 0
      let blocks := poll = 0 || s.logged.any (· != 0)
      match queue with
      | m :: ms =>
        if empty then
          .done ((s.modGroup s.cur fun g => g.noteInput 0).addResult .compute [.sreg (g.phys d.toNat) 0 2] (some 4)) .seq
        else take (s.modCore c fun x => { x with queues := x.queues.put q.toNat ms }) m
      | [] =>
        if !blocks then
          .done ((s.modGroup s.cur fun g => g.noteInput 0).addResult .compute [.sreg (g.phys d.toNat) 0 2] (some 4)) .seq
        else
          .hold ((s.demote s.cur).modGroup s.cur fun g => { g with wait := .message q.toNat (s.cycle s.cur) })) s

/-! ### Wake words -/

/-- WAKEW: a relaxed store, written through, that sends a wake once it is performed (R234). -/
def execWakew (a b : BitVec 6) (scope : BitVec 3) (s : State) : Host.Outcome State Fault Refusal :=
  perform (.wakew a b scope)
    { sr := [a.toNat, a.toNat + 1, b.toNat], pairs := [⟨true, a.toNat⟩], access := true, counter := some 3
      tags := [(.s a.toNat, 14), (.s (a.toNat + 1), 14)], ends := some 1 } (fun s =>
    let g := s.g
    s.issue { op := .store, size := 4, scope := scope, counter := some 3, wake := true, scalar := true }
      [{ lane := 0, data := leBytes 4 (g.sval b.toNat).toNat
         res := s.pairLane s.cur (g.sval (a.toNat + 1)) (g.pairNat a.toNat) false true }] 0) s

/-- The end of a WAITW: s(d) takes the value read, with .acq an acquire at the scope (R235). -/
def waitDone (d : BitVec 6) (order : BitVec 2) (scope : BitVec 3) (v : Word) (s : State) : Res :=
  let s := s.spAcquire order scope
  .done (s.modGroup s.cur fun g => g.dropWaits.setS d.toNat v 0) .seq

/-- WAITW: reads the word until it differs from s(b), a wake at a time, or the limit passes (R235); in a replay the log
decides whether it returns on timeout, and with which value (R362). -/
def execWaitw (d a b c : BitVec 6) (order : BitVec 2) (scope : BitVec 3) (s : State) :
    Host.Outcome State Fault Refusal :=
  perform (.waitw d a b c order scope)
    { sr := [a.toNat, a.toNat + 1, b.toNat, c.toNat], sw := [d.toNat], pairs := [⟨true, a.toNat⟩]
      access := true, tags := [(.s a.toNat, 14), (.s (a.toNat + 1), 14)], ends := some 1, serial := some false } (fun s =>
    let g := s.g
    let start := g.waitStart.getD (s.cycle s.cur)
    let limit := (g.sval c.toNat).toNat
    match g.waitAccess, g.waitRead with
    | some _, _ => .hold s
    | none, some v =>
      if s.logged.isSome then waitDone d order scope (s.input v) (s.setG (g.noteInput (s.input v)))
      else if v ≠ g.sval b.toNat then waitDone d order scope v s
      else if limit ≠ 0 ∧ limit ≤ s.cycle s.cur - start ∧ s.ownRecord s.cur = none then
        waitDone d order scope v (s.setG (g.noteInput v))
      else if g.waitAgain then .hold (s.setG { g with waitRead := none, waitAgain := false })
      else
        .hold ((s.demote s.cur).modGroup s.cur fun g =>
          { g with waitRead := none, wait := .word g.waitKey start limit })
    | none, none =>
      match s.issue { op := .load 4, size := 4, hint := 2, scalar := true }
          [{ lane := 0
             res := s.pairLane s.cur (g.sval (a.toNat + 1)) (g.pairNat a.toNat) true false }] 0 with
      | .done s' _ =>
        .hold (s'.modGroup s.cur fun g =>
          { g with
            waitStart := some start, waitAccess := some s.fresh, waitAgain := false
            waitKey := ((g.accesses.getLast?.bind fun x => x.lanes.head?).map fun x => x.key).getD 0 })
      | x => x) s

end Sys2Proof.Machine
end

