-- ==== Sys2Proof/Machine/Barriers.lean ====
section
/-! DEFINITION. Barriers (R177 to R180) and PROMOTE (R181). -/

namespace Sys2Proof.Machine

/-- The scope of a barrier: team for 0 to 15, gang for 16 to 19 (R179). -/
def barrierScope (n : Nat) : BitVec 3 := if n < 16 then 1 else 2

/-- The groups of a team, but for halted ones whose slots others have taken. -/
def State.teamGroups (s : State) (team : Nat) : List Nat :=
  match s.teams.find? team with
  | some t => (t.slots.map fun l => 48 * t.core + l).filter fun k => (s.group k).team == team
  | none => []

/-- A team barrier at which three quarters of the team have arrived, noted with the clock at which they have (R162). -/
def State.quorum (s : State) (team n now : Nat) (b : Barrier) : Barrier :=
  if n < 16 && b.quorumAt.isNone && (3 * (s.teamGroups team).length + 3) / 4 ≤ b.arrived.length
  then { b with quorumAt := some now } else b

/-- The arrival of a group at a barrier is recorded: A, ph[n], the phase that may be due, and for a team
barrier the clock at which three quarters of the team have arrived (R162, R178). An arrival at a gang barrier passes the
bed's local crossbar (R314, R316). -/
def State.arrive (s : State) (k n : Nat) : State :=
  let team := (s.group k).team
  let b := s.barrier team n
  let b := s.quorum team n (s.cycle k) { b with arrived := b.arrived ++ [k] }
  let s := (if n < 16 then s else s.passes [coreOf k / 32] 0 s.clock 0).setBarrier team n b
  let s := s.modGroup k fun g =>
    { g with phases := g.phases.put n b.phase, laggardOf := g.laggardOf.filter (· != n) }
  let s := if (s.group k).laggardOf.isEmpty then s.leaveClass k .laggard else s
  s.checkBarrier team n

/-- Whether a wait for a barrier's phase is over: the group has never arrived, or the phase it arrived in has
completed (R178). DEDUCED, log entry 54. -/
def State.phaseOver (s : State) (k n : Nat) : Bool :=
  match (s.group k).phases.find? n with
  | none => true
  | some p => (s.barrier (s.group k).team n).phase != p

/-- The wait at a barrier; a group that waits leaves the hint class (R180). -/
def waitBarrier (s : State) (n : Nat) : Res :=
  .hold ((s.leaveClass s.cur .hint).modGroup s.cur fun g => { g with wait := .barrier n })

/-- The return from a barrier is an acquire at its scope when a phase completed (R179). -/
def barrierDone (s : State) (n : Nat) : Res :=
  let acq := ((s.g).phases.find? n).isSome
  let s := s.modGroup s.cur fun g => { g with arrivalDone := false }
  .done (if acq then s.acquireL1 (coreOf s.cur) (barrierScope n) else s) .seq

/-- Whether an arrival may pass: one at a gang barrier in the turn of the bed's local crossbar (R316). -/
def State.arrivalPasses (s : State) (k n : Nat) : Bool := n < 16 || s.inTurns [coreOf k / 32] 0 s.clock 0

/-- The arrival of BARA and BARAW: it waits while the group is in A, for the phase to end, and until its release is
complete (R178, R179). -/
def tryArrive (s : State) (n : Nat) : Except State State :=
  if (s.barrier s.g.team n).arrived.contains s.cur then .error (s.modGroup s.cur fun g => { g with wait := .barrier n })
  else if !s.arrivalPasses s.cur n then .error s
  else if s.drained s.cur s.fresh then .ok ((s.releaseL1 (coreOf s.cur) (barrierScope n)).arrive s.cur n)
  else .error (s.modGroup s.cur fun g => { g with wait := .release (barrierScope n) })

/-- BARA (R177 to R179). -/
def execBara (n : BitVec 6) (s : State) : Host.Outcome State Fault Refusal :=
  perform (.bara n) { ends := some 1, serial := some false } (fun s =>
    match tryArrive s n.toNat with
    | .ok s => .done s .seq
    | .error s => .hold s) s

/-- BARW (R177 to R179). -/
def execBarw (n : BitVec 6) (s : State) : Host.Outcome State Fault Refusal :=
  perform (.barw n) { closes := true, ends := some 1, serial := some false } (fun s =>
    if s.phaseOver s.cur n.toNat then barrierDone s n.toNat else waitBarrier s n.toNat) s

/-- BARAW: BARA, then BARW, as one instruction (R178). A group that waits in it, for its arrival too, leaves the hint
class (R180). -/
def execBaraw (n : BitVec 6) (s : State) : Host.Outcome State Fault Refusal :=
  perform (.baraw n) { closes := true, ends := some 1, serial := some false } (fun s =>
    if s.g.arrivalDone then
      if s.phaseOver s.cur n.toNat then barrierDone s n.toNat else waitBarrier s n.toNat
    else
      match tryArrive s n.toNat with
      | .ok s => waitBarrier (s.modGroup s.cur fun g => { g with arrivalDone := true }) n.toNat
      | .error s => .hold (if s.g.wait == .none then s else s.leaveClass s.cur .hint)) s

/-- PROMOTE: asks for promotion or demotion; it alters timing only (R162, R181). One that asks for demotion ends the hint
class of a herd group too, one displaced or without a slot. DEDUCED, log entry 114. -/
def execPromote (up : BitVec 1) (s : State) : Host.Outcome State Fault Refusal :=
  perform (.promote up) { serial := some false } (fun s =>
    .done (if up = 1 then s.gainClass s.cur .hint else s.leaveClass s.cur .hint) .seq) s

end Sys2Proof.Machine
end

