-- ==== Sys2Proof/Machine/Convert.lean ====
section
/-! DEFINITION. Conversion, packing, tags and the random state (R38, R39, R101 to R105). -/

namespace Sys2Proof.Machine

/-! ### CVT (R101) -/

/-- An integer wrapped to a width and extended as its sign says. -/
def wrapInt (width : Nat) (signed : Bool) (v : Int) : Int :=
  let m := v % 2 ^ width
  if signed && 2 ^ (width - 1) ≤ m then m - 2 ^ width else m

/-- The range of an integer type. -/
def rangeOf (width : Nat) (signed : Bool) : Int × Int :=
  if signed then (-(2 ^ (width - 1)), 2 ^ (width - 1) - 1) else (0, 2 ^ width - 1)

/-- The value of the source element that CVT converts. -/
def cvtSource (s : BitVec 4) (i : Nat) (w : Word) : Int ⊕ FpVal :=
  match typeFmt s with
  | some t => .inr (t.decode (element t w i))
  | none => .inl (intOf (s == 1) w)

/-- CVT of one value to T: the bits of T's element, or of the extended integer, and the flags (R37, R101). -/
def cvtValue (dflt : RMode) (t : BitVec 4) (rm : BitVec 3) (sat : Bool) (x : Int ⊕ FpVal) : Nat × Flags :=
  match typeFmt t, typeInt t, x with
  | some u, _, .inr v => u.convert (RMode.ofField dflt rm) sat v
  | some u, _, .inl v => u.ofInt (RMode.ofField dflt rm) sat v
  | none, some (w, sg), .inr v =>
    let r := rangeOf w sg
    let (y, f) := toInt (RMode.ofField .rtz rm) r.1 r.2 v
    ((BitVec.ofInt 32 y).toNat, f)
  | none, some (w, sg), .inl v =>
    let r := rangeOf w sg
    ((BitVec.ofInt 32 (if sat then max r.1 (min r.2 v) else wrapInt w sg v)).toNat, 0)
  | none, none, _ => (0, 0)

/-- Whether a type is packed: 8 to 11 (R101). -/
def packedType (t : BitVec 4) : Bool := 8 ≤ t.toNat && t.toNat ≤ 11

/-- A value put in a lane: a packed one replaces element j (R101). -/
def putValue (t : BitVec 4) (j : Nat) (old : Word) (v : Nat) : Word :=
  match packedType t, typeFmt t with
  | true, some u => setElement u old j v
  | _, _ => BitVec.ofNat 32 v

/-- CVT: element i of v(a) in format S converted to format T (R101). -/
def execCvt (d a : BitVec 7) (t sf : BitVec 4) (rm : BitVec 3) (sat : BitVec 1) (i j : BitVec 2) (s : State) :
    Host.Outcome State Fault Refusal :=
  let e := typeTag sf
  vecRun (.cvt d a t sf rm sat i j)
    { vr := if packedType t then [a.toNat, d.toNat] else [a.toNat], vw := [d.toNat], tags := [(.v a.toNat, e)] }
    d.toNat (fun _ => typeTag t)
    (fun g l =>
      let x := g.vsrc a.toNat e l
      let r := cvtValue g.rm t rm (sat == 1) (cvtSource sf i.toNat x.1)
      (putValue t j.toNat (g.lane d.toNat l) r.1, x.2 ||| r.2)) (fun _ => 0) none s

/-! ### The random state (R38) and CVTSR (R39, R102) -/

/-- One advance of a lane's random state (R38). -/
def advanceRandom (x : Word) : Word :=
  let x := x ^^^ (x <<< 13)
  let x := x ^^^ (x >>> 17)
  x ^^^ (x <<< 5)

/-- The group with the random state of its active lanes advanced once. -/
def Group.advanceRng (g : Group) : Group :=
  { g with
    rng := (lanesOf g.xm).foldl (fun m l => m.set 0 l (advanceRandom (g.rng.get 0 l))) g.rng }

/-- CVTSR of one value with the random number u (R39). A finite value beyond the target's range raises the flags
of R36's overflow. DEDUCED, log entry 88. -/
def cvtsr (t : Fmt) (sat : Bool) (u : Word) (v : FpVal) : Nat × Flags :=
  match v with
  | .nan _ => t.convert .rne sat v
  | .inf _ => t.convert .rne sat v
  | .fin neg m e =>
    if m = 0 then (t.signed neg 0, 0)
    else
      let q := t.quantum m e
      let sh := (q - e).toNat
      let n := if q ≤ e then m * pow2 (e - q) else m / 2 ^ sh
      let rem := if q ≤ e then 0 else m % 2 ^ sh
      let bits := t.pack n q
      if t.maxBits < bits || (bits = t.maxBits && rem ≠ 0) then (t.overflow .rne sat neg, fOVF ||| fINX)
      else if rem = 0 then (t.signed neg bits, 0)
      else
        let res := if u.toNat < rem * 2 ^ 32 / 2 ^ sh then bits + 1 else bits
        (t.signed neg res, if res < 2 ^ t.f then fINX ||| fUNF else fINX)

/-- CVTSR (R102). -/
def execCvtsr (d a : BitVec 7) (t : BitVec 4) (sat : BitVec 1) (j : BitVec 2) (s : State) :
    Host.Outcome State Fault Refusal :=
  performG (.cvtsr d a t sat j)
    { vr := [a.toNat, d.toNat], vw := [d.toNat], mask := true, tags := [(.v a.toNat, 3)] } (fun g =>
    let u := (typeFmt t).getD .bf16
    let vals := g.lanes96 fun l =>
      let x := g.vsrc a.toNat 3 l
      let r := cvtsr u (sat == 1) (g.rng.get 0 l) (f32 x.1)
      (setElement u (g.lane d.toNat l) j.toNat r.1, x.2 ||| r.2)
    match g.settle (g.events vals 0)
        (g.advanceRng.setV d.toNat g.xm (fun l => (vals.getD l (0, 0)).1) (typeTag t)) with
    | .ok g' => .ok { g := g' }
    | .error e => .error e) s

/-- VRNG: the new random state of each active lane, tag n32 (R105). -/
def execVrng (d : BitVec 7) (s : State) : Host.Outcome State Fault Refusal :=
  performG (.vrng d) { vw := [d.toNat], mask := true } (pureG fun g =>
    let g := g.advanceRng
    g.setV d.toNat g.xm (fun l => g.rng.get 0 l) 2) s

/-! ### Packing (R103) -/

/-- The tag that a pack writes for its type (R103). -/
def packTag (ty : BitVec 4) : BitVec 4 :=
  match ty.toNat with
  | 5 => 8 | 8 => 4 | 9 => 5 | 10 => 6 | 11 => 7
  | _ => 0

/-- The tag that an unpack writes: i32 for a signed type, n32 for an unsigned one, raw for 0 (R103). -/
def unpackTag (ty : BitVec 4) : BitVec 4 :=
  match ty.toNat with
  | 3 => 1 | 5 => 1 | 4 => 2 | 6 => 2
  | _ => 0

/-- Bits of a width extended as an unpack's type says. -/
def extendBits (ty : BitVec 4) (width v : Nat) : Word :=
  if unpackTag ty = 1 then BitVec.ofInt 32 (wrapInt width true v) else BitVec.ofNat 32 v

/-- PACK2 (R103). -/
def execPack2 (d a : BitVec 7) (b : Src) (ty : BitVec 4) (s : State) : Host.Outcome State Fault Refusal :=
  vecRun (.pack2 d a b ty) (info2 d a b 0 0) d.toNat (fun _ => packTag ty)
    (fun g l => ((g.blane b 0 l).1.extractLsb' 0 16 ++ (g.lane a.toNat l).extractLsb' 0 16, 0)) (fun _ => 0)
    none s

/-- UNPACK2 (R103). -/
def execUnpack2 (d a : BitVec 7) (ty : BitVec 4) (h : BitVec 1) (s : State) :
    Host.Outcome State Fault Refusal :=
  vec1 (.unpack2 d a ty h) d a 0 (unpackTag ty)
    (fun _ x => (extendBits ty 16 (x.toNat / 2 ^ (16 * h.toNat) % 2 ^ 16), 0)) none s

/-- PACK4 (R103). -/
def execPack4 (d a b : BitVec 7) (ty : BitVec 4) (s : State) : Host.Outcome State Fault Refusal :=
  vecRun (.pack4 d a b ty)
    { vr := [a.toNat, a.toNat + 1, b.toNat, b.toNat + 1], vw := [d.toNat]
      pairs := [⟨false, a.toNat⟩, ⟨false, b.toNat⟩] } d.toNat (fun _ => packTag ty)
    (fun g l =>
      ((g.lane (b.toNat + 1) l).extractLsb' 0 8 ++ (g.lane b.toNat l).extractLsb' 0 8 ++
        (g.lane (a.toNat + 1) l).extractLsb' 0 8 ++ (g.lane a.toNat l).extractLsb' 0 8, 0)) (fun _ => 0)
    none s

/-- UNPACK4 (R103). -/
def execUnpack4 (d a : BitVec 7) (ty : BitVec 4) (k : BitVec 2) (s : State) :
    Host.Outcome State Fault Refusal :=
  vec1 (.unpack4 d a ty k) d a 0 (unpackTag ty)
    (fun _ x => (extendBits ty 8 (x.toNat / 2 ^ (8 * k.toNat) % 2 ^ 8), 0)) none s

/-! ### Tags (R104) -/

/-- TAGRD: the tag code of v(a) or s(b), whatever xm holds (R104). -/
def execTagrd (d : BitVec 6) (src : Src) (s : State) : Host.Outcome State Fault Refusal :=
  performG (.tagrd d src) { sr := src.sregs, vr := src.vregs, sw := [d.toNat] }
    (pureG fun g => g.setS d.toNat ((g.btag src).setWidth 32) 2) s

/-- TAGWR: sets a tag and no other bit (R104). -/
def execTagwr (dst : Src) (tag : BitVec 4) (s : State) : Host.Outcome State Fault Refusal :=
  performG (.tagwr dst tag) { sw := dst.sregs, vw := dst.vregs } (pureG fun g =>
    match dst with
    | .v r => { g with v := g.v.put r.toNat { g.vreg r.toNat with tag := tag } }
    | .s r => g.setS r.toNat (g.sval r.toNat) tag) s

end Sys2Proof.Machine
end

