-- ==== Sys2Proof/Machine/Pairs.lean ====
section
/-! DEFINITION. Exact pairs and double-word arithmetic (R117 to R130): the primitives, the sequences of R122,
and the compensated reductions over a fixed tree. -/

namespace Sys2Proof.Machine

/-- Two words and the flags raised beside them. -/
structure PairRes where
  hi : Word
  lo : Word
  flags : Flags := 0
  deriving DecidableEq, Repr

/-- The NaN pair (R35). -/
def nanPair (f : Flags) : PairRes := ⟨nan32, nan32, f⟩

/-- An infinite or zero pair (±x, +0) (R35). -/
def signedPair (neg : Bool) (mag : Nat) (f : Flags) : PairRes :=
  ⟨BitVec.ofNat 32 (Fmt.fp32.signed neg mag), 0, f⟩

/-! ### The primitives (R117 to R119) -/

/-- The pair of a finite exact value x and its rounding: s = RN(x) and e = RN(x - s), a zero e as +0. `pinx`
is raised when e could not be held. -/
def pairOf (rounded : Nat × Flags) (neg : Bool) (m : Nat) (e : Int) : PairRes :=
  match Fmt.fp32.decode rounded.1 with
  | .fin n2 m2 e2 =>
    let (en, em, ee) := sumExact .rne neg m e (!n2) m2 e2
    let r := Fmt.fp32.round .rne false en em ee
    ⟨BitVec.ofNat 32 rounded.1, if r.1 % 2 ^ 31 = 0 then 0 else BitVec.ofNat 32 r.1,
      if r.2 &&& fINX = 0 then 0 else fPINX⟩
  | .inf n => signedPair n Fmt.fp32.inf (fOVF ||| fINX)
  | .nan _ => nanPair 0

/-- The pair of a result that some operand makes a NaN or an infinity (R119). -/
def specialPair (r : Nat × Flags) : PairRes :=
  match Fmt.fp32.decode r.1 with
  | .inf n => signedPair n Fmt.fp32.inf r.2
  | .fin n _ _ => signedPair n 0 r.2
  | .nan _ => nanPair r.2

/-- FADDX of two values (R117, R119). -/
def faddxV (a b : FpVal) : PairRes :=
  let r := Fmt.fp32.add .rne a b
  match a, b with
  | .fin n1 m1 e1, .fin n2 m2 e2 =>
    let (n, m, e) := sumExact .rne n1 m1 e1 n2 m2 e2
    pairOf r n m e
  | _, _ => specialPair r

/-- FADDX of two words. -/
def faddxW (a b : Word) : PairRes := faddxV (f32 a) (f32 b)

/-- FSUBX of two words (R117). -/
def fsubxW (a b : Word) : PairRes := faddxV (f32 a) (f32 b).negate

/-- FMULX of two words (R118, R119). -/
def fmulxW (a b : Word) : PairRes :=
  let r := Fmt.fp32.mul .rne (f32 a) (f32 b)
  match f32 a, f32 b with
  | .fin n1 m1 e1, .fin n2 m2 e2 => pairOf r (n1 != n2) (m1 * m2) (e1 + e2)
  | _, _ => specialPair r

/-! ### The classes of R121 -/

/-- The value of a pair: an opposite-infinity pair counts as a signalling NaN; a zero takes the sign of hi
(R35, R121, R125). -/
def pairVal (hi lo : Word) : FpVal :=
  match f32 hi, f32 lo with
  | .nan s1, .nan s2 => .nan (s1 || s2)
  | .nan s, _ => .nan s
  | _, .nan s => .nan s
  | .inf n1, .inf n2 => if n1 = n2 then .inf n1 else .nan true
  | .inf n, _ => .inf n
  | _, .inf n => .inf n
  | .fin n1 m1 e1, .fin n2 m2 e2 =>
    let q := min e1 e2
    let v := signedAt n1 m1 e1 q + signedAt n2 m2 e2 q
    .fin (if v = 0 then n1 else decide (v < 0)) v.natAbs q

/-- Whether a value is finite. -/
def FpVal.finite : FpVal → Bool
  | .fin _ _ _ => true
  | _ => false

/-! ### The sequences of R122 -/

/-- The steps of a sequence, ended by the first value that is not finite (R121). -/
abbrev Steps := Except PairRes

/-- One rounded step. -/
def step1 (r : Nat × Flags) : Steps Word :=
  match Fmt.fp32.decode r.1 with
  | .nan _ => .error (nanPair fINV)
  | .inf n => .error (signedPair n Fmt.fp32.inf (fOVF ||| fINX))
  | .fin _ _ _ => .ok (BitVec.ofNat 32 r.1)

/-- One step that gives a pair. -/
def stepX (p : PairRes) : Steps PairRes :=
  match f32 p.hi with
  | .nan _ => .error (nanPair fINV)
  | .inf _ => .error { p with flags := fOVF ||| fINX }
  | .fin _ _ _ => .ok p

/-- RN(x + y). -/
def addStep (x y : Word) : Steps Word := step1 (Fmt.fp32.add .rne (f32 x) (f32 y))
/-- RN(x - y). -/
def subStep (x y : Word) : Steps Word := step1 (Fmt.fp32.sub .rne (f32 x) (f32 y))
/-- RN(x * y). -/
def mulStep (x y : Word) : Steps Word := step1 (Fmt.fp32.mul .rne (f32 x) (f32 y))
/-- RN(x / y). -/
def divStep (x y : Word) : Steps Word := step1 (Fmt.fp32.div .rne (f32 x) (f32 y))
/-- RN(x * y + z). -/
def fmaStep (x y z : Word) : Steps Word := step1 (Fmt.fp32.fma .rne (f32 x) (f32 y) (f32 z))

/-- Adds a flag to what a sequence gives, however it ends. -/
def withFlags (f : Flags) (r : Steps PairRes) : Steps PairRes :=
  match r with
  | .ok p => .ok { p with flags := p.flags ||| f }
  | .error p => .error { p with flags := p.flags ||| f }

/-- What a sequence comes to. -/
def ended (r : Steps PairRes) : PairRes :=
  match r with
  | .ok p => p
  | .error p => p

/-- DWADDS (R122). -/
def dwaddsSeq (xh xl y : Word) : Steps PairRes := do
  let p ← stepX (faddxW xh y)
  let v ← addStep xl p.lo
  stepX (faddxW p.hi v)

/-- DWADD (R122). -/
def dwaddSeq (xh xl yh yl : Word) : Steps PairRes := do
  let p ← stepX (faddxW xh yh)
  let t ← stepX (faddxW xl yl)
  let c ← addStep p.lo t.hi
  let v ← stepX (faddxW p.hi c)
  let w ← addStep t.lo v.lo
  stepX (faddxW v.hi w)

/-- DWMULS (R122). -/
def dwmulsSeq (xh xl y : Word) : Steps PairRes := do
  let p ← stepX (fmulxW xh y)
  withFlags p.flags do
    let c3 ← fmaStep xl y p.lo
    stepX (faddxW p.hi c3)

/-- DWMUL (R122). -/
def dwmulSeq (xh xl yh yl : Word) : Steps PairRes := do
  let p ← stepX (fmulxW xh yh)
  withFlags p.flags do
    let t0 ← mulStep xl yl
    let t1 ← fmaStep xh yl t0
    let c2 ← fmaStep xl yh t1
    let c3 ← addStep p.lo c2
    stepX (faddxW p.hi c3)

/-- DWDIV (R122). -/
def dwdivSeq (xh xl yh yl : Word) : Steps PairRes := do
  let th ← divStep xh yh
  let r ← dwmulsSeq yh yl th
  withFlags r.flags do
    let ph ← subStep xh r.hi
    let dl ← subStep xl r.lo
    let d ← addStep ph dl
    let tl ← divStep d yh
    stepX (faddxW th tl)

/-- DWSQRT (R122). -/
def dwsqrtSeq (xh xl : Word) : Steps PairRes := do
  let sh ← step1 (Fmt.fp32.sqrt .rne (f32 xh))
  let p ← stepX (fmulxW sh sh)
  withFlags p.flags do
    let d1 ← subStep xh p.hi
    let d2 ← subStep d1 p.lo
    let d ← addStep d2 xl
    let s2 ← mulStep 0x40000000 sh
    let t ← divStep d s2
    stepX (faddxW sh t)

/-- DWNORM (R121, R122). DEDUCED, log entry 25. -/
def dwnorm (xh xl : Word) : PairRes :=
  match pairVal xh xl with
  | .nan s => nanPair (if s then fINV else 0)
  | .inf n => signedPair n Fmt.fp32.inf 0
  | .fin _ _ _ => if (f32 xl).isZero then ⟨xh, 0, 0⟩ else ended (stepX (faddxW xh xl))

/-- A sum of pairs: special and zero results first, else the sequence (R121). -/
def dwSum (x y : FpVal) (seq : Steps PairRes) : PairRes :=
  let r := Fmt.fp32.add .rne x y
  if x.finite && y.finite then
    match Fmt.fp32.decode r.1 with
    | .fin n 0 _ => if r.2 = 0 then signedPair n 0 0 else ended seq
    | _ => ended seq
  else specialPair r

/-- DWADD (R121, R122). -/
def dwadd (xh xl yh yl : Word) : PairRes :=
  dwSum (pairVal xh xl) (pairVal yh yl) (dwaddSeq xh xl yh yl)

/-- DWADDS (R121, R122). -/
def dwadds (xh xl y : Word) : PairRes := dwSum (pairVal xh xl) (f32 y) (dwaddsSeq xh xl y)

/-- A product of pairs (R121). -/
def dwProd (x y : FpVal) (seq : Steps PairRes) : PairRes :=
  if x.finite && y.finite && !x.isZero && !y.isZero then ended seq
  else specialPair (Fmt.fp32.mul .rne x y)

/-- DWMUL (R121, R122). -/
def dwmul (xh xl yh yl : Word) : PairRes :=
  dwProd (pairVal xh xl) (pairVal yh yl) (dwmulSeq xh xl yh yl)

/-- DWMULS (R121, R122). -/
def dwmuls (xh xl y : Word) : PairRes := dwProd (pairVal xh xl) (f32 y) (dwmulsSeq xh xl y)

/-- DWDIV (R121, R122). -/
def dwdiv (xh xl yh yl : Word) : PairRes :=
  let x := pairVal xh xl
  let y := pairVal yh yl
  if x.finite && y.finite && !x.isZero && !y.isZero then ended (dwdivSeq xh xl yh yl)
  else specialPair (Fmt.fp32.div .rne x y)

/-- DWSQRT (R121, R122). DEDUCED, log entry 25. -/
def dwsqrt (xh xl : Word) : PairRes :=
  match pairVal xh xl with
  | .fin false (_ + 1) _ => ended (dwsqrtSeq xh xl)
  | v => specialPair (Fmt.fp32.sqrt .rne v)

/-! ### Running an instruction on pairs -/

/-- The registers of a pair. -/
def vpair (r : BitVec 7) : List Nat := [r.toNat, r.toNat + 1]

/-- The registers of a B that is a pair. -/
def bpair (b : Src) : Info :=
  match b with
  | .v r => { vr := vpair r }
  | .s r => { sr := [r.toNat, r.toNat + 1] }

/-- The two tags of a pair source (R120). -/
def vpairTags (r : BitVec 7) : List (Reg × BitVec 4) := [(.v r.toNat, 11), (.v (r.toNat + 1), 12)]

/-- Lane l of the second register of B, with the flags that belong to the lane alone. -/
def Group.blane1 (g : Group) (b : Src) (e : BitVec 4) (l : Nat) : Word × Flags :=
  match b with
  | .v r => g.vsrc (r.toNat + 1) e l
  | .s r => ((g.ssrc (r.toNat + 1) e).1, 0)

/-- The flags that the conversions of a scalar pair B share. -/
def Group.bpairShared (g : Group) (b : Src) : Flags :=
  match b with
  | .v _ => 0
  | .s r => (g.ssrc r.toNat 11).2 ||| (g.ssrc (r.toNat + 1) 12).2

/-- The exact-pair counter: 1 for each lane (R130, R336). -/
def cntPair : Option (Nat × Nat) := some (27, 1)

/-- The lane results of an instruction that gives a pair, in the active lanes. -/
def Group.pairs96 (g : Group) (f : Nat → PairRes) : List PairRes :=
  laneList.map fun l => if g.active l then f l else ⟨0, 0, 0⟩

/-- The flag events of lane pairs. -/
def Group.pairEvents (g : Group) (vals : List PairRes) (shared : Flags) : List FlagEvent :=
  laneEvents g.xm (fun l => (vals.getD l ⟨0, 0, 0⟩).flags) ++ sharedEvent g.xm shared

/-- An element-wise instruction that writes the pair v(d):v(d + 1) (R117, R120). -/
def pairRun (i : Instr) (n : Info) (d : BitVec 7) (lane : Group → Nat → PairRes) (shared : Group → Flags)
    (s : State) : Host.Outcome State Fault Refusal :=
  performG i { n with mask := true, vw := vpair d, pairs := ⟨false, d.toNat⟩ :: n.pairs } (fun g =>
    if g.xm = 0 then .ok { g := g }
    else
      let vals := g.pairs96 (lane g)
      match g.settle (g.pairEvents vals (shared g))
          ((g.setV d.toNat g.xm (fun l => (vals.getD l ⟨0, 0, 0⟩).hi) 11).setV (d.toNat + 1) g.xm
            (fun l => (vals.getD l ⟨0, 0, 0⟩).lo) 12) with
      | .ok g' => .ok { g := g', counts := g.counts cntPair }
      | .error t => .error t) s

/-- The long-latency form of pairRun: DWDIV and DWSQRT (R58, R120). -/
def pairLate (i : Instr) (n : Info) (d : BitVec 7) (lane : Group → Nat → PairRes) (shared : Group → Flags)
    (s : State) : Host.Outcome State Fault Refusal :=
  perform i { n with mask := true, vw := vpair d, pairs := ⟨false, d.toNat⟩ :: n.pairs } (fun s =>
    let g := s.g
    if g.xm = 0 then .done s .seq
    else
      let vals := g.pairs96 (lane g)
      match g.settle (g.pairEvents vals (shared g)) g with
      | .ok g' =>
        .done (s.bump.setG
          { g' with
            results := g'.results ++ [{
              id := s.fresh, kind := .compute
              writes := [.vreg d.toNat g.xm (vals.map PairRes.hi) 11,
                .vreg (d.toNat + 1) g.xm (vals.map PairRes.lo) 12]
              counts := g.counts cntPair }] }) .seq
      | .error t => .trap t) s

/-- Adds flags to a pair. -/
def PairRes.plus (p : PairRes) (f : Flags) : PairRes := { p with flags := p.flags ||| f }

/-- A primitive on v(a) and B (R117). -/
def primitive (i : Instr) (d a : BitVec 7) (b : Src) (f : Word → Word → PairRes) (s : State) :
    Host.Outcome State Fault Refusal :=
  pairRun i (info2 d a b 3 3) d (fun g l =>
    let x := g.vsrc a.toNat 3 l
    let y := g.blane b 3 l
    (f x.1 y.1).plus (x.2 ||| y.2)) (fun g => g.bshared b 3) s

/-- FADDX (R117). -/
def execFaddx (d a : BitVec 7) (b : Src) (s : State) : Host.Outcome State Fault Refusal :=
  primitive (.faddx d a b) d a b faddxW s

/-- FSUBX (R117). -/
def execFsubx (d a : BitVec 7) (b : Src) (s : State) : Host.Outcome State Fault Refusal :=
  primitive (.fsubx d a b) d a b fsubxW s

/-- FMULX (R118). -/
def execFmulx (d a : BitVec 7) (b : Src) (s : State) : Host.Outcome State Fault Refusal :=
  primitive (.fmulx d a b) d a b fmulxW s

/-- What an instruction on a pair and a pair B reads. -/
def infoPP (a : BitVec 7) (b : Src) : Info :=
  { bpair b with
    vr := vpair a ++ (bpair b).vr
    pairs := [⟨false, a.toNat⟩, b.pair], tags := vpairTags a ++ [(b.reg, 11), (b.reg1, 12)] }

/-- A lane of an instruction on two pairs. -/
def lanePP (a : BitVec 7) (b : Src) (f : Word → Word → Word → Word → PairRes) (g : Group) (l : Nat) :
    PairRes :=
  let xh := g.vsrc a.toNat 11 l
  let xl := g.vsrc (a.toNat + 1) 12 l
  let yh := g.blane b 11 l
  let yl := g.blane1 b 12 l
  (f xh.1 xl.1 yh.1 yl.1).plus (xh.2 ||| xl.2 ||| yh.2 ||| yl.2)

/-- What an instruction on a pair and one FP32 B reads. -/
def infoPS (a : BitVec 7) (b : Src) : Info :=
  { sr := b.sregs, vr := vpair a ++ b.vregs, pairs := [⟨false, a.toNat⟩]
    tags := vpairTags a ++ [(b.reg, 3)] }

/-- A lane of an instruction on a pair and one FP32 B. -/
def lanePS (a : BitVec 7) (b : Src) (f : Word → Word → Word → PairRes) (g : Group) (l : Nat) : PairRes :=
  let xh := g.vsrc a.toNat 11 l
  let xl := g.vsrc (a.toNat + 1) 12 l
  let y := g.blane b 3 l
  (f xh.1 xl.1 y.1).plus (xh.2 ||| xl.2 ||| y.2)

/-- A lane of an instruction on one pair. -/
def laneP (a : BitVec 7) (f : Word → Word → PairRes) (g : Group) (l : Nat) : PairRes :=
  let xh := g.vsrc a.toNat 11 l
  let xl := g.vsrc (a.toNat + 1) 12 l
  (f xh.1 xl.1).plus (xh.2 ||| xl.2)

/-- What an instruction on one pair reads. -/
def infoP (a : BitVec 7) : Info := { vr := vpair a, pairs := [⟨false, a.toNat⟩], tags := vpairTags a }

/-- DWADD (R120). -/
def execDwadd (d a : BitVec 7) (b : Src) (s : State) : Host.Outcome State Fault Refusal :=
  pairRun (.dwadd d a b) (infoPP a b) d (lanePP a b dwadd) (fun g => g.bpairShared b) s

/-- DWADDS (R120). -/
def execDwadds (d a : BitVec 7) (b : Src) (s : State) : Host.Outcome State Fault Refusal :=
  pairRun (.dwadds d a b) (infoPS a b) d (lanePS a b dwadds) (fun g => g.bshared b 3) s

/-- DWMUL (R120). -/
def execDwmul (d a : BitVec 7) (b : Src) (s : State) : Host.Outcome State Fault Refusal :=
  pairRun (.dwmul d a b) (infoPP a b) d (lanePP a b dwmul) (fun g => g.bpairShared b) s

/-- DWMULS (R120). -/
def execDwmuls (d a : BitVec 7) (b : Src) (s : State) : Host.Outcome State Fault Refusal :=
  pairRun (.dwmuls d a b) (infoPS a b) d (lanePS a b dwmuls) (fun g => g.bshared b 3) s

/-- DWDIV (R120). -/
def execDwdiv (d a : BitVec 7) (b : Src) (look : BitVec 4) (s : State) : Host.Outcome State Fault Refusal :=
  pairLate (.dwdiv d a b look) { infoPP a b with look := some look.toNat } d (lanePP a b dwdiv)
    (fun g => g.bpairShared b) s

/-- DWSQRT (R120). -/
def execDwsqrt (d a : BitVec 7) (look : BitVec 4) (s : State) : Host.Outcome State Fault Refusal :=
  pairLate (.dwsqrt d a look) { infoP a with look := some look.toNat } d (laneP a dwsqrt) (fun _ => 0) s

/-- DWNORM (R120). -/
def execDwnorm (d a : BitVec 7) (s : State) : Host.Outcome State Fault Refusal :=
  pairRun (.dwnorm d a) (infoP a) d (laneP a dwnorm) (fun _ => 0) s

/-- DWCVT to a pair: hi = RN(x), lo = x - hi (R124). -/
def dwToPair (ty : BitVec 4) (x : Word) : PairRes :=
  if ty = 7 then
    match f32 x with
    | .nan s => nanPair (if s then fINV else 0)
    | _ => ⟨x, 0, 0⟩
  else
    let v := intOf (ty == 1) x
    { pairOf (Fmt.fp32.ofInt .rne false v) (v < 0) v.natAbs 0 with flags := 0 }

/-- DWCVT from a pair: the exact value rounded once, or converted to an integer (R37, R124). -/
def dwFromPair (dflt : RMode) (ty : BitVec 4) (rm : BitVec 3) (xh xl : Word) : Word × Flags :=
  let v := pairVal xh xl
  if ty = 7 then toWord (Fmt.fp32.convert (RMode.ofField dflt rm) false v)
  else fpToWord (RMode.ofField .rtz rm) (ty == 1) v

/-- DWCVT (R124). -/
def execDwcvt (d a : BitVec 7) (fromPair : BitVec 1) (ty : BitVec 4) (rm : BitVec 3) (s : State) :
    Host.Outcome State Fault Refusal :=
  if fromPair = 1 then
    vecRun (.dwcvt d a fromPair ty rm) { infoP a with vw := [d.toNat] } d.toNat (fun _ => typeTag ty)
      (fun g l =>
        let xh := g.vsrc a.toNat 11 l
        let xl := g.vsrc (a.toNat + 1) 12 l
        let r := dwFromPair g.rm ty rm xh.1 xl.1
        (r.1, xh.2 ||| xl.2 ||| r.2)) (fun _ => 0) cntPair s
  else
    pairRun (.dwcvt d a fromPair ty rm) { vr := [a.toNat], tags := [(.v a.toNat, typeTag ty)] } d
      (fun g l =>
        let x := g.vsrc a.toNat (typeTag ty) l
        (dwToPair ty x.1).plus x.2) (fun _ => 0) s

/-- DWCMP: compares the exact values of two pairs (R125). -/
def execDwcmp (d : BitVec 6) (a : BitVec 7) (b : Src) (cc : BitVec 4) (s : State) :
    Host.Outcome State Fault Refusal :=
  cmpRun (.dwcmp d a b cc) (infoPP a b) d (fun g l =>
    let xh := g.vsrc a.toNat 11 l
    let xl := g.vsrc (a.toNat + 1) 12 l
    let yh := g.blane b 11 l
    let yl := g.blane1 b 12 l
    let r := fpCompare cc (pairVal xh.1 xl.1) (pairVal yh.1 yl.1)
    (r.1, xh.2 ||| xl.2 ||| yh.2 ||| yl.2 ||| r.2)) (fun g => g.bpairShared b) cntPair s

/-! ### Trees over lanes (R127, R171, R173) -/

/-- A node of a tree: what it holds and the lanes that entered it. -/
structure Node (α : Type) where
  val : α
  lanes : LaneMask
  deriving DecidableEq, Repr

/-- A node of two: the combined value when both hold something, with the flags it raises. -/
def combine {α : Type} (f : α → α → α × Flags) (x y : Option (Node α)) :
    Option (Node α) × List FlagEvent :=
  match x, y with
  | some x, some y =>
    let r := f x.val y.val
    (some ⟨r.1, x.lanes ||| y.lanes⟩, sharedEvent (x.lanes ||| y.lanes) r.2)
  | some x, none => (some x, [])
  | none, y => (y, [])

/-- One level: neighbours are combined in pairs. -/
def halve {α : Type} (f : α → α → α × Flags) :
    List (Option (Node α)) → List (Option (Node α)) × List FlagEvent
  | x :: y :: l =>
    let c := combine f x y
    let r := halve f l
    (c.1 :: r.1, c.2 ++ r.2)
  | l => (l, [])

/-- n levels. -/
def levels {α : Type} (f : α → α → α × Flags) : Nat → List (Option (Node α)) →
    List (Option (Node α)) × List FlagEvent
  | 0, l => (l, [])
  | n + 1, l =>
    let h := halve f l
    let r := levels f n h.1
    (r.1, h.2 ++ r.2)

/-- The fixed tree over 96 lanes: five levels give one result for each beat; then
combine(combine(B[0], B[1]), B[2]) (R127). -/
def tree {α : Type} (f : α → α → α × Flags) (leaves : List (Option (Node α))) :
    Option (Node α) × List FlagEvent :=
  let r := levels f 5 leaves
  let t := combine f (r.1.getD 0 none) (r.1.getD 1 none)
  let u := combine f t.1 (r.1.getD 2 none)
  (u.1, r.2 ++ t.2 ++ u.2)

/-- The leaves of the lanes of a mask. -/
def leavesOf {α : Type} (m : LaneMask) (f : Nat → α) : List (Option (Node α)) :=
  laneList.map fun l => if m.getLsbD l then some ⟨f l, laneBit l⟩ else none

/-! ### Compensated reductions (R126 to R128) -/

/-- Lane l of the input of CREDUCE and CREDSEG: a pair, or an FP32 word beside +0 (R126). -/
def credInput (g : Group) (a : BitVec 7) (single : BitVec 1) (l : Nat) : PairRes :=
  if single = 1 then
    let x := g.vsrc a.toNat 3 l
    ⟨x.1, 0, x.2⟩
  else
    let xh := g.vsrc a.toNat 11 l
    let xl := g.vsrc (a.toNat + 1) 12 l
    ⟨xh.1, xl.1, xh.2 ||| xl.2⟩

/-- The result of R127 over the lanes of a mask, with the flag events of its nodes. -/
def credTree (input : Nat → PairRes) (m : LaneMask) : Word × Word × List FlagEvent :=
  let add (x y : Word × Word) : (Word × Word) × Flags :=
    let r := dwadd x.1 x.2 y.1 y.2
    ((r.hi, r.lo), r.flags)
  match tree add (leavesOf m fun l => ((input l).hi, (input l).lo)) with
  | (none, ev) => (0, 0, ev)
  | (some t, ev) =>
    if popCount t.lanes = 1 then
      let r := dwnorm t.val.1 t.val.2
      (r.hi, r.lo, ev ++ sharedEvent t.lanes r.flags)
    else (t.val.1, t.val.2, ev)

/-- What CREDUCE and CREDSEG read. -/
def credInfo (a : BitVec 7) (c : BitVec 6) (single : BitVec 1) (look : BitVec 4) : Info :=
  { sr := [c.toNat, c.toNat + 1, c.toNat + 2], mask := true, look := some look.toNat
    vr := if single = 1 then [a.toNat] else vpair a
    pairs := if single = 1 then [] else [⟨false, a.toNat⟩]
    tags := if single = 1 then [(.v a.toNat, 3)] else vpairTags a }

/-- Queues the result of a long-latency instruction after its flags are settled. -/
def lateWrites (s : State) (evs : List FlagEvent) (writes : List RegWrite) (counts : List (Nat × Nat)) : Res :=
  let g := s.g
  match g.settle evs g with
  | .ok g' =>
    .done (s.bump.setG
      { g' with
        results := g'.results ++ [{
          id := s.fresh, kind := .compute, writes := writes, counts := counts }] }) .seq
  | .error t => .trap t

/-- CREDUCE: the pair s(d):s(d + 1) takes the sum of the entering lanes (R126, R127). -/
def execCreduce (d : BitVec 6) (a : BitVec 7) (c : BitVec 6) (single : BitVec 1) (look : BitVec 4)
    (s : State) : Host.Outcome State Fault Refusal :=
  let n := credInfo a c single look
  perform (.creduce d a c single look)
    { n with sw := [d.toNat, d.toNat + 1], pairs := ⟨true, d.toNat⟩ :: n.pairs } (fun s =>
    let g := s.g
    if g.xm = 0 then .done s .seq
    else
      let m := g.xm &&& g.triple c.toNat
      let vals := laneList.map (credInput g a single)
      let r := credTree (fun l => vals.getD l ⟨0, 0, 0⟩) m
      lateWrites s (laneEvents m (fun l => (vals.getD l ⟨0, 0, 0⟩).flags) ++ r.2.2)
        [.sreg (g.phys d.toNat) r.1 11, .sreg (g.phys (d.toNat + 1)) r.2.1 12] [(27, popCount (m &&& ~~~g.helper))]) s

/-- Whether a lane starts a segment (R128). -/
def startsSegment (heads : LaneMask) (l : Nat) : Bool := l = 0 || heads.getLsbD l

/-- The segments of a head triple, as masks (R128). -/
def segments (heads : LaneMask) : List LaneMask :=
  let starts := laneList.filter (startsSegment heads)
  (starts.zip (starts.tail ++ [96])).map fun p => maskOf fun l => p.1 ≤ l && l < p.2

/-- CREDSEG: each active lane of a segment takes the segment's sum (R126, R128). -/
def execCredseg (d a : BitVec 7) (c : BitVec 6) (single : BitVec 1) (look : BitVec 4) (s : State) :
    Host.Outcome State Fault Refusal :=
  let n := credInfo a c single look
  perform (.credseg d a c single look)
    { n with vw := vpair d, pairs := ⟨false, d.toNat⟩ :: n.pairs } (fun s =>
    let g := s.g
    if g.xm = 0 then .done s .seq
    else
      let vals := laneList.map fun l => if g.active l then credInput g a single l else ⟨0, 0, 0⟩
      let rs := (segments (g.triple c.toNat)).map fun m =>
        (m, credTree (fun l => vals.getD l ⟨0, 0, 0⟩) (m &&& g.xm))
      let of_ (f : Word × Word × List FlagEvent → Word) := laneList.map fun l =>
        ((rs.find? fun r => r.1.getLsbD l).map fun r => f r.2).getD 0
      lateWrites s
        (laneEvents g.xm (fun l => (vals.getD l ⟨0, 0, 0⟩).flags) ++ rs.flatMap fun r => r.2.2.2)
        [.vreg d.toNat g.xm (of_ fun r => r.1) 11, .vreg (d.toNat + 1) g.xm (of_ fun r => r.2.1) 12]
        (g.counts cntPair)) s

end Sys2Proof.Machine
end

