-- ==== Sys2Proof/Machine/Collect.lean ====
section
/-! DEFINITION. Quad exchange (R168) and group collectives (R169 to R176). -/

namespace Sys2Proof.Machine

/-! ### Quad exchange (R168) -/

/-- Moves values among the lanes of a quad: lane l takes position `src p` of its quad, p = l mod 4 (R168). -/
def quadMove (i : Instr) (d a : BitVec 7) (src : Nat → Nat) (s : State) : Host.Outcome State Fault Refusal :=
  vecRun i { vr := [a.toNat], vw := [d.toNat] } d.toNat (fun g => (g.vreg a.toNat).tag)
    (fun g l => (g.lane a.toNat (l / 4 * 4 + src (l % 4)), 0)) (fun _ => 0) none s

/-- QSWAPX (R168). -/
def execQswapx (d a : BitVec 7) (s : State) : Host.Outcome State Fault Refusal :=
  quadMove (.qswapx d a) d a (· ^^^ 1) s

/-- QSWAPY (R168). -/
def execQswapy (d a : BitVec 7) (s : State) : Host.Outcome State Fault Refusal :=
  quadMove (.qswapy d a) d a (· ^^^ 2) s

/-- QSWAPD (R168). -/
def execQswapd (d a : BitVec 7) (s : State) : Host.Outcome State Fault Refusal :=
  quadMove (.qswapd d a) d a (· ^^^ 3) s

/-- QBCAST (R168). -/
def execQbcast (d a : BitVec 7) (k : BitVec 2) (s : State) : Host.Outcome State Fault Refusal :=
  quadMove (.qbcast d a k) d a (fun _ => k.toNat) s

/-! ### Group collectives -/

/-- Combine of R170 on two words that carry a type. -/
def collOp (g : Group) (op : BitVec 3) (ty : BitVec 4) (rm : BitVec 3) (x y : Word) : Word × Flags :=
  match op.toNat with
  | 0 =>
    if ty = 7 then ftzOut g.ftz (toWord (Fmt.fp32.add (RMode.ofField g.rm rm) (f32 x) (f32 y)))
    else (x + y, 0)
  | 1 => if ty = 7 then fpMinMax false x y else (pick (if ty = 1 then x.slt y else x.ult y) x y, 0)
  | 2 => if ty = 7 then fpMinMax true x y else (pick (if ty = 1 then y.slt x else y.ult x) x y, 0)
  | 3 => (x &&& y, 0)
  | 4 => (x ||| y, 0)
  | _ => (x ^^^ y, 0)

/-- The empty value of an operation and type (R170). -/
def collEmpty (op : BitVec 3) (ty : BitVec 4) : Word :=
  match op.toNat with
  | 1 => if ty = 7 then 0x7F800000 else if ty = 1 then 0x7FFFFFFF else 0xFFFFFFFF
  | 2 => if ty = 7 then 0xFF800000 else if ty = 1 then 0x80000000 else 0
  | 3 => 0xFFFFFFFF
  | _ => 0

/-- Lane l as it enters: read under the type's tag, and flushed under FTZ for f32 (R170). -/
def collInput (g : Group) (a : BitVec 7) (ty : BitVec 4) (l : Nat) : Word × Flags :=
  let x := g.vsrc a.toNat (typeTag ty) l
  (if ty = 7 then ftzIn g.ftz x.1 else x.1, x.2)

/-- The exact sum of the lanes of a mask, clamped to the type's range (R170). -/
def satSum (ty : BitVec 4) (vals : Nat → Word) (m : LaneMask) : Word :=
  let v := (lanesOf m).foldl (fun acc l => acc + intOf (ty == 1) (vals l)) (0 : Int)
  let r := intRange (ty == 1)
  BitVec.ofInt 32 (max r.1 (min r.2 v))

/-- The result of R171 over the lanes of a mask, with the flag events of its nodes. -/
def collTree (g : Group) (op : BitVec 3) (ty : BitVec 4) (rm : BitVec 3) (sat : BitVec 1)
    (vals : Nat → Word) (m : LaneMask) : Word × List FlagEvent :=
  if sat = 1 then (satSum ty vals m, [])
  else
    match tree (collOp g op ty rm) (leavesOf m vals) with
    | (some t, ev) => (t.val, ev)
    | (none, ev) => (collEmpty op ty, ev)

/-- What a collective adds to vector FP, f32 (R176). -/
def collCounts (g : Group) (op : BitVec 3) (ty : BitVec 4) (m : LaneMask) : List (Nat × Nat) :=
  if ty = 7 ∧ op.toNat ≤ 2 then [(24, popCount (m &&& ~~~g.helper))] else []

/-- The inputs of the lanes of a mask, once each. -/
def collInputs (g : Group) (a : BitVec 7) (ty : BitVec 4) (m : LaneMask) : List (Word × Flags) :=
  laneList.map fun l => if m.getLsbD l then collInput g a ty l else (0, 0)

/-- GREDUCE (R171, R172). -/
def execGreduce (d : BitVec 6) (a : BitVec 7) (c : BitVec 6) (op : BitVec 3) (ty : BitVec 4) (rm : BitVec 3)
    (sat : BitVec 1) (look : BitVec 4) (s : State) : Host.Outcome State Fault Refusal :=
  perform (.greduce d a c op ty rm sat look)
    { sr := [c.toNat, c.toNat + 1, c.toNat + 2], sw := [d.toNat], vr := [a.toNat], mask := true
      tags := [(.v a.toNat, typeTag ty)], look := some look.toNat } (fun s =>
    let g := s.g
    if g.xm = 0 then .done s .seq
    else
      let m := g.xm &&& g.triple c.toNat
      let vals := collInputs g a ty m
      let r := collTree g op ty rm sat (fun l => (vals.getD l (0, 0)).1) m
      lateWrites s (laneEvents m (fun l => (vals.getD l (0, 0)).2) ++ r.2)
        [.sreg (g.phys d.toNat) r.1 (typeTag ty)] (collCounts g op ty m)) s

/-- One step of the fold of GSCAN: the lanes that have entered, the value so far, each lane's inclusive and
exclusive value, and the flag events. -/
structure Scan where
  lanes : LaneMask := 0
  acc : Option Word := none
  exact : Int := 0
  incl : AMap Word := []
  excl : AMap Word := []
  events : List FlagEvent := []
  deriving DecidableEq, Repr

/-- The fold of R173 from the left over the entering lanes. DEDUCED, log entry 22. -/
def scanStep (g : Group) (op : BitVec 3) (ty : BitVec 4) (rm : BitVec 3) (sat : BitVec 1)
    (vals : Nat → Word) (z : Scan) (l : Nat) : Scan :=
  let lanes := z.lanes ||| laneBit l
  if sat = 1 then
    let r := intRange (ty == 1)
    let clamp (v : Int) : Word := BitVec.ofInt 32 (max r.1 (min r.2 v))
    let v := z.exact + intOf (ty == 1) (vals l)
    { z with lanes := lanes, exact := v, incl := z.incl ++ [(l, clamp v)], excl := z.excl ++ [(l, clamp z.exact)] }
  else
    match z.acc with
    | none =>
      { z with
        lanes := lanes, acc := some (vals l), incl := z.incl ++ [(l, vals l)]
        excl := z.excl ++ [(l, collEmpty op ty)] }
    | some x =>
      let r := collOp g op ty rm x (vals l)
      { z with
        lanes := lanes, acc := some r.1, incl := z.incl ++ [(l, r.1)], excl := z.excl ++ [(l, x)]
        events := z.events ++ sharedEvent lanes r.2 }

/-- GSCAN (R173). -/
def execGscan (d a : BitVec 7) (op : BitVec 3) (excl : BitVec 1) (ty : BitVec 4) (rm : BitVec 3)
    (sat : BitVec 1) (look : BitVec 4) (s : State) : Host.Outcome State Fault Refusal :=
  perform (.gscan d a op excl ty rm sat look)
    { vr := [a.toNat], vw := [d.toNat], mask := true, tags := [(.v a.toNat, typeTag ty)]
      look := some look.toNat } (fun s =>
    let g := s.g
    if g.xm = 0 then .done s .seq
    else
      let vals := collInputs g a ty g.xm
      let z := (lanesOf g.xm).foldl (scanStep g op ty rm sat fun l => (vals.getD l (0, 0)).1) {}
      let out := if excl = 1 then z.excl else z.incl
      lateWrites s (laneEvents g.xm (fun l => (vals.getD l (0, 0)).2) ++ z.events)
        [.vreg d.toNat g.xm (laneList.map fun l => out.get 0 l) (typeTag ty)] (collCounts g op ty g.xm)) s

/-- GSEGRED (R174). -/
def execGsegred (d a : BitVec 7) (c : BitVec 6) (op : BitVec 3) (ty : BitVec 4) (rm : BitVec 3)
    (sat : BitVec 1) (look : BitVec 4) (s : State) : Host.Outcome State Fault Refusal :=
  perform (.gsegred d a c op ty rm sat look)
    { sr := [c.toNat, c.toNat + 1, c.toNat + 2], vr := [a.toNat], vw := [d.toNat], mask := true
      tags := [(.v a.toNat, typeTag ty)], look := some look.toNat } (fun s =>
    let g := s.g
    if g.xm = 0 then .done s .seq
    else
      let vals := collInputs g a ty g.xm
      let rs := (segments (g.triple c.toNat)).map fun m =>
        (m, collTree g op ty rm sat (fun l => (vals.getD l (0, 0)).1) (m &&& g.xm))
      let out := laneList.map fun l => ((rs.find? fun r => r.1.getLsbD l).map fun r => r.2.1).getD 0
      lateWrites s (laneEvents g.xm (fun l => (vals.getD l (0, 0)).2) ++ rs.flatMap fun r => r.2.2)
        [.vreg d.toNat g.xm out (typeTag ty)] (collCounts g op ty g.xm)) s

/-- What GMATCH gives lane l: leader, count or rank among the active lanes whose words are equal (R175). -/
def matchOf (g : Group) (a : BitVec 7) (mode : BitVec 2) (l : Nat) : Word :=
  let same := (lanesOf g.xm).filter fun k => g.lane a.toNat k == g.lane a.toNat l
  match mode.toNat with
  | 0 => BitVec.ofNat 32 (same.headD l)
  | 1 => BitVec.ofNat 32 same.length
  | _ => BitVec.ofNat 32 (same.filter (· < l)).length

/-- GMATCH (R175). -/
def execGmatch (d a : BitVec 7) (mode : BitVec 2) (look : BitVec 4) (s : State) :
    Host.Outcome State Fault Refusal :=
  perform (.gmatch d a mode look)
    { vr := [a.toNat], vw := [d.toNat], mask := true, look := some look.toNat } (fun s =>
    let g := s.g
    if g.xm = 0 then .done s .seq
    else
      lateWrites s []
        [.vreg d.toNat g.xm (laneList.map fun l => if g.active l then matchOf g a mode l else 0) 2] []) s

end Sys2Proof.Machine
end

