-- ==== Sys2Proof/Machine/Control.lean ====
section
/-! DEFINITION. Masks (R86), branches, jumps, calls, YIELD, HALT (R60, R61, R83 to R85). -/

namespace Sys2Proof.Machine

/-! ### Masks -/

/-- The three scalars of a triple. -/
def tripleRegs (r : BitVec 6) : List Nat := [r.toNat, r.toNat + 1, r.toNat + 2]

/-- The tags that a triple named by a field is expected to carry (R86). -/
def tripleTags (r : BitVec 6) : List (Reg × BitVec 4) := (tripleRegs r).map fun n => (.s n, 13)

/-- Runs a mask instruction on two triples. -/
def mask2 (i : Instr) (d a b : BitVec 6) (f : LaneMask → LaneMask → LaneMask) (s : State) :
    Host.Outcome State Fault Refusal :=
  performG i { sr := tripleRegs a ++ tripleRegs b, sw := tripleRegs d, tags := tripleTags a ++ tripleTags b }
    (pureG fun g => g.setTriple d.toNat (f (g.triple a.toNat) (g.triple b.toNat))) s

/-- MAND: A and B (R86). -/
def execMand (d a b : BitVec 6) (s : State) : Host.Outcome State Fault Refusal :=
  mask2 (.mand d a b) d a b (· &&& ·) s

/-- MOR: A or B (R86). -/
def execMor (d a b : BitVec 6) (s : State) : Host.Outcome State Fault Refusal :=
  mask2 (.mor d a b) d a b (· ||| ·) s

/-- MXOR: A xor B (R86). -/
def execMxor (d a b : BitVec 6) (s : State) : Host.Outcome State Fault Refusal :=
  mask2 (.mxor d a b) d a b (· ^^^ ·) s

/-- MANDN: A and not B (R86). -/
def execMandn (d a b : BitVec 6) (s : State) : Host.Outcome State Fault Refusal :=
  mask2 (.mandn d a b) d a b (fun x y => x &&& ~~~y) s

/-- MNOT: not A, all 96 bits (R86). -/
def execMnot (d a : BitVec 6) (s : State) : Host.Outcome State Fault Refusal :=
  performG (.mnot d a) { sr := tripleRegs a, sw := tripleRegs d, tags := tripleTags a }
    (pureG fun g => g.setTriple d.toNat (~~~g.triple a.toNat)) s

/-- MPOPC: the number of one bits in A, tag n32 (R86). -/
def execMpopc (d a : BitVec 6) (s : State) : Host.Outcome State Fault Refusal :=
  performG (.mpopc d a) { sr := tripleRegs a, sw := [d.toNat], tags := tripleTags a }
    (pureG fun g => g.setS d.toNat (BitVec.ofNat 32 (popCount (g.triple a.toNat))) 2) s

/-- MFIRST: the lowest lane of A, or 96, tag n32 (R86). -/
def execMfirst (d a : BitVec 6) (s : State) : Host.Outcome State Fault Refusal :=
  performG (.mfirst d a) { sr := tripleRegs a, sw := [d.toNat], tags := tripleTags a }
    (pureG fun g => g.setS d.toNat (BitVec.ofNat 32 ((lanesOf (g.triple a.toNat)).headD 96)) 2) s

/-- MSETX: D := X; then xm := X and A (R86). -/
def execMsetx (d a : BitVec 6) (s : State) : Host.Outcome State Fault Refusal :=
  performG (.msetx d a)
    { sr := tripleRegs a, sw := tripleRegs d ++ [61, 62, 63], mask := true, tags := tripleTags a }
    (pureG fun g => (g.setTriple d.toNat g.xm).setTriple 61 (g.xm &&& g.triple a.toNat)) s

/-- MGETX: D := X (R86). -/
def execMgetx (d : BitVec 6) (s : State) : Host.Outcome State Fault Refusal :=
  performG (.mgetx d) { sw := tripleRegs d, mask := true } (pureG fun g => g.setTriple d.toNat g.xm) s

/-- MTEST: bit 0 when A and X is not empty, bit 1 when it is X, tag n32 (R86). -/
def execMtest (d a : BitVec 6) (s : State) : Host.Outcome State Fault Refusal :=
  performG (.mtest d a) { sr := tripleRegs a, sw := [d.toNat], mask := true, tags := tripleTags a }
    (pureG fun g =>
      let t := g.triple a.toNat &&& g.xm
      g.setS d.toNat (bit (t != 0) + 2 * bit (t == g.xm)) 2) s

/-! ### Transfers -/

/-- H + 4 * disp, exactly (R60). DEDUCED, log entry 16. -/
def target (h : Addr) (disp : BitVec 15) : Int := h.toNat + 4 * disp.toInt

/-- A transfer to an address: one below 0 or above 2^56 - 1 raises a protection fault at the transferring
instruction (R83). -/
def transfer (g : Group) (t : Int) : Except Trap Flow :=
  if t < 0 || 2 ^ 56 ≤ t then .error ⟨0x0A, (t % 2 ^ 64).toNat, g.xm, 0⟩
  else .ok (.jump (BitVec.ofNat 56 t.toNat))

/-- Whether a branch condition that reads one scalar holds (R60). -/
def condScalar (cond : BitVec 4) (v : Word) : Bool :=
  match cond.toNat with
  | 0 => true
  | 1 => v == 0
  | 2 => v != 0
  | 3 => v.slt 0
  | 4 => !v.slt 0
  | 5 => (0 : Word).slt v
  | _ => v.sle 0

/-- Whether a branch condition on T and xm holds: mall, many, mnone, mnall (R60). -/
def condMask (cond : BitVec 4) (t x : LaneMask) : Bool :=
  match cond.toNat with
  | 8 => t &&& x == x
  | 9 => t &&& x != 0
  | 10 => t &&& x == 0
  | _ => t &&& x != x

/-- An effect that leaves the group as given and takes a flow, or its fault. -/
def flowEff (g : Group) (f : Except Trap Flow) : Except Trap Eff :=
  match f with
  | .ok f => .ok { g := g, flow := f }
  | .error t => .error t

/-- BR: transfers to H + 4 * disp when the condition holds; U on a mask condition asserts that T and xm is
empty or xm (R60, R61, R83). -/
def execBr (u : BitVec 1) (cond : BitVec 4) (sc : BitVec 6) (disp : BitVec 15) (s : State) :
    Host.Outcome State Fault Refusal :=
  let onMask := decide (8 ≤ cond.toNat)
  performG (.br u cond sc disp)
    { sr := if onMask then tripleRegs sc else if cond = 0 then [] else [sc.toNat], mask := onMask }
    (fun g =>
      if onMask then
        let t := g.triple sc.toNat
        let m := t &&& g.xm
        if u = 1 ∧ m ≠ 0 ∧ m ≠ g.xm then .error ⟨0x04, popCount m, m, 0⟩
        else if condMask cond t g.xm then flowEff g (transfer g (target g.pc disp))
        else .ok { g := g }
      else if condScalar cond (g.sval sc.toNat) then flowEff g (transfer g (target g.pc disp))
      else .ok { g := g }) s

/-- JMP (R83). -/
def execJmp (disp : BitVec 15) (s : State) : Host.Outcome State Fault Refusal :=
  performG (.jmp disp) {} (fun g => flowEff g (transfer g (target g.pc disp))) s

/-- CALL: the pair takes the address of the clause after this one, tag addr (R83). -/
def execCall (sc : BitVec 6) (disp : BitVec 15) (s : State) : Host.Outcome State Fault Refusal :=
  performG (.call sc disp) { sw := [sc.toNat, sc.toNat + 1], pairs := [⟨true, sc.toNat⟩] } (fun g =>
    let r := nextHeader g.pc g.code.words.length
    flowEff ((g.setS sc.toNat (r.setWidth 32) 14).setS (sc.toNat + 1) ((r.extractLsb' 32 24).setWidth 32) 14)
      (transfer g (target g.pc disp))) s

/-- RET: to the address in a pair; a high byte that is not zero is a protection fault, low bits that are not
zero a misaligned one (R13, R83). -/
def execRet (sc : BitVec 6) (s : State) : Host.Outcome State Fault Refusal :=
  performG (.ret sc) { sr := [sc.toNat, sc.toNat + 1], pairs := [⟨true, sc.toNat⟩] } (fun g =>
    let t := g.pairNat sc.toNat
    if 2 ^ 56 ≤ t then .error ⟨0x0A, t, g.xm, 0⟩
    else if t % 4 ≠ 0 then .error ⟨0x0D, t, g.xm, 0⟩
    else .ok { g := g, flow := .jump (BitVec.ofNat 56 t) }) s

/-- JMPI: to H + 4 * s(sc) as i32 (R83). -/
def execJmpi (sc : BitVec 6) (s : State) : Host.Outcome State Fault Refusal :=
  performG (.jmpi sc) { sr := [sc.toNat] } (fun g =>
    flowEff g (transfer g (g.pc.toNat + 4 * (g.sval sc.toNat).toInt))) s

/-- LOOP: s(sc) - 1, tag i32; transfers while the new value is not zero (R83). -/
def execLoop (sc : BitVec 6) (disp : BitVec 15) (s : State) : Host.Outcome State Fault Refusal :=
  performG (.loop sc disp) { sr := [sc.toNat], sw := [sc.toNat] } (fun g =>
    let v := g.sval sc.toNat - 1
    let g' := g.setS sc.toNat v 1
    if v ≠ 0 then flowEff g' (transfer g (target g.pc disp)) else .ok { g := g' }) s

/-- NOP (R83). -/
def execNop (s : State) : Host.Outcome State Fault Refusal := performG .nop {} (pureG id) s

/-- IPREF: asks the cluster's instruction cache for the block that holds H + 4 * disp (R83). -/
def execIpref (disp : BitVec 15) (s : State) : Host.Outcome State Fault Refusal :=
  perform (.ipref disp) {} (fun s => .done (s.askCode s.cur (target s.g.pc disp)) .seq) s

/-- HALT: ends the group. With a deferred fault pending it acts first as a clause boundary, and in trap mode
it writes the pending faults as records (R85). A promoted group is demoted before it halts (R161, R162). It issues once
every result of the group is written, in either engine (R73, R311). DEDUCED, log entry 90. -/
def execHalt (s : State) : Host.Outcome State Fault Refusal :=
  perform .halt { ends := some 3, serial := some true } (fun s =>
    let g := s.g
    let halt (s : State) : Res :=
      if g.engine = .sprinter then .hold ((s.demote s.cur).modGroup s.cur fun g => { g with demoteNext := true })
      else .done (s.haltGroup s.cur) .ended
    match g.pending with
    | [] => halt s
    | p :: ps =>
      if g.trapMode then halt (s.flushPending s.cur)
      else if g.quiet then
        let s' := s.modGroup s.cur fun g => { g with pending := ps }
        .hold (match p with
          | .lateStore site n => s'.vector s.cur ⟨0x11, n, 0, 0⟩ g.pc g.word site
          | .engine site st => s'.vector s.cur ⟨0x12, st, g.xm, 0⟩ g.pc g.word site)
      else .hold s) s

/-- The command of a group with a ticket, while it is outstanding (R243). -/
def State.outstanding (s : State) (k : Nat) (t : Word) : Bool :=
  s.cmds.any fun c => c.2.group == k && !c.2.saved && c.2.ticket == t

/-- A ticket or batch beyond the last one given (R84, R243). -/
def beyond (last t : Word) : Bool := 2 ^ 31 ≤ (last - t).toNat

/-- YIELD: to the continuation clause; with a ticket the group waits for the command, and a promoted group is
demoted before it does (R84). A continuation below 0 or above 2^56 - 1 is a protection fault at the YIELD.
DEDUCED, log entries 16 and 93. -/
def execYield (sc : BitVec 6) (disp : BitVec 15) (s : State) : Host.Outcome State Fault Refusal :=
  perform (.yield sc disp)
    { sr := if sc = 63 then [] else [sc.toNat], closes := true, ends := some 1, serial := some false } (fun s =>
    let g := s.g
    let t := g.sval sc.toNat
    if sc ≠ 63 ∧ beyond g.ticket t then .trap ⟨0x12, 3, g.xm, 0⟩
    else match transfer g (target g.pc disp) with
      | .error e => .trap e
      | .ok f =>
        if sc ≠ 63 ∧ s.outstanding s.cur t then
          .done (((s.leaveClass s.cur .hint).demote s.cur).modGroup s.cur fun g => { g with wait := .ticket t true }) f
        else .done s f) s

end Sys2Proof.Machine
end

