-- ==== Sys2Proof/Machine/Engines.lean ====
section
/-! DEFINITION. The engine commands and controls as they issue (R241 to R277): operand blocks, the checks of
R264, range locks (R214, R245), tickets and batches. What the engines then do is in EngineWork.lean. -/

namespace Sys2Proof.Machine

/-! ### Operand blocks -/

/-- The operand block: the eight scalars from sbase as plain bits (R263). -/
def Group.block (g : Group) (sbase : BitVec 6) : List Word :=
  (List.range 8).map fun i => g.sval (sbase.toNat + i)

/-- Word i of a block. -/
def word (b : List Word) (i : Nat) : Nat := (b.getD i 0).toNat

/-- Bits lo to lo + n - 1 of word i of a block. -/
def field (b : List Word) (i lo n : Nat) : Nat := word b i / 2 ^ lo % 2 ^ n

/-- A 16-bit field as a signed number. -/
def signed16 (n : Nat) : Int := (BitVec.ofNat 16 n).toInt

/-- Bytes of an element size code of CPY, GATH and SCAT (R267). -/
def elemBytes (code : Nat) : Nat := 2 ^ code

/-- An engine fault raised at issue with a status (R264, R265). DEDUCED, log entry 32. -/
def engineTrap (g : Group) (status : Nat) : Trap := ⟨0x12, status, g.xm, 0⟩

/-- Check 1 of R264. -/
def checkFields (g : Group) (ok : Bool) : Except Trap Unit :=
  if ok then .ok () else .error (engineTrap g 1)

/-- Check 4 of R264: the first value of the list that is no multiple of its alignment. -/
def checkAligned (g : Group) (l : List (Nat × Nat)) : Except Trap Unit :=
  match l.find? fun p => p.1 % p.2 != 0 with
  | some p => .error ⟨0x0D, p.1, g.xm, 0⟩
  | none => .ok ()

/-- Check 5 of R264: the first range, given by offset and length, that passes SCRATCH. -/
def checkBounds (g : Group) (scratch : Nat) (l : List (Nat × Nat)) : Except Trap Unit :=
  match l.find? fun p => scratch < p.1 + p.2 with
  | some p => .error ⟨0x0A, p.1, g.xm, 0⟩
  | none => .ok ()

/-- Check 2 of R264 for a register named in a block: its number, then its tag. -/
def checkReg (g : Group) (r : Nat) (tag : BitVec 4) : Except Trap Unit :=
  if g.n ≤ r then .error (engineTrap g 4)
  else if g.fmt && !tagMatches (g.vreg r).tag tag then
    .error ⟨0x06, (g.vreg r).tag.toNat + 16 * tag.toNat + 256 * (Reg.v r).code, g.xm, 0⟩
  else .ok ()

/-- The group's own team's SCRATCH. -/
def State.scratchOf (s : State) (k : Nat) : Nat :=
  ((s.teams.find? (s.group k).team).map fun t => t.scratch).getD 0

/-- A range-lock entry of the group's own team: bytes [o, o + n) (R245). -/
def State.ownLock (s : State) (k o n : Nat) (dest : Bool) : Nat × RangeLock :=
  (coreOf k, { cmd := 0, team := (s.group k).team, lo := o, hi := o + n, dest := dest })

/-! ### Issue (R214, R241, R243, R248, R264) -/

/-- The matrix commands. -/
def CmdKind.isMatrix : CmdKind → Bool
  | .mma => true
  | .mmas => true
  | .mmag => true
  | _ => false

/-- A group's incomplete commands. -/
def State.groupCmds (s : State) (k : Nat) : AMap Cmd := s.cmds.filter fun c => c.2.group == k && !c.2.saved

/-- Whether two entries of one table conflict: a destination overlaps any entry (R214). -/
def RangeLock.conflicts (a b : RangeLock) : Bool :=
  a.team == b.team && a.lo < b.hi && b.lo < a.hi && (a.dest || b.dest)

/-- Whether the range-lock tables can take entries now: they are free of conflict and find room (R214). -/
def State.locksFree (s : State) (ents : List (Nat × RangeLock)) : Bool :=
  ents.all fun e => (s.core e.1).locks.all (fun l => !e.2.conflicts l) &&
    (s.core e.1).locks.length + (ents.filter fun f => f.1 == e.1).length ≤ 32

/-- Whether a group's command can be taken now: the range-lock tables take its entries, the matrix queue has a place,
and the group has fewer than 32 incomplete commands. -/
def State.canTake (s : State) (k : Nat) (ents : List (Nat × RangeLock)) (matrix : Bool) : Bool :=
  s.locksFree ents && (!matrix || (s.cmds.filter fun c =>
    c.2.core == coreOf k && c.2.kind.isMatrix && !c.2.saved && c.2.phase == .queued).length < 16) &&
  (s.groupCmds k).length < 32

/-- Whether a command issues behind one of another group that has waited longer and needs an entry of the same
range-lock table or a place in the same matrix queue: waiting commands are taken in issue order (R214). -/
def State.behind (s : State) (k since : Nat) (ents : List (Nat × RangeLock)) (matrix : Bool) : Bool :=
  s.groups.any fun p =>
    match p.2.wait with
    | .command es m =>
      p.1 != k && (p.2.heldSince.getD 0) < since &&
        (es.any (fun e => ents.any fun f => f.1 == e.1) || (matrix && m && coreOf p.1 == coreOf k))
    | _ => false

/-- A command that has passed its checks: what it is, its entries, its wait counter, and its own fields. -/
structure CmdReq where
  kind : CmdKind
  block : List Word
  ents : List (Nat × RangeLock) := []
  counter : Option Nat := none
  init : Cmd → Cmd := id

/-- Holds the group at a command that may not be taken yet. -/
def State.holdCommand (s : State) (ents : List (Nat × RangeLock)) (matrix : Bool) : State :=
  let since := s.g.heldSince.getD s.fresh
  s.bump.setG { s.g with wait := .command ents matrix, heldSince := some since }

/-- The next ticket of a group (R241). -/
def Group.nextTicket (g : Group) : Word := g.ticket + 1

/-- The state in which the group has been given its next ticket, written to s(tdest) unless that is 63. -/
def State.giveTicket (s : State) (tdest : BitVec 6) : State :=
  let g := s.g
  let g := { g with ticket := g.nextTicket, heldSince := none }
  s.setG (if tdest = 63 then g else g.setS tdest.toNat g.ticket 2)

/-- Issues a command: it waits for its entries and places, and then takes its ticket, its entries and its
counter (R241, R264). -/
def State.issueCmd (s : State) (r : CmdReq) (tdest : BitVec 6) : Except State State :=
  let g := s.g
  let k := s.cur
  if !s.canTake k r.ents r.kind.isMatrix || s.behind k (g.heldSince.getD s.fresh) r.ents r.kind.isMatrix then
    .error (s.holdCommand r.ents r.kind.isMatrix)
  else
    let id := s.fresh
    let site : Site := { g.site with ticket := g.nextTicket }
    let c : Cmd :=
      { group := k, ctx := g.ctx, grid := g.grid, team := g.team, core := coreOf k, kind := r.kind
        ticket := g.nextTicket, site := site, block := r.block, counter := r.counter
        step := (s.context g.ctx).step
        old := if tdest = 63 then none else some (g.phys tdest.toNat, g.sreg tdest.toNat) }
    let s := r.ents.foldl (fun s e => s.modCore e.1 fun x => { x with locks := x.locks ++ [{ e.2 with cmd := id, from_ := s.coreCycle e.1 + 1 }] }) s
    let s := { s.bump with cmds := s.cmds.put id (r.init c) }
    let s := match r.counter with
      | some i => s.modGroup k fun g => g.raiseCounter i
      | none => s
    .ok (s.giveTicket tdest)

/-- What a command reads and writes: its block and its ticket's scalar. In the sprinter it issues at its retirement
(R241, R263). DEDUCED, log entry 30. -/
def cmdInfo (sbase tdest : BitVec 6) : Info :=
  { sr := (List.range 8).map (sbase.toNat + ·), sw := if tdest = 63 then [] else [tdest.toNat], ends := some 1
    serial := some false, beside := true }

/-- The effect of a command that passes its checks, or its fault. -/
def issueChecked (tdest : BitVec 6) (acq : Bool) (flow : Flow) (s : State) (plan : Except Trap CmdReq) : Res :=
  match plan with
  | .error t => .trap t
  | .ok r =>
    match s.issueCmd r tdest with
    | .error s => .hold s
    | .ok s => .done (if acq then s.acquireL1 (coreOf s.cur) 4 else s) flow

/-! ### CPY (R246, R247, R267) -/

/-- One side of a copy: where it lies (0 global, 1 the team's scratchpad, 2 that of team `team`), its base and
strides. -/
structure CopySide where
  side : Nat
  team : Nat
  base : Nat
  ys : Int
  zs : Int
  deriving DecidableEq, Repr

/-- The tile of a copy. -/
structure CopyTile where
  z : Nat
  x : Nat
  y : Nat
  depth : Nat
  src : CopySide
  dst : CopySide
  deriving DecidableEq, Repr

/-- The tile that a CPY's block describes (R267). -/
def copyTile (b : List Word) : CopyTile :=
  let base (side lo hi : Nat) : Nat := if side = 0 then word b lo + 2 ^ 32 * word b hi else word b lo
  let ss := field b 5 3 2
  let ds := field b 5 5 2
  { z := elemBytes (field b 5 0 3), x := field b 4 0 12 + 1, y := field b 4 12 12 + 1, depth := field b 4 24 8 + 1
    src := ⟨ss, field b 5 7 2, base ss 0 1, signed16 (field b 6 0 16), signed16 (field b 7 0 16)⟩
    dst := ⟨ds, field b 5 9 2, base ds 2 3, signed16 (field b 6 16 16), signed16 (field b 7 16 16)⟩ }

/-- The number of elements of a tile. -/
def CopyTile.count (t : CopyTile) : Nat := t.x * t.y * t.depth

/-- The address of element i of a side, in the progress order (R246, R267). -/
def CopyTile.addr (t : CopyTile) (d : CopySide) (i : Nat) : Int :=
  (d.base : Int) + (t.z * (i % t.x) : Nat) + t.z * d.ys * (i / t.x % t.y : Nat) + 192 * d.zs * (i / (t.x * t.y) : Nat)

/-- The lowest byte that a side can touch and the byte after the highest (R245). -/
def CopyTile.span (t : CopyTile) (d : CopySide) : Int × Int :=
  let parts : List Int := [(t.z * (t.x - 1) : Nat), t.z * d.ys * (t.y - 1 : Nat), 192 * d.zs * (t.depth - 1 : Nat)]
  (parts.foldl (fun a p => a + min 0 p) (d.base : Int), parts.foldl (fun a p => a + max 0 p) (d.base : Int) + t.z)

/-- The team number that a scratchpad side names, as State.spTeam takes it. -/
def CopySide.remote (d : CopySide) : Option Nat := if d.side = 2 then some d.team else none

/-- The fields of a CPY's block hold defined values (check 1 of R264). -/
def copyFieldsOk (b : List Word) : Bool :=
  let t := copyTile b
  let high (side i : Nat) : Bool := if side = 0 then field b i 24 8 == 0 else word b i == 0
  field b 5 0 3 ≤ 4 && t.src.side ≤ 2 && t.dst.side ≤ 2 && field b 5 11 21 == 0 && t.count ≤ 2 ^ 24 &&
    high t.src.side 1 && high t.dst.side 3

/-- The range-lock entry of a scratchpad side; bytes below offset 0 lie in no scratchpad. -/
def State.copyLock (s : State) (k : Nat) (t : CopyTile) (d : CopySide) (dest : Bool) : List (Nat × RangeLock) :=
  if d.side = 0 then []
  else match s.spTeam k d.remote with
    | none => []
    | some u =>
      let p := t.span d
      [(u.core, { cmd := 0, team := s.spTeamId k d.remote, lo := p.1.toNat, hi := p.2.toNat, dest := dest })]

/-- The checks of CPY at issue, up to order 3 of R264. -/
def copyPlan (s : State) (b : List Word) : Except Trap CmdReq := do
  let g := s.g
  let t := copyTile b
  checkFields g (copyFieldsOk b)
  let outside (d : CopySide) : Bool := d.side == 2 && (s.spTeam s.cur d.remote).isNone
  if outside t.src then throw ⟨0x13, t.src.team, g.xm, 0⟩
  if outside t.dst then throw ⟨0x13, t.dst.team, g.xm, 0⟩
  pure { kind := .cpy, block := b, counter := some 5
         ents := s.copyLock s.cur t t.src false ++ s.copyLock s.cur t t.dst true }

/-- CPY. With CONT it acts as a YIELD on its own ticket to the clause that follows (R247). -/
def cpyBody (sbase tdest : BitVec 6) (cont acq : BitVec 1) (s : State) : Res :=
  let own := s.g.nextTicket
  let plan := copyPlan s (s.g.block sbase)
  if cont = 1 then
    match issueChecked tdest (acq == 1) .nextClause s plan with
    | .done s f =>
      .done (((s.leaveClass s.cur .hint).demote s.cur).modGroup s.cur fun g => { g with wait := .ticket own true }) f
    | x => x
  else issueChecked tdest (acq == 1) .seq s plan

/-- CPY (R267). -/
def execCpy (sbase tdest : BitVec 6) (cont acq : BitVec 1) (s : State) : Host.Outcome State Fault Refusal :=
  perform (.cpy sbase tdest cont acq)
    { cmdInfo sbase tdest with closes := cont == 1, counter := some 5 } (cpyBody sbase tdest cont acq) s

/-! ### MMA, MMAS and MMAG (R43, R248 to R252, R268 to R271) -/

/-- The fields of a format word (R43). -/
def fmtField (w : Word) (lo n : Nat) : Nat := w.toNat / 2 ^ lo % 2 ^ n

/-- AFMT. -/
def aFmt (w : Word) : Nat := fmtField w 0 4
/-- BFMT. -/
def bFmt (w : Word) : Nat := fmtField w 4 4
/-- DFMT. -/
def dFmt (w : Word) : Nat := fmtField w 8 4
/-- SCA. -/
def scaleA (w : Word) : Nat := fmtField w 12 4
/-- SCB. -/
def scaleB (w : Word) : Nat := fmtField w 16 4
/-- The promotion interval's exponent. -/
def promoteLog (w : Word) : Nat := fmtField w 20 4
/-- SPARSE. -/
def sparseOf (w : Word) : Nat := fmtField w 24 4

/-- A legal format word (R43). -/
def fmtLegal (w : Word) : Bool :=
  let a := aFmt w
  let b := bFmt w
  (if a = 0 then b == 0 || b == 3 || b == 4 else a ≤ 2 && 1 ≤ b && b ≤ 4) &&
    (if a = 0 then scaleA w == 0 else scaleA w ≤ 1) &&
    (if b = 0 then scaleB w == 0 else if 3 ≤ b then scaleB w == 1 else scaleB w ≤ 1) &&
    promoteLog w ≤ 12 && dFmt w ≤ 1 && fmtField w 28 4 == 0

/-- The number of the format pair, in the order of R43. -/
def fmtPair (w : Word) : Nat :=
  if aFmt w = 0 then (if bFmt w = 0 then 0 else bFmt w - 2) else 3 + 4 * (aFmt w - 1) + (bFmt w - 1)

/-- The block of a matrix command (R268). -/
structure MatBlock where
  aoff : Nat
  boff : Nat
  doff : Nat
  k : Nat
  n : Nat
  m : Nat
  sa : Nat
  sb : Nat
  sd : Nat
  ireg : Nat
  freg : Nat
  asc : Nat
  bsc : Nat
  abm : Nat
  bbm : Nat
  deriving DecidableEq, Repr

/-- The fields of a matrix command's block (R268). -/
def matBlock (b : List Word) : MatBlock :=
  { aoff := word b 0, boff := word b 1, doff := word b 2
    k := field b 3 18 14 + 1, n := field b 3 9 9 + 1, m := field b 3 0 9 + 1
    sb := field b 4 16 16, sa := field b 4 0 16
    ireg := field b 5 23 7, freg := field b 5 16 7, sd := field b 5 0 16
    bsc := 16 * field b 6 15 15, asc := 16 * field b 6 0 15
    bbm := 16 * field b 7 15 15, abm := 16 * field b 7 0 15 }

/-- Check 1 of R264 for a matrix command (R268). -/
def matFieldsOk (kind : CmdKind) (b : List Word) : Bool :=
  let m := matBlock b
  m.k ≤ 12288 && m.n ≤ 384 && m.m ≤ (if kind = .mmag then 96 else 384) && field b 5 30 2 == 0 &&
    field b 6 30 2 == 0 && field b 7 30 2 == 0 && (kind == .mmag || m.ireg == 0) && (kind == .mmas || word b 7 == 0)

/-- ceil(a / b). -/
def ceilDiv (a b : Nat) : Nat := (a + b - 1) / b

/-- Bytes of an A element, when AFMT is assigned: 2 for bf16, 1 for FP8 (R269). -/
def aBytes (w : Word) : Nat := if aFmt w = 0 then 2 else 1

/-- Bytes of K positions of a B column (R269). -/
def bRowBytes (w : Word) (k : Nat) : Nat :=
  if bFmt w = 0 then 2 * k else if bFmt w ≤ 2 then k else 16 * ceilDiv k 32

/-- Bytes of a D element. -/
def dBytes (w : Word) : Nat := if dFmt w = 0 then 4 else 2

/-- The rows of A that serve as logical rows 0 to M - 1: in MMAG those that v(IREG) chooses, masked where the
lane is inactive or a helper lane (R252, R271). -/
def matRows (kind : CmdKind) (g : Group) (m : MatBlock) : List (Option Nat) :=
  (List.range m.m).map fun r =>
    if kind = .mmag then
      if g.active r && !g.helper.getLsbD r then some (g.vsrc m.ireg 2 r).1.toNat else none
    else some r

/-- The ranges of an operand of the format word that has sizes: offset and bytes (R269). A code that R43 does
not assign gives none (R264). -/
def matSources (kind : CmdKind) (m : MatBlock) (rows : List (Option Nat)) (w : Word) : List (Nat × Nat) :=
  let rs := rows.filterMap id
  let g := ceilDiv m.k 32
  let kb := ceilDiv m.k 8
  let lo := rs.foldl (fun a r => min a r) (rs.headD 0)
  let hi := rs.foldl max 0
  let sparse := if kind = .mmas && sparseOf w ≤ 3 then sparseOf w else 0
  (if aFmt w ≤ 2 && !rs.isEmpty then [(m.aoff + lo * m.sa, (hi - lo) * m.sa + m.k * aBytes w)] else []) ++
  (if bFmt w ≤ 4 then [(m.boff, (m.n - 1) * m.sb + bRowBytes w m.k)] else []) ++
  (if scaleA w = 1 then [(m.asc, m.m * g)] else []) ++
  (if scaleB w = 1 then [(m.bsc, m.n * g)] else []) ++
  (if sparse % 2 = 1 then [(m.abm, ceilDiv (ceilDiv m.m 8 * kb) 8)] else []) ++
  (if 2 ≤ sparse then [(m.bbm, ceilDiv (ceilDiv m.n 8 * kb) 8)] else [])

/-- D's range. -/
def matDest (m : MatBlock) (w : Word) : Nat × Nat := (m.doff, (m.m - 1) * m.sd + m.n * dBytes w)

/-- The lanes whose chosen row would pass SCRATCH (R252). DEDUCED, log entry 32. -/
def badRows (m : MatBlock) (rows : List (Option Nat)) (w : Word) (scratch : Nat) : AMap Nat :=
  ((List.range rows.length).zip rows).filterMap fun p =>
    match p.2 with
    | some r => if scratch < m.aoff + r * m.sa + m.k * aBytes w then some (p.1, m.aoff + r * m.sa) else none
    | none => none

/-- The alignments of check 4 for the operands that the format word sizes. -/
def matAligned (m : MatBlock) (w : Word) : List (Nat × Nat) :=
  (if aFmt w ≤ 2 then [(m.aoff, 16)] else []) ++ (if bFmt w ≤ 4 then [(m.boff, 16)] else []) ++
  (if dFmt w ≤ 1 then [(m.doff, 4)] else []) ++ (if aFmt w ≤ 2 then [(m.sa, 16)] else []) ++
  (if bFmt w ≤ 4 then [(m.sb, 16)] else []) ++ (if dFmt w ≤ 1 then [(m.sd, 4)] else [])

/-- The format vote (R250): the lanes that differ from the lowest active lane. -/
def matVote (g : Group) (r : Nat) : Except Trap Word :=
  match lanesOf g.xm with
  | [] => .error ⟨0x07, 96, 0, 0⟩
  | l :: ls =>
    match ls.filter fun i => g.lane r i != g.lane r l with
    | [] => .ok (g.lane r l)
    | d :: ds => .error ⟨0x07, d, laneMask (d :: ds), 0⟩

/-- The checks of a matrix command, in the order of R264. -/
def matPlan (kind : CmdKind) (acc : BitVec 1) (s : State) (b : List Word) : Except Trap CmdReq := do
  let g := s.g
  let m := matBlock b
  let scratch := s.scratchOf s.cur
  checkFields g (matFieldsOk kind b)
  if kind = .mmag && g.n ≤ m.ireg || g.n ≤ m.freg then throw (engineTrap g 4)
  checkReg g m.freg 15
  if kind = .mmag then checkReg g m.ireg 2
  let rows := matRows kind g m
  let w := g.lane m.freg ((lanesOf g.xm).headD 0)
  if g.xm ≠ 0 then
    checkAligned g (matAligned m w)
    if aFmt w ≤ 2 then
      match badRows m rows w scratch with
      | [] => pure ()
      | p :: ps =>
        throw ⟨0x0A, if kind = .mmag then p.2 else m.aoff, if kind = .mmag then laneMask (p.1 :: ps.map (·.1)) else g.xm, 0⟩
    checkBounds g scratch (matSources kind m rows w)
    if dFmt w ≤ 1 then checkBounds g scratch [matDest m w]
  let v ← matVote g m.freg
  if !fmtLegal v || (if kind = .mmas then 4 ≤ sparseOf v else sparseOf v ≠ 0) then throw (engineTrap g 2)
  pure { kind := kind, block := b
         ents := (matSources kind m rows v).map (fun p => s.ownLock s.cur p.1 p.2 false) ++
           [s.ownLock s.cur (matDest m v).1 (matDest m v).2 true]
         init := fun c => { c with acc := acc == 1, fmt := v, rows := rows, region := g.region.map fun r => r.id } }

/-- The vector registers that a matrix command's block names, below the group's count: like any register it reads they
meet look windows and wait for results (R58). Once the block itself is pending its fields are not known.
DEDUCED, log entry 31. -/
def matRegs (kind : CmdKind) (g : Group) (sbase : BitVec 6) : List Nat :=
  let m := matBlock (g.block sbase)
  if (List.range 8).any fun i => g.pendingRegs.contains (g.physReg (.s (sbase.toNat + i))) then []
  else (m.freg :: if kind = .mmag then [m.ireg] else []).filter (· < g.n)

/-- The effect of a matrix command at issue. -/
def matBody (kind : CmdKind) (sbase tdest : BitVec 6) (acc : BitVec 1) (s : State) : Res :=
  issueChecked tdest false .seq s (matPlan kind acc s (s.g.block sbase))

/-- A matrix command reads the lanes of the registers that its block names. -/
def matInfo (kind : CmdKind) (g : Group) (sbase tdest : BitVec 6) : Info :=
  { cmdInfo sbase tdest with mask := true, vr := matRegs kind g sbase }

/-- MMA (R268). -/
def execMma (sbase tdest : BitVec 6) (acc : BitVec 1) (s : State) : Host.Outcome State Fault Refusal :=
  perform (.mma sbase tdest acc) (matInfo .mma s.g sbase tdest) (matBody .mma sbase tdest acc) s

/-- MMAS (R251, R270). -/
def execMmas (sbase tdest : BitVec 6) (acc : BitVec 1) (s : State) : Host.Outcome State Fault Refusal :=
  perform (.mmas sbase tdest acc) (matInfo .mmas s.g sbase tdest) (matBody .mmas sbase tdest acc) s

/-- MMAG (R252, R271). -/
def execMmag (sbase tdest : BitVec 6) (acc : BitVec 1) (s : State) : Host.Outcome State Fault Refusal :=
  perform (.mmag sbase tdest acc) (matInfo .mmag s.g sbase tdest) (matBody .mmag sbase tdest acc) s

/-! ### GATH and SCAT (R255 to R257, R273) -/

/-- The block of GATH and SCAT. -/
structure GatherBlock where
  base : Nat
  bound : Nat
  ioff : Nat
  doff : Nat
  soff : Nat
  z : Nat
  e : Nat
  deriving DecidableEq, Repr

/-- The fields of a GATH's block (R273). -/
def gatherBlock (b : List Word) : GatherBlock :=
  { base := word b 0 + 2 ^ 32 * word b 1, bound := word b 2, ioff := word b 3, doff := word b 4, soff := word b 5
    z := elemBytes (field b 6 10 3), e := field b 6 0 10 }

/-- The checks of GATH and SCAT; with RESUME they read DONE at issue (R257). -/
def gatherPlan (scat resume : Bool) (s : State) (b : List Word) : Except Trap CmdReq := do
  let g := s.g
  let q := gatherBlock b
  let scratch := s.scratchOf s.cur
  checkFields g (field b 6 13 19 == 0 && word b 7 == 0 && field b 6 10 3 ≤ 4 && 1 ≤ q.e && q.e ≤ 768)
  checkAligned g [(q.ioff, 4), (q.doff, 16), (q.soff, 192)]
  checkBounds g scratch [(q.ioff, 4 * q.e), (q.doff, q.z * q.e), (q.soff, 768)]
  let base := ((s.teams.find? g.team).map fun t => t.scratchBase).getD 0
  let done := if resume then leNat (s.spBytes (coreOf s.cur) (base + q.soff) 96) else 0
  pure { kind := if scat then .scat else .gath, block := b, counter := some 7
         ents := [s.ownLock s.cur q.ioff (4 * q.e) false, s.ownLock s.cur q.doff (q.z * q.e) (!scat),
           s.ownLock s.cur q.soff 768 true]
         init := fun c => { c with done := done, cleared := resume } }

/-- The effect of GATH at issue. -/
def gathBody (sbase tdest : BitVec 6) (acq resume : BitVec 1) (s : State) : Res :=
  issueChecked tdest (acq == 1) .seq s (gatherPlan false (resume == 1) s (s.g.block sbase))

/-- The effect of SCAT at issue. -/
def scatBody (sbase tdest : BitVec 6) (resume : BitVec 1) (s : State) : Res :=
  issueChecked tdest false .seq s (gatherPlan true (resume == 1) s (s.g.block sbase))

/-- GATH (R273). -/
def execGath (sbase tdest : BitVec 6) (acq resume : BitVec 1) (s : State) : Host.Outcome State Fault Refusal :=
  perform (.gath sbase tdest acq resume) { cmdInfo sbase tdest with counter := some 7 }
    (gathBody sbase tdest acq resume) s

/-- SCAT (R273). -/
def execScat (sbase tdest : BitVec 6) (resume : BitVec 1) (s : State) : Host.Outcome State Fault Refusal :=
  perform (.scat sbase tdest resume) { cmdInfo sbase tdest with counter := some 7 } (scatBody sbase tdest resume) s

/-! ### The step cache (R258 to R261, R274 to R276) -/

/-- SCBEGIN: opens a region under a key, discarding an open one, and completes at issue (R258, R274). -/
def execScbegin (sbase tdest : BitVec 6) (s : State) : Host.Outcome State Fault Refusal :=
  perform (.scbegin sbase tdest) { cmdInfo sbase tdest with sr := [sbase.toNat], beside := false } (fun s =>
    let r : Region := { key := s.g.sval sbase.toNat, id := s.fresh }
    .done ((s.bump.modGroup s.cur fun g => { g with region := some r }).giveTicket tdest) .seq) s

/-- The checks of SCPROBE (R276). -/
def probePlan (bf16 sp : Bool) (s : State) (b : List Word) : Except Trap CmdReq := do
  let g := s.g
  let iw := field b 3 0 16
  let ow := field b 3 16 16
  let ranges := [(word b 4, 4 * ow), (word b 5, 4)] ++ (if sp then [(word b 1, 4 * iw)] else [])
  checkFields g (iw != 0 && ow != 0 && (if sp then word b 2 == 0 else field b 2 24 8 == 0))
  checkAligned g (ranges.map fun p => (p.1, 4))
  checkBounds g (s.scratchOf s.cur) ranges
  pure { kind := .scprobe, block := b, counter := some 7
         ents := (if sp then [s.ownLock s.cur (word b 1) (4 * iw) false] else []) ++
           [s.ownLock s.cur (word b 4) (4 * ow) true, s.ownLock s.cur (word b 5) 4 true]
         init := fun c => { c with sp := sp, bf16 := bf16 } }

/-- The effect of SCPROBE at issue. -/
def probeBody (sbase tdest : BitVec 6) (bf16 sp acq : BitVec 1) (s : State) : Res :=
  issueChecked tdest (acq == 1) .seq s (probePlan (bf16 == 1) (sp == 1) s (s.g.block sbase))

/-- SCPROBE (R276). -/
def execScprobe (sbase tdest : BitVec 6) (bf16 sp acq : BitVec 1) (s : State) : Host.Outcome State Fault Refusal :=
  perform (.scprobe sbase tdest bf16 sp acq) { cmdInfo sbase tdest with counter := some 7 }
    (probeBody sbase tdest bf16 sp acq) s

/-- The checks of SCSAVE (R275). -/
def savePlan (s : State) (b : List Word) : Except Trap CmdReq := do
  let g := s.g
  let iw := field b 2 0 16
  let ow := field b 2 16 16
  let ranges := [(word b 1, 4 * iw), (word b 3, 4 * ow)]
  checkFields g (iw != 0 && ow != 0 && (word b 4 == 7 || word b 4 == 8) && word b 5 == 0 && word b 6 == 0 && word b 7 == 0)
  checkAligned g (ranges.map fun p => (p.1, 4))
  checkBounds g (s.scratchOf s.cur) ranges
  pure { kind := .scsave, block := b, counter := some 7
         ents := ranges.map fun p => s.ownLock s.cur p.1 p.2 false
         init := fun c => { c with region := g.region.map (fun r => r.id), macs := ((g.region.map fun r => r.macs).getD []) } }

/-- The effect of SCSAVE at issue: the group's region is closed, and its counts go on in the command (R258,
R260, R275). -/
def saveBody (sbase tdest : BitVec 6) (s : State) : Res :=
  match issueChecked tdest false .seq s (savePlan s (s.g.block sbase)) with
  | .done s f => .done (s.modGroup s.cur fun g => { g with region := none }) f
  | x => x

/-- SCSAVE (R275). -/
def execScsave (sbase tdest : BitVec 6) (s : State) : Host.Outcome State Fault Refusal :=
  perform (.scsave sbase tdest) { cmdInfo sbase tdest with counter := some 7 } (saveBody sbase tdest) s

/-! ### NREDX (R262, R277) -/

/-- The checks of NREDX. -/
def nredxPlan (scope : BitVec 3) (s : State) (b : List Word) : Except Trap CmdReq := do
  let g := s.g
  let n := word b 2
  let ranges := [(word b 0, 4 * n), (word b 1, 4 * n)]
  checkFields g (1 ≤ n && n ≤ 768 && word b 3 ≤ 63 && 1 ≤ word b 4 && word b 4 ≤ 65536 && word b 5 == 0 &&
    word b 6 == 0 && word b 7 == 0)
  checkAligned g (ranges.map fun p => (p.1, 4))
  checkBounds g (s.scratchOf s.cur) ranges
  pure { kind := .nredx, block := b, counter := some 7
         ents := [s.ownLock s.cur (word b 0) (4 * n) false, s.ownLock s.cur (word b 1) (4 * n) true]
         init := fun c => { c with scope := scope } }

/-- The effect of NREDX at issue. -/
def nredxBody (sbase tdest : BitVec 6) (scope : BitVec 3) (s : State) : Res :=
  issueChecked tdest false .seq s (nredxPlan scope s (s.g.block sbase))

/-- NREDX (R277). -/
def execNredx (sbase tdest : BitVec 6) (scope : BitVec 3) (s : State) : Host.Outcome State Fault Refusal :=
  perform (.nredx sbase tdest scope) { cmdInfo sbase tdest with counter := some 7 } (nredxBody sbase tdest scope) s

/-! ### Controls (R253, R266) -/

/-- The commands of a batch that have not completed. -/
def State.batchOpen (s : State) (k : Nat) (n : Word) : Bool :=
  (s.groupCmds k).any fun c => c.2.batch == some n.toNat

/-- EWAIT: not ready until command t completes (R266). -/
def execEwait (sbase : BitVec 6) (s : State) : Host.Outcome State Fault Refusal :=
  perform (.ewait sbase) { sr := [sbase.toNat], ends := some 1, serial := some false } (fun s =>
    let t := s.g.sval sbase.toNat
    if beyond s.g.ticket t then .trap (engineTrap s.g 3)
    else if s.outstanding s.cur t then
      .hold ((s.demote s.cur).modGroup s.cur fun g => { g with wait := .ticket t false })
    else .done (s.acquireL1 (coreOf s.cur) 1) .seq) s

/-- EPOLL: 1 if t is complete, else 0 (R266). -/
def execEpoll (sbase tdest : BitVec 6) (s : State) : Host.Outcome State Fault Refusal :=
  perform (.epoll sbase tdest)
    { sr := [sbase.toNat], sw := if tdest = 63 then [] else [tdest.toNat], ends := some 4, serial := some false } (fun s =>
    let t := s.g.sval sbase.toNat
    if beyond s.g.ticket t then .trap (engineTrap s.g 3)
    else
      let v := s.input (if s.outstanding s.cur t then 0 else 1)
      let g := s.g.noteInput v
      let s := s.setG (if tdest = 63 then g else g.setS tdest.toNat v 2)
      .done (if v = 0 then s else s.acquireL1 (coreOf s.cur) 1) .seq) s

/-- MBATCH: closes the matrix commands issued since the last one into the next batch; an empty batch completes
at issue, and its counter falls in the next clock (R253, R266). -/
def execMbatch (tdest : BitVec 6) (s : State) : Host.Outcome State Fault Refusal :=
  perform (.mbatch tdest) { sw := if tdest = 63 then [] else [tdest.toNat], counter := some 6, serial := some false } (fun s =>
    let k := s.cur
    let n := s.g.batch + 1
    let mine (c : Cmd) : Bool := c.group == k && !c.saved && c.kind.isMatrix && c.batch == none
    let empty := !(s.cmds.any fun c => mine c.2)
    let g := { s.g with batch := n }
    let s := s.setG (if tdest = 63 then g else g.setS tdest.toNat n 2)
    .done (if empty then s.addResult .compute [] (some 6)
      else
        { s.modGroup k (fun g => g.raiseCounter 6) with
          cmds := s.cmds.mapVals fun _ c => if mine c then { c with batch := some n.toNat } else c }) .seq) s

/-- MWAIT: waits until batch n is complete (R253, R266). -/
def execMwait (sbase : BitVec 6) (s : State) : Host.Outcome State Fault Refusal :=
  perform (.mwait sbase) { sr := [sbase.toNat], ends := some 1, serial := some false } (fun s =>
    let n := s.g.sval sbase.toNat
    if beyond s.g.batch n then .trap (engineTrap s.g 3)
    else if s.batchOpen s.cur n then
      .hold ((s.demote s.cur).modGroup s.cur fun g => { g with wait := .batch n })
    else .done (s.acquireL1 (coreOf s.cur) 1) .seq) s

/-- Issues a held command again, once it can be taken (R214). -/
def State.resumeCommand (s : State) (k : Nat) (i : Instr) : Option (Host.Outcome State Fault Refusal) :=
  let s := { s.modGroup k (fun g => { g with wait := .none }) with cur := k }
  match i with
  | .cpy a t c q => some (execCpy a t c q s)
  | .mma a t c => some (execMma a t c s)
  | .mmas a t c => some (execMmas a t c s)
  | .mmag a t c => some (execMmag a t c s)
  | .gath a t q r => some (execGath a t q r s)
  | .scat a t r => some (execScat a t r s)
  | .scprobe a t f p q => some (execScprobe a t f p q s)
  | .scsave a t => some (execScsave a t s)
  | .nredx a t c => some (execNredx a t c s)
  | _ => none

end Sys2Proof.Machine
end

