-- ==== Sys2Proof/Machine/System.lean ====
section
/-! DEFINITION. System registers (R23 to R25, R82, R298 to R300, R338), traps and the return from them (R288,
R301, R302), the trap frame (R303), CTXSAVE and CTXLOAD (R294, R304), PROGRESS
(R305), and the words that are no instruction (R64). -/

namespace Sys2Proof.Machine

/-! ### System registers -/

/-- Whether the group's context is privileged. -/
def State.privileged (s : State) : Bool := (s.context s.g.ctx).priv

/-- Whether a group may not name a register at all: 0x040 to 0x04F outside trap mode and a privileged context
(R23). -/
def sysBarred (s : State) (n : Nat) : Bool :=
  0x40 ≤ n && n ≤ 0x4F && !(s.g.trapMode || s.privileged)

/-- Whether an SWR of a register is barred: it holds no field that the writer may write (R23, R299, R300).
DEDUCED, log entry 18. -/
def swrBarred (s : State) (n : Nat) : Bool :=
  sysBarred s n ||
    !(n == 0 || n == 1 || (n == 0x10 && (s.g.trapMode || s.privileged)) ||
      ((n == 0x40 || n == 0x41 || n == 0x4F) && s.privileged) ||
      ((n == 0x48 || n == 0x49 || n == 0x4E) && s.g.trapMode))

/-- The harvest counters that count: 30 to 47 read zero (R336). -/
def harvestOf (c : Context) (i : Nat) : Nat := if i < 30 then c.harvest.get 0 i else 0

/-- The bits of SATWORD (R337). -/
def satword (c : Context) : Nat := c.saturated.foldl (fun v i => v + 2 ^ i) 0

/-- The low, high words of a number. -/
def loWord (n : Nat) : Word := BitVec.ofNat 32 n
/-- Bits [63:32] of a number. -/
def hiWord (n : Nat) : Word := BitVec.ofNat 32 (n / 2 ^ 32)

/-- The value and tag of a system register (R23, R82, R299, R338), but for CYCLE. -/
def sysValue (s : State) (n : Nat) : Word × BitVec 4 :=
  let g := s.g
  let c := s.context g.ctx
  if 0x80 ≤ n && n < 0xB0 then (loWord (harvestOf c (n - 0x80)), 2)
  else match n with
    | 0x00 => (g.gctl, 0)
    | 0x01 => (g.gstat.setWidth 32, 0)
    | 0x04 => (g.helper.extractLsb' 0 32, 13)
    | 0x05 => (g.helper.extractLsb' 32 32, 13)
    | 0x06 => (g.helper.extractLsb' 64 32, 13)
    | 0x08 => (c.step, 2)
    | 0x10 => (g.stklim, 2)
    | 0x12 => (g.pvbase.setWidth 32, 14)
    | 0x13 => (hiWord g.pvbase.toNat, 14)
    | 0x16 => (g.ticket, 2)
    | 0x17 => (g.batch, 2)
    | 0x18 => (BitVec.ofNat 32 g.ctx, 2)
    | 0x40 => (c.tbase.setWidth 32 &&& 0xFFFFF000, 0)
    | 0x41 => (hiWord c.tbase.toNat, 0)
    | 0x42 => (g.trap.cause.setWidth 32, 0)
    | 0x43 => (g.trap.mask.extractLsb' 0 32, 0)
    | 0x44 => (g.trap.mask.extractLsb' 32 32, 0)
    | 0x45 => (g.trap.mask.extractLsb' 64 32, 0)
    | 0x46 => (g.trap.val.setWidth 32, 0)
    | 0x47 => (hiWord g.trap.val.toNat, 0)
    | 0x48 => (g.trap.pc.setWidth 32, 0)
    | 0x49 => (BitVec.ofNat 32 (2 ^ 28 * g.trap.word.toNat + g.trap.pc.toNat / 2 ^ 32), 0)
    | 0x4A => (g.trap.site.words.getD 0 0, 0)
    | 0x4B => (g.trap.site.words.getD 1 0, 0)
    | 0x4C => (g.trap.site.words.getD 2 0, 0)
    | 0x4D => (g.trap.site.words.getD 3 0, 0)
    | 0x4E => (g.trap.frame, 0)
    | 0x4F => (c.preemptLimit, 0)
    | 0xB0 => (g.harvHi, 2)
    | 0xB1 => (loWord (satword c), 0)
    | 0xB2 => (hiWord (satword c), 0)
    | _ => (0, 0)

/-- SRD (R82): a read of CYCLE's low word latches the high word, the next high read returns the latch (R25); a
read of a harvest counter latches its high word (R338). -/
def execSrd (d : BitVec 6) (r : BitVec 12) (s : State) : Host.Outcome State Fault Refusal :=
  let n := r.toNat
  let cyc := n == 0x14 || n == 0x15
  perform (.srd d r)
    { sw := [d.toNat], barred := sysBarred s n, ends := if cyc then some 4 else none, serial := some false } (fun s =>
    let g := s.g
    let now := s.cycle s.cur
    if n = 0x14 then
      let v := s.input (loWord now)
      .done (s.setG (({ g with cycHold := some (hiWord now) }.setS d.toNat v 2).noteInput v)) .seq
    else if n = 0x15 then
      let v := s.input (g.cycHold.getD (hiWord now))
      .done (s.setG (({ g with cycHold := none }.setS d.toNat v 2).noteInput v)) .seq
    else
      let p := sysValue s n
      let g := if 0x80 ≤ n && n < 0xB0 then
        { g with harvHi := hiWord (harvestOf (s.context g.ctx) (n - 0x80)) } else g
      .done (s.setG (g.setS d.toNat p.1 p.2)) .seq) s

/-- An address with its low word replaced. -/
def setLow (a : Addr) (w : Word) : Addr := a.extractLsb' 32 24 ++ w

/-- An address with bits [55:32] replaced. -/
def setHigh (a : Addr) (w : Word) : Addr := w.extractLsb' 0 24 ++ a.setWidth 32

/-- The state after an SWR of an allowed register (R24, R299, R300). -/
def sysWrite (s : State) (n : Nat) (w : Word) : State :=
  let g := s.g
  match n with
  | 0x00 => s.setG { g with gctl := w &&& 0x3F0F }
  | 0x01 => s.setG { g with gstat := g.gstat &&& ~~~(w.setWidth 6) }
  | 0x10 => s.setG { g with stklim := BitVec.ofNat 32 (min w.toNat (64 * (s.context g.ctx).pvstride - 16)) }
  | 0x40 => s.modCtx g.ctx fun c => { c with tbase := setLow c.tbase (w &&& 0xFFFFF000) }
  | 0x41 => s.modCtx g.ctx fun c => { c with tbase := setHigh c.tbase w }
  | 0x48 => s.setG { g with trap := { g.trap with pc := setLow g.trap.pc w } }
  | 0x49 =>
    s.setG { g with trap := { g.trap with pc := setHigh g.trap.pc w, word := w.extractLsb' 28 4 } }
  | 0x4E => s.setG { g with trap := { g.trap with frame := w } }
  | 0x4F => s.modCtx g.ctx fun c => { c with preemptLimit := w }
  | _ => s

/-- SWR (R82): a misaligned TPC.0 faults (R300). -/
def execSwr (d : BitVec 6) (r : BitVec 12) (s : State) : Host.Outcome State Fault Refusal :=
  let n := r.toNat
  perform (.swr d r) { sr := [d.toNat], barred := swrBarred s n, serial := some false } (fun s =>
    let w := s.g.sval d.toNat
    if n = 0x48 ∧ w.toNat % 4 ≠ 0 then .trap ⟨0x0D, w.toNat, s.g.xm, 0⟩
    else .done (sysWrite s n w) .seq) s

/-! ### Chunks and commits (R361, R362) -/

/-- The record that the next commit of a replay must match (R362). -/
def Observe.next (o : Observe) : Option LogRecord := if o.mode = 2 then o.log[o.replayAt]? else none

/-- Whether the accesses of an engine (1) or host stream (2) may commit now: no chunk of the context bars them, and in a
replay the log's next record is theirs (R361, R362). -/
def State.mayCommit (s : State) (ctx agent core : Nat) : Bool :=
  !s.chunkOpen ctx none && (match (s.context ctx).observe.next with
    | some r => r.agent == agent && (agent == 2 || r.core == core)
    | none => true)

/-- The commit of an engine's (1) or host stream's (2) accesses as a chunk of their own: it is logged, or uses the log's
next record (R361, R362). DESIGN CHOICE of its END and SIZE, log entry 113. -/
def State.commitAgent (s : State) (ctx agent core slot : Nat) : State :=
  if (s.context ctx).observe.mode = 0 then s
  else s.modCtx ctx fun c =>
    let o := { c.observe with chunks := sat64 (c.observe.chunks + 1) }
    { c with
      observe := if o.mode = 1 then { o with log := o.log ++ [⟨agent, core, slot, 1, 0, none⟩] }
        else { o with replayAt := o.replayAt + 1 } }

/-! ### Traps -/

/-- A TRAP or BKPT: its own cause in a privileged context and in trap mode, where it is a double trap; else a
privileged fault (R301). DEDUCED, log entry 19. -/
def trapWith (i : Instr) (cause : Nat) (n : BitVec 18) (s : State) : Host.Outcome State Fault Refusal :=
  perform i { barred := !(s.g.trapMode || s.privileged) } (fun s => .trap ⟨cause, n.toNat, s.g.xm, 0⟩) s

/-- TRAP (R301). -/
def execTrap (n : BitVec 18) (s : State) : Host.Outcome State Fault Refusal := trapWith (.trap n) 0x0F n s

/-- BKPT (R301). -/
def execBkpt (n : BitVec 18) (s : State) : Host.Outcome State Fault Refusal := trapWith (.bkpt n) 0x10 n s

/-- RTE: leaves trap mode and resumes at TPC. A handler that emulated a reserved major is counted for each
active lane that is no helper lane (R288, R302). -/
def execRte (s : State) : Host.Outcome State Fault Refusal :=
  perform .rte { barred := !s.g.trapMode, closes := true, ends := some 2, serial := some false } (fun s =>
    let g := s.g
    let emulated := g.trap.cause == 2 &&
      !(g.trap.pc == g.trap.site.clause && g.trap.word.toNat == g.trap.site.word)
    let s := s.setG { g with trapMode := false }
    let s := if emulated then s.harvests g.ctx [(29, popCount (g.xm &&& ~~~g.helper))] else s
    .done s (.resume g.trap.pc g.trap.word.toNat)) s

/-- RTE end: leaves trap mode and ends the grid (R289, R302). -/
def execRteEnd (s : State) : Host.Outcome State Fault Refusal :=
  perform .rteEnd { barred := !s.g.trapMode, closes := true, ends := some 2, serial := some false } (fun s =>
    let g := s.g
    let s := s.setG { g with trapMode := false }
    .done ((s.endGrid g.grid 0 0).endGroup s.cur) .ended) s

/-- A word that is no instruction of an assigned major (R64, R66). -/
def execUndefinedInstruction (w : Word) (s : State) : Host.Outcome State Fault Refusal :=
  .next (if s.g.wait != .none then s else s.raise ⟨0x01, w.toNat, s.g.xm, 0⟩)

/-- A word of a reserved major (R64, R66). -/
def execReservedMajor (w : Word) (s : State) : Host.Outcome State Fault Refusal :=
  .next (if s.g.wait != .none then s else s.raise ⟨0x02, w.toNat, s.g.xm, 0⟩)

/-! ### The trap frame (R303) -/

/-- Lane l of frame slot k: no stack limit; a failed translation is a fault at once (R303). DEDUCED, log entry 26. -/
def frameLane (k : BitVec 4) (rd wr : Bool) (s : State) (l : Nat) : LaneRes :=
  let g := s.g
  let a := g.pvbase.toNat + 384 * (g.trap.frame.toNat + k.toNat) + 4 * l
  if 2 ^ 56 ≤ a then .fail 0x0A a
  else match s.translate s.cur a rd wr with
    | .absent va _ => .fail 0x09 va
    | x => x

/-- TSAVE: all 96 lanes of v(s) go to frame slot k, with the tag (R303). -/
def execTsave (r : BitVec 7) (k : BitVec 4) (s : State) : Host.Outcome State Fault Refusal :=
  perform (.tsave r k)
    { vr := [r.toNat], barred := !(s.g.trapMode || s.privileged), access := true, counter := some 3 } (fun s =>
    let g := s.g
    match s.issue { op := .store, size := 4, counter := some 3, helpers := true }
        (laneList.map fun l =>
          { lane := l, res := frameLane k false true s l, data := leBytes 4 (g.lane r.toNat l).toNat }) 0 with
    | .done s' f =>
      .done (s'.modGroup s.cur fun g' => { g' with slotTags := g'.slotTags.set 0 k.toNat (g.vreg r.toNat).tag }) f
    | x => x) s

/-- TLOAD: all 96 lanes of v(d) come from frame slot k, with the slot's tag (R303). -/
def execTload (d : BitVec 7) (k : BitVec 4) (s : State) : Host.Outcome State Fault Refusal :=
  perform (.tload d k)
    { vw := [d.toNat], barred := !(s.g.trapMode || s.privileged), access := true, counter := some 0 } (fun s =>
    s.issue
      { op := .load 4, size := 4, dest := .vec d.toNat, tag := s.g.slotTags.get 0 k.toNat, counter := some 0
        helpers := true }
      (laneList.map fun l => { lane := l, res := frameLane k true false s l }) 0) s

/-! ### Pre-emption requests (R294, R304) -/

/-- Starts the draining of a context: each of its cores counts the limit from now (R294). -/
def State.startPreempt (s : State) (ctx limit : Nat) : State :=
  let s := s.modCtx ctx fun c => { c with preempt := .draining }
  (s.context ctx).coreList.foldl (fun s c =>
    s.modCore c fun x => { x with limitAt := some (s.coreCycle c + limit) }) s

/-- Ends the pre-emption of a context: no core has a limit any more (R304). -/
def State.stopPreempt (s : State) (ctx : Nat) : State :=
  let s := s.modCtx ctx fun c => { c with preempt := .none }
  (s.context ctx).coreList.foldl (fun s c => s.modCore c fun x => { x with limitAt := none }) s

/-- CTXSAVE: starts the pre-emption of the target, or notes why it does not (R304). -/
def State.requestSave (s : State) (issuer target addr : Nat) : State :=
  let r : CtxRequest := { target := target, save := true, issuer := issuer, addr := addr }
  match s.contexts.find? target with
  | none => { s with requests := s.requests ++ [{ r with status := some 2 }] }
  | some c =>
    if c.preempt = .none then
      let s := s.startPreempt target c.preemptLimit.toNat
      { s with requests := s.requests ++ [r] }
    else { s with requests := s.requests ++ [{ r with status := some 3 }] }

/-- Whether a context has no team left on its cores. -/
def State.vacated (s : State) (ctx : Nat) : Bool := s.teams.all fun t => t.2.ctx != ctx || t.2.ended

/-- CTXLOAD: ends the pre-emption of the target; one that is draining is cancelled, and its CTXSAVE gets
status 4, or 1 where every team is saved or has ended (R304). -/
def State.requestLoad (s : State) (issuer target addr : Nat) : State :=
  let r : CtxRequest := { target := target, save := false, issuer := issuer, addr := addr }
  match s.contexts.find? target with
  | none => { s with requests := s.requests ++ [{ r with status := some 2 }] }
  | some c =>
    if c.preempt = .none then { s with requests := s.requests ++ [{ r with status := some 3 }] }
    else
      let s := s.stopPreempt target
      let rs := s.requests.map fun x =>
        if x.save && x.target == target && x.status == none then
          { x with status := some (if c.preempt = .draining && !s.vacated target then 4 else 1) }
        else x
      { s with requests := rs ++ [{ r with status := some 1 }] }

/-- CTXSAVE and CTXLOAD need a privileged context (R304). -/
def ctxRequest (i : Instr) (c a : BitVec 6) (f : State → Nat → Nat → Nat → State) (s : State) :
    Host.Outcome State Fault Refusal :=
  perform i
    { sr := [c.toNat, a.toNat, a.toNat + 1], barred := !s.privileged, pairs := [⟨true, a.toNat⟩]
      tags := [(.s a.toNat, 14), (.s (a.toNat + 1), 14)], serial := some false } (fun s =>
    let g := s.g
    .done (f s g.ctx (g.sval c.toNat).toNat (g.pairNat a.toNat)) .seq) s

/-- CTXSAVE (R304). -/
def execCtxsave (c a : BitVec 6) (s : State) : Host.Outcome State Fault Refusal :=
  ctxRequest (.ctxsave c a) c a State.requestSave s

/-- CTXLOAD (R304). -/
def execCtxload (c a : BitVec 6) (s : State) : Host.Outcome State Fault Refusal :=
  ctxRequest (.ctxload c a) c a State.requestLoad s

/-! ### PROGRESS (R305) and trials (R360) -/

/-- Stops the trial of a context: each core notes its clocks while the trial ran, and a clause that ended in this clock is
not delayed (R360). -/
def State.stopTrial (s : State) (ctx : Nat) : State :=
  let c := s.context ctx
  match c.observe.trial with
  | none => s
  | some _ =>
    let res := c.coreList.foldl (fun m v =>
      match (s.core v).trialStart with
      | some t => m.put v (sat64 (s.coreCycle v - t))
      | none => m) c.observe.trialResults
    let s := s.modCtx ctx fun c => { c with observe := { c.observe with trial := none, trialResults := res } }
    let s := { s with
      groups := s.groups.mapVals fun k g =>
        if g.ctx = ctx && g.clauseDone.any (fun d => d.2 == s.cycle k) then { g with delayUntil := none } else g }
    c.coreList.foldl (fun s v => s.modCore v fun x => { x with trialStart := none }) s

/-- PROGRESS: adds 1 to counter k of the context, and stops a trial whose target it reaches (R305, R360); a boot may have
left the observation block out (R364). -/
def execProgress (k : BitVec 3) (s : State) : Host.Outcome State Fault Refusal :=
  perform (.progress k) { serial := some false } (fun s =>
    let ctx := s.g.ctx
    let o := (s.context ctx).observe
    if s.noObserve then .done s .seq
    else
      let v := sat64 (o.progress.get 0 k.toNat + 1)
      let s := s.modCtx ctx fun c => { c with observe := { c.observe with progress := c.observe.progress.set 0 k.toNat v } }
      .done (match o.trial with
        | some t => if t.counter = k.toNat ∧ t.target ≤ v then s.stopTrial ctx else s
        | none => s) .seq) s

end Sys2Proof.Machine
end

