-- ==== Sys2Proof/Machine/EngineWork.lean ====
section
/-! DEFINITION. What the engines do with a command: its elements or steps one after another (R246, R248, R255,
R261), its stops and failures (R244, R246), and its completion (R214, R243, R253). -/

namespace Sys2Proof.Machine

/-! ### Accesses of an engine (R213) -/

/-- Why an engine cannot go on: a page that is not present (1) or malformed (2), a failure status, a peer
device that must answer first, a retry at a home slice with the state that counts it, a recall that it is held through, a
line that an error has spoilt, or something that it waits for. -/
inductive Stop where
  | absent (va code : Nat)
  | failed (status : Nat)
  | ask (va key : Nat) (op : PeerOp)
  | retry (s : State)
  | held (s : State)
  | spoilt (va line : Nat)
  | wait
  deriving DecidableEq, Repr

/-- An engine at work on one element of a command: the state, the answers of peer devices that it has not used, and the
command's number. -/
structure Eng where
  s : State
  ans : List (Option (List Byte))
  id : Nat

/-- How the requests of a command's engine are named among those that a line holds. -/
def Eng.request (e : Eng) (c : Cmd) : Nat × Nat := (c.group, requestKey e.id 0)

/-- A global address translated for an engine, and the state after the reads of its walk (R194, R198, R213, R246, R265). -/
def Eng.key (e : Eng) (c : Cmd) (va : Int) (n : Nat) (write : Bool) : Except Stop (Nat × State) :=
  if va < 0 || 2 ^ 56 < va + n then .error (.failed 0x10)
  else if va.toNat % n ≠ 0 then .error (.failed 0x11)
  else match e.s.readReach c.core (e.request c) 8 (e.s.walkReads c.ctx va.toNat) with
    | .retry t => .error (.retry t)
    | .held t => .error (.held t)
    | .waits => .error .wait
    | .spoilt line => .error (.spoilt va.toNat line)
    | .served t =>
      match e.s.walk c.ctx va.toNat with
      | .absent => .error (.absent va.toNat 1)
      | .malformed => .error (.absent va.toNat 2)
      | .ok p => if (if write then p.wr else p.rd) then .ok (p.key va.toNat, t) else .error (.failed 0x10)

/-- Uses the next answer of a peer device, or asks for it. -/
def Eng.ask (e : Eng) (va key : Nat) (op : PeerOp) : Except Stop (List Byte × Eng) :=
  match e.ans with
  | [] => .error (.ask va key op)
  | none :: _ => .error (.failed 0x10)
  | some d :: as => .ok (d, { e with ans := as })

/-- Whether a store that the issuing group made before a command is not yet performed at some of n bytes: in flight, or
in the side log (R112, R213). DEDUCED, log entry 111. -/
def State.olderStore (s : State) (id : Nat) (c : Cmd) (va key n : Nat) : Bool :=
  (s.group c.group).accesses.any (fun a => a.op.writes && a.replayOf.getD a.id < id &&
    a.lanes.any fun x => x.key < key + n && key < x.key + x.bytes) ||
  (s.ownEntries c.group).any fun e => e.seq < id && e.lanes.any fun x => va < x.va + x.bytes && x.va < va + n

/-- The way of an engine's access to n bytes of local or host memory at their home: the issuing group's earlier stores
come first, another core's pin gives a retry, and what its own core holds pinned is taken (R194, R213). -/
def Eng.reach (e : Eng) (c : Cmd) (va key n : Nat) : Except Stop State :=
  if e.s.olderStore e.id c va key n then .error .wait
  else match e.s.meetPins c.core (e.request c) key n with
    | .retry t => .error (.retry t)
    | .held t => .error (.held t)
    | .served t => .ok ((t.flit (pathTo c.core key)).takePinned c.core key n)
    | _ => .error .wait

/-- Reads n bytes at a global address, relaxed at dev scope; a line that an error spoils, or has spoilt, gives none (R368). -/
def Eng.read (e : Eng) (c : Cmd) (va : Int) (n : Nat) : Except Stop (List Byte × Eng) :=
  match e.key c va n false with
  | .error x => .error x
  | .ok (key, s) =>
    match Eng.reach { e with s := s } c va.toNat key n with
    | .error x => .error x
    | .ok s =>
      if isPeer key then Eng.ask { e with s := s } va.toNat key (.load n)
      else if s.err = .line || s.poison.contains (lineOf key) then .error (.spoilt va.toNat (lineOf key))
      else
        let p := s.sliceRead key n
        .ok (p.2, { e with s := p.1 })

/-- Writes bytes at a global address at the home slice, relaxed at dev scope; a region that a compaction moves takes none
meanwhile (R192). -/
def Eng.write (e : Eng) (c : Cmd) (va : Int) (bs : List Byte) : Except Stop Eng :=
  match e.key c va bs.length true with
  | .error x => .error x
  | .ok (key, s) =>
    if s.compacting c.ctx va.toNat then .error .wait
    else match Eng.reach { e with s := s } c va.toNat key bs.length with
    | .error x => .error x
    | .ok s =>
      if isPeer key then (Eng.ask { e with s := s } va.toNat key (.store bs)).map (·.2)
      else .ok { e with s := s.homeWrite (some c.core) key bs }

/-- Reads n words from a global address on. -/
def Eng.readWords (e : Eng) (c : Cmd) (va : Nat) : Nat → Except Stop (List Word × Eng)
  | 0 => .ok ([], e)
  | n + 1 =>
    match e.read c va 4 with
    | .error x => .error x
    | .ok (b, e) =>
      match e.readWords c (va + 4) n with
      | .error x => .error x
      | .ok (ws, e) => .ok (BitVec.ofNat 32 (leNat b) :: ws, e)

/-- Writes words from a global address on. -/
def Eng.writeWords (e : Eng) (c : Cmd) (va : Nat) : List Word → Except Stop Eng
  | [] => .ok e
  | w :: ws =>
    match e.write c va (leBytes 4 w.toNat) with
    | .error x => .error x
    | .ok e => e.writeWords c (va + 4) ws

/-- The team whose scratchpad an operand of a command lies in. -/
def State.cmdTeam (s : State) (c : Cmd) (remote : Option Nat) : Option Team :=
  match s.teams.find? c.team with
  | none => none
  | some t =>
    match remote with
    | none => some t
    | some n =>
      match (s.gangs.find? t.gang).bind fun q => q.teams[n]? with
      | none => none
      | some u => s.teams.find? u

/-- Bytes of the command's own team's scratchpad. -/
def State.cmdBytes (s : State) (c : Cmd) (o n : Nat) : List Byte :=
  match s.cmdTeam c none with
  | none => []
  | some t => s.spBytes t.core (t.scratchBase + o) n

/-- The number in n bytes of the own scratchpad. -/
def State.cmdNat (s : State) (c : Cmd) (o n : Nat) : Nat := leNat (s.cmdBytes c o n)

/-- Writes bytes of the command's own team's scratchpad. -/
def State.cmdWrite (s : State) (c : Cmd) (o : Nat) (bs : List Byte) : State :=
  match s.cmdTeam c none with
  | none => s
  | some t => s.spWrite t.core (t.scratchBase + o) bs

/-- n words of the own scratchpad. -/
def State.cmdWords (s : State) (c : Cmd) (o n : Nat) : List Word := bytesWords n (s.cmdBytes c o (4 * n))

/-! ### Copies (R246) -/

/-- An element of a scratchpad side at an offset: its bounds, then its alignment (R265, R267). -/
def sideTeam (s : State) (c : Cmd) (d : CopySide) (a : Int) (z : Nat) : Except Stop Team :=
  match s.cmdTeam c d.remote with
  | none => .error (.failed 0x12)
  | some t =>
    if a < 0 || (t.scratch : Int) < a + z then .error (.failed 0x12)
    else if a.toNat % z ≠ 0 then .error (.failed 0x11)
    else .ok t

/-- The bed's local crossbar, where a side lies in another team's scratchpad (R314). -/
def CopySide.path (d : CopySide) (c : Cmd) : List Nat := if d.remote.isSome then [c.core / 32] else []

/-- Reads an element of a side. -/
def Eng.readSide (e : Eng) (c : Cmd) (d : CopySide) (a : Int) (z : Nat) : Except Stop (List Byte × Eng) :=
  if d.side = 0 then e.read c a z
  else match sideTeam e.s c d a z with
    | .error x => .error x
    | .ok t => .ok (e.s.spBytes t.core (t.scratchBase + a.toNat) z, { e with s := e.s.flit (d.path c) })

/-- Writes an element of a side. -/
def Eng.writeSide (e : Eng) (c : Cmd) (d : CopySide) (a : Int) (bs : List Byte) : Except Stop Eng :=
  if d.side = 0 then e.write c a bs
  else match sideTeam e.s c d a bs.length with
    | .error x => .error x
    | .ok t => .ok { e with s := (e.s.flit (d.path c)).spWrite t.core (t.scratchBase + a.toNat) bs }

/-- Copies element `progress`, read before it is written. -/
def copyStep (e : Eng) (c : Cmd) : Except Stop (Eng × Cmd) :=
  let t := copyTile c.block
  match e.readSide c t.src (t.addr t.src c.progress) t.z with
  | .error x => .error x
  | .ok (bs, e) =>
    match e.writeSide c t.dst (t.addr t.dst c.progress) (bs.take t.z) with
    | .error x => .error x
    | .ok e => .ok (e, { c with progress := c.progress + 1 })

/-! ### Matrix commands (R44 to R46, R248 to R251, R269) -/

/-- An element's value in a format of R43, from its bits. -/
def matValue (fmt bits : Nat) : FpVal :=
  let int (w : Nat) : FpVal := if 2 ^ (w - 1) ≤ bits then .fin true (2 ^ w - bits) 0 else .fin false bits 0
  match fmt with
  | 0 => Fmt.bf16.decode bits
  | 1 => Fmt.e4m3.decode bits
  | 2 => Fmt.e5m2.decode bits
  | 3 => int 4
  | _ => int 3

/-- A value under an E8M0 scale (R32, R44): a NaN scale gives NaN whatever the element is. -/
def scaled (v : FpVal) (scale : Option Nat) : FpVal :=
  match scale with
  | none => v
  | some e =>
    if e = 255 then .nan false
    else match v with
      | .fin neg m x => .fin neg m (x + e - 127)
      | x => x

/-- The bits of B's element at column n and K position k (R34, R269). -/
def State.bBits (s : State) (c : Cmd) (m : MatBlock) (n k : Nat) : Nat :=
  let col := m.boff + n * m.sb
  let group := col + 16 * (k / 32)
  let j := k % 32
  match bFmt c.fmt with
  | 0 => s.cmdNat c (col + 2 * k) 2
  | 3 => s.cmdNat c (group + 4 * (j / 8)) 4 / 16 ^ (j % 8) % 16
  | 4 => s.cmdNat c (group + 4 * (min (j / 10) 3)) 4 / 8 ^ (j - 10 * min (j / 10) 3) % 8
  | _ => s.cmdNat c (col + k) 1

/-- Whether a block bit of a bitmap marks a block of structural zeros (R251, R269). -/
def State.zeroBlock (s : State) (c : Cmd) (bitmap kBlocks line k : Nat) : Bool :=
  let i := line / 8 * kBlocks + k / 8
  s.cmdNat c (bitmap + i / 8) 1 / 2 ^ (i % 8) % 2 == 0

/-- A's operand at logical row r and K position k, none for a structural zero. -/
def State.aOperand (s : State) (c : Cmd) (m : MatBlock) (r row k : Nat) : Option FpVal :=
  if c.kind = .mmas && sparseOf c.fmt % 2 = 1 && s.zeroBlock c m.abm (ceilDiv m.k 8) r k then none
  else
    let z := aBytes c.fmt
    let v := matValue (aFmt c.fmt) (s.cmdNat c (m.aoff + row * m.sa + z * k) z)
    some (scaled v (if scaleA c.fmt = 1 then some (s.cmdNat c (m.asc + r * ceilDiv m.k 32 + k / 32) 1) else none))

/-- B's operand at column n and K position k. -/
def State.bOperand (s : State) (c : Cmd) (m : MatBlock) (n k : Nat) : Option FpVal :=
  if c.kind = .mmas && 2 ≤ sparseOf c.fmt && s.zeroBlock c m.bbm (ceilDiv m.k 8) n k then none
  else
    let v := matValue (bFmt c.fmt) (s.bBits c m n k)
    some (scaled v (if scaleB c.fmt = 1 then some (s.cmdNat c (m.bsc + n * ceilDiv m.k 32 + k / 32) 1) else none))

/-- The exact product of two operands; a structural zero gives +0 (R44, R46). DEDUCED, log entry 34. -/
def matProduct (a b : Option FpVal) : FpVal :=
  match a, b with
  | some x, some y => (mulExact x y).1
  | _, _ => .fin false 0 0

/-- The exact sum of values, rounded once to a format with ties to even (R45). DEDUCED, log entry 34. -/
def roundSum (t : Fmt) (l : List FpVal) : Nat :=
  let isInf (n : Bool) (v : FpVal) : Bool := match v with
    | .inf m => m == n
    | _ => false
  if l.any FpVal.isNan || (l.any (isInf true) && l.any (isInf false)) then t.nan
  else if l.any (isInf true) then t.signed true t.inf
  else if l.any (isInf false) then t.signed false t.inf
  else
    let lo := l.foldl (fun q v => match v with
      | .fin _ _ e => min q e
      | _ => q) 0
    let sum := l.foldl (fun (a : Int) v => match v with
      | .fin n m e => a + signedAt n m e lo
      | _ => a) 0
    let neg := if sum = 0 then l.all FpVal.neg else sum < 0
    (t.round .rne false neg sum.natAbs lo).1

/-- K-steps of a native tile: one K element a step when an operand is bf16, else two (R45, R248). -/
def matSteps (c : Cmd) (m : MatBlock) : Nat :=
  if aFmt c.fmt = 0 || bFmt c.fmt = 0 then m.k else ceilDiv m.k 2

/-- The K positions of a step. -/
def stepKs (c : Cmd) (step : Nat) : List Nat :=
  if aFmt c.fmt = 0 || bFmt c.fmt = 0 then [step] else [2 * step, 2 * step + 1]

/-- The unmasked rows of a native tile: logical row and A's row (R249, R252). -/
def tileRows (c : Cmd) (m : MatBlock) (mt : Nat) : List (Nat × Nat) :=
  (List.range (min 96 (m.m - 96 * mt))).filterMap fun i =>
    ((c.rows[96 * mt + i]?).join).map fun row => (96 * mt + i, row)

/-- The unmasked columns of a native tile. -/
def tileCols (m : MatBlock) (nt : Nat) : List Nat := (List.range (min 96 (m.n - 96 * nt))).map (96 * nt + ·)

/-- Adds a matrix command's MACs to the open region it issued in, or to the SCSAVE that closed it (R258). -/
def State.countRegion (s : State) (c : Cmd) (pair n : Nat) : State :=
  match c.region with
  | none => s
  | some r =>
    let add (m : AMap Nat) : AMap Nat := m.put pair (m.get 0 pair + n)
    let s := s.modGroup c.group fun g =>
      match g.region with
      | some x => if x.id = r then { g with region := some { x with macs := add x.macs } } else g
      | none => g
    { s with
      cmds := s.cmds.mapVals fun _ d => if d.kind = .scsave && d.region == some r then { d with macs := add d.macs } else d }

/-- The output elements of a tile, row by row. -/
def tilePairs (rows : List (Nat × Nat)) (cols : List Nat) : List (Nat × Nat) :=
  rows.flatMap fun r => cols.map fun n => (r.1, n)

/-- buf as a native tile starts: zero, or D's previous contents (R268, R269). -/
def State.tileStart (s : State) (c : Cmd) (m : MatBlock) (ps : List (Nat × Nat)) : List Word :=
  ps.map fun p =>
    if c.acc then
      let z := dBytes c.fmt
      BitVec.ofNat 32 (s.cmdNat c (m.doff + p.1 * m.sd + z * p.2) z * (if z = 2 then 65536 else 1))
    else 0

/-- acc and buf after a step in which an element's products are given (R45). -/
def accStep (promote : Bool) (ps : List FpVal) (acc : Nat) (buf : Word) : Nat × Word :=
  let acc := roundSum .fp26 (Fmt.fp26.decode acc :: ps)
  if promote then (0, BitVec.ofNat 32 (roundSum .fp32 [f32 buf, Fmt.fp26.decode acc])) else (acc, buf)

/-- Writes a native tile's buf to D, row by row (R45, R269). -/
def State.tileWrite (s : State) (c : Cmd) (m : MatBlock) (l : List ((Nat × Nat) × Word)) : State :=
  l.foldl (fun s p =>
    let z := dBytes c.fmt
    let v := if z = 2 then (Fmt.bf16.convert .rne false (f32 p.2)).1 else p.2.toNat
    s.cmdWrite c (m.doff + p.1.1 * m.sd + z * p.1.2) (leBytes z v)) s

/-- One K-step of the command's native tile in progress, with its counts, and D's write after the last
(R248, R254, R269). -/
def State.matStep (s : State) (c : Cmd) : State × Cmd :=
  let m := matBlock c.block
  let mts := ceilDiv m.m 96
  let rows := tileRows c m (c.tile % mts)
  let cols := tileCols m (c.tile / mts)
  let ps := tilePairs rows cols
  let steps := matSteps c m
  let ks := stepKs c c.tileStep
  let bufs := if c.tileStep = 0 then s.tileStart c m ps else c.bufs
  let accs := if c.tileStep = 0 then ps.map fun _ => 0 else c.accs
  let inK (k : Nat) : Bool := k < m.k
  let as := rows.map fun r => ks.map fun k => if inK k then s.aOperand c m r.1 r.2 k else none
  let bs := cols.map fun n => ks.map fun k => if inK k then s.bOperand c m n k else none
  let prods := as.flatMap fun a => bs.map fun b => (a.zip b).map fun p => matProduct p.1 p.2
  let last := c.tileStep + 1 == steps
  let promote := last || (c.tileStep + 1) % 2 ^ promoteLog c.fmt == 0
  let out := (prods.zip (accs.zip bufs)).map fun p => accStep promote p.1 p.2.1 p.2.2
  let some? (o : Option FpVal) : Bool := o.isSome
  let multiplied := ((List.range ks.length).map fun i =>
    (as.filter fun a => some? ((a[i]?).join)).length * (bs.filter fun b => some? ((b[i]?).join)).length).foldl (· + ·) 0
  let all := rows.length * cols.length * (ks.filter inK).length
  let s := s.harvests c.ctx [(fmtPair c.fmt, multiplied), (11, all - multiplied)]
  let s := if multiplied = 0 then s else s.countRegion c (fmtPair c.fmt) multiplied
  if last then
    (s.tileWrite c m (ps.zip (out.map (·.2))), { c with tile := c.tile + 1, tileStep := 0, accs := [], bufs := [] })
  else (s, { c with tileStep := c.tileStep + 1, accs := out.map (·.1), bufs := out.map (·.2) })

/-! ### Gathers and scatters (R255 to R257) -/

/-- A GATH or SCAT begins: without RESUME it clears DONE, which lies in its scratchpad (R257). -/
def gatherStart (e : Eng) (c : Cmd) : Eng × Cmd :=
  if c.cleared then (e, c)
  else ({ e with s := e.s.cmdWrite c (gatherBlock c.block).soff (leBytes 96 0) }, { c with cleared := true })

/-- Element i has been performed: its bit of DONE is set (R256). -/
def gatherMark (e : Eng) (c : Cmd) (i : Nat) : Eng × Cmd :=
  let c := { c with done := c.done + 2 ^ i }
  ({ e with s := e.s.cmdWrite c ((gatherBlock c.block).soff + i / 8) [BitVec.ofNat 8 (c.done / 2 ^ (i / 8 * 8))] }, c)

/-- Performs element `progress` of a GATH or SCAT, or notes why it fails (R256). An element already done is
passed over. -/
def gatherStep (e : Eng) (c : Cmd) : Except Stop (Eng × Cmd) :=
  let (e, c) := gatherStart e c
  let q := gatherBlock c.block
  let i := c.progress
  let next : Cmd := { c with progress := i + 1 }
  if c.done.testBit i then .ok (e, next)
  else
    let x := e.s.cmdNat c (q.ioff + 4 * i) 4
    let va := q.base + q.z * x
    let fail (why : Nat) : Except Stop (Eng × Cmd) :=
      .ok ({ e with ans := [] }, { next with fails := c.fails ++ [(i, why, va % 2 ^ 64)] })
    if 2 ^ 56 ≤ q.base then fail 2
    else if q.bound ≤ x then fail 1
    else if 2 ^ 56 ≤ va then fail 2
    else if va % q.z ≠ 0 then fail 3
    else
      let r : Except Stop Eng :=
        if c.kind = .scat then e.write c va (e.s.cmdBytes c (q.doff + q.z * i) q.z)
        else match e.read c va q.z with
          | .error x => .error x
          | .ok (bs, e) => .ok { e with s := e.s.cmdWrite c (q.doff + q.z * i) (bs.take q.z) }
      match r with
      | .ok e => .ok (gatherMark e next i)
      | .error (.absent _ code) => fail (3 + code)
      | .error (.failed _) => fail 6
      | .error x => .error x

/-- The status block (R256). -/
def statusBlock (c : Cmd) : List Byte :=
  let entry (f : Nat × Nat × Nat) : List Byte := leBytes 4 (f.1 + 2 ^ 16 * f.2.1) ++ leBytes 4 0 ++ leBytes 8 f.2.2
  let list := (c.fails.take 32).flatMap entry
  leBytes 96 c.done ++ leBytes 4 c.fails.length ++ leBytes 92 0 ++ list ++ leBytes (576 - list.length) 0

/-! ### The step store (R259 to R261, R276) -/

/-- The address of a key's entry (R259). -/
def State.stepEntry (s : State) (ctx key : Nat) : Nat :=
  let x := s.context ctx
  x.stepbase + key % 2 ^ x.stepj * x.stepent

/-- Where OUT lies in an entry with an input of n bytes. -/
def outOffset (n : Nat) : Nat := 0xC0 + ceilDiv n 192 * 192

/-- A probe's block: input bytes and output bytes. -/
def probeIn (c : Cmd) : Nat := 4 * field c.block 3 0 16
/-- Output bytes of a probe's block. -/
def probeOut (c : Cmd) : Nat := 4 * field c.block 3 16 16
/-- Elements of a probe. -/
def probeCount (c : Cmd) : Nat := if c.bf16 then probeIn c / 2 else probeIn c / 4

/-- The first read of the entry: KEY, TAG, INBYTES, OUTBYTES, VALID, INFMT, and whether they match (R261,
R276). -/
def probeHeader (e : Eng) (c : Cmd) : Except Stop (Eng × Cmd) :=
  match e.readWords c (e.s.stepEntry c.ctx (word c.block 0)) 6 with
  | .error x => .error x
  | .ok (h, e) =>
    let age := (c.step - h.getD 1 0).toNat
    let ok := word h 4 == 1 && word h 0 == word c.block 0 && word h 2 == probeIn c && word h 3 == probeOut c &&
      word h 5 == (if c.bf16 then 8 else 7) && 1 ≤ age && age ≤ word c.block 7
    .ok (e, { c with header := h, matching := ok })

/-- Whether two inputs agree within tau: d = |RN(x - y)| in FP32, and a NaN fails (R261). -/
def closeTo (x y tau : Word) : Bool :=
  let d := BitVec.ofNat 32 ((Fmt.fp32.sub .rne (f32 x) (f32 y)).1 % 2 ^ 31)
  !(f32 d).isNan && !(f32 tau).isNan && !(f32 tau).lt (f32 d)

/-- Compares element `progress` of the input with the snapshot (R261). DEDUCED, log entry 35. -/
def probeStep (e : Eng) (c : Cmd) : Except Stop (Eng × Cmd) :=
  let i := c.progress
  let z := if c.bf16 then 2 else 4
  let xa := if c.sp then word c.block 1 else word c.block 1 + 2 ^ 32 * word c.block 2
  let widen (bs : List Byte) : Word := BitVec.ofNat 32 (leNat bs * (if c.bf16 then 65536 else 1))
  let input : Except Stop (List Byte × Eng) :=
    if c.sp then .ok (e.s.cmdBytes c (xa + z * i) z, e)
    else if xa % 4 ≠ 0 then .error (.failed 0x11)
    else e.read c (xa + z * i : Nat) z
  match input with
  | .error x => .error x
  | .ok (x, e) =>
    match e.read c (e.s.stepEntry c.ctx (word c.block 0) + 0xC0 + z * i : Nat) z with
    | .error x => .error x
    | .ok (y, e) =>
      .ok (e, { c with progress := i + 1, matching := c.matching && closeTo (widen x) (widen y) (c.block.getD 6 0) })

/-- The end of a probe: the second read, and on a match OUT and the counts, then the outcome word (R261). -/
def probeEnd (e : Eng) (c : Cmd) : Except Stop State :=
  let entry := e.s.stepEntry c.ctx (word c.block 0)
  match e.readWords c entry 5 with
  | .error x => .error x
  | .ok (h, e) =>
    let same := [0, 1, 4].all fun i => word h i == word c.header i
    if c.matching && same && word h 4 == 1 then
      match e.readWords c (entry + outOffset (probeIn c)) (probeOut c / 4) with
      | .error x => .error x
      | .ok (out, e) =>
        match e.readWords c (entry + 0x18) 22 with
        | .error x => .error x
        | .ok (macs, e) =>
          let s := e.s.cmdWrite c (word c.block 4) (wordsBytes out)
          let s := s.harvests c.ctx ((12, 1) :: (List.range 11).map fun i =>
            (13 + i, word macs (2 * i) + 2 ^ 32 * word macs (2 * i + 1)))
          .ok (s.cmdWrite c (word c.block 5) (leBytes 4 1))
    else .ok (e.s.cmdWrite c (word c.block 5) (leBytes 4 0))

/-- Input and output bytes of an SCSAVE. -/
def saveIn (c : Cmd) : Nat := 4 * field c.block 2 0 16
/-- Output bytes of an SCSAVE. -/
def saveOut (c : Cmd) : Nat := 4 * field c.block 2 16 16

/-- The first part of an SCSAVE: VALID := 0; an entry that would pass ENT fails first (R259, R260).
DEDUCED, log entry 36. -/
def saveBegin (e : Eng) (c : Cmd) : Except Stop State :=
  if (e.s.context c.ctx).stepent < outOffset (saveIn c) + saveOut c then .error (.failed 0x14)
  else (e.write c (e.s.stepEntry c.ctx (word c.block 0) + 0x10 : Nat) (leBytes 4 0)).map (·.s)

/-- The second and third parts: header, IN and OUT, then VALID := 1 (R260). -/
def saveEnd (e : Eng) (c : Cmd) : Except Stop State := do
  let entry := e.s.stepEntry c.ctx (word c.block 0)
  let nin := saveIn c
  let macs := (List.range 11).flatMap fun i => leBytes 8 (c.macs.get 0 i)
  let head := bytesWords 4 (leBytes 4 (word c.block 0) ++ leBytes 4 c.step.toNat ++ leBytes 4 nin ++ leBytes 4 (saveOut c))
  let e ← e.writeWords c entry head
  let e ← e.writeWords c (entry + 0x14) (c.block.getD 4 0 :: bytesWords 22 macs)
  let e ← e.writeWords c (entry + 0x70) (List.replicate 20 0)
  let e ← e.writeWords c (entry + 0xC0) (e.s.cmdWords c (word c.block 1) (nin / 4))
  let e ← e.writeWords c (entry + outOffset nin) (e.s.cmdWords c (word c.block 3) (saveOut c / 4))
  let e ← e.write c (entry + 0x10 : Nat) (leBytes 4 1)
  pure e.s

/-! ### Going on with a command -/

/-- Elements or steps that a command's engine goes through. -/
def Cmd.total (c : Cmd) : Nat :=
  match c.kind with
  | .cpy => (copyTile c.block).count
  | .gath => (gatherBlock c.block).e
  | .scat => (gatherBlock c.block).e
  | .scprobe => probeCount c + 1
  | .scsave => 0
  | .nredx => 0
  | _ =>
    let m := matBlock c.block
    matSteps c m * (ceilDiv m.m 96 * ceilDiv m.n 96)

/-- Elements or steps that it has gone through. -/
def Cmd.gone (c : Cmd) : Nat :=
  match c.kind with
  | .scprobe => if c.header.isEmpty then 0 else c.progress + 1
  | .mma => c.tile * matSteps c (matBlock c.block) + c.tileStep
  | .mmas => c.tile * matSteps c (matBlock c.block) + c.tileStep
  | .mmag => c.tile * matSteps c (matBlock c.block) + c.tileStep
  | _ => c.progress

/-- The next element or step of a command. -/
def Eng.unit (e : Eng) (c : Cmd) : Except Stop (Eng × Cmd) :=
  match c.kind with
  | .cpy => copyStep e c
  | .gath => gatherStep e c
  | .scat => gatherStep e c
  | .scprobe => if c.header.isEmpty then probeHeader e c else probeStep e c
  | .scsave => .ok (e, c)
  | .nredx => .ok (e, c)
  | _ =>
    let p := e.s.matStep c
    .ok ({ e with s := p.1 }, p.2)

/-- A command whose engine is at work on it. -/
def Cmd.working (c : Cmd) : Bool :=
  !c.saved && (c.phase == .running || (c.phase == .queued && (c.kind == .gath || c.kind == .scat)) || c.phase == .begun)

/-- A command's engine may go on now: it waits for no retry to be sent again (R194), the clock in which its entries were
made has passed (R214), and no older store of its group is on its way to a scratchpad (R27, R281). -/
def State.mayWork (s : State) (id : Nat) (c : Cmd) : Bool :=
  c.retryAt ≤ s.coreCycle c.core &&
    (s.cores.all fun v => v.2.locks.all fun l => l.cmd != id || l.from_ ≤ s.coreCycle v.1) &&
    (s.group c.group).results.all fun r => r.bank.isNone || id < r.id

/-- Goes on with a command by at most n elements or steps, and says why it stopped, if it did.
DESIGN CHOICE, log entry 37. -/
def State.runCmd (s : State) (id : Nat) : Nat → State × Option Stop
  | 0 => (s, none)
  | n + 1 =>
    match s.cmds.find? id with
    | none => (s, none)
    | some c =>
      if c.total ≤ c.gone then (s, none)
      else if !s.mayWork id c then (s, some .wait)
      else match Eng.unit ⟨s, c.answers, id⟩ c with
        | .error x => (s, some x)
        | .ok (e, c') =>
          let s' := { e.s with cmds := e.s.cmds.put id { c' with answers := e.ans } }
          s'.runCmd id n

/-- Goes on with a command to the end of its elements or to its stop. -/
def State.runOut (s : State) (id : Nat) : State × Option Stop :=
  match s.cmds.find? id with
  | none => (s, none)
  | some c => s.runCmd id (c.total - c.gone)

/-- Asks a peer device on a command's behalf. DESIGN CHOICE, log entry 38. -/
def State.askPeer (s : State) (id : Nat) (c : Cmd) (va key : Nat) (op : PeerOp) : State :=
  let c' : Cmd := { c with phase := .asking, begun := c.phase == .begun }
  { s with cmds := s.cmds.put id c' }.sendTo c.ctx
    { dev := 0, seq := 0, key := key, op := op, group := c.group, lane := 0, va := va, cmd := some id, site := c.site }

/-! ### Completion (R214, R243, R244, R253) -/

/-- Drops a command's entries from every range-lock table: all of them, or its sources only. Accesses see the clear from
the next clock on (R214). -/
def State.dropLocks (s : State) (id : Nat) (sourcesOnly : Bool) : State :=
  let stays (l : RangeLock) : Bool := l.cmd != id || (sourcesOnly && l.dest)
  { s with
    cores := s.cores.mapVals fun v x =>
      let now := s.coreCycle v
      { x with
        locks := x.locks.filter stays
        cleared := x.cleared.filter (fun l => l.1 == now) ++ (x.locks.filter fun l => !stays l).map fun l => (now, l) } }

/-- A group that waits on a ticket or batch that is complete is ready again (R84, R266). -/
def State.wakeTicket (s : State) (k : Nat) : State :=
  match (s.group k).wait with
  | .ticket t _ => if s.outstanding k t then s else s.modGroup k fun g => g.wakes (s.cycle k)
  | .batch n => if s.batchOpen k n then s else s.modGroup k fun g => g.wakes (s.cycle k)
  | _ => s

/-- Completes a command: its locks clear, its counter and a batch's fall, waiters are ready. A failure status
writes a fault record and leaves the group a deferred engine fault (R244). -/
def State.finishCmd (s : State) (id status : Nat) : State :=
  match s.cmds.find? id with
  | none => s
  | some c =>
    let k := c.group
    let s := { s.dropLocks id false with cmds := s.cmds.erase id }
    let s := s.modGroup k fun g => g.lowerCounter c.counter
    let s := match c.batch with
      | some n => if s.batchOpen k (BitVec.ofNat 32 n) then s else s.modGroup k fun g => g.lowerCounter (some 6)
      | none => s
    let s := if status = 0 then s
      else
        let s := s.faultRecord c.ctx (s.groupRecord k { kind := 5, code := status, site := c.site })
        s.modGroup k fun g => if g.halted then g else { g with pending := g.pending ++ [.engine c.site status] }
    s.wakeTicket k

end Sys2Proof.Machine
end

