-- ==== Sys2Proof/Machine/EngineEvents.lean ====
section
/-! DEFINITION. The steps of the engines: taking and completing commands, stops and failures, and exact sums at
their roots (R214, R244 to R262, R293, R320 to R323, R335). -/

namespace Sys2Proof.Machine

/-- An event's outcome: its next state, or a refusal by name while its conditions do not hold. -/
def event (name : String) (o : Option State) : Host.Outcome State Fault Refusal :=
  match o with
  | some s => .next s
  | none => .refused (.notEnabled name)

/-- COMMAND_ISSUE_RESUME: a held command issues once its entries and places are free, in the order in which
commands began to wait (R214). DESIGN CHOICE, log entry 33. -/
def execCommandIssueResume (g : Nat) (s : State) : Host.Outcome State Fault Refusal :=
  let x := s.group g
  match x.wait with
  | .command ents m =>
    if s.canTake g ents m && !s.behind g (x.heldSince.getD s.fresh) ents m then
      (s.resumeCommand g x.instr).getD (.refused (.notEnabled "COMMAND_ISSUE_RESUME"))
    else .refused (.notEnabled "COMMAND_ISSUE_RESUME")
  | _ => .refused (.notEnabled "COMMAND_ISSUE_RESUME")

/-- A state with a command changed. -/
def State.modCmd (s : State) (id : Nat) (f : Cmd → Cmd) : State := { s with cmds := s.cmds.modify id f }

/-! ### Commits of engines (R361, R362) -/

/-- A step of a command's engine that makes accesses: in a logging or replaying context its accesses commit in one, in
their turn. -/
def State.asChunk (s : State) (c : Cmd) (o : Option State) : Option State :=
  if s.mayCommit c.ctx 1 c.core then o.map fun t => t.commitAgent c.ctx 1 c.core (slotOf c.group) else none

/-- Whether a command's context neither logs nor replays: its engine may go on step by step. -/
def State.stepwise (s : State) (c : Cmd) : Bool := (s.context c.ctx).observe.mode == 0

/-! ### The copy, matrix and gather engines -/

/-- A command pauses: a peer device is asked (R332), a retry is sent again 32 clocks later, or a home slice holds a request
of it through a recall (R194). -/
def State.pauseCmd (s : State) (id : Nat) (x : Stop) : Option State :=
  match x with
  | .ask va key op => (s.cmds.find? id).map fun c => s.askPeer id c va key op
  | .retry s => some (s.modCmd id fun c => { c with retryAt := s.coreCycle c.core + 32 })
  | .held s => some s
  | _ => none

/-- An error that an engine finds in a line spoils the line, ends the grid and with it the command (R289, R368). -/
def State.spoilCmd (s : State) (id : Nat) (c : Cmd) (va line : Nat) : State :=
  ((s.spoil line).endGrid c.grid 0xE0 va).finishCmd id 0

/-- The engine of a command goes on by at most n elements or steps, and may pause. -/
def State.engineStep (s : State) (id n : Nat) : Option State :=
  match s.cmds.find? id with
  | none => none
  | some c =>
    if !c.working || !s.stepwise c then none
    else match s.runCmd id n with
      | (t, some (.spoilt va line)) => some (t.spoilCmd id c va line)
      | (t, some x) => some ((t.pauseCmd id x).getD t)
      | (t, none) => some t

/-- The oldest queued command of some kinds at a core. -/
def State.oldestQueued (s : State) (core : Nat) (kinds : CmdKind → Bool) : Option Nat :=
  (s.cmds.filter fun c => c.2.core == core && !c.2.saved && kinds c.2.kind && c.2.phase == .queued).head?.map (·.1)

/-- How many of a core's places commands of some kinds take. -/
def State.placesTaken (s : State) (core : Nat) (kinds : CmdKind → Bool) : Nat :=
  (s.cmds.filter fun c => c.2.core == core && !c.2.saved && kinds c.2.kind && c.2.phase != .queued).length

/-- The commands that run in a copy engine's places (R246, R276). -/
def CmdKind.copies : CmdKind → Bool
  | .cpy => true
  | .scprobe => true
  | _ => false

/-- COPY_ENGINE_TAKE: the copy engine takes its oldest command, up to four at once (R246). -/
def execCopyEngineTake (core : Nat) (s : State) : Host.Outcome State Fault Refusal :=
  event "COPY_ENGINE_TAKE" (
    match s.oldestQueued core CmdKind.copies with
    | some id => if s.placesTaken core CmdKind.copies < 4 then some (s.modCmd id fun c => { c with phase := .running }) else none
    | none => none)

/-- MATRIX_ENGINE_TAKE: the matrix engine takes its oldest command, one at a time (R248, R272). -/
def execMatrixEngineTake (core : Nat) (s : State) : Host.Outcome State Fault Refusal :=
  event "MATRIX_ENGINE_TAKE" (
    match s.oldestQueued core CmdKind.isMatrix with
    | some id => if s.placesTaken core CmdKind.isMatrix = 0 then some (s.modCmd id fun c => { c with phase := .running }) else none
    | none => none)

/-- SOURCE_READ_DONE: the engine has read all of the sources' bytes; their entries clear (R214, R277). -/
def execSourceReadDone (cmd : Nat) (s : State) : Host.Outcome State Fault Refusal :=
  event "SOURCE_READ_DONE" (
    match s.cmds.find? cmd with
    | none => none
    | some c =>
      if c.sourceRead || c.saved || c.kind == .scsave then none
      else if c.kind = .nredx then
        if !s.mayWork cmd c then none
        else s.asChunk c (some ((s.modCmd cmd fun c =>
          { c with sourceRead := true, age := s.clock, data := s.cmdWords c (word c.block 0) (word c.block 2) }).dropLocks cmd true))
      else if !c.working || !s.stepwise c then none
      else match s.runOut cmd with
        | (s, none) => some ((s.modCmd cmd fun c => { c with sourceRead := true }).dropLocks cmd true)
        | _ => none)

/-- Runs a command out and completes it, with what its kind still does at its end. -/
def State.completeCmd (s : State) (cmd : Nat) (kinds : CmdKind → Bool) (last : State → Cmd → Option State) :
    Option State :=
  match s.cmds.find? cmd with
  | none => none
  | some c =>
    if !kinds c.kind || !c.working || !s.mayWork cmd c then none
    else s.asChunk c (match s.runOut cmd with
      | (s, none) => ((s.cmds.find? cmd).bind (last s)).map fun s => s.finishCmd cmd 0
      | _ => none)

/-- CPY_COMPLETE: the copy's last element is written (R246). -/
def execCpyComplete (cmd : Nat) (s : State) : Host.Outcome State Fault Refusal :=
  event "CPY_COMPLETE" (s.completeCmd cmd (· == .cpy) fun s _ => some s)

/-- MATRIX_COMMAND_COMPLETE: the last native tile is written (R248). -/
def execMatrixCommandComplete (cmd : Nat) (s : State) : Host.Outcome State Fault Refusal :=
  event "MATRIX_COMMAND_COMPLETE" (s.completeCmd cmd CmdKind.isMatrix fun s _ => some s)

/-- GATHER_SCATTER_COMPLETE: every element is performed or has failed, and the status block is written (R255,
R256). -/
def execGatherScatterComplete (cmd : Nat) (s : State) : Host.Outcome State Fault Refusal :=
  event "GATHER_SCATTER_COMPLETE" (s.completeCmd cmd (fun k => k == .gath || k == .scat) fun s c =>
    some (s.cmdWrite c (gatherBlock c.block).soff (statusBlock c)))

/-- SCPROBE_COMPLETE (R261, R276). -/
def execScprobeComplete (cmd : Nat) (s : State) : Host.Outcome State Fault Refusal :=
  event "SCPROBE_COMPLETE" (s.completeCmd cmd (· == .scprobe) fun s c =>
    match probeEnd ⟨s, c.answers, cmd⟩ c with
    | .ok s => some s
    | .error _ => none)

/-- Whether every matrix command of an SCSAVE's region has completed (R260). -/
def State.regionDone (s : State) (c : Cmd) : Bool :=
  c.region.isNone || !(s.cmds.any fun d => d.2.group == c.group && d.2.kind.isMatrix && d.2.region == c.region)

/-- A probe that has read the header of an entry which an SCSAVE now begins to write misses: a match that mixes the old
entry with the new is forbidden, also where both carry one TAG (R261, R355). DEDUCED, log entry 103. -/
def State.spoilProbes (s : State) (c : Cmd) : State :=
  { s with
    cmds := s.cmds.mapVals fun _ d =>
      if d.kind = .scprobe && d.ctx == c.ctx &&
          s.stepEntry c.ctx (word d.block 0) == s.stepEntry c.ctx (word c.block 0) && !d.header.isEmpty then
        { d with matching := false }
      else d }

/-- SCSAVE_START: begins once the region's commands have completed, with VALID := 0 (R260). -/
def execScsaveStart (cmd : Nat) (s : State) : Host.Outcome State Fault Refusal :=
  event "SCSAVE_START" (
    match s.cmds.find? cmd with
    | none => none
    | some c =>
      if c.kind != .scsave || c.saved || c.phase != .queued || !s.regionDone c || !s.mayWork cmd c then none
      else s.asChunk c (match saveBegin ⟨s, c.answers, cmd⟩ c with
        | .ok s => some ((s.spoilProbes c).modCmd cmd fun c => { c with phase := .begun, answers := [] })
        | .error _ => none))

/-- SCSAVE_COMPLETE: the entry's second and third parts are written (R260). -/
def execScsaveComplete (cmd : Nat) (s : State) : Host.Outcome State Fault Refusal :=
  event "SCSAVE_COMPLETE" (
    match s.cmds.find? cmd with
    | none => none
    | some c =>
      if c.kind != .scsave || c.saved || c.phase != .begun || !s.mayWork cmd c then none
      else s.asChunk c (match saveEnd ⟨s, c.answers, cmd⟩ c with
        | .ok s => some (s.finishCmd cmd 0)
        | .error _ => none))

/-! ### Stops and failures -/

/-- Where a command's engine stops now, with the state that its work up to there leaves. -/
def State.stopOf (s : State) (cmd : Nat) : Option (State × Cmd × Stop) :=
  match s.cmds.find? cmd with
  | none => none
  | some c =>
    let ending (s : State) (c : Cmd) (r : Except Stop State) : Option (State × Cmd × Stop) :=
      match r with
      | .error x => some (s, c, x)
      | .ok _ => none
    if c.kind = .scsave then
      if c.saved || !(s.regionDone c) || !s.mayWork cmd c then none
      else if c.phase = .queued then ending s c (saveBegin ⟨s, c.answers, cmd⟩ c)
      else if c.phase = .begun then ending s c (saveEnd ⟨s, c.answers, cmd⟩ c)
      else none
    else if !c.working then none
    else match s.runOut cmd with
      | (s, some x) => (s.cmds.find? cmd).map fun c => (s, c, x)
      | (s, none) =>
        match s.cmds.find? cmd with
        | some c => if c.kind = .scprobe && s.mayWork cmd c then ending s c (probeEnd ⟨s, c.answers, cmd⟩ c) else none
        | none => none

/-- An engine that stops at a peer device or at another core's pin pauses there. -/
def State.enginePause (s : State) (cmd : Nat) : Option State :=
  match s.stopOf cmd with
  | some (t, c, x) => s.asChunk c (t.pauseCmd cmd x)
  | none => none

/-- ENGINE_PAGE_FAULT: the command stops at an element whose page is not present or malformed, and a kind-3
record names its site (R246, R293). -/
def execEnginePageFault (cmd : Nat) (s : State) : Host.Outcome State Fault Refusal :=
  event "ENGINE_PAGE_FAULT" (
    match s.stopOf cmd with
    | some (t, c, .absent va code) =>
      let seq := (t.context c.ctx).faultSeq
      let t := t.faultRecord c.ctx (t.groupRecord c.group { kind := 3, code := 0x09 + 256 * code, site := c.site, va := va })
      s.asChunk c (some (t.modCmd cmd fun c => { c with phase := .stopped seq va, begun := c.phase == .begun }))
    | _ => none)

/-- ENGINE_FAILURE: the command ends with a failure status, or over an uncorrectable error (R244, R265, R368). -/
def execEngineFailure (cmd : Nat) (s : State) : Host.Outcome State Fault Refusal :=
  event "ENGINE_FAILURE" (
    match s.cmds.find? cmd with
    | none => none
    | some c =>
      if c.saved then none
      else if c.status ≠ 0 then some (s.finishCmd cmd c.status)
      else match s.stopOf cmd with
        | some (t, c, .failed st) => s.asChunk c (some (t.finishCmd cmd st))
        | some (t, c, .spoilt va line) => s.asChunk c (some (t.spoilCmd cmd c va line))
        | _ => none)

/-! ### Exact sums (R47, R48, R262, R320 to R323, R335) -/

/-- The partial that one contribution makes (R47). -/
def partialElem (w : Word) : PartialElem :=
  match f32 w with
  | .nan _ => { acc := 0, nan := true, pinf := false, ninf := false, allneg := false }
  | .inf neg => { acc := 0, nan := false, pinf := !neg, ninf := neg, allneg := false }
  | .fin neg m e =>
    { acc := signedAt neg m e (-149), nan := false, pinf := false, ninf := false, allneg := neg && m == 0 }

/-- Two partials of one element merged: never a rounding (R321). -/
def mergeElem (a b : PartialElem) : PartialElem :=
  { acc := a.acc + b.acc, nan := a.nan || b.nan, pinf := a.pinf || b.pinf, ninf := a.ninf || b.ninf
    allneg := a.allneg && b.allneg }

/-- The root's one rounding (R48). -/
def rootRound (x : PartialElem) : Word :=
  if x.nan || (x.pinf && x.ninf) then 0x7FC00000
  else if x.pinf then 0x7F800000
  else if x.ninf then 0xFF800000
  else if x.acc = 0 then (if x.allneg then 0x80000000 else 0)
  else BitVec.ofNat 32 (Fmt.fp32.round .rne false (x.acc < 0) x.acc.natAbs (-149)).1

/-- The instance of a scope that a core lies in (R320). -/
def scopeInst (scope : BitVec 3) (core : Nat) : Nat :=
  if scope = 2 then core / 4 else if scope = 3 then core / 64 else 0

/-- A partial that reaches a router: its contributors, n, P, count and elements, and whether it disagrees with another
(R320, R321). -/
structure Partial where
  cmds : List Nat := []
  peers : List (Nat × Nat) := []
  n : Nat
  p : Nat
  count : Nat
  elems : List PartialElem
  bad : Bool := false

/-- Ends every command of a round with status 0x15, and answers its peers with a failure (R262). -/
def State.failRound (s : State) (cmds : List Nat) (peers : List (Nat × Nat)) : State :=
  let s := cmds.foldl (fun s id => s.modCmd id fun c => { c with status := 0x15 }) s
  { s with peerOut := s.peerOut ++ peers.map fun p => ⟨p.1, p.2, false, []⟩ }

/-- This device's DEVID as a number. -/
def ownDev : Nat := leNat Config.devId

/-- Whether a router that merges is the root of a slot of a scope: the local crossbar of a gang's cluster, the central
crossbar of a die, or that of die 0, at sys scope of the device that SYSROOT names (R320, R335). -/
def State.rootNode (s : State) (ctx : Nat) (scope : BitVec 3) (node : Nat) : Bool :=
  if scope = 2 then node < 8 else if scope = 3 then 8 ≤ node
  else node == 8 && (scope != 5 || leNat (s.context ctx).sysroot == ownDev)

/-- The routers from one that holds a partial to the next that merges, on the way to die 0 (R314, R320); none past the
central crossbar of die 0. -/
def nextNode (node : Nat) : List Nat := if node < 8 then [8 + node / 2] else if node = 8 then [] else crossing (node - 8) 0

/-- A router merges a partial with the one that it holds for the slot, or holds it; a disagreement in n or P goes with it
to the root, which ends the round, and the root completes the round at P contributions (R262, R277, R320 to R322). None
while a completed round of the slot has not sent its results. A central crossbar counts what it merges (R324). -/
def State.mergeInto (s : State) (ctx : Nat) (scope : BitVec 3) (inst slot node : Nat) (x : Partial) : Option State :=
  let root := s.rootNode ctx scope node
  let s := if node < 8 then s else s.onRouters [node] fun r => { r with merged := sat64 (r.merged + 1) }
  match (s.rounds.filter fun r =>
      r.2.ctx == ctx && r.2.scope == scope && r.2.inst == inst && r.2.slot == slot && r.2.node == node).head? with
  | none =>
    if root && x.bad then some (s.failRound x.cmds x.peers)
    else
      some { s.bump with
        rounds := s.rounds.put s.fresh
          { ctx := ctx, scope := scope, inst := inst, slot := slot, n := x.n, p := x.p, count := x.count
            elems := x.elems, contributors := x.cmds, peers := x.peers, node := node, bad := x.bad
            completed := root && x.p ≤ x.count, age := s.clock } }
  | some (id, r) =>
    let bad := r.bad || x.bad || r.n != x.n || r.p != x.p
    if r.completed then none
    else if root && bad then
      some ({ s with rounds := s.rounds.erase id }.failRound (r.contributors ++ x.cmds) (r.peers ++ x.peers))
    else
      some { s with
        rounds := s.rounds.put id
          { r with
            count := r.count + x.count, elems := (r.elems.zip x.elems).map fun p => mergeElem p.1 p.2
            contributors := r.contributors ++ x.cmds, peers := r.peers ++ x.peers, bad := bad
            completed := root && r.p ≤ r.count + x.count, age := s.clock } }

/-- A partial that the root of another device takes leaves over a peer link with its contributors; what a peer sent here
for a root that lies elsewhere fails (R335). -/
def State.sendPartial (s : State) (id : Nat) (r : Round) : State :=
  let root := leNat (s.context r.ctx).sysroot
  let seq := s.peerSeq.get 0 root
  let s : State := { s with
    rounds := s.rounds.erase id
    peerSeq := s.peerSeq.put root (seq + 1)
    peerSends := s.peerSends ++ [{
      dev := root, seq := seq, op := .merge r.ctx r.slot r.n r.p r.count r.bad r.elems, group := 0, lane := 0, va := 0
      cmds := r.contributors, since := s.clock, port := s.portTo root }] }
  s.failRound [] r.peers

/-- PARTIAL_MERGE: a contribution reaches the first router of its path, or a held partial the next, up to the slot's root;
at sys scope the root may lie on another device, to which the merged partial of this one then goes over a peer link
(R320 to R322, R324, R335). -/
def execPartialMerge (src : MergeSource) (s : State) : Host.Outcome State Fault Refusal :=
  event "PARTIAL_MERGE" (
    match src with
    | .command id =>
      match s.cmds.find? id with
      | none => none
      | some c =>
        let node := c.core / 32
        if c.kind != .nredx || !c.sourceRead || c.phase != .queued || c.saved || !s.mayPass [node] 2 c.age 0 then none
        else
          ((s.passes [node] 2 c.age 0).mergeInto c.ctx c.scope (scopeInst c.scope c.core) (word c.block 3) node
            { cmds := [id], n := word c.block 2, p := word c.block 4, count := 1, elems := c.data.map partialElem }).map
              fun s => s.modCmd id fun c => { c with phase := .sent }
    | .held id =>
      match s.rounds.find? id with
      | none => none
      | some r =>
        let path := nextNode r.node
        if s.rootNode r.ctx r.scope r.node || !s.mayPass path 2 r.age 0 then none
        else match path.getLast? with
          | none => some (s.sendPartial id r)
          | some node =>
            let s : State := { s.passes path 2 r.age 0 with rounds := s.rounds.erase id }
            s.mergeInto r.ctx r.scope r.inst r.slot node
              { cmds := r.contributors, peers := r.peers, n := r.n, p := r.p, count := r.count, elems := r.elems, bad := r.bad }
    | .peer q =>
      let done (s : State) : State := { s with peerDone := (q.dev, q.seq) :: s.peerDone }
      if s.peerDone.contains (q.dev, q.seq) then some s
      else if !s.hasPath q.dev then none
      else if (s.contexts.find? q.ctx).isNone then some ((done s).failRound [] [(q.dev, q.seq)])
      else if !s.mayPass [8] 2 s.clock 0 then none
      else
        ((s.passes [8] 2 s.clock 0).mergeInto q.ctx 5 0 q.slot 8
          { peers := [(q.dev, q.seq)], n := q.n, p := q.p, count := q.count, elems := q.elems
            bad := q.bad || q.rootDev != leNat (s.context q.ctx).sysroot }).map done)

/-- ROUND_RESULT_SEND: the root rounds and sends the result to every contributor; the slot is free. One offered more
than 2^42 contributions gives NaN for every element (R47, R48, R322). -/
def execRoundResultSend (slot : Nat) (s : State) : Host.Outcome State Fault Refusal :=
  event "ROUND_RESULT_SEND" (
    match s.rounds.find? slot with
    | none => none
    | some r =>
      if !r.completed then none
      else
        let ws := r.elems.map fun x => if 2 ^ 42 < r.count then 0x7FC00000 else rootRound x
        let s := r.contributors.foldl (fun s id => s.modCmd id fun c => { c with result := some ws, age := s.clock }) s
        let s := { s with
          rounds := s.rounds.erase slot
          peerOut := s.peerOut ++ r.peers.map fun p => ⟨p.1, p.2, true, wordsBytes ws⟩ }
        some (if r.node < 8 then s else s.onRouters [r.node] fun x => { x with rounds := sat64 (x.rounds + 1) }))

/-- The routers between the root of a reduction slot and a core, for its result (R314, R320). -/
def resultPath (scope : BitVec 3) (core : Nat) : List Nat :=
  if scope = 2 then [core / 32] else if scope = 3 then [8 + core / 64, core / 32]
  else huskPart (core / 64) ++ [core / 32]

/-- NREDX_COMPLETE: the result is written in the contributor's result range, and its elements are counted; a
round that found a disagreement ends with status 0x15 (R262, R277, R323). -/
def execNredxComplete (cmd : Nat) (s : State) : Host.Outcome State Fault Refusal :=
  event "NREDX_COMPLETE" (
    match s.cmds.find? cmd with
    | none => none
    | some c =>
      if c.kind != .nredx || c.saved then none
      else if c.status ≠ 0 then some (s.finishCmd cmd c.status)
      else match c.result with
        | none => none
        | some ws =>
          let path := resultPath c.scope c.core
          if !s.mayPass path 2 c.age 0 then none else
          let s := (s.passes path 2 c.age 0).cmdWrite c (word c.block 1) (wordsBytes ws)
          s.asChunk c (some ((s.harvests c.ctx [(28, word c.block 2)]).finishCmd cmd 0)))

end Sys2Proof.Machine
end

