-- ==== Sys2Proof/Machine/Slice.lean ====
section
/-! DEFINITION. What lies between an access and its home slice: retries and pins (R194), room in an L1 (R193),
reuse histograms (R359) and poisoned lines (R368). -/

namespace Sys2Proof.Machine

/-! ### Lines of an access -/

/-- Whether a key is a byte of local memory: neither a host nor a peer window. -/
def isLocal (key : Nat) : Bool := key < Config.windowKey

/-- Bytes that an entry of an access touches. -/
def Access.bytesOf (a : Access) (x : LaneAcc) : Nat := if x.data.isEmpty || a.op.returns then a.size else x.data.length

/-- Adds sectors to a map of lines. -/
def addSectors (m : AMap (BitVec 4)) (line : Nat) (mask : BitVec 4) : AMap (BitVec 4) :=
  m.put line (m.get 0 line ||| mask)

/-- The local lines that an access touches, with the sectors (R197). -/
def Access.lines (a : Access) : AMap (BitVec 4) :=
  a.lanes.foldl (fun m x =>
    if isLocal x.key then addSectors m (lineOf x.key) (sectorMask (lineOf x.key) x.key (a.bytesOf x)) else m) []

/-- An access of a group that is in flight. -/
def State.access (s : State) (g id : Nat) : Option Access := (s.group g).accesses.filter (fun a => a.id == id) |>.head?

/-- The sectors of a line that a core holds pinned. -/
def State.ownPins (s : State) (c line : Nat) : BitVec 4 :=
  (List.range 4).foldl (fun m i => if s.pinOwner line i = some c then m ||| (1#4 <<< i) else m) 0

/-- The sectors of a line that the lanes of one beat of 32 touch: beats share no request (R197). -/
def Access.beatMask (a : Access) (line beat : Nat) : BitVec 4 :=
  a.lanes.foldl (fun m x =>
    if x.lane / 32 == beat && isLocal x.key then m ||| sectorMask line x.key (a.bytesOf x) else m) 0

/-- Whether the slice serves a request to a line now, of those that `own` tells: the line is not being recalled, and of the
requests held through a recall one of these is the next (R194). -/
def State.servesOf (s : State) (line : Nat) (own : Nat × Nat → Bool) : Bool :=
  match s.pins.find? line with
  | none => true
  | some p => !p.recalling && (s.nextHeld line p).all own

/-- Whether the slice serves the requests of an access to a line now. -/
def State.serves (s : State) (g id line : Nat) : Bool := s.servesOf line fun h => h.1 == g && h.2 / 3 == id

/-- Whether the request of a beat of an access for a line has waited out the 32 clocks after a retry (R194). -/
def State.resent (s : State) (g id line beat : Nat) : Bool :=
  match s.access g id with
  | none => true
  | some a => a.retryAt.get 0 (3 * line + beat) ≤ s.cycle g

/-- Whether the home slice can be reached and can serve a request for sectors of a line: the routers on the way are awake,
it holds the line, no other core holds the sectors pinned, and within the clock the group's turn has not passed
(R194, R226, R318). -/
def State.homeOpen (s : State) (g line : Nat) (mask : BitVec 4) : Bool :=
  s.awake (routePart (coreOf g) (dieOf line)) && s.l2.contains line && !s.pinnedElsewhere (coreOf g) line mask && s.turnOf line g

/-- Whether the home slice can serve the requests of an access for sectors of a line, retried ones sent again (R194). -/
def State.homeReady (s : State) (g id line : Nat) (mask : BitVec 4) : Bool :=
  s.homeOpen g line mask && s.serves g id line && (List.range 3).all (s.resent g id line)

/-- The first beat of an access whose request for sectors of a line the home slice can serve, with the sectors: `need` are
those that a beat asks for (R194, R197). -/
def State.openBeat (s : State) (g : Nat) (a : Access) (line : Nat) (need : BitVec 4 → BitVec 4) : Option (Nat × BitVec 4) :=
  (((List.range 3).map fun b => (b, need (a.beatMask line b))).filter fun p =>
    p.2 != 0 && s.homeOpen g line p.2 && s.servesOf line (· == (g, requestKey a.id p.1)) && s.resent g a.id line p.1).head?

/-- Takes the requests of an access off the lists of held requests. -/
def State.unhold (s : State) (g id : Nat) : State :=
  { s with
    pins := (s.pins.mapVals fun _ p => { p with held := p.held.filter fun h => !(h.1 == g && h.2 / 3 == id) }).filter
      fun p => !(p.2.owners.isEmpty && p.2.held.isEmpty && !p.2.recalling) }

/-! ### Room in the L1 -/

/-- Lines that an L1 holds: 2 MiB of 192 bytes (R193). DESIGN CHOICE, log entry 58. -/
def l1Capacity : Nat := 2 * 2 ^ 20 / 192

/-- A line leaves an L1 while loads of its promoted groups are in flight: one that had executed early is replayed, and
counted; which had is free (R159, R167). DESIGN CHOICE, log entry 77. -/
def State.noteReplay (s : State) (c line : Nat) : State :=
  let early (p : Nat × Group) : Bool :=
    coreOf p.1 == c && p.2.engine == .sprinter && p.2.accesses.any fun a => a.op.kind == .load && (a.lines.find? line).isSome
  if s.groups.any early then
    let n := if (Config.freeWord s.free).getLsbD 0 then 1 else 0
    { s with free := s.free + 1 }.countEvent c fun e => { e with replays := e.replays + n }
  else s

/-- Evicts a line: its dirty sectors go to the home, its pins end (R193, R200). -/
def State.evictL1 (s : State) (c line : Nat) : State :=
  let s := if s.ownPins c line = 0 then s
    else s.countEvent c fun e => { e with pinnedEvictions := e.pinnedEvictions + 1 }
  ((s.noteReplay c line).writeBack c line 1).modCore c fun x => { x with l1 := x.l1.erase line }

/-- The lines of an L1 from the one used longest ago to the one used last. -/
def leastUsed (l1 : AMap L1Line) : Option Nat :=
  (l1.foldl (fun m p => match m with
    | some (l, u) => if p.2.used < u then some (p.1, p.2.used) else some (l, u)
    | none => some (p.1, p.2.used)) none).map (·.1)

/-- Makes room for a line that the L1 does not hold, by the victim named, else by the line used longest ago (R193).
DESIGN CHOICE, log entry 98. -/
def State.makeRoom (s : State) (c line : Nat) (victim : Option Nat) : State :=
  let l1 := (s.core c).l1
  if (l1.find? line).isSome || l1.length < l1Capacity then s
  else match victim.orElse fun _ => leastUsed l1 with
    | some v => s.evictL1 c v
    | none => s

/-- Notes that an L1 has used a line that it holds, for its replacement (R193). -/
def State.useL1 (s : State) (c line : Nat) : State :=
  s.modCore c fun x => { x with l1 := x.l1.modify line fun l => { l with used := s.coreCycle c } }

/-- Copies sectors of a line from the home into an L1, valid, with the filled bit given. -/
def State.fillSectors (s : State) (c line : Nat) (mask : BitVec 4) (filled : Bool) : State :=
  let l := (s.l1 c line).getD {}
  let mask := mask &&& ~~~l.dirty
  let bytes := (List.range 192).foldl
    (fun b i => if mask.getLsbD (i / 48) then b.set 0 i (s.byte (192 * line + i)) else b) l.bytes
  s.setL1 c line
    { l with
      bytes := bytes, valid := l.valid ||| mask, stale := l.stale &&& ~~~mask, used := s.coreCycle c
      filled := if filled then l.filled ||| mask else l.filled &&& ~~~mask }

/-! ### Service at a slice -/

/-- An access of a group may arm a register of the line's slice, with probability 2^-q: of 64 for its kernel's slot that
are in use the oldest is displaced. Where the one that would be was reused in this clock, the arming waits a clock (R359). -/
def State.armReuse (s : State) (g line : Nat) : State :=
  let entry := ((s.grids.find? (s.group g).grid).map fun q => q.launch.entry.toNat).getD 0
  if !(s.control 6).en then s
  else match s.reuseSlot entry with
    | none => s
    | some slot =>
      let q := min 12 (s.control 6).setting
      let own := s.reuse.filter fun r => r.slot == slot && r.slice == sliceOf line && r.leaving != some false
      let live := own.filter fun r => r.leaving == none
      let waits := live.length < 64 && 64 ≤ own.length && (own.head?.map fun r => r.leaving == some true).getD false
      let oldest := if live.length < 64 then none else live.head?
      let new : ReuseReg :=
        { ctx := (s.group g).ctx, slot := slot, slice := sliceOf line, line := line
          armed := if waits then s.clock + 1 else s.clock }
      if q = 0 || Config.reuseArm s.free q then
        { s with
          free := s.free + 1
          reuse := (s.reuse.map fun r =>
            if some r = oldest then { r with leaving := some false, by_ := line } else r) ++ [new] }
      else { s with free := s.free + 1 }

/-- A slice has served a request of a group, over the path between them: it holds the line, the group's turn of the clock
is noted, and a reuse register may be armed (R226, R314, R359, R372). -/
def State.touchSlice (s : State) (g line : Nat) : State :=
  ((((s.flit (routePart (coreOf g) (dieOf line)))).l2Serve line).noteServed line g).armReuse g line

/-- A slice has served the requests of an access for a line, one for each beat that asks for sectors of it (R197). -/
def State.touchBeats (s : State) (g : Nat) (a : Access) (line : Nat) (need : BitVec 4 → BitVec 4) : State :=
  (List.range 3).foldl (fun s b => if need (a.beatMask line b) = 0 then s else s.touchSlice g line) s

/-! ### Soft errors (R368) -/

/-- The line of an access in which an uncorrectable error is found: one that this turn brings, which poisons the
line, or a poisoned one that the access reads; a prefetch raises none (R115). DESIGN CHOICE, log entry 43. -/
def State.errorLine (s : State) (a : Access) (reads : Bool) : Option Nat :=
  let ls := if a.pref then [] else a.lines.map (·.1)
  match s.err with
  | .line => ls.head?
  | _ => if reads then ls.filter s.poison.contains |>.head? else none

/-- An access that found an uncorrectable error is dropped, the line is poisoned, and the grid is ended. -/
def State.errorAccess (s : State) (g : Nat) (a : Access) (line : Nat) : State :=
  let va := ((a.lanes.filter fun x => isLocal x.key && lineOf x.key == line).head?.map fun x => x.va).getD 0
  let s := s.modGroup g fun x => { x with accesses := x.accesses.filter fun b => b.id != a.id }.lowerCounter a.counter
  ((s.spoil line).unhold g a.id).errorEnd g va

end Sys2Proof.Machine
end

