-- ==== Sys2Proof/Machine/MemoryEvents.lean ====
section
/-! DEFINITION. The steps in which accesses are performed: loads, stores and atomics (R112, R193 to R197, R203,
R211, R222 to R227), pins, retries and recalls (R194), fills (R193, R372), and results (R52, R58). -/

namespace Sys2Proof.Machine

/-! ### Results that no memory serves -/

/-- Makes the writes of a result of the kind, lowers its counter and adds its counts (R52, R90). -/
def State.finishResult (s : State) (g : Nat) (r : Result) : State :=
  let s := s.modGroup g fun x =>
    { (r.writes.foldl Group.write x) with results := x.results.filter fun y => y.id != r.id }.lowerCounter r.counter
  s.harvests (s.group g).ctx r.counts

/-- The result of a kind and number, while it is pending. -/
def State.result (s : State) (g id : Nat) (kind : ResultKind) : Option Result :=
  ((s.group g).results.filter fun r => r.id == id && r.kind == kind).head?

/-- RESULT_WRITE: the oldest long-latency result that no memory serves is written (R58, R89). -/
def execResultWrite (g : Nat) (s : State) : Host.Outcome State Fault Refusal :=
  event "RESULT_WRITE" (((s.group g).results.filter fun r => r.kind == .compute).head?.map (s.finishResult g))

/-! ### Common to accesses -/

/-- Whether an older access of the group in flight touches a byte of this one (R112, R203). -/
def Group.olderClash (g : Group) (a : Access) : Bool :=
  g.accesses.any fun b => b.id < a.id && !b.pref && b.lanes.any fun y => a.lanes.any fun x =>
    x.key < y.key + b.bytesOf y && y.key < x.key + a.bytesOf x

/-- Whether some part of an access still waits for a peer device. -/
def State.peerWaits (s : State) (g id : Nat) : Bool :=
  s.peerSends.any fun p => p.group == g && p.access == some id

/-- An access that releases is performed only when R223 holds for its group, and one that writes or acquires in the
sprinter once everything older of its group has retired (R158, R236). A replayed entry waits for those
replayed before it, and one that releases for the accesses that issued before its instruction (R216). -/
def State.mayPerform (s : State) (g : Nat) (a : Access) : Bool :=
  !(s.group g).olderClash a && !s.peerWaits g a.id && (!a.sprint || (s.group g).retiredBefore a.id) &&
    match a.replayOf with
    | none => !a.order.getLsbD 1 || s.drained g a.id
    | some n =>
      (s.group g).accesses.all fun b =>
        match b.replayOf with
        | some _ => a.id ≤ b.id
        | none => !a.order.getLsbD 1 || n ≤ b.id

/-- The parts of an access that lie in host windows pass the network to the host port (R314). -/
def State.windowFlits (s : State) (g : Nat) (a : Access) : State :=
  a.lanes.foldl (fun s x => if isLocal x.key || isPeer x.key then s else s.flit (pathTo (coreOf g) x.key)) s

/-- The end of an access: it leaves flight and its counter falls; with acquire, the L1 work of R195. -/
def State.endAccess (s : State) (g : Nat) (a : Access) : State :=
  let s := (s.windowFlits g a).modGroup g fun x =>
    { x with accesses := x.accesses.filter fun b => b.id != a.id }.lowerCounter a.counter
  let s := s.unhold g a.id
  if a.order.getLsbD 0 then s.acquireL1 (coreOf g) a.scope else s

/-- The value of a lane: the word, and for a pair the high word (R110). -/
def laneValue (z : BitVec 3) (bs : List Byte) : Word × Word := (loadWord z bs, loadWord 4 (bs.drop 4))

/-- The registers that a returned access writes, from each lane's value; helper lanes in `zeros` take zero. -/
def Access.writes (a : Access) (f : Nat → Word × Word) : List RegWrite :=
  let m := laneMask (a.lanes.map fun x => x.lane) ||| a.zeros
  let at_ (h : Bool) : List Word := laneList.map fun l =>
    if a.zeros.getLsbD l then 0 else if m.getLsbD l then (if h then (f l).2 else (f l).1) else 0
  match a.dest with
  | .none => []
  | .vec r => [.vreg r m (at_ false) a.tag]
  | .pair r => [.vreg (r + 1) m (at_ false) a.tag, .vreg r m (at_ true) a.tag]
  | .scalar r => [.sreg r (f 0).1 a.tag]

/-! ### Loads (R196, R198, R222) -/

/-- The sectors of a load that must come from the home slice: those the L1 does not serve under the hint
(R196). -/
def State.loadMisses (s : State) (c : Nat) (hint : BitVec 2) (line : Nat) (mask : BitVec 4) : BitVec 4 :=
  match s.l1 c line with
  | none => mask
  | some l => if hint = 2 then mask &&& ~~~l.dirty else mask &&& ~~~l.valid

/-- Whether every line of a load can be served now: a .ca load from the L1 alone, once its sectors are
filled. -/
def State.loadReady (s : State) (g : Nat) (a : Access) : Bool :=
  a.lines.all fun p =>
    let miss := s.loadMisses (coreOf g) a.hint p.1 p.2
    miss == 0 || (a.hint != 0 && s.homeReady g a.id p.1 miss)

/-- The byte that a load returns. -/
def State.loadByte (s : State) (c : Nat) (hint : BitVec 2) (k : Nat) : Byte :=
  match s.l1 c (lineOf k) with
  | none => s.byte k
  | some l =>
    if (if hint = 2 then l.dirty else l.valid).getLsbD (sectorOf k) then l.bytes.get 0 (k % 192) else s.byte k

/-- The bytes of one entry of a load. -/
def State.loadEntry (s : State) (g : Nat) (a : Access) (x : LaneAcc) : List Byte :=
  if isPeer x.key then x.data
  else (List.range a.size).map fun i =>
    if isLocal x.key then s.loadByte (coreOf g) a.hint (x.key + i) else s.byte (x.key + i)

/-- The bytes of a lane: its entries one after another. -/
def State.laneBytes (s : State) (g : Nat) (a : Access) (l : Nat) : List Byte :=
  (a.lanes.filter fun x => x.lane == l).flatMap (s.loadEntry g a)

/-- What a load leaves in the slices and in the L1: a .bp load replaces the clean copies that the L1 holds. -/
def State.loadTouch (s : State) (g : Nat) (a : Access) : State :=
  a.lines.foldl (fun s p =>
    let s := (s.touchBeats g a p.1 (s.loadMisses (coreOf g) a.hint p.1)).useL1 (coreOf g) p.1
    match s.l1 (coreOf g) p.1 with
    | some l => if a.hint = 2 then s.fillSectors (coreOf g) p.1 (p.2 &&& l.valid &&& ~~~l.dirty) true else s
    | none => s) s

/-- A load is performed and its destination written. -/
def State.performLoad (s : State) (g : Nat) (a : Access) (z : BitVec 3) : State :=
  let value := fun l => laneValue z (s.laneBytes g a l)
  let s := (s.loadTouch g a).noteReads g (a.lines.map (·.1))
  let s := s.modGroup g fun x =>
    let x := (a.writes value).foldl Group.write x
    if x.waitAccess = some a.id then { x with waitAccess := none, waitRead := some (value 0).1 } else x
  s.endAccess g a

/-- Whether a load of a group waits for the commit of another group's chunk, whose stores it must not see (R361). -/
def State.loadBarred (s : State) (g : Nat) : Bool := s.chunkOpen (s.group g).ctx (some g)

/-- LOAD_RETURN: the data of a load arrives, and its destination is written (R58, R198, R222). -/
def execLoadReturn (g id : Nat) (s : State) : Host.Outcome State Fault Refusal :=
  event "LOAD_RETURN" (
    match s.result g id .load, s.access g id with
    | some r, _ => some (s.finishResult g r)
    | none, some a =>
      match a.op with
      | .load z =>
        if s.mayPerform g a && s.loadReady g a && !s.loadBarred g then
          match s.errorLine a true with
          | some line => some (s.errorAccess g a line)
          | none => some (s.performLoad g a z)
        else none
      | _ => none
    | _, _ => none)

/-! ### Stores (R193, R196, R223) -/

/-- A store that is written through to the home slice: it names gang scope or wider, bypasses the L1, or is a
wake write (R193, R196, R234). -/
def Access.through (a : Access) : Bool := 2 ≤ a.scope.toNat || a.hint == 2 || a.wake

/-- The sectors of a line that an access needs pinned by its own core: those of a store that stays in the L1,
and those of an atomic performed there (R194, R196, R211). -/
def State.needPins (s : State) (c : Nat) (a : Access) (line : Nat) (mask : BitVec 4) : BitVec 4 :=
  match a.op with
  | .load _ => 0
  | .atomic _ _ _ => if a.scope.toNat ≤ 1 then mask else 0
  | .store =>
    if a.through then 0
    else if a.hint = 0 then mask
    else match s.l1 c line with
      | some l => if l.dirty = 0 then 0 else mask
      | none => 0

/-- Whether every line of a store or atomic can be performed now. -/
def State.writeReady (s : State) (g : Nat) (a : Access) : Bool :=
  a.lines.all fun p =>
    let need := s.needPins (coreOf g) a p.1 p.2
    if need = 0 then s.homeReady g a.id p.1 p.2
    else need &&& ~~~s.ownPins (coreOf g) p.1 == 0 && s.turnOf (l1Point (coreOf g) p.1) g

/-- The scope record of a scope: grp is recorded as team (R193). -/
def recOf (scope : BitVec 3) : BitVec 3 := if scope = 0 then 1 else scope

/-- Merges bytes into a line of the L1 whose sectors are pinned: they become valid and dirty (R193). -/
def State.mergeL1 (s : State) (c key : Nat) (bs : List Byte) : State :=
  let line := lineOf key
  let l := (s.l1 c line).getD {}
  let m := sectorMask line key bs.length
  (s.dirtied line).setL1 c line
    { l with
      bytes := putBytes l.bytes (key % 192) bs, valid := l.valid ||| m, dirty := l.dirty ||| m, stale := l.stale &&& ~~~m
      rec_ := 1, used := s.coreCycle c }

/-- A line is written whole by an access. -/
def Access.covers (a : Access) (line : Nat) : Bool :=
  (List.range 192).all fun i =>
    a.lanes.any fun x => x.key ≤ 192 * line + i && 192 * line + i < x.key + x.data.length

/-- A store is performed: in the L1 where its sectors are pinned, else at the home slices; an L1 that holds or
allocates the line keeps a clean copy (R193, R196). -/
def State.performStore (s : State) (g : Nat) (a : Access) : State :=
  let c := coreOf g
  let lines := a.lines.map fun p => (p.1, p.2, s.needPins c a p.1 p.2 == 0, (s.l1 c p.1).isSome)
  let away := lines.filter fun p => p.2.2.1
  let s := away.foldl (fun s p => s.writeBack c p.1 (recOf a.scope)) s
  let s := a.lanes.foldl (fun s x =>
    if isPeer x.key then s
    else if isLocal x.key && !(away.any fun p => p.1 == lineOf x.key) then s.mergeL1 c x.key x.data
    else s.homeWrite (some c) x.key x.data) s
  let s := { s with poison := s.poison.filter fun line => !a.covers line }
  let s := away.foldl (fun s p =>
    if p.2.2.2 || (!a.wake && a.hint != 1) then
      let s := (s.makeRoom c p.1 none).fillSectors c p.1 p.2.1 false
      s.modCore c fun x => { x with l1 := x.l1.modify p.1 fun l => { l with rec_ := recOf a.scope } }
    else s) s
  let s := lines.foldl (fun s p => if p.2.2.1 then s.touchBeats g a p.1 id else s.noteServed (l1Point c p.1) g) s
  if a.wake then
    match a.lanes with
    | x :: _ => s.sendWake (coreOf g) (s.group g).ctx x.key
    | [] => s
  else s

/-! ### Atomics (R211, R224 to R227) -/

/-- The lanes of an atomic in their order: the state after them, and each lane's old value (R226). -/
def State.atomicLanes (s : State) (c : Nat) (atL1 : Bool) (f : AtomFields) : List LaneAcc → State × AMap Word
  | [] => (s, [])
  | x :: xs =>
    if isPeer x.key then
      let p := s.atomicLanes c atL1 f xs
      (p.1, (x.lane, BitVec.ofNat 32 (leNat x.data)) :: p.2)
    else
      let inL1 := atL1 && isLocal x.key
      let old := BitVec.ofNat 32 (leNat ((List.range 4).map fun i =>
        if inL1 then s.loadByte c 0 (x.key + i) else s.byte (x.key + i)))
      let s' := match atomNew f.op f.ty old x.b x.c with
        | none => s
        | some v =>
          let bs := leBytes 4 v.toNat
          if inL1 then s.mergeL1 c x.key bs else s.homeWrite (some c) x.key bs
      let p := s'.atomicLanes c atL1 f xs
      (p.1, (x.lane, old) :: p.2)

/-- Whether an acquiring atomic with LOCK succeeds in some lane (R227). -/
def lockTaken (f : AtomFields) (a : Access) (olds : AMap Word) : Bool :=
  a.lanes.any fun x => if isCas f.op then olds.get 0 x.lane == x.c else olds.get 0 x.lane != x.b

/-- The lock depth after an atomic with LOCK; a rise from 0 and a return to 0 change the lock class (R162,
R227). -/
def State.lockStep (s : State) (g : Nat) (a : Access) (f : AtomFields) (olds : AMap Word) : State :=
  let d := (s.group g).lockDepth
  if (s.group g).halted then s
  else if a.order.getLsbD 0 then
    if lockTaken f a olds then
      let s := s.modGroup g fun x => { x with lockDepth := min 15 (d + 1) }
      if d = 0 then s.gainClass g .lock else s
    else s
  else s.unlock g

/-- An atomic is performed: at the L1 under its pins for grp and team scope, else at the home slices, which first
take the issuing core's dirty ones of the sectors named and then drop its copies of them (R211). -/
def State.performAtomic (s : State) (g : Nat) (a : Access) (f : AtomFields) (lock : BitVec 1) : State :=
  let c := coreOf g
  let atL1 : Bool := a.scope.toNat ≤ 1
  let s := if a.order.getLsbD 1 then s.releaseL1 c a.scope else s
  let s := if atL1 then s else a.lines.foldl (fun s p => (s.writeSectors c p.1 p.2 1).dropClean c p.1 p.2) s
  let p := s.atomicLanes c atL1 f a.lanes
  let s := a.lines.foldl (fun s q => if atL1 then s.noteServed (l1Point c q.1) g else s.touchBeats g a q.1 id) p.1
  let s := s.modGroup g fun x => (a.writes fun l => (p.2.get 0 l, 0)).foldl Group.write x
  let s := s.endAccess g a
  if lock = 1 then s.lockStep g a f p.2 else s

/-- The part of a replayed release for a peer device goes out once what it releases is performed, with the L1 work of its
scope (R195, R223, R332). -/
def State.sendHeld (s : State) (g : Nat) (a : Access) : State :=
  let s := s.releaseL1 (coreOf g) a.scope
  let s := s.modGroup g fun x => { x with accesses := x.accesses.map fun b => if b.id = a.id then { b with unsent := false } else b }
  (a.lanes.filter fun x => isPeer x.key).foldl
    (fun s x => s.sendPeer g x.lane x.va x.key (peerOp a.op a.size x) (some a.id) a.site) s

/-! ### Stores to a scratchpad (R214, R219, R226, R281) -/

/-- The lanes of a store that a range-lock entry stops at its bank (R214). -/
def State.barredLanes (s : State) (b : BankStore) : List BankLane :=
  b.lanes.filter fun x => s.locked b.core b.team x.off x.data.length true

/-- What a group did after a store that faults at its bank is undone: commands, with their entries, tickets and counters,
and stores on their way behind it (R27, R281). -/
def State.undoAfter (s : State) (k id : Nat) (ticket : Word) : State :=
  let cs := s.cmds.filter fun c => c.2.group == k && !c.2.saved && id < c.1
  let ids := cs.map (·.1)
  let s := { s with
    cmds := s.cmds.filter fun c => !ids.contains c.1
    cores := s.cores.mapVals fun _ c => { c with locks := c.locks.filter fun l => !ids.contains l.cmd } }
  s.modGroup k fun g =>
    let gone := g.results.filter fun r => id ≤ r.id
    let g := cs.foldr (fun c g =>
      (match c.2.old with
        | some (r, v) => g.write (.sreg r v.val v.tag)
        | none => g).lowerCounter c.2.counter) g
    let g := gone.foldl (fun g r => g.lowerCounter r.counter) g
    { g with ticket := ticket, results := g.results.filter (fun r => r.id < id), chunk := g.chunk - (gone.length + cs.length) }

/-- The bank takes a store that is the oldest on its way from its group, in its turn of the clock. One that meets a range
locked since it issued is a precise fault of its group, once all that is older has completed; of a group that has halted it
is performed (R27, R214, R219, R226). DESIGN CHOICE of what issues behind it, log entry 110. -/
def State.bankTake (s : State) (g : Nat) (r : Result) (b : BankStore) : Option State :=
  let x := s.group g
  if x.results.any (fun y => y.bank.isSome && y.id < r.id) || !s.turnOf (bankPoint b.core) g then none
  else match if x.halted then [] else s.barredLanes b with
    | y :: ys =>
      if x.results.all (fun z => r.id ≤ z.id) && x.accesses.all (fun a => r.id ≤ a.id) then
        some ((s.undoAfter g r.id b.site.ticket).takeFault g
          ⟨0x0C, y.off, laneMask ((y :: ys).map fun z => z.lane), 0⟩ b.pc b.word b.site)
      else none
    | [] =>
      let s := b.lanes.foldl (fun s y => s.spWrite b.core y.key y.data) (if b.remote then s.flit [coreOf g / 32] else s)
      some ((s.noteServed (bankPoint b.core) g).finishResult g r)

/-- STORE_ACCEPTED: a store, or an atomic without a return, is accepted and performed (R52, R193, R223, R225). -/
def execStoreAccepted (g id : Nat) (s : State) : Host.Outcome State Fault Refusal :=
  event "STORE_ACCEPTED" (
    match s.result g id .store, s.access g id with
    | some r, _ =>
      match r.bank with
      | some b => s.bankTake g r b
      | none => some (s.finishResult g r)
    | none, some a =>
      if a.unsent && s.mayPerform g a then some (s.sendHeld g a)
      else if a.unsent || !(s.mayPerform g a && s.writeReady g a) then none
      else match a.op with
        | .store =>
          match s.errorLine a false with
          | some line => some (s.errorAccess g a line)
          | none =>
            let s := if a.order.getLsbD 1 then s.releaseL1 (coreOf g) a.scope else s
            some ((s.performStore g a).endAccess g a)
        | .atomic f lock false =>
          match s.errorLine a true with
          | some line => some (s.errorAccess g a line)
          | none => some (s.performAtomic g a f lock)
        | _ => none
    | _, _ => none)

/-- ATOMIC_RETURN: an atomic is performed and its old values are written (R211, R225, R226). -/
def execAtomicReturn (g id : Nat) (s : State) : Host.Outcome State Fault Refusal :=
  event "ATOMIC_RETURN" (
    match s.result g id .atomic, s.access g id with
    | some r, _ => some (s.finishResult g r)
    | none, some a =>
      match a.op with
      | .atomic f lock true =>
        if s.mayPerform g a && s.writeReady g a then
          match s.errorLine a true with
          | some line => some (s.errorAccess g a line)
          | none => some (s.performAtomic g a f lock)
        else none
      | _ => none
    | _, _ => none)

/-! ### Pins, retries and recalls (R194) -/

/-- PIN_GRANT: the home slice pins the sectors that a beat of an access needs, and the L1 takes the line's sectors with
them. Requests held behind it on the line come next, and meet the pin (R194, R197). -/
def execPinGrant (g id line : Nat) (s : State) : Host.Outcome State Fault Refusal :=
  event "PIN_GRANT" (
    match s.access g id with
    | none => none
    | some a =>
      let c := coreOf g
      match s.openBeat g a line fun m => s.needPins c a line m &&& ~~~s.ownPins c line with
      | none => none
      | some (b, fresh) =>
        let s := (s.makeRoom c line none).touchSlice g line
        let p := (s.pins.find? line).getD {}
        let owners := (List.range 4).foldl (fun o i => if fresh.getLsbD i then AMap.put o i c else o) p.owners
        let s := { s with pins := s.pins.put line { p with
          owners := owners, held := p.held.filter (· != (g, requestKey id b)) } }
        let s := s.fillSectors c line fresh true
        some (s.modCore c fun x => { x with l1 := x.l1.modify line fun l => { l with pinned := l.pinned ||| fresh } }))

/-- Those of some sectors of a line for which an access must reach the home slice. -/
def State.homeSectors (s : State) (g : Nat) (a : Access) (line : Nat) (mask : BitVec 4) : BitVec 4 :=
  let c := coreOf g
  match a.op with
  | .load _ => s.loadMisses c a.hint line mask
  | _ =>
    let need := s.needPins c a line mask
    if need = 0 then mask else need &&& ~~~s.ownPins c line

/-- The first beat of an access whose request for a line is at the slice and neither served nor held there: it meets a
recall that runs, or a sector that another core holds pinned. -/
def State.turnedAway (s : State) (g : Nat) (a : Access) (line : Nat) (p : Pin) : Option Nat :=
  ((List.range 3).filter fun b =>
    let mask := s.homeSectors g a line (a.beatMask line b)
    let held := p.held.contains (g, requestKey a.id b)
    mask != 0 && a.retryAt.get 0 (3 * line + b) ≤ s.cycle g &&
      (if p.recalling then !held
      else s.pinnedElsewhere (coreOf g) line mask && (!held || s.nextHeld line p == some (g, requestKey a.id b)))).head?

/-- ACCESS_RETRY_RESEND: a beat's request for a sector that another core holds pinned gets a retry, and goes again 32
clocks later. The 4,096th gets none: it is held, and the line is recalled; requests that come while the recall
runs are held too (R194, R197). -/
def execAccessRetryResend (g id line : Nat) (s : State) : Host.Outcome State Fault Refusal :=
  event "ACCESS_RETRY_RESEND" (
    match s.access g id, s.pins.find? line with
    | some a, some p =>
      (s.turnedAway g a line p).map fun b =>
        let r := (g, requestKey id b)
        if p.recalling then { s with pins := s.pins.put line { p with held := holdRequest p.held r } }
        else if 4095 ≤ p.retries then
          { s with pins := s.pins.put line { p with recalling := true, held := r :: p.held.filter (· != r) } }
        else
          let s := { s with
            pins := s.pins.put line { p with retries := p.retries + 1, held := p.held.filter (· != r) } }
          let s := s.countEvent (coreOf g) fun e => { e with pinRetries := e.pinRetries + 1 }
          s.modGroup g fun x =>
            { x with
              accesses := x.accesses.map fun y =>
                if y.id = id then { y with retryAt := y.retryAt.put (3 * line + b) (s.cycle g + 32) } else y }
    | _, _ => none)

/-- RECALL_COMPLETE: the holders have written the line back; it is unpinned and stays clean in their L1s, and the
held requests are served next (R194). -/
def execRecallComplete (line : Nat) (s : State) : Host.Outcome State Fault Refusal :=
  event "RECALL_COMPLETE" (
    match s.pins.find? line with
    | some p =>
      if !p.recalling then none
      else
        let owners := (p.owners.map (·.2)).eraseDups
        let s := (owners.foldl (fun s c => s.noteReplay c line) s).recallLine line
        some { s with pins := if p.held.isEmpty then s.pins.erase line else s.pins.put line { held := p.held } }
    | none => none)

/-! ### Fills (R193, R196, R372) -/

/-- L1_LINE_FILL: the sectors that a beat of a .ca load needs arrive from the L2; a full L1 evicts the victim, which is not
the line it used last (R193, R197). DESIGN CHOICE, log entry 98. -/
def execL1LineFill (g id line : Nat) (victim : Option Nat) (s : State) : Host.Outcome State Fault Refusal :=
  event "L1_LINE_FILL" (
    match s.access g id with
    | none => none
    | some a =>
      let c := coreOf g
      let full := (s.l1 c line).isNone && l1Capacity ≤ (s.core c).l1.length
      let isLoad : Bool := match a.op with
        | .load _ => true
        | _ => false
      let victimOk : Bool := match victim with
        | some v => full && v != line && match s.l1 c v with
          | some l => (s.core c).l1.any fun p => p.1 != v && l.used ≤ p.2.used
          | none => false
        | none => !full
      if !isLoad || a.hint != 0 || !victimOk then none
      else match s.openBeat g a line (s.loadMisses c 0 line) with
        | none => none
        | some (b, miss) =>
          match s.errorLine { a with lanes := a.lanes.filter fun x => lineOf x.key == line } true with
          | some l => some (s.errorAccess g a l)
          | none =>
            some (((s.dropHeld line (g, requestKey id b)).makeRoom c line victim).touchSlice g line |>.fillSectors c line miss true))

/-- Whether an access in flight of some group has requests for a line at its home slice. -/
def State.asksHome (s : State) (line : Nat) : Bool :=
  s.groups.any fun p => p.2.accesses.any fun a => a.lines.any fun q => q.1 == line && s.homeSectors p.1 a line q.2 != 0

/-- L2_LINE_FILL: a slice fills a line that an access in flight asks it for; of a set whose 16 ways are full it evicts one,
not the line it served last (R372). DESIGN CHOICE, log entry 96. -/
def execL2LineFill (line : Nat) (victim : Option Nat) (s : State) : Host.Outcome State Fault Refusal :=
  event "L2_LINE_FILL" (
    let way := s.l2Way line
    let victimOk : Bool := match victim with
      | some v => 16 ≤ way.length && way.tail.contains v
      | none => way.length < 16
    if s.l2.contains line || !s.asksHome line || !victimOk then none
    else some { s with l2 := line :: s.l2.filter fun l => some l != victim })

end Sys2Proof.Machine
end

