-- ==== Sys2Proof/Machine/GroupEvents.lean ====
section
/-! DEFINITION. The steps of the groups' fetch, release, promotion and barrier machinery, and the end of groups and
teams (R52, R85, R160 to R165, R178, R223, R229). -/

namespace Sys2Proof.Machine

/-! ### Fetch -/

/-- Whether the engine that issues a group is between two switches (R161). -/
def Group.switching (g : Group) : Bool :=
  match g.engine with
  | .promoting _ => true
  | .demoting _ => true
  | _ => false

/-- Whether a group may issue or start a clause now, but for its waits: it is resident, has not halted, is in no
switch (R161), is not delayed by a trial (R360), has no chunk to commit (R361), and its core works. -/
def State.mayRun (s : State) (k : Nat) : Bool :=
  let g := s.group k
  g.resident && !g.halted && !g.switching && g.delayUntil.isNone && g.chunkEnd.isNone && !(s.core (coreOf k)).failed

/-- Whether a core of a pre-empted context has reached its limit: its groups stop at their next clause boundary
(R294, R295). -/
def State.atLimit (s : State) (k : Nat) : Bool :=
  match (s.core (coreOf k)).limitAt with
  | some t => (s.context (s.group k).ctx).preempt == .draining && t ≤ s.cycle k
  | none => false

/-- A group of an ended grid stops at its clause boundary (R289); a group whose core has reached its limit starts
no clause there (R295). A resumption in the middle of a clause is no boundary: the group goes on to the next (R302). -/
def State.startOrStop (s : State) (k : Nat) : Option State :=
  let g := s.group k
  if !s.mayRun k || g.started || g.wait != .none then none
  else if g.word == 0 && s.gridEnded k then some (s.endGroup k)
  else if g.word == 0 && s.atLimit k then none
  else s.clauseStart k

/-- CLAUSE_START (R12, R52, R285). -/
def execClauseStart (g : Nat) (s : State) : Host.Outcome State Fault Refusal := event "CLAUSE_START" (s.startOrStop g)

/-- INSTRUCTION_CACHE_FILL: the block that a frozen group waits for arrives (R165), or else the block that a hint of
its context asked for (R51, R83); or it gets a retry, or waits (R194). -/
def execInstructionCacheFill (g : Nat) (s : State) : Host.Outcome State Fault Refusal :=
  event "INSTRUCTION_CACHE_FILL" (
    match (s.group g).wait with
    | .fetch block => s.fillCode g block
    | _ =>
      match (s.cluster (clusterOf g)).asked with
      | some (ctx, block) => if (s.group g).ctx != ctx then none else s.fillAsked g block
      | none => none)

/-! ### Releases and ICINV -/

/-- RELEASE_COMPLETE: the conditions of R223 hold for a group that waits on them, and the L1 work of R195 is
done. -/
def execReleaseComplete (g : Nat) (s : State) : Host.Outcome State Fault Refusal :=
  event "RELEASE_COMPLETE" (
    match (s.group g).wait with
    | .release scope =>
      if s.drained g s.fresh then
        some ((s.releaseL1 (coreOf g) scope).modGroup g fun x => x.wakes (s.cycle g))
      else none
    | _ => none)

/-- Whether ICINV at a scope names a cluster's cache for a group (R229). -/
def icinvNames (scope : BitVec 3) (own cluster : Nat) (mine : Bool) : Bool :=
  if scope.toNat ≤ 2 then cluster == own else if scope = 3 then mine && cluster / 16 == own / 16 else mine

/-- ICINV_COMPLETE: every named cache has dropped the blocks (R229). -/
def execIcinvComplete (g : Nat) (s : State) : Host.Outcome State Fault Refusal :=
  event "ICINV_COMPLETE" (
    match (s.group g).wait with
    | .icinv lo hi scope =>
      let ctx := (s.group g).ctx
      let drop (b : CodeBlock) : Bool := b.ctx == ctx && lo < hi && b.va < hi && lo < b.va + 64
      some ({ s with
        clusters := s.clusters.mapVals fun n c =>
          if icinvNames scope (clusterOf g) n ((s.context ctx).hasCluster n) then
            { c with icache := c.icache.filter fun b => !drop b } else c }.modGroup g fun x => { x with wait := .none })
    | _ => none)

/-! ### Promotion (R160 to R163) -/

/-- The rank of a class (R162). -/
def PClass.rank : PClass → Nat
  | .lock => 4
  | .laggard => 3
  | .tail => 2
  | .hint => 1

/-- The classes a group holds. -/
def State.classesOf (s : State) (k : Nat) : List PClass :=
  (s.group k).classes ++ if s.isTail k then [.tail] else []

/-- The highest of some classes. -/
def topClass : List PClass → Option PClass
  | [] => none
  | c :: cs =>
    match topClass cs with
    | none => some c
    | some d => if d.rank < c.rank then some c else some d

/-- The rank of a group's class, 0 for none. -/
def State.rankOf (s : State) (k : Nat) : Nat := ((topClass (s.classesOf k)).map PClass.rank).getD 0

/-- The groups of a core that hold its sprinter slots; one that only completes its switch to be demoted holds none. -/
def State.promoted (s : State) (core : Nat) : List Nat :=
  (s.groups.filter fun p => coreOf p.1 == core && p.2.resident && !p.2.demoteNext && (match p.2.engine with
    | .sprinter => true
    | .promoting _ => true
    | _ => false)).map (·.1)

/-- Whether a group may be tried for promotion now: its lock or hint qualification is decided at its own clock, or when
the wait in which it came ends, unless it was displaced; a laggard or tail one at any clock (R163). One demoted for the
HALT at its place stays where it is (R162). DEDUCED, log entries 59 and 90. -/
def State.tries (s : State) (k : Nat) : Bool :=
  let g := s.group k
  g.resident && !g.halted && g.engine == .herd && !g.keepsHerd && !g.demoteNext && s.rankOf k != 0 &&
    (g.displaced || g.qualAt == some (s.cycle k) || (s.classesOf k).any fun c => c == .laggard || c == .tail)

/-- Another group of the core that is tried and goes before this one: higher rank, or equal rank and lower
slot (R163). -/
def State.outranked (s : State) (k : Nat) : Bool :=
  s.groups.any fun p => p.1 != k && coreOf p.1 == coreOf k && s.tries p.1 &&
    (s.rankOf k < s.rankOf p.1 || (s.rankOf p.1 == s.rankOf k && p.1 < k))

/-- The least recently promoted group among those of the lowest rank in the sprinter slots of a core. -/
def State.weakest (s : State) (core : Nat) : Option Nat :=
  let ps := s.promoted core
  let low := ps.foldl (fun r k => min r (s.rankOf k)) 5
  (ps.filter fun k => s.rankOf k == low).foldl (fun b k =>
    match b with
    | none => some k
    | some j => if (s.group k).promotedAt < (s.group j).promotedAt then some k else some j) none

/-- A group takes a sprinter slot and issues nothing for 12 clocks (R161). -/
def State.startPromotion (s : State) (k : Nat) : State :=
  s.modGroup k fun g =>
    { g with
      engine := .promoting (s.cycle k + 12), promotedAt := s.cycle k, displaced := false, qualAt := none }

/-- PROMOTION_START: a qualifying group takes a free slot, or displaces the weakest group of a lower rank
(R163). -/
def execPromotionStart (g : Nat) (s : State) : Host.Outcome State Fault Refusal :=
  event "PROMOTION_START" (
    let core := coreOf g
    if !s.tries g || s.outranked g then none
    else if (s.promoted core).length < 4 then some (s.startPromotion g)
    else match s.weakest core with
      | some w =>
        if s.rankOf w < s.rankOf g then
          let s := (s.demote w).modGroup w fun x => { x with displaced := true }
          let s := s.countEvent core fun e => { e with displacements := e.displacements + 1 }
          some (s.startPromotion g)
        else none
      | none => none)

/-- The index of a class in the counts of promotions: its rank less 1 (R167). -/
def State.countPromotion (s : State) (k : Nat) : State :=
  let r := s.rankOf k
  if r = 0 then s
  else s.countEvent (coreOf k) fun e => { e with promotions := e.promotions.put (r - 1) (e.promotions.get 0 (r - 1) + 1) }

/-- PROMOTION_SWITCH_DONE: the group issues from its sprinter slot; one that has left every class, or met another
condition of demotion meanwhile, is demoted (R161). -/
def execPromotionSwitchDone (g : Nat) (s : State) : Host.Outcome State Fault Refusal :=
  event "PROMOTION_SWITCH_DONE" (
    match (s.group g).engine with
    | .promoting t =>
      if s.cycle g < t then none
      else
        let r := s.rankOf g
        let s := (s.countPromotion g).modGroup g fun x => { x with engine := .sprinter }
        some (if r = 0 || (s.group g).demoteNext then s.demote g else s)
    | _ => none)

/-- DEMOTION_SWITCH_DONE: after 12 clocks the group is back in herd selection, with the clock of its demotion as its last
issue (R161). -/
def execDemotionSwitchDone (g : Nat) (s : State) : Host.Outcome State Fault Refusal :=
  event "DEMOTION_SWITCH_DONE" (
    match (s.group g).engine with
    | .demoting t =>
      if s.cycle g < t then none
      else some (s.modGroup g fun x => { x with engine := .herd, lastIssue := some (t - 12) })
    | _ => none)

/-- BARRIER_LAGGARD_QUALIFY: 512 clocks after three quarters of its team arrived at a team barrier, a group that
has not arrived qualifies (R162). -/
def execBarrierLaggardQualify (g n : Nat) (s : State) : Host.Outcome State Fault Refusal :=
  event "BARRIER_LAGGARD_QUALIFY" (
    let x := s.group g
    let b := s.barrier x.team n
    match b.quorumAt with
    | some t =>
      if n < 16 && x.resident && !x.halted && !b.arrived.contains g && !x.laggardOf.contains n && t + 512 ≤ s.cycle g then
        some ((s.gainClass g .laggard).modGroup g fun x => { x with laggardOf := x.laggardOf ++ [n] })
      else none
    | none => none)

/-! ### Barriers (R178) -/

/-- The core of a team. -/
def State.teamCore (s : State) (team : Nat) : Nat := ((s.teams.find? team).map fun t => t.core).getD 0

/-- The cores whose groups share barrier n with a team: its own, or those of its gang's teams. -/
def State.barrierCores (s : State) (team n : Nat) : List Nat :=
  if n < 16 then [s.teamCore team]
  else match s.teams.find? team with
    | none => []
    | some t => (((s.gangs.find? t.gang).map fun q => q.teams).getD []).map s.teamCore

/-- BARRIER_PHASE_COMPLETE: the phase ends in the clock after the last arrival it needs; its waiters become ready
4 clocks of their core later, or 16 for a gang barrier (R3, R178). -/
def execBarrierPhaseComplete (team n : Nat) (s : State) : Host.Outcome State Fault Refusal :=
  event "BARRIER_PHASE_COMPLETE" (
    let b := s.barrier team n
    if !b.due then none
    else
      some (s.setBarrier team n
        { b with
          phase := b.phase + 1, arrived := [], due := false, quorumAt := none
          wakeAt := (s.barrierCores team n).foldl
            (fun m c => AMap.put m c (s.coreCycle c + if n < 16 then 4 else 16)) b.wakeAt }))

/-- The groups of a core that share barrier n with a team. -/
def State.barrierGroups (s : State) (team n core : Nat) : List Nat :=
  if n < 16 then s.teamGroups team
  else match s.teams.find? team with
    | none => []
    | some t => ((((s.gangs.find? t.gang).map fun q => q.teams).getD []).filter fun u => s.teamCore u == core).flatMap s.teamGroups

/-- BARRIER_WAKE: the groups on a team's core that wait for the completed phase become ready; the release of a gang
barrier passes the bed's local crossbar (R314, R316). -/
def execBarrierWake (team n : Nat) (s : State) : Host.Outcome State Fault Refusal :=
  event "BARRIER_WAKE" (
    let b := s.barrier team n
    let c := s.teamCore team
    match b.wakeAt.find? c with
    | some t =>
      let path := if n < 16 then [] else [c / 32]
      let age := s.clock - (s.coreCycle c - t)
      if s.coreCycle c < t || !s.mayPass path 0 age 0 then none
      else
        let s := (s.passes path 0 age 0).setBarrier team n { b with wakeAt := b.wakeAt.erase c }
        some ((s.barrierGroups team n c).foldl (fun s k =>
          if (s.group k).wait == .barrier n && s.phaseOver k n then s.modGroup k fun g => g.wakes (s.coreCycle c) else s) s)
    | none => none)

/-! ### The end of groups and teams (R85) -/

/-- GROUP_REGISTERS_RETURN: the registers of a halted group return to its core once its wait counters read
zero (R85); the group counts as resident through the clock of its HALT (R239). -/
def execGroupRegistersReturn (g : Nat) (s : State) : Host.Outcome State Fault Refusal :=
  event "GROUP_REGISTERS_RETURN" (
    let x := s.group g
    if x.resident && x.halted && x.lastIssue != some (s.cycle g) && (List.range 8).all (fun i => x.counters.get 0 i == 0) then
      some (s.modGroup g fun x => { x with resident := false })
    else none)

/-- TEAM_END: every group of a team has halted, and every command its groups issued has completed. Its scratchpad is
free; teams that wait are offered again (R85, R155). -/
def execTeamEnd (team : Nat) (s : State) : Host.Outcome State Fault Refusal :=
  event "TEAM_END" (
    match s.teams.find? team with
    | none => none
    | some t =>
      if t.ended || !(s.teamAlive team t).isEmpty || s.cmds.any (fun c => c.2.team == team) then none
      else
        some { s with
          teams := s.teams.put team { t with ended := true }
          contexts := s.contexts.modify t.ctx fun c =>
            { c with saved := c.saved.map fun u => { u with offered := false } }
          grids := s.grids.mapVals fun n q =>
            if n = t.grid then { q with ended := q.ended ++ [t.index], offered := false }
            else if q.ctx = t.ctx then { q with offered := false } else q })

end Sys2Proof.Machine
end

