-- ==== Sys2Proof/Machine/Translation.lean ====
section
/-! DEFINITION. Page walks (R187), the answers to fault records and the replay of the side log (R153, R216,
R290 to R293), and translation requests (R189, R190, R192). -/

namespace Sys2Proof.Machine

/-! ### Walks -/

/-- Takes a page into a core's TLB of 512 entries; the one taken longest ago goes from a full one (R189).
DESIGN CHOICE of which one goes, log entry 119. -/
def State.takeTlb (s : State) (c : Nat) (e : TlbEntry) : State :=
  s.modCore c fun x => { x with tlb := (e :: x.tlb.filter (· != e)).take 512 }

/-- A walk that a group waits for is over. -/
def Group.walked (g : Group) (page : Nat) (bad : Option Nat) : Group :=
  let g := match bad with
    | some code => { g with badPages := g.badPages ++ [(page, code)] }
    | none => g
  match g.wait with
  | .walk ps =>
    let ps := ps.filter (· != page)
    { g with wait := if ps.isEmpty then .none else .walk ps }
  | _ => g

/-- PAGE_WALK_COMPLETE: the walk of one page that a group waits for ends: the slices hold the lines of its entries, the
core's TLB takes the page, or the group's instruction finds it absent (code 1) or malformed (2) (R187, R198, R200, R372).
A retry sends the walk again 32 clocks later, and an entry on a line that an error has spoilt ends the grid (R194, R368). -/
def execPageWalkComplete (g page : Nat) (s : State) : Host.Outcome State Fault Refusal :=
  event "PAGE_WALK_COMPLETE" (
    match (s.group g).wait with
    | .walk ps =>
      if !ps.contains page then none
      else
        let ctx := (s.group g).ctx
        match s.tryWalk g (s.walkReads ctx (24576 * page)) 8 with
        | .retry t => some t
        | .held t => some t
        | .waits => none
        | .spoilt _ => some ((s.errorEnd g (24576 * page)).endGroup g)
        | .served s =>
          let s := s.countEvent (coreOf g) fun e => { e with tlbMisses := e.tlbMisses + 1 }
          some (match s.walk ctx (24576 * page) with
            | .ok e => (s.takeTlb (coreOf g) e).modGroup g fun x => x.walked page none
            | .absent => s.modGroup g fun x => x.walked page (some 1)
            | .malformed => s.modGroup g fun x => x.walked page (some 2))
    | _ => none)

/-! ### The side log: replay and removal (R216, R292) -/

/-- A pending late store fault merges into one that is already pending (R285). -/
def addLate (site : Site) (n : Nat) : List Pending → List Pending
  | [] => [.lateStore site n]
  | .lateStore old m :: ps => .lateStore old (m + n) :: ps
  | p :: ps => p :: addLate site n ps

/-- A removed entry gives its group a late store fault, or a kind-4 record if the group has halted. -/
def State.removedStore (s : State) (e : SideEntry) : State :=
  if (s.group e.group).halted then
    s.faultRecord e.ctx (s.groupRecord e.group
      { kind := 4, code := 0x11, site := e.site, va := 192 * e.line, count := 1 })
  else s.modGroup e.group fun g => { g with pending := addLate e.site 1 g.pending }

/-- An entry whose page translates goes into flight again, with its own order and scope; its part for a peer device goes
out now, or, where it releases, once what it releases is performed (R216, R223). DEDUCED, log entry 50. -/
def State.replayEntry (s : State) (e : SideEntry) (p : TlbEntry) : State :=
  let lanes := e.lanes.map fun x => { x with key := p.key x.va }
  let id := s.fresh
  let later := e.order.getLsbD 1 && lanes.any fun x => isPeer x.key
  let a : Access :=
    { id := id, op := e.op, lanes := lanes, hint := e.hint, order := e.order, scope := e.scope, wake := e.wake, site := e.site
      replayOf := some e.seq, unsent := later }
  let s := s.bump.modGroup e.group fun g => { g with accesses := g.accesses ++ [a] }
  if later then s
  else (lanes.filter fun x => isPeer x.key).foldl
    (fun s x => s.sendPeer e.group x.lane x.va x.key (peerOp e.op 4 x) (some id) e.site) s

/-- Goes through a side log in order: the entries of each group are replayed up to the first that must stay. Answers
the state and the entries that stay. -/
def State.drainList (s : State) (blocked : List Nat) : List SideEntry → State × List SideEntry
  | [] => (s, [])
  | e :: es =>
    let keep (s : State) (e : SideEntry) : State × List SideEntry :=
      let p := s.drainList (e.group :: blocked) es
      (p.1, e :: p.2)
    if e.hold || blocked.contains e.group then keep s e
    else
      let s := s.agentWalk e.ctx (192 * e.line) 4
      if s.walkSpoilt e.ctx (192 * e.line) then (s.errorEnd e.group (192 * e.line)).drainList blocked es
      else match s.walk e.ctx (192 * e.line) with
      | .ok p =>
        if !p.wr then (s.removedStore e).drainList blocked es
        else if s.compacting e.ctx (192 * e.line) then keep s { e with hold := true }
        else (s.replayEntry e p).drainList blocked es
      | .absent => keep (s.storeRecords e.group e.site [(pageOf (192 * e.line), 192 * e.line, 1)]) { e with hold := true }
      | .malformed => keep (s.storeRecords e.group e.site [(pageOf (192 * e.line), 192 * e.line, 2)]) { e with hold := true }

/-- Groups of a core that a full side log held try again once it has room (R292). -/
def State.sideRoom (s : State) (c : Nat) : State :=
  if 512 ≤ (s.core c).sideLog.length then s
  else { s with
    groups := s.groups.mapVals fun k g =>
      if coreOf k == c && g.wait == .sideLog then { g with wait := .none } else g }

/-- Replays what a core's side log may replay now. -/
def State.drainLog (s : State) (c : Nat) : State :=
  let p := s.drainList [] (s.core c).sideLog
  (p.1.modCore c fun x => { x with sideLog := p.2 }).sideRoom c

/-- Whether an entry's line lies on a page of a context. -/
def SideEntry.onPage (e : SideEntry) (ctx page : Nat) : Bool := e.ctx == ctx && pageOf (192 * e.line) == page

/-- The answer to a kind-2 record, at one core: 1 retry, 2 deliver, 3 end grid (R292). -/
def State.answerLog (s : State) (ctx page resp c : Nat) : State :=
  let log := (s.core c).sideLog
  let mine := log.filter fun e => e.onPage ctx page
  let s := s.acquireL1 c 4
  if mine.isEmpty then s
  else if resp = 1 then
    (s.modCore c fun x =>
      { x with sideLog := log.map fun e => if e.onPage ctx page then { e with hold := false } else e }).drainLog c
  else
    let s := s.modCore c fun x => { x with sideLog := log.filter fun e => !e.onPage ctx page }
    let s := if resp = 2 then mine.foldl State.removedStore s
      else mine.foldl (fun s e => s.endGrid (s.group e.group).grid 0 0) s
    s.drainLog c

/-! ### Completion of a grid (R153) -/

/-- Writes a dispatcher's fault record and holds the grid's work that needs the access. DEDUCED, log entry 61. -/
def State.dispatcherFault (s : State) (grid va code : Nat) (write : Bool) : State :=
  match s.grids.find? grid with
  | none => s
  | some q =>
    let seq := (s.context q.ctx).faultSeq
    let s := s.faultRecord q.ctx { kind := if write then 2 else 1, code := 0x09 + 256 * code, grid := q.launch.grid, va := va }
    { s with grids := s.grids.modify grid fun q => { q with holds := q.holds ++ [⟨seq, va, write⟩] } }

/-- Where an access of the dispatcher for a grid goes: its byte; or the state after the fault or the end of the grid
that it meets, an error that has spoilt a line on its way among them; or none while its record waits for an answer (R153, R368). -/
def State.dispatcherKey (s : State) (grid va align : Nat) (write : Bool) : Except (Option State) Nat :=
  match s.grids.find? grid with
  | none => .error none
  | some q =>
    if q.holds.any fun h => h.va == va && h.write == write then .error none
    else if 2 ^ 56 ≤ va || va % align != 0 then .error (some (s.endGrid grid 0 va))
    else if s.walkSpoilt q.ctx va then .error (some (s.endGrid grid 0xE0 va))
    else match s.walk q.ctx va with
      | .ok e =>
        if e.target != .local || !(if write then e.wr else e.rd) then .error (some (s.endGrid grid 0 va))
        else if !write && s.poison.contains (lineOf (e.key va)) then .error (some (s.endGrid grid 0xE0 va))
        else .ok (e.key va)
      | .absent => .error (some (s.dispatcherFault grid va 1 write))
      | .malformed => .error (some (s.dispatcherFault grid va 2 write))

/-- A grid whose bits are all set stores 1 to DONE, with a wake, and is complete (R153). -/
def State.completeGrid (s : State) (grid : Nat) : State :=
  match s.grids.find? grid with
  | none => s
  | some q =>
    if q.cancelled || q.bits.length < q.launch.teams then s
    else if !q.launch.donew then { s with grids := s.grids.erase grid }
    else match s.dispatcherKey grid q.launch.done 4 true with
      | .ok key => { ((s.agentWalk q.ctx q.launch.done 4).homeWord key 1).sendWake 256 q.ctx key with grids := s.grids.erase grid }
      | .error none => s
      | .error (some s) => s

/-- The answer to a record of the dispatcher: a retry frees the held work, and repeats a held DONE write. -/
def State.answerGrid (s : State) (grid seq resp : Nat) : State :=
  if resp = 1 then
    { s with grids := s.grids.modify grid fun q =>
        { q with holds := q.holds.filter fun h => h.seq != seq } }.completeGrid grid
  else s.endGrid grid 0 0

/-! ### FAULT_RECORD_ANSWER -/

/-- The answers a group's records have, with a new one. -/
def noteAnswer (recs : List (Nat × Option Nat)) (seq resp : Nat) : List (Nat × Option Nat) :=
  recs.map fun p => if p.1 = seq then (seq, some resp) else p

/-- The strongest of the answers, once every record has one: end grid over deliver over retry (R291). -/
def strongest : List (Nat × Option Nat) → Option Nat
  | [] => some 1
  | (_, none) :: _ => none
  | (_, some r) :: l => (strongest l).map (max r)

/-- The answer at a held group, whose core reads it with acquire at dev scope (R290); none while it must deliver a fault and earlier instructions are not complete. -/
def State.answerGroup (s : State) (k seq resp : Nat) : Option State :=
  let g := s.group k
  match g.wait with
  | .records recs va lanes =>
    if !recs.contains (seq, none) then some s
    else
      let s := s.acquireL1 (coreOf k) 4
      let recs := noteAnswer recs seq resp
      match strongest recs with
      | none => some (s.modGroup k fun g => { g with wait := .records recs va lanes })
      | some 1 => some (s.modGroup k fun g => { g with wait := .none })
      | some 2 => if g.quiet then some (s.vector k ⟨0x09, va, lanes, 0⟩ g.pc g.word g.site) else none
      | some _ => some (s.endGrid g.grid 0 0)
  | _ => some s

/-- The answer at a stopped engine command (R293). -/
def State.answerCmd (s : State) (id resp : Nat) : State :=
  match s.cmds.find? id with
  | none => s
  | some c =>
    let s := s.acquireL1 c.core 4
    if resp = 1 then
      let queued := c.kind == .scsave || c.kind == .gath || c.kind == .scat
      s.modCmd id fun c => { c with phase := if c.begun then .begun else if queued then .queued else .running }
    else if resp = 2 then s.finishCmd id 0x10
    else (s.endGrid c.grid 0 0).finishCmd id 0

/-- Whether a command waits for the answer to a record of a context. -/
def Cmd.waitsFor (c : Cmd) (ctx seq : Nat) : Bool :=
  c.ctx == ctx && !c.saved && match c.phase with
    | .stopped n _ => n == seq
    | _ => false

/-- Carries an answer to whatever waits for the record: groups, commands, a grid, and for a kind-2 record the side
logs of the context's cores. -/
def State.answer (s : State) (ctx seq page resp : Nat) (store : Bool) : Option State :=
  let groups := (s.groups.filter fun p => p.2.resident && p.2.ctx == ctx).map (·.1)
  let cmds := (s.cmds.filter fun p => p.2.waitsFor ctx seq).map (·.1)
  let grids := (s.grids.filter fun p => p.2.ctx == ctx && p.2.holds.any fun h => h.seq == seq).map (·.1)
  (groups.foldl (fun o k => o.bind fun s => s.answerGroup k seq resp) (some s)).map fun s =>
    let s := cmds.foldl (fun s id => s.answerCmd id resp) s
    let s := grids.foldl (fun s q => s.answerGrid q seq resp) s
    if store then (s.context ctx).coreList.foldl (fun s c => s.answerLog ctx page resp c) s else s

/-- FAULT_RECORD_ANSWER: a wake has named the registered word of a record, and the agent's answer is read (R290 to R293).
DEDUCED, log entry 53. -/
def execFaultRecordAnswer (ctx seq : Nat) (s : State) : Host.Outcome State Fault Refusal :=
  event "FAULT_RECORD_ANSWER" (
    match (s.context ctx).records.find? seq with
    | none => none
    | some (entry, va) =>
      let resp := s.peekNat (entry + 0x30) 4
      if resp = 0 || 3 < resp || !(s.context ctx).woken.contains (entry + 0x30) then none
      else
        (s.answer ctx seq (pageOf va) resp (s.peekNat entry 4 == 2)).map fun s =>
          s.modCtx ctx fun c =>
            { c with records := c.records.erase seq, woken := c.woken.filter (· != entry + 0x30) })

/-! ### Translation requests -/

/-- A translation request as the ring holds it (R189). -/
structure XlateReq where
  kind : Nat
  va : Nat
  len : Nat
  done : Nat
  deriving DecidableEq, Repr

/-- The next request of a context's ring, while none is in progress. -/
def State.nextXlate (s : State) (ctx : Nat) : Option XlateReq :=
  match s.contexts.find? ctx with
  | none => none
  | some c =>
    let n := s.peekNat (c.xlate + 8) 4
    let head := s.peekNat (c.xlate + 0x18) 4
    if c.xlateOp.isSome || n = 0 || head = s.peekNat (c.xlate + 0x1C) 4 then none
    else
      let e := s.peekNat c.xlate 8 + 32 * (head % n)
      some ⟨s.peekNat e 4, s.peekNat (e + 8) 8, s.peekNat (e + 16) 4, s.peekNat (e + 24) 8⟩

/-- Advances HEAD past a request that the device has taken. DEDUCED, log entry 64. -/
def State.takeXlate (s : State) (ctx : Nat) : State :=
  let desc := (s.context ctx).xlate
  s.homeWord (desc + 0x18) (BitVec.ofNat 32 (s.peekNat (desc + 0x18) 4 + 1))

/-- Writes the status of a request to its DONE word, with a wake; a DONE that does not translate gets none. -/
def State.xlateStatus (s : State) (ctx done status : Nat) : State :=
  match s.keyOf ctx done true with
  | some key => ((s.agentWalk ctx done 4).agentWord ctx done key (BitVec.ofNat 32 status)).sendWake 256 ctx key
  | none => s

/-- Whether two ranges [a, a + n) and [b, b + m) overlap. -/
def overlap (a n b m : Nat) : Bool := a < b + m && b < a + n

/-- Whether an entry of a context's TLBs overlaps a range. -/
def TlbEntry.meets (e : TlbEntry) (ctx va n : Nat) : Bool := e.ctx == ctx && overlap e.va e.size va n

/-- Whether the run of a base register, which begins with VB's page, overlaps a range; one of limit 0 has none (R80, R188, R189). -/
def BaseReg.meets (b : BaseReg) (va n : Nat) : Bool :=
  b.valid && b.limit != 0 && overlap b.run (b.vb.toNat + b.limit - b.run) va n

/-- Clears the base registers of a group whose run overlaps a range (R81, R189). -/
def Group.clearBases (g : Group) (va n : Nat) : Group :=
  { g with b := g.b.mapVals fun _ b => if b.meets va n then { b with valid := false, limit := 0 } else b }

/-- Clears the base registers of every group of a context, saved ones too (R189, step 2). -/
def State.clearBases (s : State) (ctx va n : Nat) : State :=
  { s with
    groups := s.groups.mapVals fun _ g => if g.ctx = ctx then g.clearBases va n else g
    contexts := s.contexts.modify ctx fun c =>
      { c with saved := c.saved.map fun t => { t with groups := t.groups.map fun p => (p.1, p.2.clearBases va n) } } }

/-- Drops every TLB and instruction-TLB entry of a context that overlaps a range, and the failed walks of its groups there,
which come again (R187, R189, step 1). -/
def State.dropTlbs (s : State) (ctx va n : Nat) : State :=
  { s with
    groups := s.groups.mapVals fun _ g =>
      if g.ctx = ctx then { g with badPages := g.badPages.filter fun p => !overlap (24576 * p.1) 24576 va n } else g
    cores := s.cores.mapVals fun _ x => { x with tlb := x.tlb.filter fun e => !e.meets ctx va n }
    clusters := s.clusters.mapVals fun _ x => { x with itlb := x.itlb.filter fun e => !e.meets ctx va n } }

/-- Whether an address translates for a group through an entry or register that an invalidation of a range drops. -/
def State.usesDropped (s : State) (k ctx va n a : Nat) : Bool :=
  overlap a 1 va n ||
    ((s.core (coreOf k)).tlb.any fun e => e.meets ctx va n && e.holds ctx a) ||
    ((s.group k).b.any fun p => p.2.meets va n && overlap a 1 p.2.vb.toNat p.2.limit)

/-- The accesses in flight that translated through what an invalidation drops (R189, step 3). -/
def State.oldAccesses (s : State) (ctx va n : Nat) : List (Nat × Nat) :=
  s.groups.flatMap fun p =>
    if p.2.ctx = ctx then
      (p.2.accesses.filter fun a => a.lanes.any fun x => s.usesDropped p.1 ctx va n x.va).map fun a => (p.1, a.id)
    else []

/-- The same for requests sent to peer devices. -/
def State.oldSends (s : State) (ctx va n : Nat) : List (Nat × Nat) :=
  (s.peerSends.filter fun p => p.cmds.isEmpty && p.host.isNone && (s.group p.group).ctx == ctx && s.usesDropped p.group ctx va n p.va).map fun p => (p.dev, p.seq)

/-- Whether the accesses a request waits for are all performed. -/
def State.oldDone (s : State) (o : XlateOp) : Bool :=
  o.waitFor.all (fun p => !((s.group p.1).accesses.any fun a => a.id == p.2)) &&
    o.waitPeers.all fun p => !(s.peerSends.any fun q => q.dev == p.1 && q.seq == p.2)

/-- A well-formed request to invalidate a range. -/
def XlateReq.invalidates (r : XlateReq) : Bool :=
  r.kind == 1 && r.va % 24576 == 0 && r.va < 2 ^ 56 && r.len != 0

/-- INVALIDATE_RANGE: the entries are dropped and the base registers cleared (R189, steps 1 and 2). -/
def execInvalidateRange (ctx : Nat) (s : State) : Host.Outcome State Fault Refusal :=
  event "INVALIDATE_RANGE" (
    match s.nextXlate ctx with
    | none => none
    | some r =>
      if !r.invalidates then none
      else
        let n := 24576 * r.len
        let o : XlateOp :=
          { compact := false, va := r.va, bytes := n, frame := 0, done := r.done
            waitFor := s.oldAccesses ctx r.va n, waitPeers := s.oldSends ctx r.va n }
        some ((((s.takeXlate ctx).dropTlbs ctx r.va n).clearBases ctx r.va n).modCtx ctx fun c => { c with xlateOp := some o }))

/-- INVALIDATE_RANGE_DONE: every access that used the old mapping is performed, and DONE is written (R189,
R190). -/
def execInvalidateRangeDone (ctx : Nat) (s : State) : Host.Outcome State Fault Refusal :=
  event "INVALIDATE_RANGE_DONE" (
    match (s.context ctx).xlateOp with
    | none => none
    | some o =>
      if o.compact || !s.oldDone o then none
      else some ((s.xlateStatus ctx o.done 1).modCtx ctx fun c => { c with xlateOp := none }))

/-- The address of the level-2 entry of an address, by valid table entries alone. -/
def State.level2 (s : State) (ctx va : Nat) : Option Nat :=
  let n := va / 24576
  let next (at_ : Nat) : Option Nat :=
    let e := s.peekNat at_ 8
    if e % 2 = 1 && e / 2 % 2 = 0 && tableOk e then some (e / 2 ^ 16 % 2 ^ 30 * 2048) else none
  (next ((s.context ctx).ptroot + 8 * (n / 2 ^ 24))).bind fun t3 =>
    (next (t3 + 8 * (n / 2 ^ 16 % 256))).map fun t2 => t2 + 8 * (n / 256 % 256)

/-- The 256 level-1 entries under a level-2 entry at an address. -/
def State.level1 (s : State) (at_ : Nat) : Option (List Nat) :=
  let e := s.peekNat at_ 8
  if e % 2 = 1 && e / 2 % 2 = 0 && tableOk e then
    some ((List.range 256).map fun i => s.peekNat (e / 2 ^ 16 % 2 ^ 30 * 2048 + 8 * i) 8)
  else none

/-- The level-1 entries of a region that may be compacted: valid local leaves with equal permissions (R192). -/
def State.compactable (s : State) (ctx va : Nat) : Option (Nat × List Nat) :=
  (s.level2 ctx va).bind fun at_ => (s.level1 at_).bind fun es =>
    let e0 := es.headD 0
    if es.all fun e => e % 4 == 3 && leafOk e 1 && e / 2 ^ 56 % 16 == 0 && e / 8 % 8 == e0 / 8 % 8 then some (at_, es) else none

/-- A well-formed request to compact a region. -/
def XlateReq.compacts (r : XlateReq) : Bool :=
  r.kind == 2 && r.va % (256 * 24576) == 0 && r.va < 2 ^ 56 && r.len % 256 == 0 && r.len < Config.frames

/-- COMPACT: base registers into the region are cleared, and stores into it are held from now on (R192, step 1). -/
def execCompact (ctx : Nat) (s : State) : Host.Outcome State Fault Refusal :=
  event "COMPACT" (
    match s.nextXlate ctx with
    | none => none
    | some r =>
      if !r.compacts || (s.compactable ctx r.va).isNone then none
      else
        let n := 256 * 24576
        let o : XlateOp := { compact := true, va := r.va, bytes := n, frame := r.len, done := r.done }
        some (((s.takeXlate ctx).clearBases ctx r.va n).modCtx ctx fun c => { c with xlateOp := some o }))

/-- Where a byte of the old frames goes in a compaction to frame f: to each frame that replaces one it lies in. -/
def compactKeys (frames : List Nat) (f k : Nat) : List Nat :=
  ((frames.zip (List.range 256)).filter fun p => p.1 == k / 24576).map fun p => (f + p.2) * 24576 + k % 24576

/-- Recalls every pinned line of some frames (R192, step 2). -/
def State.recallFrames (s : State) (frames : List Nat) : State :=
  (s.pins.filter fun p => frames.contains (192 * p.1 / 24576)).foldl (fun s p => s.recallLine p.1) s

/-- Copies old frames to f, f + 1 and so on: home bytes and poison; clean copies of the new frames' lines go from every L1
(R192, step 3; R203). -/
def State.copyFrames (s : State) (frames : List Nat) (f : Nat) : State :=
  let target (k : Nat) : Bool := f ≤ k / 24576 && k / 24576 < f + 256
  let cells := s.mem.flatMap fun p => (compactKeys frames f p.1).map fun k => (k, p.2)
  let lines := s.poison.flatMap fun l => (compactKeys frames f (192 * l)).map lineOf
  { s with
    mem := cells.foldl (fun m p => m.set 0 p.1 p.2) (s.mem.filter fun p => !target p.1)
    poison := (s.poison.filter fun l => !target (192 * l)) ++ lines
    cores := s.cores.mapVals fun _ x =>
      { x with l1 := x.l1.mapVals fun l y => if target (192 * l) then { y with valid := y.valid &&& y.dirty } else y } }

/-- COMPACT_DONE: the old frames are recalled and copied, the leaf replaced, the region invalidated, the held
accesses released, and DONE written (R192, steps 2 to 5). DEDUCED, log entry 65; DESIGN CHOICE of the recall of the new
frames' lines too, log entry 120. -/
def execCompactDone (ctx : Nat) (s : State) : Host.Outcome State Fault Refusal :=
  event "COMPACT_DONE" (
    match (s.context ctx).xlateOp with
    | none => none
    | some o =>
      if !o.compact || !(s.oldAccesses ctx o.va o.bytes).isEmpty || !(s.oldSends ctx o.va o.bytes).isEmpty then none
      else
        (s.compactable ctx o.va).map fun (at_, es) =>
          let frames := es.map fun e => e / 2 ^ 16 % 2 ^ 26
          let s := (s.recallFrames frames).recallFrames ((List.range 256).map (o.frame + ·))
          let s := s.copyFrames frames o.frame
          let leaf := 3 + 8 * (es.headD 0 / 8 % 8) + 2 ^ 16 * o.frame
          let s := s.homeWrite none at_ (leBytes 8 leaf)
          let s := ((s.dropTlbs ctx o.va o.bytes).clearBases ctx o.va o.bytes).modCtx ctx fun c => { c with xlateOp := none }
          let s := (s.context ctx).coreList.foldl (fun s c =>
            (s.modCore c fun x =>
              { x with
                sideLog := x.sideLog.map fun e =>
                  if e.ctx == ctx && overlap (192 * e.line) 192 o.va o.bytes then { e with hold := false } else e }).drainLog c) s
          s.xlateStatus ctx o.done 1)

/-- TRANSLATION_REQUEST_FAIL: a malformed request ends with status 2, a compaction that may not be done with 3
(R189, R192). -/
def execTranslationRequestFail (ctx : Nat) (s : State) : Host.Outcome State Fault Refusal :=
  event "TRANSLATION_REQUEST_FAIL" (
    match s.nextXlate ctx with
    | none => none
    | some r =>
      if r.invalidates then none
      else if !r.compacts then some ((s.takeXlate ctx).xlateStatus ctx r.done 2)
      else if (s.compactable ctx r.va).isSome then none
      else some ((s.takeXlate ctx).xlateStatus ctx r.done 3))

end Sys2Proof.Machine
end

