-- ==== Sys2Proof/Machine/Dispatcher.lean ====
section
/-! DEFINITION. The dispatcher: launch queues and records (R148 to R151), dependent launch (R152), completion (R153),
placement (R154, R155) and the launch state of a group (R22, R26, R38, R146, R147). -/

namespace Sys2Proof.Machine

/-! ### Launch queues -/

/-- The descriptor of launch queue q, where a table is registered (R148). -/
def State.queueDesc (s : State) (q : Nat) : Option Nat :=
  if q < 16 then s.queueTable.map fun t => t + 64 * q else none

/-- DISPATCHER_TAIL_READ: the dispatcher reads TAIL, which it must before it takes a record, and PRIO for the teams it offers from now on (R148, R151). -/
def execDispatcherTailRead (q : Nat) (s : State) : Host.Outcome State Fault Refusal :=
  event "DISPATCHER_TAIL_READ" (
    match s.queueDesc q with
    | none => none
    | some d =>
      let tail := s.peekWord (d + 0x1C)
      let prio := s.peekNat (d + 0x10) 4 % 8
      if s.queueSeen.find? q = some tail && s.grids.all (fun g => g.2.queue != q || g.2.prio == prio) then none
      else some { s.agentTouch d 64 with
        queueSeen := s.queueSeen.put q tail
        grids := s.grids.mapVals fun _ g => if g.queue = q then { g with prio := prio } else g })

/-- A launch record at a physical address (R149). -/
def State.readLaunch (s : State) (a : Nat) : Launch :=
  let n (o k : Nat) : Nat := s.peekNat (a + o) k
  { grid := BitVec.ofNat 64 (n 0x08 8), entry := BitVec.ofNat 56 (n 0x10 8), param := BitVec.ofNat 64 (n 0x18 8)
    teams := n 0x20 4, tpg := n 0x24 2, gpt := n 0x26 2, extent := n 0x28 4, vregs := n 0x2C 4, scratch := n 0x30 4
    priv := n 0x34 4, gctl := s.peekWord (a + 0x38), seed := s.peekWord (a + 0x3C), dep := n 0x04 4 % 2 == 1
    donew := n 0x04 4 / 2 % 2 == 1, pager := n 0x04 4 / 4 % 2 == 1, pbitmap := n 0x40 8, pteams := n 0x48 4
    map := n 0x4C 4, maparg := n 0x50 4, maptab := n 0x58 8, cbitmap := n 0x60 8, done := n 0x68 8 }

/-- Whether an address that a record names is taken to lie in device memory (R150). -/
def State.inDevice (s : State) (ctx va : Nat) : Bool :=
  va < 2 ^ 56 && match s.walk ctx va with
    | .ok e => e.target == .local
    | _ => true

/-- Whether a pager grid of a context has a team placed, resident or saved (R150). -/
def State.pagerBusy (s : State) (ctx : Nat) : Bool :=
  s.grids.any fun q => q.2.ctx == ctx && q.2.launch.pager &&
    (s.teams.any (fun t => t.2.grid == q.1 && !t.2.ended) || (s.context ctx).saved.any fun t => t.team.grid == q.1)

/-- The offset of the first field of a record at `a` that breaks a limit, or 0xFF when it asks for more than one core
has (R149, R150, R152, R290). DEDUCED, log entry 60. -/
def State.launchError (s : State) (ctx a : Nat) : Option Nat :=
  let l := s.readLaunch a
  let c := s.context ctx
  let entry := s.peekNat (a + 0x10) 8
  let checks : List (Nat × Bool) :=
    [(0x00, s.peekNat a 4 == 1),
      (0x04, s.peekNat (a + 4) 4 < 8 && (!l.pager || (c.pager && !s.pagerBusy ctx))),
      (0x10, entry % 4 == 0 && s.inDevice ctx entry), (0x18, s.inDevice ctx l.param.toNat),
      (0x20, 1 ≤ l.teams && l.teams ≤ 2 ^ 24 && l.tpg != 0 && l.teams % l.tpg == 0),
      (0x24, 1 ≤ l.tpg && l.tpg ≤ 4), (0x26, 1 ≤ l.gpt && l.gpt ≤ 16),
      (0x28, 96 * (l.gpt - 1) + 1 ≤ l.extent && l.extent ≤ 96 * l.gpt),
      (0x2C, 8 ≤ l.vregs && l.vregs ≤ 128 && l.vregs % 8 == 0),
      (0x30, l.scratch % 192 == 0 && l.scratch ≤ Config.scratchBytes),
      (0x34, l.priv + 16 ≤ 64 * c.pvstride), (0x38, l.gctl &&& ~~~0x3F0F == 0),
      (0x40, !l.dep || s.inDevice ctx l.pbitmap),
      (0x4C, l.map ≤ 4 && !(l.dep && l.map == 0 && l.pteams < l.teams)),
      (0x50, !l.dep || (if l.map = 1 then 1 ≤ l.maparg && l.maparg ≤ 2 ^ 24 else l.map != 2 || l.maparg ≤ 2 ^ 24)),
      (0x54, s.peekNat (a + 0x54) 4 == 0),
      (0x58, !(l.dep && l.map == 4) || s.inDevice ctx l.maptab),
      (0x60, l.cbitmap % 8 == 0 && s.inDevice ctx l.cbitmap), (0x68, !l.donew || s.inDevice ctx l.done),
      (0x70, s.peekNat (a + 0x70) 144 == 0)]
  match checks.filter (fun p => !p.2) with
  | p :: _ => some p.1
  | [] => if Config.blocksPerCore < l.gpt * l.vregs / 8 then some 0xFF else none

/-- Whether a team of a grid may be placed: it depends on no producer, or has been released (R152). -/
def Grid.free (q : Grid) (team : Nat) : Bool := !q.launch.dep || q.released.contains team

/-- Whether every team of a grid is placed or waits on its producer (R151). -/
def Grid.settled (q : Grid) : Bool :=
  q.cancelled || q.placed.length * q.launch.tpg == q.launch.teams ||
    (List.range q.launch.teams).all fun t => q.placed.contains (t / q.launch.tpg) || !q.free t

/-- LAUNCH_RECORD_TAKE: the next record of a queue is read, HEAD advances, and the record becomes a grid, or is
rejected with a kind-8 record (R150, R151). -/
def execLaunchRecordTake (q : Nat) (s : State) : Host.Outcome State Fault Refusal :=
  event "LAUNCH_RECORD_TAKE" (
    match s.queueDesc q with
    | none => none
    | some d =>
      let n := s.peekNat (d + 8) 4
      let ctx := s.peekNat (d + 0x0C) 4
      let head := s.peekNat (d + 0x18) 4
      if n = 0 || (s.contexts.find? ctx).isNone || (s.queueSeen.find? q).all (BitVec.ofNat 32 head == ·) then none
      else if s.grids.any fun g => g.2.queue == q && !g.2.settled then none
      else
        let a := s.peekNat d 8 + 256 * (head % n)
        let l := s.readLaunch a
        let bad := s.launchError ctx a
        let prio := s.peekNat (d + 0x10) 4 % 8
        let s := ((s.agentTouch d 64).agentTouch a 256).homeWord (d + 0x18) (BitVec.ofNat 32 (head + 1))
        some (match bad with
          | some off => s.faultRecord ctx { kind := 8, code := off, grid := l.grid, va := a }
          | none => { s.bump with grids := s.grids.put s.fresh { ctx := ctx, queue := q, prio := prio, launch := l } }))

/-! ### Dependent launch (R152) -/

/-- The bits of a producer's map that are set, read byte by byte; the first access that fails ends the reading. -/
def State.bitsSet (s : State) (grid bitmap : Nat) : List Nat → Except (Option State) Bool
  | [] => .ok true
  | j :: js =>
    match s.dispatcherKey grid (bitmap + j / 8) 1 false with
    | .error x => .error x
    | .ok key => if (s.peek key).getLsbD (j % 8) then s.bitsSet grid bitmap js else .ok false

/-- P(c): the producer teams that consumer team c waits for. -/
def State.producers (s : State) (grid : Nat) (l : Launch) (c : Nat) : Except (Option State) (List Nat) :=
  let upTo (lo n : Nat) : List Nat := ((List.range n).map (lo + ·)).filter (· < l.pteams)
  match l.map with
  | 0 => .ok (upTo c 1)
  | 1 => .ok (upTo (c * l.maparg) l.maparg)
  | 2 => .ok (upTo (c - l.maparg) (c + l.maparg + 1 - (c - l.maparg)))
  | 3 => .ok (upTo 0 l.pteams)
  | _ =>
    match s.dispatcherKey grid (l.maptab + 8 * c) 4 false, s.dispatcherKey grid (l.maptab + 8 * c + 4) 4 false with
    | .ok f, .ok n => .ok (upTo (s.peekNat f 4) (min l.pteams (s.peekNat n 4)))
    | .error x, _ => .error x
    | _, .error x => .error x

/-- Whether a consumer team's producers have all set their bits, as the dispatcher reads them; or what an access of it
meets. -/
def State.producersDone (s : State) (grid team : Nat) (q : Grid) : Except (Option State) Bool :=
  match s.producers grid q.launch team with
  | .error x => .error x
  | .ok ps => s.bitsSet grid q.launch.pbitmap ps

/-- The state after the dispatcher has found the bits of a consumer team's producers all set: what its walks and reads leave
in the slices (R314, R372). -/
def State.producersRead (s : State) (grid team : Nat) (q : Grid) : State :=
  let read (s : State) (va : Nat) : State :=
    match s.dispatcherKey grid va 1 false with
    | .ok key => (s.agentWalk q.ctx va 4).agentTouch key 1
    | .error _ => s
  let table := if q.launch.map = 4 then [q.launch.maptab + 8 * team, q.launch.maptab + 8 * team + 4] else []
  let bytes := match s.producers grid q.launch team with
    | .ok ps => (firstOf (ps.map fun j => (q.launch.pbitmap + j / 8, ()))).map (·.1)
    | .error _ => []
  (table ++ bytes).foldl read s

/-- A consumer team that waits on its producers. -/
def Grid.waits (q : Grid) (team : Nat) : Bool :=
  q.launch.dep && !q.cancelled && team < q.launch.teams && !q.released.contains team

/-- CONSUMER_RELEASE: a consumer team is released once every producer team in P(c) has its bit set; an access of the
dispatcher that meets an unmapped page writes its record (R152, R153). -/
def execConsumerRelease (grid team : Nat) (s : State) : Host.Outcome State Fault Refusal :=
  event "CONSUMER_RELEASE" (
    match s.grids.find? grid with
    | none => none
    | some q =>
      if !q.waits team then none
      else match s.producersDone grid team q with
        | .error x => x
        | .ok false => none
        | .ok true =>
          some { s.producersRead grid team q with
            grids := s.grids.put grid { q with released := q.released ++ [team], offered := false } })

/-- Whether the present pass of the dispatcher still has a consumer team of a context to release: none is placed before all
whose producers have completed are released, so that they are offered in order (R153). DEDUCED, log entry 61. -/
def State.releasing (s : State) (ctx : Nat) : Bool :=
  s.grids.any fun p => p.2.ctx == ctx && p.2.launch.dep && (List.range p.2.launch.teams).any fun t =>
    p.2.waits t && match s.producersDone p.1 t p.2 with
      | .ok b => b
      | .error _ => false

/-! ### Completion (R153) -/

/-- Whether the side-log entries of a team's groups have drained, the replayed ones too; one whose slot another team has
taken has. -/
def State.teamDrained (s : State) (id : Nat) (t : Team) : Bool :=
  t.slots.all fun l =>
    let k := 48 * t.core + l
    (s.group k).team != id || ((s.ownEntries k).isEmpty && (s.group k).quiet)

/-- The registers of a team's halted groups are back with the core: their counters all read zero (R85). -/
def State.returnGroups (s : State) (id : Nat) (t : Team) : State :=
  t.slots.foldl (fun s l =>
    if (s.group (48 * t.core + l)).team = id then s.modGroup (48 * t.core + l) fun g => { g with resident := false } else s) s

/-- CBITMAP_SET: after its side-log entries have drained, an ended team's bit is set, with release at dev scope, and
with the last bit the grid completes. -/
def execCbitmapSet (team : Nat) (s : State) : Host.Outcome State Fault Refusal :=
  event "CBITMAP_SET" (
    match s.teams.find? team with
    | none => none
    | some t =>
      match s.grids.find? t.grid with
      | none => none
      | some q =>
        if !t.ended || q.cancelled || q.bits.contains t.index || !s.teamDrained team t then none
        else match s.dispatcherKey t.grid (q.launch.cbitmap + t.index / 8) 1 true with
          | .error x => x
          | .ok key =>
            let s := ((s.returnGroups team t).releaseL1 t.core 4).agentWalk q.ctx (q.launch.cbitmap + t.index / 8) 4
            let s := s.homeWrite none key [s.peek key ||| (1#8 <<< (t.index % 8))]
            let s := { s with
              teams := s.teams.erase team
              grids := s.grids.put t.grid { q with bits := q.bits ++ [t.index] } }
            some (s.completeGrid t.grid))

/-! ### Room on a core (R154) -/

/-- The teams that hold a part of a core. -/
def State.coreTeams (s : State) (c : Nat) : List Team := (s.teams.filter fun t => t.2.core == c && !t.2.ended).map (·.2)

/-- The free group slots of a core: of no team, with no side-log entry and nothing in flight.
DEDUCED, log entry 63. -/
def State.freeSlots (s : State) (c : Nat) : List Nat :=
  let taken := (s.coreTeams c).flatMap fun t => t.slots
  (List.range Config.slotsPerCore).filter fun l =>
    let g := s.group (48 * c + l)
    !taken.contains l && !g.resident && g.quiet && (s.ownEntries (48 * c + l)).isEmpty

/-- The smallest power of two not below n, for n up to 512. -/
def pow2Above (n : Nat) : Nat :=
  if n ≤ 1 then 1 else if n ≤ 2 then 2 else if n ≤ 4 then 4 else if n ≤ 8 then 8 else if n ≤ 16 then 16
  else if n ≤ 32 then 32 else if n ≤ 64 then 64 else if n ≤ 128 then 128 else if n ≤ 256 then 256 else 512

/-- Whether [a, a + n) meets none of some ranges. -/
def clear (held : List (Nat × Nat)) (a n : Nat) : Bool := held.all fun h => !(overlap a n h.1 h.2)

/-- The blocks of a core that groups hold: first and count. A group holds its N / 8 until its registers return (R85). -/
def State.heldBlocks (s : State) (c : Nat) : List (Nat × Nat) :=
  (s.teams.filter fun t => t.2.core == c).flatMap fun t =>
    let b := t.2.vregs / 8
    ((t.2.slots.zip (List.range t.2.slots.length)).filter fun p =>
      (s.group (48 * c + p.1)).resident && (s.group (48 * c + p.1)).team == t.1).map fun p => (t.2.block + p.2 * b, b)

/-- The scratchpad ranges that teams hold. -/
def heldScratch (ts : List Team) : List (Nat × Nat) := ts.map fun t => (t.scratchBase, t.scratch)

/-- The lowest aligned run of b free blocks among those held. -/
def blockRun (held : List (Nat × Nat)) (b : Nat) : Option Nat :=
  let a := pow2Above b
  ((List.range (448 / a + 1)).map (a * ·)).filter (fun x => x + b ≤ Config.blocksPerCore && clear held x b) |>.head?

/-- The least of some numbers. -/
def least : List Nat → Option Nat
  | [] => none
  | n :: ns =>
    match least ns with
    | none => some n
    | some m => some (min n m)

/-- The lowest offset at which `n` scratchpad bytes are free. -/
def scratchRun (ts : List Team) (n : Nat) : Option Nat :=
  least ((0 :: (heldScratch ts).map fun h => h.1 + h.2).filter fun x =>
    x + n ≤ Config.scratchBytes && clear (heldScratch ts) x n)

/-- How a core answers an offer of a team. -/
inductive Room where
  | fits (slots : List Nat) (block base : Nat)
  | fragmented
  | full
  deriving DecidableEq, Repr

/-- Whether a team of gpt groups of n registers with some scratchpad fits a core (R154, R155). -/
def State.room (s : State) (c gpt n scratch : Nat) : Room :=
  let ts := s.coreTeams c
  let b := gpt * n / 8
  let slots := s.freeSlots c
  let held := s.heldBlocks c
  let freeB := Config.blocksPerCore - (held.map fun h => h.2).sum
  let freeS := Config.scratchBytes - (ts.map fun t => t.scratch).sum
  if (s.core c).failed || (s.cluster (c / 4)).absent || slots.length < gpt || freeB < b || freeS < scratch then .full
  else match blockRun held b, scratchRun ts scratch with
    | some x, some y => .fits (slots.take gpt) x y
    | _, _ => .fragmented

/-- A context's cores in rotation order: from one past the last core on which a team was placed (R155).
DEDUCED, log entry 62. -/
def Context.rotation (c : Context) : List Nat :=
  match c.lastCore with
  | none => c.coreList
  | some l => (c.coreList.filter fun v => l < v) ++ c.coreList.filter fun v => v ≤ l

/-- A search for cores: those chosen, with their room, and those passed over as fragmented. -/
structure Search where
  chosen : List (Nat × List Nat × Nat × Nat) := []
  deferred : List Nat := []

/-- Tries the cores of a list in order until `n` of them fit. -/
def State.tryCores (s : State) (gpt n scratch want : Nat) : List Nat → Search → Search
  | [], r => r
  | c :: cs, r =>
    if want ≤ r.chosen.length then r
    else s.tryCores gpt n scratch want cs (match s.room c gpt n scratch with
      | .fits slots b base => { r with chosen := r.chosen ++ [(c, slots, b, base)] }
      | .fragmented => { r with deferred := r.deferred ++ [c] }
      | .full => r)

/-- Tries the clusters of a list in order until one takes every team of a gang. -/
def State.tryClusters (s : State) (gpt n scratch want : Nat) (order : List Nat) : List Nat → List Nat → Search
  | [], d => { deferred := d }
  | k :: ks, d =>
    let r := s.tryCores gpt n scratch want (order.filter fun c => c / 4 == k) {}
    if r.chosen.length = want then { r with deferred := d ++ r.deferred }
    else s.tryClusters gpt n scratch want order ks (d ++ r.deferred)

/-- Where the gang of `want` teams goes in a context (R155). -/
def State.findPlace (s : State) (ctx gpt n scratch want : Nat) : Search :=
  let order := (s.context ctx).rotation
  let clusters := (firstOf (order.map fun c => (c / 4, ()))).map (·.1)
  s.tryClusters gpt n scratch want order clusters []

/-! ### Launch state -/

/-- The random state with which a lane starts (R38). -/
def launchSeed (seed : Word) (team group lane : Nat) : Word :=
  let x := seed ^^^ (BitVec.ofNat 32 team * 0x2545F491#32) ^^^ (BitVec.ofNat 32 group * 0x7FEB352D#32)
    ^^^ (BitVec.ofNat 32 (lane + 1) * 0x9E3779B9#32)
  let y := advanceRandom (advanceRandom (advanceRandom x))
  if y = 0 then 1 else y

/-- The launched lanes of group g of a team (R149). -/
def launchedLanes (extent g : Nat) : Nat := min 96 (extent - 96 * g)

/-- The private area of a slot of a core (R334). -/
def Context.area (c : Context) (k : Nat) : Addr := BitVec.ofNat 56 (c.pvbase + k * c.pvstride * 24576)

/-- A group at its launch (R26, R38, R146, R147). -/
def launchGroup (c : Context) (ctx grid team k : Nat) (l : Launch) (index gang g : Nat) : Group :=
  let n := launchedLanes l.extent g
  let xm := maskOf fun i => i < (n + 3) / 4 * 4
  let base : Group :=
    { resident := true, ctx := ctx, grid := grid, team := team, index := g, pc := l.entry, n := l.vregs, gctl := l.gctl
      helper := maskOf fun i => n ≤ i, stklim := BitVec.ofNat 32 l.priv, pvbase := c.area k
      trap := { frame := BitVec.ofNat 32 l.priv }
      rng := laneList.map fun i => (i, launchSeed l.seed index g i) }
  ((((((base.setS 0 (l.param.setWidth 32) 14).setS 1 (BitVec.ofNat 32 (l.param.toNat / 2 ^ 32)) 14).setS 2
    (BitVec.ofNat 32 index) 1).setS 3 (BitVec.ofNat 32 g) 1).setS 4 (BitVec.ofNat 32 gang) 1).setTriple 61 xm)

/-- Puts a team in its place on a core and launches its groups, which see there what came before the dispatcher's acquire of
TAIL, and a dependent team's producers (R148, R152, R205). -/
def State.placeTeam (s : State) (ctx grid gangKey gang index : Nat) (l : Launch) (c : Nat) (slots : List Nat)
    (block base : Nat) : State :=
  let key := s.fresh
  let t : Team :=
    { ctx := ctx, grid := grid, index := index, gang := gangKey, core := c, slots := slots, block := block
      blocks := l.gpt * l.vregs / 8, scratchBase := base, scratch := l.scratch, vregs := l.vregs, priv := l.priv }
  let s := { s.bump with teams := s.teams.put key t }
  let s := { s with gangs := s.gangs.modify gangKey fun g => { g with teams := g.teams ++ [key] } }
  let s := s.acquireL1 c 4
  (slots.zip (List.range slots.length)).foldl (fun s p =>
    s.setGroup (48 * c + p.1) (launchGroup (s.context ctx) ctx grid key (48 * c + p.1) l index gang p.2)) s

/-- Counts the fragmentation deferrals of a search. -/
def State.countDeferrals (s : State) (cs : List Nat) : State :=
  cs.foldl (fun s c => s.countEvent c fun e => { e with fragmentation := e.fragmentation + 1 }) s

/-- Places a gang of a grid where a search found room. -/
def State.placeGang (s : State) (grid gang : Nat) (q : Grid) (r : Search) : State :=
  let key := s.fresh
  let s := { s.bump with
    gangs := s.gangs.put key { grid := grid, teams := [] }
    grids := s.grids.put grid { q with placed := q.placed ++ [gang], offered := false }
    contexts := s.contexts.modify q.ctx fun c =>
      { c with lastCore := (r.chosen.getLast?.map fun p => p.1).orElse fun _ => c.lastCore } }
  (r.chosen.zip (List.range r.chosen.length)).foldl (fun s p =>
    s.placeTeam q.ctx grid key gang (gang * q.launch.tpg + p.2) q.launch p.1.1 p.1.2.1 p.1.2.2.1 p.1.2.2.2) s

/-! ### Placement (R151, R155) -/

/-- The next gang of a grid that awaits placement: the lowest whose teams all may be placed. -/
def Grid.nextGang (q : Grid) : Option Nat :=
  if q.cancelled || q.placed.length * q.launch.tpg == q.launch.teams then none
  else (List.range (q.launch.teams / q.launch.tpg)).filter (fun n =>
    !q.placed.contains n && (List.range q.launch.tpg).all fun i => q.free (n * q.launch.tpg + i)) |>.head?

/-- Whether grid a is offered before grid b: higher priority, then lower queue, then older record. -/
def offeredBefore (a b : Nat × Grid) : Bool :=
  b.2.prio < a.2.prio || (a.2.prio == b.2.prio && (a.2.queue < b.2.queue || (a.2.queue == b.2.queue && a.1 < b.1)))

/-- Puts a grid into a list in the order of offers. -/
def insertOffer (x : Nat × Grid) : AMap Grid → AMap Grid
  | [] => [x]
  | y :: ys => if offeredBefore x y then x :: y :: ys else y :: insertOffer x ys

/-- The grids of a context that await placement at the highest priority among them, in the order of offers. -/
def State.awaiting (s : State) (ctx : Nat) : AMap Grid :=
  let gs := (s.grids.filter fun q => q.2.ctx == ctx && q.2.nextGang.isSome).foldr insertOffer []
  gs.filter fun q => some q.2.prio == gs.head?.map fun p => p.2.prio

/-- Offers the gangs of some grids in order: the first that fits is placed; the others note that they fit
nowhere. -/
def State.offer (s : State) : AMap Grid → State
  | [] => s
  | (grid, q) :: qs =>
    if q.offered then s.offer qs
    else match q.nextGang with
      | none => s.offer qs
      | some gang =>
        let l := q.launch
        let r := s.findPlace q.ctx l.gpt l.vregs l.scratch l.tpg
        let s := s.countDeferrals r.deferred
        if r.chosen.length = l.tpg then s.placeGang grid gang q r
        else { s with grids := s.grids.modify grid fun q => { q with offered := true } }.offer qs

/-- One pass of the dispatcher over a context: gangs are placed until none of those offered fits, n at most. -/
def State.offerAll (s : State) (ctx : Nat) : Nat → State
  | 0 => s
  | n + 1 =>
    let gs := s.awaiting ctx
    if gs.all (fun q => q.2.offered) then s else (s.offer gs).offerAll ctx n

/-- The gangs of a context's grids, and one for each grid: what a pass may place or find without room. -/
def State.offersOf (s : State) (ctx : Nat) : Nat :=
  ((s.grids.filter fun q => q.2.ctx == ctx).map fun q => q.2.launch.teams / q.2.launch.tpg + 1).sum

/-- TEAM_PLACEMENT: in one pass the dispatcher offers the teams of a context that await placement and places those that
fit; saved teams come first, and none is placed while the context is being pre-empted (R151, R155, R294, R297, R344). -/
def execTeamPlacement (ctx : Nat) (s : State) : Host.Outcome State Fault Refusal :=
  event "TEAM_PLACEMENT" (
    match s.contexts.find? ctx with
    | none => none
    | some c =>
      let gs := s.awaiting ctx
      if c.preempt != .none || !c.saved.isEmpty || gs.all (fun q => q.2.offered) || s.releasing ctx then none
      else some (s.offerAll ctx (s.offersOf ctx)))

end Sys2Proof.Machine
end

