-- ==== Sys2Proof/Machine/Network.lean ====
section
/-! DEFINITION. The message network and its routers (R215, R232 to R235, R314, R316 to R319, R324), and records held
until their queue has room (R290, R330). -/

namespace Sys2Proof.Machine

/-! ### Routers (R314, R318, R319) -/

/-- The routers on the path of a message from core v to core w: the network is switched in the central crossbars, also
between cores of one bed (R314). -/
def route (v w : Nat) : List Nat := routePart v (w / 64) ++ [w / 32]

/-- The routers on the path of a wake, from a core or from the husk (R314). -/
def Wake.path (w : Wake) : List Nat := if w.from_ < 256 then route w.from_ w.core else huskPart (w.core / 64) ++ [w.core / 32]

/-- The paths, or the parts of them that lie ahead, of what is in the network: messages, wakes, releases of gang
barriers, requests of accesses in flight for their home slices, contributions and results of reductions, and partials that move on. -/
def State.flits (s : State) : List (List Nat) :=
  (s.messages.map fun m => route (coreOf m.from_) m.toCore) ++ s.wakes.map Wake.path ++
    (s.gangs.flatMap fun q => q.2.barriers.flatMap fun b => b.2.wakeAt.map fun w => [w.1 / 32]) ++
    (s.groups.flatMap fun p => p.2.accesses.flatMap fun a =>
      (a.lines.filter fun l => s.homeSectors p.1 a l.1 l.2 != 0).map fun l => routePart (coreOf p.1) (dieOf l.1)) ++
    (s.cmds.filterMap fun c =>
      if c.2.kind != .nredx || c.2.saved then none
      else if c.2.result.isSome then some (resultPath c.2.scope c.2.core)
      else if c.2.sourceRead && c.2.phase == .queued then some [c.2.core / 32] else none) ++
    s.rounds.map fun r => if s.rootNode r.2.ctx r.2.scope r.2.node then [] else nextNode r.2.node

/-- The routers that hold something: flits on their paths, and partials (R318). -/
def State.busyRouters (s : State) : List Nat := s.flits.flatten ++ s.rounds.map fun r => r.2.node

/-- The routers that hold something are not idle in this clock; at one that is powered down the flits that wait for it are
noted (R318, R324). -/
def State.touchRouters (s : State) : State :=
  let fs := s.flits
  let s := s.onRouters s.busyRouters fun x => x.hold s.downWindow s.clock
  { s with
    routers := s.routers.mapVals fun r x => { x with waiting := if x.powered then 0 else (fs.filter fun p => p.contains r).length } }

/-- ROUTER_POWER_DOWN: after a whole idle window a router powers down; a flit that arrives in the clock of the
decision, before or after it, abandons it (R318, R319). -/
def execRouterPowerDown (r : Nat) (s : State) : Host.Outcome State Fault Refusal :=
  event "ROUTER_POWER_DOWN" (
    let x := s.router r
    if 24 ≤ r || !x.powered || s.busyRouters.contains r then none
    else match s.downWindow with
      | none => none
      | some w =>
        if s.clock + 1 < x.idleFrom + w then none
        else
          some (s.onRouters [r] fun x =>
            { x with powered := false, downAt := some s.clock, powerDowns := sat64 (x.powerDowns + 1) }))

/-- ROUTER_WAKE: the first flit that reaches a powered-down router wakes it; every flit that waits there for the wake is
counted (R318, R324). -/
def execRouterWake (r : Nat) (s : State) : Host.Outcome State Fault Refusal :=
  event "ROUTER_WAKE" (
    let waiting := (s.flits.filter fun p => p.contains r).length
    if r < 24 && !(s.router r).powered && waiting != 0 then
      some (s.onRouters [r] fun x =>
        { x with
          powered := true, wakes := sat64 (x.wakes + 1), delayed := sat64 (x.delayed + waiting), idleFrom := s.clock + 1
          waiting := 0 })
    else none)

/-! ### Messages and wakes -/

/-- The words in a queue of a core. -/
def queueWords (ms : List Message) : Nat := (ms.map fun m => m.words.length).sum

/-- Whether an earlier message of the same sender to the same queue is still on its way (R215); a sender that was restored
elsewhere is the same. -/
def State.earlier (s : State) (m : Message) : Bool :=
  s.messages.any fun x => x.id < m.id && x.team == m.team && x.index == m.index && x.toCore == m.toCore && x.queue == m.queue

/-- The group of a core that has waited longest in MRECV on a queue (R233). -/
def State.receiver (s : State) (core q : Nat) : Option Nat :=
  let ws := s.groups.filterMap fun p =>
    match p.2.wait with
    | .message n since => if coreOf p.1 == core && n == q && p.2.inbox.isNone then some (since, p.1) else none
    | _ => none
  (ws.foldl (fun b w =>
    match b with
    | none => some w
    | some v => if w.1 < v.1 then some w else some v) none).map (·.2)

/-- MESSAGE_DELIVERY: a message reaches its queue, or the group that has waited longest on it; one that does not fit
waits in the network. Messages that reach a queue in one clock are taken by rising sender (R232, R233, R317), and a router serves them after wakes, barriers and sums, the oldest first (R316).
DEDUCED, log entry 47. -/
def execMessageDelivery (core q msg : Nat) (s : State) : Host.Outcome State Fault Refusal :=
  event "MESSAGE_DELIVERY" (
    match (s.messages.filter fun m => m.id == msg && m.toCore == core && m.queue == q).head? with
    | none => none
    | some m =>
      let c := s.core core
      let old := c.queues.get [] q
      let inOrder : Bool := match c.arrivals.find? q with
        | some (t, f) => t != s.coreCycle core || f ≤ m.from_
        | none => true
      let path := route (coreOf m.from_) core
      let to_ := 8 * core + q
      if s.earlier m || !inOrder || 64 < queueWords old + m.words.length || !s.mayPass path 3 m.id to_ then none
      else
        let s := { s.passes path 3 m.id to_ with messages := s.messages.filter fun x => x.id != msg }
        let s := s.modCore core fun c => { c with arrivals := c.arrivals.put q (s.coreCycle core, m.from_) }
        some (match s.receiver core q with
          | some k => s.modGroup k fun g => { g.wakes (s.cycle k) with inbox := some m }
          | none => s.modCore core fun c => { c with queues := c.queues.put q (old ++ [m]) }))

/-- A group that a wake of a word reaches: a waiter reads again, and one that is reading reads once more (R235). -/
def Group.woken (g : Group) (now key : Nat) : Group :=
  match g.wait with
  | .word k _ _ => if k = key then g.wakes now else g
  | _ => if g.waitStart.isSome && g.waitKey = key then { g with waitAgain := true } else g

/-- A wake that names the answer of a record, which its core has registered, has come (R290). -/
def State.noteAnswers (s : State) (key : Nat) : State :=
  { s with
    contexts := s.contexts.mapVals fun _ c =>
      if c.records.any (fun r => r.2.1 + 0x30 == key) && s.peekNat key 4 != 0 && !c.woken.contains key then
        { c with woken := key :: c.woken }
      else c }

/-- WAKE_DELIVERY: a wake reaches a core, and every waiter there on its word reads again (R234, R235).
DESIGN CHOICE, log entry 48. -/
def execWakeDelivery (core : Nat) (s : State) : Host.Outcome State Fault Refusal :=
  event "WAKE_DELIVERY" (
    match (s.wakes.filter fun w => w.core == core).head? with
    | none => none
    | some w =>
      if !s.mayPass w.path 1 w.id 0 then none
      else some { (s.passes w.path 1 w.id 0).noteAnswers w.key with
        wakes := s.wakes.erase w
        groups := s.groups.mapVals fun k g => if coreOf k = core then g.woken (s.cycle k) w.key else g })

/-- WAITW_TIMEOUT: the limit of a WAITW passes, and it reads a last time (R235). -/
def execWaitwTimeout (g : Nat) (s : State) : Host.Outcome State Fault Refusal :=
  event "WAITW_TIMEOUT" (
    match (s.group g).wait with
    | .word _ start limit =>
      if limit = 0 || s.cycle g < start + limit then none
      else some (s.modGroup g fun x => x.wakes (s.cycle g))
    | _ => none)

/-! ### Held records -/

/-- FAULT_RECORD_RELEASE: the oldest held fault record enters the queue once it has room (R290). -/
def execFaultRecordRelease (ctx : Nat) (s : State) : Host.Outcome State Fault Refusal :=
  event "FAULT_RECORD_RELEASE" (
    match (s.context ctx).heldFaults with
    | [] => none
    | ws :: rest =>
      if !s.queueRoom (s.context ctx).faultq then none
      else some ((s.modCtx ctx fun c => { c with heldFaults := rest }).pushFault ctx ws))

/-- EVENT_RECORD_RELEASE: the oldest held event record enters the queue once it has room (R330). -/
def execEventRecordRelease (ctx : Nat) (s : State) : Host.Outcome State Fault Refusal :=
  event "EVENT_RECORD_RELEASE" (
    match (s.context ctx).heldEvents with
    | [] => none
    | ws :: rest =>
      if !s.queueRoom (s.context ctx).eventq then none
      else some ((s.modCtx ctx fun c => { c with heldEvents := rest }).pushRecord ctx 1 (s.context ctx).eventq ws))

end Sys2Proof.Machine
end

