-- ==== Sys2Proof/Machine/Preempt.lean ====
section
/-! DEFINITION. Pre-emption: forced saves (R294 to R296), restoration (R297) and the status of requests (R304). -/

namespace Sys2Proof.Machine

/-! ### Where a group may stop (R295) -/

/-- Whether a group may stop for a save: it has halted, stands at a clause boundary, which a resumption in the middle of a
clause is not (R302), or waits inside a clause in a way that R295 lists. -/
def Group.mayStop (g : Group) : Bool :=
  g.halted ||
    match g.wait with
    | .none => (!g.started && g.word == 0) || g.counterFull
    | .barrier _ => g.atBarrier
    | .release _ => g.atBarrier
    | .fetch _ => g.word == 0
    | .walk _ => false
    | .icinv _ _ _ => false
    | .peer => false
    | _ => true

/-- A group as the save area holds it: demoted, its windows closed, standing before the instruction it waits in; one
that waits on the ticket of a YIELD goes on waiting on it (R295). -/
def Group.stopped (g : Group) : Group :=
  { g.dropWaits with
    wait := match g.wait with
      | .ticket t true => .ticket t true
      | _ => .none
    resumed := g.started || g.resumed
    clause := none, started := false, looks := [], fetchBuf := [], engine := .herd, delayUntil := none, promotedAt := 0
    demoteNext := false, qualAt := none, qualHeld := false, displaced := false, lastIssue := none, issued := false
    clauseDone := none, sampledAt := 0 }

/-! ### The save (R295, R296) -/

/-- The groups that qualify for the tail class hold it: a group leaves it only by halting, also where a save or a
restore changes how many groups of its grid its core holds (R162). -/
def State.keepTails (s : State) : State :=
  { s with
    groups := s.groups.mapVals fun k g =>
      if g.resident && !g.halted && s.isTail k && !g.classes.contains .tail then { g with classes := g.classes ++ [.tail] }
      else g }

/-- The teams of a gang that have not ended, by number. -/
def State.gangTeams (s : State) (team : Nat) : AMap Team :=
  match s.teams.find? team with
  | none => []
  | some t => s.teams.filter fun u => u.2.gang == t.gang && !u.2.ended

/-- The slots of a team as group numbers. -/
def Team.groups (t : Team) : List Nat := t.slots.map fun l => 48 * t.core + l

/-- Whether a command lets its team be saved: a probe completes unless a page stopped it, an SCSAVE that has begun
completes, nothing is asked of a peer device, and an answer that has come is used (R257, R295). -/
def Cmd.maySave (c : Cmd) : Bool :=
  let stopped : Bool := match c.phase with
    | .stopped _ _ => true
    | _ => false
  c.phase != .asking && (c.answers.isEmpty || stopped) && (c.kind != .scprobe || stopped) && (c.kind != .scsave || !(c.phase == .begun || c.begun))

/-- A command as it is saved: it is queued again at the restore; a contribution keeps its round; a GATH or SCAT begins its
list again and passes over what DONE marks (R257). -/
def Cmd.save (c : Cmd) : Cmd :=
  let c := { c with saved := true, phase := if c.phase = .sent then .sent else .queued, retryAt := 0, answers := [] }
  if c.kind = .gath || c.kind = .scat then { c with progress := 0, fails := [] } else c

/-- Whether a core of a team has reached its limit. -/
def State.limitReached (s : State) (t : Team) : Bool :=
  match (s.core t.core).limitAt with
  | some n => n ≤ s.coreCycle t.core
  | none => false

/-- Performs a side-log entry at its home, over the path there, for a save (R314). -/
def State.performEntry (s : State) (e : SideEntry) (p : TlbEntry) : State :=
  let c := coreOf e.group
  let lanes := e.lanes.map fun x => { x with key := p.key x.va }
  let s := if e.order.getLsbD 1 then s.releaseL1 c e.scope else s
  let s := lanes.foldl (fun s x => s.flit (pathTo c x.key)) s
  let s := match e.op with
    | .store => lanes.foldl (fun s x => s.homeWrite (some c) x.key x.data) s
    | .atomic f _ _ => (s.atomicLanes c false f lanes).1
    | .load _ => s
  if e.wake then
    match lanes with
    | x :: _ => s.sendWake (coreOf e.group) e.ctx x.key
    | [] => s
  else s

/-- Drains the entries of some groups for a save: each is performed if its page translates now and none of its group's
before it stays; the others are answered (R295, step 5). Entries on peer windows have gone before, by replayPeers. -/
def State.saveEntries (s : State) (stays : List Nat) : List SideEntry → State × List SideEntry
  | [] => (s, [])
  | e :: es =>
    let keep : State × List SideEntry :=
      let p := s.saveEntries (e.group :: stays) es
      (p.1, { e with hold := false } :: p.2)
    if stays.contains e.group then keep
    else
      let s := s.agentWalk e.ctx (192 * e.line) 4
      match s.walk e.ctx (192 * e.line) with
      | .ok p =>
        if isPeer (p.key (192 * e.line)) || s.compacting e.ctx (192 * e.line) then keep
        else if !p.wr then (s.removedStore e).saveEntries stays es
        else (s.performEntry e p).saveEntries stays es
      | _ => keep

/-- Whether an entry lies on a page of a peer window. -/
def State.peerEntry (s : State) (e : SideEntry) : Bool :=
  match s.walk e.ctx (192 * e.line) with
  | .ok p => isPeer (p.key (192 * e.line)) && p.wr
  | _ => false

/-- Replays, for a save, the entries of those of some groups that have one on a peer window: their devices must answer
first. The entries that stay are answered. -/
def State.replayPeers (s : State) (stays : List Nat) : List SideEntry → State × List SideEntry
  | [] => (s, [])
  | e :: es =>
    let keep : State × List SideEntry :=
      let p := s.replayPeers (e.group :: stays) es
      (p.1, e :: p.2)
    if stays.contains e.group || s.compacting e.ctx (192 * e.line) then keep
    else match s.walk e.ctx (192 * e.line) with
      | .ok p =>
        if !p.wr then (s.removedStore e).replayPeers stays es
        else if s.peerEntry e || es.any (fun x => x.group == e.group && s.peerEntry x) then
          (s.replayEntry e p).replayPeers stays es
        else keep
      | _ => keep

/-- The private words of a group, words 0 to STKLIM + 15 of every lane; a byte that does not translate reads 0. -/
def State.privateBytes (s : State) (g : Group) : List Byte :=
  (List.range (384 * (g.stklim.toNat + 16))).map fun i =>
    match s.keyOf g.ctx (g.pvbase.toNat + i) false with
    | some k => s.peek k
    | none => 0

/-- n bytes of a part of a saved record whose layout the spec leaves open: free ones (R296). DESIGN CHOICE, log entry 68. -/
def State.freeBytes (s : State) (n : Nat) : State × List Byte :=
  ({ s with free := s.free + n }, (List.range n).map fun i => Config.freeByte (s.free + i))

/-- A team's scratchpad as its record holds it. -/
def State.teamScratch (s : State) (t : Team) : List Byte := s.spBytes t.core t.scratchBase t.scratch

/-- Bytes of the private words of a group. -/
def Group.privateSize (g : Group) : Nat := 384 * (g.stklim.toNat + 16)

/-- Bytes of a record before its scratchpad: header, barriers, commands, side log, and the queues of a core saved whole
(R296). -/
def recordHead (cmds entries : Nat) (whole : Bool) : Nat := 384 + 96 * cmds + 384 * entries + if whole then 2304 else 0

/-- Where the next record of a context's save area goes: past every record in it. DESIGN CHOICE, log entry 68. -/
def Context.nextRecord (c : Context) : Nat := c.saved.foldl (fun a t => max a (t.at_ + t.size)) c.saveArea

/-- Saves one team: its record is written, and what it held on its core is free. -/
def State.saveTeam (s : State) (key : Nat) (t : Team) : State :=
  let s := t.groups.foldl State.demote s
  let mine := (s.core t.core).sideLog.filter fun e => t.groups.contains e.group
  let r := s.saveEntries [] mine
  let s := r.1
  let ids := (s.cmds.filter fun c => c.2.team == key).map (·.1)
  let last := (s.coreTeams t.core).length ≤ 1
  let x := s.core t.core
  let groups := t.groups.map fun k => (k, (s.group k).stopped)
  let at_ := (s.context t.ctx).nextRecord
  let s0 := s.free
  let head := s.freeBytes (recordHead ids.length r.2.length last)
  let private_ := t.groups.flatMap fun k => s.privateBytes (s.group k)
  let tail := head.1.freeBytes (t.groups.length * (1152 + 384 * t.vregs))
  let bytes := head.2 ++ s.teamScratch t ++ private_ ++ tail.2
  let s := tail.1.homeWrite none at_ bytes
  let rec_ : SavedTeam :=
    { team := t, key := key, groups := groups, locks := s.cores.flatMap fun c => c.2.locks.filter fun l => ids.contains l.cmd
      sideLog := r.2, queues := if last then x.queues else []
      messages := if last then s.messages.filter fun m => m.toCore == t.core else []
      at_ := at_, size := bytes.length, free := s0, regs := head.1.free }
  { s with
    contexts := s.contexts.modify t.ctx fun c => { c with saved := c.saved ++ [rec_] }
    cores := s.cores.mapVals fun v c =>
      { c with
        locks := c.locks.filter fun l => !ids.contains l.cmd
        queues := if last && v == t.core then [] else c.queues
        sideLog := if v == t.core then c.sideLog.filter fun e => !t.groups.contains e.group else c.sideLog }
    messages := if last then s.messages.filter fun m => m.toCore != t.core else s.messages
    groups := s.groups.filter fun p => !t.groups.contains p.1
    teams := s.teams.erase key
    cmds := s.cmds.mapVals fun _ c => if c.team = key then c.save else c }

/-- Replays the entries of some teams' groups on peer windows. -/
def State.replayTeams (s : State) (ts : AMap Team) : State :=
  ts.foldl (fun s t =>
    let p := s.replayPeers [] ((s.core t.2.core).sideLog.filter fun e => t.2.groups.contains e.group)
    p.1.modCore t.2.core fun x =>
      { x with sideLog := x.sideLog.filter fun e => !t.2.groups.contains e.group || p.2.contains e }) s

/-- Whether some entry of a team's groups would be replayed to a peer device now. -/
def State.peersAhead (s : State) (t : Team) : Bool :=
  let log := (s.core t.core).sideLog.filter fun e => t.groups.contains e.group
  (s.replayPeers [] log).2 != log

/-- FORCED_SAVE: once its cores have reached their limits and its groups have stopped, a team is saved, with the other
teams of its gang. Engines go on by at most `steps` elements or steps first (R254, R294 to R296).
Entries on peer windows are replayed first, and the team is saved once their devices have answered.
DESIGN CHOICE, log entry 67. -/
def execForcedSave (team steps : Nat) (s : State) : Host.Outcome State Fault Refusal :=
  event "FORCED_SAVE" (
    let ts := s.gangTeams team
    let ids := (s.cmds.filter fun c => !c.2.saved && ts.any fun t => t.1 == c.2.team).map (·.1)
    let s := ids.foldl (fun s id => (s.runCmd id (if ((s.cmds.find? id).map Cmd.working).getD false then steps else 0)).1) s
    let ready := ts.all fun t =>
      s.limitReached t.2 && (s.context t.2.ctx).preempt == .draining && t.2.groups.all fun k => (s.group k).mayStop && (s.group k).quiet && !(s.group k).switching
    let cmdsReady := s.cmds.all fun c => !ids.contains c.1 || c.2.maySave
    if ts.isEmpty || !ready || !cmdsReady then none
    else if ts.any fun t => s.peersAhead t.2 then some (s.replayTeams ts)
    else some (ts.foldl (fun s t => s.saveTeam t.1 t.2) s.keepTails))

/-! ### Restoration (R297) -/

/-- A list in the rising order of a number of its elements. -/
def sortBy {α : Type} (key : α → Nat) : List α → List α
  | [] => []
  | x :: xs =>
    let l := sortBy key xs
    l.filter (fun y => key y < key x) ++ x :: l.filter (fun y => key x ≤ key y)

/-- The saved gangs of a context that are offered next: those of the highest priority among the saved, by lower queue,
older record and lower gang (R151, R155, R297). -/
def State.savedGangs (s : State) (ctx : Nat) : List Nat :=
  let saved := sortBy (fun t => t.team.index) (s.context ctx).saved
  let grids := (s.grids.filter fun q => saved.any fun t => t.team.grid == q.1).foldr insertOffer []
  let top := grids.filter fun q => some q.2.prio == grids.head?.map fun p => p.2.prio
  top.flatMap fun q => ((saved.filter fun t => t.team.grid == q.1).map fun t => t.team.gang).eraseDups

/-- The teams of a saved gang in the order of their indexes. -/
def State.savedTeams (s : State) (ctx gang : Nat) : List SavedTeam :=
  sortBy (fun t => t.team.index) ((s.context ctx).saved.filter fun u => u.team.gang == gang)

/-- A barrier whose arrived set names groups by their new slots; its clocks are those of other cores and go (R3). -/
def Barrier.moved (b : Barrier) (f : Nat → Nat) : Barrier :=
  { b with arrived := b.arrived.map f, due := false, quorumAt := none, wakeAt := [] }

/-- Writes a group's private words into its new area, where that translates. -/
def State.restorePrivate (s : State) (ctx base : Nat) (bs : List Byte) : State :=
  (bs.zip (List.range bs.length)).foldl (fun s p =>
    match s.keyOf ctx (base + p.2) true with
    | some k => s.homeWrite none k [p.1]
    | none => s) s

/-- Where the parts of a gang go: for each team its number, its core, and its old and new slots. -/
def newSlots (ts : List SavedTeam) (r : Search) : AMap Nat :=
  (ts.zip r.chosen).flatMap fun p => p.1.groups.map (·.1) |>.zip (p.2.2.1.map fun l => 48 * p.2.1 + l)

/-- A command goes on where its team is restored; a GATH or SCAT reads DONE from its scratchpad, as with RESUME (R257,
R278). -/
def Cmd.restored (c : Cmd) (core : Nat) (f : Nat → Nat) (scratch : List Byte) : Cmd :=
  let c := { c with group := f c.group, core := core, saved := false }
  if c.cleared && (c.kind = .gath || c.kind = .scat) then
    { c with done := leNat ((scratch.drop (gatherBlock c.block).soff).take 96) }
  else c

/-! ### A record that has been written to since the save (R296) -/

/-- What the device reads in a part of a record whose layout the spec leaves open: none while the part holds the bytes that
the save wrote there, and so the state that was saved; else numbers that its bytes alone decide. DESIGN CHOICE, log
entry 68. -/
def readPart (bs : List Byte) (free : Nat) : Option (Nat → Nat) :=
  if bs = (List.range bs.length).map fun i => Config.freeByte (free + i) then none else some (Config.recordValue bs)

/-- The words that a part of a record holds from place i on. -/
def partWords (f : Nat → Nat) (i n : Nat) : List Word := (List.range n).map fun j => BitVec.ofNat 32 (f (i + j))

/-- A site as a part of a record holds it. -/
def partSite (f : Nat → Nat) (i : Nat) : Site := ⟨BitVec.ofNat 56 (f i), BitVec.ofNat 32 (f (i + 1)), f (i + 2) % 16⟩

/-- A base register as a group's part of a record holds it. -/
def partBase (f : Nat → Nat) (i : Nat) : BaseReg :=
  { vb := BitVec.ofNat 56 (f i), limit := f (i + 1) % 2 ^ 32, rd := f (i + 2) % 2 == 1, wr := f (i + 3) % 2 == 1
    valid := f (i + 4) % 2 == 1, everset := f (i + 5) % 2 == 1, start := f (i + 6), run := f (i + 7) }

/-- A group with the registers that its part of a record holds. -/
def Group.fromPart (g : Group) (f : Nat → Nat) : Group :=
  let regs (i n : Nat) : AMap SReg := (List.range n).foldl (fun m j =>
    m.set {} j ⟨BitVec.ofNat 32 (f (i + 2 * j)), BitVec.ofNat 4 (f (i + 2 * j + 1))⟩) []
  let mask (i : Nat) : LaneMask := BitVec.ofNat 96 (f i)
  { g with
    pc := BitVec.ofNat 54 (f 0) ++ 0#2, word := f 1 % 15, s := regs 1000 64, ts := regs 1200 8
    v := (List.range g.n).map fun r =>
      (r, ⟨BitVec.ofNat 4 (f (2000 + 100 * r)), (List.range 96).map fun l => BitVec.ofNat 32 (f (2001 + 100 * r + l))⟩)
    b := (List.range 4).map fun n => (n, partBase f (20 + 10 * n))
    gctl := BitVec.ofNat 32 (f 2) &&& 0x3F0F, gstat := BitVec.ofNat 6 (f 3), helper := mask 4, stklim := BitVec.ofNat 32 (f 5)
    cycHold := if f 6 % 2 = 0 then none else some (BitVec.ofNat 32 (f 7))
    ticket := BitVec.ofNat 32 (f 8), batch := BitVec.ofNat 32 (f 9)
    rng := (List.range 96).map fun l => (l, BitVec.ofNat 32 (f (100 + l)))
    trap :=
      { cause := BitVec.ofNat 6 (f 200), mask := mask 201, val := BitVec.ofNat 64 (f 202), pc := BitVec.ofNat 54 (f 203) ++ 0#2
        word := BitVec.ofNat 4 (f 204), site := partSite f 205, frame := BitVec.ofNat 32 (f 208) }
    slotTags := (List.range 16).foldl (fun m k => m.set 0 k (BitVec.ofNat 4 (f (210 + k)))) []
    trapMode := f 10 % 2 == 1, lockDepth := f 11 % 16, arrivalDone := f 12 % 2 == 1
    pending := if f 13 % 2 = 0 then [] else [.lateStore (partSite f 14) (f 17)] }

/-- A record as the device reads it: header, barriers, commands, side log, queues and the groups' registers each as saved
while its bytes stand, else as they now are. What the header says that names the record itself stays. -/
def SavedTeam.asRead (t : SavedTeam) (cmds : Nat) (bs : List Byte) : SavedTeam :=
  let part (o n : Nat) : Option (Nat → Nat) := readPart ((bs.drop o).take n) (t.free + o)
  let n := 1152 + 384 * t.team.vregs
  let tail := bs.length - t.groups.length * n
  let head := tail - (t.team.scratch + (t.groups.map fun p => p.2.privateSize).sum)
  let queues := recordHead cmds t.sideLog.length false
  let t : SavedTeam := match part 0 192 with
    | none => t
    | some f => { t with team := { t.team with index := f 0 % 2 ^ 24 } }
  let t : SavedTeam := match part 192 192 with
    | none => t
    | some f =>
      { t with
        team := { t.team with barriers := (List.range 16).map fun b => (b, { phase := f b }) }
        groups := t.groups.map fun g => (g.1, { g.2 with phases := (List.range 20).map fun b => (b, f (100 * g.2.index + 20 + b)) }) }
  let t : SavedTeam := match part (384 + 96 * cmds) (384 * t.sideLog.length) with
    | none => t
    | some f =>
      { t with
        sideLog := (t.sideLog.zip (List.range t.sideLog.length)).map fun p =>
          { p.1 with
            site := partSite f (1000 * p.2)
            lanes := p.1.lanes.map fun x => { x with data := x.data.map fun _ => BitVec.ofNat 8 (f (1000 * p.2 + 3 + x.lane)) } } }
  let t : SavedTeam := match part queues (head - queues) with
    | none => t
    | some f =>
      { t with queues := t.queues.map fun q => (q.1, q.2.map fun m => { m with words := partWords f (100 * q.1) m.words.length }) }
  { t with
    groups := (t.groups.zip (List.range t.groups.length)).map fun p =>
      (p.1.1, match readPart ((bs.drop (tail + n * p.2)).take n) (t.regs + n * p.2) with
        | none => p.1.2
        | some f => p.1.2.fromPart f) }

/-- The saved commands of a team as the device reads their part of its record. -/
def SavedTeam.cmdsRead (t : SavedTeam) (cmds : AMap Cmd) (bs : List Byte) : AMap Cmd :=
  let mine := (cmds.filter fun c => c.2.team == t.key).map (·.1)
  (mine.zip (List.range mine.length)).foldl (fun m p =>
    match readPart ((bs.drop (384 + 96 * p.2)).take 96) (t.free + 384 + 96 * p.2) with
    | none => m
    | some f => m.modify p.1 fun c =>
      { c with
        site := partSite f 0, ticket := BitVec.ofNat 32 (f 3), block := partWords f 4 c.block.length, progress := f 20 % 2 ^ 24
        matching := f 21 % 2 == 1 }) cmds

/-- Puts a saved team into its place: everything is read from its record as it stands (R296), and
its groups see on the new core no copy older than what they have seen (R203). -/
def State.restoreTeam (s : State) (t : SavedTeam) (core : Nat) (slots : List Nat) (block base : Nat) (f : Nat → Nat) : State :=
  let ctx := t.team.ctx
  let r := s.sliceRead t.at_ t.size
  let s := { r.1 with cmds := t.cmdsRead r.1.cmds r.2 }
  let sizes := t.groups.map fun p => p.2.privateSize
  let whole := t.size - (t.team.scratch + sizes.sum + t.groups.length * (1152 + 384 * t.team.vregs))
  let t := t.asRead (s.cmds.filter fun c => c.2.team == t.key).length r.2
  let team : Team := { t.team with
    core := core, slots := slots, block := block, scratchBase := base
    barriers := t.team.barriers.mapVals fun _ b => b.moved f }
  let rest := r.2.drop whole
  let scratch := rest.take t.team.scratch
  let s : State := { s with
    teams := s.teams.put t.key team
    messages := s.messages ++ t.messages.map fun m => { m with toCore := core }
    cmds := s.cmds.mapVals fun _ c => if c.team = t.key then c.restored core f scratch else c }
  let s : State := s.modCore core fun (x : Core) =>
    { x with
      sideLog := (t.sideLog.map fun e => { e with group := f e.group }) ++ x.sideLog
      scratch := putBytes x.scratch base scratch
      queues := t.queues.foldl (fun m q => m.put q.1 (m.get [] q.1 ++ q.2)) x.queues }
  let s := ((t.groups.zip sizes).foldl (fun (q : State × List Byte) p =>
    let k := f p.1.1
    let area := (q.1.context ctx).area k
    let s := q.1.setGroup k { p.1.2 with pvbase := area }
    (s.restorePrivate ctx area.toNat (q.2.take p.2), q.2.drop p.2)) (s, rest.drop t.team.scratch)).1
  s.acquireL1 core 4

/-- Puts the teams of a saved gang where a search found room (R297). -/
def State.restoreGang (s : State) (ctx : Nat) (ts : List SavedTeam) (gang : Nat) (r : Search) : State :=
  let s := s.keepTails
  let m := newSlots ts r
  let f (k : Nat) : Nat := m.get k k
  let s := (ts.zip r.chosen).foldl (fun s p => s.restoreTeam p.1 p.2.1 p.2.2.1 p.2.2.2.1 p.2.2.2.2 f) s
  let s := { s with
    gangs := s.gangs.modify gang fun g => { g with barriers := g.barriers.mapVals fun _ b => b.moved f }
    contexts := s.contexts.modify ctx fun c =>
      { c with
        saved := c.saved.filter fun u => u.team.gang != gang
        lastCore := (r.chosen.getLast?.map fun p => p.1).orElse fun _ => c.lastCore } }
  let s : State := ts.foldl (fun s t => t.locks.foldl (fun s l =>
    s.modCore (s.teamCore l.team) fun x => { x with locks := x.locks ++ [{ l with from_ := 0 }] }) s) s
  let s : State := ts.foldl (fun s t => (List.range 20).foldl (fun s b =>
    (s.setBarrier t.key b (s.quorum t.key b (s.coreCycle (s.teamCore t.key)) (s.barrier t.key b))).checkBarrier t.key b) s) s
  r.chosen.foldl (fun s p => s.drainLog p.1) s

/-- Offers saved gangs in order: the first that fits is restored, with its range-lock entries in the tables; the others
note that they fit nowhere (R155, R297). -/
def State.offerSaved (s : State) (ctx : Nat) : List Nat → State
  | [] => s
  | gang :: gs =>
    let ts := s.savedTeams ctx gang
    match ts with
    | [] => s.offerSaved ctx gs
    | t0 :: _ =>
      if t0.offered then s.offerSaved ctx gs
      else
        let r := s.findPlace ctx t0.groups.length t0.team.vregs t0.team.scratch ts.length
        let s := s.countDeferrals r.deferred
        let room := r.chosen.all fun p => (s.core p.1).locks.length + (ts.flatMap fun t => t.locks).length ≤ 32
        if r.chosen.length = ts.length && room then s.restoreGang ctx ts gang r
        else
          (s.modCtx ctx fun c =>
            { c with saved := c.saved.map fun u => if u.team.gang == gang then { u with offered := true } else u }).offerSaved ctx gs

/-- TEAM_RESTORE: the dispatcher offers the saved gangs of a context in order, before any unplaced team (R155, R297).
DEDUCED, log entry 69. -/
def execTeamRestore (ctx : Nat) (s : State) : Host.Outcome State Fault Refusal :=
  event "TEAM_RESTORE" (
    let gs := s.savedGangs ctx
    if (s.context ctx).preempt != .none ||
        gs.all fun g => (s.savedTeams ctx g).all fun t => t.offered then none
    else some (s.offerSaved ctx gs))

/-! ### The status of requests (R304) -/

/-- The status that a request has earned. -/
def State.requestStatus (s : State) (r : CtxRequest) : Option Nat :=
  match r.status with
  | some n => some n
  | none => if s.vacated r.target then some 1 else none

/-- PREEMPT_STATUS_WRITE: the status of the oldest request on a context that has one is written in the context that
issued it, with a wake (R304). -/
def execPreemptStatusWrite (ctx : Nat) (s : State) : Host.Outcome State Fault Refusal :=
  event "PREEMPT_STATUS_WRITE" (
    match (s.requests.filter fun r => r.target == ctx && (s.requestStatus r).isSome).head? with
    | none => none
    | some r =>
      let s := { s with requests := s.requests.erase r }
      let s := if r.save && r.status.isNone then s.modCtx ctx fun c => { c with preempt := .saved } else s
      let status := BitVec.ofNat 32 ((s.requestStatus r).getD 0)
      some (match s.keyOf r.issuer r.addr true with
        | some k => ((s.agentWalk r.issuer r.addr 4).agentWord r.issuer r.addr k status).sendWake 256 r.issuer k
        | none => s))

end Sys2Proof.Machine
end

