-- ==== Sys2Proof/Machine/Observe.lean ====
section
/-! DEFINITION. Observation (R357 to R362): samples, trial delays, and the commits of chunks. -/

namespace Sys2Proof.Machine

/-! ### Samples (R358) -/

/-- The context that owns a core, if one does. -/
def State.owner (s : State) (core : Nat) : Option Nat := (s.contexts.filter fun c => c.2.hasCluster (core / 4)).head?.map (·.1)

/-- STATE of a sample, where the table of R358 names the group's state: 0 issued, 1 interlock, 2 wait counter, 3
barrier, 4 ticket or batch, 5 held by a page fault, 6 fetch frozen, 7 range lock. An interlock is one by a register of
the group's next instruction. DESIGN CHOICE, log entry 77. -/
def State.sampleState (s : State) (k : Nat) : Option Nat :=
  let g := s.group k
  match g.wait with
  | .none =>
    if g.lastIssue = some (s.cycle k) then some 0
    else if g.switching || g.delayUntil.isSome || g.chunkEnd.isSome then none
    else if !g.started then (if g.nextHead.any fun h => !g.waitMet h then some 2 else none)
    else if g.counterFull then some 2
    else if s.interlock then some 1 else none
  | .fetch _ => some 6
  | .records _ _ _ => some 5
  | .sideLog => some 5
  | .barrier _ => some 3
  | .ticket _ _ => some 4
  | .batch _ => some 4
  | .command ents _ => if s.locksFree ents then none else some 7
  | _ => if g.lastIssue = some (s.cycle k) then some 0 else none

/-- The group that a core samples: the resident one with the oldest sample, the lower slot first. -/
def State.sampled (s : State) (core : Nat) : Option Nat :=
  ((s.groups.filter fun p => coreOf p.1 == core && p.2.resident && !p.2.halted).foldl (fun b p =>
    match b with
    | none => some (p.1, p.2.sampledAt)
    | some x => if p.2.sampledAt < x.2 then some (p.1, p.2.sampledAt) else some x) none).map (·.1)

/-- The 32 bytes of a sample. -/
def State.sampleBytes (s : State) (k : Nat) : List Byte :=
  let g := s.group k
  let now := s.cycle k
  let st := (s.sampleState k).getD ((Config.freeWord s.free).toNat % 16)
  wordsBytes (g.site.words ++
    [locWord k, BitVec.ofNat 32 (st + if g.engine = .sprinter then 16 else 0)]) ++ leBytes 8 now

/-- SAMPLE: a core whose time has come writes a sample of its context's next group; a full ring drops it, and a core with
no resident group writes none. -/
def execSample (core : Nat) (s : State) : Host.Outcome State Fault Refusal :=
  event "SAMPLE" (
    let c := s.control 5
    let x := s.core core
    match s.owner core with
    | none => none
    | some ctx =>
      let o := (s.context ctx).observe
      if !c.en || o.ringEntries = 0 || s.coreCycle core < x.nextSample then none
      else
        let period := 2 ^ min 24 (10 + c.setting)
        let s := s.modCore core fun x => { x with nextSample := x.nextSample + period }
        match s.sampled core with
        | none => some s
        | some k =>
          if o.ringEntries ≤ (o.ringTail + 2 ^ 32 - o.ringHead % 2 ^ 32) % 2 ^ 32 then
            some (s.modCtx ctx fun c => { c with observe := { c.observe with dropped := sat64 (c.observe.dropped + 1) } })
          else
            let s := s.homeWrite none (o.ringBase + 32 * (o.ringTail % o.ringEntries)) (s.sampleBytes k)
            let s := { s with free := s.free + 1 }.modGroup k fun g => { g with sampledAt := s.coreCycle core + 1 }
            some (s.modCtx ctx fun c => { c with observe := { c.observe with ringTail := (c.observe.ringTail + 1) % 2 ^ 32 } }))

/-! ### Trials (R360) -/

/-- TRIAL_DELAY_EXPIRE: the delay after a clause outside the range is over. -/
def execTrialDelayExpire (g : Nat) (s : State) : Host.Outcome State Fault Refusal :=
  event "TRIAL_DELAY_EXPIRE" (
    match (s.group g).delayUntil with
    | some t => if t ≤ s.cycle g then some (s.modGroup g fun x => { x with delayUntil := none }) else none
    | none => none)

/-! ### Chunks (R361, R362) -/

/-- The log record of a group's chunk (R361). -/
def State.chunkRecord (s : State) (k e : Nat) : LogRecord :=
  let g := s.group k
  ⟨0, coreOf k, slotOf k, if g.chunkInput.isSome then 4 else e, g.chunk - 1, g.chunkInput⟩

/-- The 8-byte records that a commit appends to the log: its own, and for an input one with the value read (R361). -/
def LogRecord.words (r : LogRecord) : List Nat :=
  (r.agent * 2 ^ 32 + r.core * 2 ^ 24 + r.slot * 2 ^ 18 + r.end_ * 2 ^ 13 + r.size % 2 ^ 12) ::
    r.input.toList.map fun v => v.toNat

/-- A chunk that has read a line written by one committed after the read runs again from its start: what its instructions did
to their group and added to harvest counters is gone, and the squash is counted (R337, R361). DEDUCED, log entry 46. -/
def State.squash (s : State) (k : Nat) : State :=
  match s.chunks.find? k with
  | none => s
  | some c =>
    let s := (s.group k).accesses.foldl (fun s a => s.unhold k a.id) s
    let s := s.modGroup k fun g =>
      { g with
        pc := c.start.pc, word := c.start.word, clause := c.start.clause, started := c.start.started, resumed := c.start.resumed
        looks := c.start.looks, s := c.start.s, ts := c.start.ts, v := c.start.v, b := c.start.b, gctl := c.start.gctl
        gstat := c.start.gstat, rng := c.start.rng, cycHold := c.start.cycHold, harvHi := c.start.harvHi
        trapMode := c.start.trapMode, trap := c.start.trap, slotTags := c.start.slotTags, pending := c.start.pending
        counters := c.start.counters, wait := .none, results := [], accesses := [], badPages := [], peerAns := []
        issued := false, chunk := 0, chunkEnd := none, chunkInput := none }
    { s with chunks := s.chunks.erase k }.modCtx (s.group k).ctx fun x =>
      { x with
        harvest := c.counts.foldl (fun (m : AMap Nat) (p : Nat × Nat) => m.set 0 p.1 (m.get 0 p.1 - p.2)) x.harvest
        observe := { x.observe with squashes := sat64 (x.observe.squashes + 1) } }

/-- Whether a group's open chunk has to run again. -/
def State.chunkStale (s : State) (k : Nat) : Bool := ((s.chunks.find? k).map fun c => c.stale).getD false

/-- Ends a group's chunk. DEDUCED, log entry 46. -/
def State.closeChunk (s : State) (k : Nat) : State :=
  ({ s with chunks := s.chunks.erase k }.modGroup k fun g => { g with chunk := 0, chunkEnd := none, chunkInput := none }).modCtx (s.group k).ctx fun c =>
    { c with observe := { c.observe with chunks := sat64 (c.observe.chunks + 1) } }

/-- CHUNK_COMMIT: a group's chunk that has ended commits once its accesses are performed: logged, or in a replay in its
turn and checked against the log; one that differs pre-empts the context at once. One whose loads do not hold any more is
squashed, and one that has done what others may see keeps the rest out until then (R361, R362). -/
def execChunkCommit (g : Nat) (s : State) : Host.Outcome State Fault Refusal :=
  event "CHUNK_COMMIT" (
    match (s.group g).chunkEnd with
    | none => none
    | some e =>
      let ctx := (s.group g).ctx
      let o := (s.context ctx).observe
      let r := s.chunkRecord g e
      let put (s : State) (f : Observe → Observe) : State := s.modCtx ctx fun c => { c with observe := f c.observe }
      if !(s.group g).quiet || (o.mode != 0 && s.chunkOpen ctx (some g)) then none
      else if o.mode != 0 && s.chunkStale g then some (s.squash g)
      else if o.mode = 1 then some ((put s fun o => { o with log := o.log ++ [r] }).closeChunk g)
      else match o.next with
        | none => some (s.closeChunk g)
        | some l =>
          if l.agent != 0 || l.core != r.core || l.slot != r.slot then none
          else
            let s := (put s fun o => { o with replayAt := o.replayAt + 1 }).closeChunk g
            if l.end_ = r.end_ && l.size = r.size then some s
            else
              let s := put s fun o => { o with divergences := sat64 (o.divergences + 1) }
              some (if (s.context ctx).preempt = .none then s.startPreempt ctx 0 else s))

end Sys2Proof.Machine
end

