-- ==== Sys2Proof/Machine/Controls.lean ====
section
/-! DEFINITION. The controls (R369, R370), boot (R364, R365), spares and failing cores (R366, R367), and the clock and
coolant (R371). -/

namespace Sys2Proof.Machine

/-! ### Control writes (R369, R370) -/

/-- The largest preset of a control function. -/
def largestPreset (fn : Nat) : Nat :=
  if fn = 6 then 12 else if fn = 8 then 1 else if fn = 3 || fn = 4 || fn = 7 then 0 else 14

/-- Word 0 of the expert block that a preset writes: the power limit in W, the core clock in MHz, the rate of a lane of the
ports in Gbit/s, or the preset. DESIGN CHOICE, log entry 11. -/
def presetWord (fn level : Nat) : Word :=
  BitVec.ofNat 32 (if fn = 0 then 2800 - 100 * level else if fn = 1 then (if level = 0 then 1400 else min 1400 (Config.clockMhz level))
    else if fn = 3 || fn = 4 then 200 else level)

/-- The bound that fuses set on word 0 of an expert block: 2,800 W, 1.4 GHz, lanes of 200 Gbit/s (R370). -/
def fuseBound (fn : Nat) : Option Nat :=
  if fn = 0 then some 2800 else if fn = 1 then some 1400 else if fn = 3 || fn = 4 then some 200 else none

/-- A control function as it was last written. -/
def State.written (s : State) (fn : Nat) : Control := s.controls.get { en := false } fn

/-- A write of a basic control word. -/
def Control.write (c : Control) (fn : Nat) (w : Word) : Control :=
  let level := w.toNat % 16
  let c := { c with en := w.getLsbD 31, due := true }
  if level = 15 then { c with level := 15 }
  else
    let level := min level (largestPreset fn)
    { c with level := level, expert := AMap.set 0 [] 0 (presetWord fn level) }

/-- Whether a word lies past the fuse bound of a function. -/
def pastBound (fn idx : Nat) (w : Word) : Bool :=
  match fuseBound fn with
  | some b => idx == 0 && b < w.toNat
  | none => false

/-- Whether a write lies past a fuse bound: it is clamped and counted (R370). -/
def ControlWrite.past : ControlWrite → Bool
  | .basic _ _ => false
  | .expert fn idx w => pastBound fn idx w

/-- The controls after a write: that of an expert word sets LEVEL to 15 (R369), and a value past a fuse bound is clamped to
it (R370). -/
def writeControl (cs : AMap Control) : ControlWrite → AMap Control
  | .basic fn w => cs.put fn ((cs.get { en := false } fn).write fn w)
  | .expert fn idx w =>
    let c := cs.get { en := false } fn
    let w := if pastBound fn idx w then BitVec.ofNat 32 ((fuseBound fn).getD 0) else w
    cs.put fn { c with level := 15, expert := c.expert.set 0 idx w, due := true }

/-- A write passes the sequencer: of two that arrive in one clock the host's is applied first, so that what the firmware has
written in this clock stands after it (R369). DEDUCED, log entry 72. -/
def State.sequenced (s : State) (host : Bool) (w : ControlWrite) : State :=
  let s := { s with clamps := if w.past then sat64 (s.clamps + 1) else s.clamps }
  let same := s.firmwareAt == some s.clock
  if !host then
    { s with
      controls := writeControl s.controls w, firmwareAt := some s.clock
      firmwareWrites := (if same then s.firmwareWrites else []) ++ [w], controlsWas := if same then s.controlsWas else s.controls }
  else if same then
    { s with
      controls := s.firmwareWrites.foldl writeControl (writeControl s.controlsWas w), controlsWas := writeControl s.controlsWas w }
  else { s with controls := writeControl s.controls w }

/-- A write of a basic control word by the husk's firmware or by the management host. -/
def controlWrite (fn : Nat) (w : Word) (host : Bool) (s : State) : Host.Outcome State Fault Refusal :=
  .next (s.sequenced host (.basic fn w))

/-- POWER_LIMIT. -/
def execPowerLimit (w : Word) (host : Bool) (s : State) : Host.Outcome State Fault Refusal := controlWrite 0 w host s

/-- CORE_CLOCK. -/
def execCoreClock (w : Word) (host : Bool) (s : State) : Host.Outcome State Fault Refusal := controlWrite 1 w host s

/-- ROUTER_POWER_DOWN_CONTROL. -/
def execRouterPowerDownControl (w : Word) (host : Bool) (s : State) : Host.Outcome State Fault Refusal :=
  controlWrite 2 w host s

/-- HOST_PORT_CONTROL. -/
def execHostPortControl (w : Word) (host : Bool) (s : State) : Host.Outcome State Fault Refusal :=
  controlWrite 3 w host s

/-- PEER_PORTS_CONTROL. -/
def execPeerPortsControl (w : Word) (host : Bool) (s : State) : Host.Outcome State Fault Refusal :=
  controlWrite 4 w host s

/-- SAMPLING_CONTROL. -/
def execSamplingControl (w : Word) (host : Bool) (s : State) : Host.Outcome State Fault Refusal :=
  controlWrite 5 w host s

/-- REUSE_HISTOGRAM_CONTROL. -/
def execReuseHistogramControl (w : Word) (host : Bool) (s : State) : Host.Outcome State Fault Refusal :=
  controlWrite 6 w host s

/-- CAUSAL_TRIAL_CONTROL. -/
def execCausalTrialControl (w : Word) (host : Bool) (s : State) : Host.Outcome State Fault Refusal :=
  controlWrite 7 w host s

/-- REPLAY_CONTROL. -/
def execReplayControl (w : Word) (host : Bool) (s : State) : Host.Outcome State Fault Refusal :=
  controlWrite 8 w host s

/-- EXPERT_BLOCK_WRITE: the firmware sets a word of an expert block, as the host does through the control window: LEVEL
becomes 15, and a value past a fuse bound is clamped to it and counted (R369, R370). -/
def execExpertBlockWrite (fn idx : Nat) (w : Word) (s : State) : Host.Outcome State Fault Refusal :=
  event "EXPERT_BLOCK_WRITE" (if 9 ≤ fn || 64 ≤ idx then none else some (s.sequenced false (.expert fn idx w)))

/-! ### Controls taking effect -/

/-- A word of an expert block as a number. -/
def Control.expertNat (c : Control) (i : Nat) : Nat := (c.expert.get 0 i).toNat

/-- Two words of an expert block, low word first. -/
def Control.expertPair (c : Control) (i : Nat) : Nat := c.expertNat i + 2 ^ 32 * c.expertNat (i + 1)

/-- The contexts that an observation control acts on: that of expert word 63, or with 0 every live one. -/
def State.observed (s : State) (c : Control) : List Nat :=
  let id := c.expertNat 63
  if id = 0 then s.contexts.map (·.1) else (s.contexts.filter fun x => x.1 == id).map (·.1)

/-- Starts a trial in a context: each core counts its clocks from now, and a clause outside the range that ended in this
clock is delayed (R360). -/
def State.startTrial (s : State) (ctx : Nat) (t : Trial) : State :=
  let s := s.modCtx ctx fun c => { c with observe := { c.observe with trial := some t } }
  let s := { s with
    groups := s.groups.mapVals fun k g =>
      match g.clauseDone with
      | some (h, at_) => if g.ctx = ctx && at_ == s.cycle k && !g.trapMode then t.delays h at_ g else g
      | none => g }
  (s.context ctx).coreList.foldl (fun s v => s.modCore v fun x => { x with trialStart := some (s.coreCycle v) }) s

/-- The trial that an expert block names: LO, HI, D, the progress counter and its target.
DESIGN CHOICE, log entry 11. -/
def Control.trial (c : Control) : Trial :=
  ⟨c.expertPair 1, c.expertPair 3, c.expertNat 5, c.expertNat 6, c.expertPair 7⟩

/-- A control of sampling takes effect: the ring and the next sample of each core. -/
def State.armSampling (s : State) (c : Control) (ctx : Nat) : State :=
  let s := s.modCtx ctx fun x =>
    { x with
      observe := { x.observe with
        ringBase := c.expertPair 1, ringEntries := if c.en then c.expertNat 3 else 0, ringHead := c.expertNat 4 } }
  (s.context ctx).coreList.foldl (fun s v =>
    s.modCore v fun x => { x with nextSample := s.coreCycle v + 2 ^ min 24 (10 + c.setting) }) s

/-- A control of trials takes effect in a context. -/
def State.armTrial (s : State) (c : Control) (ctx : Nat) : State :=
  let s := s.stopTrial ctx
  let t := c.trial
  if c.en && 1 ≤ t.delay && t.delay ≤ 255 && t.counter < 8 then s.startTrial ctx t else s

/-- The record that a word of a log encodes, its input value aside (R361). -/
def recordOf (w : Nat) : LogRecord := ⟨w / 2 ^ 32 % 256, w / 2 ^ 24 % 256, w / 2 ^ 18 % 64, w / 2 ^ 13 % 32, w % 2 ^ 12, none⟩

/-- The records of a log in memory, from words of 8 bytes: an input record is followed by the value read (R361). -/
def logOf (ws : List Nat) : List LogRecord :=
  (ws.foldl (fun (x : List LogRecord × Option LogRecord) w =>
    match x.2 with
    | some r => (x.1 ++ [{ r with input := some (BitVec.ofNat 32 w) }], none)
    | none => if (recordOf w).end_ = 4 then (x.1, some (recordOf w)) else (x.1 ++ [recordOf w], none)) ([], none)).1

/-- The log that a replay takes: that of a run of the context itself, or where the expert block names bytes in memory the one
that lies there, from another device or placement (R362). DESIGN CHOICE, log entry 11. -/
def State.replayLog (s : State) (c : Control) (own : List LogRecord) : List LogRecord :=
  if c.expertPair 3 = 0 then own
  else logOf ((List.range (c.expertPair 3)).map fun i => s.peekNat (c.expertPair 1 + 8 * i) 8)

/-- A control of logging and replay takes effect in a context. -/
def State.armReplay (s : State) (c : Control) (ctx : Nat) : State :=
  let mode := if !c.en then 0 else if c.setting = 0 then 1 else 2
  { s with chunks := s.chunks.filter fun p => (s.group p.1).ctx != ctx }.modCtx ctx fun x =>
    { x with
      observe := { x.observe with
        mode := mode, replayAt := 0
        log := if mode = 1 then [] else if mode = 2 then s.replayLog c x.observe.log else x.observe.log } }

/-- What a control function does as it takes effect. That of the peer ports retrains their links: each goes down, and
authenticates afresh where EN lets it (R331, R369). DEDUCED, log entry 71. -/
def State.applied (s : State) (fn : Nat) (c : Control) : State :=
  if 5 ≤ fn && s.noObserve then s
  else
    let s := { s with inForce := s.inForce.put fn { c with due := false } }
    if fn = 4 then ((s.ports.filter fun p => p.2.up).map (·.1)).foldl State.linkDown s
    else if fn = 5 then (s.observed c).foldl (fun s x => s.armSampling c x) s
    else if fn = 6 then (if c.en then s else { s with reuse := [] })
    else if fn = 7 then (s.observed c).foldl (fun s x => s.armTrial c x) s
    else if fn = 8 then (s.observed c).foldl (fun s x => s.armReplay c x) s
    else s

/-- Whether a group stands at a clause boundary: between two clauses, or waiting to begin its first. -/
def Group.atBoundary (g : Group) : Bool := g.resident && !g.halted && !g.started

/-- Whether the unit that a control function acts on is at a quiet point: for the observation controls a clause boundary of a
group, for the routers an idle window of each, for the host port a clock in which no access of a host is out at a peer
(R369). The ports of the peers retrain as the control takes effect. DEDUCED, log entry 71. -/
def State.quietPoint (s : State) (fn : Nat) (c : Control) : Bool :=
  if fn = 2 then
    (List.range 24).all fun r => !(s.router r).powered || (s.router r).idleFrom + s.idleWindow ≤ s.clock + 1
  else if fn = 3 then s.hostWaits.isEmpty
  else if 5 ≤ fn then
    let gs := s.groups.filter fun p => p.2.resident && !p.2.halted && (s.observed c).contains p.2.ctx
    gs.isEmpty || gs.any fun p => p.2.atBoundary
  else true

/-- CONTROL_APPLY: a written control takes effect at a quiet point of its unit (R369). DEDUCED, log entry 71. -/
def execControlApply (fn : Nat) (s : State) : Host.Outcome State Fault Refusal :=
  event "CONTROL_APPLY" (
    let c := s.written fn
    if !c.due || !s.quietPoint fn c then none
    else some ({ s with controls := s.controls.put fn { c with due := false } }.applied fn c))

/-! ### Boot (R364 to R367) -/

/-- The units that a step of a boot tests: 128 channels, 256 cores, 16 ways of 64 slices, 6 die links, the host port, 16 peer
ports, and one unit of each other step (R2, R191, R314, R364, R365, R372). DEDUCED, log entry 124. -/
def bootUnits (step : Nat) : Nat :=
  if step = 2 then 128 else if step = 3 then 256 else if step = 4 then 1024 else if step = 5 then 6 else if step = 7 then 16
  else if step = 1 || step = 6 || step = 8 || step = 9 then 1 else 0

/-- The spares of a kind taken near a unit. -/
def State.sparesTaken (s : State) (step div unit : Nat) : Nat :=
  (s.spares.filter fun f => f.step == step && f.unit / div == unit / div).length

/-- The cores of a die that boots or failures have replaced by its seed cores. -/
def State.seedsTaken (s : State) (die : Nat) : Nat := (s.spares.filter fun f => f.step == 3 && f.unit / 64 == die).length

/-- Whether an alternative is left for a failing unit: a stack has one spare channel and a slice two spare ways; a die link and
the host port have one spare lane, and run more slowly from then on; peer ports and the observation logic stay down; a
fifth core of a die leaves its cluster absent; step 1 and step 9 have none (R364, R366, R367). A unit that has its
alternative has none left. DEDUCED, log entry 124. -/
def State.alternative (s : State) (f : BootFailure) : Bool :=
  if f.step = 2 then s.sparesTaken 2 8 f.unit < 1
  else if f.step = 4 then s.sparesTaken 4 16 f.unit < 2 && !s.spares.contains f
  else f.step != 1 && f.step != 9 && !s.spares.contains f

/-- Marks the cluster of a core absent (R366). -/
def State.markAbsent (s : State) (core : Nat) : State := s.modCluster (core / 4) fun c => { c with absent := true }

/-- One failing step of a boot: it is recorded, and the alternative is taken for the next boot, or with none left the module
stays off (R364, R365). -/
def State.bootFails (s : State) (f : BootFailure) : State :=
  let boots := min (2 ^ 32 - 1) (s.boot.boots + 1)
  if !s.alternative f then { s with boot := ⟨f.step, 1, f.unit, boots⟩, off := true }
  else
    let s := { s with boot := ⟨f.step, 0, f.unit, boots⟩ }
    if f.step = 3 && 4 ≤ s.seedsTaken (f.unit / 64) then s.markAbsent f.unit
    else
      let s := { s with spares := s.spares ++ [f] }
      if f.step = 8 then { s with contexts := s.contexts.mapVals fun _ c => { c with observe := {} } } else s

/-- Whether a step may fail at a boot on a unit: the step tests it, an optional one that has failed is skipped, and no core of
an absent cluster is tested (R364, R366). -/
def State.mayFail (s : State) (f : BootFailure) : Bool :=
  f.unit < bootUnits f.step &&
    !((f.step == 7 && s.spares.contains f) || (f.step == 8 && s.noObserve) || (f.step == 3 && (s.cluster (f.unit / 4)).absent))

/-- The boots that a reset makes: each stops at the first step that fails and starts again, until one passes every
step or the module stays off; none where a failure named is one that no boot can have. -/
def State.bootRun (s : State) : List BootFailure → Option State
  | [] => some { s with boot := ⟨0, 0, 0, min (2 ^ 32 - 1) (s.boot.boots + 1)⟩ }
  | f :: fs =>
    if !s.mayFail f then none
    else
      let s' := s.bootFails f
      if s'.off then some s' else s'.bootRun fs

/-- What stays of the device through a module reset: memory, the live contexts with their counters, the husk's
records, and the spares taken; everything else is as after reset (R337, R339, R365, R367, R372).
DEDUCED, log entry 73. -/
def State.moduleReset (s : State) : State :=
  { State.reset with
    turns := s.turns, fresh := s.fresh, free := s.free, mem := s.mem, poison := s.poison
    contexts := s.contexts.mapVals fun _ c =>
      { c with
        preempt := .none, saved := [], records := [], woken := [], xlateOp := none, lastCore := none, eventAt := []
        observe := { c.observe with mode := 0, trial := none } }
    clusters := (s.clusters.filter fun c => c.2.absent).map fun c => (c.1, { absent := true })
    seq := s.seq + Config.seqSkip s.resets % (2 ^ 16 + 1), resets := s.resets + 1, boot := s.boot, spares := s.spares
    allow := s.allow, clamps := s.clamps, dmaDrops := s.dmaDrops, peerSeq := s.peerSeq, peerDone := s.peerDone }

/-- BOOT_RECORD_CLEAR: the management host writes 0 to FAILSTEP; the record is cleared, and a module that stayed off boots
from step 1 (R365). DEDUCED, log entry 124. -/
def execBootRecordClear (s : State) : Host.Outcome State Fault Refusal :=
  .next (if s.off then ({ s with boot := {}, off := false }.moduleReset.bootRun []).getD s else { s with boot := {} })

/-- MODULE_RESET: the husk boots the module through its steps; `failures` are the failing units of its boots, in order
(R364, R365). -/
def execModuleReset (failures : List BootFailure) (s : State) : Host.Outcome State Fault Refusal :=
  event "MODULE_RESET" (if s.off then none else s.moduleReset.bootRun failures)

/-! ### A core that fails (R366) -/

/-- CORE_FAILURE: every grid with a team resident on the core ends, with code 0xE1; what the core held is gone, and a
seed core takes its number, unless its die has none left. DEDUCED, log entry 74. -/
def execCoreFailure (core : Nat) (s : State) : Host.Outcome State Fault Refusal :=
  event "CORE_FAILURE" (
    if 256 ≤ core || (s.core core).failed then none
    else
      let grids := (firstOf ((s.coreTeams core).map fun t => (t.grid, ()))).map (·.1)
      let s := grids.foldl (fun s q => s.endGrid q 0xE1 0) s
      let mine := (s.groups.filter fun p => coreOf p.1 == core && p.2.resident).map (·.1)
      let s := mine.foldl (fun s k =>
        (s.endGroup k).modGroup k fun g =>
          { g with resident := false, results := [], accesses := [], counters := [] }) s
      let ids := (s.cmds.filter fun c => c.2.core == core && !c.2.saved).map (·.1)
      let none_ := 4 ≤ s.seedsTaken (core / 64)
      let x := s.core core
      let s := ids.foldl (fun s id => s.dropLocks id false) s
      let s : State := { s with
        cmds := s.cmds.filter fun c => !ids.contains c.1
        pins := (s.pins.mapVals fun _ p => { p with owners := p.owners.filter fun o => o.2 != core }).filter fun p =>
          !(p.2.owners.isEmpty && p.2.held.isEmpty && !p.2.recalling) }
      let s := s.setCore core { ahead := x.ahead, events := x.events, seed := !none_, failed := none_, limitAt := x.limitAt }
      some (if none_ then s.markAbsent core else { s with spares := s.spares ++ [⟨3, core⟩] }))

/-! ### Clock and coolant (R330, R371) -/

/-- CLOCK_STEP_DOWN: measured power reaches the limit, and the clock falls one step; at the lowest step the module fails as in
step 1 where the power stays over the ceiling of 2,800 W, and else nothing falls any more (R370, R371). What is measured
is free. DESIGN CHOICE, log entry 125. -/
def execClockStepDown (s : State) : Host.Outcome State Fault Refusal :=
  .next (
    if s.clockStep < 14 then { s with clockStep := s.clockStep + 1, powerStep := s.clockStep + 1 }
    else if (Config.freeWord s.free).getLsbD 0 then { s with free := s.free + 1, boot := { s.boot with failStep := 1, alt := 1, detail := 0 }, off := true }
    else { s with free := s.free + 1 })

/-- An event record in a context's event queue, with its own number (R330). -/
def State.eventRecord (s : State) (ctx kind : Nat) : State :=
  let c := s.context ctx
  let ws := [BitVec.ofNat 32 kind, BitVec.ofNat 32 s.clockStep, BitVec.ofNat 32 c.eventSeq] ++ List.replicate 13 0
  let s := s.modCtx ctx fun c => { c with eventSeq := (c.eventSeq + 1) % 2 ^ 32 }
  if c.heldEvents.isEmpty && s.queueRoom c.eventq then s.pushRecord ctx 1 c.eventq ws
  else s.modCtx ctx fun c => { c with heldEvents := c.heldEvents ++ [ws] }

/-- An event record for every live context. -/
def State.eventAll (s : State) (kind : Nat) : State := s.contexts.foldl (fun s c => s.eventRecord c.1 kind) s

/-- COOLANT_FLOW_LOST: the clock falls to its lowest step, and every live context gets an event (R330, R371). -/
def execCoolantFlowLost (s : State) : Host.Outcome State Fault Refusal :=
  event "COOLANT_FLOW_LOST" (
    if s.coolant then some ({ s with coolant := false, clockStep := 14 }.eventAll 1) else none)

/-- The clock step that the core-clock control in force names: its preset, or under the expert block the first whose
clock does not pass that of word 0 (R369). DESIGN CHOICE, log entry 11. -/
def State.clockWanted (s : State) : Nat :=
  let c := s.control 1
  if c.level < 15 then c.level
  else ((List.range 14).find? fun n => (presetWord 1 n).toNat ≤ c.expertNat 0).getD 14

/-- COOLANT_FLOW_RESTORED: the clock returns to the step that the power controls allow, that of the core-clock control
or the lower one that the power limit has brought, and every live context gets an event (R330, R371). -/
def execCoolantFlowRestored (s : State) : Host.Outcome State Fault Refusal :=
  event "COOLANT_FLOW_RESTORED" (
    if s.coolant then none
    else some ({ s with coolant := true, clockStep := max s.clockWanted s.powerStep }.eventAll 2))

end Sys2Proof.Machine
end

