-- ==== Sys2Proof/Machine/Peer.lean ====
section
/-! DEFINITION. Peer links: authentication (R331), accesses from other devices (R332, R333), acknowledgements and
failing paths (R333). -/

namespace Sys2Proof.Machine

/-! ### Links (R331) -/

/-- A peer port. -/
def State.port (s : State) (p : Nat) : PeerPort := s.ports.get {} p

/-- The state with a peer port changed. -/
def State.modPort (s : State) (p : Nat) (f : PeerPort → PeerPort) : State := { s with ports := s.ports.put p (f (s.port p)) }

/-- Whether a port may carry a link: it exists, its control holds it up, and no boot left it out (R364, R369). -/
def State.portUsable (s : State) (p : Nat) : Bool :=
  p < 16 && (s.control 4).en && !s.spares.contains ⟨7, p⟩

/-- DEVID of a public key (R339). -/
def devidOf (key : List Byte) : List Byte := (Config.shake256 key).take 32

/-- Whether the partner's signature checks: over the nonce this end sent, the partner's DEVID and its port number.
DEDUCED, log entry 41. -/
def signatureOk (nonce key sig : List Byte) : Bool :=
  (List.range 16).any fun p => Config.falconVerify key (nonce ++ devidOf key ++ leBytes 4 p) sig

/-- What is not acknowledged and has no path goes over one that has come back (R333). -/
def State.resendOver (s : State) : State :=
  { s with peerSends := s.peerSends.map fun p => if p.port = 16 then { p with port := s.portTo p.dev } else p }

/-- LINK_AUTHENTICATION: each end signs the other's nonce; the partner is accepted when its signature checks and the
allow list holds the hash of its key. A link whose check fails tries again after 2^20 clocks (R331). -/
def execLinkAuthentication (port : Nat) (nonce peerNonce peerKey peerSig : List Byte) (s : State) :
    Host.Outcome State Fault Refusal :=
  event "LINK_AUTHENTICATION" (
    let p := s.port port
    if !s.portUsable port || p.up || p.retryAt.isSome || nonce.length != 32 || peerNonce.length != 32 then none
    else
      let sig := Config.falconSign s.free (peerNonce ++ Config.devId ++ leBytes 4 port)
      let ok := signatureOk nonce peerKey peerSig && s.allow.contains (Config.shake256 peerKey)
      let s' := { s with free := s.free + 1 }.modPort port fun p =>
        if ok then { p with up := true, partner := devidOf peerKey, authSeq := s.seq, signed := sig }
        else { p with signed := sig, failures := sat64 (p.failures + 1), retryAt := some (s.clock + 2 ^ 20) }
      some s'.resendOver)

/-- LINK_AUTH_RETRY: 2^20 clocks after a failed check the link may try again (R331). -/
def execLinkAuthRetry (port : Nat) (s : State) : Host.Outcome State Fault Refusal :=
  event "LINK_AUTH_RETRY" (
    match (s.port port).retryAt with
    | some t => if t ≤ s.clock then some (s.modPort port fun p => { p with retryAt := none }) else none
    | none => none)

/-- FLIT_CRC_ERROR: a flit with a bad CRC is sent again by the link; nothing but a count changes (R331). -/
def execFlitCrcError (port : Nat) (s : State) : Host.Outcome State Fault Refusal :=
  event "FLIT_CRC_ERROR" (
    if (s.port port).up then some (s.modPort port fun p => { p with crcErrors := sat64 (p.crcErrors + 1) }) else none)

/-- LINK_FAILURE: a link loses its partner (R331, R333). -/
def execLinkFailure (port : Nat) (s : State) : Host.Outcome State Fault Refusal :=
  event "LINK_FAILURE" (if (s.port port).up then some (s.linkDown port) else none)

/-! ### Answers (R332, R333) -/

/-- A store to a peer window that is refused is removed as a late store fault (R332). -/
def State.peerStoreFails (s : State) (p : PeerSend) : State :=
  s.removedStore
    { group := p.group, ctx := (s.group p.group).ctx, line := p.va / 192, lanes := [], op := .store, hint := 0, order := 0
      scope := 0, wake := false, site := p.site, seq := 0 }

/-- The result of the round at another device's root, or its failure, for a contributor of the partial sent there. -/
def State.peerRound (s : State) (n : Nat) (data : Option (List Byte)) (id : Nat) : State :=
  s.modCmd id fun c =>
    match data with
    | some d => { c with result := some (bytesWords n d), age := s.clock }
    | none => { c with status := 0x15 }

/-- The bytes that an engine asked for. -/
def State.peerCmd (s : State) (id : Nat) (data : Option (List Byte)) : State :=
  s.modCmd id fun c =>
    let queued := c.kind == .gath || c.kind == .scat
    { c with
      answers := c.answers ++ [data]
      phase := if c.kind = .scsave then (if c.begun then .begun else .queued) else if queued then .queued else .running }

/-- Whether an access to a peer device is one that a group waits for with its instruction (R332). -/
def PeerSend.asked (p : PeerSend) : Bool := p.access.isNone && p.cmd.isNone && p.cmds.isEmpty && p.host.isNone

/-- A response leaves: a status, and payload (R327, R328). -/
def State.respond (s : State) (stream : Nat) (psn : BitVec 32) (status : Nat) (payload : List Byte) : State :=
  (s.send ⟨4, stream, psn, status, payload⟩).flit [8]

/-- The bytes of parts, by rising offset. -/
def partsBytes (n : Nat) (parts : List (Nat × List Byte)) : List Byte :=
  (List.range n).flatMap fun o => (parts.filter fun p => p.1 == o).flatMap (·.2)

/-- The answer to an access of a peer device leaves: the bytes that it returns, or none for a failure (R332, R333). -/
def State.peerAnswer (s : State) (dev seq : Nat) (data : Option (List Byte)) : State :=
  { s with peerOut := s.peerOut ++ [⟨dev, seq, data.isSome, data.getD []⟩] }

/-- Sends the runs of an access's bytes that lie in peer windows to their devices: `op` is what each asks. The answer
leaves when the last has answered (R332). DEDUCED, log entry 104. -/
def State.forward (s : State) (w : HostWait) (ctx : Nat) (runs : List (Nat × Nat × PeerOp)) : State :=
  let id := s.fresh
  runs.foldl (fun s r =>
    s.sendTo ctx
      { dev := 0, seq := 0, key := r.2.1, op := r.2.2, group := 0, lane := 0, va := 0, host := some (id, r.1) })
    { s.bump with hostWaits := s.hostWaits.put id { w with left := runs.length } }

/-- A part of the access of a host or of a peer device has its answer; with the last one its own answer leaves
(R327, R332). -/
def State.peerHost (s : State) (id offset : Nat) (data : Option (List Byte)) : State :=
  match s.hostWaits.find? id with
  | none => s
  | some w =>
    let w := { w with parts := w.parts ++ [(offset, data.getD [])], left := w.left - 1, failed := w.failed || data.isNone }
    if w.left != 0 then { s with hostWaits := s.hostWaits.put id w }
    else
      let s := { s with hostWaits := s.hostWaits.erase id }
      if let some p := w.peer then s.peerAnswer p.1 p.2 (if w.failed then none else some (partsBytes 4608 w.parts))
      else if w.failed then { s with windowFails := sat64 (s.windowFails + 1) }.respond w.stream w.psn 0x06 []
      else s.respond w.stream w.psn 0 (partsBytes 4608 w.parts)

/-- Carries an answer to what waits for an access; none as data is a failure. -/
def State.peerDeliver (s : State) (p : PeerSend) (data : Option (List Byte)) : State :=
  let s := { s with peerSends := s.peerSends.filter fun q => !(q.dev == p.dev && q.seq == p.seq) }
  match p.op with
  | .merge _ _ n _ _ _ _ => p.cmds.foldl (fun s id => s.peerRound n data id) s
  | _ =>
    match p.host, p.cmd, p.access with
    | some (id, o), _, _ => s.peerHost id o data
    | none, some id, _ => s.peerCmd id data
    | none, none, some _ => if data.isNone then s.peerStoreFails p else s
    | none, none, none =>
      let s := s.modGroup p.group fun g => { g with peerAns := g.peerAns ++ [(peerKey p.lane p.va, data)] }
      if s.peerSends.any fun q => q.group == p.group && q.asked then s
      else s.modGroup p.group fun g => if g.wait = .peer then { g with wait := .none } else g

/-- PEER_ACK: the remote device acknowledges an access over a link that carries traffic, with the bytes it returns; one that reaches past the length of
its peer-window entry has failed (R331 to R333). -/
def execPeerAck (dev seq : Nat) (ok : Bool) (data : List Byte) (s : State) : Host.Outcome State Fault Refusal :=
  event "PEER_ACK" (
    match (s.peerSends.filter fun p => p.dev == dev && p.seq == seq).head? with
    | none => none
    | some p => if p.port < 16 && (s.port p.port).up then some (s.peerDeliver p (if ok && p.fits then some data else none)) else none)

/-- PEER_PATH_TIMEOUT: no path to a device has remained for 2^24 clocks: loads and atomics that wait raise a
protection fault, and stores are removed as late store faults (R333). -/
def execPeerPathTimeout (dev : Nat) (s : State) : Host.Outcome State Fault Refusal :=
  event "PEER_PATH_TIMEOUT" (
    let ps := s.peerSends.filter fun p => p.dev == dev
    if s.hasPath dev || !ps.any (fun p => p.since + 2 ^ 24 ≤ s.clock) then none
    else some (ps.foldl (fun s p => s.peerDeliver p none) s))

/-! ### Windows (R327) and accesses from peers (R332, R333) -/

/-- The keys of n bytes from a virtual address of a context, where every one translates with the permission. -/
def State.keysOf (s : State) (ctx va n : Nat) (write : Bool) : Option (List Nat) :=
  (List.range n).foldr (fun i r => r.bind fun ks => (s.keyOf ctx (va + i) write).map (· :: ks)) (some [])

/-- What an access through a window asks for (R327). -/
structure WindowReq where
  win : Nat
  offset : Nat
  length : Nat
  reads : Bool
  writes : Bool
  atomic : Bool
  deriving DecidableEq, Repr

/-- The checks of R327, in order: the status of the first that fails, or the context, the virtual address and the keys
of the bytes. `key` is what a host gives; a peer gives none. -/
def State.checkWindow (s : State) (key : Option Word) (r : WindowReq) : Except Nat (Nat × Nat × List Nat) :=
  match s.windows.find? r.win with
  | none => .error 0x01
  | some w =>
    if key.any fun k => k != w.key then .error 0x02
    else if w.length < r.offset + r.length then .error 0x03
    else if (r.reads && !w.rd) || (r.writes && !w.wr) then .error 0x04
    else if r.atomic && r.offset % 4 != 0 then .error 0x05
    else
      let va := w.base + r.offset
      match (if r.reads then s.keysOf w.ctx va r.length false else some []), s.keysOf w.ctx va r.length r.writes with
      | some _, some ks => .ok (w.ctx, va, ks)
      | _, _ => .error 0x06

/-- Bytes at keys, in runs of rising keys within one line: a payload is written as stores each within its own line
(R326). -/
def runsOf {α : Type} : List (Nat × α) → List (Nat × List α)
  | [] => []
  | (k, b) :: l =>
    match runsOf l with
    | (k', bs) :: r => if k' = k + 1 && lineOf k' = lineOf k then (k, b :: bs) :: r else (k, [b]) :: (k', bs) :: r
    | [] => [(k, [b])]

/-- Writes bytes at their homes. -/
def State.writeKeys (s : State) (ks : List Nat) (bs : List Byte) : State :=
  (runsOf (ks.zip bs)).foldl (fun s p => s.homeWrite none p.1 p.2) s

/-- The line, among those that bytes lie in, in which a read finds an uncorrectable error: a poisoned one, or one that this
turn's error spoils (R368). -/
def State.spoiltLine (s : State) (ks : List Nat) : Option Nat :=
  let ls := (ks.map lineOf).filter localLine
  if s.err = .line then ls.head? else ls.find? s.poison.contains

/-- Reads bytes at their homes, over the path from the ports of the package; none where an error in a line forbids to deliver
them (R314, R368, R372). -/
def State.readKeys (s : State) (ks : List Nat) : State × Option (List Byte) :=
  let s := (runsOf (ks.map fun k => (k, ()))).foldl (fun s p =>
    if localLine (lineOf p.1) then ((s.flit (huskPart (dieOf (lineOf p.1)))).sliceRead p.1 p.2.length).1 else s) s
  match s.spoiltLine ks with
  | some l => (s.spoil l, none)
  | none => (s, some (ks.map s.byte))

/-- An atomic of an agent that is no core, at the home slice: the state after it and the old word (R224). -/
def State.agentAtomic (s : State) (op ty : BitVec 4) (key : Nat) (b c : Word) : State × Option Word :=
  match s.readKeys [key, key + 1, key + 2, key + 3] with
  | (s, none) => (s, none)
  | (s, some bs) =>
    let old := BitVec.ofNat 32 (leNat bs)
    match atomNew op ty old b c with
    | some v => (s.homeWord key v, some old)
    | none => (s, some old)

/-- The runs of an access's bytes in peer windows, and those elsewhere: the offset in the access, the key, and the bytes
of a payload there. -/
def peerRuns (ks : List Nat) (payload : List Byte) : List (Nat × Nat × List Byte) × List (Nat × Nat × List Byte) :=
  let runs := (runsOf (ks.zip (List.range ks.length))).map fun r =>
    (r.2.headD 0, r.1, (payload.drop (r.2.headD 0)).take r.2.length)
  (runs.filter fun r => isPeer r.2.1, runs.filter fun r => !isPeer r.2.1)

/-- Reads runs of bytes at their homes: the parts by their offset, or none where an error forbids one. -/
def State.readRuns (s : State) (runs : List (Nat × Nat × List Byte)) : State × Option (List (Nat × List Byte)) :=
  runs.foldl (fun x r =>
    let y := x.1.readKeys ((List.range r.2.2.length).map (r.2.1 + ·))
    (y.1, x.2.bind fun ps => y.2.map fun bs => ps ++ [(r.1, bs)])) (s, some [])

/-- The inbound window of a context that a peer's access of n bytes lies in (R332). DEDUCED, log entry 41. -/
def State.inbound (s : State) (ctx va n : Nat) : Option (Nat × Nat) :=
  (s.windows.filter fun w => w.2.ctx == ctx && w.2.base ≤ va && va + n ≤ w.2.base + w.2.length).head?.map
    fun w => (w.1, va - w.2.base)

/-- The keys of the bytes that a peer's access names, translated in the context that it names and checked against the
inbound windows: none for a failure (R332). DEDUCED, log entry 41. -/
def State.peerKeys (s : State) (r : PeerRequest) (rd wr at_ : Bool) : Option (List Nat) :=
  match s.inbound r.ctx r.va (peerBytes r.op) with
  | none => none
  | some (win, o) =>
    match s.checkWindow none ⟨win, o, (peerBytes r.op), rd, wr, at_⟩ with
    | .ok (_, _, ks) => some ks
    | .error _ => none

/-- What waits for the devices that an access of a peer goes on to. -/
def peerWait (r : PeerRequest) (parts : List (Nat × List Byte)) : HostWait :=
  { stream := 1024, psn := 0, peer := some (r.dev, r.seq), parts := parts, left := 0 }

/-- An access of a peer performed and answered, with the bytes it returns or as a failure; bytes that lie in peer windows here
are asked of their devices first (R332). DEDUCED, log entries 41 and 104; DESIGN CHOICE, log entry 122. -/
def State.peerPerform (s : State) (r : PeerRequest) : State :=
  let answer (s : State) (d : Option (List Byte)) : State := s.peerAnswer r.dev r.seq d
  match r.op with
  | .load n =>
    match s.peerKeys r true false false with
    | none => answer s none
    | some ks =>
      let q := peerRuns ks (List.replicate n 0)
      if q.1.isEmpty then answer (s.readKeys ks).1 (s.readKeys ks).2
      else
        match s.readRuns q.2 with
        | (s, none) => answer s none
        | (s, some parts) => s.forward (peerWait r parts) r.ctx (q.1.map fun run => (run.1, run.2.1, .load run.2.2.length))
  | .store bs =>
    match s.peerKeys r false true false with
    | none => answer s none
    | some ks =>
      let q := peerRuns ks bs
      if q.1.isEmpty then answer (s.writeKeys ks bs) (some [])
      else
        (q.2.foldl (fun s run => s.homeWrite none run.2.1 run.2.2) s).forward (peerWait r []) r.ctx
          (q.1.map fun run => (run.1, run.2.1, .store run.2.2))
  | .atomic op ty b c =>
    match s.peerKeys r true true true with
    | some (k :: _) =>
      if isPeer k then s.forward (peerWait r []) r.ctx [(0, k, .atomic op ty b c)]
      else
        let p := s.agentAtomic op ty k b c
        answer p.1 (p.2.map fun w => leBytes 4 w.toNat)
    | _ => answer s none
  | .merge _ _ _ _ _ _ _ => s

/-- Whether a write or an atomic of n bytes from an address of a context meets a region that the promotion engine compacts:
it is held until the region is done (R192). -/
def State.compactHolds (s : State) (ctx va n : Nat) : Bool := s.compacting ctx va || s.compacting ctx (va + n - 1)

/-- PEER_ACCESS: an access of another device arrives; the first copy of its number is checked, performed and answered,
and later copies are discarded (R332, R333). A write or an atomic waits for a compaction of its region (R192). -/
def execPeerAccess (r : PeerRequest) (s : State) : Host.Outcome State Fault Refusal :=
  event "PEER_ACCESS" (
    let isMerge : Bool := match r.op with
      | .merge _ _ _ _ _ _ _ => true
      | _ => false
    let reads : Bool := match r.op with
      | .load _ => true
      | _ => false
    if isMerge || !s.hasPath r.dev then none
    else if s.peerDone.contains (r.dev, r.seq) then some s
    else if !reads && s.compactHolds r.ctx r.va (peerBytes r.op) then none
    else some ({ s with peerDone := (r.dev, r.seq) :: s.peerDone }.peerPerform r))

end Sys2Proof.Machine
end

