-- ==== Sys2Proof/Machine/HostPort.lean ====
section
/-! DEFINITION. The host port: Tiade packets (R325 to R327), management operations (R328, R334), signed records (R339 to
R341) and SPDM (R342). -/

namespace Sys2Proof

/-! ### Fields of packets -/

/-- Whether a packet keeps the limits of the header; one that does not is dropped and counted (R325). -/
def TiadePacket.ok (p : TiadePacket) (atomic : Bool) : Bool :=
  p.stream < 1024 && p.flags.extractLsb' 0 2 != 3 && p.offset < 2 ^ 56 &&
    (if atomic then p.length == 4 && p.aop.toNat < 8 && p.payload.length == (if p.aop = 7 then 8 else 4)
      else 1 ≤ p.length && p.length ≤ 4608)

/-- Whether a frame breaks the limits of R325. -/
def HostFrame.bad (f : HostFrame) : Bool :=
  9216 < f.size || f.ipv4 || f.ipFragment || 1 < f.vlanTags ||
    !(f.ethertype == 0x8A7D || (f.ethertype == 0x86DD && f.udpPort == 51204)) || f.op == 0 || 7 < f.op || f.order == 3

/-- Word i of the payload. -/
def MgmtPacket.word (p : MgmtPacket) (i : Nat) : Nat := (p.words.getD i 0).toNat

/-- Words i and i + 1, low word first. -/
def MgmtPacket.pair (p : MgmtPacket) (i : Nat) : Nat := p.word i + 2 ^ 32 * p.word (i + 1)

end Sys2Proof

namespace Sys2Proof.Machine

/-! ### Packets in order (R326) -/

/-- Where a packet's number stands to the one its stream expects. -/
inductive Psn where
  | expected
  | ahead
  | behind
  deriving DecidableEq, Repr

/-- The place of a packet number: less than 2^31 past the expected one is ahead. -/
def State.psn (s : State) (stream : Nat) (psn : BitVec 32) : Psn :=
  let d := psn - s.streams.get 0 stream
  if d = 0 then .expected else if d.toNat < 2 ^ 31 then .ahead else .behind

/-- An acknowledgement leaves: status 0, or 1 for a negative one, which names the expected number. -/
def State.acknowledge (s : State) (stream : Nat) (psn : BitVec 32) (status : Nat) : State := s.send ⟨7, stream, psn, status, []⟩

/-- Takes a packet of a stream in order: one ahead is refused, one behind acknowledged again, and the expected one is
performed. DEDUCED, log entry 75. -/
def State.inOrder (s : State) (stream : Nat) (psn : BitVec 32) (perform : State → State) : State :=
  match s.psn stream psn with
  | .expected => perform { s with streams := s.streams.put stream (psn + 1) }
  | .ahead => s.acknowledge stream (s.streams.get 0 stream) 1
  | .behind => s.acknowledge stream psn 0

/-- A packet or frame is dropped and counted. -/
def State.dropFrame (s : State) : State := { s with framesDropped := sat64 (s.framesDropped + 1) }

/-! ### The control window (R369) -/

/-- Bytes of the control window. -/
def controlBytes : Nat := 0x1900

/-- The counts of a core (R167, R200, R368). -/
def CoreEvents.all (e : CoreEvents) : List Nat :=
  [e.fragmentation, e.slips, e.displacements, e.demotions, e.replays, e.pinRetries, e.recalls, e.pinnedEvictions, e.tlbMisses,
    e.retranslations, e.corrections] ++ (List.range 8).map (e.promotions.get 0)

/-- The counts that units keep: of cores, routers, the host port, peer ports, observation blocks, and the husk
(R363, R368, R370). -/
def State.counts (s : State) : List Nat :=
  (s.cores.flatMap fun p => p.2.events.all) ++
    (s.routers.flatMap fun p => [p.2.powerDowns, p.2.abandoned, p.2.wakes, p.2.delayed, p.2.merged, p.2.rounds]) ++
    [s.framesDropped, s.windowFails] ++ (s.ports.flatMap fun p => [p.2.failures, p.2.crcErrors]) ++
    (s.contexts.flatMap fun p => [p.2.observe.dropped, p.2.observe.squashes, p.2.observe.divergences]) ++
    [s.clamps, s.dmaDrops, s.dieCorrections]

/-- A word of a count. -/
def State.countWord (s : State) (i : Nat) : Word := BitVec.ofNat 32 (s.counts.getD (i / 2) 0 / 2 ^ (32 * (i % 2)))

/-- A word of the control window: basic control words, the boot record, the counts of the units, and expert blocks. -/
def State.controlWord (s : State) (o : Nat) : Word :=
  if o < 0x90 then
    let c := s.written (o / 16)
    if o % 16 = 0 then BitVec.ofNat 32 (c.level + if c.en then 2 ^ 31 else 0) else 0
  else if o < 0xA0 then
    BitVec.ofNat 32 (if o = 0x90 then s.boot.failStep else if o = 0x94 then s.boot.alt else if o = 0x98 then s.boot.detail
      else s.boot.boots)
  else if 0x1000 ≤ o then (s.written ((o - 0x1000) / 0x100)).expert.get 0 ((o - 0x1000) % 0x100 / 4)
  else ((Config.countAt o).map s.countWord).getD 0

/-- The state of an outcome, or the state before it. -/
def nextOr (s : State) (o : Host.Outcome State Fault Refusal) : State :=
  match o with
  | .next t => t
  | _ => s

/-- The host's write of a word of the control window; a word that is read only stays. -/
def State.controlPut (s : State) (o : Nat) (w : Word) : State :=
  if o < 0x90 then
    if o % 16 != 0 then s else s.sequenced true (.basic (o / 16) w)
  else if o = 0x90 then (if w = 0 then nextOr s (execBootRecordClear s) else s)
  else if 0x1000 ≤ o then s.sequenced true (.expert ((o - 0x1000) / 0x100) ((o - 0x1000) % 0x100 / 4) w)
  else s

/-- An access of the management firmware to memory: n bytes read, or bytes written. Outside the DMA windows that step 1 fixes
it is dropped and counted (R370). DESIGN CHOICE, log entry 123. -/
def State.firmwareAccess (s : State) (at_ n : Nat) (data : List Byte) : State :=
  let n := if data.isEmpty then n else data.length
  if Config.dmaWindows.any fun w => w.1 ≤ at_ && at_ + n ≤ w.1 + w.2 then
    if data.isEmpty then (s.readKeys ((List.range n).map (at_ + ·))).1 else s.writeKeys ((List.range n).map (at_ + ·)) data
  else { s with dmaDrops := sat64 (s.dmaDrops + 1) }

/-- The words of a list of bytes that lie whole in a run from offset `o`: their offsets and values. -/
def wholeWords (o : Nat) (bs : List Byte) : List (Nat × Word) :=
  let skip := (4 - o % 4) % 4
  (List.range ((bs.length - skip) / 4)).map fun i =>
    (o + skip + 4 * i, BitVec.ofNat 32 (leNat ((bs.drop (skip + 4 * i)).take 4)))

/-! ### Reads, writes and atomics (R326, R327) -/

/-- The checks of window 255, which serves the management host on stream 0 alone. -/
def checkControl (p : TiadePacket) (atomic : Bool) : Option Nat :=
  if p.stream != 0 then some 0x01
  else if p.key != Config.controlKey then some 0x02
  else if controlBytes < p.offset + p.length then some 0x03
  else if atomic then some 0x04
  else none

/-- A response to a read that found an uncorrectable error: no data is delivered (R368). DESIGN CHOICE, log entry 122. -/
def State.spoiltAnswer (s : State) (p : TiadePacket) : State := s.respond p.stream p.psn Config.spoiltStatus []

/-- A response to a check that failed: nothing is performed, and the failure is counted. -/
def State.windowFailed (s : State) (p : TiadePacket) (status : Nat) : State :=
  { s with windowFails := sat64 (s.windowFails + 1) }.respond p.stream p.psn status []

/-- What waits for the peer devices that a packet's access goes to. -/
def packetWait (p : TiadePacket) (parts : List (Nat × List Byte)) : HostWait :=
  { stream := p.stream, psn := p.psn, parts := parts, left := 0 }

/-- Performs an accepted read. -/
def State.tiadeRead (s : State) (p : TiadePacket) : State :=
  if p.win = 255 then
    match checkControl p false with
    | some e => s.windowFailed p e
    | none =>
      s.respond p.stream p.psn 0 ((List.range p.length).map fun i =>
        (s.controlWord ((p.offset + i) / 4 * 4)).extractLsb' (8 * ((p.offset + i) % 4)) 8)
  else match s.checkWindow (some p.key) ⟨p.win, p.offset, p.length, true, false, false⟩ with
    | .error e => s.windowFailed p e
    | .ok (ctx, _, ks) =>
      let r := peerRuns ks (List.replicate ks.length 0)
      let s := s.commitAgent ctx 2 0 0
      if r.1.isEmpty then
        match s.readKeys ks with
        | (s, some bs) => s.respond p.stream p.psn 0 bs
        | (s, none) => s.spoiltAnswer p
      else
        match s.readRuns r.2 with
        | (s, some parts) =>
          s.forward (packetWait p parts) ctx (r.1.map fun run => (run.1, run.2.1, .load run.2.2.length))
        | (s, none) => s.spoiltAnswer p

/-- Wakes for the whole words that an agent's write covers (R290). -/
def State.wakeWords (s : State) (ctx : Nat) (ks : List Nat) : State :=
  (ks.filter fun k => k % 4 == 0).foldl (fun s k => s.sendWake 256 ctx k) s

/-- Performs an accepted write. -/
def State.tiadeWrite (s : State) (p : TiadePacket) : State :=
  if p.win = 255 then
    match checkControl p false with
    | some e => s.windowFailed p e
    | none => ((wholeWords p.offset p.payload).foldl (fun s w => s.controlPut w.1 w.2) s).respond p.stream p.psn 0 []
  else match s.checkWindow (some p.key) ⟨p.win, p.offset, p.length, false, true, false⟩ with
    | .error e => s.windowFailed p e
    | .ok (ctx, _, ks) =>
      let r := peerRuns ks p.payload
      let s := s.commitAgent ctx 2 0 0
      if r.1.isEmpty then ((s.writeKeys ks p.payload).wakeWords ctx ks).respond p.stream p.psn 0 []
      else
        let s := r.2.foldl (fun s run => s.homeWrite none run.2.1 run.2.2) s
        (s.wakeWords ctx (ks.filter fun k => !isPeer k)).forward (packetWait p []) ctx
          (r.1.map fun run => (run.1, run.2.1, .store run.2.2))

/-- Performs an accepted atomic. -/
def State.tiadeAtomic (s : State) (p : TiadePacket) : State :=
  if p.win = 255 then s.windowFailed p ((checkControl p true).getD 0x04)
  else match s.checkWindow (some p.key) ⟨p.win, p.offset, 4, true, true, true⟩ with
    | .ok (ctx, _, k :: _) =>
      let s := s.commitAgent ctx 2 0 0
      let b := BitVec.ofNat 32 (leNat (p.payload.take 4))
      let c := BitVec.ofNat 32 (leNat (p.payload.drop 4))
      if isPeer k then s.forward (packetWait p []) ctx [(0, k, .atomic (p.aop.extractLsb' 0 4) 2 b c)]
      else
        match s.agentAtomic (p.aop.extractLsb' 0 4) 2 k b c with
        | (s, some old) => (s.sendWake 256 ctx k).respond p.stream p.psn 0 (leBytes 4 old.toNat)
        | (s, none) => s.spoiltAnswer p
    | .ok (_, _, []) => s.windowFailed p 0x06
    | .error e => s.windowFailed p e

/-- Whether the device takes an access of a stream now: a release, and every access after an acquire, waits at the port for
what peer devices have yet to answer to its stream (R326), one to a context that logs or replays for its turn to commit
(R361, R362), and a write or an atomic for a compaction of its region (R192). DEDUCED, log entry 104. -/
def State.hostMay (s : State) (p : TiadePacket) (writes : Bool) : Bool :=
  !(s.hostWaits.any fun w => w.2.stream == p.stream) && (match s.windows.find? p.win with
    | some w => s.mayCommit w.ctx 2 0 && !(writes && s.compactHolds w.ctx (w.base + p.offset) p.length)
    | none => true)

/-- Takes a packet that asks for an access: it passes the central crossbar of die 0 (R314). -/
def hostAccess (name : String) (p : TiadePacket) (ok writes : Bool) (f : State → State) (s : State) :
    Host.Outcome State Fault Refusal :=
  if !ok then .next s.dropFrame
  else if s.hostMay p writes then .next ((s.flit [8]).inOrder p.stream p.psn f)
  else .refused (.notEnabled name)

/-- TIADE_READ. -/
def execTiadeRead (p : TiadePacket) (s : State) : Host.Outcome State Fault Refusal :=
  hostAccess "TIADE_READ" p (p.ok false) false (fun s => s.tiadeRead p) s

/-- TIADE_WRITE. -/
def execTiadeWrite (p : TiadePacket) (s : State) : Host.Outcome State Fault Refusal :=
  hostAccess "TIADE_WRITE" p (p.ok false && p.payload.length == p.length) true (fun s => s.tiadeWrite p) s

/-- TIADE_ATOMIC. -/
def execTiadeAtomic (p : TiadePacket) (s : State) : Host.Outcome State Fault Refusal :=
  hostAccess "TIADE_ATOMIC" p (p.ok true) true (fun s => s.tiadeAtomic p) s

/-- TIADE_FRAME_DROP: a frame that breaks the limits is dropped and counted (R325). -/
def execTiadeFrameDrop (f : HostFrame) (s : State) : Host.Outcome State Fault Refusal :=
  event "TIADE_FRAME_DROP" (if f.bad then some s.dropFrame else none)

/-! ### Management (R328) -/

/-- Runs a management operation in its place on stream 0; it answers a code, 1 for success, and more payload. What
does not come from the management host on stream 0 is dropped and counted.
DESIGN CHOICE of its codes, log entry 76. -/
def manage (p : MgmtPacket) (op : State → State × Nat × List Byte) (s : State) : Host.Outcome State Fault Refusal :=
  .next (
    if p.stream != 0 || !p.fromMgmtHost then s.dropFrame
    else s.inOrder 0 p.psn fun s =>
      let r := op s
      r.1.respond 0 p.psn 0 (leBytes 4 r.2.1 ++ r.2.2))

/-- The context that a descriptor describes (R334). -/
def descriptorOf (p : MgmtPacket) : Context :=
  { priv := p.word 1 % 2 == 1, pager := p.word 1 / 2 % 2 == 1, clusters := BitVec.ofNat 64 (p.pair 2)
    job := BitVec.ofNat 64 (p.pair 4), ptroot := p.pair 6, saveArea := p.pair 8, faultq := p.pair 10
    eventq := p.pair 12, xlate := p.pair 14, pvbase := p.pair 16, tbase := BitVec.ofNat 56 (p.pair 18), stepbase := p.pair 20
    stepj := p.word 22 / 2 ^ 24, stepent := p.word 22 % 2 ^ 24, preemptLimit := BitVec.ofNat 32 (p.word 23)
    sysroot := (wordsBytes ((p.words.drop 24).take 8)), peerwin := p.pair 32, pvstride := p.word 34 }

/-- The limits of a descriptor (R185, R299, R334, R366). -/
def State.descriptorOk (s : State) (p : MgmtPacket) : Bool :=
  let c := descriptorOf p
  p.words.length == 64 && p.word 0 != 0 && (s.contexts.find? (p.word 0)).isNone && p.word 1 < 4 && c.clusters != 0 &&
    s.contexts.all (fun x => x.2.clusters &&& c.clusters == 0) &&
    s.clusters.all (fun x => !(x.2.absent && c.hasCluster x.1)) && c.ptroot % 2048 == 0 &&
    c.ptroot < 24576 * Config.frames && c.pvbase % 24576 == 0 && c.pvbase < 2 ^ 56 && p.pair 18 % 4096 == 0 && p.pair 18 < 2 ^ 56 &&
    c.stepj ≤ 20 && c.stepent % 192 == 0 && 1 ≤ c.pvstride && c.pvstride ≤ 2 ^ 16 && (p.words.drop 35).all (· == 0)

/-- CREATE_CONTEXT (R334): STEP, the harvest counters, SATWORD and the observation block start at zero. -/
def execCreateContext (p : MgmtPacket) (s : State) : Host.Outcome State Fault Refusal :=
  manage p (fun s =>
    if s.descriptorOk p then ({ s with contexts := s.contexts.put (p.word 0) (descriptorOf p) }, 1, []) else (s, 2, [])) s

/-- Whether a context has a team that is placed, resident or saved. -/
def State.hasTeams (s : State) (ctx : Nat) : Bool := !(s.vacated ctx) || !(s.context ctx).saved.isEmpty

/-- Drops what the device holds of a context. -/
def State.dropContext (s : State) (ctx : Nat) : State :=
  { s with
    contexts := s.contexts.erase ctx, windows := s.windows.filter fun w => w.2.ctx != ctx
    grids := s.grids.filter fun g => g.2.ctx != ctx, teams := s.teams.filter fun t => t.2.ctx != ctx
    messages := s.messages.filter fun m => m.ctx != ctx, rounds := s.rounds.filter fun r => r.2.ctx != ctx
    reuse := s.reuse.filter fun r => r.ctx != ctx
    cores := s.cores.mapVals fun _ x =>
      { x with tlb := x.tlb.filter fun e => e.ctx != ctx, sideLog := x.sideLog.filter fun e => e.ctx != ctx }
    clusters := s.clusters.mapVals fun _ x =>
      { x with itlb := x.itlb.filter fun e => e.ctx != ctx, icache := x.icache.filter fun b => b.ctx != ctx } }

/-- DESTROY_CONTEXT: code 3 while it has a placed, resident or saved team (R334). -/
def execDestroyContext (p : MgmtPacket) (s : State) : Host.Outcome State Fault Refusal :=
  manage p (fun s =>
    let ctx := p.word 0
    if (s.contexts.find? ctx).isNone then (s, 2, [])
    else if s.hasTeams ctx then (s, 3, [])
    else (s.dropContext ctx, 1, [])) s

/-- SET_STEP (R258, R328). -/
def execSetStep (p : MgmtPacket) (s : State) : Host.Outcome State Fault Refusal :=
  manage p (fun s =>
    if (s.contexts.find? (p.word 0)).isNone then (s, 2, [])
    else (s.modCtx (p.word 0) fun c => { c with step := BitVec.ofNat 32 (p.word 1) }, 1, [])) s

/-- A management operation whose row of the table is one of two that share a code: the packet's word says which. -/
def manageIf (name : String) (mine : Bool) (p : MgmtPacket) (op : State → State × Nat × List Byte) (s : State) :
    Host.Outcome State Fault Refusal :=
  if mine then manage p op s else .refused (.notEnabled name)

/-- PREEMPT_CONTEXT: operation 4 with the word 0; it pre-empts a context as CTXSAVE does; the answer is the code of its start (R304, R328).
DEDUCED, log entry 70. -/
def execPreemptContext (p : MgmtPacket) (s : State) : Host.Outcome State Fault Refusal :=
  manageIf "PREEMPT_CONTEXT" (p.word 1 != 1) p (fun s =>
    match s.contexts.find? (p.word 0) with
    | none => (s, 2, [])
    | some c =>
      if p.word 1 != 0 then (s, 2, [])
      else if c.preempt = .none then (s.startPreempt (p.word 0) c.preemptLimit.toNat, 1, []) else (s, 3, [])) s

/-- RESUME_CONTEXT: operation 4 with the word 1; it ends a pre-emption as CTXLOAD does (R304, R328). -/
def execResumeContext (p : MgmtPacket) (s : State) : Host.Outcome State Fault Refusal :=
  manageIf "RESUME_CONTEXT" (p.word 1 == 1) p (fun s =>
    match s.contexts.find? (p.word 0) with
    | none => (s, 2, [])
    | some c =>
      if c.preempt = .none then (s, 3, [])
      else
        let s := s.requestLoad 0 (p.word 0) 0
        ({ s with requests := s.requests.dropLast }, 1, [])) s

/-- REGISTER_WINDOW: index, CTXID, base, length, permissions, key; length 0 removes the window (R327, R328). -/
def execRegisterWindow (p : MgmtPacket) (s : State) : Host.Outcome State Fault Refusal :=
  manage p (fun s =>
    if 255 ≤ p.word 0 then (s, 2, [])
    else if p.pair 4 = 0 then ({ s with windows := s.windows.erase (p.word 0) }, 1, [])
    else if (s.contexts.find? (p.word 1)).isNone then (s, 2, [])
    else
      ({ s with
        windows := s.windows.put (p.word 0)
          { ctx := p.word 1, base := p.pair 2, length := p.pair 4, rd := p.word 6 % 2 == 1, wr := p.word 6 / 2 % 2 == 1
            key := BitVec.ofNat 32 (p.word 7) } }, 1, [])) s

/-- REMOVE_WINDOW: a registration of length 0 (R328). -/
def execRemoveWindow (p : MgmtPacket) (s : State) : Host.Outcome State Fault Refusal :=
  manage p (fun s =>
    if 255 ≤ p.word 0 || p.pair 4 != 0 then (s, 2, []) else ({ s with windows := s.windows.erase (p.word 0) }, 1, [])) s

/-- REGISTER_LAUNCH_QUEUE_TABLE (R148, R328). -/
def execRegisterLaunchQueueTable (p : MgmtPacket) (s : State) : Host.Outcome State Fault Refusal :=
  manage p (fun s => ({ s with queueTable := some (p.pair 0), queueSeen := [] }, 1, [])) s

/-! ### Signed records (R339 to R341) -/

/-- A list of bytes cut or padded with zeros to n. -/
def padTo (n : Nat) (bs : List Byte) : List Byte := (bs ++ List.replicate n 0).take n

/-- The header that both records begin with, up to offset 0x07F. -/
def State.recordHeader (s : State) (ctx kind flags : Nat) : List Byte :=
  leBytes 4 1 ++ leBytes 4 kind ++ leBytes 4 flags ++ leBytes 4 ctx ++ leBytes 8 (s.context ctx).job.toNat ++
    leBytes 8 s.seq ++ padTo 32 Config.devId ++ padTo 64 Config.fwMeas

/-- Signed bytes with their signature. -/
def State.sign (s : State) (bs : List Byte) : List Byte := bs ++ padTo 1280 (Config.falconSign s.seq bs)

/-- Whether a harvest record is a quiescent cut: no team, no incomplete command, no side-log entry (R340). -/
def State.quiescent (s : State) (ctx : Nat) : Bool :=
  !s.hasTeams ctx && s.cmds.all (fun c => c.2.ctx != ctx) && s.cores.all fun c => c.2.sideLog.all fun e => e.ctx != ctx

/-- Counter i as a record reads it: in a live record each at an instant of its own within the clock, so that it may have
the value that it held when the clock began (R340). DESIGN CHOICE, log entry 106. -/
def State.counterRead (s : State) (ctx i : Nat) : Nat :=
  let c := s.context ctx
  if !s.quiescent ctx && (Config.freeWord (s.free + i)).getLsbD 0 then c.harvestWas.get 0 i else harvestOf c i

/-- The signed bytes of a harvest record (R340). -/
def State.harvestBytes (s : State) (ctx : Nat) : List Byte :=
  let c := s.context ctx
  let roster := if c.roster.isEmpty then List.replicate 32 0 else padTo 32 (Config.shake256 c.roster)
  s.recordHeader ctx 1 (if s.quiescent ctx then 1 else 0) ++ roster ++ leBytes 8 (satword c) ++ List.replicate 24 0 ++
    (List.range 48).flatMap fun i => leBytes 8 (s.counterRead ctx i)

/-- Takes a harvest record: its bytes, and the state in which its number is used. -/
def State.takeHarvest (s : State) (ctx : Nat) : State × List Byte :=
  ({ s with seq := s.seq + 1, free := s.free + 48 }, s.sign (s.harvestBytes ctx))

/-- The signed bytes of a roster record (R341). DEDUCED, log entry 78. -/
def State.rosterBytes (s : State) (ctx : Nat) : List Byte :=
  let up := s.ports.filter fun p => p.2.up
  let entry (i : Nat) : List Byte :=
    let p := s.port i
    if p.up then leBytes 4 i ++ leBytes 4 1 ++ leBytes 8 p.authSeq ++ padTo 32 p.partner else List.replicate 48 0
  s.recordHeader ctx 2 0 ++ leBytes 4 up.length ++ List.replicate 12 0 ++ (List.range 16).flatMap entry

/-- Takes a roster record: its bytes, and the state that remembers it. -/
def State.takeRoster (s : State) (ctx : Nat) : State × List Byte :=
  let bs := s.rosterBytes ctx
  ({ s with seq := s.seq + 1 }.modCtx ctx fun c => { c with roster := bs }, s.sign bs)

/-- HARVEST_RECORD (R328, R340). -/
def execHarvestRecord (p : MgmtPacket) (s : State) : Host.Outcome State Fault Refusal :=
  manage p (fun s =>
    if (s.contexts.find? (p.word 0)).isNone then (s, 2, [])
    else
      let r := s.takeHarvest (p.word 0)
      (r.1, 1, r.2)) s

/-- ROSTER_RECORD (R328, R341). -/
def execRosterRecord (p : MgmtPacket) (s : State) : Host.Outcome State Fault Refusal :=
  manage p (fun s =>
    if (s.contexts.find? (p.word 0)).isNone then (s, 2, [])
    else
      let r := s.takeRoster (p.word 0)
      (r.1, 1, r.2)) s

/-! ### SPDM (R342) -/

/-- The bytes of an SPDM message. -/
def spdmBytes (p : MgmtPacket) : List Byte := wordsBytes p.words

/-- The request code of an SPDM message, its second byte. PRESUMED, log entry 9. -/
def spdmCode (m : List Byte) : Nat := (m.getD 1 0).toNat

/-- Bytes of a message as a number. -/
def bytesAt (m : List Byte) (o n : Nat) : Nat := leNat ((m.drop o).take n)

/-- What an SPDM message asks of this device. -/
inductive SpdmAsk where
  | version
  | capabilities
  | algorithms
  | measurements
  | vendor (kind ctx : Nat)
  | badVendor
  | unsupported
  deriving DecidableEq, Repr

/-- Reads an SPDM message: its code, and for a vendor-defined request the vendor's fields and payload. -/
def spdmAsk (m : List Byte) : SpdmAsk :=
  if spdmCode m = 0x84 then .version
  else if spdmCode m = 0xE1 then .capabilities
  else if spdmCode m = 0xE3 then .algorithms
  else if spdmCode m = 0xE0 then .measurements
  else if spdmCode m = 0xFE then
    if bytesAt m 4 2 = 4 && bytesAt m 6 1 = 4 && bytesAt m 7 4 = 0xDA6E && bytesAt m 11 2 = 8 then
      .vendor (bytesAt m 13 4) (bytesAt m 17 4)
    else .badVendor
  else .unsupported

/-- An SPDM error message. PRESUMED, log entry 9. -/
def spdmError (m : List Byte) (code : Nat) : List Byte := [m.getD 0 0, 0x7F, BitVec.ofNat 8 code, 0]

/-- A vendor-defined response with a status word and a record. -/
def vendorAnswer (m : List Byte) (status : Nat) (rec_ : List Byte) : List Byte :=
  [m.getD 0 0, 0x7E, 0, 0] ++ leBytes 2 4 ++ leBytes 1 4 ++ leBytes 4 0xDA6E ++ leBytes 2 (4 + rec_.length) ++
    leBytes 4 status ++ rec_

/-- An SPDM request that an event of the table names: others are not that event. -/
def spdmEvent (name : String) (p : MgmtPacket) (mine : SpdmAsk → Bool) (op : State → SpdmAsk → State × List Byte)
    (s : State) : Host.Outcome State Fault Refusal :=
  if mine (spdmAsk (spdmBytes p)) then
    manage p (fun s =>
      let r := op s (spdmAsk (spdmBytes p))
      (r.1, 1, r.2)) s
  else .refused (.notEnabled name)

/-- GET_VERSION: the answer's contents are SPDM 1.2's. -/
def execGetVersion (p : MgmtPacket) (s : State) : Host.Outcome State Fault Refusal :=
  spdmEvent "GET_VERSION" p (· == .version) (fun s _ => (s, Config.spdmAnswer 0x84 (spdmBytes p))) s

/-- GET_CAPABILITIES: the answer reports a DataTransferSize of 4,096 bytes. -/
def execGetCapabilities (p : MgmtPacket) (s : State) : Host.Outcome State Fault Refusal :=
  spdmEvent "GET_CAPABILITIES" p (· == .capabilities)
    (fun s _ => (s, Config.spdmAnswer 0xE1 (spdmBytes p) ++ leBytes 4 4096)) s

/-- NEGOTIATE_ALGORITHMS: the answer's contents are SPDM 1.2's. -/
def execNegotiateAlgorithms (p : MgmtPacket) (s : State) : Host.Outcome State Fault Refusal :=
  spdmEvent "NEGOTIATE_ALGORITHMS" p (· == .algorithms) (fun s _ => (s, Config.spdmAnswer 0xE3 (spdmBytes p))) s

/-- GET_MEASUREMENTS: unsigned, with FWMEAS as measurement block 1. -/
def execGetMeasurements (p : MgmtPacket) (s : State) : Host.Outcome State Fault Refusal :=
  spdmEvent "GET_MEASUREMENTS" p (· == .measurements)
    (fun s _ => (s, Config.spdmAnswer 0xE0 (spdmBytes p) ++ padTo 64 Config.fwMeas)) s

/-- Whether a request is vendor-defined and of a kind. -/
def SpdmAsk.isKind (a : SpdmAsk) (k : Nat) : Bool :=
  match a with
  | .vendor n _ => n == k
  | _ => false

/-- The context that a vendor-defined request names. -/
def SpdmAsk.ctx (a : SpdmAsk) : Nat :=
  match a with
  | .vendor _ c => c
  | _ => 0

/-- VENDOR_HARVEST_REQUEST: a harvest record, or status 2 for no such context. -/
def execVendorHarvestRequest (p : MgmtPacket) (s : State) : Host.Outcome State Fault Refusal :=
  spdmEvent "VENDOR_HARVEST_REQUEST" p (·.isKind 7) (fun s a =>
    if (s.contexts.find? a.ctx).isNone then (s, vendorAnswer (spdmBytes p) 2 [])
    else
      let r := s.takeHarvest a.ctx
      (r.1, vendorAnswer (spdmBytes p) 1 r.2)) s

/-- VENDOR_ROSTER_REQUEST: a roster record, or status 2 for no such context. -/
def execVendorRosterRequest (p : MgmtPacket) (s : State) : Host.Outcome State Fault Refusal :=
  spdmEvent "VENDOR_ROSTER_REQUEST" p (·.isKind 8) (fun s a =>
    if (s.contexts.find? a.ctx).isNone then (s, vendorAnswer (spdmBytes p) 2 [])
    else
      let r := s.takeRoster a.ctx
      (r.1, vendorAnswer (spdmBytes p) 1 r.2)) s

/-- Whether a request is one of those that a step of its own serves. -/
def SpdmAsk.served (a : SpdmAsk) : Bool :=
  a == .version || a == .capabilities || a == .algorithms || a == .measurements || a.isKind 7 || a.isKind 8

/-- SPDM_UNSUPPORTED_REQUEST: any other request gets an error, and a vendor-defined one of an unknown kind status 3. -/
def execSpdmUnsupportedRequest (p : MgmtPacket) (s : State) : Host.Outcome State Fault Refusal :=
  spdmEvent "SPDM_UNSUPPORTED_REQUEST" p (fun a => !a.served) (fun s a =>
    match a with
    | .vendor _ _ => (s, vendorAnswer (spdmBytes p) 3 [])
    | .badVendor => (s, spdmError (spdmBytes p) 0x01)
    | _ => (s, spdmError (spdmBytes p) 0x07)) s

end Sys2Proof.Machine
end

