-- ==== Sys2Proof/Machine/Permute.lean ====
section
/-! DEFINITION. Interleave and permute (R106 to R109). -/

namespace Sys2Proof.Machine

/-- k consecutive registers. -/
def block (r : BitVec 7) (k : Nat) : List Nat := (List.range k).map (r.toNat + ·)

/-- Element e of the array that a block of registers is (R107). -/
def Group.blockElem (g : Group) (r : BitVec 7) (e : Nat) : Word := g.lane (r.toNat + e / 96) (e % 96)

/-- Moves elements between two blocks of k registers: element e of the destination block is `f e`, written
in the active lanes; every register takes the tag of v(a) (R106, R107). -/
def interleave (i : Instr) (k : Nat) (d a : BitVec 7) (f : Group → Nat → Word) (s : State) :
    Host.Outcome State Fault Refusal :=
  performG i { vr := block a k, vw := block d k, mask := true } (pureG fun g =>
    (List.range k).foldl (fun g' j =>
      g'.setV (d.toNat + j) g.xm (fun l => f g (96 * j + l)) (g.vreg a.toNat).tag) g) s

/-- ZIPk: element kl + j of the destination is lane l of v(a + j) (R107). -/
def zip (i : Instr) (k : Nat) (d a : BitVec 7) (s : State) : Host.Outcome State Fault Refusal :=
  interleave i k d a (fun g e => g.lane (a.toNat + e % k) (e / k)) s

/-- UNZIPk: lane l of v(d + j) is element kl + j of the source (R107). -/
def unzip (i : Instr) (k : Nat) (d a : BitVec 7) (s : State) : Host.Outcome State Fault Refusal :=
  interleave i k d a (fun g e => g.blockElem a (k * (e % 96) + e / 96)) s

/-- ZIP2 (R107). -/
def execZip2 (d a : BitVec 7) (s : State) : Host.Outcome State Fault Refusal := zip (.zip2 d a) 2 d a s

/-- ZIP3 (R107). -/
def execZip3 (d a : BitVec 7) (s : State) : Host.Outcome State Fault Refusal := zip (.zip3 d a) 3 d a s

/-- ZIP4 (R107). -/
def execZip4 (d a : BitVec 7) (s : State) : Host.Outcome State Fault Refusal := zip (.zip4 d a) 4 d a s

/-- UNZIP2 (R107). -/
def execUnzip2 (d a : BitVec 7) (s : State) : Host.Outcome State Fault Refusal := unzip (.unzip2 d a) 2 d a s

/-- UNZIP3 (R107). -/
def execUnzip3 (d a : BitVec 7) (s : State) : Host.Outcome State Fault Refusal := unzip (.unzip3 d a) 3 d a s

/-- UNZIP4 (R107). -/
def execUnzip4 (d a : BitVec 7) (s : State) : Host.Outcome State Fault Refusal := unzip (.unzip4 d a) 4 d a s

/-- LSHUF: lane b of v(a), or 0 when b is 96 or more (R108). -/
def execLshuf (d a : BitVec 7) (b : Src) (s : State) : Host.Outcome State Fault Refusal :=
  vecRun (.lshuf d a b) (info2 d a b 0 0) d.toNat (fun g => (g.vreg a.toNat).tag)
    (fun g l =>
      let k := (g.blane b 0 l).1.toNat
      (if k < 96 then g.lane a.toNat k else 0, 0)) (fun _ => 0) none s

/-- LROT: lane (l + k) mod 96 of v(a) (R108). -/
def execLrot (d a : BitVec 7) (k : LaneIdx) (s : State) : Host.Outcome State Fault Refusal :=
  vecRun (.lrot d a k) { sr := k.sregs, vr := [a.toNat], vw := [d.toNat] } d.toNat
    (fun g => (g.vreg a.toNat).tag)
    (fun g l => (g.lane a.toNat ((l + g.laneNum k % 96) % 96), 0)) (fun _ => 0) none s

/-- LREAD: s(d) takes lane k of v(a), or 0 for a scalar k of 96 or more, whatever xm holds (R109). -/
def execLread (d : BitVec 6) (a : BitVec 7) (k : LaneIdx) (look : BitVec 4) (s : State) :
    Host.Outcome State Fault Refusal :=
  perform (.lread d a k look)
    { sr := k.sregs, sw := [d.toNat], vr := [a.toNat], look := some look.toNat } (fun s =>
    let g := s.g
    let n := g.laneNum k
    let v := if n < 96 then g.lane a.toNat n else 0
    .done (s.bump.setG
      { g with
        results := g.results ++ [{
          id := s.fresh, kind := .compute, writes := [.sreg (g.phys d.toNat) v (g.vreg a.toNat).tag] }] }) .seq) s

/-- LWRITE: lane k of v(d) takes s(a) and its tag, whatever xm holds; a scalar k of 96 or more writes nothing
(R109). -/
def execLwrite (d : BitVec 7) (a : BitVec 6) (k : LaneIdx) (s : State) : Host.Outcome State Fault Refusal :=
  performG (.lwrite d a k) { sr := a.toNat :: k.sregs, vw := [d.toNat] } (pureG fun g =>
    let n := g.laneNum k
    if n < 96 then g.setV d.toNat (laneBit n) (fun _ => g.sval a.toNat) (g.sreg a.toNat).tag else g) s

end Sys2Proof.Machine
end

