-- ==== Sys2Proof/Machine/Dispatch.lean ====
section
/-! DEFINITION. One arm for each constructor of Instr: its meaning. -/

namespace Sys2Proof.Machine

/-- The meaning of an instruction of the group that issues, and of a step of the device's other agents. -/
def exec (i : Instr) (s : State) : Host.Outcome State Fault Refusal :=
  match i with
  | .sadd d a b => Sys2Proof.Machine.execSadd d a b s
  | .ssub d a b => Sys2Proof.Machine.execSsub d a b s
  | .smul d a b => Sys2Proof.Machine.execSmul d a b s
  | .smulhi d a b => Sys2Proof.Machine.execSmulhi d a b s
  | .smulhn d a b => Sys2Proof.Machine.execSmulhn d a b s
  | .sdiv d a b => Sys2Proof.Machine.execSdiv d a b s
  | .sdivn d a b => Sys2Proof.Machine.execSdivn d a b s
  | .srem d a b => Sys2Proof.Machine.execSrem d a b s
  | .smin d a b => Sys2Proof.Machine.execSmin d a b s
  | .smax d a b => Sys2Proof.Machine.execSmax d a b s
  | .sminn d a b => Sys2Proof.Machine.execSminn d a b s
  | .smaxn d a b => Sys2Proof.Machine.execSmaxn d a b s
  | .saddc d a b => Sys2Proof.Machine.execSaddc d a b s
  | .ssubb d a b => Sys2Proof.Machine.execSsubb d a b s
  | .sand d a b => Sys2Proof.Machine.execSand d a b s
  | .sor d a b => Sys2Proof.Machine.execSor d a b s
  | .sxor d a b => Sys2Proof.Machine.execSxor d a b s
  | .sandn d a b => Sys2Proof.Machine.execSandn d a b s
  | .sshl d a b => Sys2Proof.Machine.execSshl d a b s
  | .sshr d a b => Sys2Proof.Machine.execSshr d a b s
  | .ssra d a b => Sys2Proof.Machine.execSsra d a b s
  | .srot d a b => Sys2Proof.Machine.execSrot d a b s
  | .sclz d a => Sys2Proof.Machine.execSclz d a s
  | .spopc d a => Sys2Proof.Machine.execSpopc d a s
  | .sbrev d a => Sys2Proof.Machine.execSbrev d a s
  | .sext d a n => Sys2Proof.Machine.execSext d a n s
  | .scmp d a b cc => Sys2Proof.Machine.execScmp d a b cc s
  | .ssel d a b c => Sys2Proof.Machine.execSsel d a b c s
  | .smov d a => Sys2Proof.Machine.execSmov d a s
  | .saddImm d a imm => Sys2Proof.Machine.execSaddImm d a imm s
  | .sandImm d a imm => Sys2Proof.Machine.execSandImm d a imm s
  | .sshlImm d a n => Sys2Proof.Machine.execSshlImm d a n s
  | .sshrImm d a n => Sys2Proof.Machine.execSshrImm d a n s
  | .ssraImm d a n => Sys2Proof.Machine.execSsraImm d a n s
  | .srotImm d a n => Sys2Proof.Machine.execSrotImm d a n s
  | .slit d tag lit => Sys2Proof.Machine.execSlit d tag lit s
  | .saddLit d a lit => Sys2Proof.Machine.execSaddLit d a lit s
  | .sandLit d a lit => Sys2Proof.Machine.execSandLit d a lit s
  | .sorLit d a lit => Sys2Proof.Machine.execSorLit d a lit s
  | .sxorLit d a lit => Sys2Proof.Machine.execSxorLit d a lit s
  | .smulLit d a lit => Sys2Proof.Machine.execSmulLit d a lit s
  | .sld d a off look => Sys2Proof.Machine.execSld d a off look s
  | .sst d a off => Sys2Proof.Machine.execSst d a off s
  | .btset n a perm => Sys2Proof.Machine.execBtset n a perm s
  | .btget d n sel => Sys2Proof.Machine.execBtget d n sel s
  | .srd d r => Sys2Proof.Machine.execSrd d r s
  | .swr d r => Sys2Proof.Machine.execSwr d r s
  | .mand d a b => Sys2Proof.Machine.execMand d a b s
  | .mor d a b => Sys2Proof.Machine.execMor d a b s
  | .mxor d a b => Sys2Proof.Machine.execMxor d a b s
  | .mandn d a b => Sys2Proof.Machine.execMandn d a b s
  | .mnot d a => Sys2Proof.Machine.execMnot d a s
  | .mpopc d a => Sys2Proof.Machine.execMpopc d a s
  | .mfirst d a => Sys2Proof.Machine.execMfirst d a s
  | .msetx d a => Sys2Proof.Machine.execMsetx d a s
  | .mgetx d => Sys2Proof.Machine.execMgetx d s
  | .mtest d a => Sys2Proof.Machine.execMtest d a s
  | .br u cond sc disp => Sys2Proof.Machine.execBr u cond sc disp s
  | .jmp disp => Sys2Proof.Machine.execJmp disp s
  | .call sc disp => Sys2Proof.Machine.execCall sc disp s
  | .ret sc => Sys2Proof.Machine.execRet sc s
  | .jmpi sc => Sys2Proof.Machine.execJmpi sc s
  | .loop sc disp => Sys2Proof.Machine.execLoop sc disp s
  | .nop => Sys2Proof.Machine.execNop s
  | .halt => Sys2Proof.Machine.execHalt s
  | .yield sc disp => Sys2Proof.Machine.execYield sc disp s
  | .ipref disp => Sys2Proof.Machine.execIpref disp s
  | .bara n => Sys2Proof.Machine.execBara n s
  | .barw n => Sys2Proof.Machine.execBarw n s
  | .baraw n => Sys2Proof.Machine.execBaraw n s
  | .vadd d a b => Sys2Proof.Machine.execVadd d a b s
  | .vsub d a b => Sys2Proof.Machine.execVsub d a b s
  | .vmul d a b => Sys2Proof.Machine.execVmul d a b s
  | .vmulhi d a b => Sys2Proof.Machine.execVmulhi d a b s
  | .vmulhn d a b => Sys2Proof.Machine.execVmulhn d a b s
  | .vmin d a b => Sys2Proof.Machine.execVmin d a b s
  | .vmax d a b => Sys2Proof.Machine.execVmax d a b s
  | .vminn d a b => Sys2Proof.Machine.execVminn d a b s
  | .vmaxn d a b => Sys2Proof.Machine.execVmaxn d a b s
  | .vadds d a b => Sys2Proof.Machine.execVadds d a b s
  | .vsubs d a b => Sys2Proof.Machine.execVsubs d a b s
  | .vabs d a => Sys2Proof.Machine.execVabs d a s
  | .vand d a b => Sys2Proof.Machine.execVand d a b s
  | .vor d a b => Sys2Proof.Machine.execVor d a b s
  | .vxor d a b => Sys2Proof.Machine.execVxor d a b s
  | .vandn d a b => Sys2Proof.Machine.execVandn d a b s
  | .vshl d a b => Sys2Proof.Machine.execVshl d a b s
  | .vshr d a b => Sys2Proof.Machine.execVshr d a b s
  | .vsra d a b => Sys2Proof.Machine.execVsra d a b s
  | .vclz d a => Sys2Proof.Machine.execVclz d a s
  | .vpopc d a => Sys2Proof.Machine.execVpopc d a s
  | .vmad d a b c => Sys2Proof.Machine.execVmad d a b c s
  | .vsel d a b c => Sys2Proof.Machine.execVsel d a b c s
  | .vcmp d a b cc => Sys2Proof.Machine.execVcmp d a b cc s
  | .vmov d b => Sys2Proof.Machine.execVmov d b s
  | .vidx d b => Sys2Proof.Machine.execVidx d b s
  | .vbcast d a b => Sys2Proof.Machine.execVbcast d a b s
  | .fadd d a b => Sys2Proof.Machine.execFadd d a b s
  | .fsub d a b => Sys2Proof.Machine.execFsub d a b s
  | .fmul d a b => Sys2Proof.Machine.execFmul d a b s
  | .fmin d a b => Sys2Proof.Machine.execFmin d a b s
  | .fmax d a b => Sys2Proof.Machine.execFmax d a b s
  | .fscale d a b => Sys2Proof.Machine.execFscale d a b s
  | .fclass d a => Sys2Proof.Machine.execFclass d a s
  | .ffma d a b c rm => Sys2Proof.Machine.execFfma d a b c rm s
  | .fcmp d a b cc => Sys2Proof.Machine.execFcmp d a b cc s
  | .frnd d a rm => Sys2Proof.Machine.execFrnd d a rm s
  | .faddRm d a b rm => Sys2Proof.Machine.execFaddRm d a b rm s
  | .fsubRm d a b rm => Sys2Proof.Machine.execFsubRm d a b rm s
  | .fmulRm d a b rm => Sys2Proof.Machine.execFmulRm d a b rm s
  | .hadd2Bf16 d a b => Sys2Proof.Machine.execHadd2Bf16 d a b s
  | .hadd2F16 d a b => Sys2Proof.Machine.execHadd2F16 d a b s
  | .hmul2Bf16 d a b => Sys2Proof.Machine.execHmul2Bf16 d a b s
  | .hmul2F16 d a b => Sys2Proof.Machine.execHmul2F16 d a b s
  | .hfma2 d a b c rm ty => Sys2Proof.Machine.execHfma2 d a b c rm ty s
  | .hadd2 d a b rm ty => Sys2Proof.Machine.execHadd2 d a b rm ty s
  | .hmul2 d a b rm ty => Sys2Proof.Machine.execHmul2 d a b rm ty s
  | .frcp d a look => Sys2Proof.Machine.execFrcp d a look s
  | .frsq d a look => Sys2Proof.Machine.execFrsq d a look s
  | .fsqrt d a rm look => Sys2Proof.Machine.execFsqrt d a rm look s
  | .fdiv d a b rm look => Sys2Proof.Machine.execFdiv d a b rm look s
  | .fexp2 d a look => Sys2Proof.Machine.execFexp2 d a look s
  | .flog2 d a look => Sys2Proof.Machine.execFlog2 d a look s
  | .fsin d a look => Sys2Proof.Machine.execFsin d a look s
  | .fcos d a look => Sys2Proof.Machine.execFcos d a look s
  | .cvt d a t src rm sat ix j => Sys2Proof.Machine.execCvt d a t src rm sat ix j s
  | .cvtsr d a t sat j => Sys2Proof.Machine.execCvtsr d a t sat j s
  | .pack2 d a b ty => Sys2Proof.Machine.execPack2 d a b ty s
  | .unpack2 d a ty h => Sys2Proof.Machine.execUnpack2 d a ty h s
  | .pack4 d a b ty => Sys2Proof.Machine.execPack4 d a b ty s
  | .unpack4 d a ty k => Sys2Proof.Machine.execUnpack4 d a ty k s
  | .tagrd d src => Sys2Proof.Machine.execTagrd d src s
  | .tagwr dst tag => Sys2Proof.Machine.execTagwr dst tag s
  | .vrng d => Sys2Proof.Machine.execVrng d s
  | .zip2 d a => Sys2Proof.Machine.execZip2 d a s
  | .zip3 d a => Sys2Proof.Machine.execZip3 d a s
  | .zip4 d a => Sys2Proof.Machine.execZip4 d a s
  | .unzip2 d a => Sys2Proof.Machine.execUnzip2 d a s
  | .unzip3 d a => Sys2Proof.Machine.execUnzip3 d a s
  | .unzip4 d a => Sys2Proof.Machine.execUnzip4 d a s
  | .lshuf d a b => Sys2Proof.Machine.execLshuf d a b s
  | .lrot d a k => Sys2Proof.Machine.execLrot d a k s
  | .lread d a k look => Sys2Proof.Machine.execLread d a k look s
  | .lwrite d a k => Sys2Proof.Machine.execLwrite d a k s
  | .faddx d a b => Sys2Proof.Machine.execFaddx d a b s
  | .fsubx d a b => Sys2Proof.Machine.execFsubx d a b s
  | .fmulx d a b => Sys2Proof.Machine.execFmulx d a b s
  | .dwadd d a b => Sys2Proof.Machine.execDwadd d a b s
  | .dwadds d a b => Sys2Proof.Machine.execDwadds d a b s
  | .dwmul d a b => Sys2Proof.Machine.execDwmul d a b s
  | .dwmuls d a b => Sys2Proof.Machine.execDwmuls d a b s
  | .dwdiv d a b look => Sys2Proof.Machine.execDwdiv d a b look s
  | .dwsqrt d a look => Sys2Proof.Machine.execDwsqrt d a look s
  | .dwnorm d a => Sys2Proof.Machine.execDwnorm d a s
  | .dwcvt d a fromPair ty rm => Sys2Proof.Machine.execDwcvt d a fromPair ty rm s
  | .dwcmp d a b cc => Sys2Proof.Machine.execDwcmp d a b cc s
  | .creduce d a c single look => Sys2Proof.Machine.execCreduce d a c single look s
  | .credseg d a c single look => Sys2Proof.Machine.execCredseg d a c single look s
  | .qswapx d a => Sys2Proof.Machine.execQswapx d a s
  | .qswapy d a => Sys2Proof.Machine.execQswapy d a s
  | .qswapd d a => Sys2Proof.Machine.execQswapd d a s
  | .qbcast d a k => Sys2Proof.Machine.execQbcast d a k s
  | .greduce d a c op ty rm sat look => Sys2Proof.Machine.execGreduce d a c op ty rm sat look s
  | .gscan d a op excl ty rm sat look => Sys2Proof.Machine.execGscan d a op excl ty rm sat look s
  | .gsegred d a c op ty rm sat look => Sys2Proof.Machine.execGsegred d a c op ty rm sat look s
  | .gmatch d a mode look => Sys2Proof.Machine.execGmatch d a mode look s
  | .vld d t o look z => Sys2Proof.Machine.execVld d t o look z s
  | .vld2w d t o look z x => Sys2Proof.Machine.execVld2w d t o look z x s
  | .vst src t o z => Sys2Proof.Machine.execVst src t o z s
  | .vst2w src t o z x => Sys2Proof.Machine.execVst2w src t o z x s
  | .vlds d t o look z => Sys2Proof.Machine.execVlds d t o look z s
  | .vlds2w d t o look z x => Sys2Proof.Machine.execVlds2w d t o look z x s
  | .vsts src t o z => Sys2Proof.Machine.execVsts src t o z s
  | .vsts2w src t o z x => Sys2Proof.Machine.execVsts2w src t o z x s
  | .pref t o => Sys2Proof.Machine.execPref t o s
  | .pref2w t o x => Sys2Proof.Machine.execPref2w t o x s
  | .vldp d o look z => Sys2Proof.Machine.execVldp d o look z s
  | .vldp2w d o look z x => Sys2Proof.Machine.execVldp2w d o look z x s
  | .vstp src o z => Sys2Proof.Machine.execVstp src o z s
  | .vstp2w src o z x => Sys2Proof.Machine.execVstp2w src o z x s
  | .vldi d t o look z => Sys2Proof.Machine.execVldi d t o look z s
  | .vldi2w d t o look z x => Sys2Proof.Machine.execVldi2w d t o look z x s
  | .vsti src t o z => Sys2Proof.Machine.execVsti src t o z s
  | .vsti2w src t o z x => Sys2Proof.Machine.execVsti2w src t o z x s
  | .spld d o look z => Sys2Proof.Machine.execSpld d o look z s
  | .spld2w d o look z x => Sys2Proof.Machine.execSpld2w d o look z x s
  | .spst src o z => Sys2Proof.Machine.execSpst src o z s
  | .spst2w src o z x => Sys2Proof.Machine.execSpst2w src o z x s
  | .spldx d n o look z => Sys2Proof.Machine.execSpldx d n o look z s
  | .spldx2w d n o look z x => Sys2Proof.Machine.execSpldx2w d n o look z x s
  | .spstx src n o z => Sys2Proof.Machine.execSpstx src n o z s
  | .spstx2w src n o z x => Sys2Proof.Machine.execSpstx2w src n o z x s
  | .atom d a b c t f lock look => Sys2Proof.Machine.execAtom d a b c t f lock look s
  | .red a b t f lock => Sys2Proof.Machine.execRed a b t f lock s
  | .spatom d a b c x n f nr look => Sys2Proof.Machine.execSpatom d a b c x n f nr look s
  | .satom d a b c f lock nr look => Sys2Proof.Machine.execSatom d a b c f lock nr look s
  | .fence order scope => Sys2Proof.Machine.execFence order scope s
  | .icinv scope a b => Sys2Proof.Machine.execIcinv scope a b s
  | .ifence => Sys2Proof.Machine.execIfence s
  | .msend q a b k order scope => Sys2Proof.Machine.execMsend q a b k order scope s
  | .mrecv d q poll order scope look => Sys2Proof.Machine.execMrecv d q poll order scope look s
  | .wakew a b scope => Sys2Proof.Machine.execWakew a b scope s
  | .waitw d a b c order scope => Sys2Proof.Machine.execWaitw d a b c order scope s
  | .cpy src t cont acq => Sys2Proof.Machine.execCpy src t cont acq s
  | .ewait src => Sys2Proof.Machine.execEwait src s
  | .epoll src t => Sys2Proof.Machine.execEpoll src t s
  | .mma src t acc => Sys2Proof.Machine.execMma src t acc s
  | .mmas src t acc => Sys2Proof.Machine.execMmas src t acc s
  | .mmag src t acc => Sys2Proof.Machine.execMmag src t acc s
  | .mbatch t => Sys2Proof.Machine.execMbatch t s
  | .mwait src => Sys2Proof.Machine.execMwait src s
  | .gath src t acq resume => Sys2Proof.Machine.execGath src t acq resume s
  | .scat src t resume => Sys2Proof.Machine.execScat src t resume s
  | .scbegin src t => Sys2Proof.Machine.execScbegin src t s
  | .scprobe src t bf16 sp acq => Sys2Proof.Machine.execScprobe src t bf16 sp acq s
  | .scsave src t => Sys2Proof.Machine.execScsave src t s
  | .nredx src t scope => Sys2Proof.Machine.execNredx src t scope s
  | .promote up => Sys2Proof.Machine.execPromote up s
  | .trap n => Sys2Proof.Machine.execTrap n s
  | .bkpt n => Sys2Proof.Machine.execBkpt n s
  | .rte => Sys2Proof.Machine.execRte s
  | .rteEnd => Sys2Proof.Machine.execRteEnd s
  | .tsave src k => Sys2Proof.Machine.execTsave src k s
  | .tload d k => Sys2Proof.Machine.execTload d k s
  | .ctxsave c a => Sys2Proof.Machine.execCtxsave c a s
  | .ctxload c a => Sys2Proof.Machine.execCtxload c a s
  | .progress k => Sys2Proof.Machine.execProgress k s
  | .undefinedInstruction w => Sys2Proof.Machine.execUndefinedInstruction w s
  | .reservedMajor w => Sys2Proof.Machine.execReservedMajor w s
  | .clauseStart g => Sys2Proof.Machine.execClauseStart g s
  | .instructionCacheFill g => Sys2Proof.Machine.execInstructionCacheFill g s
  | .loadReturn g id => Sys2Proof.Machine.execLoadReturn g id s
  | .storeAccepted g id => Sys2Proof.Machine.execStoreAccepted g id s
  | .atomicReturn g id => Sys2Proof.Machine.execAtomicReturn g id s
  | .resultWrite g => Sys2Proof.Machine.execResultWrite g s
  | .releaseComplete g => Sys2Proof.Machine.execReleaseComplete g s
  | .icinvComplete g => Sys2Proof.Machine.execIcinvComplete g s
  | .promotionStart g => Sys2Proof.Machine.execPromotionStart g s
  | .promotionSwitchDone g => Sys2Proof.Machine.execPromotionSwitchDone g s
  | .demotionSwitchDone g => Sys2Proof.Machine.execDemotionSwitchDone g s
  | .barrierLaggardQualify g n => Sys2Proof.Machine.execBarrierLaggardQualify g n s
  | .barrierPhaseComplete team n => Sys2Proof.Machine.execBarrierPhaseComplete team n s
  | .barrierWake team n => Sys2Proof.Machine.execBarrierWake team n s
  | .groupRegistersReturn g => Sys2Proof.Machine.execGroupRegistersReturn g s
  | .teamEnd team => Sys2Proof.Machine.execTeamEnd team s
  | .cbitmapSet team => Sys2Proof.Machine.execCbitmapSet team s
  | .dispatcherTailRead q => Sys2Proof.Machine.execDispatcherTailRead q s
  | .launchRecordTake q => Sys2Proof.Machine.execLaunchRecordTake q s
  | .teamPlacement ctx => Sys2Proof.Machine.execTeamPlacement ctx s
  | .consumerRelease grid team => Sys2Proof.Machine.execConsumerRelease grid team s
  | .pinGrant g id line => Sys2Proof.Machine.execPinGrant g id line s
  | .accessRetryResend g id line => Sys2Proof.Machine.execAccessRetryResend g id line s
  | .recallComplete line => Sys2Proof.Machine.execRecallComplete line s
  | .l1LineFill g id line victim => Sys2Proof.Machine.execL1LineFill g id line victim s
  | .l2LineFill line victim => Sys2Proof.Machine.execL2LineFill line victim s
  | .pageWalkComplete g page => Sys2Proof.Machine.execPageWalkComplete g page s
  | .faultRecordAnswer ctx seq => Sys2Proof.Machine.execFaultRecordAnswer ctx seq s
  | .invalidateRange ctx => Sys2Proof.Machine.execInvalidateRange ctx s
  | .invalidateRangeDone ctx => Sys2Proof.Machine.execInvalidateRangeDone ctx s
  | .compact ctx => Sys2Proof.Machine.execCompact ctx s
  | .compactDone ctx => Sys2Proof.Machine.execCompactDone ctx s
  | .translationRequestFail ctx => Sys2Proof.Machine.execTranslationRequestFail ctx s
  | .commandIssueResume g => Sys2Proof.Machine.execCommandIssueResume g s
  | .sourceReadDone cmd => Sys2Proof.Machine.execSourceReadDone cmd s
  | .copyEngineTake core => Sys2Proof.Machine.execCopyEngineTake core s
  | .cpyComplete cmd => Sys2Proof.Machine.execCpyComplete cmd s
  | .enginePageFault cmd => Sys2Proof.Machine.execEnginePageFault cmd s
  | .engineFailure cmd => Sys2Proof.Machine.execEngineFailure cmd s
  | .matrixEngineTake core => Sys2Proof.Machine.execMatrixEngineTake core s
  | .matrixCommandComplete cmd => Sys2Proof.Machine.execMatrixCommandComplete cmd s
  | .gatherScatterComplete cmd => Sys2Proof.Machine.execGatherScatterComplete cmd s
  | .scsaveStart cmd => Sys2Proof.Machine.execScsaveStart cmd s
  | .scsaveComplete cmd => Sys2Proof.Machine.execScsaveComplete cmd s
  | .scprobeComplete cmd => Sys2Proof.Machine.execScprobeComplete cmd s
  | .partialMerge src => Sys2Proof.Machine.execPartialMerge src s
  | .roundResultSend slot => Sys2Proof.Machine.execRoundResultSend slot s
  | .nredxComplete cmd => Sys2Proof.Machine.execNredxComplete cmd s
  | .messageDelivery core q msg => Sys2Proof.Machine.execMessageDelivery core q msg s
  | .wakeDelivery core => Sys2Proof.Machine.execWakeDelivery core s
  | .waitwTimeout g => Sys2Proof.Machine.execWaitwTimeout g s
  | .routerPowerDown r => Sys2Proof.Machine.execRouterPowerDown r s
  | .routerWake r => Sys2Proof.Machine.execRouterWake r s
  | .faultRecordRelease ctx => Sys2Proof.Machine.execFaultRecordRelease ctx s
  | .eventRecordRelease ctx => Sys2Proof.Machine.execEventRecordRelease ctx s
  | .forcedSave team steps => Sys2Proof.Machine.execForcedSave team steps s
  | .preemptStatusWrite ctx => Sys2Proof.Machine.execPreemptStatusWrite ctx s
  | .teamRestore ctx => Sys2Proof.Machine.execTeamRestore ctx s
  | .tiadeRead p => Sys2Proof.Machine.execTiadeRead p s
  | .tiadeWrite p => Sys2Proof.Machine.execTiadeWrite p s
  | .tiadeAtomic p => Sys2Proof.Machine.execTiadeAtomic p s
  | .tiadeFrameDrop f => Sys2Proof.Machine.execTiadeFrameDrop f s
  | .createContext p => Sys2Proof.Machine.execCreateContext p s
  | .destroyContext p => Sys2Proof.Machine.execDestroyContext p s
  | .setStep p => Sys2Proof.Machine.execSetStep p s
  | .preemptContext p => Sys2Proof.Machine.execPreemptContext p s
  | .resumeContext p => Sys2Proof.Machine.execResumeContext p s
  | .registerWindow p => Sys2Proof.Machine.execRegisterWindow p s
  | .removeWindow p => Sys2Proof.Machine.execRemoveWindow p s
  | .registerLaunchQueueTable p => Sys2Proof.Machine.execRegisterLaunchQueueTable p s
  | .harvestRecord p => Sys2Proof.Machine.execHarvestRecord p s
  | .rosterRecord p => Sys2Proof.Machine.execRosterRecord p s
  | .getVersion p => Sys2Proof.Machine.execGetVersion p s
  | .getCapabilities p => Sys2Proof.Machine.execGetCapabilities p s
  | .negotiateAlgorithms p => Sys2Proof.Machine.execNegotiateAlgorithms p s
  | .getMeasurements p => Sys2Proof.Machine.execGetMeasurements p s
  | .vendorHarvestRequest p => Sys2Proof.Machine.execVendorHarvestRequest p s
  | .vendorRosterRequest p => Sys2Proof.Machine.execVendorRosterRequest p s
  | .spdmUnsupportedRequest p => Sys2Proof.Machine.execSpdmUnsupportedRequest p s
  | .linkAuthentication port nonce peerNonce peerKey peerSig => Sys2Proof.Machine.execLinkAuthentication port nonce peerNonce peerKey peerSig s
  | .linkAuthRetry port => Sys2Proof.Machine.execLinkAuthRetry port s
  | .peerAccess r => Sys2Proof.Machine.execPeerAccess r s
  | .peerAck dev seq ok data => Sys2Proof.Machine.execPeerAck dev seq ok data s
  | .linkFailure port => Sys2Proof.Machine.execLinkFailure port s
  | .peerPathTimeout dev => Sys2Proof.Machine.execPeerPathTimeout dev s
  | .sample core => Sys2Proof.Machine.execSample core s
  | .trialDelayExpire g => Sys2Proof.Machine.execTrialDelayExpire g s
  | .chunkCommit g => Sys2Proof.Machine.execChunkCommit g s
  | .powerLimit w host => Sys2Proof.Machine.execPowerLimit w host s
  | .coreClock w host => Sys2Proof.Machine.execCoreClock w host s
  | .routerPowerDownControl w host => Sys2Proof.Machine.execRouterPowerDownControl w host s
  | .hostPortControl w host => Sys2Proof.Machine.execHostPortControl w host s
  | .peerPortsControl w host => Sys2Proof.Machine.execPeerPortsControl w host s
  | .samplingControl w host => Sys2Proof.Machine.execSamplingControl w host s
  | .reuseHistogramControl w host => Sys2Proof.Machine.execReuseHistogramControl w host s
  | .causalTrialControl w host => Sys2Proof.Machine.execCausalTrialControl w host s
  | .replayControl w host => Sys2Proof.Machine.execReplayControl w host s
  | .expertBlockWrite fn idx w => Sys2Proof.Machine.execExpertBlockWrite fn idx w s
  | .controlApply fn => Sys2Proof.Machine.execControlApply fn s
  | .bootRecordClear => Sys2Proof.Machine.execBootRecordClear s
  | .moduleReset failures => Sys2Proof.Machine.execModuleReset failures s
  | .coreFailure core => Sys2Proof.Machine.execCoreFailure core s
  | .clockStepDown => Sys2Proof.Machine.execClockStepDown s
  | .coolantFlowLost => Sys2Proof.Machine.execCoolantFlowLost s
  | .coolantFlowRestored => Sys2Proof.Machine.execCoolantFlowRestored s
  | .flitCrcError port => Sys2Proof.Machine.execFlitCrcError port s

end Sys2Proof.Machine
end

