-- ==== Sys2Proof/Machine/Schedule.lean ====
section
/-! DEFINITION. What moves the machine on: clocks (R3, R371), and the order in which a state with no turns listed takes
the steps of its own units. -/

namespace Sys2Proof.Machine

/-! ### Clocks -/

/-- Clocks pass: n on every unit, and more on single cores, for the cores' clocks stand in no fixed relation (R3).
DESIGN CHOICE, log entry 56. -/
def State.tick (s : State) (n : Nat) (ticks : List (Nat × Nat)) : State :=
  let s : State :=
    if n = 0 then s
    else
      { s.reuseTick with
        clock := s.clock + n
        contexts := s.reuseTick.contexts.mapVals fun _ c => { c with harvestWas := c.harvest } }
  (ticks.foldl (fun s p => s.modCore p.1 fun c => { c with ahead := c.ahead + p.2 }) s).touchRouters

/-! ### The steps that units take of themselves -/

/-- The state that an event leads to, where its conditions hold. -/
def took (o : Host.Outcome State Fault Refusal) : Option State :=
  match o with
  | .next s => some s
  | _ => none

/-- The first of some attempts that succeeds. -/
def firstOk {α : Type} (f : α → Option State) : List α → Option State
  | [] => none
  | x :: xs =>
    match f x with
    | some s => some s
    | none => firstOk f xs

/-- Tries one attempt, and another if it fails. -/
def orElse (a : Option State) (b : Unit → Option State) : Option State :=
  match a with
  | some s => some s
  | none => b ()

/-- What the memory system may do next for an access in flight. -/
def State.accessMove (s : State) (k : Nat) (a : Access) : Option State :=
  let ls := a.lines.map (·.1)
  orElse (took (execLoadReturn k a.id s)) fun _ =>
  orElse (took (execStoreAccepted k a.id s)) fun _ =>
  orElse (took (execAtomicReturn k a.id s)) fun _ =>
  orElse (firstOk (fun l => took (execL2LineFill l none s)) ls) fun _ =>
  orElse (firstOk (fun l => took (execPinGrant k a.id l s)) ls) fun _ =>
  orElse (firstOk (fun l => took (execL1LineFill k a.id l none s)) ls) fun _ =>
  orElse (firstOk (fun l => took (execRecallComplete l s)) ls) fun _ =>
    firstOk (fun l => took (execAccessRetryResend k a.id l s)) ls

/-- What a group's own machinery may do next. -/
def State.groupMove (s : State) (k : Nat) (g : Group) : Option State :=
  orElse (took (execResultWrite k s)) fun _ =>
  orElse (firstOk (fun r =>
    orElse (took (execLoadReturn k r.id s)) fun _ =>
    orElse (took (execStoreAccepted k r.id s)) fun _ => took (execAtomicReturn k r.id s)) g.results) fun _ =>
  orElse (firstOk (s.accessMove k) g.accesses) fun _ =>
  orElse (match g.wait with
    | .walk ps => firstOk (fun p => took (execPageWalkComplete k p s)) ps
    | .fetch _ => took (execInstructionCacheFill k s)
    | .release _ => took (execReleaseComplete k s)
    | .icinv _ _ _ => took (execIcinvComplete k s)
    | .word _ _ _ => took (execWaitwTimeout k s)
    | .command _ _ => took (execCommandIssueResume k s)
    | _ => none) fun _ =>
  orElse (took (execPromotionSwitchDone k s)) fun _ =>
  orElse (took (execDemotionSwitchDone k s)) fun _ =>
  orElse (took (execTrialDelayExpire k s)) fun _ =>
  orElse (took (execChunkCommit k s)) fun _ =>
  orElse (took (execPromotionStart k s)) fun _ =>
  orElse (took (execGroupRegistersReturn k s)) fun _ =>
  orElse (took (execClauseStart k s)) fun _ => took (execInstructionCacheFill k s)

/-- What an engine may do next for a command. -/
def State.cmdMove (s : State) (id : Nat) (c : Cmd) : Option State :=
  orElse (took (execSourceReadDone id s)) fun _ =>
  orElse (took (execCpyComplete id s)) fun _ =>
  orElse (took (execMatrixCommandComplete id s)) fun _ =>
  orElse (took (execGatherScatterComplete id s)) fun _ =>
  orElse (took (execScsaveStart id s)) fun _ =>
  orElse (took (execScsaveComplete id s)) fun _ =>
  orElse (took (execScprobeComplete id s)) fun _ =>
  orElse (took (execPartialMerge (.command id) s)) fun _ =>
  orElse (took (execNredxComplete id s)) fun _ =>
  orElse (took (execEngineFailure id s)) fun _ =>
  orElse (took (execEnginePageFault id s)) fun _ =>
  orElse (took (execCopyEngineTake c.core s)) fun _ =>
  orElse (took (execMatrixEngineTake c.core s)) fun _ => s.enginePause id

/-- What the dispatcher may do next for a team. -/
def State.teamMove (s : State) (id : Nat) : Option State :=
  orElse (firstOk (fun n =>
    orElse (took (execBarrierPhaseComplete id n s)) fun _ => took (execBarrierWake id n s)) (List.range 20)) fun _ =>
  orElse (took (execTeamEnd id s)) fun _ => took (execCbitmapSet id s)

/-- What the device may do next for a context. -/
def State.contextMove (s : State) (ctx : Nat) (c : Context) : Option State :=
  orElse (firstOk (fun r => took (execFaultRecordAnswer ctx r.1 s)) c.records) fun _ =>
  orElse (took (execFaultRecordRelease ctx s)) fun _ =>
  orElse (took (execEventRecordRelease ctx s)) fun _ =>
  orElse (took (execInvalidateRange ctx s)) fun _ =>
  orElse (took (execInvalidateRangeDone ctx s)) fun _ =>
  orElse (took (execCompact ctx s)) fun _ =>
  orElse (took (execCompactDone ctx s)) fun _ =>
  orElse (took (execTranslationRequestFail ctx s)) fun _ =>
  orElse (took (execTeamRestore ctx s)) fun _ => took (execTeamPlacement ctx s)

/-- A core whose sample is due (R358). -/
def State.sampler (s : State) : Option Nat := ((s.cores.filter fun p => (took (execSample p.1 s)).isSome).map (·.1)).head?

/-- The first step that some unit of the device may take of itself, in a fixed order. -/
def State.ownMove (s : State) : Option State :=
  orElse (firstOk (fun p => s.groupMove p.1 p.2) s.groups) fun _ =>
  orElse (firstOk (fun p => took (execRecallComplete p.1 s)) s.pins) fun _ =>
  orElse (firstOk (fun p => s.teamMove p.1) s.teams) fun _ =>
  orElse (firstOk (fun w => took (execWakeDelivery w.core s)) s.wakes) fun _ =>
  orElse (firstOk (fun p => s.cmdMove p.1 p.2) s.cmds) fun _ =>
  orElse (firstOk (fun p =>
    orElse (took (execRoundResultSend p.1 s)) fun _ => took (execPartialMerge (.held p.1) s)) s.rounds) fun _ =>
  orElse (firstOk (fun m => took (execMessageDelivery m.toCore m.queue m.id s)) s.messages) fun _ =>
  orElse (firstOk (fun p => s.contextMove p.1 p.2) s.contexts) fun _ =>
  orElse (firstOk (fun p =>
    if p.2.launch.dep then firstOk (fun t => took (execConsumerRelease p.1 t s)) (List.range p.2.launch.teams) else none)
    s.grids) fun _ =>
  orElse (firstOk (fun r => took (execPreemptStatusWrite r.target s)) s.requests) fun _ =>
  orElse (firstOk (fun p => took (execForcedSave p.1 0 s)) s.teams) fun _ =>
  orElse (firstOk (fun q => took (execDispatcherTailRead q s)) (List.range 16)) fun _ =>
  orElse (firstOk (fun q => took (execLaunchRecordTake q s)) (List.range 16)) fun _ =>
  orElse (firstOk (fun p => took (execLinkAuthRetry p.1 s)) s.ports) fun _ =>
  orElse (firstOk (fun r => took (execRouterWake r s)) s.busyRouters) fun _ =>
  orElse (firstOk (fun p => took (execControlApply p.1 s)) s.controls) fun _ =>
    firstOk (fun r => took (execRouterPowerDown r s)) (List.range 24)

end Sys2Proof.Machine
end

