-- ==== Sys2Proof/Machine/Select.lean ====
section
/-! DEFINITION. Which group may issue: the order of the herd engine within a clock (R156, R157), and the chunks of a
logging or replaying context (R361, R362). -/

namespace Sys2Proof.Machine

/-- Whether the next instruction of a group does what others may see: its chunk comes to bar them (R361). -/
def Group.acts (g : Group) : Bool := effect g.instr && !g.chunkPaid

/-- Whether a group must let others go first: one whose open chunk bars it, and in a replay, before it does what others may
see, those that the log names before it (R361, R362). DEDUCED, log entry 46. -/
def State.chunkBars (s : State) (k : Nat) : Bool :=
  let g := s.group k
  s.chunkOpen g.ctx (some k) ||
    (g.acts && match (s.context g.ctx).observe.next with
      | none => false
      | some r => r.agent != 0 || 48 * r.core + r.slot != k)

/-- In a logging or replaying context a group's chunk opens with its first instruction, and is firm from the first one on that
does what others may see (R361). -/
def State.openChunk (s : State) (k : Nat) : State :=
  let g := s.group k
  if (s.context g.ctx).observe.mode = 0 || g.chunkPaid then s
  else
    let c := if g.chunk = 0 then { start := g } else (s.chunks.find? k).getD { start := g }
    { s with chunks := s.chunks.put k { c with firm := c.firm || g.acts } }

/-- Whether a group's chunk runs again in place of the next instruction, which would make it firm (R361). -/
def State.squashes (s : State) (k : Nat) : Bool :=
  (s.context (s.group k).ctx).observe.mode != 0 && (s.group k).acts && s.chunkStale k

/-- What an issue has added to the harvest counters belongs to the group's open chunk (R337, R361). s is the state before
the issue, t that after it. -/
def State.noteCounts (s t : State) (k : Nat) : State :=
  if (t.chunks.find? k).isNone then t
  else
    let old := (s.context (s.group k).ctx).harvest
    let new := (t.context (s.group k).ctx).harvest
    { t with
      chunks := t.chunks.modify k fun c =>
        { c with counts := new.foldl (fun (m : AMap Nat) (p : Nat × Nat) => m.set 0 p.1 (m.get 0 p.1 + (p.2 - old.get 0 p.1))) c.counts } }

/-- A group that waits inside the instruction which ends its chunk for what other chunks bring: the chunk commits before
that wait is over (R361). DEDUCED, log entry 46. -/
def Group.paysChunk (g : Group) : Group :=
  let waits : Bool := match g.wait with
    | .barrier _ => g.atBarrier
    | .ticket _ _ => true
    | .batch _ => true
    | .message _ _ => true
    | _ => false
  if waits && !g.chunkPaid then { g with chunk := g.chunk + 1, chunkEnd := some 1, chunkPaid := true } else g

/-- Whether a group may issue its next instruction now, but for the turns of others. -/
def State.mayIssue (s : State) (k : Nat) : Bool := s.mayRun k && (s.group k).started && !s.chunkBars k

/-- Whether an issue would take a group on: its next instruction is ready (R157). -/
def State.wouldIssue (s : State) (k : Nat) : Bool :=
  s.mayIssue k && (s.group k).wait == .none && (match exec (s.group k).instr { s with cur := k, err := .none } with
    | .next t => t.group k != s.group k
    | _ => false)

/-- The ports of a kind that a core has (R156). -/
def portsOf (port : Nat) : Nat := if port = 0 then 4 else 2

/-- Whether a group's last issue is older than another's; one that has never issued is the oldest, and the lower slot
goes first (R157). -/
def older (a b : Nat × Group) : Bool :=
  match a.2.lastIssue, b.2.lastIssue with
  | none, none => a.1 < b.1
  | none, some _ => true
  | some _, none => false
  | some x, some y => x < y || (x == y && a.1 < b.1)

/-- Whether the herd engine gives a group a port in this clock: the group has not issued in it, a port of the kind is left
by those that have, one that has halted in it among them, and no ready group that the port serves has an older last issue.
An instruction that issued before it waited needs no port again, and the sprinter engine's groups are not of this order
(R157, R158). DEDUCED, log entry 107. -/
def State.selects (s : State) (k : Nat) : Bool :=
  let g := s.group k
  if g.engine == .sprinter || g.issued then true
  else
    let now := s.cycle k
    let others := s.groups.filter fun p => coreOf p.1 == coreOf k && p.1 != k && p.2.resident && p.2.engine != .sprinter
    g.lastIssue != some now &&
      (others.filter fun p => p.2.lastIssue == some now && p.2.lastPort == g.port).length < portsOf g.port &&
      !(others.any fun p =>
        p.2.lastIssue != some now && !p.2.issued && p.2.port == g.port && older p (k, g) && s.wouldIssue p.1)

/-- Whether a group that waits so issues its instruction anew once it may go on: the others have issued it (R157, R214,
R291, R292). DEDUCED, log entry 107. -/
def Wait.reissues : Wait → Bool
  | .records _ _ _ => true
  | .sideLog => true
  | .command _ _ => true
  | _ => false

/-- What an issue has come to beside the instruction's own effect: one that waits at its place has issued, in this clock and
through its port (R157), and of an ended grid a group that has come to wait as R295 lists stops (R289). s is the
state before the issue, t that after it. -/
def State.afterIssue (s t : State) (k : Nat) : State :=
  let g := s.group k
  let h := t.group k
  let here := h.started && h.pc == g.pc && h.word == g.word
  let t :=
    if here && h.wait.reissues then t.setGroup k { h with issued := false }
    else if here && !h.issued && (h.wait != .none || h.waitAccess.isSome) then
      t.setGroup k { h.issues (s.cycle k) g.port with issued := true }
    else t
  let t := if (s.context g.ctx).observe.mode = 0 then t else (s.noteCounts t k).modGroup k Group.paysChunk
  t.stopEnded k

/-- Whether an interlock holds a group: its next instruction would go on but for registers of it that are still to be written
(R58, R358). -/
def State.interlocked (s : State) (k : Nat) : Bool :=
  let free (g : Group) : Group :=
    { g with
      results := g.results.map fun r => { r with writes := [] }, accesses := g.accesses.map fun a => { a with dest := .none } }
  !s.wouldIssue k && (s.modGroup k free).wouldIssue k

/-- Before a sample: whether an interlock holds the group that the core takes (R358). -/
def State.noteInterlock (s : State) (core : Nat) : State :=
  { s with interlock := ((s.sampled core).map s.interlocked).getD false }

/-- The core that a step samples, if it is a sample. -/
def sampledCore : Instr → Option Nat
  | .sample core => some core
  | _ => none

/-- A group that goes on with an instruction which issued before it waited. -/
def State.nextIssued (s : State) : Option Nat :=
  ((s.groups.filter fun p => p.2.issued && s.wouldIssue p.1).map (·.1)).head?

/-- The group whose last issue is oldest among those that their engines select in this clock, that have not issued in it, and
whose next instruction is ready. -/
def State.nextGroup (s : State) : Option Nat :=
  ((s.groups.filter fun p =>
    p.2.lastIssue != some (s.cycle p.1) && s.selects p.1 && s.wouldIssue p.1).foldl (fun b p =>
    match b with
    | none => some p
    | some q => if older p q then some p else some q) none).map (·.1)

end Sys2Proof.Machine
end

