-- ==== Sys2Proof/Machine/Step.lean ====
section
/-! DEFINITION. The step of the device: the next turn of the schedule, or with none listed a step that a unit takes of
itself, else an instruction of the next group. -/

namespace Sys2Proof.Machine

/-- The state after a turn: the soft error that it met is past, and the routers hold what it has put on its way (R318). -/
def settled (o : Host.Outcome State Fault Refusal) : Host.Outcome State Fault Refusal :=
  match o with
  | .next s => .next { s.touchRouters with err := .none, interlock := false }
  | x => x

/-- The outcome of an issue from a state, with what the issue comes to beside the instruction's effect. -/
def issued (k : Nat) (s : State) (o : Host.Outcome State Fault Refusal) : Host.Outcome State Fault Refusal :=
  match o with
  | .next t => .next (s.afterIssue t k)
  | x => x

/-- A group issues the instruction at its place in its clause, where its engine gives it a port, or runs its chunk again. A
correction is counted on its core; an uncorrectable error ends its grid: of a word of a scratchpad or queue with its address,
of a register with none (R368). One in a line of memory lies with the access that meets it, and an issue makes none. -/
def issue (k : Nat) (s : State) : Host.Outcome State Fault Refusal :=
  if !s.mayIssue k || !s.selects k then .refused (.notEnabled "issue")
  else if s.squashes k then .next (s.squash k)
  else
    let s := s.openChunk k
    match s.err with
    | .corrected =>
      issued k s (exec (s.group k).instr
        ({ s with cur := k }.countEvent (coreOf k) fun e => { e with corrections := e.corrections + 1 }))
    | .register => .next (s.errorEnd k 0)
    | .word va => .next (s.errorEnd k va)
    | _ => issued k s (exec (s.group k).instr { s with cur := k })

/-- A unit takes the step that an event of the table names. -/
def happen (i : Instr) (s : State) : Host.Outcome State Fault Refusal :=
  if i.size != 0 then .refused .notAnEvent
  else
    let s := if s.err = .corrected then { s with dieCorrections := s.dieCorrections + 1 } else s
    exec i (match sampledCore i with
      | some core => s.noteInterlock core
      | none => s)

/-- Carries out the act of a turn. -/
def act (a : Act) (s : State) : Host.Outcome State Fault Refusal :=
  match a with
  | .issue k => issue k s
  | .event i => happen i s
  | .engine cmd n => event "engine" (s.engineStep cmd n)
  | .dma at_ n data => .next (s.firmwareAccess at_ n data)

/-- A turn of the schedule: clocks pass, then the act. While the module is off, the clearing of the boot record alone
has an effect (R365). -/
def takeTurn (t : Turn) (s : State) : Host.Outcome State Fault Refusal :=
  if s.off && t.act != .event .bootRecordClear then .fault .moduleOff
  else settled (act t.act { s.tick t.dt t.ticks with err := t.err })

/-- A state with no turns listed: what a unit does of itself comes first, at once, and then an instruction that goes on after
its wait; then the groups that their engines select in this clock, one after another; when none is left a clock passes.
DESIGN CHOICE, log entry 4. -/
def ownStep (s : State) : Host.Outcome State Fault Refusal :=
  if s.off then .fault .moduleOff
  else match s.ownMove with
    | some t => .next t.touchRouters
    | none =>
      match s.sampler, s.nextIssued with
      | some c, _ => settled (execSample c (s.noteInterlock c))
      | none, some k => settled (issue k s)
      | none, none =>
        match s.nextGroup with
        | some k => settled (issue k s)
        | none => .next (s.tick 1 [])

/-- One step of the device. -/
def step (s : State) : Host.Outcome State Fault Refusal :=
  match s.turns with
  | t :: ts => takeTurn t { s with turns := ts }
  | [] => ownStep s

/-! ### An instruction where the next step fetches -/

/-- The class of a clause that may hold a word's major (R53). -/
def classOf (w : Word) : Nat :=
  let m := (major w).toNat
  if 0x30 ≤ m && m ≤ 0x32 then 2 else if 0x2A ≤ m && m ≤ 0x2E then 1 else 0

/-- The header of a clause of n words of a class that waits for no counter (R50). -/
def headerOf (cls n : Nat) : Word := BitVec.ofNat 32 (0xA0000000 + 64 * cls + n)

/-- The launch record of the loaded program: one team of one whole group. -/
def loadedLaunch : Launch :=
  { grid := 1, entry := 0x600000, vregs := 128, extent := 96, priv := 48, scratch := 524160 }

/-- The context of the loaded program: one page of 1.5 GiB, mapped to itself. -/
def loadedContext (cluster : Nat) : Context :=
  { clusters := BitVec.ofNat 64 (2 ^ cluster), ptroot := 0x40000000, pvbase := 24576 * 4096, tbase := 0x500000
    preemptLimit := 0x1000000 }

/-- The page table of the loaded program: a root entry and a leaf that maps 1.5 GiB with every permission (R186). -/
def loadedTable : AMap Byte :=
  putBytes (putBytes [] 0x40000000 (leBytes 8 (1 + 2 ^ 16 * (0x40200000 / 2048)))) 0x40200000 (leBytes 8 0x3B)

/-- Loads a program from outside the machine into a group slot that holds none: a context, a grid, a gang, a team and
the group as at its launch. -/
def State.loadGroup (s : State) (k : Nat) : State :=
  let c := loadedContext (coreOf k / 4)
  { s with
    fresh := s.fresh + 10, contexts := s.contexts.put 1 c, mem := loadedTable.foldl (fun m p => m.set 0 p.1 p.2) s.mem
    grids := s.grids.put 1 { ctx := 1, queue := 0, prio := 0, launch := loadedLaunch, placed := [0] }
    gangs := s.gangs.put 1 { grid := 1, teams := [1] }
    teams := s.teams.put 1
      { ctx := 1, grid := 1, index := 0, gang := 1, core := coreOf k, slots := [slotOf k], block := 0, blocks := 16
        scratchBase := 0, scratch := 524160, vregs := 128, priv := 48 }
    groups := s.groups.put k (launchGroup c 1 1 1 k loadedLaunch 0 0 0) }

/-- The state with an instruction where the next step fetches: in memory at the PC of the present group, which is
loaded first if its slot holds none, and in the clause that the group has started. DESIGN CHOICE, log entry 3. -/
def State.withFetchWord (s : State) (_nbits w : Nat) : State :=
  let k := s.cur
  let s := if (s.group k).resident && !(s.group k).halted then s else s.loadGroup k
  let g := s.group k
  let w0 := BitVec.ofNat 32 w
  let words := if twoWords w0 then [w0, BitVec.ofNat 32 (w / 2 ^ 32)] else [w0]
  let h := headerOf (classOf w0) words.length
  let mem := match s.keyOf g.ctx g.pc.toNat false with
    | some key => putBytes s.mem key (wordsBytes (h :: words))
    | none => s.mem
  { s.setGroup k { g with clause := some ⟨g.pc, h, words⟩, word := 0, started := true, wait := .none, lastIssue := none, issued := false } with
    mem := mem, turns := [{ act := .issue k }] }

end Sys2Proof.Machine
end

