-- ==== Sys2Proof/Machine/Utril.lean ====
section
/-! DEFINITION. Utril, the portable instruction set: its binary form, the instructions and what a module is
rejected for (R131 to R134, R138). The loader that translates a kernel stands in Machine/UtrilLoader.lean. -/

namespace Sys2Proof.Utril

/-- The instructions of R134. -/
inductive Op where
  | lit | mov | add | sub | mul | fma | div | min | max | cvt | cmp | sel | kand | kor | kandn
  | lane | width | bind | ld | st | addx | mulx | dwadd | redsum | brz | brnz | bany | bnone
  | jmp | exit | sys
  deriving DecidableEq, Repr

/-- The types of R131. -/
inductive Ty where
  | i32 | n32 | f32 | f16 | dw
  deriving DecidableEq, Repr

/-- What a 16-bit register field names (R131, R133). -/
inductive Reg where
  | val (n : Nat)
  | uni (n : Nat)
  | mask (n : Nat)
  | base (n : Nat)
  | none
  deriving DecidableEq, Repr

/-- One Utril instruction: the fields of its three words (R133). -/
structure Code where
  op : Op
  k : Nat
  ty : Ty
  d : Reg
  a : Reg
  b : Reg
  c : Reg
  lit : Word
  mod : Nat
  deriving DecidableEq, Repr

/-- Why a module is rejected (R138). -/
inductive Reason where
  /-- The image is none of R132. -/
  | image
  /-- An opcode, mask, type, register or operand kind outside R133 and R134. -/
  | encoding
  /-- A branch whose target lies outside the kernel. -/
  | target
  /-- A write to k0. -/
  | writesK0
  /-- A dw operand that is odd. -/
  | oddPair
  /-- The values of one instruction cannot be held, even with spilling. -/
  | registers
  /-- A budget that is no multiple of 8 from 16 to 128 (R136). -/
  | budget
  deriving DecidableEq, Repr

/-- The report of R138: the kernel and the index of the offending instruction, where there is one. -/
structure Report where
  kernel : List Byte
  index : Option Nat
  reason : Reason
  deriving DecidableEq, Repr

/-- A Utril kernel as its table entry and its code give it (R132). -/
structure Kernel where
  name : List Byte
  params : Nat
  code : List Code
  deriving DecidableEq, Repr

/-- The opcodes, from 0x01 on in the order of R134. -/
def ops : List Op :=
  [.lit, .mov, .add, .sub, .mul, .fma, .div, .min, .max, .cvt, .cmp, .sel, .kand, .kor, .kandn, .lane, .width,
   .bind, .ld, .st, .addx, .mulx, .dwadd, .redsum, .brz, .brnz, .bany, .bnone, .jmp, .exit, .sys]

/-- The type of a code of R133. -/
def tyOf : Nat → Option Ty
  | 1 => some .i32
  | 2 => some .n32
  | 3 => some .f32
  | 5 => some .f16
  | 11 => some .dw
  | _ => none

/-- The register of a 16-bit field (R133). -/
def regOf (f : Nat) : Option Reg :=
  if f < 0x1000 then some (.val f)
  else if f ≤ 0x1006 then some (.uni (f - 0x1000))
  else if 0x2000 ≤ f ∧ f ≤ 0x200E then some (.mask (f - 0x2000))
  else if 0x3000 ≤ f ∧ f ≤ 0x3003 then some (.base (f - 0x3000))
  else if f = 0xFFFF then some .none
  else none

/-- The instructions whose w2 is a literal, a displacement or an offset (R133, R134). -/
def Op.literal (o : Op) : Bool :=
  o ∈ [Op.lit, .bind, .brz, .brnz, .bany, .bnone, .jmp, .sys]

/-- The instruction of three words (R133). -/
def codeOf (w0 w1 w2 : Word) : Option Code := do
  let op ← if 0x01 ≤ w0.toNat / 2 ^ 24 then ops[w0.toNat / 2 ^ 24 - 1]? else none
  let k := w0.toNat / 2 ^ 20 % 16
  let ty ← tyOf (w0.toNat / 2 ^ 16 % 16)
  let d ← regOf (w0.toNat % 2 ^ 16)
  let a ← regOf (w1.toNat / 2 ^ 16)
  let b ← regOf (w1.toNat % 2 ^ 16)
  let c ← if op.literal then some Reg.none else regOf (w2.toNat / 2 ^ 16)
  if k = 15 then none
  else some ⟨op, k, ty, d, a, b, c, if op.literal then w2 else 0, if op.literal then 0 else w2.toNat % 2 ^ 16⟩

/-! ### Operand kinds -/

/-- The kinds of operand an instruction's place takes. -/
inductive Kind where
  | absent | val | uni | valOrUni | mask | newMask | base | valPair | uniPair | valOrUniPair
  deriving DecidableEq, Repr

/-- What an operand is rejected for at a place of kind k, if for anything. The field of a place that the instruction does
not have holds 0xFFFF, or zero as in the words of ADD that 07 prints. DEDUCED, log entry 80. -/
def Kind.fault (k : Kind) (r : Reg) : Option Reason :=
  match k, r with
  | .absent, .val 0 | .absent, .none | .val, .val _ | .uni, .uni _ | .valOrUni, .val _ | .valOrUni, .uni _ | .mask, .mask _
  | .base, .base _ => none
  | .newMask, .mask n => if n = 0 then some .writesK0 else none
  | .valPair, .val n => if n % 2 = 0 then none else some .oddPair
  | .valOrUniPair, .val n => if n % 2 = 0 then none else some .oddPair
  | .uniPair, .uni n | .valOrUniPair, .uni n =>
    if n % 2 = 1 then some .oddPair else if n < 6 then none else some .encoding
  | _, _ => some .encoding

/-- The kinds of the places d, a, b and c, for the types an instruction has a native form for (R134). The
second operand is uniform only where the native form takes a scalar there. DEDUCED, log entry 80. -/
def kinds (o : Op) (ty : Ty) (uniformDest : Bool) : Option (Kind × Kind × Kind × Kind) :=
  match o, ty with
  | .lit, .dw | .cvt, .dw | .ld, .dw | .st, .dw | .lane, .dw | .width, .dw | .sys, .dw => none
  | .mov, .dw => some (if uniformDest then .uniPair else .valPair, if uniformDest then .uniPair else .valOrUniPair,
      .absent, .absent)
  | .sel, .dw => some (.valPair, .valPair, .valOrUniPair, .mask)
  | .lit, _ => some (.valOrUni, .absent, .absent, .absent)
  | .mov, _ => some (.valOrUni, if uniformDest then .uni else .valOrUni, .absent, .absent)
  | .sub, .f16 | .div, .f16 => some (.val, .val, .val, .absent)
  | .add, .dw | .sub, .dw | .mul, .dw | .fma, .dw | .div, .dw | .min, .dw | .max, .dw | .cmp, .dw => none
  | .add, _ | .sub, _ | .mul, _ => some (.val, .val, .valOrUni, .absent)
  | .fma, _ => some (.val, .val, .valOrUni, .val)
  | .div, .f32 => some (.val, .val, .valOrUni, .absent)
  | .div, _ => none
  | .min, .f16 | .max, .f16 | .cmp, .f16 => none
  | .min, _ | .max, _ => some (.val, .val, .valOrUni, .absent)
  | .cvt, _ => some (.val, .val, .absent, .absent)
  | .cmp, _ => some (.newMask, .val, .valOrUni, .absent)
  | .sel, _ => some (.val, .val, .valOrUni, .mask)
  | .kand, _ | .kor, _ | .kandn, _ => some (.newMask, .mask, .mask, .absent)
  | .lane, _ => some (.val, .absent, .absent, .absent)
  | .width, _ => some (.valOrUni, .absent, .absent, .absent)
  | .bind, _ => some (.base, .absent, .absent, .absent)
  | .ld, _ | .st, _ => some (.val, .base, .val, .absent)
  | .addx, .dw | .mulx, .dw => some (.valPair, .val, .valOrUni, .absent)
  | .dwadd, .dw => some (.valPair, .valPair, .valOrUniPair, .absent)
  | .redsum, .dw => some (.uniPair, .valPair, .absent, .absent)
  | .addx, _ | .mulx, _ | .dwadd, _ | .redsum, _ => none
  | .brz, _ | .brnz, _ => some (.absent, .uni, .absent, .absent)
  | .bany, _ | .bnone, _ | .jmp, _ | .exit, _ => some (.absent, .absent, .absent, .absent)
  | .sys, _ => some (.uni, .absent, .absent, .absent)

/-- What mod or the literal is rejected for: a source type, a condition, an offset or a number out of range. -/
def Code.modFault (u : Code) : Bool :=
  match u.op with
  | .cvt => match tyOf u.mod with
    | some .dw | none => true
    | some t => t = u.ty
  | .cmp => (if u.ty = .f32 then 8 else 6) ≤ u.mod
  | .bind => u.lit.toNat % 8 ≠ 0 || 512 ≤ u.lit.toNat
  | .sys => 4 < u.lit.toNat
  | _ => false

/-- The branches (R134). -/
def Op.branch (o : Op) : Bool := o ∈ [Op.brz, .brnz, .bany, .bnone, .jmp]

/-- Where the branch at index i goes: w2 counts instructions from the branch itself (R133). -/
def Code.target (u : Code) (i : Nat) : Int := i + u.lit.toInt

/-- What the instruction at index i of n is rejected for (R138). -/
def Code.fault (u : Code) (n i : Nat) : Option Reason :=
  match kinds u.op u.ty (match u.d with | .uni _ => true | _ => false) with
  | none => some .encoding
  | some (kd, ka, kb, kc) =>
    match kd.fault u.d, ka.fault u.a, kb.fault u.b, kc.fault u.c with
    | some r, _, _, _ | none, some r, _, _ | none, none, some r, _ | none, none, none, some r => some r
    | none, none, none, none =>
      if u.modFault then some .encoding
      else if u.op.branch ∧ (u.target i < 0 ∨ (n : Int) ≤ u.target i) then some .target
      else none

/-- The first of a kernel's instructions that is rejected, with its reason: of several the spec does not say which the
report names, and the lowest index is taken. DESIGN CHOICE, log entry 108. -/
def firstFault (code : List (Option Code)) : Option (Nat × Reason) :=
  code.zipIdx.findSome? fun p =>
    match p.1 with
    | none => some (p.2, .encoding)
    | some u => (u.fault code.length p.2).map fun r => (p.2, r)

/-! ### The module image (R132) -/

/-- The little-endian word at a byte offset, if the image holds it. -/
def wordAt (image : List Byte) (o : Nat) : Option Word :=
  match image.drop o with
  | b0 :: b1 :: b2 :: b3 :: _ => some (b3 ++ b2 ++ b1 ++ b0)
  | _ => none

/-- The zero-terminated string at a byte offset. -/
def nameAt (image : List Byte) (o : Nat) : Option (List Byte) :=
  let rest := image.drop o
  if (0 : Byte) ∈ rest then some (rest.takeWhile (· ≠ 0)) else none

/-- The instruction whose three words stand at a byte offset. -/
def codeAt (image : List Byte) (o : Nat) : Option Code := do
  let w0 ← wordAt image o
  let w1 ← wordAt image (o + 4)
  let w2 ← wordAt image (o + 8)
  codeOf w0 w1 w2

/-- The kernel of the table entry at a byte offset. A report names the kernel wherever the entry's name can be read. -/
def kernelAt (image : List Byte) (o : Nat) : Except Report Kernel :=
  let name := ((wordAt image o).bind fun nm => nameAt image nm.toNat)
  let entry := do
    let name ← name
    let at_ ← wordAt image (o + 4)
    let n ← wordAt image (o + 8)
    let params ← wordAt image (o + 12)
    if 1 ≤ n.toNat ∧ n.toNat ≤ 65536 then some (name, at_.toNat, n.toNat, params.toNat) else none
  match entry with
  | none => .error ⟨name.getD [], none, .image⟩
  | some (name, off, n, params) =>
    let code := (List.range n).map fun i => codeAt image (off + 12 * i)
    match firstFault code with
    | some (i, r) => .error ⟨name, some i, r⟩
    | none => .ok ⟨name, params, code.filterMap id⟩

/-- The kernels of a module (R132, R138). -/
def parse (image : List Byte) : Except Report (List Kernel) :=
  let head := do
    let magic ← wordAt image 0
    let vc ← wordAt image 4
    let z ← wordAt image 8
    let table ← wordAt image 12
    if magic = 0x4C525455 ∧ vc.toNat % 2 ^ 16 = 1 ∧ 1 ≤ vc.toNat / 2 ^ 16 ∧ vc.toNat / 2 ^ 16 ≤ 256 ∧ z = 0 then
      some (vc.toNat / 2 ^ 16, table.toNat)
    else none
  match head with
  | none => .error ⟨[], none, .image⟩
  | some (n, table) => (List.range n).mapM fun i => kernelAt image (table + 16 * i)

end Sys2Proof.Utril
end

