-- ==== Sys2Proof/Machine/UtrilLoader.lean ====
section
/-! DEFINITION. The Utril loader: lives of values, registers and spills (R136, R140), the native items of each
instruction (R134, R135, R137, R141), tags (R42, R135), looks and clauses (R70). -/

namespace Sys2Proof.Utril

/-! ### Lives of values (R136) -/

/-- The value registers an operand names, both words of a pair. -/
def words (k : Kind) (r : Reg) : List Nat :=
  match k, r with
  | .absent, _ => []
  | .valPair, .val n | .valOrUniPair, .val n => [n, n + 1]
  | _, .val n => [n]
  | _, _ => []

/-- The places of an instruction with their kinds. -/
def Code.kinds (u : Code) : Kind × Kind × Kind × Kind :=
  (Utril.kinds u.op u.ty (match u.d with | .uni _ => true | _ => false)).getD (.absent, .absent, .absent, .absent)

/-- The value registers an instruction reads as operands. -/
def Code.reads (u : Code) : List Nat :=
  let q := u.kinds
  (if u.op = .st then words q.1 u.d else []) ++ words q.2.1 u.a ++ words q.2.2.1 u.b ++ words q.2.2.2 u.c

/-- The value registers an instruction writes. -/
def Code.writes (u : Code) : List Nat := if u.op = .st then [] else words u.kinds.1 u.d

/-- The instructions that may follow the one at index i. -/
def Code.next (u : Code) (n i : Nat) : List Nat :=
  (match u.op with
   | .exit | .jmp => []
   | _ => if i + 1 < n then [i + 1] else []) ++
  if u.op.branch then [(u.target i).toNat] else []

/-- One pass of the liveness of value register v: at an instruction that reads it, that writes it under a mask other
than k0, or from which a path leads on to such a one with no write under k0 first. -/
def livePass (code : List Code) (v : Nat) (live : List Bool) : List Bool :=
  code.zipIdx.map fun p =>
    v ∈ p.1.reads || (v ∈ p.1.writes && p.1.k != 0) ||
      (!(v ∈ p.1.writes) && (p.1.next code.length p.2).any fun j => live.getD j false)

/-- The passes repeated until nothing changes. -/
def liveFix (code : List Code) (v : Nat) : Nat → List Bool → List Bool
  | 0, live => live
  | fuel + 1, live =>
    let l := livePass code v live
    if l = live then live else liveFix code v fuel l

/-- The instructions at which value register v is live. -/
def liveAt (code : List Code) (v : Nat) : List Bool :=
  liveFix code v (code.length + 1) (code.map fun _ => false)

/-- A value of the kernel: one value register, or the two of a pair that some instruction names as a dw; its interval,
and the first instruction that writes it (R136, R140). -/
structure Value where
  num : Nat
  dw : Bool
  lo : Nat
  hi : Nat
  first : Option Nat
  deriving DecidableEq, Repr

/-- The value registers that some instruction names as the first of a pair. -/
def pairsOf (code : List Code) : List Nat :=
  code.flatMap fun u =>
    let q := u.kinds
    let f := fun (k : Kind) (r : Reg) => match k, r with
      | .valPair, .val n | .valOrUniPair, .val n => [n]
      | _, _ => []
    f q.1 u.d ++ f q.2.1 u.a ++ f q.2.2.1 u.b

/-- The first number of the value a value register belongs to. -/
def home (pairs : List Nat) (v : Nat) : Nat := if v / 2 * 2 ∈ pairs then v / 2 * 2 else v

/-- The instructions at which a value register is live or written, in rising order. -/
def span (code : List Code) (v : Nat) : List Nat :=
  let live := liveAt code v
  code.zipIdx.filterMap fun p => if live.getD p.2 false || v ∈ p.1.writes then some p.2 else none

/-- The values of a kernel with their intervals, in the order of their numbers. -/
def values (code : List Code) : List Value :=
  let pairs := pairsOf code
  let writes := fun v => code.zipIdx.filterMap fun p => if v ∈ p.1.writes then some p.2 else none
  let nums := (((code.flatMap fun u => u.reads ++ u.writes).map (home pairs)).dedup).insertionSort (· ≤ ·)
  nums.map fun v =>
    let dw : Bool := v ∈ pairs
    let spans := span code v ++ if dw then span code (v + 1) else []
    let ws := writes v ++ if dw then writes (v + 1) else []
    ⟨v, dw, spans.foldl min code.length, spans.foldl max 0, ws.foldl (fun m w => some ((m.getD w).min w)) none⟩

/-! ### Registers and spills (R136, R140) -/

/-- A native register that a value has from one instruction on, and its interval. -/
structure Held where
  num : Nat
  dw : Bool
  reg : Nat
  from_ : Nat
  lo : Nat
  hi : Nat
  deriving DecidableEq, Repr

/-- Whether a value that lives from lo to hi, and takes its register at instruction i, is carried round a loop that runs
again through instructions at or before `last`: a branch back from i or later, to where the value lives (R136, R140). -/
def carried (code : List Code) (lo hi i last : Nat) : Bool :=
  code.zipIdx.any fun p =>
    let t := (p.1.target p.2).toNat
    p.1.op.branch && i ≤ p.2 && t ≤ last && lo ≤ t && p.2 ≤ hi

/-- Whether native register r is taken at instruction i for a value that lives from lo to hi: a value's register is free
again at the instruction after its interval, but not where a loop that carries the new value runs through that interval
(R140). DEDUCED, log entry 81. -/
def busy (code : List Code) (held : List Held) (r i lo hi : Nat) : Bool :=
  held.any fun h => (h.reg = r || (h.dw && h.reg + 1 = r)) && (i ≤ h.hi || carried code lo hi i h.hi)

/-- The lowest free register of the first n, or the lowest even one that begins a free pair (R140). -/
def freeReg (code : List Code) (held : List Held) (n : Nat) (dw : Bool) (i lo hi : Nat) : Option Nat :=
  (List.range n).find? fun r => !busy code held r i lo hi &&
    (!dw || (r % 2 = 0 && r + 1 < n && !busy code held (r + 1) i lo hi))

/-- A spilled value: from instruction `from_` on it has a private word in place of a register. -/
structure Spilled where
  num : Nat
  from_ : Nat
  deriving DecidableEq, Repr

/-- Whether a value is out of its register at instruction i. -/
def outAt (spilled : List Spilled) (v i : Nat) : Bool := spilled.any fun q => q.num = v && q.from_ ≤ i

/-- The value to spill at instruction i: of those that hold a register there, the one whose interval ends furthest
ahead, the lowest number among equals (R136). -/
def victim (held : List Held) (spilled : List Spilled) (vals : List Value) (i : Nat) : Option Value :=
  (vals.filter fun x => !outAt spilled x.num i && held.any fun h => h.num = x.num && h.from_ ≤ i && i ≤ h.hi).foldl
    (fun best x => match best with
      | none => some x
      | some b => if b.hi < x.hi || (b.hi = x.hi && x.num < b.num) then some x else some b) none

/-- One walk over the kernel: each value takes its register at its first write, and keeps it until its interval ends or it is
spilled; a spilled value takes one at every instruction that names it. Where no register is free the walk ends with the
value to spill, or with none. -/
def walk (n : Nat) (code : List Code) (vals : List Value) (spilled : List Spilled) :
    Except (Option Value × Nat) (List Held) :=
  let pairs := pairsOf code
  code.zipIdx.foldlM (fun held p =>
    let named := ((p.1.reads ++ p.1.writes).map (home pairs)).dedup
    (named.filterMap fun v => vals.find? fun x => x.num = v).foldlM (fun held x =>
      let out : Bool := outAt spilled x.num p.2
      if !out && x.first != some p.2 then .ok held
      else
        let lo := if out then p.2 else x.lo
        let hi := if out then p.2 else (spilled.filter fun q => q.num = x.num).foldl (fun m q => min m (q.from_ - 1)) x.hi
        match freeReg code held n x.dw p.2 lo hi with
        | some r => .ok (held ++ [⟨x.num, x.dw, r, p.2, lo, hi⟩])
        | none => .error (match victim held spilled vals p.2 with
          | some v => (some v, p.2)
          | none => (if out then none else some x, p.2))) held) []

/-- Where a value that is spilled at instruction i is out of its register: from i on, or where a branch at i or later leads
back before i to where it lives, or its first write stands at i, from that write on (R136, R140). DEDUCED, log entry 81. -/
def spilledFrom (code : List Code) (v : Value) (i : Nat) : Nat :=
  if carried code v.lo v.hi i (i - 1) || v.first = some i then v.first.getD i else i

/-- The registers and the spilled values, in the order they were spilled; or the instruction whose values cannot be
held. DEDUCED, log entry 81. -/
def place (n : Nat) (code : List Code) (vals : List Value) : Nat → List Spilled → Except Nat (List Held × List Spilled)
  | 0, _ => .error 0
  | fuel + 1, spilled =>
    match walk n code vals spilled with
    | .ok held => .ok (held, spilled)
    | .error (some v, i) =>
      let at_ := spilledFrom code v i
      place n code vals fuel
        (if spilled.any fun q => q.num = v.num then spilled.map fun q => if q.num = v.num then ⟨v.num, min q.from_ at_⟩ else q
          else spilled ++ [⟨v.num, at_⟩])
    | .error (none, i) => .error i

/-- The value registers that have private words, in the order of their words: from 0 on in the order of spilling, and a dw
has its even word first, where the spec says only that each takes its own (R136). DESIGN CHOICE, log entry 109. -/
def slotsOf (pairs : List Nat) (spilled : List Spilled) : List Nat :=
  spilled.flatMap fun q => if q.num ∈ pairs then [q.num, q.num + 1] else [q.num]

/-! ### Native items -/

/-- A native instruction, or a branch to the first native instruction of a Utril instruction; `far` where that lies out of
the reach of a BR. -/
inductive Native where
  | ins (i : Instr)
  | jump (cond : BitVec 4) (sc : BitVec 6) (target : Nat) (far : Bool)
  deriving DecidableEq, Repr

/-- The tag a write leaves: a tag, that of another register, or that of two where they agree and else raw. -/
inductive Res where
  | tag (t : BitVec 4)
  | of (key : Nat)
  | same (a b : Nat)
  deriving DecidableEq, Repr

/-- A native item with what the tag and look passes need. Registers are numbered 0 to 127 for v0 to v127 and from 128
for s0 on. -/
structure Item where
  nat : Native
  /-- The Utril instruction whose label stands here. -/
  label : Option Nat := none
  /-- Registers read, beside those of needs. -/
  reads : List Nat := []
  /-- Sources with the tags they are expected to carry (R19). -/
  needs : List (Nat × BitVec 4) := []
  /-- Destinations with the tags they take (R18). -/
  writes : List (Nat × Res) := []
  /-- Whether the tags are written whatever the mask holds. -/
  whole : Bool := true
  /-- Whether the item takes an automatic look value (R70). -/
  late : Bool := false
  deriving DecidableEq, Repr

/-- The number of a scalar. -/
def sk (r : Nat) : Nat := 128 + r

/-- The tag of a type's values (R134, R17). -/
def Ty.tag : Ty → BitVec 4
  | .i32 => 1
  | .n32 => 2
  | .f32 => 3
  | .f16 => 5
  | .dw => 11

/-- The type code of a type in CVT (R56). -/
def Ty.code : Ty → BitVec 4
  | .i32 => 1
  | .n32 => 2
  | .f32 => 7
  | .f16 => 9
  | .dw => 0

/-- What the translation of an instruction needs: the register of each value register at the instruction, the first
temporary and the zero register (R135, R140). -/
structure Env where
  reg : Nat → Nat
  temp : Nat
  zero : Nat

/-- The scalar of u0 to u6 (R135). -/
def uniS (n : Nat) : Nat := 5 + n

/-- The first scalar of the triple of k0 to k14 (R135). -/
def maskS (k : Nat) : Nat := if k = 0 then 57 else 12 + 3 * (k - 1)

/-- The native register of a value operand. -/
def Env.v (e : Env) : Reg → Nat
  | .val n => e.reg n
  | _ => 0

/-- A second operand: a vector, or the scalar of a uniform. -/
def Env.src (e : Env) : Reg → Src
  | .val n => .v (BitVec.ofNat 7 (e.reg n))
  | .uni n => .s (BitVec.ofNat 6 (uniS n))
  | _ => .v 0

/-- The number of an operand's register. -/
def Env.key (e : Env) : Reg → Nat
  | .val n => e.reg n
  | .uni n => sk (uniS n)
  | _ => 0

/-- A vector register's field. -/
def vf (r : Nat) : BitVec 7 := BitVec.ofNat 7 r
/-- A scalar register's field. -/
def sf (r : Nat) : BitVec 6 := BitVec.ofNat 6 r

/-- An item that writes one vector register under the mask. -/
def vecItem (i : Instr) (d : Nat) (t : Res) (reads : List Nat) (need : Option (BitVec 4)) (k0 : Bool) : Item :=
  match need with
  | none => { nat := .ins i, reads := reads, writes := [(d, t)], whole := k0 }
  | some x => { nat := .ins i, needs := reads.map fun r => (r, x), writes := [(d, t)], whole := k0 }

/-- SLIT into s60 or a uniform. -/
def slitItem (s : Nat) (tag : BitVec 4) (w : Word) : Item :=
  { nat := .ins (.slit (sf s) tag w), writes := [(sk s, .tag tag)] }

/-- MOR xm, K, K (R135). -/
def morItem (k : Nat) : Item :=
  { nat := .ins (.mor 61 (sf (maskS k)) (sf (maskS k))), reads := [sk (maskS k), sk (maskS k + 1), sk (maskS k + 2)],
    writes := [(sk 61, .tag 13), (sk 62, .tag 13), (sk 63, .tag 13)] }

/-- Steps 1 to 22 of the division of R137, under mask k. A SLIT written with no tag and no decimal float carries i32
(R77). -/
def divItems (e : Env) (k d a b : Nat) : List Item :=
  let k0 := k == 0
  let t := fun i => e.temp + i
  let tr := fun i => vf (e.temp + i)
  let mk := fun (i : Instr) (d : Nat) (g : BitVec 4) (r : List Nat) => vecItem i d (.tag g) r none k0
  let m := maskS k
  [ vecItem (.cvt (tr 0) (vf a) 7 9 0 0 0 0) (t 0) (.tag 3) [a] (some 5) k0,
    vecItem (.cvt (tr 1) (vf b) 7 9 0 0 0 0) (t 1) (.tag 3) [b] (some 5) k0,
    mk (.frcp (tr 2) (tr 1) 0) (t 2) 3 [t 1],
    slitItem 60 1 0x80000000,
    mk (.vxor (tr 3) (tr 1) (.s 60)) (t 3) 0 [t 1, sk 60],
    slitItem 60 3 0x3F800000,
    vecItem (.vmov (tr 4) (.s 60)) (t 4) (.of (sk 60)) [sk 60] none k0,
    mk (.ffma (tr 4) (tr 3) (.v (tr 2)) (tr 4) 1) (t 4) 3 [t 3, t 2, t 4],
    mk (.ffma (tr 2) (tr 2) (.v (tr 4)) (tr 2) 1) (t 2) 3 [t 2, t 4],
    mk (.fmulRm (tr 4) (tr 0) (.v (tr 2)) 1) (t 4) 3 [t 0, t 2],
    mk (.ffma (tr 3) (tr 3) (.v (tr 4)) (tr 0) 1) (t 3) 3 [t 3, t 4, t 0],
    mk (.ffma (tr 4) (tr 3) (.v (tr 2)) (tr 4) 1) (t 4) 3 [t 3, t 2, t 4],
    mk (.fclass (tr 2) (tr 0)) (t 2) 2 [t 0],
    mk (.fclass (tr 3) (tr 1)) (t 3) 2 [t 1],
    mk (.vor (tr 2) (tr 2) (.v (tr 3))) (t 2) 0 [t 2, t 3],
    slitItem 60 1 0x267,
    mk (.vand (tr 2) (tr 2) (.s 60)) (t 2) 0 [t 2, sk 60],
    { nat := .ins (.vcmp 54 (tr 2) (.v (vf e.zero)) 1), reads := [t 2, e.zero],
      writes := [(sk 54, .tag 13), (sk 55, .tag 13), (sk 56, .tag 13)], whole := k0 },
    { nat := .ins (.mand 61 61 54), reads := [sk 54, sk 55, sk 56],
      writes := [(sk 61, .tag 13), (sk 62, .tag 13), (sk 63, .tag 13)] },
    { nat := .ins (.fdiv (tr 4) (tr 0) (.v (tr 1)) 1 0), reads := [t 0, t 1], writes := [(t 4, .tag 3)],
      whole := false },
    { nat := .ins (.mor 61 (sf m) (sf m)), reads := [sk m, sk (m + 1), sk (m + 2)],
      writes := [(sk 61, .tag 13), (sk 62, .tag 13), (sk 63, .tag 13)] },
    vecItem (.cvt (vf d) (tr 4) 9 7 1 0 0 0) d (.tag 5) [t 4, d] none k0 ]

/-- The condition of VCMP for a condition of R96 on integers of type ty: on n32 the unsigned ones (R74, R134). -/
def vcmpCond (ty : Ty) (cc : Nat) : BitVec 4 :=
  if ty = .n32 ∧ 2 ≤ cc then BitVec.ofNat 4 (cc + 4) else BitVec.ofNat 4 cc

/-- The arithmetic of ADD, SUB, MUL, MIN and MAX (R134). The sign mask of an f16 SUB is a bit pattern, with the tag raw.
DEDUCED, log entry 81. -/
def arithItems (e : Env) (u : Code) (d a : Nat) : List Item :=
  let k0 := u.k == 0
  let B := e.src u.b
  let one := fun (i : Instr) (need : Option (BitVec 4)) (t : BitVec 4) =>
    [vecItem i d (.tag t) [a, e.key u.b] need k0]
  match u.op, u.ty with
  | .add, .f32 => one (.faddRm (vf d) (vf a) B 1) (some 3) 3
  | .sub, .f32 => one (.fsubRm (vf d) (vf a) B 1) (some 3) 3
  | .mul, .f32 => one (.fmulRm (vf d) (vf a) B 1) (some 3) 3
  | .add, .f16 => one (.hadd2 (vf d) (vf a) B 1 9) (some 5) 5
  | .mul, .f16 => one (.hmul2 (vf d) (vf a) B 1 9) (some 5) 5
  | .sub, .f16 =>
    [slitItem 60 0 0x8000,
     vecItem (.vxor (vf e.temp) (vf (e.v u.b)) (.s 60)) e.temp (.tag 0) [e.v u.b, sk 60] none k0,
     { nat := .ins (.hadd2 (vf d) (vf a) (.v (vf e.temp)) 1 9), reads := [e.temp], needs := [(a, 5)],
       writes := [(d, .tag 5)], whole := k0 }]
  | .add, _ => one (.vadd (vf d) (vf a) B) none 1
  | .sub, _ => one (.vsub (vf d) (vf a) B) none 1
  | .mul, _ => one (.vmul (vf d) (vf a) B) none 1
  | .min, .f32 => one (.fmin (vf d) (vf a) B) (some 3) 3
  | .max, .f32 => one (.fmax (vf d) (vf a) B) (some 3) 3
  | .min, .n32 => one (.vminn (vf d) (vf a) B) (some 2) 2
  | .max, .n32 => one (.vmaxn (vf d) (vf a) B) (some 2) 2
  | .min, _ => one (.vmin (vf d) (vf a) B) (some 1) 1
  | _, _ => one (.vmax (vf d) (vf a) B) (some 1) 1

/-- The rounding mode of CVT from one type to another: .rne where it rounds, none where it is exact (R101, R134). -/
def cvtMode (t s : Ty) : BitVec 3 :=
  match t, s with
  | .f32, .f16 | .i32, .n32 | .n32, .i32 => 0
  | _, _ => 1

/-- The native form of an instruction, under its mask (R134, R135, R137, R141). SLIT 96, with no tag, carries i32 (R77). A
uniform pair of DWADD, which lies at an odd scalar, is copied to s54:s55 by two SMOVs. DESIGN CHOICE, log entry 117. -/
def items (e : Env) (i : Nat) (u : Code) : List Item :=
  let k0 := u.k == 0
  let d := e.v u.d
  let a := e.v u.a
  let b := e.v u.b
  let B := e.src u.b
  let K := maskS u.k
  let Ks := [sk K, sk (K + 1), sk (K + 2)]
  let lit := fun (t : BitVec 4) (w : Word) => match u.d with
    | .uni n => [slitItem (uniS n) t w]
    | _ => [slitItem 60 t w, vecItem (.vmov (vf d) (.s 60)) d (.of (sk 60)) [sk 60] none k0]
  let mask := fun (f : BitVec 6 → BitVec 6 → BitVec 6 → Instr) => match u.d, u.a, u.b with
    | .mask kd, .mask ka, .mask kb =>
      let m := maskS kd; let x := maskS ka; let y := maskS kb
      [({ nat := .ins (f (sf m) (sf x) (sf y)),
          reads := [sk x, sk (x + 1), sk (x + 2), sk y, sk (y + 1), sk (y + 2)],
          writes := [(sk m, .tag 13), (sk (m + 1), .tag 13), (sk (m + 2), .tag 13)] } : Item)]
    | _, _, _ => []
  let pair := fun (f : BitVec 7 → BitVec 7 → Src → Instr) =>
    [({ nat := .ins (f (vf d) (vf a) B), needs := [(a, 3), (e.key u.b, 3)],
        writes := [(d, .tag 11), (d + 1, .tag 12)], whole := k0 } : Item)]
  let jump := fun (cond : BitVec 4) (sc : Nat) (reads : List Nat) =>
    [({ nat := .jump cond (sf sc) (u.target i).toNat false, reads := reads } : Item)]
  let uniSrc := fun (r : Reg) (w : Nat) => match r with
    | .uni n => (Src.s (BitVec.ofNat 6 (uniS n + w)), sk (uniS n + w))
    | _ => (Src.v (vf (e.v r + w)), e.v r + w)
  let smov := fun (x y : Nat) =>
    ({ nat := .ins (.smov (sf x) (sf y)), reads := [sk y], writes := [(sk x, .of (sk y))] } : Item)
  match u.op with
  | .lit => lit 0 u.lit
  | .width => lit 1 96
  | .mov => if u.ty = .dw then (match u.d, u.a with
    | .uni n, .uni m => [smov (uniS n) (uniS m), smov (uniS n + 1) (uniS m + 1)]
    | _, _ => [0, 1].map fun w =>
      vecItem (.vmov (vf (d + w)) (uniSrc u.a w).1) (d + w) (.of (uniSrc u.a w).2) [(uniSrc u.a w).2] none k0)
    else match u.d, u.a with
    | .uni n, .uni m =>
      [{ nat := .ins (.smov (sf (uniS n)) (sf (uniS m))), reads := [sk (uniS m)],
         writes := [(sk (uniS n), .of (sk (uniS m)))] }]
    | _, _ => [vecItem (.vmov (vf d) (e.src u.a)) d (.of (e.key u.a)) [e.key u.a] none k0]
  | .add | .sub | .mul | .min | .max => arithItems e u d a
  | .fma => match u.ty with
    | .f32 => [vecItem (.ffma (vf d) (vf a) B (vf (e.v u.c)) 1) d (.tag 3) [a, e.key u.b, e.v u.c] (some 3) k0]
    | .f16 => [vecItem (.hfma2 (vf d) (vf a) B (vf (e.v u.c)) 1 9) d (.tag 5) [a, e.key u.b, e.v u.c] (some 5) k0]
    | _ => [vecItem (.vmad (vf d) (vf a) B (vf (e.v u.c))) d (.tag 1) [a, e.key u.b, e.v u.c] none k0]
  | .div => match u.ty with
    | .f16 => divItems e u.k d a b
    | _ => [{ nat := .ins (.fdiv (vf d) (vf a) B 1 0), needs := [(a, 3), (e.key u.b, 3)], writes := [(d, .tag 3)],
              whole := k0, late := true }]
  | .cvt =>
    let s := (tyOf u.mod).getD .i32
    [{ nat := .ins (.cvt (vf d) (vf a) u.ty.code s.code (cvtMode u.ty s) 0 0 0), reads := [d],
       needs := [(a, s.tag)], writes := [(d, .tag u.ty.tag)], whole := k0 }]
  | .cmp => match u.d with
    | .mask kd =>
      let m := maskS kd
      let w := [(sk m, Res.tag 13), (sk (m + 1), .tag 13), (sk (m + 2), .tag 13)]
      match u.ty with
      | .f32 => [{ nat := .ins (.fcmp (sf m) (vf a) B (BitVec.ofNat 4 u.mod)), needs := [(a, 3), (e.key u.b, 3)],
                   writes := w, whole := k0 }]
      | t =>
        let x := if u.mod < 2 then 0 else t.tag
        [{ nat := .ins (.vcmp (sf m) (vf a) B (vcmpCond t u.mod)), needs := [(a, x), (e.key u.b, x)],
           writes := w, whole := k0 }]
    | _ => []
  | .sel => match u.c with
    | .mask kc =>
      let m := maskS kc
      if u.ty = .dw then [0, 1].map fun w =>
        { nat := .ins (.vsel (vf (d + w)) (vf (a + w)) (uniSrc u.b w).1 (sf m))
          reads := [a + w, (uniSrc u.b w).2, sk m, sk (m + 1), sk (m + 2)]
          writes := [(d + w, .same (a + w) (uniSrc u.b w).2)], whole := k0 }
      else
      [{ nat := .ins (.vsel (vf d) (vf a) B (sf m)), reads := [a, e.key u.b, sk m, sk (m + 1), sk (m + 2)],
         writes := [(d, .same a (e.key u.b))], whole := k0 }]
    | _ => []
  | .kand => mask .mand
  | .kor => mask .mor
  | .kandn => mask .mandn
  | .lane => [vecItem (.vidx (vf d) none) d (.tag 1) [] none k0]
  | .bind => match u.d with
    | .base n =>
      let o := u.lit.toNat / 4
      [{ nat := .ins (.sld 54 0 (BitVec.ofNat 8 o) 0), reads := [sk 0, sk 1], writes := [(sk 54, .tag 0)], late := true },
       { nat := .ins (.sld 55 0 (BitVec.ofNat 8 (o + 1)) 0), reads := [sk 0, sk 1], writes := [(sk 55, .tag 0)],
         late := true },
       { nat := .ins (.btset (BitVec.ofNat 2 n) 54 3), reads := [sk 54, sk 55] }]
    | _ => []
  | .ld => match u.a with
    | .base n =>
      let t := BitVec.ofNat 2 n
      match u.ty with
      | .f16 => [{ nat := .ins (.vld (vf d) t (vf b) 0 3), reads := [b], writes := [(d, .tag 2)], whole := k0,
                   late := true },
                 { nat := .ins (.tagwr (.v (vf d)) 5), writes := [(d, .tag 5)] }]
      | _ => [{ nat := .ins (.vld (vf d) t (vf b) 0 4), reads := [b], writes := [(d, .tag 0)], whole := k0,
                late := true }]
    | _ => []
  | .st => match u.a with
    | .base n => [{ nat := .ins (.vst (vf d) (BitVec.ofNat 2 n) (vf b) (if u.ty = .f16 then 3 else 4)), reads := [d, b] }]
    | _ => []
  | .addx => pair .faddx
  | .mulx => pair .fmulx
  | .dwadd => match u.b with
    | .uni n =>
      [smov 54 (uniS n), smov 55 (uniS n + 1),
       { nat := .ins (.dwadd (vf d) (vf a) (.s 54)), needs := [(a, 11), (a + 1, 12), (sk 54, 11), (sk 55, 12)],
         writes := [(d, .tag 11), (d + 1, .tag 12)], whole := k0 }]
    | _ =>
    [{ nat := .ins (.dwadd (vf d) (vf a) (.v (vf b))), needs := [(a, 11), (a + 1, 12), (b, 11), (b + 1, 12)],
       writes := [(d, .tag 11), (d + 1, .tag 12)], whole := k0 }]
  | .redsum => match u.d with
    | .uni n =>
      [{ nat := .ins (.creduce 54 (vf a) (sf K) 0 0), reads := Ks, needs := [(a, 11), (a + 1, 12)],
         writes := [(sk 54, .tag 11), (sk 55, .tag 12)], whole := k0, late := true },
       { nat := .ins (.smov (sf (uniS n)) 54), reads := [sk 54], writes := [(sk (uniS n), .of (sk 54))] },
       { nat := .ins (.smov (sf (uniS n + 1)) 55), reads := [sk 55], writes := [(sk (uniS n + 1), .of (sk 55))] }]
    | _ => []
  | .brz => match u.a with
    | .uni n => jump 1 (uniS n) [sk (uniS n)]
    | _ => []
  | .brnz => match u.a with
    | .uni n => jump 2 (uniS n) [sk (uniS n)]
    | _ => []
  | .bany => jump 9 K Ks
  | .bnone => jump 10 K Ks
  | .jmp => jump 0 0 []
  | .exit => [{ nat := .ins .halt }]
  | .sys => match u.d with
    | .uni n =>
      let m := u.lit.toNat % 64
      [{ nat := .ins (.smov (sf (uniS n)) (sf m)), reads := [sk m], writes := [(sk (uniS n), .of (sk m))] }]
    | _ => []

/-- The prologue of R135. -/
def prologue : List Item :=
  [{ nat := .ins (.srd 54 0x004), writes := [(sk 54, .tag 13)] },
   { nat := .ins (.srd 55 0x005), writes := [(sk 55, .tag 13)] },
   { nat := .ins (.srd 56 0x006), writes := [(sk 56, .tag 13)] },
   { nat := .ins (.mandn 57 61 54), reads := [sk 54, sk 55, sk 56],
     writes := [(sk 57, .tag 13), (sk 58, .tag 13), (sk 59, .tag 13)] },
   { nat := .ins (.mor 61 57 57), reads := [sk 57, sk 58, sk 59],
     writes := [(sk 61, .tag 13), (sk 62, .tag 13), (sk 63, .tag 13)] }]

/-- A reload of private word w, or its store (R136). -/
def reloadItem (r z w : Nat) : Item :=
  { nat := .ins (if w = 0 then .vldp (vf r) (vf z) 0 4 else .vldp2w (vf r) (vf z) 0 4 ⟨BitVec.ofNat 24 w, 0, 0, 0⟩),
    reads := [z], writes := [(r, .tag 0)], late := true }

/-- The store of a spilled value register into private word w (R136). -/
def spillItem (r z w : Nat) : Item :=
  { nat := .ins (if w = 0 then .vstp (vf r) (vf z) 4 else .vstp2w (vf r) (vf z) 4 ⟨BitVec.ofNat 24 w, 0, 0, 0⟩),
    reads := [r, z] }

/-- What a kernel's translation holds fixed. -/
structure Plan where
  code : List Code
  pairs : List Nat
  held : List Held
  slots : List Nat
  spilled : List Spilled
  temp : Nat
  zero : Nat

/-- The native register of value register v at instruction i. A value that is read and never written has none by R140: its
read takes the zero register, and that of a dw the pair which ends there. DESIGN CHOICE, log entry 118. -/
def Plan.reg (p : Plan) (i v : Nat) : Nat :=
  match p.held.find? fun h => h.num = home p.pairs v && h.lo ≤ i && i ≤ h.hi with
  | some h => h.reg + (v - h.num)
  | none => if home p.pairs v ∈ p.pairs then p.zero - 1 + (v - home p.pairs v) else p.zero

/-- Items under a mask: the MOR where the mask in force is another, then the items; with the mask in force after
(R135). -/
def under (inForce : Option Nat) (k : Nat) (is : List Item) : List Item × Option Nat :=
  if is.isEmpty then ([], inForce)
  else ((if inForce = some k then [] else [morItem k]) ++ is, some k)

/-- The instructions that some branch goes to. -/
def labels (code : List Code) : List Nat :=
  (code.zipIdx.filterMap fun p => if p.1.op.branch then some (p.1.target p.2).toNat else none).dedup

/-- The items of one instruction: its reloads, its native form and its spills, with the mask in force after. A value that is
spilled anywhere is stored at each of its writes, so that its word is right on every path (R136). DEDUCED, log entry 81. -/
def Plan.instr (p : Plan) (i : Nat) (u : Code) (inForce : Option Nat) : List Item × Option Nat :=
  let slot := fun v => p.slots.idxOf v
  let out := fun v => decide (v ∈ p.slots)
  let inputs := ((u.reads ++ if u.k = 0 then [] else u.writes).filter fun v => outAt p.spilled (home p.pairs v) i).dedup
  let (is0, m0) := under inForce 0 (inputs.map fun v => reloadItem (p.reg i v) p.zero (slot v))
  let (is1, m1) := under m0 u.k (items ⟨p.reg i, p.temp, p.zero⟩ i u)
  let m1 := match u.d with
    | .mask kd => if m1 = some kd then none else m1
    | _ => m1
  let (is2, m2) := under m1 0 ((u.writes.filter out).map fun v => spillItem (p.reg i v) p.zero (slot v))
  (is0 ++ is1 ++ is2, m2)

/-- The instructions that some path reaches, by passes over the kernel. -/
def reachable (code : List Code) : Nat → List Nat → List Nat
  | 0, rs => rs
  | fuel + 1, rs =>
    let more := (code.zipIdx.flatMap fun p => if p.2 ∈ rs then p.1.next code.length p.2 else []).dedup
    let rs' := (rs ++ more).dedup
    if rs'.length = rs.length then rs else reachable code fuel rs'

/-- The mask in force at instruction i, where it is the same on every path there: at the kernel's start it is k0. An
instruction that no path reaches stands after the one before it (R135). -/
def Plan.maskAt (p : Plan) (reach : List Nat) (i : Nat) : Option Nat :=
  let outs := (if i = 0 then [some 0] else []) ++ p.code.zipIdx.filterMap fun q =>
    if q.2 ∈ reach && i ∈ q.1.next p.code.length q.2 || (!(i ∈ reach) && q.2 + 1 == i) then some (p.instr q.2 q.1 none).2
    else none
  match outs with
  | [] => none
  | m :: ms => if ms.all (· == m) then m else none

/-- The items of a kernel, the first of each labelled instruction marked. -/
def Plan.items (p : Plan) : List Item :=
  let ls := labels p.code
  let reach := reachable p.code (p.code.length + 1) [0]
  prologue ++ p.code.zipIdx.flatMap fun q =>
    let is := (p.instr q.2 q.1 (p.maskAt reach q.2)).1
    if q.2 ∈ ls then (match is with
      | x :: xs => { x with label := some q.2 } :: xs
      | [] => []) else is

/-! ### Tags (R42, R135) -/

/-- The class of a tag in R42: 0 binary32, 1 integer, 2 packed float, 3 bit pattern or raw. -/
def tagClass (t : Nat) : Nat :=
  match t with
  | 3 | 11 | 12 => 0
  | 1 | 2 => 1
  | 4 | 5 | 6 | 7 => 2
  | _ => 3

/-- Whether a source of tag t is converted where x is expected (R19, R42). -/
def converts (t x : Nat) : Bool :=
  t ≠ x && x ≠ 0 && t ≠ 0 && tagClass t ≠ 3 && tagClass x ≠ 3 && (tagClass t ≠ tagClass x || tagClass t = 2)

/-- For each register, the tags it may carry, as bits. -/
abbrev Tags := List (BitVec 16)

/-- The tag t alone. -/
def tagBit (t : BitVec 4) : BitVec 16 := 1#16 <<< t.toNat

/-- The tags at launch (R26). -/
def launchTags : Tags :=
  (List.range 192).map fun r =>
    if r = sk 0 ∨ r = sk 1 then tagBit 14
    else if r = sk 2 ∨ r = sk 3 ∨ r = sk 4 then tagBit 1
    else if sk 61 ≤ r then tagBit 13
    else tagBit 0

/-- Whether a register that may carry these tags may be converted where x is expected. -/
def mayConvert (ts : BitVec 16) (x : BitVec 4) : Bool :=
  (List.range 16).any fun t => ts.getLsbD t && converts t x.toNat

/-- The tags that are not converted where x is expected, and x. -/
def settled (ts : BitVec 16) (x : BitVec 4) : BitVec 16 :=
  BitVec.ofNat 16 (((List.range 16).filter fun t => ts.getLsbD t && !converts t x.toNat).foldl
    (fun n t => n ||| 2 ^ t) 0) ||| tagBit x

/-- The tags a result may carry. -/
def Res.tags (r : Res) (ts : Tags) : BitVec 16 :=
  match r with
  | .tag t => tagBit t
  | .of k => ts.getD k 1
  | .same a b => (ts.getD a 1 &&& ts.getD b 1) ||| 1

/-- The TAGWRs before an item, and the tags after it (R135). -/
def tagItem (ts : Tags) (x : Item) : List Item × Tags :=
  let bad := (x.needs.filter fun n => mayConvert (ts.getD n.1 1) n.2).dedup
  let wrs := bad.map fun n =>
    ({ nat := .ins (.tagwr (if n.1 < 128 then .v (vf n.1) else .s (sf (n.1 - 128))) n.2),
       writes := [(n.1, .tag n.2)] } : Item)
  let ts := bad.foldl (fun ts n => ts.set n.1 (settled (ts.getD n.1 1) n.2)) ts
  let after := x.writes.map fun w => (w.1, w.2.tags ts ||| if x.whole then 0 else ts.getD w.1 1)
  let wrs := match x.label, wrs with
    | some l, y :: ys => { y with label := some l } :: ys
    | _, _ => wrs
  (wrs ++ [if wrs.isEmpty then x else { x with label := none }], after.foldl (fun ts w => ts.set w.1 w.2) ts)

/-- The union of two sets of tags, register by register. -/
def joinTags (a b : Tags) : Tags := a.zipWith (· ||| ·) b

/-- One pass over the items with the tags known at each label: the items with their TAGWRs, and the tags each label is
reached with. -/
def tagPass (at_ : List (Nat × Tags)) (is : List Item) : List Item × List (Nat × Tags) :=
  let put := fun (m : List (Nat × Tags)) (l : Nat) (ts : Tags) =>
    m.map fun p => if p.1 = l then (p.1, joinTags p.2 ts) else p
  let r := is.foldl (fun (acc : List Item × List (Nat × Tags) × Option Tags) x =>
    let (done, m, cur) := acc
    let cur := match x.label with
      | some l => match m.find? fun p => p.1 = l with
        | some p => some (match cur with | some ts => joinTags p.2 ts | none => p.2)
        | none => cur
      | none => cur
    let m := match x.label, cur with
      | some l, some ts => put m l ts
      | _, _ => m
    match cur with
    | none => (done ++ [x], m, none)
    | some ts =>
      let (ys, ts) := tagItem ts x
      let m := match x.nat with
        | .jump _ _ l _ => put m l ts
        | .ins _ => m
      let stops := match x.nat with
        | .jump 0 _ _ _ => true
        | .ins .halt => true
        | _ => false
      (done ++ ys, m, if stops then none else some ts)) ([], at_, some launchTags)
  (r.1, r.2.1)

/-- The passes repeated until the labels' tags stand. -/
def tagFix (is : List Item) : Nat → List (Nat × Tags) → List Item
  | 0, m => (tagPass m is).1
  | fuel + 1, m =>
    let r := tagPass m is
    if r.2 = m then r.1 else tagFix is fuel r.2

/-- The items with the TAGWRs of R135. -/
def withTags (ls : List Nat) (is : List Item) : List Item :=
  tagFix is (ls.length * 192 * 16 + 1) (ls.map fun l => (l, List.replicate 192 0))

/-! ### Looks and clauses (R70) -/

/-- The registers an item touches. -/
def Item.touches (x : Item) : List Nat := x.reads ++ x.needs.map (·.1) ++ x.writes.map (·.1)

/-- How many of the following items a window over these registers may span: none of them touches one, none is
labelled, and a branch is the last (R70). -/
def lookOver (dests : List Nat) : Nat → List Item → Nat
  | 0, _ => 0
  | _, [] => 0
  | n + 1, x :: xs =>
    if x.label.isSome || x.touches.any (· ∈ dests) then 0
    else match x.nat with
      | .jump _ _ _ _ => 1
      | .ins _ => 1 + lookOver dests n xs

/-- An instruction with its look value. -/
def withLook (n : BitVec 4) : Instr → Instr
  | .sld d a off _ => .sld d a off n
  | .vld d t o _ z => .vld d t o n z
  | .vldp d o _ z => .vldp d o n z
  | .vldp2w d o _ z x => .vldp2w d o n z x
  | .fdiv d a b rm _ => .fdiv d a b rm n
  | .creduce d a c s _ => .creduce d a c s n
  | i => i

/-- The items with their automatic look values. -/
def withLooks : List Item → List Item
  | [] => []
  | x :: xs =>
    (match x.late, x.nat with
     | true, .ins i => { x with nat := .ins (withLook (BitVec.ofNat 4 (lookOver (x.writes.map (·.1)) 15 xs)) i) }
     | _, _ => x) :: withLooks xs

/-- The wait counters an instruction can raise (R52). -/
def raisesOf : Instr → BitVec 8
  | .vld .. | .vldp .. | .vldp2w .. => 1
  | .sld .. => 4
  | .vst .. | .vstp .. | .vstp2w .. => 8
  | _ => 0

/-- Whether an item is a branch out of the reach of a BR; it ends its clause. -/
def Item.far (x : Item) : Bool :=
  match x.nat with
  | .jump _ _ _ far => far
  | .ins _ => false

/-- The number of words of an item. -/
def Item.size (x : Item) : Nat :=
  match x.nat with
  | .ins i => i.size
  | .jump _ _ _ false => 1
  | .jump cond _ _ true => if cond = 0 then 3 else 4

/-- A clause being packed: its first item's label, its wait bits and its items. -/
structure Clause where
  label : Option Nat
  wait : BitVec 8
  items : List Item
  deriving DecidableEq, Repr

/-- The number of words after the header. -/
def Clause.count (c : Clause) : Nat := (c.items.map Item.size).foldl (· + ·) 0

/-- The items packed into clauses: one closes before a label and before a word beyond its fifteenth. A clause at a
label waits for every counter an earlier instruction can raise (R70). -/
def pack (is : List Item) : List Clause :=
  let r := is.foldl (fun (acc : List Clause × Clause × BitVec 8) x =>
    let (done, cur, seen) := acc
    let raised := match x.nat with
      | .ins i => raisesOf i
      | .jump _ _ _ _ => 0
    if cur.items.isEmpty then (done, { cur with label := x.label, items := [x] }, seen ||| raised)
    else if x.label.isSome then (done ++ [cur], ⟨x.label, seen, [x]⟩, seen ||| raised)
    else if 15 < cur.count + x.size || cur.items.getLast?.any Item.far then (done ++ [cur], ⟨none, 0, [x]⟩, seen ||| raised)
    else (done, { cur with items := cur.items ++ [x] }, seen ||| raised)) ([], ⟨none, 0, []⟩, 0)
  r.1 ++ [r.2.1]

/-- The clauses with the word offsets of their headers. -/
def offsets : Nat → List Clause → List (Nat × Clause)
  | _, [] => []
  | o, c :: cs => (o, c) :: offsets (o + 1 + c.count) cs

/-- How far the clause of a branch's target lies from the header at word o, in words. -/
def displacement (all : List (Nat × Clause)) (o l : Nat) : Int :=
  (((all.find? fun p => p.2.label = some l).map (·.1)).getD o : Nat) - (o : Int)

/-- Whether a BR reaches so far (R60). -/
def reaches (d : Int) : Bool := -2 ^ 14 ≤ d && d < 2 ^ 14

/-- The condition that is met where another is not, of those that Utril branches use (R60). -/
def otherwise (cond : BitVec 4) : BitVec 4 := if cond = 1 then 2 else if cond = 2 then 1 else if cond = 9 then 10 else 9

/-- The words of an item in a clause whose header lies at word o. A branch that a BR does not reach is a JMPI by s60, behind
a BR over it to the clause that follows where the branch has a condition. DESIGN CHOICE, log entry 127. -/
def Item.words (all : List (Nat × Clause)) (o count : Nat) (x : Item) : List Word :=
  match x.nat with
  | .ins i => encode i
  | .jump cond sc l far =>
    let d := displacement all o l
    if far then
      (if cond = 0 then [] else encode (.br 0 (otherwise cond) sc (BitVec.ofNat 15 (count + 1)))) ++
        encode (.slit 60 1 (BitVec.ofInt 32 d)) ++ encode (.jmpi 60)
    else encode (.br 0 cond sc (BitVec.ofInt 15 d))

/-- The items with the branches marked that a BR does not reach: each marking moves what follows, so it is repeated. -/
def withFar : Nat → List Item → List Item
  | 0, is => is
  | fuel + 1, is =>
    let all := offsets 0 (pack is)
    let short (p : Nat × Clause) (x : Item) : Item :=
      match x.nat with
      | .jump cond sc l false => if reaches (displacement all p.1 l) then x else { x with nat := .jump cond sc l true }
      | _ => x
    let is' := all.flatMap fun p => p.2.items.map (short p)
    if is' = is then is else withFar fuel is'

/-- The header of an ordinary clause (R50). -/
def Clause.header (c : Clause) : Word :=
  0xA0000000 ||| BitVec.ofNat 32 (c.wait.toNat * 2 ^ 8) ||| BitVec.ofNat 32 c.count

/-- The words of the clauses, headers and all. -/
def assemble (cs : List Clause) : List Word :=
  let all := offsets 0 cs
  all.flatMap fun p => p.2.header :: p.2.items.flatMap (Item.words all p.1 p.2.count)

/-! ### The loader -/

/-- A native kernel: what its launch record and its code hold (R135, R136). -/
structure Translated where
  name : List Byte
  /-- The declared vector registers N. -/
  n : Nat
  /-- The `.private` count. -/
  priv : Nat
  /-- The parameter block's size in bytes. -/
  params : Nat
  /-- The launch record's GCTL: FMT, FTZ, RM and TEN zero. -/
  gctl : Word
  words : List Word
  deriving DecidableEq, Repr

/-- The temporaries a kernel needs: the largest need of any expansion (R136). -/
def temps (code : List Code) : Nat :=
  if code.any fun u => u.op = .div && u.ty = .f16 then 5
  else if code.any fun u => u.op = .sub && u.ty = .f16 then 1 else 0

/-- The items of a kernel at budget n, after every pass, with the number of its spill slots (R135 to R137, R140,
R141, R70). -/
def nativeItems (n : Nat) (k : Kernel) : Except Report (List Item × Nat) :=
  let t := temps k.code
  let vals := values k.code
  match place (n - 1 - t) k.code vals (vals.length * (k.code.length + 1) + 1) [] with
  | .error i => .error ⟨k.name, some i, .registers⟩
  | .ok (held, spilled) =>
    let slots := slotsOf (pairsOf k.code) spilled
    let p : Plan := ⟨k.code, pairsOf k.code, held, slots, spilled, n - 1 - t, n - 1⟩
    .ok (withLooks (withTags (labels k.code) p.items), slots.length)

/-- The native kernel of a Utril kernel at budget n. -/
def translate (n : Nat) (k : Kernel) : Except Report Translated := do
  let (is, priv) ← nativeItems n k
  return ⟨k.name, n, priv, k.params, 0, assemble (pack (withFar (is.length + 1) is))⟩

/-- A load call: the native kernels of a module at budget n, or the report it is rejected with (R136, R138).
DESIGN CHOICE, log entry 79. -/
def load (image : List Byte) (n : Nat) : Except Report (List Translated) := do
  let ks ← parse image
  if n % 8 ≠ 0 ∨ n < 16 ∨ 128 < n then .error ⟨[], none, .budget⟩
  else ks.mapM (translate n)

end Sys2Proof.Utril
end

