-- ==== Sys2Proof/Safety.lean ====
section
/-! DEFINITION. The terms in which claims about the machine are stated: what a safe step is, when an instruction
issues, what an instruction that ran leaves unchanged, and the invariant of memory. -/

namespace Sys2Proof

open Machine

/-- The machine goes on from a state: its step answers a next state. -/
def Safe (s : State) : Prop := ∃ t, step s = .next t

/-- A number of steps in a row all go on. -/
def SafeFor : Nat → State → Prop
  | 0, _ => True
  | n + 1, s => ∃ t, step s = .next t ∧ SafeFor n t

namespace Machine

/-- The group that issues waits for nothing, and the instruction meets no decode fault (R66) and no interlock (R52,
R58, R222). `n` lists the registers the instruction reads and writes, the tags it expects and what it needs free. -/
abbrev Issues (i : Instr) (n : Info) (s : State) : Prop :=
  s.g.wait = .none ∧ s.g.decodeTrap i n = none ∧ s.ready n = true

/-- None of the flags an instruction would set traps: none is enabled, or the group is in trap mode (R41, R286). -/
abbrev NoTrap (g : Group) (fl : Flags) : Prop := g.trapMode = true ∨ fl &&& g.ten = 0

/-- The flags of lane computations and of a computation that the lanes share: those of the active lanes that are no
helper lanes; the shared one's when such a lane exists (R41, R147). -/
def Group.orLanes (g : Group) (f : Nat → Flags) (shared : Flags) : Flags :=
  (lanesOf (g.xm &&& ~~~g.helper)).foldl (fun a l => a ||| f l) 0 |||
    (if g.xm &&& ~~~g.helper = 0 then 0 else shared)

/-- g with the fields of t that say where it stands in its code: place, clause, look windows, chunk, last issue, the end
of its last clause. -/
def Group.placedAs (g t : Group) : Group :=
  { g with
    pc := t.pc, word := t.word, clause := t.clause, started := t.started, resumed := t.resumed, looks := t.looks
    delayUntil := t.delayUntil, lastIssue := t.lastIssue, lastPort := t.lastPort, clauseDone := t.clauseDone
    issued := t.issued, chunk := t.chunk, chunkEnd := t.chunkEnd, chunkPaid := t.chunkPaid }

/-- t is u after an instruction of s's group has retired: control goes where f says (R11, R13), the group's place
moves, and everything else of t is u's. -/
def Retired (i : Instr) (f : Flow) (s u t : State) : Prop :=
  t.g.pc = (s.g.advance i.size f).pc ∧ t.g.word = (s.g.advance i.size f).word ∧
    t.g = u.g.placedAs t.g ∧ t = u.setG t.g

/-- Whether a scalar's number names a trap scalar ts0 to ts7 (R286). -/
abbrev Group.isTs (g : Group) (r : Nat) : Prop := g.trapMode = true ∧ r < 8

/-- The frame of an instruction that works on registers: scalars outside `sw` and vectors outside `vw` are unchanged,
the flags `fl` are set (in trap mode none), the harvest counters of the context grow by `cnt`, control goes where f
says, and nothing else changes: no other register of the group, no other group, no byte of memory. -/
def Ran (i : Instr) (f : Flow) (s t : State) (sw vw : List Nat) (fl : Flags) (cnt : List (Nat × Nat)) : Prop :=
  t.g.pc = (s.g.advance i.size f).pc ∧ t.g.word = (s.g.advance i.size f).word ∧
    (∀ r, s.g.isTs r ∨ r ∉ sw → t.g.s.get {} r = s.g.s.get {} r) ∧
    (∀ r, ¬s.g.isTs r ∨ r ∉ sw → t.g.ts.get {} r = s.g.ts.get {} r) ∧
    (∀ r, r ∉ vw → t.g.vreg r = s.g.vreg r) ∧
    t.g.gstat = (if s.g.trapMode then s.g.gstat else s.g.gstat ||| fl) ∧
    t.g = { s.g.placedAs t.g with s := t.g.s, ts := t.g.ts, v := t.g.v, gstat := t.g.gstat } ∧
    t = { s with groups := s.groups.put s.cur t.g, contexts := (s.harvests s.g.ctx cnt).contexts } ∧
    (∀ k, k ≠ s.cur → t.group k = s.group k) ∧ ∀ a, t.byte a = s.byte a

/-- A vector register took a value in each active lane, and kept its inactive lanes; with an empty mask it kept all
of itself (R14, R16, R18). -/
def WroteLanes (s t : State) (d : Nat) (tag : BitVec 4) (val : Nat → Word) : Prop :=
  if s.g.xm = 0 then t.g.vreg d = s.g.vreg d
  else (t.g.vreg d).tag = tag ∧ ∀ l, l < 96 → t.g.lane d l = if s.g.active l then val l else s.g.lane d l

/-- A scalar triple took the results of the active lanes and kept the bits of the others; all three words carry the
tag mask; with an empty mask nothing is written (R92). -/
def WroteBits (s t : State) (d : Nat) (val : Nat → Bool) : Prop :=
  if s.g.xm = 0 then t.g.triple d = s.g.triple d
  else
    (∀ l, l < 96 → (t.g.triple d).getLsbD l = if s.g.active l then val l else (s.g.triple d).getLsbD l) ∧
      ∀ r ∈ [d, d + 1, d + 2], (t.g.sreg r).tag = 13

/-- An instruction whose result arrives later has issued: flags `fl` are set, the writes `w` wait for the event that
completes it together with what it counts, and nothing else changes (R58, R89). -/
def StartedAll (i : Instr) (s t : State) (w : List RegWrite) (fl : Flags) (cnt : List (Nat × Nat)) : Prop :=
  Retired i .seq s
    (s.bump.setG
      { s.g with
        gstat := if s.g.trapMode then s.g.gstat else s.g.gstat ||| fl
        results := s.g.results ++ [{ id := s.fresh, kind := .compute, writes := w, counts := cnt }] }) t ∧
    ∀ a, t.byte a = s.byte a

/-- The same for an instruction of the lanes: with an empty mask it has no effect (R14). -/
def Started (i : Instr) (s t : State) (w : List RegWrite) (fl : Flags) (cnt : List (Nat × Nat)) : Prop :=
  if s.g.xm = 0 then Ran i .seq s t [] [] 0 [] else StartedAll i s t w fl cnt

/-- The write of lane values to the active lanes of a vector register. -/
def lanesWrite (g : Group) (d : Nat) (tag : BitVec 4) (val : Nat → Word) : RegWrite :=
  .vreg d g.xm (laneList.map fun l => if g.active l then val l else 0) tag

end Machine

end Sys2Proof
end

