-- ==== Sys2Proof/Claims.lean ====
section
/-! DEFINITION. The forms in which claims about families of instructions are stated: what an instruction of a shape reads
and writes, what a result is in plain arithmetic, and what the machine answers. -/

namespace Sys2Proof.Claim

open Machine

/-! ### Results in plain arithmetic

Each says of operands x and y (or x alone) and a result v what the spec says of them, in integers, naturals or bits. -/

/-- x + y modulo 2^32. -/
def isSum (x y v : Word) : Prop := v.toNat = (x.toNat + y.toNat) % 2 ^ 32
/-- x - y modulo 2^32. -/
def isDiff (x y v : Word) : Prop := v.toNat = (x.toNat + 2 ^ 32 - y.toNat) % 2 ^ 32
/-- The low 32 bits of x * y. -/
def isProd (x y v : Word) : Prop := v.toNat = x.toNat * y.toNat % 2 ^ 32
/-- floor(x * y / 2^32), as i32. -/
def isHighI (x y v : Word) : Prop := v.toInt = x.toInt * y.toInt / 2 ^ 32
/-- floor(x * y / 2^32), as n32. -/
def isHighN (x y v : Word) : Prop := v.toNat = x.toNat * y.toNat / 2 ^ 32
/-- The signed quotient of R75. -/
def isQuotI (x y v : Word) : Prop :=
  if y = 0 then v.toNat = 2 ^ 32 - 1
  else if x.toInt = -2 ^ 31 ∧ y.toInt = -1 then v.toInt = -2 ^ 31
  else v.toInt = x.toInt.tdiv y.toInt
/-- The unsigned quotient of R75. -/
def isQuotN (x y v : Word) : Prop := if y = 0 then v.toNat = 2 ^ 32 - 1 else v.toNat = x.toNat / y.toNat
/-- The signed remainder of R75. -/
def isRem (x y v : Word) : Prop :=
  if y = 0 then v = x
  else if x.toInt = -2 ^ 31 ∧ y.toInt = -1 then v = 0
  else v.toInt = x.toInt - x.toInt.tdiv y.toInt * y.toInt
/-- The smaller as i32. -/
def isMinI (x y v : Word) : Prop := v.toInt = min x.toInt y.toInt
/-- The larger as i32. -/
def isMaxI (x y v : Word) : Prop := v.toInt = max x.toInt y.toInt
/-- The smaller as n32. -/
def isMinN (x y v : Word) : Prop := v.toNat = min x.toNat y.toNat
/-- The larger as n32. -/
def isMaxN (x y v : Word) : Prop := v.toNat = max x.toNat y.toNat
/-- 1 if x + y is at least 2^32, else 0. -/
def isCarry (x y v : Word) : Prop := v.toNat = if 2 ^ 32 ≤ x.toNat + y.toNat then 1 else 0
/-- 1 if x < y as n32, else 0. -/
def isBorrow (x y v : Word) : Prop := v.toNat = if x.toNat < y.toNat then 1 else 0
/-- x + y clamped to i32. -/
def isSumSat (x y v : Word) : Prop := v.toInt = max (-2 ^ 31) (min (2 ^ 31 - 1) (x.toInt + y.toInt))
/-- x - y clamped to i32. -/
def isDiffSat (x y v : Word) : Prop := v.toInt = max (-2 ^ 31) (min (2 ^ 31 - 1) (x.toInt - y.toInt))
/-- Bit by bit a function of two bits. -/
def isBits (f : Bool → Bool → Bool) (x y v : Word) : Prop :=
  ∀ k, k < 32 → v.getLsbD k = f (x.getLsbD k) (y.getLsbD k)
/-- x shifted left by y, 0 from 32 on (R76). -/
def isShl (x y v : Word) : Prop := v.toNat = if 32 ≤ y.toNat then 0 else x.toNat * 2 ^ y.toNat % 2 ^ 32
/-- x shifted right by y with zeros, 0 from 32 on (R76). -/
def isShr (x y v : Word) : Prop := v.toNat = if 32 ≤ y.toNat then 0 else x.toNat / 2 ^ y.toNat
/-- x shifted right by y with copies of its sign, from 32 on the sign alone (R76). -/
def isSra (x y v : Word) : Prop :=
  v.toInt = if 32 ≤ y.toNat then (if x.getLsbD 31 then -1 else 0) else x.toInt / 2 ^ y.toNat
/-- x rotated left by y mod 32 (R76). -/
def isRot (x y v : Word) : Prop := ∀ k, k < 32 → v.getLsbD ((k + y.toNat) % 32) = x.getLsbD k
/-- The number of leading zero bits, 0 to 32. -/
def isClz (x v : Word) : Prop :=
  v.toNat ≤ 32 ∧ x.toNat < 2 ^ (32 - v.toNat) ∧ (v.toNat < 32 → 2 ^ (31 - v.toNat) ≤ x.toNat)
/-- The number of one bits. -/
def isPopc (x v : Word) : Prop := v.toNat = ((List.range 32).map fun k => (x.getLsbD k).toNat).sum
/-- Bit i moved to bit 31 - i. -/
def isBrev (x v : Word) : Prop := ∀ k, k < 32 → v.getLsbD k = x.getLsbD (31 - k)
/-- x[n-1:0] sign-extended. -/
def isSext (n : Nat) (x v : Word) : Prop := v.toInt = Int.bmod x.toNat (2 ^ n)
/-- |x| as i32, -2^31 giving -2^31. -/
def isAbs (x v : Word) : Prop := v.toInt = if x.toInt = -2 ^ 31 then -2 ^ 31 else |x.toInt|
/-- Whether x cc y holds: eq, ne, lt, ge, gt, le as i32, ltu, geu, gtu, leu as n32 (R63). -/
def condHolds (cc : Nat) (x y : Word) : Prop :=
  match cc with
  | 0 => x.toNat = y.toNat
  | 1 => x.toNat ≠ y.toNat
  | 2 => x.toInt < y.toInt
  | 3 => y.toInt ≤ x.toInt
  | 4 => y.toInt < x.toInt
  | 5 => x.toInt ≤ y.toInt
  | 6 => x.toNat < y.toNat
  | 7 => y.toNat ≤ x.toNat
  | 8 => y.toNat < x.toNat
  | _ => x.toNat ≤ y.toNat
/-- The tag that a condition expects: raw for eq and ne, i32 for 2 to 5, n32 for 6 to 9. -/
def condTag (cc : BitVec 4) : BitVec 4 := if cc.toNat ≤ 1 then 0 else if cc.toNat ≤ 5 then 1 else 2

/-! ### Tags of results -/

/-- The tag t whatever the sources carry. -/
def plainTag (t : BitVec 4) (_ : Group) (_ : Nat) : BitVec 4 := t
/-- The tag t, but addr when s(a) carries addr (R74). -/
def addrOr (t : BitVec 4) (g : Group) (a : Nat) : BitVec 4 := if (g.sreg a).tag = 14 then 14 else t

/-! ### Scalar instructions -/

/-- What an instruction on s(a) and s(b) reads, writes and expects. -/
abbrev infoSS (d a b : BitVec 6) (ea eb : BitVec 4) : Info :=
  { sr := [a.toNat, b.toNat], sw := [d.toNat], tags := [(.s a.toNat, ea), (.s b.toNat, eb)] }

/-- What an instruction on s(a) alone reads and writes; it expects no tag. -/
abbrev infoS (d a : BitVec 6) : Info := { sr := [a.toNat], sw := [d.toNat] }

/-- Wherever it issues, an instruction on s(a) and s(b) completes: s(d) takes a value that r allows, under the tag, no
flag is raised, and nothing else changes. -/
def Scalar2 (i : BitVec 6 → BitVec 6 → BitVec 6 → Instr) (ea eb : BitVec 4) (r : Word → Word → Word → Prop)
    (tag : Group → Nat → BitVec 4) : Prop :=
  ∀ (s : State) (d a b : BitVec 6), Issues (i d a b) (infoSS d a b ea eb) s →
    ∃ t, exec (i d a b) s = .next t ∧
      r (s.g.sread a.toNat ea) (s.g.sread b.toNat eb) (t.g.sreg d.toNat).val ∧
      (t.g.sreg d.toNat).tag = tag s.g a.toNat ∧
      Ran (i d a b) .seq s t [d.toNat] [] 0 []

/-- Wherever it issues, an instruction on s(a) alone completes: s(d) takes a value that r allows, under the tag, and
nothing else changes. -/
def Scalar1 (i : Instr) (d a : BitVec 6) (r : Word → Word → Prop) (tag : Group → Nat → BitVec 4) : Prop :=
  ∀ s : State, Issues i (infoS d a) s →
    ∃ t, exec i s = .next t ∧ r (s.g.sval a.toNat) (t.g.sreg d.toNat).val ∧
      (t.g.sreg d.toNat).tag = tag s.g a.toNat ∧ Ran i .seq s t [d.toNat] [] 0 []

/-! ### Vector instructions -/

/-- The values and flags of the lanes of an instruction on v(a) and B: each lane's conversions and what f gives. -/
def lane2 (g : Group) (a : BitVec 7) (b : Src) (ea eb : BitVec 4) (f : Group → Word → Word → Word × Flags)
    (l : Nat) : Word × Flags :=
  let x := g.vsrc a.toNat ea l
  let y := g.blane b eb l
  ((f g x.1 y.1).1, x.2 ||| y.2 ||| (f g x.1 y.1).2)

/-- Wherever it issues and none of its flags traps, an instruction on v(a) and B completes: each active lane of v(d)
takes what f gives, the flags are those of the lanes' conversions and of f, and the counter grows (R41, R88, R90). -/
def VecF2 (i : Instr) (d a : BitVec 7) (b : Src) (ea eb tag : BitVec 4) (f : Group → Word → Word → Word × Flags)
    (count : Option (Nat × Nat)) : Prop :=
  ∀ s : State, Issues i { info2 d a b ea eb with mask := true } s →
    NoTrap s.g (s.g.orLanes (fun l => (lane2 s.g a b ea eb f l).2) (s.g.bshared b eb)) →
    ∃ t, exec i s = .next t ∧ WroteLanes s t d.toNat tag (fun l => (lane2 s.g a b ea eb f l).1) ∧
      Ran i .seq s t [] [d.toNat] (s.g.orLanes (fun l => (lane2 s.g a b ea eb f l).2) (s.g.bshared b eb))
        (s.g.counts count)

/-- The same with the values as a relation, for an instruction that raises no flag of its own. -/
def Vec2 (i : BitVec 7 → BitVec 7 → Src → Instr) (ea eb : BitVec 4) (r : Word → Word → Word → Prop)
    (tag : BitVec 4) : Prop :=
  ∀ (s : State) (d a : BitVec 7) (b : Src), Issues (i d a b) { info2 d a b ea eb with mask := true } s →
    let x := fun l => s.g.vsrc a.toNat ea l
    let y := fun l => s.g.blane b eb l
    let fl := s.g.orLanes (fun l => (x l).2 ||| (y l).2) (s.g.bshared b eb)
    NoTrap s.g fl →
    ∃ t val, exec (i d a b) s = .next t ∧ WroteLanes s t d.toNat tag val ∧
      (∀ l, l < 96 → s.g.active l = true → r (x l).1 (y l).1 (val l)) ∧ Ran (i d a b) .seq s t [] [d.toNat] fl []

/-- The same of an instruction on v(a) alone. -/
def Vec1 (i : BitVec 7 → BitVec 7 → Instr) (ea : BitVec 4) (r : Word → Word → Prop) (tag : BitVec 4) : Prop :=
  ∀ (s : State) (d a : BitVec 7),
    Issues (i d a) { vr := [a.toNat], vw := [d.toNat], tags := [(.v a.toNat, ea)], mask := true } s →
    let x := fun l => s.g.vsrc a.toNat ea l
    let fl := s.g.orLanes (fun l => (x l).2) 0
    NoTrap s.g fl →
    ∃ t val, exec (i d a) s = .next t ∧ WroteLanes s t d.toNat tag val ∧
      (∀ l, l < 96 → s.g.active l = true → r (x l).1 (val l)) ∧ Ran (i d a) .seq s t [] [d.toNat] fl []

/-- The values and flags of the lanes of an instruction on v(a) alone. -/
def lane1 (g : Group) (a : BitVec 7) (ea : BitVec 4) (f : Group → Word → Word × Flags) (l : Nat) : Word × Flags :=
  let x := g.vsrc a.toNat ea l
  ((f g x.1).1, x.2 ||| (f g x.1).2)

/-- Wherever it issues and none of its flags traps, an instruction on v(a) alone completes: each active lane of v(d)
takes what f gives. -/
def VecF1 (i : Instr) (d a : BitVec 7) (ea tag : BitVec 4) (f : Group → Word → Word × Flags)
    (count : Option (Nat × Nat)) : Prop :=
  ∀ s : State, Issues i { vr := [a.toNat], vw := [d.toNat], tags := [(.v a.toNat, ea)], mask := true } s →
    NoTrap s.g (s.g.orLanes (fun l => (lane1 s.g a ea f l).2) 0) →
    ∃ t, exec i s = .next t ∧ WroteLanes s t d.toNat tag (fun l => (lane1 s.g a ea f l).1) ∧
      Ran i .seq s t [] [d.toNat] (s.g.orLanes (fun l => (lane1 s.g a ea f l).2) 0) (s.g.counts count)

/-- Wherever it issues, an instruction that only moves lanes completes: it reads no tag, raises no flag, and each
active lane of v(d) takes its value. -/
def Moves (i : Instr) (n : Info) (d : BitVec 7) (tag : Group → BitVec 4) (val : Group → Nat → Word) : Prop :=
  ∀ s : State, Issues i { n with mask := true } s →
    ∃ t, exec i s = .next t ∧ WroteLanes s t d.toNat (tag s.g) (val s.g) ∧ Ran i .seq s t [] [d.toNat] 0 []

/-- Wherever it issues and none of its flags traps, an element-wise instruction completes: each active lane of v(d)
takes its value, the flags are those of the lanes and the shared ones, and the counter grows. -/
def Lanes (i : Instr) (n : Info) (d : BitVec 7) (tag : Group → BitVec 4) (lane : Group → Nat → Word × Flags)
    (shared : Group → Flags) (count : Option (Nat × Nat)) : Prop :=
  ∀ s : State, Issues i { n with mask := true } s →
    NoTrap s.g (s.g.orLanes (fun l => (lane s.g l).2) (shared s.g)) →
    ∃ t, exec i s = .next t ∧ WroteLanes s t d.toNat (tag s.g) (fun l => (lane s.g l).1) ∧
      Ran i .seq s t [] [d.toNat] (s.g.orLanes (fun l => (lane s.g l).2) (shared s.g)) (s.g.counts count)

/-- The same of a comparison into a triple, under the old mask. -/
def Compares (i : Instr) (n : Info) (d : BitVec 6) (lane : Group → Nat → Bool × Flags) (shared : Group → Flags)
    (count : Option (Nat × Nat)) : Prop :=
  ∀ s : State, Issues i { n with mask := true, sw := [d.toNat, d.toNat + 1, d.toNat + 2] } s →
    NoTrap s.g (s.g.orLanes (fun l => (lane s.g l).2) (shared s.g)) →
    ∃ t, exec i s = .next t ∧ WroteBits s t d.toNat (fun l => (lane s.g l).1) ∧
      Ran i .seq s t [d.toNat, d.toNat + 1, d.toNat + 2] []
        (s.g.orLanes (fun l => (lane s.g l).2) (shared s.g)) (s.g.counts count)

/-- The same of a long-latency instruction: it starts, its flags are set at issue, and the write of the active lanes
waits (R58, R89). -/
def LateLanes (i : Instr) (n : Info) (d : BitVec 7) (tag : BitVec 4) (lane : Group → Nat → Word × Flags)
    (shared : Group → Flags) (count : Option (Nat × Nat)) : Prop :=
  ∀ s : State, Issues i { n with mask := true } s →
    NoTrap s.g (s.g.orLanes (fun l => (lane s.g l).2) (shared s.g)) →
    ∃ t, exec i s = .next t ∧
      Started i s t [lanesWrite s.g d.toNat tag fun l => (lane s.g l).1]
        (s.g.orLanes (fun l => (lane s.g l).2) (shared s.g)) (s.g.counts count)

/-- The same of an instruction that writes the pair v(d):v(d + 1), tagged fp32h and fp32l (R117, R120). -/
def Pairs (i : Instr) (n : Info) (d : BitVec 7) (lane : Group → Nat → PairRes) (shared : Group → Flags) : Prop :=
  ∀ s : State, Issues i { n with mask := true, vw := vpair d, pairs := ⟨false, d.toNat⟩ :: n.pairs } s →
    NoTrap s.g (s.g.orLanes (fun l => (lane s.g l).flags) (shared s.g)) →
    ∃ t, exec i s = .next t ∧ WroteLanes s t d.toNat 11 (fun l => (lane s.g l).hi) ∧
      WroteLanes s t (d.toNat + 1) 12 (fun l => (lane s.g l).lo) ∧
      Ran i .seq s t [] (vpair d) (s.g.orLanes (fun l => (lane s.g l).flags) (shared s.g)) (s.g.counts (some (27, 1)))

/-- The long-latency form of the same. -/
def LatePairs (i : Instr) (n : Info) (d : BitVec 7) (lane : Group → Nat → PairRes) (shared : Group → Flags) : Prop :=
  ∀ s : State, Issues i { n with mask := true, vw := vpair d, pairs := ⟨false, d.toNat⟩ :: n.pairs } s →
    NoTrap s.g (s.g.orLanes (fun l => (lane s.g l).flags) (shared s.g)) →
    ∃ t, exec i s = .next t ∧
      Started i s t
        [lanesWrite s.g d.toNat 11 fun l => (lane s.g l).hi, lanesWrite s.g (d.toNat + 1) 12 fun l => (lane s.g l).lo]
        (s.g.orLanes (fun l => (lane s.g l).flags) (shared s.g)) (s.g.counts (some (27, 1)))

/-- Wherever it issues and none of its flags traps, a long-latency collective starts: its flags are set at issue and its
writes wait; with an empty mask it has no effect (R14, R58). -/
def LateRun (i : Instr) (n : Info) (evs : Group → List FlagEvent) (w : Group → List RegWrite)
    (cnt : Group → List (Nat × Nat)) : Prop :=
  ∀ s : State, Issues i n s → NoTrap s.g (s.g.raisedFlags (evs s.g)) →
    ∃ t, exec i s = .next t ∧ Started i s t (w s.g) (s.g.raisedFlags (evs s.g)) (cnt s.g)

/-- Lanes lo to lo + 2^n - 1 combined from the top down: the two halves first, then the two results; a half in which no
lane entered drops out (R127, R171). -/
def halves {α : Type} (f : α → α → α) (leaf : Nat → Option α) : Nat → Nat → Option α
  | 0, lo => leaf lo
  | n + 1, lo =>
    match halves f leaf n lo, halves f leaf n (lo + 2 ^ n) with
    | some x, some y => some (f x y)
    | some x, none => some x
    | none, y => y

/-- Two results that may be absent. -/
def join {α : Type} (f : α → α → α) : Option α → Option α → Option α
  | some x, some y => some (f x y)
  | some x, none => some x
  | none, y => y

/-! ### Rounding -/

/-- n is (-1)^neg * m * 2^e in units of 2^q, rounded in the mode: to the nearest and to even between two, toward zero,
up, or down (R36). -/
def IsRounded (rm : RMode) (neg : Bool) (m : Nat) (e q : Int) (n : Nat) : Prop :=
  if q ≤ e then n = m * 2 ^ (e - q).toNat
  else
    let u := 2 ^ (q - e).toNat
    let down := n * u ≤ m ∧ m < (n + 1) * u
    let up := m ≤ n * u ∧ n * u < m + u
    match rm with
    | .rne => 2 * ((n * u : Nat) - (m : Int)).natAbs ≤ u ∧ (2 * ((n * u : Nat) - (m : Int)).natAbs = u → n % 2 = 0)
    | .rtz => down
    | .rup => if neg then down else up
    | .rdn => if neg then up else down

/-! ### Masks and transfers -/

/-- What an instruction on one triple reads and expects. -/
abbrev infoM (a : BitVec 6) : Info := { sr := tripleRegs a, tags := tripleTags a }

/-- What an instruction on two triples reads, writes and expects. -/
abbrev infoMM (d a b : BitVec 6) : Info :=
  { sr := tripleRegs a ++ tripleRegs b, sw := tripleRegs d, tags := tripleTags a ++ tripleTags b }

/-- A triple took a mask, and its three words the tag mask (R86). -/
def TookMask (t : State) (d : BitVec 6) (m : LaneMask) : Prop :=
  t.g.triple d.toNat = m ∧ ∀ r ∈ [d.toNat, d.toNat + 1, d.toNat + 2], (t.g.sreg r).tag = 13

/-- Wherever it issues, a mask instruction completes: lane by lane the triple takes f of the two bits (R86). -/
def Mask2 (i : BitVec 6 → BitVec 6 → BitVec 6 → Instr) (f : Bool → Bool → Bool) : Prop :=
  ∀ (s : State) (d a b : BitVec 6), Issues (i d a b) (infoMM d a b) s →
    ∃ t m, exec (i d a b) s = .next t ∧ TookMask t d m ∧
      (∀ l, l < 96 → m.getLsbD l = f ((s.g.triple a.toNat).getLsbD l) ((s.g.triple b.toNat).getLsbD l)) ∧
      Ran (i d a b) .seq s t [d.toNat, d.toNat + 1, d.toNat + 2] [] 0 []

/-- Whether a branch condition holds of its scalar v, its triple m and xm (R60). -/
def branchTaken (cond : BitVec 4) (v : Word) (m x : LaneMask) : Prop :=
  match cond.toNat with
  | 0 => True
  | 1 => v = 0
  | 2 => v ≠ 0
  | 3 => v.toInt < 0
  | 4 => 0 ≤ v.toInt
  | 5 => 0 < v.toInt
  | 6 => v.toInt ≤ 0
  | 8 => m &&& x = x
  | 9 => m &&& x ≠ 0
  | 10 => m &&& x = 0
  | _ => m &&& x ≠ x

/-- What BR reads: nothing, one scalar, or a triple and xm (R60). -/
abbrev infoBr (cond : BitVec 4) (sc : BitVec 6) : Info :=
  if 8 ≤ cond.toNat then { sr := tripleRegs sc, mask := true }
  else if cond = 0 then {} else { sr := [sc.toNat] }

/-- The branch does not assert uniformity, or its assertion holds (R61). -/
def uniform (u : BitVec 1) (cond : BitVec 4) (m x : LaneMask) : Prop :=
  u = 1 ∧ 8 ≤ cond.toNat → m &&& x = 0 ∨ m &&& x = x

/-- The byte that a displacement in words names, counted from the header of the present clause (R60). -/
def reach (g : Group) (disp : Int) : Int := g.pc.toNat + 4 * disp

/-- An address of the machine: 0 to 2^56 - 1. -/
def inSpace (a : Int) : Prop := 0 ≤ a ∧ a < 2 ^ 56

/-- The address of a byte. -/
def addr (a : Int) : Addr := BitVec.ofNat 56 a.toNat

/-! ### Exceptions (R286) -/

/-- The group that issues has entered its handler for fault f: TCAUSE, TMASK, TVAL, TPC, TSITE and TFRAME are set, the
look windows are closed, the flags that fault beside it are set, a promoted group begins its demotion (one that is being
promoted, once it has switched), and control is at TBASE + 64 * cause. Nothing else changes: no other register, no other group, no byte of memory. -/
def Entered (s t : State) (f : Trap) : Prop :=
  t.g.trapMode = true ∧
    t.g.trap = { cause := BitVec.ofNat 6 f.cause, mask := f.mask, val := BitVec.ofNat 64 f.val, pc := s.g.pc
                 word := BitVec.ofNat 4 s.g.word, site := ⟨s.g.pc, s.g.ticket, s.g.word⟩, frame := s.g.stklim } ∧
    t.g.pc.toNat = ((s.context s.g.ctx).tbase.toNat + 64 * f.cause) % 2 ^ 56 ∧ t.g.word = 0 ∧
    t.g.clause = none ∧ t.g.started = false ∧ t.g.looks = [] ∧ t.g.fetchBuf = [] ∧ t.g.wait = .none ∧
    t.g.gstat = s.g.gstat ||| f.flags ∧
    t.g.engine = (if s.g.engine = .sprinter then .demoting (s.cycle s.cur + 12) else s.g.engine) ∧
    t.g = { s.g.dropWaits with
            trapMode := true, trap := t.g.trap, pc := t.g.pc, word := 0, clause := none, started := false, looks := []
            fetchBuf := [], wait := .none, gstat := t.g.gstat, engine := t.g.engine, chunkEnd := t.g.chunkEnd
            chunkPaid := t.g.chunkPaid, issued := false, qualHeld := false
            demoteNext := (match s.g.engine with
              | .promoting _ => true
              | .demoting _ => s.g.demoteNext
              | _ => false) } ∧
    t = { s with groups := s.groups.put s.cur t.g, cores := t.cores } ∧
    (∀ c, t.core c = s.core c ∨
      ∃ n, t.core c = { s.core c with events := ({ (s.core c).events with demotions := n }).sat }) ∧
    (∀ k, k ≠ s.cur → t.group k = s.group k) ∧ ∀ a, t.byte a = s.byte a

/-- A group outside trap mode whose earlier instructions have completed, so that a fault is taken at once (R27). -/
abbrev TakesFaults (s : State) : Prop := s.g.trapMode = false ∧ s.g.quiet = true

/-- A group has ended as HALT ends it: it waits for nothing, is in no barrier's arrived set, and keeps its registers
(R85, R178). -/
def Halted (s t : State) : Prop :=
  t.g.halted = true ∧ t.g.trapMode = false ∧ t.g.wait = .none ∧ t.g.s = s.g.s ∧ t.g.v = s.g.v ∧
    ∀ n, n < 20 → s.cur ∉ (t.barrier s.g.team n).arrived

/-- Wherever it issues outside trap mode, and some flag of its lanes or of their shared conversion is enabled, an
element-wise instruction has no result: the group enters its handler with cause 0x0E; TVAL holds all the flags, those whose
enable is 0 are set, and TMASK names the lanes whose own flags or whose shared ones are enabled (R41, R147). -/
def FpTraps (i : Instr) (n : Info) (lane : Group → Nat → Flags) (shared : Group → Flags) : Prop :=
  ∀ s : State, Issues i { n with mask := true } s → TakesFaults s →
    let fl := s.g.orLanes (lane s.g) (shared s.g)
    fl &&& s.g.ten ≠ 0 →
    ∃ t m, exec i s = .next t ∧ Entered s t ⟨0x0E, fl.toNat, m, fl &&& ~~~s.g.ten⟩ ∧
      ∀ l, l < 96 → (m.getLsbD l = true ↔ s.g.active l = true ∧
        (s.g.helper.getLsbD l = false ∧ lane s.g l &&& s.g.ten ≠ 0 ∨ shared s.g &&& s.g.ten ≠ 0))

/-! ### Instructions with other effects -/

/-- t is what the machine becomes when the instruction of s's group retires after the effect that made s into u: control
goes where f says, all else is u's, and the bytes of memory are s's. -/
def Did (i : Instr) (f : Flow) (s u t : State) : Prop := Retired i f s u t ∧ ∀ a, t.byte a = s.byte a

/-- Bits [63:32] of a number, as a word. -/
def upper (n : Nat) : Word := BitVec.ofNat 32 (n / 2 ^ 32)

/-- The system registers of R23 but for CYCLE and the harvest counters: number, value and the tag that SRD gives. -/
def sysTable : List (Nat × (State → Word) × BitVec 4) :=
  [(0x000, fun s => s.g.gctl, 0),
    (0x001, fun s => s.g.gstat.setWidth 32, 0),
    (0x004, fun s => s.g.helper.extractLsb' 0 32, 13),
    (0x005, fun s => s.g.helper.extractLsb' 32 32, 13),
    (0x006, fun s => s.g.helper.extractLsb' 64 32, 13),
    (0x008, fun s => (s.context s.g.ctx).step, 2),
    (0x010, fun s => s.g.stklim, 2),
    (0x012, fun s => BitVec.ofNat 32 s.g.pvbase.toNat, 14),
    (0x013, fun s => upper s.g.pvbase.toNat, 14),
    (0x016, fun s => s.g.ticket, 2),
    (0x017, fun s => s.g.batch, 2),
    (0x018, fun s => BitVec.ofNat 32 s.g.ctx, 2),
    (0x040, fun s => BitVec.ofNat 32 (s.context s.g.ctx).tbase.toNat &&& 0xFFFFF000, 0),
    (0x041, fun s => upper (s.context s.g.ctx).tbase.toNat, 0),
    (0x042, fun s => s.g.trap.cause.setWidth 32, 0),
    (0x043, fun s => s.g.trap.mask.extractLsb' 0 32, 0),
    (0x044, fun s => s.g.trap.mask.extractLsb' 32 32, 0),
    (0x045, fun s => s.g.trap.mask.extractLsb' 64 32, 0),
    (0x046, fun s => BitVec.ofNat 32 s.g.trap.val.toNat, 0),
    (0x047, fun s => upper s.g.trap.val.toNat, 0),
    (0x048, fun s => BitVec.ofNat 32 s.g.trap.pc.toNat, 0),
    (0x049, fun s => upper s.g.trap.pc.toNat ||| BitVec.ofNat 32 (2 ^ 28 * s.g.trap.word.toNat), 0),
    (0x04E, fun s => s.g.trap.frame, 0),
    (0x04F, fun s => (s.context s.g.ctx).preemptLimit, 0),
    (0x0B0, fun s => s.g.harvHi, 2),
    (0x0B1, fun s => BitVec.ofNat 32 (satword (s.context s.g.ctx)), 0),
    (0x0B2, fun s => upper (satword (s.context s.g.ctx)), 0)]

/-- What an SWR of a register makes of the state (R24, R26, R299, R300). -/
def sysAfter (s : State) (n : Nat) (w : Word) : State :=
  let g := s.g
  match n with
  | 0x000 => s.setG { g with gctl := w &&& 0x3F0F }
  | 0x001 => s.setG { g with gstat := g.gstat &&& ~~~w.extractLsb' 0 6 }
  | 0x010 => s.setG { g with stklim := BitVec.ofNat 32 (min w.toNat (64 * (s.context g.ctx).pvstride - 16)) }
  | 0x040 => s.modCtx g.ctx fun c =>
    { c with tbase := BitVec.ofNat 56 (c.tbase.toNat / 2 ^ 32 * 2 ^ 32 + w.toNat / 4096 * 4096) }
  | 0x041 => s.modCtx g.ctx fun c =>
    { c with tbase := BitVec.ofNat 56 (w.toNat % 2 ^ 24 * 2 ^ 32 + c.tbase.toNat % 2 ^ 32) }
  | 0x048 => s.setG
    { g with trap := { g.trap with pc := BitVec.ofNat 56 (g.trap.pc.toNat / 2 ^ 32 * 2 ^ 32 + w.toNat) } }
  | 0x049 => s.setG
    { g with trap := { g.trap with
      pc := BitVec.ofNat 56 (w.toNat % 2 ^ 24 * 2 ^ 32 + g.trap.pc.toNat % 2 ^ 32), word := w.extractLsb' 28 4 } }
  | 0x04E => s.setG { g with trap := { g.trap with frame := w } }
  | _ => s.modCtx g.ctx fun c => { c with preemptLimit := w }

/-- Whether the group that issues may write a system register: GCTL and GSTAT always; STKLIM in trap mode or a privileged
context; TBASE and PREEMPT_LIMIT in a privileged context; TPC and TFRAME in trap mode (R23, R299, R300). -/
def mayWrite (s : State) (n : Nat) : Prop :=
  let priv := (s.context s.g.ctx).priv = true
  let trap := s.g.trapMode = true
  n ∈ [0x000, 0x001] ∨ n = 0x010 ∧ (trap ∨ priv) ∨ n ∈ [0x040, 0x041, 0x04F] ∧ priv ∨ n ∈ [0x048, 0x049, 0x04E] ∧ trap

/-! ### Accesses to global memory -/

/-- The lanes that an access takes part in: all active ones for a load, those that are no helper lanes for an access
that writes (R147). -/
def takesPart (g : Group) (r : Req) : LaneMask := if r.op.writes then g.xm &&& ~~~g.helper else g.xm

/-- The entries of the lanes that take part, in lane order. -/
def entriesOf (u : State) (r : Req) (entries : State → Nat → List Entry) : List ReqLane :=
  (lanesOf (takesPart u.g r)).flatMap fun l => (entries u l).map fun e =>
    { lane := l, res := e.res, data := e.data, b := e.b, c := e.c : ReqLane }

/-- Whether an entry met no byte: it failed a check or its page is absent. -/
def LaneMissed (x : ReqLane) : Bool :=
  match x.res with
  | .fail _ _ => true
  | .absent _ _ => true
  | _ => false

/-- Every entry may issue: it translates to a byte that lies in no peer window, and does not meet the group's side log;
an entry of a helper lane of a load may also fail (R147, R216, R332). -/
def EntriesPass (u : State) (r : Req) (entries : State → Nat → List Entry) : Prop :=
  ∀ x ∈ entriesOf u r entries,
    match x.res with
    | .ok va key => isPeer key = false ∧
        (if r.op.returns then u.logOverlaps u.cur va r.size = false else u.logLine u.cur va = false)
    | .fail _ _ => r.op.writes = false ∧ u.g.helper.getLsbD x.lane = true
    | .absent _ _ => r.op.writes = false ∧ u.g.helper.getLsbD x.lane = true
    | _ => False

/-- The flags are set beside what was done, but not in trap mode (R40, R286). -/
def withGstat (s : State) (fl : Flags) : State :=
  s.setG { s.g with gstat := if s.g.trapMode then s.g.gstat else s.g.gstat ||| fl }

/-- An access has issued: the entries that translate are in flight under a new number, its wait counter is raised, and
the flags of its operands' conversions are set. Lanes that miss receive zero (R112, R147). -/
def Issued (u : State) (r : Req) (entries : State → Nat → List Entry) (fl : Flags) : State :=
  withGstat
    (if r.op.returns then
      u.putAccess r (okLanes (entriesOf u r entries))
        ((if r.op.writes then u.g.xm &&& u.g.helper else 0) |||
          laneMask (((entriesOf u r entries).filter LaneMissed).map fun x => x.lane))
     else u.putWrites r (okLanes (entriesOf u r entries))) fl

/-- Wherever it issues, the walk of a base register that it translates again ends now, and its entries pass, a vector access
completes its issue: the access is in flight, and nothing else changes, in memory or elsewhere; with an empty mask it
accesses nothing, and its counter alone is raised until its event (R14, R16, R52, R190). -/
def Accesses (i : Instr) (n : Info) (r : Req) (turned : State → Option State) (refresh : State → State)
    (entries : State → Nat → List Entry) (evs : Group → List FlagEvent) : Prop :=
  ∀ s : State, Issues i { n with mask := true, access := true, counter := r.counter } s →
    (s.g.xm = 0 → ∃ t, exec i s = .next t ∧
      Did i .seq s (match r.counter with
        | none => s
        | some c => s.bump.setG
          { s.g.raiseCounter c with
            results := s.g.results ++ [{ id := s.fresh, kind := r.op.kind, writes := [], counter := some c }] }) t) ∧
    (s.g.xm ≠ 0 → turned s = none → NoTrap s.g (s.g.raisedFlags (evs s.g)) → EntriesPass (refresh s) r entries →
      ∃ t, exec i s = .next t ∧ Did i .seq s (Issued (refresh s) r entries (s.g.raisedFlags (evs s.g))) t)

/-- What a claim says of a vector access: of its instruction and what that reads and writes, its request, the base register
that it may have to translate again, its entries and its flags. -/
abbrev AccessClaim :=
  Instr → Info → Req → (State → Option State) → (State → State) → (State → Nat → List Entry) → (Group → List FlagEvent) → Prop

/-- A claim about each load and store through a base register: lane l names the byte VB + off + what the form adds, for as
many bytes as its size (R110, R113, R116, R221). -/
def GlobalForms (P : AccessClaim) : Prop :=
   (let load (i : Instr) (n : Info) (d : BitVec 7) (t : BitVec 2) (look : BitVec 4) (z : BitVec 3) (x : MlExt)
        (add : Group → Nat → Int) (evs : Group → List FlagEvent) : Prop :=
      P i
        { n with vw := sizeRegs d z, pairs := sizePairs d z, look := some look.toNat, ends := orderEnds x.order }
        { op := .load z, size := sizeBytes z, dest := loadDest d z, tag := sizeTag z
          hint := if x.order.getLsbD 0 && 2 ≤ x.scope.toNat then 2 else x.hint, order := x.order, scope := x.scope, counter := some 0 }
        (fun s => s.baseTurned s.cur t.toNat) (fun s => s.freshBase s.cur t.toNat)
        (fun s l => [{
          res := s.baseLane s.cur (s.g.base t.toNat)
            ((s.g.base t.toNat).vb.toNat + x.off.toInt + add s.g l) (sizeBytes z) true false }]) evs
    let none : MlExt := { off := 0, hint := 0, order := 0, scope := 0 }
    (∀ d t o look z, load (.vld d t o look z) { vr := [o.toNat] } d t look z none
      (fun g l => (g.lane o.toNat l).toNat) fun _ => []) ∧
    (∀ d t o look z x, load (.vld2w d t o look z x) { vr := [o.toNat] } d t look z x
      (fun g l => (g.lane o.toNat l).toNat) fun _ => []) ∧
    (∀ d t (o : BitVec 6) look z, load (.vlds d t o look z) { sr := [o.toNat] } d t look z none
      (fun g l => l * (g.sval o.toNat).toInt) fun _ => []) ∧
    (∀ d t (o : BitVec 6) look z x, load (.vlds2w d t o look z x) { sr := [o.toNat] } d t look z x
      (fun g l => l * (g.sval o.toNat).toInt) fun _ => []) ∧
    (∀ d t (o : BitVec 7) look z, load (.vldi d t o look z) { vr := [o.toNat], tags := [(.v o.toNat, 1)] } d t look z none
      (fun g l => sizeBytes z * (g.vsrc o.toNat 1 l).1.toInt) fun g => laneEvents g.xm fun l => (g.vsrc o.toNat 1 l).2) ∧
    (∀ d t (o : BitVec 7) look z x, load (.vldi2w d t o look z x) { vr := [o.toNat], tags := [(.v o.toNat, 1)] } d t look z x
      (fun g l => sizeBytes z * (g.vsrc o.toNat 1 l).1.toInt) fun g => laneEvents g.xm fun l => (g.vsrc o.toNat 1 l).2)) ∧
   (let store (i : Instr) (n : Info) (r : BitVec 7) (t : BitVec 2) (z : BitVec 3) (x : MlExt) (add : Group → Nat → Int)
        (evs : Group → List FlagEvent) : Prop :=
      P i { n with vr := n.vr ++ sizeRegs r z, pairs := sizePairs r z, ends := orderEnds x.order }
        { op := .store, size := sizeBytes z, hint := x.hint, order := x.order, scope := x.scope, counter := some 3 }
        (fun s => s.baseTurned s.cur t.toNat) (fun s => s.freshBase s.cur t.toNat)
        (fun s l => [{
          res := s.baseLane s.cur (s.g.base t.toNat)
            ((s.g.base t.toNat).vb.toNat + x.off.toInt + add s.g l) (sizeBytes z) false true
          data := if z = 5 then leBytes 4 (s.g.lane (r.toNat + 1) l).toNat ++ leBytes 4 (s.g.lane r.toNat l).toNat
            else leBytes (sizeBytes z) (s.g.lane r.toNat l).toNat }]) evs
    let none : MlExt := { off := 0, hint := 0, order := 0, scope := 0 }
    (∀ r t o z, store (.vst r t o z) { vr := [o.toNat] } r t z none
      (fun g l => (g.lane o.toNat l).toNat) fun _ => []) ∧
    (∀ r t o z x, store (.vst2w r t o z x) { vr := [o.toNat] } r t z x
      (fun g l => (g.lane o.toNat l).toNat) fun _ => []) ∧
    (∀ r t (o : BitVec 6) z, store (.vsts r t o z) { sr := [o.toNat] } r t z none
      (fun g l => l * (g.sval o.toNat).toInt) fun _ => []) ∧
    (∀ r t (o : BitVec 6) z x, store (.vsts2w r t o z x) { sr := [o.toNat] } r t z x
      (fun g l => l * (g.sval o.toNat).toInt) fun _ => []) ∧
    (∀ r t (o : BitVec 7) z, store (.vsti r t o z) { vr := [o.toNat], tags := [(.v o.toNat, 1)] } r t z none
      (fun g l => sizeBytes z * (g.vsrc o.toNat 1 l).1.toInt) fun g => laneEvents g.xm fun l => (g.vsrc o.toNat 1 l).2) ∧
    (∀ r t (o : BitVec 7) z x, store (.vsti2w r t o z x) { vr := [o.toNat], tags := [(.v o.toNat, 1)] } r t z x
      (fun g l => sizeBytes z * (g.vsrc o.toNat 1 l).1.toInt) fun g => laneEvents g.xm fun l => (g.vsrc o.toNat 1 l).2))

/-- A claim about each private access: word w of lane l lies 384 w + 4 l bytes above PVBASE; a 64-bit access takes two words
(R22, R114). -/
def PrivateForms (P : AccessClaim) : Prop :=
  let at_ (o : BitVec 7) (z : BitVec 3) (x : MlExt) (rd wr : Bool) (j : Nat) (s : State) (l : Nat) : LaneRes :=
    s.privLane s.cur ((s.g.lane o.toNat l).toNat + x.off.toInt + j) (if z = 5 ∧ j = 0 then 1 else 0) l rd wr
  let words (z : BitVec 3) : List Nat := if z = 5 then [0, 1] else [0]
  let load (i : Instr) (d o : BitVec 7) (look : BitVec 4) (z : BitVec 3) (x : MlExt) : Prop :=
    P i { vr := [o.toNat], vw := sizeRegs d z, pairs := sizePairs d z, look := some look.toNat }
      { op := .load z, size := 4, dest := loadDest d z, hint := x.hint, counter := some 0 } (fun _ => .none) id
      (fun s l => (words z).map fun j => { res := at_ o z x true false j s l }) fun _ => []
  let store (i : Instr) (r o : BitVec 7) (z : BitVec 3) (x : MlExt) : Prop :=
    P i { vr := o.toNat :: sizeRegs r z, pairs := sizePairs r z }
      { op := .store, size := 4, hint := x.hint, counter := some 3 } (fun _ => .none) id
      (fun s l => (words z).map fun j =>
        { res := at_ o z x false true j s l
          data := leBytes 4 (s.g.lane (if z = 5 ∧ j = 0 then r.toNat + 1 else r.toNat) l).toNat }) fun _ => []
  let none : MlExt := { off := 0, hint := 0, order := 0, scope := 0 }
  (∀ d o look z, z = 4 ∨ z = 5 → load (.vldp d o look z) d o look z none) ∧
  (∀ d o look z x, z = 4 ∨ z = 5 → load (.vldp2w d o look z x) d o look z x) ∧
  (∀ r o z, z = 4 ∨ z = 5 → store (.vstp r o z) r o z none) ∧
  (∀ r o z x, z = 4 ∨ z = 5 → store (.vstp2w r o z x) r o z x)

/-- A claim about each vector atomic on global memory: lane l names the word at VB + vO[l], where it is no helper lane
(R224, R225). -/
def AtomicForms (P : AccessClaim) : Prop :=
  let entry (a : BitVec 7) (b : Src) (c : BitVec 7) (t : BitVec 2) (f : AtomFields) (rd : Bool) (s : State) (l : Nat) :
      List Entry :=
    let e := typeTag f.ty
    [{
      res := s.baseLane s.cur (s.g.base t.toNat) ((s.g.base t.toNat).vb.toNat + (s.g.lane a.toNat l).toNat) 4 rd true
      b := (s.g.blane b e l).1, c := if f.op = 7 then (s.g.vsrc c.toNat e l).1 else 0 }]
  (∀ d a b c t f lock look, P (.atom d a b c t f lock look)
    { atomInfo a b c f with vw := [d.toNat], look := some look.toNat }
    { op := .atomic f lock true, size := 4, dest := .vec d.toNat, tag := typeTag f.ty, order := f.order
      scope := f.scope, counter := some 4 }
    (fun s => s.baseTurned s.cur t.toNat) (fun s => s.freshBase s.cur t.toNat) (entry a b c t f true) fun _ => []) ∧
  (∀ a b t f lock, f.op ≠ 7 → P (.red a b t f lock)
    { atomInfo a b 0 f with serial := if lock = 1 then some false else none }
    { op := .atomic f lock false, size := 4, order := f.order, scope := f.scope, counter := some 3 }
    (fun s => s.baseTurned s.cur t.toNat) (fun s => s.freshBase s.cur t.toNat) (entry a b 0 t f false) fun _ => [])

/-- Wherever it issues outside trap mode, no flag traps, the pages of its lanes are found and some lane that is no helper
lane fails a check, a vector access faults: the lowest such lane decides the cause and TVAL, TMASK names all of them, no
lane accesses memory, and nothing is counted (R111, R147, R284). -/
def LaneFaultsOf (i : Instr) (n : Info) (r : Req) (turned : State → Option State) (refresh : State → State)
    (entries : State → Nat → List Entry) (evs : Group → List FlagEvent) : Prop :=
  ∀ (s : State) (x : ReqLane) (xs : List ReqLane) (cause val : Nat),
    Issues i { n with mask := true, access := true, counter := r.counter } s → TakesFaults s → s.g.xm ≠ 0 →
    turned s = none → NoTrap s.g (s.g.raisedFlags (evs s.g)) →
    let es := entriesOf (refresh s) r entries
    let fails := fun y : ReqLane => LaneMissed y && !s.g.helper.getLsbD y.lane
    (∀ y ∈ es, ∀ va c, y.res ≠ .miss va ∧ y.res ≠ .absent va c) → es.filter fails = x :: xs → x.res = .fail cause val →
    ∃ t m, exec i s = .next t ∧ Entered s t ⟨cause, val, m, 0⟩ ∧
      ∀ l, l < 96 → (m.getLsbD l = true ↔ ∃ y ∈ es, fails y = true ∧ y.lane = l)

/-- Wherever it issues, and its one entry translates to a byte in no peer window and does not meet the group's side log,
an access made once for the group completes its issue, whatever xm holds, and raises no flag (R14, R79, R224, R225). -/
def ScalarAccess (i : Instr) (n : Info) (req : Group → Req) (entry : State → Entry) : Prop :=
  ∀ (s : State) (va key : Nat),
    let r := req s.g
    Issues i { n with access := true, counter := r.counter } s → (entry s).res = .ok va key → isPeer key = false →
    (if r.op.returns then s.logOverlaps s.cur va r.size = false else s.logLine s.cur va = false) →
    ∃ t, exec i s = .next t ∧
      Did i .seq s
        (let one := [{ lane := 0, va := va, key := key, data := (entry s).data, b := (entry s).b, c := (entry s).c }]
         if r.op.returns then s.putAccess r one 0 else s.putWrites r one) t

/-! ### BTSET's run -/

/-- The base page at an address goes on with the run of a page: it lies in the same 6 MiB-aligned region, and is valid with
the same target and rights and with the frame that continues (R188). -/
def goesOn (s : State) (ctx : Nat) (e : TlbEntry) (a : Nat) : Prop :=
  a % 6291456 ≠ 0 ∧ ∃ f, s.walk ctx a = .ok f ∧ f.size = 24576 ∧ f.target = e.target ∧ f.rd = e.rd ∧ f.wr = e.wr ∧
    f.ex = e.ex ∧ f.start = e.start + (a - e.va)

/-- The run of a page ends at an address: it is the longest sequence of pages from that page on that go on with it, the page
alone where it is larger than a base page (R188). -/
def IsRunEnd (s : State) (ctx : Nat) (e : TlbEntry) (end_ : Nat) : Prop :=
  ∃ m, end_ = e.va + e.size + 24576 * m ∧
    if e.size = 24576 then (∀ i, i < m → goesOn s ctx e (e.va + e.size + 24576 * i)) ∧ ¬goesOn s ctx e end_ else m = 0

/-! ### The scratchpad -/

/-- Whether n bytes at offset o of a team's scratchpad may be accessed: they lie in it, are aligned, and no range lock
stops the access (R214, R219). -/
def spPass (s : State) (tm : Team) (id : Nat) (o : Int) (n : Nat) (writes : Bool) : Bool :=
  decide (0 ≤ o ∧ o + n ≤ (tm.scratch : Int) ∧ o.toNat % n = 0) && !s.locked tm.core id o.toNat n writes

/-- A command of the group that accesses nothing because its mask is empty: its counter alone is raised (R16, R52). -/
def emptyIssue (s : State) (kind : ResultKind) (c : Nat) : State :=
  s.bump.setG
    { s.g.raiseCounter c with
      results := s.g.results ++ [{ id := s.fresh, kind := kind, writes := [], counter := some c }] }

/-- What a scratchpad load of size z brings to v(d): the bytes at the lanes' offsets, sign-extended for i8 and i16, zero
in a helper lane that fails (R110, R147, R219). -/
def spLoadWrites (s : State) (tm : Team) (id : Nat) (d : BitVec 7) (z : BitVec 3) (off : Nat → Int) : List RegWrite :=
  let bytes (l : Nat) : List Byte :=
    if s.g.active l then
      if spPass s tm id (off l) (sizeBytes z) false then
        s.spBytes tm.core (tm.scratchBase + (off l).toNat) (sizeBytes z)
      else List.replicate (sizeBytes z) 0
    else []
  let low := laneList.map fun l => loadWord z (bytes l)
  if z = 5 then
    [.vreg (d.toNat + 1) s.g.xm low 0, .vreg d.toNat s.g.xm (laneList.map fun l => loadWord 4 ((bytes l).drop 4)) 0]
  else [.vreg d.toNat s.g.xm low (sizeTag z)]

/-- The lines of a scratchpad that lanes which pass read, as a chunk notes them (R361). -/
def spLines (s : State) (tm : Team) (id : Nat) (z : BitVec 3) (off : Nat → Int) : List Nat :=
  ((lanesOf s.g.xm).filter fun l => spPass s tm id (off l) (sizeBytes z) false).map fun l =>
    scratchLine tm.core (tm.scratchBase + (off l).toNat)

/-- Wherever it issues, its lanes pass and its turn at the bank has come, a scratchpad load has read its bytes, and the writes
wait; while the bank has served a higher slot in this clock the group waits (R219, R220, R226). -/
def SpLoads (i : Instr) (d o : BitVec 7) (remote : Option Nat) (look : BitVec 4) (z : BitVec 3) (x : MlExt) : Prop :=
  ∀ (s : State) (tm : Team),
    Issues i
      { vr := [o.toNat], vw := sizeRegs d z, pairs := sizePairs d z, mask := true, access := true
        look := some look.toNat, counter := some 1, ends := orderEnds x.order
        serial := if x.order.getLsbD 0 then some false else none } s →
    s.spTeam s.cur remote = some tm →
    let id := s.spTeamId s.cur remote
    let off := fun l => ((s.g.lane o.toNat l).toNat : Int) + x.off.toInt
    (s.g.xm = 0 → ∃ t, exec i s = .next t ∧ Did i .seq s (emptyIssue s .load 1) t) ∧
    (s.g.xm ≠ 0 →
      (∀ l, l < 96 → s.g.active l = true → s.g.helper.getLsbD l = false →
        spPass s tm id (off l) (sizeBytes z) false = true) →
      (s.turnOf (bankPoint tm.core) s.cur = false → exec i s = .next s) ∧
      (s.turnOf (bankPoint tm.core) s.cur = true →
        let u := (s.noteReads s.cur (spLines s tm id z off)).spFlit remote
        ∃ t, exec i s = .next t ∧
          Did i .seq s
            (((u.noteServed (bankPoint tm.core) s.cur).spAcquire x.order x.scope).addResult .load
              (spLoadWrites s tm id d z off) (some 1)) t))

/-- The bytes of a store of size z from v(r). -/
def stored (g : Group) (r : BitVec 7) (z : BitVec 3) (l : Nat) : List Byte :=
  if z = 5 then leBytes 4 (g.lane (r.toNat + 1) l).toNat ++ leBytes 4 (g.lane r.toNat l).toNat
  else leBytes (sizeBytes z) (g.lane r.toNat l).toNat

/-- The store of lanes of v(r) that the group puts on its way to the bank of a team's scratchpad. -/
def bankStoreOf (s : State) (tm : Team) (remote : Option Nat) (off : Nat → Int) (data : Nat → List Byte) : BankStore :=
  { core := tm.core, team := s.spTeamId s.cur remote, remote := remote.isSome, pc := s.g.pc, word := s.g.word
    site := ⟨s.g.pc, s.g.ticket, s.g.word⟩
    lanes := (lanesOf (s.g.xm &&& ~~~s.g.helper)).map fun l =>
      ⟨l, (off l).toNat, tm.scratchBase + (off l).toNat, data l⟩ }

/-- Wherever it issues, its lanes pass and its release may complete, a scratchpad store is on its way with the bytes of its
lanes, which the bank takes in a later step; no scratchpad changes here (R147, R219, R223). -/
def SpStores (i : Instr) (r o : BitVec 7) (remote : Option Nat) (z : BitVec 3) (x : MlExt) : Prop :=
  ∀ (s : State) (tm : Team),
    Issues i
      { vr := o.toNat :: sizeRegs r z, pairs := sizePairs r z, mask := true, access := true
        counter := some 3, ends := orderEnds x.order, serial := some false, beside := true } s →
    s.spTeam s.cur remote = some tm →
    let id := s.spTeamId s.cur remote
    let off := fun l => ((s.g.lane o.toNat l).toNat : Int) + x.off.toInt
    (s.g.xm = 0 → ∃ t, exec i s = .next t ∧ Did i .seq s (emptyIssue s .store 3) t) ∧
    (s.g.xm ≠ 0 →
      (∀ l, l < 96 → s.g.active l = true → s.g.helper.getLsbD l = false →
        spPass s tm id (off l) (sizeBytes z) true = true) →
      let b := bankStoreOf s tm remote off (stored s.g r z)
      (x.order = 0 → ∃ t, exec i s = .next t ∧ Did i .seq s (s.addResult .store [] (some 3) (some b)) t) ∧
      (x.order = 2 → s.drained s.cur s.fresh = true →
        ∃ t, exec i s = .next t ∧
          Retired i .seq s ((s.releaseL1 (coreOf s.cur) x.scope).addResult .store [] (some 3) (some b)) t))

/-! ### Engine commands -/

/-- The group's command can be taken now: its range-lock entries meet no conflict and find room, the matrix queue has a
place, the group has fewer than 32 incomplete commands, and no command that waits longer comes first (R214, R243,
R248). -/
def Taken (s : State) (ents : List (Nat × RangeLock)) (matrix : Bool) : Prop :=
  s.canTake s.cur ents matrix = true ∧ s.behind s.cur (s.g.heldSince.getD s.fresh) ents matrix = false

/-- A command has been taken: it stands in the list of commands under a new number with its block, the group's next
ticket and its site; its range-lock entries stand in their tables, its counter is raised, TICKET is one higher, and
s(tdest) holds it, tag n32, unless tdest is 63; what s(tdest) held stands beside it, for a store before it that faults at its
bank (R27, R241, R263, R264). -/
def CmdIssued (s : State) (kind : CmdKind) (block : List Word) (ents : List (Nat × RangeLock)) (counter : Option Nat)
    (init : Cmd → Cmd) (tdest : BitVec 6) : State :=
  let c : Cmd :=
    { group := s.cur, ctx := s.g.ctx, grid := s.g.grid, team := s.g.team, core := coreOf s.cur, kind := kind
      ticket := s.g.ticket + 1, site := ⟨s.g.pc, s.g.ticket + 1, s.g.word⟩, block := block, counter := counter
      step := (s.context s.g.ctx).step
      old := if tdest = 63 then none else some (s.g.phys tdest.toNat, s.g.sreg tdest.toNat) }
  let u := ents.foldl (fun u e => u.modCore e.1 fun x => { x with locks := x.locks ++ [{ e.2 with cmd := s.fresh, from_ := u.coreCycle e.1 + 1 }] }) s
  let u := { u.bump with cmds := u.cmds.put s.fresh (init c) }
  let g := match counter with
    | some i => u.g.raiseCounter i
    | none => u.g
  let g := { g with ticket := s.g.ticket + 1, heldSince := none }
  u.setG (if tdest = 63 then g else g.setS tdest.toNat (s.g.ticket + 1) 2)

/-- Wherever it issues, its block passes the checks of R264 and it can be taken, a command is taken. -/
def Commands (i : Instr) (n : Group → Info) (tdest : BitVec 6) (acq : Bool) (kind : CmdKind) (counter : Option Nat)
    (block : Group → List Word) (checks : State → Prop) (ents : State → List (Nat × RangeLock))
    (init : State → Cmd → Cmd) : Prop :=
  ∀ s : State, Issues i (n s.g) s → checks s → Taken s (ents s) kind.isMatrix →
    ∃ t, exec i s = .next t ∧
      Did i .seq s
        (let u := CmdIssued s kind (block s.g) (ents s) counter (init s) tdest
         if acq then u.acquireL1 (coreOf s.cur) 4 else u) t

/-- All ranges, given by offset and length, lie in the team's scratchpad. -/
def inScratch (s : State) (l : List (Nat × Nat)) : Prop := ∀ p ∈ l, p.1 + p.2 ≤ s.scratchOf s.cur

/-- The lanes of the selected rows, the format word on which all active lanes agree, and the checks of a matrix command
in the order of R264. -/
def MatrixChecks (kind : CmdKind) (sbase : BitVec 6) (v : Word) (s : State) : Prop :=
  let g := s.g
  let b := g.block sbase
  let m := matBlock b
  matFieldsOk kind b = true ∧ m.freg < g.n ∧ (kind = .mmag → m.ireg < g.n) ∧
    (g.fmt = true → tagMatches (g.vreg m.freg).tag 15 = true ∧
      (kind = .mmag → tagMatches (g.vreg m.ireg).tag 2 = true)) ∧
    g.xm ≠ 0 ∧ (∀ l, l < 96 → g.active l = true → g.lane m.freg l = v) ∧
    fmtLegal v = true ∧ (if kind = .mmas then sparseOf v < 4 else sparseOf v = 0) ∧
    (∀ p ∈ matAligned m v, p.1 % p.2 = 0) ∧ badRows m (matRows kind g m) v (s.scratchOf s.cur) = [] ∧
    inScratch s (matSources kind m (matRows kind g m) v) ∧ inScratch s [matDest m v]

/-- Wherever it issues outside trap mode, the first check of a list that fails decides the fault of a command; it is not
taken, and nothing but the fault's own registers changes (R27, R264). -/
def ChecksFail (i : Instr) (n : Group → Info) (checks : State → List (Bool × Trap)) : Prop :=
  ∀ (s : State) (x : Bool × Trap), Issues i (n s.g) s → TakesFaults s → (checks s).find? (fun c => !c.1) = some x →
    ∃ t, exec i s = .next t ∧ Entered s t x.2

/-- The checks of alignment: each value is a multiple of its unit. -/
def alignChecks (g : Group) (l : List (Nat × Nat)) : List (Bool × Trap) :=
  l.map fun p => (p.1 % p.2 == 0, ⟨0x0D, p.1, g.xm, 0⟩)

/-- The checks of bounds: each range, given by offset and length, lies in the team's scratchpad. -/
def boundChecks (s : State) (l : List (Nat × Nat)) : List (Bool × Trap) :=
  l.map fun p => (decide (p.1 + p.2 ≤ s.scratchOf s.cur), ⟨0x0A, p.1, s.g.xm, 0⟩)

/-- The check of a block's fields and limits. -/
def fieldCheck (g : Group) (ok : Bool) : Bool × Trap := (ok, ⟨0x12, 1, g.xm, 0⟩)

/-- The tag of a register that a block names, checked under GCTL.FMT. -/
def tagCheck (g : Group) (r : Nat) (tag : BitVec 4) : Bool × Trap :=
  (!g.fmt || tagMatches (g.vreg r).tag tag, ⟨0x06, (g.vreg r).tag.toNat + 16 * tag.toNat + 256 * (128 + r), g.xm, 0⟩)

/-- The checks of a matrix command, in the order of R264: 4 and 5 by the format word of the lowest active lane, where there
is one, then the vote and its word. -/
def matrixChecks (kind : CmdKind) (sbase : BitVec 6) (s : State) : List (Bool × Trap) :=
  let g := s.g
  let m := matBlock (g.block sbase)
  let rows := matRows kind g m
  let lanes := (List.range 96).filter g.active
  let w := g.lane m.freg (lanes.headD 0)
  let bad := badRows m rows w (s.scratchOf s.cur)
  let differ := lanes.filter fun l => g.lane m.freg l != w
  [fieldCheck g (matFieldsOk kind (g.block sbase)),
    (decide (m.freg < g.n ∧ (kind = .mmag → m.ireg < g.n)), ⟨0x12, 4, g.xm, 0⟩), tagCheck g m.freg 15] ++
    (if kind = .mmag then [tagCheck g m.ireg 2] else []) ++
    (if g.xm = 0 then []
     else
      alignChecks g (matAligned m w) ++
        [(decide (aFmt w ≤ 2 → bad = []), ⟨0x0A, if kind = .mmag then (bad.headD (0, 0)).2 else m.aoff,
          if kind = .mmag then laneMask (bad.map (·.1)) else g.xm, 0⟩)] ++
        boundChecks s (matSources kind m rows w) ++ (if dFmt w ≤ 1 then boundChecks s [matDest m w] else [])) ++
    [(decide (lanes ≠ [] ∧ differ = []), ⟨0x07, differ.headD 96, laneMask differ, 0⟩),
      (decide (fmtLegal w = true ∧ if kind = .mmas then sparseOf w < 4 else sparseOf w = 0), ⟨0x12, 2, g.xm, 0⟩)]

/-! ### Events -/

/-- The byte at k after some entries have stored their bytes one after another. -/
def storedAt (lanes : List LaneAcc) (k : Nat) (old : Byte) : Byte :=
  lanes.foldl (fun b x => if x.key ≤ k ∧ k < x.key + x.data.length then x.data.getD (k - x.key) 0 else b) old

/-- The clause at the PC of a group: one that it has begun to fetch, or of its fetch buffer, or whole in the cache of its
cluster, on one base page that the cluster's instruction TLB holds with execute permission (R12, R165, R199). Of a header
that breaks a rule no words follow there. -/
def ClauseHere (s : State) (k : Nat) (c : Clause) : Prop :=
  let g := s.group k
  let va := g.pc.toNat
  let buffered := g.fetchBuf.find? fun x => x.pc == g.pc
  g.clause = some c ∨ g.clause = none ∧ (buffered = some c ∨ buffered = none ∧
    ∃ e, (s.cluster (clusterOf k)).itlb.find? (fun e => e.holds g.ctx va) = some e ∧ e.ex = true ∧ c.pc = g.pc ∧
      s.codeWord k va (e.key va) = .ok c.header ∧
      if headerOk c.header then
        va / 24576 = (va + 4 * headerCount c.header + 3) / 24576 ∧
        s.codeWords k (va + 4) (e.key va + 4) (headerCount c.header) = .ok c.words
      else c.words = [])

/-- The newest byte at k that a core knows: its own L1's where that is dirty, else the home's. -/
def newest (s : State) (c k : Nat) : Byte :=
  match s.l1 c (k / 192) with
  | some l => if l.dirty.getLsbD (k % 192 / 48) then l.bytes.get 0 (k % 192) else s.byte k
  | none => s.byte k

/-- The lines that an access touches and that its core has pinned in some sector lie in its L1. -/
def PinsHeld (s : State) (g : Nat) (a : Access) : Prop :=
  ∀ p ∈ a.lines, ∀ i, s.pinOwner p.1 i = some (coreOf g) → (s.l1 (coreOf g) p.1).isSome = true

/-- The lanes of an atomic one after another over a memory of words: the words that result, and each lane's old value
(R226). -/
def serial (f : AtomFields) : List LaneAcc → (Nat → Word) → (Nat → Word) × AMap Word
  | [], w => (w, [])
  | x :: xs, w =>
    let w' := match atomNew f.op f.ty (w x.key) x.b x.c with
      | some v => fun k => if k = x.key then v else w k
      | none => w
    ((serial f xs w').1, (x.lane, w x.key) :: (serial f xs w').2)

/-- A management operation of the management host, in its place on stream 0, has been performed: it leaves `u`, and answers
code and payload over the central crossbar of die 0 (R314, R328). -/
def Managed (i : MgmtPacket → Instr) (p : MgmtPacket) (s : State) (u : State → State) (code : Nat) (payload : List Byte) :
    Prop :=
  p.stream = 0 → p.fromMgmtHost = true → p.psn = s.streams.get 0 0 →
    let v := u { s with streams := s.streams.put 0 (p.psn + 1) }
    exec (i p) s = .next (State.flit { v with hostOut := v.hostOut ++ [⟨4, 0, p.psn, 0, leBytes 4 code ++ payload⟩] } [8])

end Sys2Proof.Claim
end

