-- ==== Sys2Proof/Certificates/Slice0/Obligations.lean ====
section
/-! DEFINITION. The statements for the provers: what the instructions and the steps of the other agents do, what taking
an exception does, what a step is, and that decoding and memory's form are kept. -/

open Sys2Proof Sys2Proof.Machine Sys2Proof.Claim

/-- R71, R74 and R77: arithmetic, logic, bit counts and sign extension of scalars, SCMP, SSEL, SMOV, SLIT, and the
immediate and literal forms, which take a constant for s(b). Each completes wherever it issues, with the value and the
tag; no flag is raised, and nothing else changes. -/
def Obligations.ScalarOperations : Prop :=
   (Scalar2 .sadd 0 0 isSum (addrOr 1) ∧ Scalar2 .ssub 0 0 isDiff (addrOr 1) ∧
    Scalar2 .smul 0 0 isProd (plainTag 1) ∧ Scalar2 .smulhi 1 1 isHighI (plainTag 1) ∧
    Scalar2 .smulhn 2 2 isHighN (plainTag 2) ∧ Scalar2 .smin 1 1 isMinI (plainTag 1) ∧
    Scalar2 .smax 1 1 isMaxI (plainTag 1) ∧ Scalar2 .sminn 2 2 isMinN (plainTag 2) ∧
    Scalar2 .smaxn 2 2 isMaxN (plainTag 2) ∧ Scalar2 .saddc 0 0 isCarry (plainTag 2) ∧
    Scalar2 .ssubb 0 0 isBorrow (plainTag 2)) ∧
   (Scalar2 .sand 0 0 (isBits and) (addrOr 0) ∧ Scalar2 .sor 0 0 (isBits or) (plainTag 0) ∧
    Scalar2 .sxor 0 0 (isBits xor) (plainTag 0) ∧ Scalar2 .sandn 0 0 (isBits fun a b => a && !b) (plainTag 0) ∧
    (∀ d a, Scalar1 (.sclz d a) d a isClz (plainTag 2)) ∧ (∀ d a, Scalar1 (.spopc d a) d a isPopc (plainTag 2)) ∧
    (∀ d a, Scalar1 (.sbrev d a) d a isBrev (plainTag 0)) ∧
    ∀ d a n, 1 ≤ n.toNat ∧ n.toNat ≤ 32 → Scalar1 (.sext d a n) d a (isSext n.toNat) (plainTag 1)) ∧
   ((∀ cc : BitVec 4, cc.toNat ≤ 9 → Scalar2 (fun d a b => .scmp d a b cc) (condTag cc) (condTag cc)
      (fun x y v => (condHolds cc.toNat x y → v = 1) ∧ (¬condHolds cc.toNat x y → v = 0)) (plainTag 2)) ∧
    (∀ (s : State) (d a b c : BitVec 6),
      Issues (.ssel d a b c) { sr := [a.toNat, b.toNat, c.toNat], sw := [d.toNat] } s →
      ∃ t, exec (.ssel d a b c) s = .next t ∧
        t.g.sreg d.toNat = (if s.g.sval c.toNat = 0 then s.g.sreg b.toNat else s.g.sreg a.toNat) ∧
        Ran (.ssel d a b c) .seq s t [d.toNat] [] 0 []) ∧
    (∀ d a, Scalar1 (.smov d a) d a (fun x v => v = x) fun g a => (g.sreg a).tag) ∧
    (∀ (s : State) (d : BitVec 6) (tag : BitVec 4) (lit : Word), Issues (.slit d tag lit) { sw := [d.toNat] } s →
      ∃ t, exec (.slit d tag lit) s = .next t ∧ t.g.sreg d.toNat = ⟨lit, tag⟩ ∧
        Ran (.slit d tag lit) .seq s t [d.toNat] [] 0 []) ∧
    (∀ d a imm, Scalar1 (.saddImm d a imm) d a (isSum · (imm.signExtend 32) ·) (addrOr 1)) ∧
    (∀ d a imm, Scalar1 (.sandImm d a imm) d a (isBits and · (imm.signExtend 32) ·) (addrOr 0)) ∧
    (∀ d a n, Scalar1 (.sshlImm d a n) d a (isShl · (n.setWidth 32) ·) (plainTag 0)) ∧
    (∀ d a n, Scalar1 (.sshrImm d a n) d a (isShr · (n.setWidth 32) ·) (plainTag 0)) ∧
    (∀ d a n, Scalar1 (.ssraImm d a n) d a (isSra · (n.setWidth 32) ·) (plainTag 1)) ∧
    (∀ d a n, Scalar1 (.srotImm d a n) d a (isRot · (n.setWidth 32) ·) (plainTag 0)) ∧
    (∀ d a lit, Scalar1 (.saddLit d a lit) d a (isSum · lit ·) (addrOr 1)) ∧
    (∀ d a lit, Scalar1 (.sandLit d a lit) d a (isBits and · lit ·) (addrOr 0)) ∧
    (∀ d a lit, Scalar1 (.sorLit d a lit) d a (isBits or · lit ·) (plainTag 0)) ∧
    (∀ d a lit, Scalar1 (.sxorLit d a lit) d a (isBits xor · lit ·) (plainTag 0)) ∧
    ∀ d a lit, Scalar1 (.smulLit d a lit) d a (isProd · lit ·) (plainTag 1))

/-- R75: the division instructions complete on every operand value. -/
def Obligations.ScalarDivision : Prop :=
  Scalar2 .sdiv 1 1 isQuotI (plainTag 1) ∧ Scalar2 .sdivn 2 2 isQuotN (plainTag 2) ∧
  Scalar2 .srem 1 1 isRem (plainTag 1)

/-- R76: the register forms of the shifts complete with the count s(b) read as n32: at 32 and above SSHL and SSHR
give 0 and SSRA the sign alone; SROT rotates by the count modulo 32. -/
def Obligations.ScalarShifts : Prop :=
  Scalar2 .sshl 0 0 isShl (plainTag 0) ∧ Scalar2 .sshr 0 0 isShr (plainTag 0) ∧
  Scalar2 .ssra 0 0 isSra (plainTag 1) ∧ Scalar2 .srot 0 0 isRot (plainTag 0)

/-- R86: the mask instructions, lane by lane. -/
def Obligations.MaskInstructions : Prop :=
  Mask2 .mand and ∧ Mask2 .mor or ∧ Mask2 .mxor xor ∧ Mask2 .mandn (fun a b => a && !b) ∧
  (∀ (s : State) (d a : BitVec 6), Issues (.mnot d a) { infoM a with sw := tripleRegs d } s →
    ∃ t, exec (.mnot d a) s = .next t ∧ TookMask t d (~~~s.g.triple a.toNat) ∧
      Ran (.mnot d a) .seq s t (tripleRegs d) [] 0 []) ∧
  (∀ (s : State) (d a : BitVec 6), Issues (.mpopc d a) { infoM a with sw := [d.toNat] } s →
    ∃ t, exec (.mpopc d a) s = .next t ∧ (t.g.sreg d.toNat).tag = 2 ∧
      (t.g.sreg d.toNat).val.toNat = ((List.range 96).filter fun l => (s.g.triple a.toNat).getLsbD l).length ∧
      Ran (.mpopc d a) .seq s t [d.toNat] [] 0 []) ∧
  (∀ (s : State) (d a : BitVec 6), Issues (.mfirst d a) { infoM a with sw := [d.toNat] } s →
    ∃ t, exec (.mfirst d a) s = .next t ∧ (t.g.sreg d.toNat).tag = 2 ∧
      (if s.g.triple a.toNat = 0 then (t.g.sreg d.toNat).val.toNat = 96
       else (s.g.triple a.toNat).getLsbD (t.g.sreg d.toNat).val.toNat = true ∧
         ∀ l, l < (t.g.sreg d.toNat).val.toNat → (s.g.triple a.toNat).getLsbD l = false) ∧
      Ran (.mfirst d a) .seq s t [d.toNat] [] 0 []) ∧
  (∀ (s : State) (d a : BitVec 6), d.toNat ≤ 58 →
    Issues (.msetx d a) { infoM a with sw := tripleRegs d ++ [61, 62, 63], mask := true } s →
    ∃ t, exec (.msetx d a) s = .next t ∧ TookMask t d s.g.xm ∧ TookMask t 61 (s.g.xm &&& s.g.triple a.toNat) ∧
      t.g.xm = s.g.xm &&& s.g.triple a.toNat ∧
      Ran (.msetx d a) .seq s t (tripleRegs d ++ [61, 62, 63]) [] 0 []) ∧
  (∀ (s : State) (d : BitVec 6), Issues (.mgetx d) { sw := tripleRegs d, mask := true } s →
    ∃ t, exec (.mgetx d) s = .next t ∧ TookMask t d s.g.xm ∧ Ran (.mgetx d) .seq s t (tripleRegs d) [] 0 []) ∧
  ∀ (s : State) (d a : BitVec 6), Issues (.mtest d a) { infoM a with sw := [d.toNat], mask := true } s →
    ∃ t, exec (.mtest d a) s = .next t ∧ (t.g.sreg d.toNat).tag = 2 ∧
      (t.g.sreg d.toNat).val.toNat = (if s.g.triple a.toNat &&& s.g.xm ≠ 0 then 1 else 0) +
        (if s.g.triple a.toNat &&& s.g.xm = s.g.xm then 2 else 0) ∧
      Ran (.mtest d a) .seq s t [d.toNat] [] 0 []

/-- R60, R61, R83: where each transfer goes, and that it changes nothing beyond what R83 names; that IPREF asks the
cluster's cache for its block and changes nothing else (that one block is asked for at a time is the model's choice, log
entry 94); and the faults that transfers raise, with no transfer made then: a condition that is not uniform under .uni 0x04,
a target outside the address space 0x0A, a misaligned one 0x0D. That CALL's return address is taken modulo 2^56 is the
model's choice (log entry 91), that RET tests the high byte before the alignment and that displacements add exactly its
reading (log entry 16). -/
def Obligations.ControlTransfers : Prop :=
   ((∀ (s : State) (u : BitVec 1) (cond : BitVec 4) (sc : BitVec 6) (disp : BitVec 15), brOk cond sc = true →
      Issues (.br u cond sc disp) (infoBr cond sc) s → uniform u cond (s.g.triple sc.toNat) s.g.xm →
      (branchTaken cond (s.g.sval sc.toNat) (s.g.triple sc.toNat) s.g.xm → inSpace (reach s.g disp.toInt) →
        ∃ t, exec (.br u cond sc disp) s = .next t ∧
          Ran (.br u cond sc disp) (.jump (addr (reach s.g disp.toInt))) s t [] [] 0 []) ∧
      (¬branchTaken cond (s.g.sval sc.toNat) (s.g.triple sc.toNat) s.g.xm →
        ∃ t, exec (.br u cond sc disp) s = .next t ∧ Ran (.br u cond sc disp) .seq s t [] [] 0 [])) ∧
    (∀ (s : State) (disp : BitVec 15), Issues (.jmp disp) {} s → inSpace (reach s.g disp.toInt) →
      ∃ t, exec (.jmp disp) s = .next t ∧
        Ran (.jmp disp) (.jump (addr (reach s.g disp.toInt))) s t [] [] 0 []) ∧
    (∀ (s : State) (sc : BitVec 6) (disp : BitVec 15),
      Issues (.call sc disp) { sw := [sc.toNat, sc.toNat + 1], pairs := [⟨true, sc.toNat⟩] } s →
      inSpace (reach s.g disp.toInt) →
      ∃ t, exec (.call sc disp) s = .next t ∧
        (t.g.sreg sc.toNat).tag = 14 ∧ (t.g.sreg (sc.toNat + 1)).tag = 14 ∧
        t.g.pairNat sc.toNat = (s.g.pc.toNat + 4 * (s.g.code.words.length + 1)) % 2 ^ 56 ∧
        Ran (.call sc disp) (.jump (addr (reach s.g disp.toInt))) s t [sc.toNat, sc.toNat + 1] [] 0 []) ∧
    (∀ (s : State) (sc : BitVec 6),
      Issues (.ret sc) { sr := [sc.toNat, sc.toNat + 1], pairs := [⟨true, sc.toNat⟩] } s →
      s.g.pairNat sc.toNat < 2 ^ 56 → s.g.pairNat sc.toNat % 4 = 0 →
      ∃ t, exec (.ret sc) s = .next t ∧ Ran (.ret sc) (.jump (addr (s.g.pairNat sc.toNat))) s t [] [] 0 []) ∧
    (∀ (s : State) (sc : BitVec 6), Issues (.jmpi sc) { sr := [sc.toNat] } s →
      inSpace (reach s.g (s.g.sval sc.toNat).toInt) →
      ∃ t, exec (.jmpi sc) s = .next t ∧
        Ran (.jmpi sc) (.jump (addr (reach s.g (s.g.sval sc.toNat).toInt))) s t [] [] 0 []) ∧
    (∀ (s : State) (sc : BitVec 6) (disp : BitVec 15),
      Issues (.loop sc disp) { sr := [sc.toNat], sw := [sc.toNat] } s →
      (s.g.sval sc.toNat ≠ 1 → inSpace (reach s.g disp.toInt)) →
      ∃ t, exec (.loop sc disp) s = .next t ∧
        isDiff (s.g.sval sc.toNat) 1 (t.g.sreg sc.toNat).val ∧ (t.g.sreg sc.toNat).tag = 1 ∧
        Ran (.loop sc disp) (if s.g.sval sc.toNat = 1 then .seq else .jump (addr (reach s.g disp.toInt))) s t
          [sc.toNat] [] 0 []) ∧
    (∀ s : State, Issues .nop {} s → ∃ t, exec .nop s = .next t ∧ Ran .nop .seq s t [] [] 0 []) ∧
    (∀ (s : State) (disp : BitVec 15), Issues (.ipref disp) {} s →
      ∃ t, exec (.ipref disp) s = .next t ∧ Did (.ipref disp) .seq s (s.askCode s.cur (reach s.g disp.toInt)) t) ∧
    ∀ (s : State) (k : Nat) (va : Int),
      let c := s.cluster (clusterOf k)
      let block := va.toNat / 64 * 64
      let u := s.askCode k va
      (inSpace va → c.asked = none → (∀ b ∈ c.icache, ¬(b.ctx = (s.group k).ctx ∧ b.va = block)) →
        u = { s with clusters := u.clusters } ∧
          u.cluster (clusterOf k) = { c with asked := some ((s.group k).ctx, block) } ∧
          ∀ d, d ≠ clusterOf k → u.cluster d = s.cluster d) ∧
      (¬inSpace va → u = s)) ∧
   ((∀ (s : State) (cond : BitVec 4) (sc : BitVec 6) (disp : BitVec 15), 8 ≤ cond.toNat →
      Issues (.br 1 cond sc disp) (infoBr cond sc) s → s.g.triple sc.toNat &&& s.g.xm ≠ 0 →
      s.g.triple sc.toNat &&& s.g.xm ≠ s.g.xm →
      ∃ f : Trap, f.cause = 0x04 ∧ exec (.br 1 cond sc disp) s = .next (s.raise f)) ∧
    (∀ (s : State) (u : BitVec 1) (cond : BitVec 4) (sc : BitVec 6) (disp : BitVec 15), brOk cond sc = true →
      Issues (.br u cond sc disp) (infoBr cond sc) s → uniform u cond (s.g.triple sc.toNat) s.g.xm →
      branchTaken cond (s.g.sval sc.toNat) (s.g.triple sc.toNat) s.g.xm → ¬inSpace (reach s.g disp.toInt) →
      ∃ f : Trap, f.cause = 0x0A ∧ exec (.br u cond sc disp) s = .next (s.raise f)) ∧
    (∀ (s : State) (disp : BitVec 15), Issues (.jmp disp) {} s → ¬inSpace (reach s.g disp.toInt) →
      ∃ f : Trap, f.cause = 0x0A ∧ exec (.jmp disp) s = .next (s.raise f)) ∧
    (∀ (s : State) (sc : BitVec 6) (disp : BitVec 15),
      Issues (.call sc disp) { sw := [sc.toNat, sc.toNat + 1], pairs := [⟨true, sc.toNat⟩] } s →
      ¬inSpace (reach s.g disp.toInt) → ∃ f : Trap, f.cause = 0x0A ∧ exec (.call sc disp) s = .next (s.raise f)) ∧
    (∀ (s : State) (sc : BitVec 6), Issues (.jmpi sc) { sr := [sc.toNat] } s →
      ¬inSpace (reach s.g (s.g.sval sc.toNat).toInt) →
      ∃ f : Trap, f.cause = 0x0A ∧ exec (.jmpi sc) s = .next (s.raise f)) ∧
    (∀ (s : State) (sc : BitVec 6) (disp : BitVec 15),
      Issues (.loop sc disp) { sr := [sc.toNat], sw := [sc.toNat] } s → s.g.sval sc.toNat ≠ 1 →
      ¬inSpace (reach s.g disp.toInt) → ∃ f : Trap, f.cause = 0x0A ∧ exec (.loop sc disp) s = .next (s.raise f)) ∧
    (∀ (s : State) (sc : BitVec 6),
      Issues (.ret sc) { sr := [sc.toNat, sc.toNat + 1], pairs := [⟨true, sc.toNat⟩] } s →
      2 ^ 56 ≤ s.g.pairNat sc.toNat → ∃ f : Trap, f.cause = 0x0A ∧ exec (.ret sc) s = .next (s.raise f)) ∧
    ∀ (s : State) (sc : BitVec 6),
      Issues (.ret sc) { sr := [sc.toNat, sc.toNat + 1], pairs := [⟨true, sc.toNat⟩] } s →
      s.g.pairNat sc.toNat < 2 ^ 56 → s.g.pairNat sc.toNat % 4 ≠ 0 →
      ∃ f : Trap, f.cause = 0x0D ∧ exec (.ret sc) s = .next (s.raise f))

/-- R64, R84, R85, R301, R302: TRAP and BKPT in a privileged context enter their handler, RTE resumes at TPC, RTE
end ends the group and its grid, and a word that is no instruction raises its fault. HALT with no pending fault ends
the group, and first demotes it over 12 clocks where it is in the sprinter (log entry 90); YIELD goes to its continuation,
and with the ticket of a command that has not completed the group waits there. -/
def Obligations.TrapInstructionsAndHalt : Prop :=
   ((∀ (s : State) (n : BitVec 18), Issues (.trap n) {} s → TakesFaults s → (s.context s.g.ctx).priv = true →
      ∃ t, exec (.trap n) s = .next t ∧ Entered s t ⟨0x0F, n.toNat, s.g.xm, 0⟩) ∧
    (∀ (s : State) (n : BitVec 18), Issues (.bkpt n) {} s → TakesFaults s → (s.context s.g.ctx).priv = true →
      ∃ t, exec (.bkpt n) s = .next t ∧ Entered s t ⟨0x10, n.toNat, s.g.xm, 0⟩) ∧
    (∀ s : State, Issues .rte { serial := some false } s → s.g.trapMode = true →
      ∃ t, exec .rte s = .next t ∧
        Retired .rte (.resume s.g.trap.pc s.g.trap.word.toNat) s
          ((s.setG { s.g with trapMode := false }).harvests s.g.ctx
            (if s.g.trap.cause = 2 ∧
                ¬(s.g.trap.pc = s.g.trap.site.clause ∧ s.g.trap.word.toNat = s.g.trap.site.word)
              then [(29, popCount (s.g.xm &&& ~~~s.g.helper))] else [])) t ∧
        t.g.trapMode = false ∧ t.g.pc = s.g.trap.pc ∧ t.g.word = s.g.trap.word.toNat ∧ t.g.looks = [] ∧
        ∀ a, t.byte a = s.byte a) ∧
    (∀ s : State, Issues .rteEnd { serial := some false } s → s.g.trapMode = true →
      ∃ t, exec .rteEnd s = .next t ∧ t.g.halted = true ∧ t.g.trapMode = false ∧
        ∀ q, s.grids.find? s.g.grid = some q → ∃ q', t.grids.find? s.g.grid = some q' ∧ q'.cancelled = true) ∧
    (∀ (s : State) (w : Word), s.g.wait = .none → TakesFaults s →
      ∃ t, exec (.undefinedInstruction w) s = .next t ∧ Entered s t ⟨0x01, w.toNat, s.g.xm, 0⟩) ∧
    ∀ (s : State) (w : Word), s.g.wait = .none → TakesFaults s →
      ∃ t, exec (.reservedMajor w) s = .next t ∧ Entered s t ⟨0x02, w.toNat, s.g.xm, 0⟩) ∧
   ((∀ s : State, Issues .halt { serial := some true } s → s.g.pending = [] → s.g.engine ≠ .sprinter →
      ∃ t, exec .halt s = .next t ∧ Halted s t ∧ (∀ k, k ≠ s.cur → t.group k = s.group k) ∧
        ∀ a, t.byte a = s.byte a) ∧
    (∀ s : State, Issues .halt { serial := some true } s → s.g.pending = [] → s.g.engine = .sprinter →
      ∃ t, exec .halt s = .next t ∧ (∀ a, t.byte a = s.byte a) ∧ (∀ k, k ≠ s.cur → t.group k = s.group k) ∧
        t.g = { s.g with engine := .demoting (s.cycle s.cur + 12), demoteNext := true }) ∧
    (∀ (s : State) (disp : BitVec 15), Issues (.yield 63 disp) { serial := some false } s → inSpace (reach s.g disp.toInt) →
      ∃ t, exec (.yield 63 disp) s = .next t ∧ t.g.looks = [] ∧
        Ran (.yield 63 disp) (.jump (addr (reach s.g disp.toInt))) s t [] [] 0 []) ∧
    (∀ (s : State) (sc : BitVec 6) (disp : BitVec 15), sc ≠ 63 → Issues (.yield sc disp) { sr := [sc.toNat], serial := some false } s →
      inSpace (reach s.g disp.toInt) → (s.g.ticket - s.g.sval sc.toNat).toNat < 2 ^ 31 →
      (∀ c ∈ s.cmds, ¬(c.2.group = s.cur ∧ c.2.saved = false ∧ c.2.ticket = s.g.sval sc.toNat)) →
      ∃ t, exec (.yield sc disp) s = .next t ∧ t.g.looks = [] ∧
        Ran (.yield sc disp) (.jump (addr (reach s.g disp.toInt))) s t [] [] 0 []) ∧
    (∀ (s : State) (sc : BitVec 6) (disp : BitVec 15), sc ≠ 63 → Issues (.yield sc disp) { sr := [sc.toNat], serial := some false } s →
      inSpace (reach s.g disp.toInt) → (s.g.ticket - s.g.sval sc.toNat).toNat < 2 ^ 31 →
      (∃ c ∈ s.cmds, c.2.group = s.cur ∧ c.2.saved = false ∧ c.2.ticket = s.g.sval sc.toNat) →
      ∃ t, exec (.yield sc disp) s = .next t ∧ t.g.wait = .ticket (s.g.sval sc.toNat) true ∧
        t.g.pc = addr (reach s.g disp.toInt) ∧ t.g.word = 0 ∧ t.g.s = s.g.s ∧ t.g.v = s.g.v ∧
        ∀ a, t.byte a = s.byte a) ∧
    ∀ (s : State) (sc : BitVec 6) (disp : BitVec 15), sc ≠ 63 → Issues (.yield sc disp) { sr := [sc.toNat], serial := some false } s →
      2 ^ 31 ≤ (s.g.ticket - s.g.sval sc.toNat).toNat →
      exec (.yield sc disp) s = .next (s.raise ⟨0x12, 3, s.g.xm, 0⟩))

/-- R286, R287: a fault outside trap mode, taken once the group's earlier instructions have completed, enters the
handler. A fault in trap mode ends the group as HALT ends it, and its pending faults are not delivered; the other
groups keep their registers. -/
def Obligations.ExceptionEntryAndDoubleTrap : Prop :=
   (∀ (s : State) (f : Trap), TakesFaults s → Entered s (s.raise f) f) ∧
   (∀ (s : State) (f : Trap), s.g.trapMode = true → s.g.quiet = true →
      Halted s (s.raise f) ∧ (s.raise f).g.pending = [] ∧
        ∀ k, k ≠ s.cur → ((s.raise f).group k).s = (s.group k).s ∧ ((s.raise f).group k).v = (s.group k).v)

/-- R66: the decode faults that depend on the state, in their order, whatever the instruction; the instruction has
no effect of its own then. -/
def Obligations.DecodeFaultOrder : Prop :=
  ∀ (i : Instr) (n : Info) (body : State → Res) (s : State), s.g.wait = .none →
    let high := ∃ r ∈ n.vr ++ n.vw, s.g.n ≤ r
    let odd := ∃ p ∈ n.pairs, p.bad = true
    let tag := s.g.fmt = true ∧ ∃ p ∈ n.tags, tagMatches (s.g.tagOf p.1) p.2 = false
    let covered := ∃ r ∈ n.regs, ∃ w ∈ s.g.looks, r ∈ w.regs
    (high → perform i n body s = .next (s.raise ⟨0x01, i.word.toNat, s.g.xm, 0⟩)) ∧
    (¬high → n.barred = true → perform i n body s = .next (s.raise ⟨0x14, i.word.toNat, s.g.xm, 0⟩)) ∧
    (¬high → n.barred = false → odd →
      ∃ v, perform i n body s = .next (s.raise ⟨0x08, v, s.g.xm, 0⟩)) ∧
    (¬high → n.barred = false → ¬odd → tag →
      ∃ v, perform i n body s = .next (s.raise ⟨0x06, v, s.g.xm, 0⟩)) ∧
    (¬high → n.barred = false → ¬odd → ¬tag → covered →
      ∃ v, perform i n body s = .next (s.raise ⟨0x05, v, s.g.xm, 0⟩)) ∧
    (¬high → n.barred = false → ¬odd → ¬tag → ¬covered → s.ready n = false → perform i n body s = .next s)

/-- R23, R53, R301 to R304: the privileged instructions outside the modes that may run them raise cause 0x14, SRD, SWR,
TRAP, BKPT, RTE, TSAVE, TLOAD, CTXSAVE and CTXLOAD among them; CTXSAVE and CTXLOAD in trap mode of a context without
privilege do so too, which ends the group as a double trap. -/
def Obligations.PrivilegeChecks : Prop :=
  (∀ s : State, s.g.wait = .none → TakesFaults s →
    (∀ n, (s.context s.g.ctx).priv = false →
      ∃ t, exec (.trap n) s = .next t ∧ Entered s t ⟨0x14, (Instr.trap n).word.toNat, s.g.xm, 0⟩) ∧
    (∀ n, (s.context s.g.ctx).priv = false →
      ∃ t, exec (.bkpt n) s = .next t ∧ Entered s t ⟨0x14, (Instr.bkpt n).word.toNat, s.g.xm, 0⟩) ∧
    (∃ t, exec .rte s = .next t ∧ Entered s t ⟨0x14, 0xC0000001, s.g.xm, 0⟩) ∧
    (∃ t, exec .rteEnd s = .next t ∧ Entered s t ⟨0x14, 0xC0004001, s.g.xm, 0⟩) ∧
    (∀ c a, (s.context s.g.ctx).priv = false →
      ∃ t, exec (.ctxsave c a) s = .next t ∧ Entered s t ⟨0x14, (Instr.ctxsave c a).word.toNat, s.g.xm, 0⟩) ∧
    (∀ c a, (s.context s.g.ctx).priv = false →
      ∃ t, exec (.ctxload c a) s = .next t ∧ Entered s t ⟨0x14, (Instr.ctxload c a).word.toNat, s.g.xm, 0⟩) ∧
    (∀ (d : BitVec 6) (r : BitVec 12), (s.context s.g.ctx).priv = false → 0x40 ≤ r.toNat → r.toNat ≤ 0x4F →
      ∃ t, exec (.srd d r) s = .next t ∧ Entered s t ⟨0x14, (Instr.srd d r).word.toNat, s.g.xm, 0⟩) ∧
    (∀ (d : BitVec 6) (r : BitVec 12), (s.context s.g.ctx).priv = false → 0x40 ≤ r.toNat → r.toNat ≤ 0x4F →
      ∃ t, exec (.swr d r) s = .next t ∧ Entered s t ⟨0x14, (Instr.swr d r).word.toNat, s.g.xm, 0⟩) ∧
    ∀ (r : BitVec 7) (k : BitVec 4), (s.context s.g.ctx).priv = false → r.toNat < s.g.n →
      (∃ t, exec (.tsave r k) s = .next t ∧ Entered s t ⟨0x14, (Instr.tsave r k).word.toNat, s.g.xm, 0⟩) ∧
      ∃ t, exec (.tload r k) s = .next t ∧ Entered s t ⟨0x14, (Instr.tload r k).word.toNat, s.g.xm, 0⟩) ∧
  ∀ (s : State) (c a : BitVec 6), s.g.wait = .none → s.g.trapMode = true → s.g.quiet = true →
    (s.context s.g.ctx).priv = false → ∀ i ∈ [Instr.ctxsave c a, .ctxload c a],
      ∃ t, exec i s = .next t ∧ t = s.raise ⟨0x14, i.word.toNat, s.g.xm, 0⟩ ∧ Halted s t ∧ t.g.pending = []

/-- R23 to R25, R82, R298 to R300, R336 to R338: what SRD gives of every system register, and that a read changes
nothing but s(d), the holding register of CYCLE and HARV_HI; what SWR makes of every register that the writer may
write, and of no other; a register that it may not write raises cause 0x14, and a misaligned TPC cause 0x0D. That an SWR of
TPC or TFRAME outside trap mode raises 0x14 also in a privileged context is log entry 18, and that TMASK of the misaligned
one is xm log entry 15. -/
def Obligations.SystemRegisters : Prop :=
   (∀ (s : State) (d : BitVec 6) (r : BitVec 12),
      Issues (.srd d r) { sw := [d.toNat], barred := sysBarred s r.toNat, serial := some false } s →
      (∀ e ∈ sysTable, r.toNat = e.1 →
        ∃ t, exec (.srd d r) s = .next t ∧ Did (.srd d r) .seq s (s.setG (s.g.setS d.toNat (e.2.1 s) e.2.2)) t) ∧
      (∀ k, k < 4 → r.toNat = 0x4A + k →
        ∃ t, exec (.srd d r) s = .next t ∧
          Did (.srd d r) .seq s (s.setG (s.g.setS d.toNat (s.g.trap.site.words.getD k 0) 0)) t) ∧
      (∀ k, k < 48 → r.toNat = 0x80 + k →
        let v := if k < 30 then (s.context s.g.ctx).harvest.get 0 k else 0
        ∃ t, exec (.srd d r) s = .next t ∧
          Did (.srd d r) .seq s (s.setG ({ s.g with harvHi := upper v }.setS d.toNat (BitVec.ofNat 32 v) 2)) t) ∧
      (r.toNat = 0x14 →
        let v := s.input (BitVec.ofNat 32 (s.cycle s.cur))
        ∃ t, exec (.srd d r) s = .next t ∧
          Did (.srd d r) .seq s
            (s.setG { { s.g with cycHold := some (upper (s.cycle s.cur)) }.setS d.toNat v 2 with chunkInput := some v }) t) ∧
      (r.toNat = 0x15 →
        let v := s.input (s.g.cycHold.getD (upper (s.cycle s.cur)))
        ∃ t, exec (.srd d r) s = .next t ∧
          Did (.srd d r) .seq s (s.setG { { s.g with cycHold := none }.setS d.toNat v 2 with chunkInput := some v }) t)) ∧
   (∀ (s : State) (d : BitVec 6) (r : BitVec 12), sysRegKnown r = true →
      (mayWrite s r.toNat → Issues (.swr d r) { sr := [d.toNat], serial := some false } s →
        ¬(r.toNat = 0x48 ∧ (s.g.sval d.toNat).toNat % 4 ≠ 0) →
        ∃ t, exec (.swr d r) s = .next t ∧ Did (.swr d r) .seq s (sysAfter s r.toNat (s.g.sval d.toNat)) t) ∧
      (mayWrite s r.toNat → Issues (.swr d r) { sr := [d.toNat], serial := some false } s → r.toNat = 0x48 →
        (s.g.sval d.toNat).toNat % 4 ≠ 0 →
        exec (.swr d r) s = .next (s.raise ⟨0x0D, (s.g.sval d.toNat).toNat, s.g.xm, 0⟩)) ∧
      (¬mayWrite s r.toNat → s.g.wait = .none →
        exec (.swr d r) s = .next (s.raise ⟨0x14, (Instr.swr d r).word.toNat, s.g.xm, 0⟩)))

/-- R42, R91: the vector integer instructions, lane by lane in the active lanes. The flags are those of the conversion of a
source of another format, on which the instruction may trap (log entry 12). -/
def Obligations.VectorInteger : Prop :=
  Vec2 .vadd 0 0 isSum 1 ∧ Vec2 .vsub 0 0 isDiff 1 ∧ Vec2 .vmul 0 0 isProd 1 ∧ Vec2 .vmulhi 1 1 isHighI 1 ∧
  Vec2 .vmulhn 2 2 isHighN 2 ∧ Vec2 .vmin 1 1 isMinI 1 ∧ Vec2 .vmax 1 1 isMaxI 1 ∧ Vec2 .vminn 2 2 isMinN 2 ∧
  Vec2 .vmaxn 2 2 isMaxN 2 ∧ Vec2 .vadds 1 1 isSumSat 1 ∧ Vec2 .vsubs 1 1 isDiffSat 1 ∧
  Vec2 .vand 0 0 (isBits and) 0 ∧ Vec2 .vor 0 0 (isBits or) 0 ∧ Vec2 .vxor 0 0 (isBits xor) 0 ∧
  Vec2 .vandn 0 0 (isBits fun a b => a && !b) 0 ∧ Vec2 .vshl 0 0 isShl 0 ∧ Vec2 .vshr 0 0 isShr 0 ∧
  Vec2 .vsra 0 0 isSra 1 ∧ Vec1 .vabs 1 isAbs 1 ∧ Vec1 .vclz 0 isClz 2 ∧ Vec1 .vpopc 0 isPopc 2

/-- R42, R63, R91, R92: multiply-add, selection, comparison into a triple under the old mask, moves and lane numbers. The
flags of a comparison of integers are those of the conversion of a source of another format (log entry 12). -/
def Obligations.VectorSelectCompareMove : Prop :=
  (∀ d a b c, Moves (.vmad d a b c) { sr := b.sregs, vr := a.toNat :: c.toNat :: b.vregs, vw := [d.toNat] } d
    (fun _ => 1) fun g l => g.lane a.toNat l * (g.blane b 0 l).1 + g.lane c.toNat l) ∧
  (∀ d a b c, Moves (.vsel d a b c)
    { sr := b.sregs ++ [c.toNat, c.toNat + 1, c.toNat + 2], vr := a.toNat :: b.vregs, vw := [d.toNat] } d
    (fun g => if (g.vreg a.toNat).tag = g.btag b then g.btag b else 0)
    fun g l => if (g.triple c.toNat).getLsbD l then g.lane a.toNat l else (g.blane b 0 l).1) ∧
  (∀ d b, Moves (.vmov d b) { sr := b.sregs, vr := b.vregs, vw := [d.toNat] } d (fun g => g.btag b)
    fun g l => (g.blane b 0 l).1) ∧
  (∀ d, Moves (.vidx d none) { vw := [d.toNat] } d (fun _ => 1) fun _ l => BitVec.ofNat 32 l) ∧
  (∀ d b, Moves (.vidx d (some b)) { sr := [b.toNat], vw := [d.toNat] } d (fun _ => 1)
    fun g l => BitVec.ofNat 32 l + g.sval b.toNat) ∧
  (∀ d a b, Moves (.vbcast d a b) { sr := [b.toNat], vr := [a.toNat], vw := [d.toNat] } d
    (fun g => (g.vreg a.toNat).tag)
    fun g _ => if (g.sval b.toNat).toNat < 96 then g.lane a.toNat (g.sval b.toNat).toNat else 0) ∧
  ∀ (s : State) (d : BitVec 6) (a : BitVec 7) (b : Src) (cc : BitVec 4), cc.toNat ≤ 9 →
    Issues (.vcmp d a b cc)
      { sr := b.sregs, vr := a.toNat :: b.vregs, tags := [(.v a.toNat, condTag cc), (b.reg, condTag cc)], mask := true
        sw := [d.toNat, d.toNat + 1, d.toNat + 2] } s →
    let x := fun l => s.g.vsrc a.toNat (condTag cc) l
    let y := fun l => s.g.blane b (condTag cc) l
    let fl := s.g.orLanes (fun l => (x l).2 ||| (y l).2) (s.g.bshared b (condTag cc))
    NoTrap s.g fl →
    ∃ t val, exec (.vcmp d a b cc) s = .next t ∧ WroteBits s t d.toNat val ∧
      (∀ l, l < 96 → (val l = true ↔ condHolds cc.toNat (x l).1 (y l).1)) ∧
      Ran (.vcmp d a b cc) .seq s t [d.toNat, d.toNat + 1, d.toNat + 2] [] fl []

/-- R93 to R97 and R100: the FP32 and packed 16-bit instructions complete with the value and the flags of their
operation on the operands as read, each element rounded once in the mode of the suffix or of GCTL: addition,
subtraction, multiplication, FFMA, HFMA2, FMIN, FMAX, FSCALE, FCLASS, FRND and FCMP. -/
def Obligations.FpElementwise : Prop :=
   (∀ (d a : BitVec 7) (b : Src) (rm : BitVec 3),
      VecF2 (.fadd d a b) d a b 3 3 3 (fun g => fp2 (Fmt.fp32.add g.rm) g) (some (24, 1)) ∧
      VecF2 (.fsub d a b) d a b 3 3 3 (fun g => fp2 (Fmt.fp32.sub g.rm) g) (some (24, 1)) ∧
      VecF2 (.fmul d a b) d a b 3 3 3 (fun g => fp2 (Fmt.fp32.mul g.rm) g) (some (24, 1)) ∧
      VecF2 (.faddRm d a b rm) d a b 3 3 3 (fun g => fp2 (Fmt.fp32.add (RMode.ofField g.rm rm)) g) (some (24, 1)) ∧
      VecF2 (.fsubRm d a b rm) d a b 3 3 3 (fun g => fp2 (Fmt.fp32.sub (RMode.ofField g.rm rm)) g) (some (24, 1)) ∧
      VecF2 (.fmulRm d a b rm) d a b 3 3 3 (fun g => fp2 (Fmt.fp32.mul (RMode.ofField g.rm rm)) g) (some (24, 1)) ∧
      VecF2 (.hadd2Bf16 d a b) d a b 4 4 4 (fun g => half2 .bf16 (Fmt.bf16.add g.rm)) (some (26, 2)) ∧
      VecF2 (.hadd2F16 d a b) d a b 5 5 5 (fun g => half2 .fp16 (Fmt.fp16.add g.rm)) (some (25, 2)) ∧
      VecF2 (.hmul2Bf16 d a b) d a b 4 4 4 (fun g => half2 .bf16 (Fmt.bf16.mul g.rm)) (some (26, 2)) ∧
      VecF2 (.hmul2F16 d a b) d a b 5 5 5 (fun g => half2 .fp16 (Fmt.fp16.mul g.rm)) (some (25, 2)) ∧
      VecF2 (.hadd2 d a b rm 9) d a b 5 5 5 (fun g => half2 .fp16 (Fmt.fp16.add (RMode.ofField g.rm rm))) (some (25, 2)) ∧
      VecF2 (.hadd2 d a b rm 8) d a b 4 4 4 (fun g => half2 .bf16 (Fmt.bf16.add (RMode.ofField g.rm rm))) (some (26, 2)) ∧
      VecF2 (.hmul2 d a b rm 9) d a b 5 5 5 (fun g => half2 .fp16 (Fmt.fp16.mul (RMode.ofField g.rm rm))) (some (25, 2)) ∧
      VecF2 (.hmul2 d a b rm 8) d a b 4 4 4 (fun g => half2 .bf16 (Fmt.bf16.mul (RMode.ofField g.rm rm))) (some (26, 2))) ∧
   ((∀ d a b c rm, Lanes (.ffma d a b c rm)
      { sr := b.sregs, vr := a.toNat :: c.toNat :: b.vregs, vw := [d.toNat]
        tags := [(.v a.toNat, 3), (b.reg, 3), (.v c.toNat, 3)] } d (fun _ => 3)
      (fun g l =>
        let x := g.vsrc a.toNat 3 l
        let y := g.blane b 3 l
        let z := g.vsrc c.toNat 3 l
        let r := ftzOut g.ftz (toWord (Fmt.fp32.fma (RMode.ofField g.rm rm) (f32 (ftzIn g.ftz x.1))
          (f32 (ftzIn g.ftz y.1)) (f32 (ftzIn g.ftz z.1))))
        (r.1, x.2 ||| y.2 ||| z.2 ||| r.2)) (fun g => g.bshared b 3) (some (24, 2))) ∧
    (∀ d a b c rm ty, ty = 8 ∨ ty = 9 → Lanes (.hfma2 d a b c rm ty)
      { sr := b.sregs, vr := a.toNat :: c.toNat :: b.vregs, vw := [d.toNat]
        tags := [(.v a.toNat, halfTag ty), (b.reg, halfTag ty), (.v c.toNat, halfTag ty)] } d (fun _ => halfTag ty)
      (fun g l =>
        let x := g.vsrc a.toNat (halfTag ty) l
        let y := g.blane b (halfTag ty) l
        let z := g.vsrc c.toNat (halfTag ty) l
        let t := halfFmt ty
        let f (k : Nat) := t.fma (RMode.ofField g.rm rm) (t.decode (element t x.1 k)) (t.decode (element t y.1 k))
          (t.decode (element t z.1 k))
        (packElements t [(f 0).1, (f 1).1], x.2 ||| y.2 ||| z.2 ||| (f 0).2 ||| (f 1).2))
      (fun g => g.bshared b (halfTag ty)) (halfCount ty 4)) ∧
    (∀ d a b, VecF2 (.fmin d a b) d a b 3 3 3 (fun g x y => fpMinMax false (ftzIn g.ftz x) (ftzIn g.ftz y))
      (some (24, 1))) ∧
    (∀ d a b, VecF2 (.fmax d a b) d a b 3 3 3 (fun g x y => fpMinMax true (ftzIn g.ftz x) (ftzIn g.ftz y))
      (some (24, 1))) ∧
    (∀ d a b, VecF2 (.fscale d a b) d a b 3 1 3
      (fun g x y => ftzOut g.ftz (toWord (fscale g.rm (f32 (ftzIn g.ftz x)) y.toInt))) none) ∧
    (∀ d a, VecF1 (.fclass d a) d a 3 2 (fun _ x => (1#32 <<< fclassBit x, 0)) none) ∧
    (∀ d a rm, VecF1 (.frnd d a rm) d a 3 3
      (fun g x => ftzOut g.ftz (toWord (frnd (RMode.ofField g.rm rm) (f32 (ftzIn g.ftz x))))) none) ∧
    ∀ d a b cc, cc.toNat ≤ 7 → Compares (.fcmp d a b cc)
      { sr := b.sregs, vr := a.toNat :: b.vregs, tags := [(.v a.toNat, 3), (b.reg, 3)] } d
      (fun g l =>
        let x := g.vsrc a.toNat 3 l
        let y := g.blane b 3 l
        let r := fpCompare cc (f32 (ftzIn g.ftz x.1)) (f32 (ftzIn g.ftz y.1))
        (r.1, x.2 ||| y.2 ||| r.2)) (fun g => g.bshared b 3) none)

/-- R58, R89, R98: the long-latency FP32 instructions set their flags at issue, and the write of their active lanes
waits for the event that completes it. -/
def Obligations.LongLatencyFp : Prop :=
  let one (i : BitVec 7 → BitVec 7 → BitVec 4 → Instr) (f : Group → Word → Word × Flags) : Prop :=
    ∀ d a look, LateLanes (i d a look)
      { vr := [a.toNat], vw := [d.toNat], tags := [(.v a.toNat, 3)], look := some look.toNat } d 3
      (fun g l =>
        let x := g.vsrc a.toNat 3 l
        let r := ftzOut g.ftz (f g (ftzIn g.ftz x.1))
        (r.1, x.2 ||| r.2)) (fun _ => 0) (some (24, 1))
  one .frcp (fun _ => frcp) ∧ one .frsq (fun _ => frsq) ∧ one .fexp2 (fun _ => fexp2) ∧ one .flog2 (fun _ => flog2) ∧
  one .fsin (fun _ => ftrig false) ∧ one .fcos (fun _ => ftrig true) ∧
  (∀ rm, one (fun d a look => .fsqrt d a rm look)
    fun g x => toWord (Fmt.fp32.sqrt (RMode.ofField g.rm rm) (f32 x))) ∧
  ∀ d a b rm look, LateLanes (.fdiv d a b rm look) { info2 d a b 3 3 with look := some look.toNat } d 3
    (lane2 · a b 3 3 fun g => fp2 (Fmt.fp32.div (RMode.ofField g.rm rm)) g) (fun g => g.bshared b 3) (some (24, 1))

/-- R30, R101, R103, R104: conversion, packing and tags. -/
def Obligations.ConversionPackingTags : Prop :=
  (∀ d a t sf rm sat i j, Lanes (.cvt d a t sf rm sat i j)
    { vr := if packedType t then [a.toNat, d.toNat] else [a.toNat], vw := [d.toNat]
      tags := [(.v a.toNat, typeTag sf)] } d (fun _ => typeTag t)
    (fun g l =>
      let x := g.vsrc a.toNat (typeTag sf) l
      let r := cvtValue g.rm t rm (sat == 1) (cvtSource sf i.toNat x.1)
      (putValue t j.toNat (g.lane d.toNat l) r.1, x.2 ||| r.2)) (fun _ => 0) none) ∧
  (∀ d a b ty, Moves (.pack2 d a b ty) (info2 d a b 0 0) d (fun _ => packTag ty)
    fun g l => (g.blane b 0 l).1.extractLsb' 0 16 ++ (g.lane a.toNat l).extractLsb' 0 16) ∧
  (∀ d a b ty, Moves (.pack4 d a b ty)
    { vr := [a.toNat, a.toNat + 1, b.toNat, b.toNat + 1], vw := [d.toNat]
      pairs := [⟨false, a.toNat⟩, ⟨false, b.toNat⟩] } d (fun _ => packTag ty)
    fun g l => (g.lane (b.toNat + 1) l).extractLsb' 0 8 ++ (g.lane b.toNat l).extractLsb' 0 8 ++
      (g.lane (a.toNat + 1) l).extractLsb' 0 8 ++ (g.lane a.toNat l).extractLsb' 0 8) ∧
  (∀ ty h, Vec1 (.unpack2 · · ty h) 0
    (fun x v => if ty = 3 ∨ ty = 5 then v = (x.extractLsb' (16 * h.toNat) 16).signExtend 32
      else v = (x.extractLsb' (16 * h.toNat) 16).setWidth 32) (unpackTag ty)) ∧
  (∀ ty k, Vec1 (.unpack4 · · ty k) 0
    (fun x v => if ty = 3 ∨ ty = 5 then v = (x.extractLsb' (8 * k.toNat) 8).signExtend 32
      else v = (x.extractLsb' (8 * k.toNat) 8).setWidth 32) (unpackTag ty)) ∧
  (∀ (s : State) (d : BitVec 6) (b : Src), Issues (.tagrd d b) { sr := b.sregs, vr := b.vregs, sw := [d.toNat] } s →
    ∃ t, exec (.tagrd d b) s = .next t ∧ t.g.sreg d.toNat = ⟨(s.g.btag b).setWidth 32, 2⟩ ∧
      Ran (.tagrd d b) .seq s t [d.toNat] [] 0 []) ∧
  (∀ (s : State) (r : BitVec 7) (tag : BitVec 4), Issues (.tagwr (.v r) tag) { vw := [r.toNat] } s →
    ∃ t, exec (.tagwr (.v r) tag) s = .next t ∧ t.g.vreg r.toNat = { s.g.vreg r.toNat with tag := tag } ∧
      Ran (.tagwr (.v r) tag) .seq s t [] [r.toNat] 0 []) ∧
  ∀ (s : State) (r : BitVec 6) (tag : BitVec 4), Issues (.tagwr (.s r) tag) { sw := [r.toNat] } s →
    ∃ t, exec (.tagwr (.s r) tag) s = .next t ∧ t.g.sreg r.toNat = ⟨s.g.sval r.toNat, tag⟩ ∧
      Ran (.tagwr (.s r) tag) .seq s t [r.toNat] [] 0 []

/-- R38, R39, R102, R105: VRNG and CVTSR advance the random state of each active lane once, and use the new state or
the old one; everything else is as of any element-wise instruction. -/
def Obligations.RandomNumbers : Prop :=
  (∀ (s : State) (d : BitVec 7), Issues (.vrng d) { vw := [d.toNat], mask := true } s →
    ∃ t, exec (.vrng d) s = .next t ∧
      WroteLanes s t d.toNat 2 (fun l => advanceRandom (s.g.rng.get 0 l)) ∧
      Ran (.vrng d) .seq (s.setG s.g.advanceRng) t [] [d.toNat] 0 []) ∧
  (∀ (s : State) (d a : BitVec 7) (ty : BitVec 4) (sat : BitVec 1) (j : BitVec 2) (u : Fmt), typeFmt ty = some u →
    Issues (.cvtsr d a ty sat j) { vr := [a.toNat, d.toNat], vw := [d.toNat], mask := true, tags := [(.v a.toNat, 3)] } s →
    let val := fun l =>
      let x := s.g.vsrc a.toNat 3 l
      let r := cvtsr u (sat == 1) (s.g.rng.get 0 l) (f32 x.1)
      (setElement u (s.g.lane d.toNat l) j.toNat r.1, x.2 ||| r.2)
    let fl := s.g.orLanes (fun l => (val l).2) 0
    NoTrap s.g fl →
    ∃ t, exec (.cvtsr d a ty sat j) s = .next t ∧ WroteLanes s t d.toNat (typeTag ty) (fun l => (val l).1) ∧
      Ran (.cvtsr d a ty sat j) .seq (s.setG s.g.advanceRng) t [] [d.toNat] fl []) ∧
  ∀ (g : Group) (l : Nat), l < 96 →
    (g.advanceRng).rng.get 0 l = if g.active l then advanceRandom (g.rng.get 0 l) else g.rng.get 0 l

/-- R106 to R109 and R168: interleave, shuffle, rotation, single lanes and quad exchange. -/
def Obligations.LaneMovement : Prop :=
  (∀ (s : State) (k : Nat) (i : BitVec 7 → BitVec 7 → Instr) (d a : BitVec 7),
    (k, i) ∈ [(2, Instr.zip2), (3, .zip3), (4, .zip4)] →
    Issues (i d a) { vr := block a k, vw := block d k, mask := true } s →
    ∃ t, exec (i d a) s = .next t ∧
      (∀ j, j < k → WroteLanes s t (d.toNat + j) (s.g.vreg a.toNat).tag fun l =>
        s.g.lane (a.toNat + (96 * j + l) % k) ((96 * j + l) / k)) ∧ Ran (i d a) .seq s t [] (block d k) 0 []) ∧
  (∀ (s : State) (k : Nat) (i : BitVec 7 → BitVec 7 → Instr) (d a : BitVec 7),
    (k, i) ∈ [(2, Instr.unzip2), (3, .unzip3), (4, .unzip4)] →
    Issues (i d a) { vr := block a k, vw := block d k, mask := true } s →
    ∃ t, exec (i d a) s = .next t ∧
      (∀ j, j < k → WroteLanes s t (d.toNat + j) (s.g.vreg a.toNat).tag fun l =>
        s.g.lane (a.toNat + (k * l + j) / 96) ((k * l + j) % 96)) ∧ Ran (i d a) .seq s t [] (block d k) 0 []) ∧
  (∀ d a b, Moves (.lshuf d a b) (info2 d a b 0 0) d (fun g => (g.vreg a.toNat).tag)
    fun g l => if (g.blane b 0 l).1.toNat < 96 then g.lane a.toNat (g.blane b 0 l).1.toNat else 0) ∧
  (∀ d a k, Moves (.lrot d a k) { sr := k.sregs, vr := [a.toNat], vw := [d.toNat] } d (fun g => (g.vreg a.toNat).tag)
    fun g l => g.lane a.toNat ((l + g.laneNum k) % 96)) ∧
  (∀ (s : State) (d : BitVec 6) (a : BitVec 7) (k : LaneIdx) (look : BitVec 4),
    Issues (.lread d a k look) { sr := k.sregs, sw := [d.toNat], vr := [a.toNat], look := some look.toNat } s →
    ∃ t, exec (.lread d a k look) s = .next t ∧
      StartedAll (.lread d a k look) s t
        [.sreg (s.g.phys d.toNat) (if s.g.laneNum k < 96 then s.g.lane a.toNat (s.g.laneNum k) else 0) (s.g.vreg a.toNat).tag]
        0 []) ∧
  (∀ (s : State) (d : BitVec 7) (a : BitVec 6) (k : LaneIdx),
    Issues (.lwrite d a k) { sr := a.toNat :: k.sregs, vw := [d.toNat] } s →
    ∃ t, exec (.lwrite d a k) s = .next t ∧
      (if s.g.laneNum k < 96 then
        (t.g.vreg d.toNat).tag = (s.g.sreg a.toNat).tag ∧
          ∀ l, l < 96 → t.g.lane d.toNat l = if l = s.g.laneNum k then s.g.sval a.toNat else s.g.lane d.toNat l
       else t.g.vreg d.toNat = s.g.vreg d.toNat) ∧ Ran (.lwrite d a k) .seq s t [] [d.toNat] 0 []) ∧
  (∀ (i : Instr) (d a : BitVec 7) (m : Nat → Nat),
    (i, m) ∈ [(Instr.qswapx d a, fun l => l ^^^ 1), (.qswapy d a, fun l => l ^^^ 2), (.qswapd d a, fun l => l ^^^ 3)] →
    ∀ s : State, Issues i { vr := [a.toNat], vw := [d.toNat], mask := true } s →
      ∃ t val, exec i s = .next t ∧ WroteLanes s t d.toNat (s.g.vreg a.toNat).tag val ∧
        (∀ l, l < 96 → val l = s.g.lane a.toNat (m l)) ∧ Ran i .seq s t [] [d.toNat] 0 []) ∧
  ∀ d a k, Moves (.qbcast d a k) { vr := [a.toNat], vw := [d.toNat] } d (fun g => (g.vreg a.toNat).tag)
    fun g l => g.lane a.toNat (l - l % 4 + k.toNat)

/-- R117 to R125: exact pairs and double-word arithmetic. -/
def Obligations.ExactPairs : Prop :=
  let prim (i : BitVec 7 → BitVec 7 → Src → Instr) (f : Word → Word → PairRes) : Prop :=
    ∀ d a b, Pairs (i d a b) (info2 d a b 3 3) d (fun g l =>
      (f (g.vsrc a.toNat 3 l).1 (g.blane b 3 l).1).plus ((g.vsrc a.toNat 3 l).2 ||| (g.blane b 3 l).2))
      fun g => g.bshared b 3
  prim .faddx faddxW ∧ prim .fsubx fsubxW ∧ prim .fmulx fmulxW ∧
  (∀ d a b, Pairs (.dwadd d a b) (infoPP a b) d (lanePP a b dwadd) fun g => g.bpairShared b) ∧
  (∀ d a b, Pairs (.dwmul d a b) (infoPP a b) d (lanePP a b dwmul) fun g => g.bpairShared b) ∧
  (∀ d a b, Pairs (.dwadds d a b) (infoPS a b) d (lanePS a b dwadds) fun g => g.bshared b 3) ∧
  (∀ d a b, Pairs (.dwmuls d a b) (infoPS a b) d (lanePS a b dwmuls) fun g => g.bshared b 3) ∧
  (∀ d a, Pairs (.dwnorm d a) (infoP a) d (laneP a dwnorm) fun _ => 0) ∧
  (∀ d a b look, LatePairs (.dwdiv d a b look) { infoPP a b with look := some look.toNat } d (lanePP a b dwdiv)
    fun g => g.bpairShared b) ∧
  (∀ d a look, LatePairs (.dwsqrt d a look) { infoP a with look := some look.toNat } d (laneP a dwsqrt) fun _ => 0) ∧
  (∀ d a ty rm, Pairs (.dwcvt d a 0 ty rm) { vr := [a.toNat], tags := [(.v a.toNat, typeTag ty)] } d
    (fun g l => (dwToPair ty (g.vsrc a.toNat (typeTag ty) l).1).plus (g.vsrc a.toNat (typeTag ty) l).2) fun _ => 0) ∧
  (∀ d a ty rm, Lanes (.dwcvt d a 1 ty rm) { infoP a with vw := [d.toNat] } d (fun _ => typeTag ty)
    (fun g l =>
      let xh := g.vsrc a.toNat 11 l
      let xl := g.vsrc (a.toNat + 1) 12 l
      let r := dwFromPair g.rm ty rm xh.1 xl.1
      (r.1, xh.2 ||| xl.2 ||| r.2)) (fun _ => 0) (some (27, 1))) ∧
  ∀ d a b cc, cc.toNat ≤ 7 → Compares (.dwcmp d a b cc) (infoPP a b) d
    (fun g l =>
      let xh := g.vsrc a.toNat 11 l
      let xl := g.vsrc (a.toNat + 1) 12 l
      let yh := g.blane b 11 l
      let yl := g.blane1 b 12 l
      let r := fpCompare cc (pairVal xh.1 xl.1) (pairVal yh.1 yl.1)
      (r.1, xh.2 ||| xl.2 ||| yh.2 ||| yl.2 ||| r.2)) (fun g => g.bpairShared b) (some (27, 1))

/-- R28, R36, R40: rounding to a format is done once: a result that does not overflow decodes to a finite number of the same
sign that is the exact number rounded in the mode to a multiple of the unit of its exponent, subnormals included. -/
def Obligations.RoundedOnce : Prop :=
  ∀ (t : Fmt) (rm : RMode) (neg : Bool) (m : Nat) (e : Int), 0 < m →
    let r := t.round rm false neg m e
    let q := max (e + (Nat.log2 m : Int) - t.f) t.qmin
    r.2 &&& fOVF = 0 →
    ∃ m' e' n, t.decode r.1 = .fin neg m' e' ∧ q ≤ e' ∧ n = m' * 2 ^ (e' - q).toNat ∧ IsRounded rm neg m e q n ∧
      (r.2 &&& fINX = 0 ↔ n * 2 ^ (q - min e q).toNat = m * 2 ^ (e - min e q).toNat)

/-- R126 to R128, R130, R170 to R176: the reductions, the scan and the match start with their results, whose writes wait,
and their flags set at issue. That an exclusive scan raises the flags of its last combination too is the model's reading
(log entry 22). -/
def Obligations.Collectives : Prop :=
  (∀ d a c single look,
    let vals (g : Group) := laneList.map (credInput g a single)
    let r (g : Group) := credTree (fun l => (vals g).getD l ⟨0, 0, 0⟩) (g.xm &&& g.triple c.toNat)
    LateRun (.creduce d a c single look)
      { credInfo a c single look with
        sw := [d.toNat, d.toNat + 1], pairs := ⟨true, d.toNat⟩ :: (credInfo a c single look).pairs }
      (fun g => laneEvents (g.xm &&& g.triple c.toNat) (fun l => ((vals g).getD l ⟨0, 0, 0⟩).flags) ++ (r g).2.2)
      (fun g => [.sreg (g.phys d.toNat) (r g).1 11, .sreg (g.phys (d.toNat + 1)) (r g).2.1 12])
      fun g => [(27, popCount (g.xm &&& g.triple c.toNat &&& ~~~g.helper))]) ∧
  (∀ d a c single look,
    let vals (g : Group) := laneList.map fun l => if g.active l then credInput g a single l else ⟨0, 0, 0⟩
    let rs (g : Group) := (segments (g.triple c.toNat)).map fun m =>
      (m, credTree (fun l => (vals g).getD l ⟨0, 0, 0⟩) (m &&& g.xm))
    let out (g : Group) (f : Word × Word × List FlagEvent → Word) := laneList.map fun l =>
      (((rs g).find? fun r => r.1.getLsbD l).map fun r => f r.2).getD 0
    LateRun (.credseg d a c single look)
      { credInfo a c single look with
        vw := vpair d, pairs := ⟨false, d.toNat⟩ :: (credInfo a c single look).pairs }
      (fun g => laneEvents g.xm (fun l => ((vals g).getD l ⟨0, 0, 0⟩).flags) ++ (rs g).flatMap fun r => r.2.2.2)
      (fun g => [.vreg d.toNat g.xm (out g fun r => r.1) 11, .vreg (d.toNat + 1) g.xm (out g fun r => r.2.1) 12])
      fun g => g.counts (some (27, 1))) ∧
  (∀ d a c op ty rm sat look,
    let m (g : Group) := g.xm &&& g.triple c.toNat
    let vals (g : Group) := collInputs g a ty (m g)
    let r (g : Group) := collTree g op ty rm sat (fun l => ((vals g).getD l (0, 0)).1) (m g)
    LateRun (.greduce d a c op ty rm sat look)
      { sr := [c.toNat, c.toNat + 1, c.toNat + 2], sw := [d.toNat], vr := [a.toNat], mask := true
        tags := [(.v a.toNat, typeTag ty)], look := some look.toNat }
      (fun g => laneEvents (m g) (fun l => ((vals g).getD l (0, 0)).2) ++ (r g).2)
      (fun g => [.sreg (g.phys d.toNat) (r g).1 (typeTag ty)]) fun g => collCounts g op ty (m g)) ∧
  (∀ d a op excl ty rm sat look,
    let vals (g : Group) := collInputs g a ty g.xm
    let z (g : Group) := (lanesOf g.xm).foldl (scanStep g op ty rm sat fun l => ((vals g).getD l (0, 0)).1) {}
    LateRun (.gscan d a op excl ty rm sat look)
      { vr := [a.toNat], vw := [d.toNat], mask := true, tags := [(.v a.toNat, typeTag ty)], look := some look.toNat }
      (fun g => laneEvents g.xm (fun l => ((vals g).getD l (0, 0)).2) ++ (z g).events)
      (fun g => [.vreg d.toNat g.xm
        (laneList.map fun l => (if excl = 1 then (z g).excl else (z g).incl).get 0 l) (typeTag ty)])
      fun g => collCounts g op ty g.xm) ∧
  (∀ d a c op ty rm sat look,
    let vals (g : Group) := collInputs g a ty g.xm
    let rs (g : Group) := (segments (g.triple c.toNat)).map fun m =>
      (m, collTree g op ty rm sat (fun l => ((vals g).getD l (0, 0)).1) (m &&& g.xm))
    LateRun (.gsegred d a c op ty rm sat look)
      { sr := [c.toNat, c.toNat + 1, c.toNat + 2], vr := [a.toNat], vw := [d.toNat], mask := true
        tags := [(.v a.toNat, typeTag ty)], look := some look.toNat }
      (fun g => laneEvents g.xm (fun l => ((vals g).getD l (0, 0)).2) ++ (rs g).flatMap fun r => r.2.2)
      (fun g => [.vreg d.toNat g.xm
        (laneList.map fun l => (((rs g).find? fun r => r.1.getLsbD l).map fun r => r.2.1).getD 0) (typeTag ty)])
      fun g => collCounts g op ty g.xm) ∧
  ∀ d a mode look, LateRun (.gmatch d a mode look)
    { vr := [a.toNat], vw := [d.toNat], mask := true, look := some look.toNat } (fun _ => [])
    (fun g => [.vreg d.toNat g.xm (laneList.map fun l => if g.active l then matchOf g a mode l else 0) 2]) fun _ => []

/-- R127 and R171: the fixed tree of a reduction combines the halves of each beat first, and then the beats' results
from the left; which lanes entered and their values are all that the result depends on. -/
def Obligations.ReductionTree : Prop :=
  ∀ {α : Type} (f : α → α → α × Flags) (m : LaneMask) (v : Nat → α),
    let leaf := fun l => if m.getLsbD l then some (v l) else none
    let beat := fun k => halves (fun x y => (f x y).1) leaf 5 (32 * k)
    (tree f (leavesOf m v)).1.map (·.val) = join (fun x y => (f x y).1) (join (fun x y => (f x y).1) (beat 0) (beat 1)) (beat 2) ∧
      ∀ t, (tree f (leavesOf m v)).1 = some t → t.lanes = m

/-- R170, R171, R173, R175: in plain arithmetic, a saturated integer sum over the lanes of a reduction or of a segment, and
over those up to a lane of a scan, is the exact sum clamped; a scan gives each active lane the fold of the lanes up to it; a
match gives the lowest equal lane, their number or the rank. R170 gives .sat to add alone: a saturated scan does not look at
the operation. -/
def Obligations.CollectiveValues : Prop :=
  (∀ (g : Group) (ty : BitVec 4) (rm : BitVec 3) (vals : Nat → Word) (m : LaneMask), ty = 1 ∨ ty = 2 →
    let sum := (((List.range 96).filter fun l => m.getLsbD l).map fun l => intOf (ty == 1) (vals l)).sum
    intOf (ty == 1) (collTree g 0 ty rm 1 vals m).1 =
      if ty = 1 then max (-2 ^ 31) (min (2 ^ 31 - 1) sum) else max 0 (min (2 ^ 32 - 1) sum)) ∧
  (∀ (g : Group) (op : BitVec 3) (ty : BitVec 4) (rm : BitVec 3) (vals : Nat → Word) (l : Nat), l < 96 →
    g.active l = true →
    let z := (lanesOf g.xm).foldl (scanStep g op ty rm 0 vals) {}
    let before := (List.range l).filter g.active
    let fold := fun ls => match ls with
      | [] => collEmpty op ty
      | k :: ks => ks.foldl (fun x k => (collOp g op ty rm x (vals k)).1) (vals k)
    z.incl.get 0 l = fold (before ++ [l]) ∧ z.excl.get 0 l = fold before) ∧
  (∀ (g : Group) (op : BitVec 3) (ty : BitVec 4) (rm : BitVec 3) (vals : Nat → Word) (l : Nat), l < 96 →
    g.active l = true → ty = 1 ∨ ty = 2 →
    let z := (lanesOf g.xm).foldl (scanStep g op ty rm 1 vals) {}
    let sum := fun ls : List Nat => (ls.map fun k => intOf (ty == 1) (vals k)).sum
    let before := (List.range l).filter g.active
    let lo : Int := if ty = 1 then -2 ^ 31 else 0
    let hi : Int := if ty = 1 then 2 ^ 31 - 1 else 2 ^ 32 - 1
    intOf (ty == 1) (z.incl.get 0 l) = max lo (min hi (sum (before ++ [l]))) ∧
      intOf (ty == 1) (z.excl.get 0 l) = max lo (min hi (sum before))) ∧
  ∀ (g : Group) (a : BitVec 7) (l : Nat), l < 96 → g.active l = true →
    let same := fun k => g.active k = true ∧ g.lane a.toNat k = g.lane a.toNat l
    (∃ k, k < 96 ∧ same k ∧ (∀ j, j < k → ¬same j) ∧ (matchOf g a 0 l).toNat = k) ∧
      (matchOf g a 1 l).toNat = ((List.range 96).filter fun k => g.active k && g.lane a.toNat k == g.lane a.toNat l).length ∧
      (matchOf g a 2 l).toNat = ((List.range l).filter fun k => g.active k && g.lane a.toNat k == g.lane a.toNat l).length

/-- R41: where some flag of an element-wise FP instruction is enabled, or of a conversion, of a comparison or of an exact
pair, the instruction has no result: the group enters its handler with cause 0x0E, TVAL holds all the flags that it would
set, TMASK names the lanes of the enabled ones, and the flags whose enable is 0 are set. That a conversion of a scalar or a
literal that all lanes share names every active lane is the model's reading (log entry 13). -/
def Obligations.FpExceptionTrap : Prop :=
  (∀ (d a : BitVec 7) (b : Src) (rm : BitVec 3) (look : BitVec 4),
    let two (i : Instr) (e e' : BitVec 4) (f : Group → Word → Word → Word × Flags) : Prop :=
      FpTraps i (info2 d a b e e') (fun g l => (lane2 g a b e e' f l).2) fun g => g.bshared b e'
    let mode (g : Group) : RMode := RMode.ofField g.rm rm
    two (.fadd d a b) 3 3 (fun g => fp2 (Fmt.fp32.add g.rm) g) ∧ two (.fsub d a b) 3 3 (fun g => fp2 (Fmt.fp32.sub g.rm) g) ∧
    two (.fmul d a b) 3 3 (fun g => fp2 (Fmt.fp32.mul g.rm) g) ∧
    two (.faddRm d a b rm) 3 3 (fun g => fp2 (Fmt.fp32.add (mode g)) g) ∧
    two (.fsubRm d a b rm) 3 3 (fun g => fp2 (Fmt.fp32.sub (mode g)) g) ∧
    two (.fmulRm d a b rm) 3 3 (fun g => fp2 (Fmt.fp32.mul (mode g)) g) ∧
    two (.hadd2Bf16 d a b) 4 4 (fun g => half2 .bf16 (Fmt.bf16.add g.rm)) ∧
    two (.hadd2F16 d a b) 5 5 (fun g => half2 .fp16 (Fmt.fp16.add g.rm)) ∧
    two (.hmul2Bf16 d a b) 4 4 (fun g => half2 .bf16 (Fmt.bf16.mul g.rm)) ∧
    two (.hmul2F16 d a b) 5 5 (fun g => half2 .fp16 (Fmt.fp16.mul g.rm)) ∧
    two (.hadd2 d a b rm 9) 5 5 (fun g => half2 .fp16 (Fmt.fp16.add (mode g))) ∧
    two (.hadd2 d a b rm 8) 4 4 (fun g => half2 .bf16 (Fmt.bf16.add (mode g))) ∧
    two (.hmul2 d a b rm 9) 5 5 (fun g => half2 .fp16 (Fmt.fp16.mul (mode g))) ∧
    two (.hmul2 d a b rm 8) 4 4 (fun g => half2 .bf16 (Fmt.bf16.mul (mode g))) ∧
    two (.fmin d a b) 3 3 (fun g x y => fpMinMax false (ftzIn g.ftz x) (ftzIn g.ftz y)) ∧
    two (.fmax d a b) 3 3 (fun g x y => fpMinMax true (ftzIn g.ftz x) (ftzIn g.ftz y)) ∧
    two (.fscale d a b) 3 1 (fun g x y => ftzOut g.ftz (toWord (fscale g.rm (f32 (ftzIn g.ftz x)) y.toInt))) ∧
    FpTraps (.fdiv d a b rm look) { info2 d a b 3 3 with look := some look.toNat }
      (fun g l => (lane2 g a b 3 3 (fun g => fp2 (Fmt.fp32.div (mode g)) g) l).2) fun g => g.bshared b 3) ∧
  (∀ (d a c : BitVec 7) (b : Src) (rm : BitVec 3) (ty : BitVec 4),
    let mode (g : Group) : RMode := RMode.ofField g.rm rm
    let info (e : BitVec 4) : Info :=
      { sr := b.sregs, vr := a.toNat :: c.toNat :: b.vregs, vw := [d.toNat]
        tags := [(.v a.toNat, e), (b.reg, e), (.v c.toNat, e)] }
    FpTraps (.ffma d a b c rm) (info 3)
      (fun g l =>
        let x := g.vsrc a.toNat 3 l
        let y := g.blane b 3 l
        let z := g.vsrc c.toNat 3 l
        let r := ftzOut g.ftz (toWord (Fmt.fp32.fma (mode g) (f32 (ftzIn g.ftz x.1)) (f32 (ftzIn g.ftz y.1))
          (f32 (ftzIn g.ftz z.1))))
        x.2 ||| y.2 ||| z.2 ||| r.2) (fun g => g.bshared b 3) ∧
    (ty = 8 ∨ ty = 9 → FpTraps (.hfma2 d a b c rm ty) (info (halfTag ty))
      (fun g l =>
        let x := g.vsrc a.toNat (halfTag ty) l
        let y := g.blane b (halfTag ty) l
        let z := g.vsrc c.toNat (halfTag ty) l
        let t := halfFmt ty
        let f (k : Nat) := t.fma (mode g) (t.decode (element t x.1 k)) (t.decode (element t y.1 k))
          (t.decode (element t z.1 k))
        x.2 ||| y.2 ||| z.2 ||| (f 0).2 ||| (f 1).2) fun g => g.bshared b (halfTag ty))) ∧
  (∀ (d a : BitVec 7) (rm : BitVec 3) (look : BitVec 4),
    let one (i : Instr) (f : Group → Word → Word × Flags) : Prop :=
      FpTraps i { vr := [a.toNat], vw := [d.toNat], tags := [(.v a.toNat, 3)], look := some look.toNat }
        (fun g l => (g.vsrc a.toNat 3 l).2 ||| (ftzOut g.ftz (f g (ftzIn g.ftz (g.vsrc a.toNat 3 l).1))).2) fun _ => 0
    one (.frcp d a look) (fun _ => frcp) ∧ one (.frsq d a look) (fun _ => frsq) ∧ one (.fexp2 d a look) (fun _ => fexp2) ∧
    one (.flog2 d a look) (fun _ => flog2) ∧ one (.fsin d a look) (fun _ => ftrig false) ∧
    one (.fcos d a look) (fun _ => ftrig true) ∧
    one (.fsqrt d a rm look) (fun g x => toWord (Fmt.fp32.sqrt (RMode.ofField g.rm rm) (f32 x))) ∧
    FpTraps (.frnd d a rm) { vr := [a.toNat], vw := [d.toNat], tags := [(.v a.toNat, 3)] }
      (fun g l => (lane1 g a 3 (fun g x => ftzOut g.ftz (toWord (frnd (RMode.ofField g.rm rm) (f32 (ftzIn g.ftz x))))) l).2)
      fun _ => 0) ∧
  (∀ (d a : BitVec 7) (t sf : BitVec 4) (rm : BitVec 3) (sat : BitVec 1) (i j : BitVec 2),
    FpTraps (.cvt d a t sf rm sat i j)
      { vr := if packedType t then [a.toNat, d.toNat] else [a.toNat], vw := [d.toNat]
        tags := [(.v a.toNat, typeTag sf)] }
      (fun g l =>
        let x := g.vsrc a.toNat (typeTag sf) l
        x.2 ||| (cvtValue g.rm t rm (sat == 1) (cvtSource sf i.toNat x.1)).2) fun _ => 0) ∧
  (∀ (d : BitVec 6) (a : BitVec 7) (b : Src) (cc : BitVec 4), cc.toNat ≤ 7 →
    let to_ : List Nat := [d.toNat, d.toNat + 1, d.toNat + 2]
    FpTraps (.fcmp d a b cc)
      { sr := b.sregs, vr := a.toNat :: b.vregs, tags := [(.v a.toNat, 3), (b.reg, 3)], sw := to_ }
      (fun g l =>
        let x := g.vsrc a.toNat 3 l
        let y := g.blane b 3 l
        x.2 ||| y.2 ||| (fpCompare cc (f32 (ftzIn g.ftz x.1)) (f32 (ftzIn g.ftz y.1))).2) (fun g => g.bshared b 3) ∧
    FpTraps (.dwcmp d a b cc) { infoPP a b with sw := to_ }
      (fun g l =>
        let xh := g.vsrc a.toNat 11 l
        let xl := g.vsrc (a.toNat + 1) 12 l
        let yh := g.blane b 11 l
        let yl := g.blane1 b 12 l
        xh.2 ||| xl.2 ||| yh.2 ||| yl.2 ||| (fpCompare cc (pairVal xh.1 xl.1) (pairVal yh.1 yl.1)).2)
      fun g => g.bpairShared b) ∧
  ∀ (d a : BitVec 7) (b : Src) (look : BitVec 4),
    let pair (i : Instr) (n : Info) (f : Group → Nat → PairRes) (shared : Group → Flags) : Prop :=
      FpTraps i { n with vw := vpair d, pairs := ⟨false, d.toNat⟩ :: n.pairs } (fun g l => (f g l).flags) shared
    let prim (i : Instr) (f : Word → Word → PairRes) : Prop :=
      pair i (info2 d a b 3 3)
        (fun g l => (f (g.vsrc a.toNat 3 l).1 (g.blane b 3 l).1).plus ((g.vsrc a.toNat 3 l).2 ||| (g.blane b 3 l).2))
        fun g => g.bshared b 3
    prim (.faddx d a b) faddxW ∧ prim (.fsubx d a b) fsubxW ∧ prim (.fmulx d a b) fmulxW ∧
    pair (.dwadd d a b) (infoPP a b) (lanePP a b dwadd) (fun g => g.bpairShared b) ∧
    pair (.dwmul d a b) (infoPP a b) (lanePP a b dwmul) (fun g => g.bpairShared b) ∧
    pair (.dwadds d a b) (infoPS a b) (lanePS a b dwadds) (fun g => g.bshared b 3) ∧
    pair (.dwmuls d a b) (infoPS a b) (lanePS a b dwmuls) (fun g => g.bshared b 3) ∧
    pair (.dwnorm d a) (infoP a) (laneP a dwnorm) (fun _ => 0) ∧
    pair (.dwdiv d a b look) { infoPP a b with look := some look.toNat } (lanePP a b dwdiv) (fun g => g.bpairShared b) ∧
    pair (.dwsqrt d a look) { infoP a with look := some look.toNat } (laneP a dwsqrt) fun _ => 0

/-- R110 to R116, R147, R221: the vector loads and stores. Each names the byte VB + off + what its form adds in lane
l, for as many bytes as its size. A load is in flight once issued, and its destination waits for the event that
performs it; a store takes along the low bytes of its register, and memory takes them in the event that performs it.
-/
def Obligations.GlobalLoadsAndStores : Prop := GlobalForms Accesses

/-- R114: the private accesses: word w of lane l lies 384 w + 4 l bytes above PVBASE; a 64-bit access takes two
words. -/
def Obligations.PrivateAccesses : Prop := PrivateForms Accesses

/-- R79, R80, R111, R114, R187, R188: the checks of a lane, in their order, and the byte that a lane that passes names; a
translation goes through the TLB entry of the page, whose permissions it checks. That an address pair's access below 0 fails
as one above 2^56 - 1 does is the model's choice (log entry 115). -/
def Obligations.AddressChecksAndTranslation : Prop :=
   ((∀ (s : State) (k : Nat) (b : BaseReg) (a : Int) (n : Nat) (rd wr : Bool), 0 < n →
      let low := fun x : Int => (x % 2 ^ 64).toNat
      (b.everset = false → s.baseLane k b a n rd wr = .fail 0x0A (low a)) ∧
      (b.everset = true → ¬inSpace a → s.baseLane k b a n rd wr = .fail 0x0A (low a)) ∧
      (b.everset = true → inSpace a → a.toNat % n ≠ 0 → s.baseLane k b a n rd wr = .fail 0x0D a.toNat) ∧
      (b.everset = true → inSpace a → a.toNat % n = 0 → b.vb.toNat ≤ a.toNat → a.toNat < b.vb.toNat + b.limit →
        (rd = true ∧ b.rd = false ∨ wr = true ∧ b.wr = false → s.baseLane k b a n rd wr = .fail 0x0A a.toNat) ∧
        (¬(rd = true ∧ b.rd = false ∨ wr = true ∧ b.wr = false) →
          wr = false ∨ s.compacting (s.group k).ctx a.toNat = false →
          s.baseLane k b a n rd wr = .ok a.toNat (b.target.key (b.start + (a.toNat - b.vb.toNat))))) ∧
      (b.everset = true → inSpace a → a.toNat % n = 0 → ¬(b.vb.toNat ≤ a.toNat ∧ a.toNat < b.vb.toNat + b.limit) →
        s.baseLane k b a n rd wr = s.translate k a.toNat rd wr)) ∧
    (∀ (s : State) (k : Nat) (hi : Word) (a : Int) (rd wr : Bool),
      (2 ^ 24 ≤ hi.toNat ∨ ¬inSpace a → ∃ v, s.pairLane k hi a rd wr = .fail 0x0A v) ∧
      (hi.toNat < 2 ^ 24 → inSpace a → a.toNat % 4 ≠ 0 → s.pairLane k hi a rd wr = .fail 0x0D a.toNat) ∧
      (hi.toNat < 2 ^ 24 → inSpace a → a.toNat % 4 = 0 → s.pairLane k hi a rd wr = s.translate k a.toNat rd wr)) ∧
    ∀ (s : State) (k l : Nat) (w : Int) (m : Nat) (rd wr : Bool),
      let a := (s.group k).pvbase.toNat + 384 * w.toNat + 4 * l
      (w < 0 ∨ ((s.group k).stklim.toNat : Int) ≤ w + m → ∃ v, s.privLane k w m l rd wr = .fail 0x0B v) ∧
      (0 ≤ w → w + m < ((s.group k).stklim.toNat : Int) → 2 ^ 56 ≤ a → s.privLane k w m l rd wr = .fail 0x0A a) ∧
      (0 ≤ w → w + m < ((s.group k).stklim.toNat : Int) → a < 2 ^ 56 → s.privLane k w m l rd wr = s.translate k a rd wr)) ∧
   (∀ (s : State) (k va : Nat) (e : TlbEntry) (rd wr : Bool),
      ((s.core (coreOf k)).tlb.find? fun x => x.holds (s.group k).ctx va) = some e →
      (rd = true ∧ e.rd = false ∨ wr = true ∧ e.wr = false → s.translate k va rd wr = .fail 0x0A va) ∧
      (¬(rd = true ∧ e.rd = false ∨ wr = true ∧ e.wr = false) → wr = false ∨ s.compacting (s.group k).ctx va = false →
        s.translate k va rd wr = .ok va (e.target.key (e.start + (va - e.va)))))

/-- R111, R147, R284: the lowest failing lane of a vector access to global memory decides the fault, and TMASK names all
lanes that fail; no lane accesses memory, and nothing is counted. It holds of every load, store and atomic, private ones
included. -/
def Obligations.LaneFaults : Prop :=
  (GlobalForms LaneFaultsOf ∧ PrivateForms LaneFaultsOf ∧ AtomicForms LaneFaultsOf) ∧
  ∀ (s : State) (d : BitVec 7) (t : BitVec 2) (o : BitVec 7) (look : BitVec 4) (z : BitVec 3) (l : Nat) (cause val : Nat),
    Issues (.vld d t o look z)
      { vr := [o.toNat], vw := sizeRegs d z, pairs := sizePairs d z, look := some look.toNat, mask := true
        access := true, counter := some 0 } s →
    TakesFaults s → (s.g.base t.toNat).valid = true ∨ (s.g.base t.toNat).everset = false →
    let res := fun l => s.baseLane s.cur (s.g.base t.toNat)
      ((s.g.base t.toNat).vb.toNat + (s.g.lane o.toNat l).toNat) (sizeBytes z) true false
    (∀ k va, k < 96 → s.g.active k = true → res k ≠ .miss va ∧ ∀ c, res k ≠ .absent va c) →
    l < 96 → s.g.active l = true → s.g.helper.getLsbD l = false → res l = .fail cause val →
    (∀ k, k < l → s.g.active k = true → s.g.helper.getLsbD k = false → ∀ c v, res k ≠ .fail c v) →
    ∃ t' m, exec (.vld d t o look z) s = .next t' ∧ Entered s t' ⟨cause, val, m, 0⟩ ∧
      ∀ k, k < 96 → (m.getLsbD k = true ↔
        s.g.active k = true ∧ s.g.helper.getLsbD k = false ∧ ∃ c v, res k = .fail c v)

/-- R224, R225: the vector atomics on global memory name the word at VB + vO[l] in each active lane that is no
helper lane; SATOM names one word through an address pair. Each is in flight once issued, and raises no flag; in the
sprinter one that lets go of a lock and returns nothing issues once all before it has retired (log entry 90). -/
def Obligations.GlobalAtomics : Prop :=
  AtomicForms Accesses ∧
  ∀ d a b c f lock nr look,
    let e := typeTag f.ty
    let cs := if isCas f.op then [c.toNat] else []
    let counter := if nr = 0 then some 2 else none
    ScalarAccess (.satom d a b c f lock nr look)
      { sr := [a.toNat, a.toNat + 1, b.toNat] ++ cs, sw := if nr = 0 then [d.toNat] else []
        pairs := [⟨true, a.toNat⟩], ends := some 1, look := if nr = 0 then some look.toNat else none
        serial := if nr = 0 then none else if lock = 1 then some false else none
        tags := [(.s a.toNat, 14), (.s (a.toNat + 1), 14), (.s b.toNat, e)] ++ cs.map fun r => (.s r, e) }
      (fun g => {
        op := .atomic f lock (nr == 0), size := 4, dest := if nr = 0 then .scalar (g.phys d.toNat) else .none
        tag := e, order := f.order, scope := f.scope, counter := counter, scalar := true })
      (fun s => {
        b := (s.g.ssrc b.toNat e).1, c := if f.op = 7 then (s.g.ssrc c.toNat e).1 else 0
        res := s.pairLane s.cur (s.g.sval (a.toNat + 1)) (s.g.pairNat a.toNat) (nr == 0) true })

/-- R79 to R81, R115, R188, R225, R234: SLD, SST and WAKEW name one word at the pair's address plus 4 times the offset.
BTSET takes VB and the permissions and translates once, to the limit that the run of VB's page gives, as soon as the walk's
reads are served, BTGET reads a base register back, and PREF asks for lines and writes no register, raises no counter and
changes no byte. That PREF asks under .ca alone is the model's choice (log entry 101), that TMASK of BTSET's fault is xm its
reading (log entry 15). -/
def Obligations.ScalarAccessesAndBaseRegisters : Prop :=
   ((∀ d a off look, ScalarAccess (.sld d a off look)
      { sr := [a.toNat, a.toNat + 1], sw := [d.toNat], pairs := [⟨true, a.toNat⟩]
        tags := [(.s a.toNat, 14), (.s (a.toNat + 1), 14)], look := some look.toNat }
      (fun g => { op := .load 4, size := 4, dest := .scalar (g.phys d.toNat), counter := some 2, scalar := true })
      (fun s => {
        res := s.pairLane s.cur (s.g.sval (a.toNat + 1)) (s.g.pairNat a.toNat + 4 * off.toInt) true false })) ∧
    (∀ d a off, ScalarAccess (.sst d a off)
      { sr := [d.toNat, a.toNat, a.toNat + 1], pairs := [⟨true, a.toNat⟩]
        tags := [(.s a.toNat, 14), (.s (a.toNat + 1), 14)] }
      (fun _ => { op := .store, size := 4, counter := some 3, scalar := true })
      (fun s => {
        data := leBytes 4 (s.g.sval d.toNat).toNat
        res := s.pairLane s.cur (s.g.sval (a.toNat + 1)) (s.g.pairNat a.toNat + 4 * off.toInt) false true })) ∧
    ∀ a b scope, ScalarAccess (.wakew a b scope)
      { sr := [a.toNat, a.toNat + 1, b.toNat], pairs := [⟨true, a.toNat⟩]
        tags := [(.s a.toNat, 14), (.s (a.toNat + 1), 14)], ends := some 1 }
      (fun _ => { op := .store, size := 4, scope := scope, counter := some 3, wake := true, scalar := true })
      (fun s => {
        data := leBytes 4 (s.g.sval b.toNat).toNat
        res := s.pairLane s.cur (s.g.sval (a.toNat + 1)) (s.g.pairNat a.toNat) false true })) ∧
   ((∀ (s : State) (n : BitVec 2) (a : BitVec 6) (perm : BitVec 2),
      Issues (.btset n a perm)
        { sr := [a.toNat, a.toNat + 1], pairs := [⟨true, a.toNat⟩], tags := [(.s a.toNat, 14), (.s (a.toNat + 1), 14)]
          serial := some false } s →
      let va := s.g.pairNat a.toNat
      let reads := s.baseReads s.g.ctx (BitVec.ofNat 56 va)
      let u := s.walkMade s.cur reads
      (va < 2 ^ 56 → s.walkTurned s.cur va reads = none →
        ∃ t b, exec (.btset n a perm) s = .next t ∧
          Did (.btset n a perm) .seq s (u.setG { u.g with b := s.g.b.put n.toNat b }) t ∧
          b.vb.toNat = va ∧ b.valid = true ∧ b.everset = true ∧
          match s.walk s.g.ctx va with
          | .ok e => b.rd = (perm.getLsbD 0 && e.rd) ∧ b.wr = (perm.getLsbD 1 && e.wr) ∧ b.target = e.target ∧
              b.start = e.start + (va - e.va) ∧
              ∃ end_, IsRunEnd s s.g.ctx e end_ ∧ b.limit = min (end_ - va) (2 ^ 32 - 1)
          | _ => b.limit = 0 ∧ b.rd = perm.getLsbD 0 ∧ b.wr = perm.getLsbD 1) ∧
      (∀ v, va < 2 ^ 56 → s.walkTurned s.cur va reads = some v → exec (.btset n a perm) s = .next v) ∧
      (2 ^ 56 ≤ va → exec (.btset n a perm) s = .next (s.raise ⟨0x0A, va, s.g.xm, 0⟩))) ∧
    (∀ (s : State) (d : BitVec 6) (n : BitVec 2),
      Issues (.btget d n 0) { sw := [d.toNat, d.toNat + 1], pairs := [⟨true, d.toNat⟩] } s →
      ∃ t, exec (.btget d n 0) s = .next t ∧ t.g.pairNat d.toNat = (s.g.base n.toNat).vb.toNat ∧
        (∀ r ∈ [d.toNat, d.toNat + 1], (t.g.sreg r).tag = 14) ∧ Ran (.btget d n 0) .seq s t [d.toNat, d.toNat + 1] [] 0 []) ∧
    (∀ (s : State) (d : BitVec 6) (n : BitVec 2), Issues (.btget d n 1) { sw := [d.toNat] } s →
      ∃ t, exec (.btget d n 1) s = .next t ∧ t.g.sreg d.toNat = ⟨BitVec.ofNat 32 (s.g.base n.toNat).limit, 2⟩ ∧
        Ran (.btget d n 1) .seq s t [d.toNat] [] 0 []) ∧
    (∀ (s : State) (d : BitVec 6) (n : BitVec 2), Issues (.btget d n 2) { sw := [d.toNat] } s →
      ∃ t w, exec (.btget d n 2) s = .next t ∧ t.g.sreg d.toNat = ⟨w, 0⟩ ∧
        (∀ k, k < 32 → w.getLsbD k =
          if k = 31 then (s.g.base n.toNat).valid else if k = 30 then (s.g.base n.toNat).everset
          else if k = 1 then (s.g.base n.toNat).wr else if k = 0 then (s.g.base n.toNat).rd else false) ∧
        Ran (.btget d n 2) .seq s t [d.toNat] [] 0 []) ∧
    (∀ (s : State) (t : BitVec 2) (o : BitVec 7), Issues (.pref t o) { vr := [o.toNat], mask := true } s →
      ∃ t', exec (.pref t o) s = .next t' ∧
        Did (.pref t o) .seq s
          (if s.g.xm = 0 then s else prefetch t o { off := 0, hint := 0, order := 0, scope := 0 } s) t') ∧
    (∀ (s : State) (t : BitVec 2) (o : BitVec 7) (x : MlExt), Issues (.pref2w t o x) { vr := [o.toNat], mask := true } s →
      ∃ t', exec (.pref2w t o x) s = .next t' ∧
        Did (.pref2w t o x) .seq s (if s.g.xm = 0 then s else prefetch t o x s) t') ∧
    ∀ (s : State) (t : BitVec 2) (o : BitVec 7) (x : MlExt),
      let u := prefetch t o x s
      u.g = { s.g with walkHeld := u.g.walkHeld, accesses := u.g.accesses } ∧
        (∀ k, k ≠ s.cur → u.group k = s.group k) ∧ (∀ a, u.byte a = s.byte a) ∧
        (u.g.accesses = s.g.accesses ∨ x.hint = 0 ∧ ∃ y, u.g.accesses = s.g.accesses ++ [y] ∧ y.pref = true ∧
          y.dest = .none ∧ y.counter = none ∧ y.op = .load 0))

/-- R183, R214, R219, R220, R225, R226: scratchpad loads and stores, of the group's own team and of another team of its
gang; and SPATOM: with an empty mask nothing is accessed; a group waits while a bank has served a higher slot in this
clock; else the lanes run in ascending order, each reading the word, writing what the operation gives, and returning
the old value. The bank takes the oldest store on its way from a group in such a turn too; one that meets a range locked
since it issued is a precise fault 0x0C of its group. What may issue beside a store on its way is the model's choice (log
entry 110), the turn within a clock its reading (log entry 102). -/
def Obligations.Scratchpad : Prop :=
   (let none : MlExt := { off := 0, hint := 0, order := 0, scope := 0 }
    (∀ d o look z, SpLoads (.spld d o look z) d o .none look z none) ∧
    (∀ d o look z x, SpLoads (.spld2w d o look z x) d o .none look z x) ∧
    (∀ d (n : BitVec 2) o look z, SpLoads (.spldx d n o look z) d o (some n.toNat) look z none) ∧
    (∀ d (n : BitVec 2) o look z x, SpLoads (.spldx2w d n o look z x) d o (some n.toNat) look z x) ∧
    (∀ r o z, SpStores (.spst r o z) r o .none z none) ∧
    (∀ r o z x, SpStores (.spst2w r o z x) r o .none z x) ∧
    (∀ r (n : BitVec 2) o z, SpStores (.spstx r n o z) r o (some n.toNat) z none) ∧
    (∀ r (n : BitVec 2) o z x, SpStores (.spstx2w r n o z x) r o (some n.toNat) z x)) ∧
   ((∀ (s : State) (d a : BitVec 7) (b : Src) (c : BitVec 7) (x : BitVec 1) (n : BitVec 2) (f : AtomFields) (nr : BitVec 1)
        (look : BitVec 4) (tm : Team),
      let i := Instr.spatom d a b c x n f nr look
      let remote := if x = 1 then some n.toNat else none
      Issues i
        { atomInfo a b c f with
          vw := if nr = 0 then [d.toNat] else [], mask := true, access := true, serial := some false
          counter := if nr = 0 then some 1 else none, look := if nr = 0 then some look.toNat else none } s →
      s.spTeam s.cur remote = some tm →
      let id := s.spTeamId s.cur remote
      let lanes := lanesOf (s.g.xm &&& ~~~s.g.helper)
      let key := fun l => tm.scratchBase + (s.g.lane a.toNat l).toNat
      (s.g.xm = 0 → ∃ t, exec i s = .next t ∧ Did i .seq s (if nr = 0 then emptyIssue s .atomic 1 else s) t) ∧
      (s.g.xm ≠ 0 → (∀ l ∈ lanes, spPass s tm id (s.g.lane a.toNat l).toNat 4 true = true) →
        s.turnOf (bankPoint tm.core) s.cur = false → exec i s = .next s) ∧
      (s.g.xm ≠ 0 → s.turnOf (bankPoint tm.core) s.cur = true →
        f.order.getLsbD 1 = false ∨ s.drained s.cur s.fresh = true →
        (∀ l ∈ lanes, spPass s tm id (s.g.lane a.toNat l).toNat 4 true = true) →
        let released := if f.order.getLsbD 1 then s.releaseL1 (coreOf s.cur) f.scope else s
        let p := spAtomLanes f tm.core (atomOperands b c f s.g)
          ((released.spFlit remote).noteServed (bankPoint tm.core) s.cur)
          (lanes.map fun l => (l, .ok (s.g.lane a.toNat l).toNat (key l)))
        let u := p.1.spAcquire f.order f.scope
        ∃ t, exec i s = .next t ∧
          Retired i .seq s
            (if nr = 0 then
              u.addResult .atomic [.vreg d.toNat s.g.xm (laneList.map fun l => p.2.get 0 l) (typeTag f.ty)] (some 1)
             else u) t ∧
          (f.order.getLsbD 1 = false → ∀ a, t.byte a = s.byte a))) ∧
    (∀ (f : AtomFields) (core : Nat) (ops : Nat → Word × Word) (s : State) (l key va : Nat)
        (rest : List (Nat × LaneRes)),
      let old := BitVec.ofNat 32 (leNat (s.spBytes core key 4))
      let s' := match atomNew f.op f.ty old (ops l).1 (ops l).2 with
        | some v => s.spWrite core key (leBytes 4 v.toNat)
        | none => s
      (spAtomLanes f core ops s ((l, .ok va key) :: rest)).1 = (spAtomLanes f core ops s' rest).1 ∧
        (spAtomLanes f core ops s ((l, .ok va key) :: rest)).2.find? l = some old) ∧
    (∀ (s : State) (g id : Nat) (r : Result) (b : BankStore), s.result g id .store = some r → r.bank = some b →
      let x := s.group g
      let barred := b.lanes.filter fun y => s.locked b.core b.team y.off y.data.length true
      (∀ y ∈ x.results, y.bank.isSome = true → r.id ≤ y.id) → s.turnOf (bankPoint b.core) g = true →
      (x.halted = true ∨ barred = [] →
        let u := if b.remote then s.flit [coreOf g / 32] else s
        exec (.storeAccepted g id) s = .next
          (((b.lanes.foldl (fun u y => u.spWrite b.core y.key y.data) u).noteServed (bankPoint b.core) g).finishResult g r)) ∧
      (∀ y ys, x.halted = false → x.trapMode = false → barred = y :: ys → y.off < 2 ^ 64 →
        (∀ z ∈ x.results, r.id ≤ z.id) → (∀ a ∈ x.accesses, r.id ≤ a.id) →
        ∃ t, exec (.storeAccepted g id) s = .next t ∧ (t.group g).trapMode = true ∧ (t.group g).trap.cause = 0x0C ∧
          (t.group g).trap.val.toNat = y.off ∧
          (∀ l, l < 96 → ((t.group g).trap.mask.getLsbD l = true ↔ ∃ z ∈ y :: ys, z.lane = l)) ∧
          (t.group g).trap.pc = b.pc ∧ (t.group g).trap.site = b.site ∧ (t.group g).ticket = b.site.ticket ∧
          (∀ a, t.byte a = s.byte a) ∧ ∀ c k, t.spBytes c k 1 = s.spBytes c k 1)) ∧
    ∀ (op ty : BitVec 4) (old b c : Word),
      (op = 0 → ty ≠ 7 → ∃ v, atomNew op ty old b c = some v ∧ isSum old b v) ∧
      (op = 1 → ty = 1 → ∃ v, atomNew op ty old b c = some v ∧ isMinI old b v) ∧
      (op = 2 → ty = 1 → ∃ v, atomNew op ty old b c = some v ∧ isMaxI old b v) ∧
      (op = 1 → ty = 2 → ∃ v, atomNew op ty old b c = some v ∧ isMinN old b v) ∧
      (op = 2 → ty = 2 → ∃ v, atomNew op ty old b c = some v ∧ isMaxN old b v) ∧
      (op = 3 → ∃ v, atomNew op ty old b c = some v ∧ isBits and old b v) ∧
      (op = 4 → ∃ v, atomNew op ty old b c = some v ∧ isBits or old b v) ∧
      (op = 5 → ∃ v, atomNew op ty old b c = some v ∧ isBits xor old b v) ∧
      (op = 6 → atomNew op ty old b c = some b) ∧
      (op = 7 → atomNew op ty old b c = if old = c then some b else none))

/-- R195: the L1 work of a release puts at the home exactly the bytes of the core's dirty sectors and leaves the
lines clean; that of an acquire drops the clean sectors that were filled from L2 (and, the model's choice of log entry
97, those that another agent has changed at the home since) and changes no byte; at group and team scope neither does
anything. -/
def Obligations.ReleaseAndAcquire : Prop :=
  ∀ (s : State) (c : Nat) (scope : BitVec 3),
    (scope.toNat < 2 → s.releaseL1 c scope = s ∧ s.acquireL1 c scope = s) ∧
    (2 ≤ scope.toNat → (s.core c).l1.sorted = true →
      (∀ a, (s.releaseL1 c scope).byte a = match s.l1 c (a / 192) with
        | some l => if l.dirty.getLsbD (a % 192 / 48) then l.bytes.get 0 (a % 192) else s.byte a
        | none => s.byte a) ∧
      (∀ line l, (s.releaseL1 c scope).l1 c line = some l → l.dirty = 0)) ∧
    (2 ≤ scope.toNat →
      (∀ a, (s.acquireL1 c scope).byte a = s.byte a) ∧ (s.acquireL1 c scope).groups = s.groups ∧
      ∀ line, (s.acquireL1 c scope).l1 c line =
        (s.l1 c line).map fun l => { l with valid := l.valid &&& (l.dirty ||| ~~~(l.filled ||| l.stale)) })

/-- R223, R228 to R230: FENCE completes once its conditions hold, and a release waits for them; ICINV starts the
wait for the caches, IFENCE goes on at the next clause, fetched afresh. In the sprinter each issues once all before it has
retired (R236, log entry 90); TVAL and TMASK of ICINV's fault are the model's reading (log entry 15). -/
def Obligations.FencesAndCode : Prop :=
  (∀ (s : State) (order : BitVec 2) (scope : BitVec 3), Issues (.fence order scope) { serial := some false } s →
    let c := coreOf s.cur
    (order.getLsbD 1 = true → s.drained s.cur s.fresh = true →
      ∃ t, exec (.fence order scope) s = .next t ∧
        Retired (.fence order scope) .seq s
          (if order.getLsbD 0 then (s.releaseL1 c scope).acquireL1 c scope else s.releaseL1 c scope) t) ∧
    (order.getLsbD 1 = true → s.drained s.cur s.fresh = false →
      exec (.fence order scope) s = .next (s.setG { s.g with wait := .release scope })) ∧
    (order = 1 → s.ownEntries s.cur = [] → (∀ a ∈ s.g.accesses, (a.op.returns = false ∨ a.pref = true) ∧ a.replayOf = none) →
      ∃ t, exec (.fence order scope) s = .next t ∧ Did (.fence order scope) .seq s (s.acquireL1 c scope) t)) ∧
  (∀ (s : State) (scope : BitVec 3) (a b : BitVec 6),
    Issues (.icinv scope a b)
      { sr := [a.toNat, a.toNat + 1, b.toNat], pairs := [⟨true, a.toNat⟩]
        tags := [(.s a.toNat, 14), (.s (a.toNat + 1), 14)], serial := some false } s →
    let lo := s.g.pairNat a.toNat
    let hi := lo + (s.g.sval b.toNat).toNat
    (hi ≤ 2 ^ 56 → ∃ t, exec (.icinv scope a b) s = .next t ∧
      Did (.icinv scope a b) .seq s (s.setG { s.g with wait := .icinv lo hi scope }) t) ∧
    (2 ^ 56 < hi → exec (.icinv scope a b) s = .next (s.raise ⟨0x0A, lo, s.g.xm, 0⟩))) ∧
  ∀ s : State, Issues .ifence { serial := some false } s →
    ∃ t, exec .ifence s = .next t ∧ Did .ifence .nextClause s (s.setG { s.g with fetchBuf := [] }) t ∧
      t.g.fetchBuf = [] ∧ t.g.clause = none

/-- R232, R233, R235, R361, R362: MSEND hands a message of k + 1 words to the network, and MRECV takes the oldest one of the
queue: its header and words arrive in scalars; with nothing there .poll gives 0 and the other form waits. WAITW
reads its word as a load that bypasses the L1; it ends once the value differs from s(b), or its limit has passed,
with the value in s(d), tag raw; else the group waits for a wake. In a replay the log feeds back what a polling MRECV
and a WAITW that ended on timeout returned. TVAL and TMASK of MSEND's fault are the model's reading (log entry 15). -/
def Obligations.MessagesAndWaitWord : Prop :=
   ((∀ (s : State) (q : BitVec 3) (a b : BitVec 6) (k : BitVec 3) (order : BitVec 2) (scope : BitVec 3),
      let regs := (List.range (k.toNat + 1)).map (a.toNat + ·)
      let i := Instr.msend q a b k order scope
      let to_ := (s.g.sval b.toNat).toNat
      Issues i { sr := b.toNat :: regs, serial := some false } s →
      (to_ < 256 → (s.context s.g.ctx).hasCluster (to_ / 4) = true → s.undelivered s.g < 4 →
        order.getLsbD 1 = false ∨ s.drained s.cur s.fresh = true →
        let r := if order.getLsbD 1 then s.releaseL1 (coreOf s.cur) scope else s
        ∃ t, exec i s = .next t ∧
          Retired i .seq s
            { r.bump with
              messages := r.messages ++ [{
                id := s.fresh, ctx := s.g.ctx, from_ := s.cur, team := s.g.team, index := s.g.index, toCore := to_
                queue := q.toNat, words := regs.map fun x => s.g.sval x }] } t ∧
          (order.getLsbD 1 = false → ∀ a, t.byte a = s.byte a)) ∧
      (256 ≤ to_ ∨ (s.context s.g.ctx).hasCluster (to_ / 4) = false →
        exec i s = .next (s.raise ⟨0x0A, to_, s.g.xm, 0⟩))) ∧
    ∀ (s : State) (d : BitVec 6) (q : BitVec 3) (poll : BitVec 1) (order : BitVec 2) (scope : BitVec 3) (look : BitVec 4),
      let i := Instr.mrecv d q poll order scope look
      let queue := (s.core (coreOf s.cur)).queues.get [] q.toNat
      let put := fun (u : State) (m : Message) =>
        let u := u.spAcquire order scope
        (if poll = 1 then u.setG { u.g with chunkInput := some m.header } else u).addResult .compute
          (s.g.recvWrites d m.header m.words) (some 4)
      Issues i
        { sw := (List.range 9).map (d.toNat + ·), look := some look.toNat, counter := some 4, serial := some false } s →
      (∀ m, s.g.inbox = some m → ∃ t, exec i s = .next t ∧
        Did i .seq s (put (s.setG { s.g with inbox := none }) m) t) ∧
      (∀ m ms, s.g.inbox = none → queue = m :: ms → poll = 0 ∨ s.logged ≠ some 0 → ∃ t, exec i s = .next t ∧
        Did i .seq s (put (s.modCore (coreOf s.cur) fun x => { x with queues := x.queues.put q.toNat ms }) m) t) ∧
      (s.g.inbox = none → poll = 1 → (queue = [] ∧ ∀ v, s.logged = some v → v = 0) ∨ s.logged = some 0 → ∃ t, exec i s = .next t ∧
        Did i .seq s ((s.setG { s.g with chunkInput := some 0 }).addResult .compute [.sreg (s.g.phys d.toNat) 0 2] (some 4)) t) ∧
      (s.g.inbox = none → poll = 0 ∨ (∃ v, s.logged = some v ∧ v ≠ 0) → queue = [] → ∃ t, exec i s = .next t ∧
        t.g.wait = .message q.toNat (s.cycle s.cur) ∧ t.g.s = s.g.s ∧ t.g.v = s.g.v ∧ t.g.pc = s.g.pc ∧
        t.g.word = s.g.word ∧ ∀ a, t.byte a = s.byte a)) ∧
   (∀ (s : State) (d a b c : BitVec 6) (order : BitVec 2) (scope : BitVec 3),
      let i := Instr.waitw d a b c order scope
      let limit := (s.g.sval c.toNat).toNat
      let start := s.g.waitStart.getD (s.cycle s.cur)
      Issues i
        { sr := [a.toNat, a.toNat + 1, b.toNat, c.toNat], sw := [d.toNat], pairs := [⟨true, a.toNat⟩]
          access := true, tags := [(.s a.toNat, 14), (.s (a.toNat + 1), 14)], serial := some false } s →
      (∀ v, s.g.waitAccess = none → s.g.waitRead = some v → s.logged = none → v ≠ s.g.sval b.toNat →
        ∃ t, exec i s = .next t ∧
          Did i .seq s ((s.spAcquire order scope).setG (s.g.dropWaits.setS d.toNat v 0)) t) ∧
      (∀ v, s.g.waitAccess = none → s.g.waitRead = some v → s.ownRecord s.cur = none → v = s.g.sval b.toNat →
        limit ≠ 0 → limit ≤ s.cycle s.cur - start →
        ∃ t, exec i s = .next t ∧
          Did i .seq s ((s.spAcquire order scope).setG ({ s.g.dropWaits with chunkInput := some v }.setS d.toNat v 0)) t) ∧
      (∀ v w, s.g.waitAccess = none → s.g.waitRead = some v → s.logged = some w →
        ∃ t, exec i s = .next t ∧
          Did i .seq s ((s.spAcquire order scope).setG ({ s.g.dropWaits with chunkInput := some w }.setS d.toNat w 0)) t) ∧
      (∀ v, s.g.waitAccess = none → s.g.waitRead = some v → s.logged = none → v = s.g.sval b.toNat →
        ¬(limit ≠ 0 ∧ limit ≤ s.cycle s.cur - start ∧ s.ownRecord s.cur = none) → s.g.waitAgain = false →
        ∃ t, exec i s = .next t ∧ t.g.wait = .word s.g.waitKey start limit ∧ t.g.s = s.g.s ∧ t.g.v = s.g.v ∧
          ∀ a, t.byte a = s.byte a) ∧
      (∀ va key, s.g.waitAccess = none → s.g.waitRead = none →
        s.pairLane s.cur (s.g.sval (a.toNat + 1)) (s.g.pairNat a.toNat) true false = .ok va key → isPeer key = false →
        s.logOverlaps s.cur va 4 = false →
        ∃ t x, exec i s = .next t ∧ t.g.accesses = s.g.accesses ++ [x] ∧ x.op = .load 4 ∧ x.hint = 2 ∧ x.id = s.fresh ∧
          x.lanes.map (·.key) = [key] ∧ t.g.waitAccess = some s.fresh ∧ t.g.waitStart = some start ∧
          t.g.s = s.g.s ∧ t.g.v = s.g.v ∧ t.g.pc = s.g.pc ∧ ∀ a, t.byte a = s.byte a))

/-- R177 to R180: arrival, the wait for the phase and both at once. A group arrives once its release is complete, at a gang
barrier (16 to 19) in the turn of its bed's local crossbar (R316); it enters the arrived set with the number of the present
phase, and the phase is due to complete when every group that it expects has arrived, those of all the teams of the gang at
a gang barrier; the wait ends when that phase has completed. -/
def Obligations.BarrierInstructions : Prop :=
   (∀ (s : State) (n : BitVec 6), n.toNat < 20 →
      let scope := barrierScope n.toNat
      let b := s.barrier s.g.team n.toNat
      let ended := ∀ p, s.g.phases.find? n.toNat = some p → b.phase ≠ p
      let left := s.setG { s.g with arrivalDone := false }
      let done := if (s.g.phases.find? n.toNat).isSome then left.acquireL1 (coreOf s.cur) scope else left
      let waits := fun t : State => t.g.wait = .barrier n.toNat ∧ t.g.s = s.g.s ∧ t.g.v = s.g.v ∧ t.g.pc = s.g.pc ∧
        t.g.word = s.g.word
      let info : Info := { serial := some false }
      let passes := n.toNat < 16 ∨ s.inTurns [coreOf s.cur / 32] 0 s.clock 0 = true
      (Issues (.bara n) info s → s.cur ∉ b.arrived → passes → s.drained s.cur s.fresh = true →
        ∃ t, exec (.bara n) s = .next t ∧
          Retired (.bara n) .seq s ((s.releaseL1 (coreOf s.cur) scope).arrive s.cur n.toNat) t) ∧
      (Issues (.bara n) info s → s.cur ∈ b.arrived →
        exec (.bara n) s = .next (s.setG { s.g with wait := .barrier n.toNat })) ∧
      (Issues (.bara n) info s → s.cur ∉ b.arrived → passes → s.drained s.cur s.fresh = false →
        exec (.bara n) s = .next (s.setG { s.g with wait := .release scope })) ∧
      (Issues (.bara n) info s → s.cur ∉ b.arrived → ¬passes → exec (.bara n) s = .next s) ∧
      (Issues (.barw n) info s → ended →
        ∃ t, exec (.barw n) s = .next t ∧ Retired (.barw n) .seq s done t ∧ ∀ a, t.byte a = s.byte a) ∧
      (Issues (.barw n) info s → ¬ended →
        ∃ t, exec (.barw n) s = .next t ∧ waits t ∧ .hint ∉ t.g.classes ∧ ∀ a, t.byte a = s.byte a) ∧
      (Issues (.baraw n) info s → s.g.arrivalDone = true → ended →
        ∃ t, exec (.baraw n) s = .next t ∧ Retired (.baraw n) .seq s done t ∧ ∀ a, t.byte a = s.byte a) ∧
      (Issues (.baraw n) info s → s.g.arrivalDone = false → s.cur ∉ b.arrived → passes → s.drained s.cur s.fresh = true →
        ∃ t, exec (.baraw n) s = .next t ∧ waits t ∧ t.g.arrivalDone = true) ∧
      (Issues (.baraw n) info s → s.g.arrivalDone = false →
        s.cur ∈ b.arrived ∨ passes ∧ s.drained s.cur s.fresh = false →
        ∃ t, exec (.baraw n) s = .next t ∧ .hint ∉ t.g.classes ∧ t.g.s = s.g.s ∧ t.g.v = s.g.v ∧ t.g.pc = s.g.pc ∧
          t.g.wait = if s.cur ∈ b.arrived then .barrier n.toNat else .release scope)) ∧
   ((∀ (s : State) (k n : Nat) (tm : Team), n < 16 → s.teams.find? (s.group k).team = some tm →
      let u := s.arrive k n
      let b := s.barrier (s.group k).team n
      let b' := u.barrier (s.group k).team n
      b'.arrived = b.arrived ++ [k] ∧ b'.phase = b.phase ∧ (u.group k).phases.find? n = some b.phase ∧
        (b'.due = true ↔ b.due = true ∨
          ∀ x ∈ (tm.slots.map fun l => 48 * tm.core + l), (s.group x).team = (s.group k).team →
            (s.group x).halted = false → x ∈ b.arrived ++ [k]) ∧
        ∀ a, u.byte a = s.byte a) ∧
    ∀ (s : State) (k n : Nat) (tm : Team) (q : Gang), 16 ≤ n → s.teams.find? (s.group k).team = some tm →
      s.gangs.find? tm.gang = some q →
      let u := s.arrive k n
      let b := s.barrier (s.group k).team n
      let b' := u.barrier (s.group k).team n
      b'.arrived = b.arrived ++ [k] ∧ b'.phase = b.phase ∧ (u.group k).phases.find? n = some b.phase ∧
        (b'.due = true ↔ b.due = true ∨
          ∀ v ∈ q.teams, ∀ tv, s.teams.find? v = some tv → ∀ x ∈ (tv.slots.map fun l => 48 * tv.core + l),
            (s.group x).team = v → (s.group x).halted = false → x ∈ b.arrived ++ [k]) ∧
        (∀ v tv, s.teams.find? v = some tv → tv.gang = tm.gang → u.barrier v n = b') ∧
        ∀ a, u.byte a = s.byte a)

/-- R181, R294, R304, R305, R360, R364: PROMOTE changes the group's promotion classes alone, and PROGRESS adds 1 to a
counter of its context, which stops at 2^64 - 1; a trial whose target the counter reaches stops. CTXSAVE starts the
pre-emption of a context that has none, CTXLOAD ends one; each notes the status that an event writes to the address
it names. Where a boot has left the observation block out (R364, step 8), PROGRESS counts nothing (log entry 73). -/
def Obligations.PromoteProgressAndContextRequests : Prop :=
   ((∀ s : State, Issues (.promote 1) { serial := some false } s →
      ∃ t, exec (.promote 1) s = .next t ∧ Did (.promote 1) .seq s (s.gainClass s.cur .hint) t ∧ .hint ∈ t.g.classes) ∧
    (∀ s : State, Issues (.promote 0) { serial := some false } s →
      ∃ t, exec (.promote 0) s = .next t ∧ Did (.promote 0) .seq s (s.leaveClass s.cur .hint) t ∧ .hint ∉ t.g.classes) ∧
    ∀ (s : State) (k : BitVec 3), Issues (.progress k) { serial := some false } s →
      let o := (s.context s.g.ctx).observe
      let v := min (o.progress.get 0 k.toNat + 1) (2 ^ 64 - 1)
      let u := s.modCtx s.g.ctx fun c =>
        { c with observe := { c.observe with progress := c.observe.progress.set 0 k.toNat v } }
      (s.noObserve = true → ∃ t, exec (.progress k) s = .next t ∧ Did (.progress k) .seq s s t) ∧
      (s.noObserve = false → (∀ x, o.trial = some x → ¬(x.counter = k.toNat ∧ x.target ≤ v)) →
        ∃ t, exec (.progress k) s = .next t ∧ Did (.progress k) .seq s u t) ∧
      (s.noObserve = false → ∀ x, o.trial = some x → x.counter = k.toNat → x.target ≤ v →
        ∃ t, exec (.progress k) s = .next t ∧ Did (.progress k) .seq s (u.stopTrial s.g.ctx) t)) ∧
   (∀ (s : State) (c a : BitVec 6), (s.context s.g.ctx).priv = true →
      let n : Info :=
        { sr := [c.toNat, a.toNat, a.toNat + 1], pairs := [⟨true, a.toNat⟩]
          tags := [(.s a.toNat, 14), (.s (a.toNat + 1), 14)], serial := some false }
      let x := (s.g.sval c.toNat).toNat
      let save : CtxRequest := { target := x, save := true, issuer := s.g.ctx, addr := s.g.pairNat a.toNat }
      let load : CtxRequest := { save with save := false }
      (Issues (.ctxsave c a) n s →
        ∃ t, exec (.ctxsave c a) s = .next t ∧
          match s.contexts.find? x with
          | none => Did (.ctxsave c a) .seq s { s with requests := s.requests ++ [{ save with status := some 2 }] } t
          | some k =>
            if k.preempt = .none then
              (t.context x).preempt = .draining ∧ t.requests = s.requests ++ [save] ∧ (∀ a, t.byte a = s.byte a) ∧
                ∀ v ∈ k.coreList, (t.core v).limitAt = some (s.coreCycle v + k.preemptLimit.toNat)
            else Did (.ctxsave c a) .seq s { s with requests := s.requests ++ [{ save with status := some 3 }] } t) ∧
      (Issues (.ctxload c a) n s →
        ∃ t, exec (.ctxload c a) s = .next t ∧
          match s.contexts.find? x with
          | none => Did (.ctxload c a) .seq s { s with requests := s.requests ++ [{ load with status := some 2 }] } t
          | some k =>
            if k.preempt = .none then
              Did (.ctxload c a) .seq s { s with requests := s.requests ++ [{ load with status := some 3 }] } t
            else (t.context x).preempt = .none ∧ { load with status := some 1 } ∈ t.requests ∧
              (k.preempt = .draining → ∀ r ∈ s.requests, r.save = true → r.target = x → r.status = none →
                { r with status := some (if s.vacated x then 1 else 4) } ∈ t.requests) ∧ ∀ a, t.byte a = s.byte a))

/-- R303: TSAVE and TLOAD move all 96 lanes of a register, whatever xm holds, to and from slot k of the trap frame,
384 bytes for each slot above TFRAME, with the register's tag. -/
def Obligations.TrapFrame : Prop :=
  ∀ (s : State) (r : BitVec 7) (k : BitVec 4) (key : Nat → Nat),
    let a := fun l => s.g.pvbase.toNat + 384 * (s.g.trap.frame.toNat + k.toNat) + 4 * l
    let may := s.g.trapMode = true ∨ (s.context s.g.ctx).priv = true
    (may → Issues (.tsave r k) { vr := [r.toNat], access := true, counter := some 3 } s →
      (∀ l, l < 96 → a l < 2 ^ 56 ∧ s.translate s.cur (a l) false true = .ok (a l) (key l) ∧
        isPeer (key l) = false ∧ s.logLine s.cur (a l) = false) →
      ∃ t, exec (.tsave r k) s = .next t ∧
        let u := s.putWrites { op := .store, size := 4, counter := some 3, helpers := true }
          (laneList.map fun l =>
            { lane := l, va := a l, key := key l, data := leBytes 4 (s.g.lane r.toNat l).toNat })
        Did (.tsave r k) .seq s (u.setG { u.g with slotTags := u.g.slotTags.set 0 k.toNat (s.g.vreg r.toNat).tag }) t) ∧
    (may → Issues (.tload r k) { vw := [r.toNat], access := true, counter := some 0 } s →
      (∀ l, l < 96 → a l < 2 ^ 56 ∧ s.translate s.cur (a l) true false = .ok (a l) (key l) ∧
        isPeer (key l) = false ∧ s.logOverlaps s.cur (a l) 4 = false) →
      ∃ t, exec (.tload r k) s = .next t ∧
        Did (.tload r k) .seq s
          (s.putAccess
            { op := .load 4, size := 4, dest := .vec r.toNat, tag := s.g.slotTags.get 0 k.toNat, counter := some 0
              helpers := true }
            (laneList.map fun l => { lane := l, va := a l, key := key l }) 0) t)

/-- R241, R243 to R248, R258, R260, R263, R264, R267 to R277: a command whose block passes its checks is taken: it
has the next ticket, its range locks and its counter; what its engine then does comes in later steps. SCBEGIN opens
a region and completes at issue; SCSAVE takes the region with it and closes it; CPY with CONT is taken and goes on
to the next clause only when it completes. -/
def Obligations.CommandsAreTaken : Prop :=
   (∀ (a t : BitVec 6),
      let block := fun g : Group => (List.range 8).map fun i => g.sval (a.toNat + i)
      let lock := fun (s : State) (o n : Nat) (dest : Bool) =>
        (coreOf s.cur, ({ cmd := 0, team := s.g.team, lo := o, hi := o + n, dest := dest } : RangeLock))
      (∀ acq, Commands (.cpy a t 0 acq) (fun _ => { cmdInfo a t with counter := some 5 }) t (acq == 1) .cpy (some 5) block
        (fun s =>
          let c := copyTile (block s.g)
          copyFieldsOk (block s.g) = true ∧
            (c.src.side = 2 → (s.spTeam s.cur (some c.src.team)).isSome) ∧
            (c.dst.side = 2 → (s.spTeam s.cur (some c.dst.team)).isSome))
        (fun s =>
          let c := copyTile (block s.g)
          s.copyLock s.cur c c.src false ++ s.copyLock s.cur c c.dst true) fun _ => id) ∧
      (∀ acc, ∀ p ∈ [(CmdKind.mma, Instr.mma a t acc), (.mmas, .mmas a t acc), (.mmag, .mmag a t acc)], ∀ v,
        Commands p.2 (fun g => matInfo p.1 g a t) t false p.1 none block (MatrixChecks p.1 a v)
          (fun s =>
            let m := matBlock (block s.g)
            ((matSources p.1 m (matRows p.1 s.g m) v).map fun r => lock s r.1 r.2 false) ++
              [lock s (matDest m v).1 (matDest m v).2 true])
          fun s c =>
            { c with acc := acc == 1, fmt := v, rows := matRows p.1 s.g (matBlock (block s.g))
                     region := s.g.region.map fun r => r.id }) ∧
      (∀ acq resume scat, ∀ i, i = (if scat then Instr.scat a t resume else .gath a t acq resume) →
        Commands i (fun _ => { cmdInfo a t with counter := some 7 }) t (!scat && acq == 1)
          (if scat then .scat else .gath) (some 7) block
          (fun s =>
            let b := block s.g
            let q := gatherBlock b
            (field b 6 13 19 = 0 ∧ word b 7 = 0 ∧ field b 6 10 3 ≤ 4 ∧ 1 ≤ q.e ∧ q.e ≤ 768) ∧
              (q.ioff % 4 = 0 ∧ q.doff % 16 = 0 ∧ q.soff % 192 = 0) ∧
              inScratch s [(q.ioff, 4 * q.e), (q.doff, q.z * q.e), (q.soff, 768)])
          (fun s =>
            let q := gatherBlock (block s.g)
            [lock s q.ioff (4 * q.e) false, lock s q.doff (q.z * q.e) (!scat), lock s q.soff 768 true])
          fun s c =>
            { c with
              cleared := resume == 1
              done := if resume = 1 then
                leNat (s.spBytes (coreOf s.cur)
                  (((s.teams.find? s.g.team).map fun t => t.scratchBase).getD 0 + (gatherBlock (block s.g)).soff) 96)
                else 0 }) ∧
      (∀ bf16 sp acq, Commands (.scprobe a t bf16 sp acq) (fun _ => { cmdInfo a t with counter := some 7 }) t (acq == 1)
        .scprobe (some 7) block
        (fun s =>
          let b := block s.g
          let iw := field b 3 0 16
          let ow := field b 3 16 16
          (iw ≠ 0 ∧ ow ≠ 0 ∧ if sp = 1 then word b 2 = 0 else field b 2 24 8 = 0) ∧
            (word b 4 % 4 = 0 ∧ word b 5 % 4 = 0 ∧ (sp = 1 → word b 1 % 4 = 0)) ∧
            inScratch s ([(word b 4, 4 * ow), (word b 5, 4)] ++ if sp = 1 then [(word b 1, 4 * iw)] else []))
        (fun s =>
          let b := block s.g
          (if sp = 1 then [lock s (word b 1) (4 * field b 3 0 16) false] else []) ++
            [lock s (word b 4) (4 * field b 3 16 16) true, lock s (word b 5) 4 true])
        fun _ c => { c with sp := sp == 1, bf16 := bf16 == 1 }) ∧
      (∀ scope, Commands (.nredx a t scope) (fun _ => { cmdInfo a t with counter := some 7 }) t false .nredx (some 7) block
        (fun s =>
          let b := block s.g
          (1 ≤ word b 2 ∧ word b 2 ≤ 768 ∧ word b 3 ≤ 63 ∧ 1 ≤ word b 4 ∧ word b 4 ≤ 65536 ∧ word b 5 = 0 ∧ word b 6 = 0 ∧
            word b 7 = 0) ∧ (word b 0 % 4 = 0 ∧ word b 1 % 4 = 0) ∧
            inScratch s [(word b 0, 4 * word b 2), (word b 1, 4 * word b 2)])
        (fun s =>
          let b := block s.g
          [lock s (word b 0) (4 * word b 2) false, lock s (word b 1) (4 * word b 2) true])
        fun _ c => { c with scope := scope })) ∧
   (∀ (a t : BitVec 6),
      let block := fun g : Group => (List.range 8).map fun i => g.sval (a.toNat + i)
      let lock := fun (s : State) (o n : Nat) (dest : Bool) =>
        (coreOf s.cur, ({ cmd := 0, team := s.g.team, lo := o, hi := o + n, dest := dest } : RangeLock))
      (∀ s : State, Issues (.scbegin a t) { cmdInfo a t with sr := [a.toNat], beside := false } s →
        ∃ t', exec (.scbegin a t) s = .next t' ∧
          let g : Group :=
            { s.g with region := some { key := s.g.sval a.toNat, id := s.fresh }, ticket := s.g.ticket + 1, heldSince := none }
          Did (.scbegin a t) .seq s
            (s.bump.setG (if t = 63 then g else g.setS t.toNat (s.g.ticket + 1) 2)) t') ∧
      (∀ s : State, Issues (.scsave a t) { cmdInfo a t with counter := some 7 } s →
        let b := block s.g
        let iw := field b 2 0 16
        let ow := field b 2 16 16
        let ents := [lock s (word b 1) (4 * iw) false, lock s (word b 3) (4 * ow) false]
        iw ≠ 0 ∧ ow ≠ 0 ∧ (word b 4 = 7 ∨ word b 4 = 8) ∧ word b 5 = 0 ∧ word b 6 = 0 ∧ word b 7 = 0 →
        word b 1 % 4 = 0 ∧ word b 3 % 4 = 0 → inScratch s [(word b 1, 4 * iw), (word b 3, 4 * ow)] →
        Taken s ents false →
        ∃ t', exec (.scsave a t) s = .next t' ∧
          let u := CmdIssued s .scsave b ents (some 7)
            (fun c => { c with region := s.g.region.map (fun r => r.id), macs := ((s.g.region.map fun r => r.macs).getD []) }) t
          Did (.scsave a t) .seq s (u.setG { u.g with region := none }) t') ∧
      ∀ (acq : BitVec 1) (s : State),
        Issues (.cpy a t 1 acq) { cmdInfo a t with closes := true, counter := some 5 } s →
        let c := copyTile (block s.g)
        let ents := s.copyLock s.cur c c.src false ++ s.copyLock s.cur c c.dst true
        copyFieldsOk (block s.g) = true → (c.src.side = 2 → (s.spTeam s.cur (some c.src.team)).isSome) →
        (c.dst.side = 2 → (s.spTeam s.cur (some c.dst.team)).isSome) → Taken s ents false →
        ∃ t', exec (.cpy a t 1 acq) s = .next t' ∧ t'.g.wait = .ticket (s.g.ticket + 1) true ∧
          t'.g.pc = (s.g.advance 1 .nextClause).pc ∧ t'.g.word = 0 ∧ t'.g.clause = none ∧
          t'.cmds = (CmdIssued s .cpy (block s.g) ents (some 5) id t).cmds ∧ t'.g.ticket = s.g.ticket + 1 ∧
          ∀ x, t'.byte x = s.byte x)

/-- R253, R264 to R266: a command whose block fails a check is not taken: the fault of the first failing check is
raised, in the order fields, registers, remote teams, alignment, bounds, format vote, format word. EWAIT and MWAIT end once
their command or batch is complete and wait until then; EPOLL gives 1 or 0; MBATCH closes the matrix commands issued since
the last one into the next batch; a ticket or batch beyond the last one given is an engine fault of status 3. TVAL and TMASK
of the checks, and which lanes a row beyond the scratchpad names, are the model's reading (log entry 32). -/
def Obligations.CommandFaultsAndControls : Prop :=
   (∀ (a t : BitVec 6),
      let b := fun s : State => s.g.block a
      (∀ cont acq, ChecksFail (.cpy a t cont acq) (fun _ => { cmdInfo a t with closes := cont == 1, counter := some 5 }) fun s =>
        let c := copyTile (b s)
        let team (d : CopySide) : Bool × Trap :=
          (decide (d.side = 2 → (s.spTeam s.cur (some d.team)).isSome), ⟨0x13, d.team, s.g.xm, 0⟩)
        [fieldCheck s.g (copyFieldsOk (b s)), team c.src, team c.dst]) ∧
      (∀ acc, ∀ p ∈ [(CmdKind.mma, Instr.mma a t acc), (.mmas, .mmas a t acc), (.mmag, .mmag a t acc)],
        ChecksFail p.2 (fun g => matInfo p.1 g a t) (matrixChecks p.1 a)) ∧
      (∀ acq resume, ∀ i ∈ [Instr.gath a t acq resume, .scat a t resume],
        ChecksFail i (fun _ => { cmdInfo a t with counter := some 7 }) fun s =>
          let q := gatherBlock (b s)
          [fieldCheck s.g (decide (field (b s) 6 13 19 = 0 ∧ word (b s) 7 = 0 ∧ field (b s) 6 10 3 ≤ 4 ∧ 1 ≤ q.e ∧ q.e ≤ 768))] ++
            alignChecks s.g [(q.ioff, 4), (q.doff, 16), (q.soff, 192)] ++
            boundChecks s [(q.ioff, 4 * q.e), (q.doff, q.z * q.e), (q.soff, 768)]) ∧
      (∀ bf16 sp acq, ChecksFail (.scprobe a t bf16 sp acq) (fun _ => { cmdInfo a t with counter := some 7 }) fun s =>
        let iw := field (b s) 3 0 16
        let ow := field (b s) 3 16 16
        let rs := [(word (b s) 4, 4 * ow), (word (b s) 5, 4)] ++ if sp = 1 then [(word (b s) 1, 4 * iw)] else []
        [fieldCheck s.g (decide (iw ≠ 0 ∧ ow ≠ 0 ∧ if sp = 1 then word (b s) 2 = 0 else field (b s) 2 24 8 = 0))] ++
          alignChecks s.g (rs.map fun r => (r.1, 4)) ++ boundChecks s rs) ∧
      (ChecksFail (.scsave a t) (fun _ => { cmdInfo a t with counter := some 7 }) fun s =>
        let iw := field (b s) 2 0 16
        let ow := field (b s) 2 16 16
        let rs := [(word (b s) 1, 4 * iw), (word (b s) 3, 4 * ow)]
        [fieldCheck s.g (decide (iw ≠ 0 ∧ ow ≠ 0 ∧ (word (b s) 4 = 7 ∨ word (b s) 4 = 8) ∧ word (b s) 5 = 0 ∧
          word (b s) 6 = 0 ∧ word (b s) 7 = 0))] ++ alignChecks s.g (rs.map fun r => (r.1, 4)) ++ boundChecks s rs) ∧
      ∀ scope, ChecksFail (.nredx a t scope) (fun _ => { cmdInfo a t with counter := some 7 }) fun s =>
        let n := word (b s) 2
        let rs := [(word (b s) 0, 4 * n), (word (b s) 1, 4 * n)]
        [fieldCheck s.g (decide (1 ≤ n ∧ n ≤ 768 ∧ word (b s) 3 ≤ 63 ∧ 1 ≤ word (b s) 4 ∧ word (b s) 4 ≤ 65536 ∧
          word (b s) 5 = 0 ∧ word (b s) 6 = 0 ∧ word (b s) 7 = 0))] ++
          alignChecks s.g (rs.map fun r => (r.1, 4)) ++ boundChecks s rs) ∧
   ((∀ (s : State) (a : BitVec 6), Issues (.ewait a) { sr := [a.toNat], serial := some false } s →
      let t := s.g.sval a.toNat
      let open_ := ∃ c ∈ s.cmds, c.2.group = s.cur ∧ c.2.saved = false ∧ c.2.ticket = t
      ((s.g.ticket - t).toNat < 2 ^ 31 → ¬open_ → ∃ u, exec (.ewait a) s = .next u ∧ Did (.ewait a) .seq s s u) ∧
      ((s.g.ticket - t).toNat < 2 ^ 31 → open_ → ∃ u, exec (.ewait a) s = .next u ∧ u.g.wait = .ticket t false ∧
        u.g.s = s.g.s ∧ u.g.v = s.g.v ∧ u.g.pc = s.g.pc ∧ u.g.word = s.g.word ∧ ∀ x, u.byte x = s.byte x) ∧
      (2 ^ 31 ≤ (s.g.ticket - t).toNat → exec (.ewait a) s = .next (s.raise ⟨0x12, 3, s.g.xm, 0⟩))) ∧
    (∀ (s : State) (a d : BitVec 6),
      Issues (.epoll a d) { sr := [a.toNat], sw := if d = 63 then [] else [d.toNat], serial := some false } s →
      let t := s.g.sval a.toNat
      let open_ := ∃ c ∈ s.cmds, c.2.group = s.cur ∧ c.2.saved = false ∧ c.2.ticket = t
      ((s.g.ticket - t).toNat < 2 ^ 31 →
        ∃ u v, exec (.epoll a d) s = .next u ∧ (open_ → v = s.input 0) ∧ (¬open_ → v = s.input 1) ∧
          let g : Group := { s.g with chunkInput := some v }
          Did (.epoll a d) .seq s (s.setG (if d = 63 then g else g.setS d.toNat v 2)) u) ∧
      (2 ^ 31 ≤ (s.g.ticket - t).toNat → exec (.epoll a d) s = .next (s.raise ⟨0x12, 3, s.g.xm, 0⟩))) ∧
    (∀ (s : State) (d : BitVec 6),
      Issues (.mbatch d) { sw := if d = 63 then [] else [d.toNat], counter := some 6, serial := some false } s →
      let n := s.g.batch + 1
      let mine := fun c : Cmd => c.group == s.cur && !c.saved && c.kind.isMatrix && c.batch == none
      let g : Group := { s.g with batch := n }
      let u := s.setG (if d = 63 then g else g.setS d.toNat n 2)
      (((∃ c ∈ s.cmds, mine c.2 = true) → ∃ t, exec (.mbatch d) s = .next t ∧
        Did (.mbatch d) .seq s
          { u.setG (u.g.raiseCounter 6) with
            cmds := s.cmds.mapVals fun _ c => if mine c then { c with batch := some n.toNat } else c } t) ∧
      ((∀ c ∈ s.cmds, mine c.2 = false) → ∃ t, exec (.mbatch d) s = .next t ∧
        Did (.mbatch d) .seq s (u.addResult .compute [] (some 6)) t))) ∧
    ∀ (s : State) (a : BitVec 6), Issues (.mwait a) { sr := [a.toNat], serial := some false } s →
      let n := s.g.sval a.toNat
      let open_ := ∃ c ∈ s.cmds, c.2.group = s.cur ∧ c.2.saved = false ∧ c.2.batch = some n.toNat
      ((s.g.batch - n).toNat < 2 ^ 31 → ¬open_ → ∃ u, exec (.mwait a) s = .next u ∧ Did (.mwait a) .seq s s u) ∧
      ((s.g.batch - n).toNat < 2 ^ 31 → open_ → ∃ u, exec (.mwait a) s = .next u ∧ u.g.wait = .batch n ∧
        u.g.s = s.g.s ∧ u.g.v = s.g.v ∧ u.g.pc = s.g.pc ∧ u.g.word = s.g.word ∧ ∀ x, u.byte x = s.byte x) ∧
      (2 ^ 31 ≤ (s.g.batch - n).toNat → exec (.mwait a) s = .next (s.raise ⟨0x12, 3, s.g.xm, 0⟩)))

/-- R58, R89, R112, R196, R198, R222: a load in flight that may be performed returns: its destination takes the
loaded bytes, extended as its size says, in the lanes that take part, zero in failed helper lanes, and leaves the
others; of a 64-bit load v(r) takes the high word and v(r + 1) the low one; the access leaves flight and no byte of memory
changes. Results that no memory serves are written in the order in which they issued. That a load of a logging or replaying
context waits while another group's chunk bars it is the model's choice (log entry 46). -/
def Obligations.LoadsReturn : Prop :=
  (∀ (s : State) (g id : Nat) (a : Access) (z : BitVec 3),
    s.result g id .load = none → s.access g id = some a → a.op = .load z → s.mayPerform g a = true →
    s.loadReady g a = true → s.loadBarred g = false → s.errorLine a true = none →
    ∃ t, exec (.loadReturn g id) s = .next t ∧ (∀ k, t.byte k = s.byte k) ∧
      (t.group g).accesses = (s.group g).accesses.filter (fun b => b.id != a.id) ∧
      (∀ r, a.dest = .scalar r →
        (t.group g).file r = ⟨loadWord z (s.laneBytes g a 0), a.tag⟩ ∧ (t.group g).v = (s.group g).v) ∧
      (∀ r, a.dest = .vec r →
        (laneMask (a.lanes.map fun x => x.lane) ||| a.zeros ≠ 0 → ((t.group g).vreg r).tag = a.tag) ∧
        (t.group g).s = (s.group g).s ∧
        (∀ q, q ≠ r → (t.group g).vreg q = (s.group g).vreg q) ∧
        ∀ l, l < 96 → (t.group g).lane r l =
          if a.zeros.getLsbD l then 0
          else if (laneMask (a.lanes.map fun x => x.lane)).getLsbD l then loadWord z (s.laneBytes g a l)
          else (s.group g).lane r l) ∧
      ∀ r, a.dest = .pair r →
        (laneMask (a.lanes.map fun x => x.lane) ||| a.zeros ≠ 0 →
          ((t.group g).vreg r).tag = a.tag ∧ ((t.group g).vreg (r + 1)).tag = a.tag) ∧
        (t.group g).s = (s.group g).s ∧ (∀ q, q ≠ r → q ≠ r + 1 → (t.group g).vreg q = (s.group g).vreg q) ∧
        ∀ l, l < 96 →
          (t.group g).lane r l =
            (if a.zeros.getLsbD l then 0
            else if (laneMask (a.lanes.map fun x => x.lane)).getLsbD l then loadWord 4 ((s.laneBytes g a l).drop 4)
            else (s.group g).lane r l) ∧
          (t.group g).lane (r + 1) l =
            if a.zeros.getLsbD l then 0
            else if (laneMask (a.lanes.map fun x => x.lane)).getLsbD l then loadWord z (s.laneBytes g a l)
            else (s.group g).lane (r + 1) l) ∧
  (∀ (s : State) (g id : Nat) (r : Result),
    (s.result g id .load = some r → exec (.loadReturn g id) s = .next (s.finishResult g r)) ∧
    (s.result g id .store = some r → r.bank = none → exec (.storeAccepted g id) s = .next (s.finishResult g r)) ∧
    (s.result g id .atomic = some r → exec (.atomicReturn g id) s = .next (s.finishResult g r))) ∧
  ∀ (s : State) (g : Nat) (r : Result) (rs : List Result),
    ((s.group g).results.filter fun x => x.kind == .compute) = r :: rs →
    ∃ t, exec (.resultWrite g) s = .next t ∧ (∀ k, t.byte k = s.byte k) ∧
      t.group g =
        { r.writes.foldl Group.write (s.group g) with
          results := (s.group g).results.filter fun x => x.id != r.id }.lowerCounter r.counter

/-- R193, R196, R223: a store in flight that may be performed is accepted. Written through, it puts its entries'
bytes at their homes in lane order, over the newest bytes of the lines it touches, and changes no other byte but to what its
own L1 writes back; kept in the L1, it makes the pinned sectors valid and dirty, holds the bytes there and changes no byte
at home. -/
def Obligations.StoresPerformed : Prop :=
  ∀ (s : State) (g id : Nat) (a : Access),
    s.result g id .store = none → s.access g id = some a → a.op = .store → s.mayPerform g a = true →
    s.writeReady g a = true → s.errorLine a false = none → a.unsent = false → a.order.getLsbD 0 = false →
    (∀ x ∈ a.lanes, isPeer x.key = false ∧ x.key % 192 + x.data.length ≤ 192) →
    (a.through = true → (∀ c line l, s.l1 c line = some l → l.dirty = 0) →
      ∃ t, exec (.storeAccepted g id) s = .next t ∧ (∀ k, t.byte k = storedAt a.lanes k (s.byte k)) ∧
        (t.group g).accesses = (s.group g).accesses.filter (fun b => b.id != a.id) ∧ (t.group g).s = (s.group g).s ∧
        (t.group g).v = (s.group g).v) ∧
    ((∀ p ∈ a.lines, s.needPins (coreOf g) a p.1 p.2 = 0) → (∀ x ∈ a.lanes, isLocal x.key = true) → PinsHeld s g a →
      ∃ t, exec (.storeAccepted g id) s = .next t ∧
        ∀ k, if k / 192 ∈ a.lines.map (·.1) then t.byte k = storedAt a.lanes k (newest s (coreOf g) k)
          else t.byte k = s.byte k ∨ t.byte k = newest s (coreOf g) k) ∧
    (a.through = false → a.wake = false → (∀ x ∈ a.lanes, isLocal x.key = true) →
      (∀ p ∈ a.lines, s.needPins (coreOf g) a p.1 p.2 ≠ 0) →
      ∃ t, exec (.storeAccepted g id) s = .next t ∧ (∀ k, t.byte k = s.byte k) ∧
        (t.group g).accesses = (s.group g).accesses.filter (fun b => b.id != a.id) ∧ (t.group g).s = (s.group g).s ∧
        (t.group g).v = (s.group g).v ∧
        ∀ x ∈ a.lanes, ∀ i, i < x.data.length → ∃ l, t.l1 (coreOf g) ((x.key + i) / 192) = some l ∧
          l.dirty.getLsbD ((x.key + i) % 192 / 48) = true ∧ l.valid.getLsbD ((x.key + i) % 192 / 48) = true ∧
          l.bytes.get 0 ((x.key + i) % 192) =
            storedAt a.lanes (x.key + i) (((s.l1 (coreOf g) ((x.key + i) / 192)).getD {}).bytes.get 0 ((x.key + i) % 192)))

/-- R211, R224 to R227: an atomic in flight that may be performed runs its lanes one after another in lane order,
each on what the lanes before it left, at the home memory for scopes from gang on, over the newest bytes of the sectors it
names, in the L1 below; the form with a return writes each lane's old word, and the form without one changes no register. -/
def Obligations.AtomicsPerformed : Prop :=
  ∀ (s : State) (g id : Nat) (a : Access) (f : AtomFields) (lock : BitVec 1) (returns : Bool),
    let i := if returns then Instr.atomicReturn g id else .storeAccepted g id
    let word_ := fun (b : Nat → Byte) (k : Nat) => BitVec.ofNat 32 (leNat ((List.range 4).map fun i => b (k + i)))
    s.result g id (if returns then .atomic else .store) = none → s.access g id = some a → a.op = .atomic f lock returns →
    s.mayPerform g a = true → s.writeReady g a = true → s.errorLine a true = none → a.unsent = false →
    (∀ x ∈ a.lanes, isPeer x.key = false ∧ x.key % 4 = 0 ∧ x.lane < 96) → (a.lanes.map fun x => x.lane).Nodup →
    let regs := fun (t : State) (olds : AMap Word) =>
      (returns = false → a.dest = .none → (t.group g).v = (s.group g).v ∧ (t.group g).s = (s.group g).s) ∧
      (∀ r, a.dest = .vec r →
        (laneMask (a.lanes.map fun x => x.lane) ||| a.zeros ≠ 0 → ((t.group g).vreg r).tag = a.tag) ∧
        (t.group g).s = (s.group g).s ∧
        ∀ l, l < 96 → (t.group g).lane r l =
          if a.zeros.getLsbD l then 0
          else if (laneMask (a.lanes.map fun x => x.lane)).getLsbD l then olds.get 0 l else (s.group g).lane r l) ∧
      (∀ r, a.dest = .scalar r → (t.group g).file r = ⟨olds.get 0 0, a.tag⟩)
    (2 ≤ a.scope.toNat → (∀ c line l, s.l1 c line = some l → l.dirty = 0) →
      ∃ t, exec i s = .next t ∧
        (∀ k, k % 4 = 0 → word_ t.byte k = (serial f a.lanes (word_ s.byte)).1 k) ∧
        regs t (serial f a.lanes (word_ s.byte)).2) ∧
    (2 ≤ a.scope.toNat → a.size = 4 → (∀ x ∈ a.lanes, isLocal x.key = true ∧ x.data = []) → PinsHeld s g a →
      let near := word_ (newest s (coreOf g))
      ∃ t, exec i s = .next t ∧
        (∀ x ∈ a.lanes, word_ t.byte x.key = (serial f a.lanes near).1 x.key) ∧
        (∀ k, (∀ x ∈ a.lanes, k / 4 ≠ x.key / 4) → t.byte k = s.byte k ∨ t.byte k = newest s (coreOf g) k) ∧
        regs t (serial f a.lanes near).2) ∧
    (a.scope.toNat < 2 → (∀ x ∈ a.lanes, isLocal x.key = true ∧
        ∃ l, s.l1 (coreOf g) (x.key / 192) = some l ∧ l.valid.getLsbD (x.key % 192 / 48) = true) →
      ∃ t, exec i s = .next t ∧ (∀ k, t.byte k = s.byte k) ∧
        (∀ k, k % 4 = 0 →
          word_ (t.loadByte (coreOf g) 0) k = (serial f a.lanes (word_ (s.loadByte (coreOf g) 0))).1 k) ∧
        regs t (serial f a.lanes (word_ (s.loadByte (coreOf g) 0))).2)

/-- R193, R194, R196, R197, R372: the steps between an L1 and the home slices, a request of each beat of an access for
itself. A pin is granted where no other core holds the sectors, and the L1 takes the line's sectors with it; a beat's request for a sector that another core holds is sent
again 32 clocks later, at most 4,095 times, and is then held while the line is recalled, with those that come meanwhile
behind it; a recall writes the holders' bytes home and ends their pins; a fill brings missing sectors. What a full set of
a slice evicts is the model's choice (log entry 96). -/
def Obligations.PinsAndFills : Prop :=
  (∀ (s : State) (g id line b : Nat) (a : Access), s.access g id = some a → b < 3 →
    let c := coreOf g
    let fresh := s.needPins c a line (a.beatMask line b) &&& ~~~s.ownPins c line
    (∀ i, i < b → s.needPins c a line (a.beatMask line i) &&& ~~~s.ownPins c line = 0) → fresh ≠ 0 →
    s.homeOpen g line fresh = true → s.servesOf line (· == (g, requestKey id b)) = true → s.resent g id line b = true →
    ∃ t, exec (.pinGrant g id line) s = .next t ∧ t.groups = s.groups ∧
      (∀ i, i < 4 → fresh.getLsbD i = true → t.pinOwner line i = some c) ∧
      (∀ i, i < 4 → fresh.getLsbD i = false → t.pinOwner line i = s.pinOwner line i) ∧
      ∃ l, t.l1 c line = some l ∧ fresh &&& ~~~(l.valid ||| l.dirty) = 0 ∧ fresh &&& ~~~l.pinned = 0) ∧
  (∀ (s : State) (g id line b : Nat) (a : Access) (p : Pin),
    let r := (g, requestKey id b)
    s.access g id = some a → s.pins.find? line = some p → b < 3 →
    (∀ i, i < b → s.homeSectors g a line (a.beatMask line i) = 0) → s.homeSectors g a line (a.beatMask line b) ≠ 0 →
    a.retryAt.get 0 (3 * line + b) ≤ s.cycle g → r ∉ p.held →
    (p.recalling = true → exec (.accessRetryResend g id line) s =
      .next { s with pins := s.pins.put line { p with held := holdRequest p.held r } }) ∧
    (p.recalling = false → s.pinnedElsewhere (coreOf g) line (s.homeSectors g a line (a.beatMask line b)) = true →
      (4095 ≤ p.retries → exec (.accessRetryResend g id line) s =
        .next { s with pins := s.pins.put line { p with recalling := true, held := r :: p.held } }) ∧
      (p.retries < 4095 → ∃ t, exec (.accessRetryResend g id line) s = .next t ∧
        t.pins = s.pins.put line { p with retries := p.retries + 1 } ∧
        (t.core (coreOf g)).events.pinRetries = sat64 ((s.core (coreOf g)).events.pinRetries + 1) ∧
        (∀ x ∈ (t.group g).accesses, x.id = id → x.retryAt.get 0 (3 * line + b) = s.cycle g + 32) ∧ t.mem = s.mem))) ∧
  (∀ (s : State) (line : Nat) (p : Pin), s.pins.find? line = some p → p.recalling = true →
    ∃ t, exec (.recallComplete line) s = .next t ∧ t.groups = s.groups ∧ (∀ i, t.pinOwner line i = none) ∧
      (∀ c ∈ p.owners.map (fun o => o.2), ∀ l, t.l1 c line = some l → l.dirty = 0) ∧
      (t.pins.find? line).map (fun q => (q.recalling, q.retries, q.held)) =
        if p.held = [] then none else some (false, 0, p.held)) ∧
  (∀ (s : State) (g id line b : Nat) (a : Access), s.access g id = some a → b < 3 → 0 < id →
    let c := coreOf g
    let miss := s.loadMisses c 0 line (a.beatMask line b)
    (∀ i, i < b → s.loadMisses c 0 line (a.beatMask line i) = 0) →
    (∃ z, a.op = .load z) → a.hint = 0 → miss ≠ 0 → s.homeOpen g line miss = true →
    s.servesOf line (· == (g, requestKey id b)) = true → s.resent g id line b = true →
    (s.l1 c line).isSome = true ∨ (s.core c).l1.length < l1Capacity →
    s.errorLine { a with lanes := a.lanes.filter fun x => lineOf x.key == line } true = none →
    ∃ t, exec (.l1LineFill g id line none) s = .next t ∧ t.groups = s.groups ∧ (∀ k, t.byte k = s.byte k) ∧
      ∃ l, t.l1 c line = some l ∧ miss &&& ~~~(l.valid ||| l.dirty) = 0 ∧
        ∀ i, i < 192 → miss.getLsbD (i / 48) = true → l.dirty.getLsbD (i / 48) = false →
          l.bytes.get 0 i = s.byte (192 * line + i)) ∧
  ∀ (s : State) (line : Nat), line ∉ s.l2 →
    (∃ p ∈ s.groups, ∃ a ∈ p.2.accesses, ∃ q ∈ a.lines, q.1 = line ∧ s.homeSectors p.1 a line q.2 ≠ 0) →
    ((s.l2Way line).length < 16 → exec (.l2LineFill line none) s = .next { s with l2 := line :: s.l2 }) ∧
    (16 ≤ (s.l2Way line).length → ∀ v ∈ (s.l2Way line).tail,
      exec (.l2LineFill line (some v)) s = .next { s with l2 := line :: s.l2.filter (· != v) })

/-- R12, R50 to R53, R83, R165, R223, R229, R285, R289, R302: a group that may run starts the clause at its PC once its WAIT
counters read zero, from the fetch buffer or from the cache, and gives its header's hint, where that is not 0, to the cache;
a header or words that break a rule, or a resumption where no instruction begins, raise cause 0x03 at the clause's first
instruction; a pending late store fault is delivered first, and a group of an ended grid halts at its clause boundary
instead. A wait for code, for a release or for the caches ends with its work done, and a block that a hint asked for comes;
of code that an error has spoilt the grid is ended. That the fault waits until nothing of the group is in flight, and what
TVAL and TMASK hold, is the model's choice (log entries 15 and 51); so are the busy cache that drops a hint and the block
that leaves a full cache (log entries 94 and 119). -/
def Obligations.ClausesAndWaits : Prop :=
  (∀ (s : State) (k : Nat) (c : Clause), s.mayRun k = true → (s.group k).started = false → (s.group k).wait = .none →
    let g := s.group k
    let asked : State := if c.header.extractLsb' 16 8 = 0 then s else s.askCode k (hintAddr c.pc c.header)
    ((∃ q, s.grids.find? g.grid = some q ∧ q.cancelled = true) → g.word = 0 →
      ∃ t, exec (.clauseStart k) s = .next t ∧ (t.group k).halted = true ∧ (t.group k).started = false ∧
        (t.group k).s = g.s ∧ (t.group k).v = g.v ∧ (g.pending = [] → ∀ a, t.byte a = s.byte a)) ∧
    (g.word ≠ 0 ∨ (∀ q, s.grids.find? g.grid = some q → q.cancelled = false) ∧ s.atLimit k = false →
      (∀ site n ps, g.trapMode = false → g.word = 0 → g.pending = .lateStore site n :: ps → g.quiet = true →
        ∃ t, exec (.clauseStart k) s = .next t ∧ (t.group k).trapMode = true ∧ (t.group k).trap.cause = 0x11 ∧
          (t.group k).trap.val.toNat = n % 2 ^ 64 ∧ (t.group k).trap.site = site ∧ (t.group k).trap.pc = g.pc ∧
          (t.group k).pending = ps ∧
          (t.group k).pc.toNat = ((s.context g.ctx).tbase.toNat + 64 * 0x11) % 2 ^ 56) ∧
      (g.trapMode = true ∨ g.word ≠ 0 ∨ g.pending = [] → ClauseHere s k c →
        (c.ok = true → (g.resumed = true → g.word ∈ starts 0 c.words) →
          (∀ i, i < 8 → c.header.getLsbD (8 + i) = true → g.counters.get 0 i = 0) →
          (g.clause = some c → exec (.clauseStart k) s =
            .next (asked.setGroup k { g with clause := some c, started := true, resumed := false })) ∧
          (g.clause = none → (g.fetchBuf.find? fun x => x.pc == g.pc) = some c →
            exec (.clauseStart k) s = .next (asked.setGroup k
              { g with
                clause := some c, started := true, resumed := false
                fetchBuf := g.fetchBuf.filter fun x => c.pc.toNat < x.pc.toNat })) ∧
          ∃ t buf, exec (.clauseStart k) s = .next t ∧
            t.group k = { g with clause := some c, started := true, resumed := false, fetchBuf := buf } ∧
            t = { s with groups := t.groups, clusters := asked.clusters, routers := t.routers }) ∧
        (c.ok = false ∨ g.resumed = true ∧ g.word ∉ starts 0 c.words → g.trapMode = false → g.quiet = true →
          ∃ t, exec (.clauseStart k) s = .next t ∧ (t.group k).trapMode = true ∧ (t.group k).trap.cause = 0x03 ∧
            (t.group k).trap.val = c.header.setWidth 64 ∧ (t.group k).trap.mask = g.xm ∧ (t.group k).trap.pc = g.pc ∧
            (t.group k).trap.word = BitVec.ofNat 4 g.word ∧ (t.group k).started = false ∧ (t.group k).s = g.s ∧
            (t.group k).v = g.v ∧ (∀ a, t.byte a = s.byte a) ∧
            (t.group k).pc.toNat = ((s.context g.ctx).tbase.toNat + 64 * 0x03) % 2 ^ 56)))) ∧
  (∀ (s : State) (k block : Nat), (s.group k).wait = .fetch block →
    let g := s.group k
    ∀ (u v : State) key, s.fetchKey k block = (u, .ok key) → u.tryWalk k [key / 64 * 64] 64 = .served v →
      (u.err ≠ .line →
        ∃ t, exec (.instructionCacheFill k) s = .next t ∧ (∀ a, t.byte a = s.byte a) ∧
          (∃ h, t.group k = { g with wait := .none, walkHeld := h }) ∧
          ⟨g.ctx, block, key / 64 * 64, s.bytes (key / 64 * 64) 64⟩ ∈ (t.cluster (clusterOf k)).icache) ∧
      (u.err = .line → (s.grids.find? g.grid).isSome = true →
        ∃ t, exec (.instructionCacheFill k) s = .next t ∧ (t.group k).halted = true ∧ t.gridEnded k = true ∧
          ((∀ line i, s.pinOwner line i = none) → lineOf (key / 64 * 64) ∈ t.poison))) ∧
  (∀ (s : State) (k : Nat), (∀ block, (s.group k).wait ≠ .fetch block) →
    let g := s.group k
    let c := s.cluster (clusterOf k)
    (∀ va : Int, s.askCode k va =
      if 0 ≤ va ∧ va < 2 ^ 56 ∧ c.asked = none ∧
          (∀ b ∈ c.icache, b.ctx = g.ctx → b.va ≠ va.toNat / 64 * 64) then
        s.modCluster (clusterOf k) fun c => { c with asked := some (g.ctx, va.toNat / 64 * 64) }
      else s) ∧
    ∀ block key (u v : State), c.asked = some (g.ctx, block) → s.fetchKey k block = (u, .ok key) →
      u.tryWalk k [key / 64 * 64] 64 = .served v →
      ∃ t, exec (.instructionCacheFill k) s = .next t ∧ (∀ a, t.byte a = s.byte a) ∧
        (∃ h, t.group k = { g with walkHeld := h }) ∧ (t.cluster (clusterOf k)).asked = none ∧
        (u.err ≠ .line →
          ⟨g.ctx, block, key / 64 * 64, s.bytes (key / 64 * 64) 64⟩ ∈ (t.cluster (clusterOf k)).icache)) ∧
  (∀ (s : State) (k : Nat) (scope : BitVec 3), (s.group k).wait = .release scope → s.drained k s.fresh = true →
    ∃ t, exec (.releaseComplete k) s = .next t ∧ t.group k = (s.group k).wakes (s.cycle k) ∧
      t = { s.releaseL1 (coreOf k) scope with groups := t.groups }) ∧
  ∀ (s : State) (k lo hi : Nat) (scope : BitVec 3), (s.group k).wait = .icinv lo hi scope →
    ∃ t, exec (.icinvComplete k) s = .next t ∧ t.group k = { s.group k with wait := .none } ∧
      t = { s with groups := t.groups, clusters := t.clusters } ∧
      ∀ n, (t.cluster n).itlb = (s.cluster n).itlb ∧
        (t.cluster n).icache =
          if icinvNames scope (clusterOf k) n ((s.context (s.group k).ctx).hasCluster n) then
            (s.cluster n).icache.filter fun b =>
              !(b.ctx == (s.group k).ctx && lo < hi && b.va < hi && lo < b.va + 64)
          else (s.cluster n).icache

/-- R85, R161 to R163, R178: a group that qualifies and that no other outranks takes a free sprinter slot, or that
of the weakest group of a lower rank, and issues nothing for 12 clocks; a switch ends at its clock; a group that has
left every class is demoted; 512 clocks after three quarters of its team arrived, a group that has not arrived is a
laggard. A phase that is due ends, with an empty arrived set, and wakes its waiters 4 clocks later, 16 at a gang
barrier, on the clock of their own core; registers of a halted group return once its counters read zero, from the clock
after its HALT on (R239); a team ends once all its groups have halted and its commands have completed. When a promotion is
tried, and what a class that came in a wait does, is the model's choice (log entries 59 and 90). -/
def Obligations.PromotionPhasesAndEnds : Prop :=
   ((∀ (s : State) (k : Nat), s.tries k = true → s.outranked k = false →
      let up : Group :=
        { s.group k with
          engine := .promoting (s.cycle k + 12), promotedAt := s.cycle k, displaced := false, qualAt := none
          demoteNext := false }
      ((s.promoted (coreOf k)).length < 4 → exec (.promotionStart k) s = .next (s.setGroup k up)) ∧
      (∀ w, 4 ≤ (s.promoted (coreOf k)).length → s.weakest (coreOf k) = some w → s.rankOf w < s.rankOf k →
        ∃ t, exec (.promotionStart k) s = .next t ∧ t.group k = up ∧ t.mem = s.mem ∧
          ((s.group w).engine = .sprinter → t.group w =
            { s.group w with engine := .demoting (s.cycle w + 12), displaced := true, demoteNext := false }) ∧
          ∀ u, (s.group w).engine = .promoting u → t.group w = { s.group w with demoteNext := true, displaced := true })) ∧
    (∀ (s : State) (k u : Nat), (s.group k).engine = .promoting u → u ≤ s.cycle k →
      ∃ t, exec (.promotionSwitchDone k) s = .next t ∧
        t.group k =
          (if s.rankOf k = 0 ∨ (s.group k).demoteNext = true then
            { s.group k with engine := .demoting (s.cycle k + 12), demoteNext := false }
          else { s.group k with engine := .sprinter }) ∧
        t = { s with groups := t.groups, cores := t.cores }) ∧
    (∀ (s : State) (k u : Nat), (s.group k).engine = .demoting u → u ≤ s.cycle k →
      exec (.demotionSwitchDone k) s = .next (s.setGroup k { s.group k with engine := .herd, lastIssue := some (u - 12) })) ∧
    ∀ (s : State) (k n u : Nat), (s.barrier (s.group k).team n).quorumAt = some u → n < 16 →
      (s.group k).resident = true → (s.group k).halted = false → k ∉ (s.barrier (s.group k).team n).arrived →
      n ∉ (s.group k).laggardOf → u + 512 ≤ s.cycle k →
      ∃ t, exec (.barrierLaggardQualify k n) s = .next t ∧ .laggard ∈ (t.group k).classes ∧
        t.group k = { s.group k with
          classes := (t.group k).classes, qualAt := some (s.cycle k), qualHeld := (s.group k).keepsHerd
          laggardOf := (s.group k).laggardOf ++ [n] } ∧
        t = s.setGroup k (t.group k)) ∧
   ((∀ (s : State) (team n : Nat) (tm : Team), s.teams.find? team = some tm → n < 16 → (s.barrier team n).due = true →
      ∃ t, exec (.barrierPhaseComplete team n) s = .next t ∧ t.groups = s.groups ∧ t.mem = s.mem ∧
        t.barrier team n =
          { s.barrier team n with
            phase := (s.barrier team n).phase + 1, arrived := [], due := false, quorumAt := none
            wakeAt := AMap.put (s.barrier team n).wakeAt tm.core (s.coreCycle tm.core + 4) }) ∧
    (∀ (s : State) (team n : Nat) (tm : Team) (q : Gang),
      s.teams.find? team = some tm → s.gangs.find? tm.gang = some q → 16 ≤ n → (s.barrier team n).due = true →
      ∃ t, exec (.barrierPhaseComplete team n) s = .next t ∧ t.groups = s.groups ∧ t.mem = s.mem ∧
        t.barrier team n =
          { s.barrier team n with
            phase := (s.barrier team n).phase + 1, arrived := [], due := false, quorumAt := none
            wakeAt := (t.barrier team n).wakeAt } ∧
        ∀ u ∈ q.teams, (t.barrier team n).wakeAt.find? (s.teamCore u) = some (s.coreCycle (s.teamCore u) + 16)) ∧
    (∀ (s : State) (team n u : Nat), let c := s.teamCore team
      (s.barrier team n).wakeAt.find? c = some u → u ≤ s.coreCycle c →
      n < 16 ∨ s.mayPass [c / 32] 0 (s.clock - (s.coreCycle c - u)) 0 = true →
      ∃ t, exec (.barrierWake team n) s = .next t ∧ t.mem = s.mem ∧
        (t.barrier team n).wakeAt = (s.barrier team n).wakeAt.erase c ∧
        ∀ k, t.group k =
          if k ∈ s.barrierGroups team n c ∧ (s.group k).wait = .barrier n ∧ s.phaseOver k n = true then
            (s.group k).wakes (s.coreCycle c)
          else s.group k) ∧
    (∀ (s : State) (k : Nat), (s.group k).resident = true → (s.group k).halted = true →
      (s.group k).lastIssue ≠ some (s.cycle k) →
      (∀ i, i < 8 → (s.group k).counters.get 0 i = 0) →
      exec (.groupRegistersReturn k) s = .next (s.setGroup k { s.group k with resident := false })) ∧
    ∀ (s : State) (team : Nat) (tm : Team), s.teams.find? team = some tm → tm.ended = false →
      (∀ l ∈ tm.slots, (s.group (48 * tm.core + l)).team = team → (s.group (48 * tm.core + l)).halted = true) →
      (∀ c ∈ s.cmds, c.2.team ≠ team) →
      ∃ t, exec (.teamEnd team) s = .next t ∧
        t = { s with teams := t.teams, grids := t.grids, contexts := t.contexts } ∧
        t.teams = s.teams.put team { tm with ended := true } ∧
        (∀ n, t.context n =
          { s.context n with
            saved := (s.context n).saved.map fun u => if n = tm.ctx then { u with offered := false } else u }) ∧
        ∀ q, s.grids.find? tm.grid = some q →
          t.grids.find? tm.grid = some { q with ended := q.ended ++ [tm.index], offered := false })

/-- R214, R243, R244, R246, R248, R253, R256, R260, R261, R272, R276, R368: the engines. A held command
issues as it would have at once; an engine takes its oldest queued command; a command whose elements or steps have
run to their end completes with status 0; one that meets a page that is not present stops with a kind-3 record, and
one that fails ends with its status, and one that reads a spoilt line ends with its grid. A completed command holds no range lock, its counter falls, and a failed one
leaves its group an engine fault and a kind-5 record. That the resumption issues the held command itself, that a command
runs to its end in the step that completes it, and that the accesses of an engine commit in one step where the context
logs or replays is the model's choice (log entries 33, 37 and 113). -/
def Obligations.EngineSteps : Prop :=
  (∀ (s : State) (g : Nat) (ents : List (Nat × RangeLock)) (m : Bool) (i : Instr),
    (s.group g).wait = .command ents m → s.canTake g ents m = true →
    s.behind g ((s.group g).heldSince.getD s.fresh) ents m = false → (s.group g).instr = i →
    (∃ a t c q, i = .cpy a t c q) ∨ (∃ a t c, i = .mma a t c ∨ i = .mmas a t c ∨ i = .mmag a t c) ∨
      (∃ a t q r, i = .gath a t q r ∨ i = .scat a t r) ∨ (∃ a t f p q, i = .scprobe a t f p q) ∨
      (∃ a t c, i = .scsave a t ∨ i = .nredx a t c) →
    ∃ t, exec (.commandIssueResume g) s = .next t ∧
      exec i { s.setGroup g { s.group g with wait := .none } with cur := g } = .next t) ∧
  (∀ (s : State) (core id : Nat),
    (s.oldestQueued core CmdKind.copies = some id → s.placesTaken core CmdKind.copies < 4 →
      exec (.copyEngineTake core) s =
        .next { s with cmds := s.cmds.modify id fun c => { c with phase := .running } }) ∧
    (s.oldestQueued core CmdKind.isMatrix = some id → s.placesTaken core CmdKind.isMatrix = 0 →
      exec (.matrixEngineTake core) s =
        .next { s with cmds := s.cmds.modify id fun c => { c with phase := .running } })) ∧
  (∀ (s u : State) (id : Nat) (c : Cmd), s.cmds.find? id = some c → c.saved = false →
    let freed := fun (v : State) (f : Cmd → Cmd) =>
      { v with
        cmds := v.cmds.modify id f
        cores := v.cores.mapVals fun n x =>
          { x with
            locks := x.locks.filter fun l => l.cmd != id || l.dest
            cleared := x.cleared.filter (fun l => l.1 == v.coreCycle n) ++
              (x.locks.filter fun l => l.cmd == id && !l.dest).map fun l => (v.coreCycle n, l) } }
    let may := s.mayWork id c = true ∧ s.mayCommit c.ctx 1 c.core = true
    let committed := fun v : State => v.commitAgent c.ctx 1 c.core (slotOf c.group)
    (c.sourceRead = false → c.kind = .nredx → may →
      exec (.sourceReadDone id) s = .next (committed (freed s fun d =>
        { d with sourceRead := true, age := s.clock, data := s.cmdWords c (word c.block 0) (word c.block 2) }))) ∧
    (c.sourceRead = false → c.kind ∉ [.nredx, .scsave] → c.working = true → (s.context c.ctx).observe.mode = 0 →
      s.runOut id = (u, none) →
      exec (.sourceReadDone id) s = .next (freed u fun d => { d with sourceRead := true })) ∧
    (c.kind = .cpy → c.working = true → may → s.runOut id = (u, none) → (u.cmds.find? id).isSome = true →
      exec (.cpyComplete id) s = .next (committed (u.finishCmd id 0))) ∧
    (c.kind ∈ [.mma, .mmas, .mmag] → c.working = true → may → s.runOut id = (u, none) →
      (u.cmds.find? id).isSome = true → exec (.matrixCommandComplete id) s = .next (committed (u.finishCmd id 0))) ∧
    (∀ d, c.kind = .gath ∨ c.kind = .scat → c.working = true → may → s.runOut id = (u, none) →
      u.cmds.find? id = some d →
      exec (.gatherScatterComplete id) s =
        .next (committed ((u.cmdWrite d (gatherBlock d.block).soff (statusBlock d)).finishCmd id 0))) ∧
    (∀ d v, c.kind = .scprobe → c.working = true → may → s.runOut id = (u, none) → u.cmds.find? id = some d →
      probeEnd ⟨u, d.answers, id⟩ d = .ok v →
      exec (.scprobeComplete id) s = .next (committed (v.finishCmd id 0))) ∧
    (c.kind = .scsave → c.phase = .queued → may → s.regionDone c = true → saveBegin ⟨s, c.answers, id⟩ c = .ok u →
      exec (.scsaveStart id) s = .next (committed
        { u.spoilProbes c with
          cmds := (u.spoilProbes c).cmds.modify id fun d => { d with phase := .begun, answers := [] } })) ∧
    (c.kind = .scsave → c.phase = .begun → may → saveEnd ⟨s, c.answers, id⟩ c = .ok u →
      exec (.scsaveComplete id) s = .next (committed (u.finishCmd id 0))) ∧
    (∀ d va code, s.stopOf id = some (u, d, .absent va code) → s.mayCommit d.ctx 1 d.core = true →
      ∃ t, exec (.enginePageFault id) s = .next t ∧
        t.cmds = u.cmds.modify id fun x => { x with phase := .stopped (u.context d.ctx).faultSeq va, begun := x.phase == .begun }) ∧
    (∀ d st, c.status = 0 → s.stopOf id = some (u, d, .failed st) → s.mayCommit d.ctx 1 d.core = true →
      exec (.engineFailure id) s = .next ((u.finishCmd id st).commitAgent d.ctx 1 d.core (slotOf d.group))) ∧
    (∀ d va line, c.status = 0 → s.stopOf id = some (u, d, .spoilt va line) → s.mayCommit d.ctx 1 d.core = true →
      ∃ t, exec (.engineFailure id) s = .next t ∧ t.cmds.find? id = none ∧
        ∀ q, t.grids.find? d.grid = some q → q.cancelled = true) ∧
    (c.status ≠ 0 → exec (.engineFailure id) s = .next (s.finishCmd id c.status))) ∧
  ∀ (s : State) (id status : Nat) (c : Cmd), s.cmds.find? id = some c →
    let t := s.finishCmd id status
    let g := s.group c.group
    t.cmds = s.cmds.erase id ∧ (∀ v, ∀ l ∈ (t.core v).locks, l.cmd ≠ id) ∧
      (t.group c.group).s = g.s ∧ (t.group c.group).v = g.v ∧
      (t.group c.group).pending =
        (if status = 0 ∨ g.halted = true then g.pending else g.pending ++ [.engine c.site status]) ∧
      (∀ k, k ≠ c.group → t.group k = s.group k) ∧ (status = 0 → ∀ a, t.byte a = s.byte a)

/-- R47, R48, R262, R277, R320 to R324, R335: exact sums. A contribution opens a round at the first router of its path or
joins one there with the same n and P; a router passes its partial on towards the root, which merges what reaches it,
and at sys scope the merged partial of a device goes on over a peer link; the root rounds each element once and sends it
to every contributor, whose slot is then free; more than 2^42 contributions give NaN; the result is written in the result
range, and a disagreement ends every contributor with status 0x15. That a partial goes over a peer link as an operation of its
own with a failing answer is the model's choice (log entry 38); that a count of elements is made on success, and where a
disagreement is found, is its reading (log entry 35). -/
def Obligations.ReductionRounds : Prop :=
  (∀ (s : State) (id : Nat) (c : Cmd), s.cmds.find? id = some c →
    let node := c.core / 32
    c.kind = .nredx → c.sourceRead = true → c.phase = .queued → c.saved = false → s.mayPass [node] 2 c.age 0 = true →
    let root := s.rootNode c.ctx c.scope node
    let n := word c.block 2
    let p := word c.block 4
    let elems := c.data.map partialElem
    let mine := s.rounds.filter fun r => r.2.ctx == c.ctx && r.2.scope == c.scope &&
      r.2.inst == scopeInst c.scope c.core && r.2.slot == word c.block 3 && r.2.node == node
    (mine = [] →
      ∃ t, exec (.partialMerge (.command id)) s = .next t ∧ t.groups = s.groups ∧ t.mem = s.mem ∧
        (∀ d, t.cmds.find? id = some d → d.phase = .sent) ∧
        t.rounds = s.rounds.put s.fresh
          { ctx := c.ctx, scope := c.scope, inst := scopeInst c.scope c.core, slot := word c.block 3, n := n, p := p
            count := 1, elems := elems, contributors := [id], node := node, completed := root && p ≤ 1, age := s.clock }) ∧
    (∀ k r rs, mine = (k, r) :: rs → r.completed = false → r.bad = false → r.n = n → r.p = p →
      ∃ t, exec (.partialMerge (.command id)) s = .next t ∧ t.groups = s.groups ∧ t.mem = s.mem ∧
        (∀ d, t.cmds.find? id = some d → d.phase = .sent) ∧
        t.rounds = s.rounds.put k
          { r with
            count := r.count + 1, elems := (r.elems.zip elems).map fun x => mergeElem x.1 x.2
            contributors := r.contributors ++ [id], completed := root && p ≤ r.count + 1, age := s.clock }) ∧
    (∀ k r rs, mine = (k, r) :: rs → root = true → r.completed = false → r.n ≠ n ∨ r.p ≠ p →
      ∃ t, exec (.partialMerge (.command id)) s = .next t ∧ t.rounds = s.rounds.erase k ∧
        ∀ x ∈ r.contributors ++ [id], ∀ d, t.cmds.find? x = some d → d.status = 0x15)) ∧
  (∀ (s : State) (id : Nat) (r : Round), s.rounds.find? id = some r → s.rootNode r.ctx r.scope r.node = false →
    let path := nextNode r.node
    s.mayPass path 2 r.age 0 = true →
    (∀ node, path.getLast? = some node → r.bad = false →
      let root := s.rootNode r.ctx r.scope node
      let mine := (s.rounds.erase id).filter fun x =>
        x.2.ctx == r.ctx && x.2.scope == r.scope && x.2.inst == r.inst && x.2.slot == r.slot && x.2.node == node
      (mine = [] →
        ∃ t, exec (.partialMerge (.held id)) s = .next t ∧ t.groups = s.groups ∧ t.mem = s.mem ∧
          t.rounds = (s.rounds.erase id).put s.fresh
            { r with node := node, completed := root && r.p ≤ r.count, age := s.clock }) ∧
      (∀ k x rs, mine = (k, x) :: rs → x.completed = false → x.bad = false → x.n = r.n → x.p = r.p →
        ∃ t, exec (.partialMerge (.held id)) s = .next t ∧ t.groups = s.groups ∧ t.mem = s.mem ∧
          t.rounds = (s.rounds.erase id).put k
            { x with
              count := x.count + r.count, elems := (x.elems.zip r.elems).map fun y => mergeElem y.1 y.2
              contributors := x.contributors ++ r.contributors, peers := x.peers ++ r.peers
              completed := root && x.p ≤ x.count + r.count, age := s.clock })) ∧
    (path = [] →
      let dev := leNat (s.context r.ctx).sysroot
      ∃ t, exec (.partialMerge (.held id)) s = .next t ∧ t.rounds = s.rounds.erase id ∧ t.groups = s.groups ∧
        t.mem = s.mem ∧ t.peerOut = s.peerOut ++ r.peers.map (fun p => ⟨p.1, p.2, false, []⟩) ∧
        ∃ p, t.peerSends = s.peerSends ++ [p] ∧ p.dev = dev ∧ p.seq = s.peerSeq.get 0 dev ∧ p.cmds = r.contributors ∧
          p.op = .merge r.ctx r.slot r.n r.p r.count r.bad r.elems)) ∧
  (∀ (s : State) (q : PeerPartial),
    (∃ c, s.contexts.find? q.ctx = some c) → (q.dev, q.seq) ∉ s.peerDone → s.hasPath q.dev = true →
    s.mayPass [8] 2 s.clock 0 = true →
    q.rootDev = leNat (s.context q.ctx).sysroot → q.bad = false →
    (s.rounds.filter fun r =>
      r.2.ctx == q.ctx && r.2.scope == 5 && r.2.inst == 0 && r.2.slot == q.slot && r.2.node == 8) = [] →
    ∃ t, exec (.partialMerge (.peer q)) s = .next t ∧ t.peerDone = (q.dev, q.seq) :: s.peerDone ∧
      t.rounds = s.rounds.put s.fresh
        { ctx := q.ctx, scope := 5, inst := 0, slot := q.slot, n := q.n, p := q.p, count := q.count, elems := q.elems
          contributors := [], peers := [(q.dev, q.seq)], node := 8
          completed := s.rootNode q.ctx 5 8 && q.p ≤ q.count, age := s.clock }) ∧
  (∀ (s : State) (k : Nat) (r : Round), s.rounds.find? k = some r → r.completed = true →
    let ws := r.elems.map fun x => if 2 ^ 42 < r.count then 0x7FC00000 else rootRound x
    ∃ t, exec (.roundResultSend k) s = .next t ∧ t.rounds = s.rounds.erase k ∧ t.groups = s.groups ∧ t.mem = s.mem ∧
      t.peerOut = s.peerOut ++ r.peers.map (fun p => ⟨p.1, p.2, true, wordsBytes ws⟩) ∧
      ∀ id ∈ r.contributors, ∀ d, t.cmds.find? id = some d → d.result = some ws) ∧
  ∀ (s : State) (id : Nat) (c : Cmd), s.cmds.find? id = some c → c.kind = .nredx → c.saved = false →
    (c.status ≠ 0 → exec (.nredxComplete id) s = .next (s.finishCmd id c.status)) ∧
    let path := resultPath c.scope c.core
    ∀ ws, c.status = 0 → c.result = some ws → s.mayPass path 2 c.age 0 = true →
      let u := (s.passes path 2 c.age 0).cmdWrite c (word c.block 1) (wordsBytes ws)
      u.mayCommit c.ctx 1 c.core = true →
      exec (.nredxComplete id) s = .next
        (((u.harvests c.ctx [(28, word c.block 2)]).finishCmd id 0).commitAgent c.ctx 1 c.core (slotOf c.group))

/-- R187, R189, R190, R192, R194, R198, R290 to R292, R330, R368: a page walk ends with the page in the TLB or noted as
absent, and is sent again 32 clocks later where another core holds a sector of its first entry pinned, or ends its grid where
an error has spoilt that entry's line; the answer to a fault record frees the held group to try again, or delivers its page
fault; an invalidation drops the range from every TLB and base register of the context, and the failed walks there, and ends
once the accesses that used it are performed; a malformed request ends with status 2 and a compaction that may not be done with 3; held records enter their queue
once it has room. A compaction of a region of 256 valid local leaves begins by clearing the base registers into it,
and ends, once no access into it is in flight, with the old frames' bytes, their pinned lines recalled, in the new frames,
the leaf replaced, the region dropped from every TLB, and 1 in DONE, with a wake. When HEAD moves, what a request waits for
and that the new frames' lines are recalled too is the model's choice (log entries 64, 65 and 120). -/
def Obligations.WalksAnswersAndCompaction : Prop :=
   ((∀ (s : State) (g page : Nat) (ps : List Nat), (s.group g).wait = .walk ps → page ∈ ps →
      let left := ps.filter (· != page)
      let w : Wait := if left = [] then .none else .walk left
      let reads := s.walkReads (s.group g).ctx (24576 * page)
      (s.group g).walkAt ≤ s.cycle g → (∀ a ∈ reads, ∀ p, s.pins.find? (lineOf a) = some p → p.recalling = false ∧ p.held = []) →
      (∀ a, reads.head? = some a →
        (s.pinnedElsewhere (coreOf g) (lineOf a) (sectorMask (lineOf a) a 8) = true →
          (∀ p, s.pins.find? (lineOf a) = some p → p.retries < 4095) →
          ∃ t, exec (.pageWalkComplete g page) s = .next t ∧ (∀ a, t.byte a = s.byte a) ∧
            t.group g = { s.group g with walkAt := s.cycle g + 32 }) ∧
        (s.pinnedElsewhere (coreOf g) (lineOf a) (sectorMask (lineOf a) a 8) = false → lineOf a ∈ s.poison →
          ∃ t, exec (.pageWalkComplete g page) s = .next t ∧ (t.group g).halted = true ∧
            ∀ q, t.grids.find? (s.group g).grid = some q → q.cancelled = true)) ∧
      ((∀ a ∈ reads, lineOf a ∉ s.poison ∧ s.pinnedElsewhere (coreOf g) (lineOf a) (sectorMask (lineOf a) a 8) = false) →
      ∃ t, exec (.pageWalkComplete g page) s = .next t ∧ (∀ a, t.byte a = s.byte a) ∧
        (t.core (coreOf g)).events.tlbMisses = sat64 ((s.core (coreOf g)).events.tlbMisses + 1) ∧
        match s.walk (s.group g).ctx (24576 * page) with
        | .ok e => e ∈ (t.core (coreOf g)).tlb ∧ t.group g = { s.group g with wait := w }
        | .absent => t.group g = { s.group g with wait := w, badPages := (s.group g).badPages ++ [(page, 1)] }
        | .malformed => t.group g = { s.group g with wait := w, badPages := (s.group g).badPages ++ [(page, 2)] })) ∧
    (∀ (s : State) (ctx seq k entry va0 va : Nat) (lanes : LaneMask),
      (s.context ctx).records.find? seq = some (entry, va0) → s.peekNat entry 4 = 1 → entry + 0x30 ∈ (s.context ctx).woken →
      (∃ p ∈ s.groups, p.1 = k) → (s.group k).resident = true → (s.group k).ctx = ctx →
      (s.group k).wait = .records [(seq, none)] va lanes → s.groups.sorted = true →
      (∀ p ∈ s.groups, p.1 ≠ k → ∀ rs v m, p.2.wait = .records rs v m → (seq, none) ∉ rs) →
      (∀ p ∈ s.cmds, p.2.waitsFor ctx seq = false) → (∀ p ∈ s.grids, ∀ h ∈ p.2.holds, h.seq ≠ seq) →
      (s.peekNat (entry + 0x30) 4 = 1 →
        ∃ t, exec (.faultRecordAnswer ctx seq) s = .next t ∧ (t.context ctx).records.find? seq = none ∧
          t.group k = { s.group k with wait := .none } ∧ ∀ a, t.byte a = s.byte a) ∧
      (s.peekNat (entry + 0x30) 4 = 2 → (s.group k).quiet = true → (s.group k).trapMode = false →
        ∃ t, exec (.faultRecordAnswer ctx seq) s = .next t ∧ (t.context ctx).records.find? seq = none ∧
          (t.group k).trapMode = true ∧ (t.group k).trap.cause = 0x09 ∧ (t.group k).trap.mask = lanes ∧
          (t.group k).trap.val.toNat = va % 2 ^ 64 ∧ (t.group k).trap.pc = (s.group k).pc ∧
          (t.group k).pc.toNat = ((s.context ctx).tbase.toNat + 64 * 9) % 2 ^ 56 ∧ ∀ a, t.byte a = s.byte a)) ∧
    (∀ (s : State) (ctx : Nat) (r : XlateReq), s.nextXlate ctx = some r →
      (r.invalidates = false → r.compacts = false →
        exec (.translationRequestFail ctx) s = .next ((s.takeXlate ctx).xlateStatus ctx r.done 2)) ∧
      (r.invalidates = false → r.compacts = true → s.compactable ctx r.va = none →
        exec (.translationRequestFail ctx) s = .next ((s.takeXlate ctx).xlateStatus ctx r.done 3)) ∧
      (r.kind = 1 → r.va % 24576 = 0 → r.va < 2 ^ 56 → r.len ≠ 0 →
        let n := 24576 * r.len
        ∃ t, exec (.invalidateRange ctx) s = .next t ∧
          (∀ c, (t.core c).tlb = (s.core c).tlb.filter fun e => !e.meets ctx r.va n) ∧
          (∀ c, (t.cluster c).itlb = (s.cluster c).itlb.filter fun e => !e.meets ctx r.va n) ∧
          (∀ k, (t.group k).b = if (s.group k).ctx = ctx then ((s.group k).clearBases r.va n).b else (s.group k).b) ∧
          (∀ k, (s.group k).ctx = ctx →
            (t.group k).badPages = (s.group k).badPages.filter fun p => !overlap (24576 * p.1) 24576 r.va n) ∧
          (t.context ctx).xlateOp = some
            { compact := false, va := r.va, bytes := n, frame := 0, done := r.done
              waitFor := s.oldAccesses ctx r.va n, waitPeers := s.oldSends ctx r.va n })) ∧
    (∀ (s : State) (ctx : Nat) (o : XlateOp), (s.context ctx).xlateOp = some o → o.compact = false →
      (∀ p ∈ o.waitFor, ∀ a ∈ (s.group p.1).accesses, a.id ≠ p.2) →
      (∀ p ∈ o.waitPeers, ∀ q ∈ s.peerSends, ¬(q.dev = p.1 ∧ q.seq = p.2)) →
      exec (.invalidateRangeDone ctx) s =
        .next ((s.xlateStatus ctx o.done 1).modCtx ctx fun c => { c with xlateOp := none })) ∧
    ∀ (s : State) (ctx : Nat) (ws : List Word) (rest : List (List Word)),
      ((s.context ctx).heldFaults = ws :: rest → s.queueRoom (s.context ctx).faultq = true →
        exec (.faultRecordRelease ctx) s = .next ((s.modCtx ctx fun c => { c with heldFaults := rest }).pushFault ctx ws)) ∧
      ((s.context ctx).heldEvents = ws :: rest → s.queueRoom (s.context ctx).eventq = true →
        exec (.eventRecordRelease ctx) s = .next
          ((s.modCtx ctx fun c => { c with heldEvents := rest }).pushRecord ctx 1 (s.context ctx).eventq ws))) ∧
   ((∀ (s : State) (ctx : Nat) (r : XlateReq), s.nextXlate ctx = some r → r.kind = 2 → r.va % (256 * 24576) = 0 →
      r.va < 2 ^ 56 → r.len % 256 = 0 → r.len < Config.frames → (s.compactable ctx r.va).isSome = true →
      ∃ t, exec (.compact ctx) s = .next t ∧
        (∀ k, (t.group k).b =
          if (s.group k).ctx = ctx then ((s.group k).clearBases r.va (256 * 24576)).b else (s.group k).b) ∧
        (∀ c, (t.core c).tlb = (s.core c).tlb) ∧
        (t.context ctx).xlateOp = some { compact := true, va := r.va, bytes := 256 * 24576, frame := r.len, done := r.done }) ∧
    (∀ (s : State) (ctx at_ : Nat) (o : XlateOp) (es : List Nat), (s.context ctx).xlateOp = some o → o.compact = true →
      s.oldAccesses ctx o.va o.bytes = [] → s.oldSends ctx o.va o.bytes = [] → s.compactable ctx o.va = some (at_, es) →
      let frames := es.map fun e => e / 2 ^ 16 % 2 ^ 26
      let recalled := (s.recallFrames frames).recallFrames ((List.range 256).map (o.frame + ·))
      ∃ t u : State, exec (.compactDone ctx) s = .next t ∧ t = u.xlateStatus ctx o.done 1 ∧ (t.context ctx).xlateOp = none ∧
        (∀ c, (t.core c).tlb = (s.core c).tlb.filter fun e => !e.meets ctx o.va o.bytes) ∧
        (∀ k, (t.group k).b =
          if (s.group k).ctx = ctx then ((s.group k).clearBases o.va o.bytes).b else (s.group k).b) ∧
        ((∀ c ∈ (s.context ctx).coreList, (s.core c).sideLog = []) → Memory.wf s.mem = true → frames.Nodup →
          at_ % 8 = 0 → at_ + 8 ≤ o.frame * 24576 ∨ (o.frame + 256) * 24576 ≤ at_ →
          u.bytes at_ 8 = leBytes 8 (3 + 8 * (es.headD 0 / 8 % 8) + 2 ^ 16 * o.frame) ∧
          ∀ i j, i < 256 → j < 24576 →
            u.byte ((o.frame + i) * 24576 + j) = recalled.byte (frames.getD i 0 * 24576 + j))) ∧
    (∀ (s : State) (fs : List Nat), (∀ p ∈ s.pins, 192 * p.1 / 24576 ∉ fs) → s.recallFrames fs = s) ∧
    (∀ (s : State) (ctx done st key : Nat), s.keyOf ctx done true = some key → isPeer key = false → st < 2 ^ 32 →
      (s.xlateStatus ctx done st).bytes key 4 = leBytes 4 st ∧
      (s.xlateStatus ctx done st).wakes = s.wakes ++ (s.context ctx).coreList.map fun c => ⟨s.fresh, 256, c, key⟩) ∧
    ∀ (s : State) (frames : List Nat) (f : Nat), Memory.wf s.mem = true → frames.length = 256 → frames.Nodup →
      (∀ i j, i < 256 → j < 24576 →
        (s.copyFrames frames f).byte ((f + i) * 24576 + j) = s.byte (frames.getD i 0 * 24576 + j)) ∧
      ∀ k, k < f * 24576 ∨ (f + 256) * 24576 ≤ k → (s.copyFrames frames f).byte k = s.byte k)

/-- R215, R232 to R235, R314, R316 to R319, R324: the network. A message enters its queue in order, or the group
that has waited longest on it; a wake readies the waiters on its word, and brings the answer of a record that its context
has registered; a router powers down after an idle window and is woken by the first flit that reaches it, for which the
flits that wait there are delayed; a flit of the clock of the decision, before or after it, abandons the power-down. Which
wakes a core takes together, and when messages and flits go, is the model's choice (log entries 47, 48 and 105). -/
def Obligations.Network : Prop :=
  (∀ (s : State) (core q id : Nat) (m : Message),
    (s.messages.filter fun x => x.id == id && x.toCore == core && x.queue == q) = [m] →
    let old := (s.core core).queues.get [] q
    (∀ x ∈ s.messages, x.team = m.team → x.index = m.index → x.toCore = m.toCore → x.queue = m.queue → m.id ≤ x.id) →
    (∀ u f, (s.core core).arrivals.find? q = some (u, f) → u ≠ s.coreCycle core ∨ f ≤ m.from_) →
    queueWords old + m.words.length ≤ 64 → s.mayPass (route (coreOf m.from_) core) 3 m.id (8 * core + q) = true →
    ∃ t, exec (.messageDelivery core q id) s = .next t ∧ (∀ a, t.byte a = s.byte a) ∧
      t.messages = s.messages.filter (fun x => x.id != id) ∧
      (t.core core).arrivals.find? q = some (s.coreCycle core, m.from_) ∧
      (s.receiver core q = none → t.groups = s.groups ∧ (t.core core).queues.get [] q = old ++ [m]) ∧
      ∀ k, s.receiver core q = some k → (t.core core).queues = (s.core core).queues ∧
        t.groups = s.groups.put k { (s.group k).wakes (s.cycle k) with inbox := some m }) ∧
  (∀ (s : State) (core : Nat) (w : Wake), (s.wakes.filter fun x => x.core == core).head? = some w →
    s.mayPass w.path 1 w.id 0 = true →
    ∃ t, exec (.wakeDelivery core) s = .next t ∧
      t = { s with wakes := s.wakes.erase w, groups := t.groups, contexts := t.contexts, routers := t.routers } ∧
      (∀ k n b, coreOf k = core → (s.group k).wait = .word w.key n b → t.group k = (s.group k).wakes (s.cycle k)) ∧
      ∀ ctx c seq entry va, s.contexts.find? ctx = some c → c.records.find? seq = some (entry, va) →
        w.key = entry + 0x30 → s.peekNat w.key 4 ≠ 0 → w.key ∈ (t.context ctx).woken) ∧
  (∀ (s : State) (g key start limit : Nat), (s.group g).wait = .word key start limit → limit ≠ 0 →
    start + limit ≤ s.cycle g →
    exec (.waitwTimeout g) s = .next (s.setGroup g ((s.group g).wakes (s.cycle g)))) ∧
  ∀ (s : State) (r : Nat), r < 24 →
    let x := s.router r
    let n := (s.flits.filter fun p => p.contains r).length
    ((s.control 2).en = true → x.powered = true → x.idleFrom + s.idleWindow ≤ s.clock + 1 → r ∉ s.busyRouters →
      exec (.routerPowerDown r) s = .next
        { s with
          routers := s.routers.put r
            { x with powered := false, downAt := some s.clock, powerDowns := sat64 (x.powerDowns + 1) } }) ∧
    (x.powered = false → n ≠ 0 → exec (.routerWake r) s = .next
      { s with
        routers := s.routers.put r
          { x with
            powered := true, wakes := sat64 (x.wakes + 1), delayed := sat64 (x.delayed + n)
            idleFrom := s.clock + 1, waiting := 0 } }) ∧
    ((s.control 2).en = true → x.powered = true → x.idleFrom + s.idleWindow = s.clock + 1 → (s.flit [r]).router r =
      { x with abandoned := sat64 (x.abandoned + 1), idleFrom := s.clock + 1 }) ∧
    (x.powered = false → (s.flit [r]).router r =
      if x.downAt = some s.clock then
        { x with
          powered := true, powerDowns := x.powerDowns - 1, abandoned := sat64 (x.abandoned + 1)
          idleFrom := s.clock + 1 }
      else
        { x with
          powered := true, wakes := sat64 (x.wakes + 1), delayed := sat64 (x.delayed + x.waiting + 1)
          idleFrom := s.clock + 1, waiting := 0 })

/-- R22, R26, R38, R146 to R155: the dispatcher. A record that keeps its limits becomes a grid and HEAD advances;
one that breaks a limit is rejected with a kind-8 record; a consumer is released once every producer's bit is set;
an ended team's bit is set; a group starts at ENTRY with the parameter, its team, index and gang in s0 to s4, its
lanes in xm, and zero in every other register. -/
def Obligations.Dispatching : Prop :=
  (∀ (s : State) (q d : Nat), s.queueDesc q = some d →
    let tail := s.peekWord (d + 0x1C)
    let prio := s.peekNat (d + 0x10) 4 % 8
    let ctx := s.peekNat (d + 0x0C) 4
    let n := s.peekNat (d + 8) 4
    let head := s.peekNat (d + 0x18) 4
    let a := s.peekNat d 8 + 256 * (head % n)
    (s.queueSeen.find? q ≠ some tail ∨ (∃ g ∈ s.grids, g.2.queue = q ∧ g.2.prio ≠ prio) →
      exec (.dispatcherTailRead q) s = .next
      { s.agentTouch d 64 with
        queueSeen := s.queueSeen.put q tail
        grids := s.grids.mapVals fun _ g => if g.queue = q then { g with prio := prio } else g }) ∧
    (∀ seen, s.queueSeen.find? q = some seen → n ≠ 0 → (s.contexts.find? ctx).isSome = true →
      BitVec.ofNat 32 head ≠ seen →
      (∀ g ∈ s.grids, g.2.queue = q → g.2.settled = true) →
      let u := ((s.agentTouch d 64).agentTouch a 256).homeWord (d + 0x18) (BitVec.ofNat 32 (head + 1))
      (s.launchError ctx a = none → exec (.launchRecordTake q) s = .next
        { u.bump with grids := u.grids.put u.fresh { ctx := ctx, queue := q, prio := prio, launch := s.readLaunch a } }) ∧
      ∀ off, s.launchError ctx a = some off → exec (.launchRecordTake q) s = .next
        (u.faultRecord ctx { kind := 8, code := off, grid := (s.readLaunch a).grid, va := a }))) ∧
  (∀ (s : State) (grid team : Nat) (q : Grid) (ps : List Nat), s.grids.find? grid = some q → q.launch.dep = true →
    q.cancelled = false → team < q.launch.teams → team ∉ q.released → s.producers grid q.launch team = .ok ps →
    s.bitsSet grid q.launch.pbitmap ps = .ok true →
    exec (.consumerRelease grid team) s = .next
      { s.producersRead grid team q with grids := s.grids.put grid { q with released := q.released ++ [team], offered := false } }) ∧
  (∀ (s : State) (team key : Nat) (tm : Team) (q : Grid), s.teams.find? team = some tm →
    s.grids.find? tm.grid = some q → tm.ended = true → q.cancelled = false → tm.index ∉ q.bits →
    s.teamDrained team tm = true →
    s.dispatcherKey tm.grid (q.launch.cbitmap + tm.index / 8) 1 true = .ok key →
    ∃ t, exec (.cbitmapSet team) s = .next t ∧ t.teams.find? team = none ∧
      (q.bits.length + 1 < q.launch.teams →
        let u := ((s.returnGroups team tm).releaseL1 tm.core 4).agentWalk q.ctx (q.launch.cbitmap + tm.index / 8) 4
        t.byte key = u.peek key ||| (1#8 <<< (tm.index % 8)) ∧
        t.grids = s.grids.put tm.grid { q with bits := q.bits ++ [tm.index] })) ∧
  (∀ (s : State) (ctx : Nat) (c : Context), s.contexts.find? ctx = some c → c.preempt = .none → c.saved = [] →
    (∃ q ∈ s.awaiting ctx, q.2.offered = false) → s.releasing ctx = false →
    exec (.teamPlacement ctx) s = .next (s.offerAll ctx (s.offersOf ctx))) ∧
  (∀ (s : State) (grid gang : Nat) (q : Grid) (qs : AMap Grid), q.offered = false → q.nextGang = some gang →
    let r := s.findPlace q.ctx q.launch.gpt q.launch.vregs q.launch.scratch q.launch.tpg
    r.chosen.length = q.launch.tpg →
    s.offer ((grid, q) :: qs) = (s.countDeferrals r.deferred).placeGang grid gang q r) ∧
  ∀ (c : Context) (ctx grid team k index gang g : Nat) (l : Launch),
    let x := launchGroup c ctx grid team k l index gang g
    let lanes := min 96 (l.extent - 96 * g)
    x.resident = true ∧ x.halted = false ∧ x.trapMode = false ∧ x.pc = l.entry ∧ x.n = l.vregs ∧ x.gctl = l.gctl ∧
      x.gstat = 0 ∧ x.stklim.toNat = l.priv % 2 ^ 32 ∧ x.ticket = 0 ∧ x.batch = 0 ∧
      x.sreg 0 = ⟨BitVec.ofNat 32 l.param.toNat, 14⟩ ∧ x.sreg 1 = ⟨BitVec.ofNat 32 (l.param.toNat / 2 ^ 32), 14⟩ ∧
      x.sreg 2 = ⟨BitVec.ofNat 32 index, 1⟩ ∧ x.sreg 3 = ⟨BitVec.ofNat 32 g, 1⟩ ∧ x.sreg 4 = ⟨BitVec.ofNat 32 gang, 1⟩ ∧
      (∀ r, 5 ≤ r → r < 61 → x.sreg r = {}) ∧ (∀ r, x.vreg r = {}) ∧ (∀ r, x.base r = {}) ∧
      (∀ i, i < 96 → (x.xm.getLsbD i = true ↔ i < (lanes + 3) / 4 * 4)) ∧
      (∀ i, i < 96 → (x.helper.getLsbD i = true ↔ lanes ≤ i)) ∧
      ∀ i, i < 96 → x.rng.get 0 i = launchSeed l.seed index g i

/-- R294 to R297, R304, R332, R357, R358, R360 to R362: a team whose cores have reached their limits and whose groups have
stopped is saved with the other teams of its gang, and leaves its cores; a saved gang is placed again with its
groups' registers as its record holds them, which are those saved while the record stands as it was written; a request's
status is written once it is known, where its address lies in a peer window at that device. A core whose time has come writes a sample of a
group, or counts it as dropped in a full ring; a trial's delay ends at its clock; a chunk that has ended is
committed: logged, or checked against the log in a replay; one whose loads no longer hold runs again from its start. That a
gang is saved in one step, what its record's bytes hold, the order of restores and what chunks bar is the model's choice
(log entries 67, 68, 69 and 46). -/
def Obligations.SavesRestoresAndObservation : Prop :=
   ((∀ (s : State) (team steps : Nat),
      let ts := s.gangTeams team
      let ids := (s.cmds.filter fun c => !c.2.saved && ts.any fun t => t.1 == c.2.team).map (·.1)
      let u := ids.foldl
        (fun s id => (s.runCmd id (if ((s.cmds.find? id).map Cmd.working).getD false then steps else 0)).1) s
      ts ≠ [] →
      (∀ t ∈ ts, u.limitReached t.2 = true ∧ (u.context t.2.ctx).preempt = .draining ∧
        ∀ k ∈ t.2.groups, (u.group k).mayStop = true ∧ (u.group k).quiet = true ∧ (u.group k).switching = false) →
      (∀ c ∈ u.cmds, c.1 ∈ ids → c.2.maySave = true) → (∀ t ∈ ts, u.peersAhead t.2 = false) →
      ∃ t, exec (.forcedSave team steps) s = .next t ∧ (∀ p ∈ ts, t.teams.find? p.1 = none) ∧
        (∀ p ∈ ts, ∃ r ∈ (t.context p.2.ctx).saved, r.key = p.1 ∧ r.team = p.2) ∧
        ∀ p ∈ ts, ∀ k ∈ p.2.groups, (t.group k).resident = false) ∧
    (∀ (s : State) (ctx core block base : Nat) (slots : List Nat) (t0 : SavedTeam) (d : List Nat),
      (s.savedGangs ctx).head? = some t0.team.gang → s.savedTeams ctx t0.team.gang = [t0] → t0.offered = false →
      (s.context ctx).preempt = .none → t0.locks = [] → (t0.groups.map (·.1)).Nodup → t0.team.ctx = ctx →
      s.findPlace ctx t0.groups.length t0.team.vregs t0.team.scratch 1 = ⟨[(core, slots, block, base)], d⟩ →
      (s.core core).locks.length ≤ 32 →
      let now := t0.asRead (s.cmds.filter fun c => c.2.team == t0.key).length (s.sliceRead t0.at_ t0.size).2
      ∃ t, exec (.teamRestore ctx) s = .next t ∧
        (t.context ctx).saved = (s.context ctx).saved.filter (fun u => u.team.gang != t0.team.gang) ∧
        (t.teams.find? t0.key).isSome = true ∧
        ∀ i (h : i < now.groups.length), (t.group (48 * core + slots.getD i 0)).s = now.groups[i].2.s ∧
          (t.group (48 * core + slots.getD i 0)).v = now.groups[i].2.v ∧
          (t.group (48 * core + slots.getD i 0)).pc = now.groups[i].2.pc ∧
          (t.group (48 * core + slots.getD i 0)).word = now.groups[i].2.word) ∧
    (∀ (t : SavedTeam) (cmds : Nat) (whole : Bool) (mid : List Byte),
      mid.length = t.team.scratch + (t.groups.map fun p => p.2.privateSize).sum →
      t.asRead cmds
        ((List.range (recordHead cmds t.sideLog.length whole)).map (fun i => Config.freeByte (t.free + i)) ++ mid ++
          (List.range (t.groups.length * (1152 + 384 * t.team.vregs))).map fun i => Config.freeByte (t.regs + i)) = t) ∧
    ∀ (s : State) (ctx : Nat) (r : CtxRequest),
      (s.requests.filter fun r => r.target == ctx && (s.requestStatus r).isSome).head? = some r →
      ∃ t, exec (.preemptStatusWrite ctx) s = .next t ∧ t.requests = s.requests.erase r ∧
        (r.save = true → r.status = none → ∀ c, t.contexts.find? ctx = some c → c.preempt = .saved) ∧
        (∀ k, s.keyOf r.issuer r.addr true = some k → ∃ n, s.requestStatus r = some n ∧
          (isPeer k = false → t.bytes k 4 = leBytes 4 (n % 2 ^ 32)) ∧
          (isPeer k = true → ∃ p, t.peerSends = s.peerSends ++ [p] ∧ p.key = k ∧ p.op = .store (leBytes 4 (n % 2 ^ 32)))) ∧
        (s.keyOf r.issuer r.addr true = none → ∀ a, t.byte a = s.byte a)) ∧
   ((∀ (s : State) (core ctx k : Nat), s.owner core = some ctx → (s.control 5).en = true →
      let o := (s.context ctx).observe
      let used := (o.ringTail + 2 ^ 32 - o.ringHead % 2 ^ 32) % 2 ^ 32
      o.ringEntries ≠ 0 → (s.core core).nextSample ≤ s.coreCycle core → s.sampled core = some k →
      ∃ t, exec (.sample core) s = .next t ∧
        (t.core core).nextSample = (s.core core).nextSample + 2 ^ min 24 (10 + (s.control 5).setting) ∧
        (o.ringEntries ≤ used → (∀ a, t.byte a = s.byte a) ∧
          (t.context ctx).observe = { o with dropped := sat64 (o.dropped + 1) }) ∧
        (used < o.ringEntries →
          (t.context ctx).observe =
            { o with ringTail := (o.ringTail + 1) % 2 ^ 32, buckets := (t.context ctx).observe.buckets } ∧
          t.bytes (o.ringBase + 32 * (o.ringTail % o.ringEntries)) 32 = s.sampleBytes k)) ∧
    (∀ (s : State) (g u : Nat), (s.group g).delayUntil = some u → u ≤ s.cycle g →
      exec (.trialDelayExpire g) s = .next (s.setGroup g { s.group g with delayUntil := none })) ∧
    ∀ (s : State) (g e : Nat), (s.group g).chunkEnd = some e → (s.group g).quiet = true →
      (s.contexts.find? (s.group g).ctx).isSome = true →
      let o := (s.context (s.group g).ctx).observe
      let r := s.chunkRecord g e
      let closed := { s.group g with chunk := 0, chunkEnd := none, chunkInput := none }
      let n := sat64 (o.chunks + 1)
      (o.mode ≠ 0 → s.chunkOpen (s.group g).ctx (some g) = false) →
      (o.mode ≠ 0 → s.chunkStale g = true → ∀ c, s.chunks.find? g = some c →
        ∃ t, exec (.chunkCommit g) s = .next t ∧ t.mem = s.mem ∧ t.chunks = s.chunks.erase g ∧
          (t.group g).pc = c.start.pc ∧ (t.group g).word = c.start.word ∧ (t.group g).s = c.start.s ∧
          (t.group g).v = c.start.v ∧ (t.group g).chunkEnd = none ∧
          (t.context (s.group g).ctx).observe = { o with squashes := sat64 (o.squashes + 1) }) ∧
      ((o.mode ≠ 0 → s.chunkStale g = false) →
      (o.mode = 1 → ∃ t, exec (.chunkCommit g) s = .next t ∧ t.group g = closed ∧
        (t.context (s.group g).ctx).observe = { o with log := o.log ++ [r], chunks := n }) ∧
      (o.mode ≠ 1 → o.next = none → ∃ t, exec (.chunkCommit g) s = .next t ∧ t.group g = closed ∧
        (t.context (s.group g).ctx).observe = { o with chunks := n }) ∧
      (∀ l, o.next = some l → l.agent = 0 → l.core = r.core → l.slot = r.slot → l.end_ = r.end_ → l.size = r.size →
        ∃ t, exec (.chunkCommit g) s = .next t ∧ t.group g = closed ∧
          (t.context (s.group g).ctx).observe = { o with replayAt := o.replayAt + 1, chunks := n }) ∧
      ∀ l, o.next = some l → l.agent = 0 → l.core = r.core → l.slot = r.slot →
        l.end_ ≠ r.end_ ∨ l.size ≠ r.size → (s.context (s.group g).ctx).preempt = .none →
        ∃ t, exec (.chunkCommit g) s = .next t ∧ (t.context (s.group g).ctx).preempt = .draining ∧
          (t.context (s.group g).ctx).observe.divergences = sat64 (o.divergences + 1)))

/-- R325 to R327, R332, R369: the host port. Packets of a stream are taken in order, while nothing that its stream asked
of a peer device is unanswered: one ahead is refused with the number that is expected, one behind is acknowledged again.
A read returns the bytes of a registered window as they stand after pinned sectors are recalled, a write puts its payload
there, an atomic answers with the old word; a check that fails answers its status, counts, and performs nothing; a read of
bytes in a peer window asks their devices, and the response leaves with the last answer; a packet or frame that breaks
the limits is dropped and counted. That a difference of numbers is signed and 0 means success, the status of a negative
acknowledgement and of a spoilt line, and what goes on to peer devices is the model's choice (log entries 75, 76, 104 and
122). -/
def Obligations.HostPort : Prop :=
  (∀ (s : State) (p : TiadePacket),
    let want := s.streams.get 0 p.stream
    let taken := { s.flit [8] with streams := s.streams.put p.stream (p.psn + 1) }
    let reply := fun (status : Nat) (bs : List Byte) => s.hostOut ++ [⟨4, p.stream, p.psn, status, bs⟩]
    let ack := fun (psn : BitVec 32) (st : Nat) =>
      Host.Outcome.next { s.flit [8] with hostOut := s.hostOut ++ [⟨7, p.stream, psn, st, []⟩] }
    let failed := fun (t : State) (e : Nat) =>
      t = { taken with windowFails := sat64 (s.windowFails + 1), hostOut := reply e [], routers := t.routers }
    let unpinned := ∀ line i, s.pinOwner line i = none
    let sound := fun (ks : List Nat) => s.err ≠ .line ∧ ∀ k ∈ ks, localLine (lineOf k) = true → lineOf k ∉ s.poison
    let writable := p.payload.length = p.length ∧ s.hostMay p true = true
    s.hostMay p false = true →
    (p.ok false = true → want ≠ p.psn → (p.psn - want).toNat < 2 ^ 31 →
      exec (.tiadeRead p) s = ack want 1 ∧ (writable → exec (.tiadeWrite p) s = ack want 1)) ∧
    (p.ok false = true → 2 ^ 31 ≤ (p.psn - want).toNat →
      exec (.tiadeRead p) s = ack p.psn 0 ∧ (writable → exec (.tiadeWrite p) s = ack p.psn 0)) ∧
    (p.psn = want → p.win ≠ 255 → p.ok false = true →
      (∀ e, s.checkWindow (some p.key) ⟨p.win, p.offset, p.length, true, false, false⟩ = .error e →
        ∃ t, exec (.tiadeRead p) s = .next t ∧ failed t e) ∧
      (∀ ctx va ks, s.checkWindow (some p.key) ⟨p.win, p.offset, p.length, true, false, false⟩ = .ok (ctx, va, ks) →
        ((∀ k ∈ ks, isPeer k = false) → sound ks →
          ∃ t, exec (.tiadeRead p) s = .next t ∧ t.hostOut = reply 0 (ks.map t.byte) ∧
            t.streams = taken.streams ∧ t.groups = s.groups ∧ (unpinned → ∀ a, t.byte a = s.byte a)) ∧
        ((∀ k ∈ ks, isPeer k = false) → unpinned → (∃ k ∈ ks, localLine (lineOf k) = true ∧ lineOf k ∈ s.poison) →
          ∃ t, exec (.tiadeRead p) s = .next t ∧ t.hostOut = reply Config.spoiltStatus []) ∧
        (ks ≠ [] → (∀ k ∈ ks, isPeer k = true) →
          ∃ t w, exec (.tiadeRead p) s = .next t ∧ t.hostOut = s.hostOut ∧ t.streams = taken.streams ∧
            t.mem = s.mem ∧ t.groups = s.groups ∧ t.hostWaits = s.hostWaits.put s.fresh w ∧ w.stream = p.stream ∧
            w.psn = p.psn ∧ w.left = (runsOf (ks.map fun k => (k, ()))).length ∧
            t.peerSends.length = s.peerSends.length + w.left ∧
            ∀ q ∈ t.peerSends.drop s.peerSends.length, ∃ o, q.host = some (s.fresh, o))) ∧
      (∀ e, writable →
        s.checkWindow (some p.key) ⟨p.win, p.offset, p.length, false, true, false⟩ = .error e →
        ∃ t, exec (.tiadeWrite p) s = .next t ∧ failed t e) ∧
      ∀ ctx va ks, writable →
        s.checkWindow (some p.key) ⟨p.win, p.offset, p.length, false, true, false⟩ = .ok (ctx, va, ks) →
        (∀ k ∈ ks, isPeer k = false) →
        ∃ t, exec (.tiadeWrite p) s = .next t ∧ t.hostOut = reply 0 [] ∧ t.groups = s.groups ∧
          (ks.Nodup → ∀ i (h : i < ks.length), t.byte ks[i] = p.payload.getD i 0)) ∧
    (p.psn = want → p.win ≠ 255 → p.ok true = true → s.hostMay p true = true →
      (∀ e, s.checkWindow (some p.key) ⟨p.win, p.offset, 4, true, true, true⟩ = .error e →
        ∃ t, exec (.tiadeAtomic p) s = .next t ∧ failed t e) ∧
      ∀ ctx va k ks, s.checkWindow (some p.key) ⟨p.win, p.offset, 4, true, true, true⟩ = .ok (ctx, va, k :: ks) →
        isPeer k = false → unpinned → sound [k, k + 1, k + 2, k + 3] →
        let old := BitVec.ofNat 32 (leNat (s.bytes k 4))
        ∃ t, exec (.tiadeAtomic p) s = .next t ∧ t.groups = s.groups ∧ t.hostOut = reply 0 (leBytes 4 old.toNat) ∧
          ∀ v, atomNew (p.aop.extractLsb' 0 4) 2 old (BitVec.ofNat 32 (leNat (p.payload.take 4)))
            (BitVec.ofNat 32 (leNat (p.payload.drop 4))) = some v → t.bytes k 4 = leBytes 4 v.toNat) ∧
    (p.ok false = false → exec (.tiadeRead p) s = .next { s with framesDropped := sat64 (s.framesDropped + 1) })) ∧
  ∀ (s : State) (f : HostFrame),
    9216 < f.size ∨ f.ipv4 = true ∨ f.ipFragment = true ∨ 1 < f.vlanTags ∨
      ¬(f.ethertype = 0x8A7D ∨ f.ethertype = 0x86DD ∧ f.udpPort = 51204) ∨ f.op = 0 ∨ 7 < f.op ∨ f.order = 3 →
    exec (.tiadeFrameDrop f) s = .next { s with framesDropped := min (s.framesDropped + 1) (2 ^ 64 - 1) }

/-- R304, R327, R328, R334, R339 to R342: management. Each operation answers code 1 with its effect done, or a
refusal with none; a packet that does not come from the management host on stream 0 is dropped and counted; a record
is signed, and its sequence number used once; SPDM requests are answered as their code asks. The SPDM codes and errors, the
codes of refusals, the answers to pre-emption and the 48 free choices of a live record are the model's (log entries 9, 76,
70 and 106). -/
def Obligations.Management : Prop :=
  (∀ (s : State) (p : MgmtPacket), p.stream ≠ 0 ∨ p.fromMgmtHost = false →
    ∀ i ∈ [Instr.createContext p, .destroyContext p, .setStep p, .registerWindow p, .removeWindow p,
        .registerLaunchQueueTable p, .harvestRecord p, .rosterRecord p,
        if p.word 1 = 1 then .resumeContext p else .preemptContext p],
      exec i s = .next { s with framesDropped := sat64 (s.framesDropped + 1) }) ∧
  (∀ (s : State) (p : MgmtPacket),
    let c := p.word 0
    let s1 : State := { s with streams := s.streams.put 0 (p.psn + 1) }
    (s.descriptorOk p = true →
      Managed .createContext p s (fun v => { v with contexts := v.contexts.put c (descriptorOf p) }) 1 []) ∧
    (s.descriptorOk p = false → Managed .createContext p s id 2 []) ∧
    (s.contexts.find? c = none →
      (∀ i ∈ [Instr.destroyContext, .setStep, .harvestRecord, .rosterRecord,
          if p.word 1 = 1 then .resumeContext else .preemptContext],
        Managed i p s id 2 [])) ∧
    (∀ x, s.contexts.find? c = some x →
      (s.hasTeams c = true → Managed .destroyContext p s id 3 []) ∧
      (s.hasTeams c = false → Managed .destroyContext p s (fun v => v.dropContext c) 1 []) ∧
      Managed .setStep p s (fun v => v.modCtx c fun x => { x with step := BitVec.ofNat 32 (p.word 1) }) 1 [] ∧
      (p.word 1 = 0 → x.preempt = .none →
        Managed .preemptContext p s (fun v => v.startPreempt c x.preemptLimit.toNat) 1 []) ∧
      (p.word 1 = 0 → x.preempt ≠ .none → Managed .preemptContext p s id 3 []) ∧
      (2 ≤ p.word 1 → Managed .preemptContext p s id 2 []) ∧
      (p.word 1 = 1 → x.preempt = .none → Managed .resumeContext p s id 3 []) ∧
      (p.word 1 = 1 → x.preempt ≠ .none → Managed .resumeContext p s
        (fun v => { v.requestLoad 0 c 0 with requests := (v.requestLoad 0 c 0).requests.dropLast }) 1 []) ∧
      Managed .harvestRecord p s (fun v => { v with seq := v.seq + 1, free := v.free + 48 }) 1 (s1.sign (s1.harvestBytes c)) ∧
      Managed .rosterRecord p s
        (fun v => { v with seq := v.seq + 1 }.modCtx c fun x => { x with roster := s1.rosterBytes c }) 1
        (s1.sign (s1.rosterBytes c))) ∧
    (∀ x, c < 255 → s.contexts.find? (p.word 1) = some x → p.pair 4 ≠ 0 →
      Managed .registerWindow p s (fun v =>
        { v with
          windows := v.windows.put c
            { ctx := p.word 1, base := p.pair 2, length := p.pair 4, rd := p.word 6 % 2 == 1, wr := p.word 6 / 2 % 2 == 1
              key := BitVec.ofNat 32 (p.word 7) } }) 1 []) ∧
    (c < 255 → p.pair 4 = 0 →
      Managed .removeWindow p s (fun v => { v with windows := v.windows.erase c }) 1 [] ∧
      Managed .registerWindow p s (fun v => { v with windows := v.windows.erase c }) 1 []) ∧
    Managed .registerLaunchQueueTable p s (fun v => { v with queueTable := some (p.pair 0), queueSeen := [] }) 1 []) ∧
  ∀ (s : State) (p : MgmtPacket),
    let m := spdmBytes p
    let s1 : State := { s with streams := s.streams.put 0 (p.psn + 1) }
    (spdmCode m = 0x84 → Managed .getVersion p s id 1 (Config.spdmAnswer 0x84 m)) ∧
    (spdmCode m = 0xE1 → Managed .getCapabilities p s id 1 (Config.spdmAnswer 0xE1 m ++ leBytes 4 4096)) ∧
    (spdmCode m = 0xE3 → Managed .negotiateAlgorithms p s id 1 (Config.spdmAnswer 0xE3 m)) ∧
    (spdmCode m = 0xE0 →
      Managed .getMeasurements p s id 1 (Config.spdmAnswer 0xE0 m ++ padTo 64 Config.fwMeas)) ∧
    (∀ c, spdmAsk m = .vendor 7 c → (s.contexts.find? c).isSome = true →
      Managed .vendorHarvestRequest p s (fun v => { v with seq := v.seq + 1, free := v.free + 48 }) 1
        (vendorAnswer m 1 (s1.sign (s1.harvestBytes c)))) ∧
    (∀ c, spdmAsk m = .vendor 8 c → (s.contexts.find? c).isSome = true →
      Managed .vendorRosterRequest p s
        (fun v => { v with seq := v.seq + 1 }.modCtx c fun x => { x with roster := s1.rosterBytes c }) 1
        (vendorAnswer m 1 (s1.sign (s1.rosterBytes c)))) ∧
    (∀ c, s.contexts.find? c = none →
      (spdmAsk m = .vendor 7 c → Managed .vendorHarvestRequest p s id 1 (vendorAnswer m 2 [])) ∧
      (spdmAsk m = .vendor 8 c → Managed .vendorRosterRequest p s id 1 (vendorAnswer m 2 []))) ∧
    (∀ k c, spdmAsk m = .vendor k c → k ≠ 7 → k ≠ 8 →
      Managed .spdmUnsupportedRequest p s id 1 (vendorAnswer m 3 [])) ∧
    (spdmAsk m = .unsupported → Managed .spdmUnsupportedRequest p s id 1 (spdmError m 0x07)) ∧
    (spdmAsk m = .badVendor → Managed .spdmUnsupportedRequest p s id 1 (spdmError m 0x01))

/-- R364 to R371: controls, boot and the part's life. A control write sets EN and LEVEL of its function, at most the
largest preset, and the expert word that the preset names; of two writes in one clock the host's is applied first; an expert
write sets LEVEL to 15 and is clamped to a fuse bound; a written control takes effect once, at a quiet point of its unit. A
reset whose steps pass boots; a failing step is recorded and its alternative taken, or with none left the module stays off,
until the host clears the record. A core that fails ends its grids. The clock falls a step at a time. What an expert word
holds, when a control takes effect, how writes are ordered, what a reset keeps, how units and spares are counted, and what
follows at the lowest step of the clock is the model's choice (log entries 11, 71, 72, 73, 124 and 125). -/
def Obligations.ControlsAndBoot : Prop :=
  (∀ (s : State) (w : Word) (host : Bool),
    ∀ x ∈ [(Instr.powerLimit w host, 0, 14), (.coreClock w host, 1, 14), (.routerPowerDownControl w host, 2, 14),
      (.hostPortControl w host, 3, 0), (.peerPortsControl w host, 4, 0), (.samplingControl w host, 5, 14),
      (.reuseHistogramControl w host, 6, 12), (.causalTrialControl w host, 7, 0), (.replayControl w host, 8, 1)],
    (host = false ∨ s.firmwareAt ≠ some s.clock →
    ∃ t c, exec x.1 s = .next t ∧ t.controls = s.controls.put x.2.1 c ∧ c.en = w.getLsbD 31 ∧ c.due = true ∧
      c.level = (if w.toNat % 16 = 15 then 15 else min (w.toNat % 16) x.2.2) ∧
      (w.toNat % 16 ≠ 15 → (c.expert.get 0 0).toNat =
        if x.2.1 = 0 then 2800 - 100 * c.level
        else if x.2.1 = 1 then (if c.level = 0 then 1400 else min 1400 (Config.clockMhz c.level))
        else if x.2.1 = 3 ∨ x.2.1 = 4 then 200 else c.level) ∧
      t.firmwareAt = (if host then s.firmwareAt else some s.clock) ∧
      t = { s with
        controls := t.controls, firmwareAt := t.firmwareAt, firmwareWrites := t.firmwareWrites, controlsWas := t.controlsWas }) ∧
    (host = true → s.firmwareAt = some s.clock → exec x.1 s = .next
      { s with
        controls := s.firmwareWrites.foldl writeControl (writeControl s.controlsWas (.basic x.2.1 w))
        controlsWas := writeControl s.controlsWas (.basic x.2.1 w) })) ∧
  (∀ (s : State) (w w' : Word), s.firmwareAt ≠ some s.clock →
    ∀ f ∈ [Instr.powerLimit, .coreClock, .routerPowerDownControl, .hostPortControl, .peerPortsControl, .samplingControl,
      .reuseHistogramControl, .causalTrialControl, .replayControl],
    ∃ a b c d : State, exec (f w false) s = .next a ∧ exec (f w' true) a = .next b ∧
      exec (f w' true) s = .next c ∧ exec (f w false) c = .next d ∧ b.controls = d.controls) ∧
  (∀ (s : State) (fn idx : Nat) (w : Word), fn < 9 → idx < 64 →
    let bound := if fn = 0 then 2800 else if fn = 1 then 1400 else if fn = 3 ∨ fn = 4 then 200 else 2 ^ 32
    ∃ t c, exec (.expertBlockWrite fn idx w) s = .next t ∧ t.controls = s.controls.put fn c ∧ c.level = 15 ∧
      c.due = true ∧ c.en = (s.written fn).en ∧ t.firmwareAt = some s.clock ∧
      (idx = 0 → bound < w.toNat → (c.expert.get 0 idx).toNat = bound ∧ t.clamps = sat64 (s.clamps + 1)) ∧
      (idx ≠ 0 ∨ w.toNat ≤ bound → c.expert.get 0 idx = w ∧ t.clamps = s.clamps) ∧
      ∀ k, k ≠ idx → c.expert.get 0 k = (s.written fn).expert.get 0 k) ∧
  (∀ (s : State) (fn : Nat), (s.written fn).due = true →
    fn ≤ 1 ∨ fn = 4 ∨
      fn = 2 ∧ (∀ r, r < 24 → (s.router r).powered = false ∨ (s.router r).idleFrom + s.idleWindow ≤ s.clock + 1) ∨
      fn = 3 ∧ s.hostWaits = [] ∨
      5 ≤ fn ∧ ((∀ p ∈ s.groups, p.2.resident = true → p.2.halted = true) ∨
        ∃ p ∈ s.groups, p.2.resident = true ∧ p.2.halted = false ∧ p.2.ctx ∈ s.observed (s.written fn) ∧ p.2.started = false) →
    ∃ t, exec (.controlApply fn) s = .next t ∧ (t.written fn).due = false ∧ (∀ a, t.byte a = s.byte a) ∧
      (fn < 5 → t.control fn = { s.written fn with due := false }) ∧
      (fn = 4 → ∀ n, (t.port n).up = false)) ∧
  (∀ s : State,
    (s.off = false → exec .bootRecordClear s = .next { s with boot := {} }) ∧
    (s.off = true → ∃ t, exec .bootRecordClear s = .next t ∧ t.off = false ∧ t.boot = ⟨0, 0, 0, 1⟩ ∧ t.mem = s.mem ∧
      t.groups = [])) ∧
  (∀ s : State, s.off = false →
    let n := min (s.boot.boots + 1) (2 ^ 32 - 1)
    (∃ t, exec (.moduleReset []) s = .next t ∧ t.off = false ∧ t.boot = ⟨0, 0, 0, n⟩ ∧ t.mem = s.mem ∧ t.groups = [] ∧
      t.cmds = [] ∧ t.grids = [] ∧ t.controls = resetControls ∧ t.inForce = resetControls) ∧
    ∀ f, f.unit < bootUnits f.step → s.clusters.sorted = true → (f.step = 3 → (s.cluster (f.unit / 4)).absent = false) →
      (f.step = 7 → f ∉ s.spares) → (f.step = 8 → s.noObserve = false) →
      let left := if f.step = 2 then ∀ g ∈ s.spares, g.step = 2 → g.unit / 8 ≠ f.unit / 8
        else if f.step = 4 then
          f ∉ s.spares ∧ (s.spares.filter fun g => g.step == 4 && g.unit / 16 == f.unit / 16).length < 2
        else f.step ≠ 1 ∧ f.step ≠ 9 ∧ f ∉ s.spares
      let fifth := f.step = 3 ∧ 4 ≤ s.seedsTaken (f.unit / 64)
      (¬left → ∃ t, exec (.moduleReset [f]) s = .next t ∧ t.off = true ∧ t.boot = ⟨f.step, 1, f.unit, n⟩) ∧
      (left → ¬fifth → ∃ t, exec (.moduleReset [f]) s = .next t ∧ t.off = false ∧ t.spares = s.spares ++ [f] ∧
        t.boot = ⟨0, 0, 0, min (n + 1) (2 ^ 32 - 1)⟩) ∧
      (left → fifth → ∃ t, exec (.moduleReset [f]) s = .next t ∧ t.off = false ∧ t.spares = s.spares ∧
        (t.cluster (f.unit / 4)).absent = true)) ∧
  (∀ (s : State) (core : Nat), core < 256 → (s.core core).failed = false →
    ∃ t, exec (.coreFailure core) s = .next t ∧
      (∀ tm ∈ s.coreTeams core, ∀ q, t.grids.find? tm.grid = some q → q.cancelled = true) ∧
      (∀ k, coreOf k = core → (t.group k).resident = false) ∧ (t.core core).failed = decide (4 ≤ s.seedsTaken (core / 64))) ∧
  (∀ s : State,
    (s.clockStep < 14 → exec .clockStepDown s =
      .next { s with clockStep := s.clockStep + 1, powerStep := s.clockStep + 1 }) ∧
    (14 ≤ s.clockStep → exec .clockStepDown s = .next
      (if (Config.freeWord s.free).getLsbD 0 then
        { s with free := s.free + 1, off := true, boot := { s.boot with failStep := 1, alt := 1, detail := 0 } }
      else { s with free := s.free + 1 }))) ∧
  ∀ s : State,
    (s.coolant = true → ∃ t, exec .coolantFlowLost s = .next t ∧ t.coolant = false ∧ t.clockStep = 14 ∧
      (s.contexts.sorted = true →
        ∀ c ∈ s.contexts.map (·.1), (t.context c).eventSeq = ((s.context c).eventSeq + 1) % 2 ^ 32)) ∧
    (s.coolant = false → ∃ t, exec .coolantFlowRestored s = .next t ∧ t.coolant = true ∧
      t.clockStep = max s.clockWanted s.powerStep)

/-- R331 to R333: peer links. A link carries traffic once its partner's signature checks and the allow list holds
its key, and else tries again after 2^20 clocks; an access of a peer is performed and answered once, later copies
have no effect, and bytes of it that lie in a peer window are asked of their device; an acknowledged load or atomic gives its
group the answer; what a failed link carried goes over another path, and a path that stays away ends what waits on it. Which
port number a signature names, which window an inbound access is checked against, that a copy of it is answered no more, what
goes on to other devices and what a spoilt line answers is the model's choice (log entries 41, 104 and 122). -/
def Obligations.PeerLinks : Prop :=
  (∀ (s : State) (port : Nat) (nonce peerNonce key sig : List Byte),
    let p := s.port port
    let ok := signatureOk nonce key sig = true ∧ Config.shake256 key ∈ s.allow
    let signed := Config.falconSign s.free (peerNonce ++ Config.devId ++ leBytes 4 port)
    s.portUsable port = true → p.up = false → p.retryAt = none → nonce.length = 32 → peerNonce.length = 32 →
    (ok → exec (.linkAuthentication port nonce peerNonce key sig) s = .next (State.resendOver
      { s with
        free := s.free + 1
        ports := s.ports.put port
          { p with up := true, partner := (Config.shake256 key).take 32, authSeq := s.seq, signed := signed } })) ∧
    (¬ok → exec (.linkAuthentication port nonce peerNonce key sig) s = .next (State.resendOver
      { s with
        free := s.free + 1
        ports := s.ports.put port
          { p with
            signed := signed, failures := sat64 (p.failures + 1), retryAt := some (s.clock + 2 ^ 20) } }))) ∧
  (∀ (s : State) (port u : Nat), (s.port port).retryAt = some u → u ≤ s.clock →
    exec (.linkAuthRetry port) s = .next { s with ports := s.ports.put port { s.port port with retryAt := none } }) ∧
  (∀ (s : State) (port : Nat), (s.port port).up = true →
    exec (.flitCrcError port) s = .next
      { s with
        ports := s.ports.put port
          { s.port port with crcErrors := min ((s.port port).crcErrors + 1) (2 ^ 64 - 1) } } ∧
    ∃ t, exec (.linkFailure port) s = .next t ∧ (t.port port).up = false ∧ (t.port port).partner = [] ∧
      t = { s with ports := t.ports, peerSends := t.peerSends } ∧
      t.peerSends = s.peerSends.map fun p => if p.port = port then { p with port := t.portTo p.dev, since := s.clock } else p) ∧
  (∀ (s : State) (r : PeerRequest), s.hasPath r.dev = true → (∀ a b c d e f g, r.op ≠ .merge a b c d e f g) →
    let n := peerBytes r.op
    let answer := fun (ok : Bool) (bs : List Byte) => s.peerOut ++ [⟨r.dev, r.seq, ok, bs⟩]
    let failed := Host.Outcome.next { s with peerDone := (r.dev, r.seq) :: s.peerDone, peerOut := answer false [] }
    let sound := fun (ks : List Nat) => s.err ≠ .line ∧ ∀ k ∈ ks, localLine (lineOf k) = true → lineOf k ∉ s.poison
    ((r.dev, r.seq) ∈ s.peerDone → exec (.peerAccess r) s = .next s) ∧
    ((r.dev, r.seq) ∉ s.peerDone → (∃ m, r.op = .load m) ∨ s.compactHolds r.ctx r.va n = false →
      (s.inbound r.ctx r.va n = none → exec (.peerAccess r) s = failed) ∧
      ∀ win o, s.inbound r.ctx r.va n = some (win, o) →
        (∀ m ctx va ks, r.op = .load m → s.checkWindow none ⟨win, o, n, true, false, false⟩ = .ok (ctx, va, ks) →
          ((∀ k ∈ ks, isPeer k = false) → sound ks →
            ∃ t, exec (.peerAccess r) s = .next t ∧ t.peerDone = (r.dev, r.seq) :: s.peerDone ∧
              t.peerOut = answer true (ks.map t.byte) ∧ t.groups = s.groups ∧
              ((∀ line i, s.pinOwner line i = none) → ∀ a, t.byte a = s.byte a)) ∧
          ((∀ k ∈ ks, isPeer k = false) → (∀ line i, s.pinOwner line i = none) →
            (∃ k ∈ ks, localLine (lineOf k) = true ∧ lineOf k ∈ s.poison) →
            ∃ t, exec (.peerAccess r) s = .next t ∧ t.peerOut = answer false []) ∧
          (ks ≠ [] → (∀ k ∈ ks, isPeer k = true) →
            ∃ t w, exec (.peerAccess r) s = .next t ∧ t.peerOut = s.peerOut ∧ t.mem = s.mem ∧
              t.hostWaits = s.hostWaits.put s.fresh w ∧ w.peer = some (r.dev, r.seq) ∧
              t.peerSends.length = s.peerSends.length + w.left ∧
              ∀ q ∈ t.peerSends.drop s.peerSends.length, ∃ o, q.host = some (s.fresh, o))) ∧
        (∀ bs ctx va ks, r.op = .store bs → s.checkWindow none ⟨win, o, n, false, true, false⟩ = .ok (ctx, va, ks) →
          (∀ k ∈ ks, isPeer k = false) →
          ∃ t, exec (.peerAccess r) s = .next t ∧ t.peerDone = (r.dev, r.seq) :: s.peerDone ∧
            t.peerOut = answer true [] ∧ (ks.Nodup → ∀ i (h : i < ks.length), t.byte ks[i] = bs.getD i 0)) ∧
        (∀ op ty b c ctx va k ks, r.op = .atomic op ty b c →
          s.checkWindow none ⟨win, o, n, true, true, true⟩ = .ok (ctx, va, k :: ks) →
          (∀ x ∈ k :: ks, isPeer x = false) → (∀ line i, s.pinOwner line i = none) → sound [k, k + 1, k + 2, k + 3] →
          let old := BitVec.ofNat 32 (leNat (s.bytes k 4))
          ∃ t, exec (.peerAccess r) s = .next t ∧ t.peerOut = answer true (leBytes 4 old.toNat) ∧
            ∀ v, atomNew op ty old b c = some v → t.bytes k 4 = leBytes 4 v.toNat) ∧
        ∀ m e, r.op = .load m → s.checkWindow none ⟨win, o, n, true, false, false⟩ = .error e →
          exec (.peerAccess r) s = failed)) ∧
  (∀ (s : State) (p : PeerSend) (ok : Bool) (data : List Byte),
    (s.peerSends.filter fun x => x.dev == p.dev && x.seq == p.seq) = [p] → p.port < 16 →
    (s.port p.port).up = true →
    let came := if ok && p.fits then some data else none
    exec (.peerAck p.dev p.seq ok data) s = .next (s.peerDeliver p came) ∧
    (p.asked = true → (∀ a b c d e f g, p.op ≠ .merge a b c d e f g) → (s.group p.group).wait = .peer →
      (∀ x ∈ s.peerSends, x.group = p.group → x.asked = true → x = p) →
      let t := s.peerDeliver p came
      (t.group p.group).wait = .none ∧
        (t.group p.group).peerAns = (s.group p.group).peerAns ++ [(peerKey p.lane p.va, came)])) ∧
  ∀ (s : State) (dev : Nat),
    let ps := s.peerSends.filter fun p => p.dev == dev
    s.hasPath dev = false → (∃ p ∈ ps, p.since + 2 ^ 24 ≤ s.clock) →
    exec (.peerPathTimeout dev) s = .next (ps.foldl (fun s p => s.peerDeliver p none) s)

/-- R132, R133, R135, R136, R138: what a Utril load answers with: a budget that is a multiple of 8 from 16 to 128,
kernels that declare it and launch with GCTL zero; every instruction of an accepted module names a mask from k0 to
k14 and breaks no limit of the loader; and a native kernel opens with the prologue that forms k0 and sets the mask
to it. -/
def Obligations.UtrilLoads : Prop :=
  (∀ (image : List Byte) (n : Nat) (ts : List Utril.Translated), Utril.load image n = .ok ts →
    n % 8 = 0 ∧ 16 ≤ n ∧ n ≤ 128 ∧ ∀ t ∈ ts, t.n = n ∧ t.gctl = 0) ∧
  (∀ (image : List Byte) (ks : List Utril.Kernel), Utril.parse image = .ok ks → 1 ≤ ks.length ∧ ks.length ≤ 256 ∧
    ∀ k ∈ ks, 1 ≤ k.code.length ∧ k.code.length ≤ 65536 ∧
      ∀ (i : Nat) (u : Utril.Code), k.code[i]? = some u → u.k ≤ 14 ∧ u.fault k.code.length i = none) ∧
  ∀ (n : Nat) (k : Utril.Kernel) (is : List Utril.Item) (p : Nat), Utril.nativeItems n k = .ok (is, p) →
    (is.take 5).map Utril.Item.nat =
      [.ins (.srd 54 0x004), .ins (.srd 55 0x005), .ins (.srd 56 0x006), .ins (.mandn 57 61 54), .ins (.mor 61 57 57)]

/-- The machine right after reset: no context lives, no group is resident, no work is queued, no link is up, and the
controls are those of R369; memory lists no byte and so keeps its canonical form. Every register of every group
reads zero with the tag raw, which is the model's choice where the spec names no value (log entry 1). -/
def Obligations.ResetState : Prop :=
  let s := State.reset
  (∀ fn, fn < 9 → (s.control fn).en = decide (fn < 5) ∧ (s.control fn).level = 0 ∧ s.written fn = s.control fn ∧
    (s.written fn).due = false) ∧
  s.contexts = [] ∧ s.grids = [] ∧ s.teams = [] ∧ s.cmds = [] ∧ s.messages = [] ∧ s.windows = [] ∧ s.queueTable = none ∧
    s.peerSends = [] ∧ s.boot = {} ∧ s.off = false ∧ s.clockStep = 0 ∧ s.coolant = true ∧
    (∀ p, (s.ports.get {} p).up = false) ∧ s.mem = [] ∧ Memory.wf s.mem = true ∧
  ∀ k, (s.group k).resident = false ∧ (s.group k).trapMode = false ∧ (s.group k).gctl = 0 ∧ (s.group k).gstat = 0 ∧
    (∀ r, (s.group k).sreg r = {}) ∧ (∀ r, (s.group k).vreg r = {}) ∧ (∀ r, (s.group k).base r = {}) ∧
    (s.group k).pc = 0 ∧ (s.group k).wait = .none

/-- R55 to R64: words written out from the encodings of the spec, at least one of every family, decode to the
instructions they stand for; a major from 0x34 on is reserved, and a word with a bit set that must be zero is no
instruction. -/
def Obligations.DecodeWords : Prop :=
  (decode 0x04A0060C 0 = .saddc 10 0 6 ∧ decode 0x10A2BFFF 0 = .saddImm 10 10 0x3FFF ∧
    decode 0x1C500030 0x3F800000 = .slit 5 3 0x3F800000 ∧ decode 0x0C5D8080 0 = .smov 5 54 ∧
    decode 0x23600004 0 = .sld 54 0 0 1 ∧ decode 0x240D8300 0 = .btset 0 54 3 ∧ decode 0x28701400 0 = .srd 7 0x014 ∧
    decode 0x2F9F7603 0 = .mandn 57 61 54 ∧ decode 0x2D850007 0 = .msetx 24 20) ∧
  (decode 0x30450000 0 = .br 0 2 10 0 ∧ decode 0x315E8004 0 = .br 0 10 61 4 ∧ decode 0x348E0000 0 = .loop 28 0 ∧
    decode 0x38200000 0 = .halt ∧ decode 0x3C00C002 0 = .baraw 3) ∧
  (decode 0x40080000 0 = .vadd 1 0 (.v 0) ∧ decode 0x483879B1 0x42000000 = .vsel 7 7 (.s 27) 33 ∧
    decode 0x4C000001 0 = .vidx 0 none ∧ decode 0x50204030 0 = .fadd 4 4 (.v 3) ∧
    decode 0x54401020 0x06C00000 = .ffma 8 1 (.v 2) 3 3 ∧ decode 0x64000007 0x00000005 = .tagwr (.v 0) 5 ∧
    decode 0x68A0A004 0 = .unzip3 20 10 ∧ decode 0x6C502030 0 = .faddx 10 2 (.v 3) ∧
    decode 0x70404060 0 = .dwadd 8 4 (.v 6) ∧ decode 0x75B02000 0x72000000 = .creduce 54 2 57 0 0 ∧
    decode 0x78305023 0 = .qbcast 6 5 2 ∧ decode 0x7CA04000 0x7A00E000 = .greduce 20 4 61 0 7 0 0 0) ∧
  (decode 0x80421CA0 0 = .vld 8 1 7 2 4 ∧ decode 0x84200C21 0 = .vstp 4 3 4 ∧
    decode 0x84200C24 0x200 = .vldp2w 4 3 0 4 ⟨2, 0, 0, 0⟩ ∧ decode 0x902C0C24 0xC000 = .spldx2w 5 2 3 0 4 ⟨192, 0, 0, 0⟩ ∧
    decode 0x94487940 0x16000A97 = .atom 9 7 (.s 20) 11 1 { op := 7, ty := 0, order := 1, scope := 2 } 1 0 ∧
    decode 0x94007951 0x00000AA6 = .red 7 (.s 21) 1 { op := 6, ty := 0, order := 2, scope := 2 } 1 ∧
    decode 0x9C070000 0 = .fence 3 4) ∧
  (decode 0xA8021E03 0 = .cpy 8 30 1 1 ∧ decode 0xA8278C00 0 = .epoll 30 12 ∧ decode 0xAC041F00 0 = .mma 16 31 0 ∧
    decode 0xB0021600 0 = .gath 8 22 0 0 ∧ decode 0xB4122206 0 = .scprobe 8 34 1 1 0 ∧
    decode 0xBC004000 0 = .promote 1 ∧ decode 0xC0000500 0 = .trap 5 ∧ decode 0xC0004001 0 = .rteEnd ∧
    decode 0xC4280030 0 = .tsave 5 3 ∧ decode 0xC9458000 0 = .ctxsave 20 22 ∧ decode 0xCC008000 0 = .progress 2) ∧
  decode 0xD0000000 0 = .reservedMajor 0xD0000000 ∧ decode 0x38200001 0 = .undefinedInstruction 0x38200001

/-- R12, R54, R157: a step runs the decoded instruction. Where the next turn lets a group issue and its engine selects it, the step is
exec of the instruction that the words at the group's place in its clause decode to, after the turn's clocks have passed,
with its chunk opened where the context logs or replays, and with its port noted where it waits at its place; where it
goes on at once, nothing is added. An uncorrectable error of a register, a scratchpad or a queue ends the grid instead, and a
chunk that must run again does so. With no turn listed and nothing else to do, a group that goes on with an instruction
which has issued comes first, and then of the groups that their engines select in this clock the one whose last issue is
oldest; with none a clock passes. Where the turn names an event, the step is that event; and after each the routers hold what
it has put on its way. The order with no turn listed, the selection by exec itself, and what a module that is off does is the
model's choice (log entries 4, 107 and 85). -/
def Obligations.StepRunsDecoded : Prop :=
  (∀ (s : State) (ts : List Turn) (dt k : Nat) (ticks : List (Nat × Nat)) (c : Clause) (e : SoftError),
    s.turns = { dt := dt, ticks := ticks, act := .issue k, err := e } :: ts → s.off = false →
    let u : State := { { s with turns := ts }.tick dt ticks with err := e }
    let v := u.openChunk k
    let i := decode (c.words.getD (s.group k).word 0) (c.words.getD ((s.group k).word + 1) 0)
    u.mayIssue k = true → u.selects k = true → (s.group k).clause = some c →
    (u.squashes k = false →
      (e = .none → step s = settled (issued k v (exec i { v with cur := k }))) ∧
      (e = .register → step s = settled (.next (v.errorEnd k 0))) ∧
      ∀ va, e = .word va → step s = settled (.next (v.errorEnd k va))) ∧
    (u.squashes k = true → step s = settled (.next (u.squash k)))) ∧
  (∀ (s : State) (k : Nat), (s.context (s.group k).ctx).observe.mode = 0 → s.openChunk k = s ∧ s.squashes k = false ∧
    ∀ t : State, (t.group k).wait = .none → (t.group k).waitAccess = none → t.gridEnded k = false →
      issued k s (.next t) = .next t) ∧
  (∀ (s : State) (k : Nat) (c : Clause), s.turns = [] → s.off = false → s.ownMove = none → s.sampler = none →
    (s.group k).clause = some c →
    let i := decode (c.words.getD (s.group k).word 0) (c.words.getD ((s.group k).word + 1) 0)
    let runs := fun (u : State) => u.mayIssue k = true → u.selects k = true → u.err = .none → u.squashes k = false →
      step s = settled (issued k (u.openChunk k) (exec i { u.openChunk k with cur := k }))
    (s.nextIssued = some k → runs s) ∧
    (s.nextIssued = none → (s.nextGroup = some k → runs s) ∧ (s.nextGroup = none → step s = .next (s.tick 1 [])))) ∧
  (∀ (s : State) (ts : List Turn) (dt : Nat) (ticks : List (Nat × Nat)) (e : Instr),
    s.turns = { dt := dt, ticks := ticks, act := .event e } :: ts → s.off = false → e.size = 0 →
    let u : State := { { s with turns := ts }.tick dt ticks with err := .none }
    ((∀ core, e ≠ .sample core) → step s = settled (exec e u)) ∧
    ∀ core, e = .sample core → step s = settled (exec e (u.noteInterlock core))) ∧
  ∀ s : State, s.off = true → (s.turns = [] → step s = .fault .moduleOff) ∧
    ∀ (t : Turn) (ts : List Turn), s.turns = t :: ts → t.act ≠ .event .bootRecordClear → step s = .fault .moduleOff

/-- R55 to R63: decoding an encoded well-formed instruction gives it back, with every operand at every value that
the encoding admits; the word after a one-word instruction is not read. -/
def Obligations.EncodeDecode : Prop :=
  ∀ i : Instr, i.wf = true → (∀ w, i ≠ .undefinedInstruction w) →
    (∀ w, encode i = [w] → ∀ x, decode w x = i) ∧ ∀ w x, encode i = [w, x] → decode w x = i

/-- Every step keeps home memory in its canonical form: addresses rise strictly and no listed byte holds what an
unlisted one reads as. -/
def Obligations.MemoryStaysCanonical : Prop :=
  ∀ s t : State, Memory.wf s.mem = true → step s = .next t → Memory.wf t.mem = true
end

