-- ==== Sys2Proof/Laws/AMap.lean ====
section
/-! SUPPORT. Laws of the sorted association lists: reading after writing, and the canonical form. -/

namespace Sys2Proof.Machine

variable {α : Type}

@[simp] theorem AMap.get_nil (d : α) (k : Nat) : AMap.get d [] k = d := rfl

@[simp] theorem AMap.find?_nil (k : Nat) : AMap.find? ([] : AMap α) k = none := rfl

/-- Reading is finding with a default. -/
theorem AMap.get_eq_find? (d : α) (m : AMap α) (k : Nat) : m.get d k = (AMap.find? m k).getD d := by
  induction m with
  | nil => rfl
  | cons p m ih => by_cases h : p.1 = k <;> simp [AMap.get, AMap.find?, h, ih]

@[simp] theorem AMap.find?_ins_self (k : Nat) (v : α) (m : AMap α) (h : AMap.find? m k = none) :
    AMap.find? (AMap.ins k v m) k = some v := by
  induction m with
  | nil => simp [AMap.ins, AMap.find?]
  | cons p m ih =>
    by_cases hp : p.1 = k
    · simp [AMap.find?, hp] at h
    · simp only [AMap.find?, hp, if_false] at h
      by_cases hk : k < p.1 <;> simp [AMap.ins, AMap.find?, hk, hp, ih h]

@[simp] theorem AMap.find?_ins_ne (k j : Nat) (v : α) (m : AMap α) (h : j ≠ k) :
    AMap.find? (AMap.ins k v m) j = AMap.find? m j := by
  induction m with
  | nil => simp [AMap.ins, AMap.find?, h.symm]
  | cons p m ih =>
    by_cases hk : k < p.1
    · simp [AMap.ins, AMap.find?, hk, h.symm]
    · simp only [AMap.ins, hk, if_false, AMap.find?, ih]

@[simp] theorem AMap.find?_erase_self (m : AMap α) (k : Nat) : AMap.find? (m.erase k) k = none := by
  induction m with
  | nil => rfl
  | cons p m ih =>
    by_cases hp : p.1 = k
    · simpa [AMap.erase, hp] using ih
    · simpa [AMap.erase, hp, AMap.find?] using ih

@[simp] theorem AMap.find?_erase_ne (m : AMap α) (k j : Nat) (h : j ≠ k) :
    AMap.find? (m.erase k) j = AMap.find? m j := by
  induction m with
  | nil => rfl
  | cons p m ih =>
    by_cases hp : p.1 = k
    · have : p.1 ≠ j := fun e => h (e ▸ hp)
      simpa [AMap.erase, hp, AMap.find?, this, h.symm] using ih
    · by_cases hj : p.1 = j
      · simp [AMap.erase, AMap.find?, hj, h]
      · simpa [AMap.erase, hp, AMap.find?, hj] using ih

@[simp] theorem AMap.find?_put_self (m : AMap α) (k : Nat) (v : α) : AMap.find? (m.put k v) k = some v := by
  simp [AMap.put]

@[simp] theorem AMap.find?_put_ne (m : AMap α) (k j : Nat) (v : α) (h : j ≠ k) :
    AMap.find? (m.put k v) j = AMap.find? m j := by
  simp [AMap.put, h]

@[simp] theorem AMap.get_put_self (d : α) (m : AMap α) (k : Nat) (v : α) : (m.put k v).get d k = v := by
  simp [AMap.get_eq_find?]

@[simp] theorem AMap.get_put_ne (d : α) (m : AMap α) (k j : Nat) (v : α) (h : j ≠ k) :
    (m.put k v).get d j = m.get d j := by
  simp [AMap.get_eq_find?, h]

@[simp] theorem AMap.get_erase_self (d : α) (m : AMap α) (k : Nat) : (m.erase k).get d k = d := by
  simp [AMap.get_eq_find?]

@[simp] theorem AMap.get_erase_ne (d : α) (m : AMap α) (k j : Nat) (h : j ≠ k) :
    (m.erase k).get d j = m.get d j := by
  simp [AMap.get_eq_find?, h]

section
variable [DecidableEq α]

/-- A read after a write to the same number gives the value written. -/
@[simp] theorem AMap.get_set_self (d : α) (m : AMap α) (k : Nat) (v : α) : (m.set d k v).get d k = v := by
  by_cases h : v = d <;> simp [AMap.set, h, AMap.get_eq_find?]

/-- A write leaves every other number alone. -/
@[simp] theorem AMap.get_set_ne (d : α) (m : AMap α) (k j : Nat) (v : α) (h : j ≠ k) :
    (m.set d k v).get d j = m.get d j := by
  by_cases hv : v = d <;> simp [AMap.set, hv, h, AMap.get_eq_find?]

theorem AMap.get_set (d : α) (m : AMap α) (k j : Nat) (v : α) :
    (m.set d k v).get d j = if j = k then v else m.get d j := by
  by_cases h : j = k
  · subst h; simp
  · simp [h]
end

theorem AMap.get_put (d : α) (m : AMap α) (k j : Nat) (v : α) :
    (m.put k v).get d j = if j = k then v else m.get d j := by
  by_cases h : j = k
  · subst h; simp
  · simp [h]

theorem AMap.erase_ins (k : Nat) (v : α) (m : AMap α) (h : AMap.find? m k = none) :
    AMap.erase (AMap.ins k v m) k = m := by
  induction m with
  | nil => simp [AMap.ins, AMap.erase]
  | cons p m ih =>
    by_cases hp : p.1 = k
    · simp [AMap.find?, hp] at h
    · simp only [AMap.find?, hp, if_false] at h
      have hm := ih h
      have e : AMap.erase m k = m := by
        clear ih hm
        induction m with
        | nil => rfl
        | cons q m ih2 =>
          by_cases hq : q.1 = k
          · simp [AMap.find?, hq] at h
          · simp only [AMap.find?, hq, if_false] at h
            have := ih2 h
            simp only [AMap.erase] at this
            simp [AMap.erase, hq, this]
      simp only [AMap.erase] at hm e
      by_cases hk : k < p.1 <;> simp [AMap.ins, AMap.erase, hk, hp, hm, e]

/-- The last of two writes to one number stands. -/
@[simp] theorem AMap.put_put (m : AMap α) (k : Nat) (v w : α) : (m.put k v).put k w = m.put k w := by
  simp only [AMap.put]
  rw [AMap.erase_ins]
  simp

/-- What `modify` does to a reading: f of the entry, where one is held. -/
theorem AMap.find?_modify (m : AMap α) (k j : Nat) (f : α → α) :
    AMap.find? (m.modify k f) j = if j = k then (AMap.find? m j).map f else AMap.find? m j := by
  induction m with
  | nil => simp [AMap.modify, AMap.find?]
  | cons p m ih =>
    simp only [AMap.modify] at ih
    by_cases hk : p.1 = k <;> by_cases hj : p.1 = j <;> simp_all [AMap.modify, AMap.find?]

/-! ### The canonical form -/

/-- The numbers rise strictly, said of all pairs. -/
theorem AMap.sorted_iff (m : AMap α) : m.sorted = true ↔ m.Pairwise (fun p q => p.1 < q.1) := by
  induction m with
  | nil => simp [AMap.sorted]
  | cons p m ih =>
    cases m with
    | nil => simp [AMap.sorted]
    | cons q m =>
      rw [List.pairwise_cons]
      simp only [AMap.sorted, Bool.and_eq_true, decide_eq_true_eq]
      rw [show ((p.1 < q.1 ∧ AMap.sorted (q :: m) = true) ↔
        (p.1 < q.1 ∧ List.Pairwise (fun a b => a.1 < b.1) (q :: m))) from and_congr_right fun _ => ih]
      constructor
      · rintro ⟨h, hs⟩
        refine ⟨?_, hs⟩
        intro a ha
        rcases List.mem_cons.1 ha with rfl | ha
        · exact h
        · exact lt_trans h ((List.pairwise_cons.1 hs).1 a ha)
      · rintro ⟨h, hs⟩
        exact ⟨h q (by simp), hs⟩

theorem AMap.sorted_erase (m : AMap α) (k : Nat) (h : m.sorted = true) : (m.erase k).sorted = true := by
  rw [AMap.sorted_iff] at *
  exact h.filter _

theorem AMap.mem_ins (k : Nat) (v : α) (m : AMap α) (p : Nat × α) :
    p ∈ AMap.ins k v m ↔ p = (k, v) ∨ p ∈ m := by
  induction m with
  | nil => simp [AMap.ins]
  | cons q m ih =>
    by_cases hk : k < q.1
    · simp [AMap.ins, hk]
    · simp only [AMap.ins, hk, if_false, List.mem_cons, ih]
      tauto

theorem AMap.sorted_ins (k : Nat) (v : α) (m : AMap α) (h : m.sorted = true) (hk : ∀ p ∈ m, p.1 ≠ k) :
    AMap.sorted (AMap.ins k v m) = true := by
  rw [AMap.sorted_iff] at *
  induction m with
  | nil => simp [AMap.ins]
  | cons q m ih =>
    rw [List.pairwise_cons] at h
    by_cases hlt : k < q.1
    · simp only [AMap.ins, hlt, if_true]
      rw [List.pairwise_cons]
      refine ⟨?_, List.pairwise_cons.2 h⟩
      intro a ha
      rcases List.mem_cons.1 ha with rfl | ha
      · exact hlt
      · exact lt_trans hlt (h.1 a ha)
    · simp only [AMap.ins, hlt, if_false]
      rw [List.pairwise_cons]
      refine ⟨?_, ih h.2 fun p hp => hk p (List.mem_cons_of_mem _ hp)⟩
      intro a ha
      rcases (AMap.mem_ins k v m a).1 ha with rfl | ha
      · have := hk q (by simp)
        show q.1 < k
        omega
      · exact h.1 a ha

theorem AMap.sorted_put (m : AMap α) (k : Nat) (v : α) (h : m.sorted = true) : (m.put k v).sorted = true := by
  refine AMap.sorted_ins k v _ (AMap.sorted_erase m k h) ?_
  intro p hp
  simp [AMap.erase] at hp
  exact hp.2

/-- A list of cells in the canonical form: numbers rise, and no cell holds what an unlisted one reads as. -/
abbrev AMap.canon [DecidableEq α] (d : α) (m : AMap α) : Prop := m.sorted = true ∧ ∀ p ∈ m, p.2 ≠ d

section
variable [DecidableEq α]

/-- A write keeps the canonical form. -/
theorem AMap.canon_set (d : α) (m : AMap α) (k : Nat) (v : α) (h : m.canon d) : (m.set d k v).canon d := by
  unfold AMap.set
  split
  · refine ⟨AMap.sorted_erase m k h.1, fun p hp => h.2 p ?_⟩
    simp [AMap.erase] at hp
    exact hp.1
  · rename_i hv
    refine ⟨AMap.sorted_put m k v h.1, fun p hp => ?_⟩
    rcases (AMap.mem_ins k v _ p).1 hp with rfl | hp
    · exact hv
    · simp [AMap.erase] at hp
      exact h.2 p hp.1

/-- Leaving cells out keeps the canonical form. -/
theorem AMap.canon_filter (d : α) (m : AMap α) (f : Nat × α → Bool) (h : m.canon d) :
    AMap.canon d (m.filter f) := by
  refine ⟨?_, fun p hp => h.2 p (List.mem_of_mem_filter hp)⟩
  have := (AMap.sorted_iff m).1 h.1
  exact (AMap.sorted_iff _).2 (this.filter _)

end

theorem AMap.find?_mem (m : AMap α) (k : Nat) (v : α) (h : AMap.find? m k = some v) : (k, v) ∈ m := by
  induction m with
  | nil => simp at h
  | cons p m ih =>
    by_cases hp : p.1 = k
    · simp only [AMap.find?, hp, if_true, Option.some.injEq] at h
      subst hp; subst h; simp
    · simp only [AMap.find?, hp, if_false] at h
      exact List.mem_cons_of_mem _ (ih h)

theorem AMap.find?_of_mem (m : AMap α) (hs : m.sorted = true) (k : Nat) (v : α) (h : (k, v) ∈ m) :
    AMap.find? m k = some v := by
  rw [AMap.sorted_iff] at hs
  induction m with
  | nil => simp at h
  | cons p m ih =>
    rw [List.pairwise_cons] at hs
    rcases List.mem_cons.1 h with rfl | h
    · simp [AMap.find?]
    · have := hs.1 _ h
      have hne : p.1 ≠ k := by intro e; simp [e] at this
      simp only [AMap.find?, hne, if_false]
      exact ih hs.2 h

/-- Writing back the entry that a sorted list holds changes nothing. -/
theorem AMap.put_same (m : AMap α) (hs : m.sorted = true) (k : Nat) (v : α) (h : AMap.find? m k = some v) :
    m.put k v = m := by
  rw [AMap.sorted_iff] at hs
  induction m with
  | nil => simp at h
  | cons p m ih =>
    rw [List.pairwise_cons] at hs
    by_cases hp : p.1 = k
    · simp only [AMap.find?, hp, if_true, Option.some.injEq] at h
      have e : AMap.erase m k = m := by
        rw [AMap.erase, List.filter_eq_self]
        intro q hq
        have := hs.1 q hq
        simp; omega
      have e2 : AMap.erase (p :: m) k = m := by
        simp only [AMap.erase] at e
        simp [AMap.erase, hp, e]
      rw [AMap.put, e2]
      subst hp; subst h
      cases m with
      | nil => rfl
      | cons q m => simp [AMap.ins, hs.1 q (by simp)]
    · simp only [AMap.find?, hp, if_false] at h
      have := ih hs.2 h
      have hk := hs.1 _ (AMap.find?_mem m k v h)
      simp only at hk
      have hnl : ¬ k < p.1 := by omega
      simp only [AMap.put, AMap.erase] at this
      simp [AMap.put, AMap.erase, hp, AMap.ins, hnl, this]

end Sys2Proof.Machine
end

