-- ==== Sys2Proof/Laws/State.lean ====
section
/-! SUPPORT. What each update of the state leaves in each field: one lemma for a field and an update, so that no
later proof unfolds a record update. -/

namespace Sys2Proof.Machine

variable (s : State)

@[simp] theorem State.setG_turns (g : Group) : (s.setG g).turns = s.turns := rfl
@[simp] theorem State.setG_cur (g : Group) : (s.setG g).cur = s.cur := rfl
@[simp] theorem State.setG_fresh (g : Group) : (s.setG g).fresh = s.fresh := rfl
@[simp] theorem State.setG_free (g : Group) : (s.setG g).free = s.free := rfl
@[simp] theorem State.setG_clock (g : Group) : (s.setG g).clock = s.clock := rfl
@[simp] theorem State.setG_err (g : Group) : (s.setG g).err = s.err := rfl
@[simp] theorem State.setG_interlock (g : Group) : (s.setG g).interlock = s.interlock := rfl
@[simp] theorem State.setG_groups (g : Group) : (s.setG g).groups = s.groups.put s.cur g := rfl
@[simp] theorem State.setG_chunks (g : Group) : (s.setG g).chunks = s.chunks := rfl
@[simp] theorem State.setG_cores (g : Group) : (s.setG g).cores = s.cores := rfl
@[simp] theorem State.setG_clusters (g : Group) : (s.setG g).clusters = s.clusters := rfl
@[simp] theorem State.setG_mem (g : Group) : (s.setG g).mem = s.mem := rfl
@[simp] theorem State.setG_poison (g : Group) : (s.setG g).poison = s.poison := rfl
@[simp] theorem State.setG_l2 (g : Group) : (s.setG g).l2 = s.l2 := rfl
@[simp] theorem State.setG_pins (g : Group) : (s.setG g).pins = s.pins := rfl
@[simp] theorem State.setG_served (g : Group) : (s.setG g).served = s.served := rfl
@[simp] theorem State.setG_reuse (g : Group) : (s.setG g).reuse = s.reuse := rfl
@[simp] theorem State.setG_contexts (g : Group) : (s.setG g).contexts = s.contexts := rfl
@[simp] theorem State.setG_grids (g : Group) : (s.setG g).grids = s.grids := rfl
@[simp] theorem State.setG_teams (g : Group) : (s.setG g).teams = s.teams := rfl
@[simp] theorem State.setG_gangs (g : Group) : (s.setG g).gangs = s.gangs := rfl
@[simp] theorem State.setG_queueTable (g : Group) : (s.setG g).queueTable = s.queueTable := rfl
@[simp] theorem State.setG_queueSeen (g : Group) : (s.setG g).queueSeen = s.queueSeen := rfl
@[simp] theorem State.setG_requests (g : Group) : (s.setG g).requests = s.requests := rfl
@[simp] theorem State.setG_cmds (g : Group) : (s.setG g).cmds = s.cmds := rfl
@[simp] theorem State.setG_rounds (g : Group) : (s.setG g).rounds = s.rounds := rfl
@[simp] theorem State.setG_messages (g : Group) : (s.setG g).messages = s.messages := rfl
@[simp] theorem State.setG_wakes (g : Group) : (s.setG g).wakes = s.wakes := rfl
@[simp] theorem State.setG_routers (g : Group) : (s.setG g).routers = s.routers := rfl
@[simp] theorem State.setG_windows (g : Group) : (s.setG g).windows = s.windows := rfl
@[simp] theorem State.setG_streams (g : Group) : (s.setG g).streams = s.streams := rfl
@[simp] theorem State.setG_hostOut (g : Group) : (s.setG g).hostOut = s.hostOut := rfl
@[simp] theorem State.setG_framesDropped (g : Group) : (s.setG g).framesDropped = s.framesDropped := rfl
@[simp] theorem State.setG_windowFails (g : Group) : (s.setG g).windowFails = s.windowFails := rfl
@[simp] theorem State.setG_hostWaits (g : Group) : (s.setG g).hostWaits = s.hostWaits := rfl
@[simp] theorem State.setG_ports (g : Group) : (s.setG g).ports = s.ports := rfl
@[simp] theorem State.setG_allow (g : Group) : (s.setG g).allow = s.allow := rfl
@[simp] theorem State.setG_peerSeq (g : Group) : (s.setG g).peerSeq = s.peerSeq := rfl
@[simp] theorem State.setG_peerSends (g : Group) : (s.setG g).peerSends = s.peerSends := rfl
@[simp] theorem State.setG_peerDone (g : Group) : (s.setG g).peerDone = s.peerDone := rfl
@[simp] theorem State.setG_peerOut (g : Group) : (s.setG g).peerOut = s.peerOut := rfl
@[simp] theorem State.setG_seq (g : Group) : (s.setG g).seq = s.seq := rfl
@[simp] theorem State.setG_resets (g : Group) : (s.setG g).resets = s.resets := rfl
@[simp] theorem State.setG_off (g : Group) : (s.setG g).off = s.off := rfl
@[simp] theorem State.setG_boot (g : Group) : (s.setG g).boot = s.boot := rfl
@[simp] theorem State.setG_spares (g : Group) : (s.setG g).spares = s.spares := rfl
@[simp] theorem State.setG_controls (g : Group) : (s.setG g).controls = s.controls := rfl
@[simp] theorem State.setG_inForce (g : Group) : (s.setG g).inForce = s.inForce := rfl
@[simp] theorem State.setG_firmwareAt (g : Group) : (s.setG g).firmwareAt = s.firmwareAt := rfl
@[simp] theorem State.setG_firmwareWrites (g : Group) : (s.setG g).firmwareWrites = s.firmwareWrites := rfl
@[simp] theorem State.setG_controlsWas (g : Group) : (s.setG g).controlsWas = s.controlsWas := rfl
@[simp] theorem State.setG_clamps (g : Group) : (s.setG g).clamps = s.clamps := rfl
@[simp] theorem State.setG_dmaDrops (g : Group) : (s.setG g).dmaDrops = s.dmaDrops := rfl
@[simp] theorem State.setG_clockStep (g : Group) : (s.setG g).clockStep = s.clockStep := rfl
@[simp] theorem State.setG_powerStep (g : Group) : (s.setG g).powerStep = s.powerStep := rfl
@[simp] theorem State.setG_coolant (g : Group) : (s.setG g).coolant = s.coolant := rfl
@[simp] theorem State.setG_dieCorrections (g : Group) : (s.setG g).dieCorrections = s.dieCorrections := rfl

@[simp] theorem State.setGroup_turns (k : Nat) (g : Group) : (s.setGroup k g).turns = s.turns := rfl
@[simp] theorem State.setGroup_cur (k : Nat) (g : Group) : (s.setGroup k g).cur = s.cur := rfl
@[simp] theorem State.setGroup_fresh (k : Nat) (g : Group) : (s.setGroup k g).fresh = s.fresh := rfl
@[simp] theorem State.setGroup_free (k : Nat) (g : Group) : (s.setGroup k g).free = s.free := rfl
@[simp] theorem State.setGroup_clock (k : Nat) (g : Group) : (s.setGroup k g).clock = s.clock := rfl
@[simp] theorem State.setGroup_err (k : Nat) (g : Group) : (s.setGroup k g).err = s.err := rfl
@[simp] theorem State.setGroup_interlock (k : Nat) (g : Group) : (s.setGroup k g).interlock = s.interlock := rfl
@[simp] theorem State.setGroup_groups (k : Nat) (g : Group) : (s.setGroup k g).groups = s.groups.put k g := rfl
@[simp] theorem State.setGroup_chunks (k : Nat) (g : Group) : (s.setGroup k g).chunks = s.chunks := rfl
@[simp] theorem State.setGroup_cores (k : Nat) (g : Group) : (s.setGroup k g).cores = s.cores := rfl
@[simp] theorem State.setGroup_clusters (k : Nat) (g : Group) : (s.setGroup k g).clusters = s.clusters := rfl
@[simp] theorem State.setGroup_mem (k : Nat) (g : Group) : (s.setGroup k g).mem = s.mem := rfl
@[simp] theorem State.setGroup_poison (k : Nat) (g : Group) : (s.setGroup k g).poison = s.poison := rfl
@[simp] theorem State.setGroup_l2 (k : Nat) (g : Group) : (s.setGroup k g).l2 = s.l2 := rfl
@[simp] theorem State.setGroup_pins (k : Nat) (g : Group) : (s.setGroup k g).pins = s.pins := rfl
@[simp] theorem State.setGroup_served (k : Nat) (g : Group) : (s.setGroup k g).served = s.served := rfl
@[simp] theorem State.setGroup_reuse (k : Nat) (g : Group) : (s.setGroup k g).reuse = s.reuse := rfl
@[simp] theorem State.setGroup_contexts (k : Nat) (g : Group) : (s.setGroup k g).contexts = s.contexts := rfl
@[simp] theorem State.setGroup_grids (k : Nat) (g : Group) : (s.setGroup k g).grids = s.grids := rfl
@[simp] theorem State.setGroup_teams (k : Nat) (g : Group) : (s.setGroup k g).teams = s.teams := rfl
@[simp] theorem State.setGroup_gangs (k : Nat) (g : Group) : (s.setGroup k g).gangs = s.gangs := rfl
@[simp] theorem State.setGroup_queueTable (k : Nat) (g : Group) : (s.setGroup k g).queueTable = s.queueTable := rfl
@[simp] theorem State.setGroup_queueSeen (k : Nat) (g : Group) : (s.setGroup k g).queueSeen = s.queueSeen := rfl
@[simp] theorem State.setGroup_requests (k : Nat) (g : Group) : (s.setGroup k g).requests = s.requests := rfl
@[simp] theorem State.setGroup_cmds (k : Nat) (g : Group) : (s.setGroup k g).cmds = s.cmds := rfl
@[simp] theorem State.setGroup_rounds (k : Nat) (g : Group) : (s.setGroup k g).rounds = s.rounds := rfl
@[simp] theorem State.setGroup_messages (k : Nat) (g : Group) : (s.setGroup k g).messages = s.messages := rfl
@[simp] theorem State.setGroup_wakes (k : Nat) (g : Group) : (s.setGroup k g).wakes = s.wakes := rfl
@[simp] theorem State.setGroup_routers (k : Nat) (g : Group) : (s.setGroup k g).routers = s.routers := rfl
@[simp] theorem State.setGroup_windows (k : Nat) (g : Group) : (s.setGroup k g).windows = s.windows := rfl
@[simp] theorem State.setGroup_streams (k : Nat) (g : Group) : (s.setGroup k g).streams = s.streams := rfl
@[simp] theorem State.setGroup_hostOut (k : Nat) (g : Group) : (s.setGroup k g).hostOut = s.hostOut := rfl
@[simp] theorem State.setGroup_framesDropped (k : Nat) (g : Group) : (s.setGroup k g).framesDropped = s.framesDropped := rfl
@[simp] theorem State.setGroup_windowFails (k : Nat) (g : Group) : (s.setGroup k g).windowFails = s.windowFails := rfl
@[simp] theorem State.setGroup_hostWaits (k : Nat) (g : Group) : (s.setGroup k g).hostWaits = s.hostWaits := rfl
@[simp] theorem State.setGroup_ports (k : Nat) (g : Group) : (s.setGroup k g).ports = s.ports := rfl
@[simp] theorem State.setGroup_allow (k : Nat) (g : Group) : (s.setGroup k g).allow = s.allow := rfl
@[simp] theorem State.setGroup_peerSeq (k : Nat) (g : Group) : (s.setGroup k g).peerSeq = s.peerSeq := rfl
@[simp] theorem State.setGroup_peerSends (k : Nat) (g : Group) : (s.setGroup k g).peerSends = s.peerSends := rfl
@[simp] theorem State.setGroup_peerDone (k : Nat) (g : Group) : (s.setGroup k g).peerDone = s.peerDone := rfl
@[simp] theorem State.setGroup_peerOut (k : Nat) (g : Group) : (s.setGroup k g).peerOut = s.peerOut := rfl
@[simp] theorem State.setGroup_seq (k : Nat) (g : Group) : (s.setGroup k g).seq = s.seq := rfl
@[simp] theorem State.setGroup_resets (k : Nat) (g : Group) : (s.setGroup k g).resets = s.resets := rfl
@[simp] theorem State.setGroup_off (k : Nat) (g : Group) : (s.setGroup k g).off = s.off := rfl
@[simp] theorem State.setGroup_boot (k : Nat) (g : Group) : (s.setGroup k g).boot = s.boot := rfl
@[simp] theorem State.setGroup_spares (k : Nat) (g : Group) : (s.setGroup k g).spares = s.spares := rfl
@[simp] theorem State.setGroup_controls (k : Nat) (g : Group) : (s.setGroup k g).controls = s.controls := rfl
@[simp] theorem State.setGroup_inForce (k : Nat) (g : Group) : (s.setGroup k g).inForce = s.inForce := rfl
@[simp] theorem State.setGroup_firmwareAt (k : Nat) (g : Group) : (s.setGroup k g).firmwareAt = s.firmwareAt := rfl
@[simp] theorem State.setGroup_firmwareWrites (k : Nat) (g : Group) : (s.setGroup k g).firmwareWrites = s.firmwareWrites := rfl
@[simp] theorem State.setGroup_controlsWas (k : Nat) (g : Group) : (s.setGroup k g).controlsWas = s.controlsWas := rfl
@[simp] theorem State.setGroup_clamps (k : Nat) (g : Group) : (s.setGroup k g).clamps = s.clamps := rfl
@[simp] theorem State.setGroup_dmaDrops (k : Nat) (g : Group) : (s.setGroup k g).dmaDrops = s.dmaDrops := rfl
@[simp] theorem State.setGroup_clockStep (k : Nat) (g : Group) : (s.setGroup k g).clockStep = s.clockStep := rfl
@[simp] theorem State.setGroup_powerStep (k : Nat) (g : Group) : (s.setGroup k g).powerStep = s.powerStep := rfl
@[simp] theorem State.setGroup_coolant (k : Nat) (g : Group) : (s.setGroup k g).coolant = s.coolant := rfl
@[simp] theorem State.setGroup_dieCorrections (k : Nat) (g : Group) : (s.setGroup k g).dieCorrections = s.dieCorrections := rfl

@[simp] theorem State.setCore_turns (c : Nat) (x : Core) : (s.setCore c x).turns = s.turns := rfl
@[simp] theorem State.setCore_cur (c : Nat) (x : Core) : (s.setCore c x).cur = s.cur := rfl
@[simp] theorem State.setCore_fresh (c : Nat) (x : Core) : (s.setCore c x).fresh = s.fresh := rfl
@[simp] theorem State.setCore_free (c : Nat) (x : Core) : (s.setCore c x).free = s.free := rfl
@[simp] theorem State.setCore_clock (c : Nat) (x : Core) : (s.setCore c x).clock = s.clock := rfl
@[simp] theorem State.setCore_err (c : Nat) (x : Core) : (s.setCore c x).err = s.err := rfl
@[simp] theorem State.setCore_interlock (c : Nat) (x : Core) : (s.setCore c x).interlock = s.interlock := rfl
@[simp] theorem State.setCore_groups (c : Nat) (x : Core) : (s.setCore c x).groups = s.groups := rfl
@[simp] theorem State.setCore_chunks (c : Nat) (x : Core) : (s.setCore c x).chunks = s.chunks := rfl
@[simp] theorem State.setCore_cores (c : Nat) (x : Core) : (s.setCore c x).cores = s.cores.put c x := rfl
@[simp] theorem State.setCore_clusters (c : Nat) (x : Core) : (s.setCore c x).clusters = s.clusters := rfl
@[simp] theorem State.setCore_mem (c : Nat) (x : Core) : (s.setCore c x).mem = s.mem := rfl
@[simp] theorem State.setCore_poison (c : Nat) (x : Core) : (s.setCore c x).poison = s.poison := rfl
@[simp] theorem State.setCore_l2 (c : Nat) (x : Core) : (s.setCore c x).l2 = s.l2 := rfl
@[simp] theorem State.setCore_pins (c : Nat) (x : Core) : (s.setCore c x).pins = s.pins := rfl
@[simp] theorem State.setCore_served (c : Nat) (x : Core) : (s.setCore c x).served = s.served := rfl
@[simp] theorem State.setCore_reuse (c : Nat) (x : Core) : (s.setCore c x).reuse = s.reuse := rfl
@[simp] theorem State.setCore_contexts (c : Nat) (x : Core) : (s.setCore c x).contexts = s.contexts := rfl
@[simp] theorem State.setCore_grids (c : Nat) (x : Core) : (s.setCore c x).grids = s.grids := rfl
@[simp] theorem State.setCore_teams (c : Nat) (x : Core) : (s.setCore c x).teams = s.teams := rfl
@[simp] theorem State.setCore_gangs (c : Nat) (x : Core) : (s.setCore c x).gangs = s.gangs := rfl
@[simp] theorem State.setCore_queueTable (c : Nat) (x : Core) : (s.setCore c x).queueTable = s.queueTable := rfl
@[simp] theorem State.setCore_queueSeen (c : Nat) (x : Core) : (s.setCore c x).queueSeen = s.queueSeen := rfl
@[simp] theorem State.setCore_requests (c : Nat) (x : Core) : (s.setCore c x).requests = s.requests := rfl
@[simp] theorem State.setCore_cmds (c : Nat) (x : Core) : (s.setCore c x).cmds = s.cmds := rfl
@[simp] theorem State.setCore_rounds (c : Nat) (x : Core) : (s.setCore c x).rounds = s.rounds := rfl
@[simp] theorem State.setCore_messages (c : Nat) (x : Core) : (s.setCore c x).messages = s.messages := rfl
@[simp] theorem State.setCore_wakes (c : Nat) (x : Core) : (s.setCore c x).wakes = s.wakes := rfl
@[simp] theorem State.setCore_routers (c : Nat) (x : Core) : (s.setCore c x).routers = s.routers := rfl
@[simp] theorem State.setCore_windows (c : Nat) (x : Core) : (s.setCore c x).windows = s.windows := rfl
@[simp] theorem State.setCore_streams (c : Nat) (x : Core) : (s.setCore c x).streams = s.streams := rfl
@[simp] theorem State.setCore_hostOut (c : Nat) (x : Core) : (s.setCore c x).hostOut = s.hostOut := rfl
@[simp] theorem State.setCore_framesDropped (c : Nat) (x : Core) : (s.setCore c x).framesDropped = s.framesDropped := rfl
@[simp] theorem State.setCore_windowFails (c : Nat) (x : Core) : (s.setCore c x).windowFails = s.windowFails := rfl
@[simp] theorem State.setCore_hostWaits (c : Nat) (x : Core) : (s.setCore c x).hostWaits = s.hostWaits := rfl
@[simp] theorem State.setCore_ports (c : Nat) (x : Core) : (s.setCore c x).ports = s.ports := rfl
@[simp] theorem State.setCore_allow (c : Nat) (x : Core) : (s.setCore c x).allow = s.allow := rfl
@[simp] theorem State.setCore_peerSeq (c : Nat) (x : Core) : (s.setCore c x).peerSeq = s.peerSeq := rfl
@[simp] theorem State.setCore_peerSends (c : Nat) (x : Core) : (s.setCore c x).peerSends = s.peerSends := rfl
@[simp] theorem State.setCore_peerDone (c : Nat) (x : Core) : (s.setCore c x).peerDone = s.peerDone := rfl
@[simp] theorem State.setCore_peerOut (c : Nat) (x : Core) : (s.setCore c x).peerOut = s.peerOut := rfl
@[simp] theorem State.setCore_seq (c : Nat) (x : Core) : (s.setCore c x).seq = s.seq := rfl
@[simp] theorem State.setCore_resets (c : Nat) (x : Core) : (s.setCore c x).resets = s.resets := rfl
@[simp] theorem State.setCore_off (c : Nat) (x : Core) : (s.setCore c x).off = s.off := rfl
@[simp] theorem State.setCore_boot (c : Nat) (x : Core) : (s.setCore c x).boot = s.boot := rfl
@[simp] theorem State.setCore_spares (c : Nat) (x : Core) : (s.setCore c x).spares = s.spares := rfl
@[simp] theorem State.setCore_controls (c : Nat) (x : Core) : (s.setCore c x).controls = s.controls := rfl
@[simp] theorem State.setCore_inForce (c : Nat) (x : Core) : (s.setCore c x).inForce = s.inForce := rfl
@[simp] theorem State.setCore_firmwareAt (c : Nat) (x : Core) : (s.setCore c x).firmwareAt = s.firmwareAt := rfl
@[simp] theorem State.setCore_firmwareWrites (c : Nat) (x : Core) : (s.setCore c x).firmwareWrites = s.firmwareWrites := rfl
@[simp] theorem State.setCore_controlsWas (c : Nat) (x : Core) : (s.setCore c x).controlsWas = s.controlsWas := rfl
@[simp] theorem State.setCore_clamps (c : Nat) (x : Core) : (s.setCore c x).clamps = s.clamps := rfl
@[simp] theorem State.setCore_dmaDrops (c : Nat) (x : Core) : (s.setCore c x).dmaDrops = s.dmaDrops := rfl
@[simp] theorem State.setCore_clockStep (c : Nat) (x : Core) : (s.setCore c x).clockStep = s.clockStep := rfl
@[simp] theorem State.setCore_powerStep (c : Nat) (x : Core) : (s.setCore c x).powerStep = s.powerStep := rfl
@[simp] theorem State.setCore_coolant (c : Nat) (x : Core) : (s.setCore c x).coolant = s.coolant := rfl
@[simp] theorem State.setCore_dieCorrections (c : Nat) (x : Core) : (s.setCore c x).dieCorrections = s.dieCorrections := rfl

@[simp] theorem State.modCluster_turns (c : Nat) (f : Cluster → Cluster) : (s.modCluster c f).turns = s.turns := rfl
@[simp] theorem State.modCluster_cur (c : Nat) (f : Cluster → Cluster) : (s.modCluster c f).cur = s.cur := rfl
@[simp] theorem State.modCluster_fresh (c : Nat) (f : Cluster → Cluster) : (s.modCluster c f).fresh = s.fresh := rfl
@[simp] theorem State.modCluster_free (c : Nat) (f : Cluster → Cluster) : (s.modCluster c f).free = s.free := rfl
@[simp] theorem State.modCluster_clock (c : Nat) (f : Cluster → Cluster) : (s.modCluster c f).clock = s.clock := rfl
@[simp] theorem State.modCluster_err (c : Nat) (f : Cluster → Cluster) : (s.modCluster c f).err = s.err := rfl
@[simp] theorem State.modCluster_interlock (c : Nat) (f : Cluster → Cluster) : (s.modCluster c f).interlock = s.interlock := rfl
@[simp] theorem State.modCluster_groups (c : Nat) (f : Cluster → Cluster) : (s.modCluster c f).groups = s.groups := rfl
@[simp] theorem State.modCluster_chunks (c : Nat) (f : Cluster → Cluster) : (s.modCluster c f).chunks = s.chunks := rfl
@[simp] theorem State.modCluster_cores (c : Nat) (f : Cluster → Cluster) : (s.modCluster c f).cores = s.cores := rfl
@[simp] theorem State.modCluster_clusters (c : Nat) (f : Cluster → Cluster) : (s.modCluster c f).clusters = s.clusters.put c (f (s.cluster c)) := rfl
@[simp] theorem State.modCluster_mem (c : Nat) (f : Cluster → Cluster) : (s.modCluster c f).mem = s.mem := rfl
@[simp] theorem State.modCluster_poison (c : Nat) (f : Cluster → Cluster) : (s.modCluster c f).poison = s.poison := rfl
@[simp] theorem State.modCluster_l2 (c : Nat) (f : Cluster → Cluster) : (s.modCluster c f).l2 = s.l2 := rfl
@[simp] theorem State.modCluster_pins (c : Nat) (f : Cluster → Cluster) : (s.modCluster c f).pins = s.pins := rfl
@[simp] theorem State.modCluster_served (c : Nat) (f : Cluster → Cluster) : (s.modCluster c f).served = s.served := rfl
@[simp] theorem State.modCluster_reuse (c : Nat) (f : Cluster → Cluster) : (s.modCluster c f).reuse = s.reuse := rfl
@[simp] theorem State.modCluster_contexts (c : Nat) (f : Cluster → Cluster) : (s.modCluster c f).contexts = s.contexts := rfl
@[simp] theorem State.modCluster_grids (c : Nat) (f : Cluster → Cluster) : (s.modCluster c f).grids = s.grids := rfl
@[simp] theorem State.modCluster_teams (c : Nat) (f : Cluster → Cluster) : (s.modCluster c f).teams = s.teams := rfl
@[simp] theorem State.modCluster_gangs (c : Nat) (f : Cluster → Cluster) : (s.modCluster c f).gangs = s.gangs := rfl
@[simp] theorem State.modCluster_queueTable (c : Nat) (f : Cluster → Cluster) : (s.modCluster c f).queueTable = s.queueTable := rfl
@[simp] theorem State.modCluster_queueSeen (c : Nat) (f : Cluster → Cluster) : (s.modCluster c f).queueSeen = s.queueSeen := rfl
@[simp] theorem State.modCluster_requests (c : Nat) (f : Cluster → Cluster) : (s.modCluster c f).requests = s.requests := rfl
@[simp] theorem State.modCluster_cmds (c : Nat) (f : Cluster → Cluster) : (s.modCluster c f).cmds = s.cmds := rfl
@[simp] theorem State.modCluster_rounds (c : Nat) (f : Cluster → Cluster) : (s.modCluster c f).rounds = s.rounds := rfl
@[simp] theorem State.modCluster_messages (c : Nat) (f : Cluster → Cluster) : (s.modCluster c f).messages = s.messages := rfl
@[simp] theorem State.modCluster_wakes (c : Nat) (f : Cluster → Cluster) : (s.modCluster c f).wakes = s.wakes := rfl
@[simp] theorem State.modCluster_routers (c : Nat) (f : Cluster → Cluster) : (s.modCluster c f).routers = s.routers := rfl
@[simp] theorem State.modCluster_windows (c : Nat) (f : Cluster → Cluster) : (s.modCluster c f).windows = s.windows := rfl
@[simp] theorem State.modCluster_streams (c : Nat) (f : Cluster → Cluster) : (s.modCluster c f).streams = s.streams := rfl
@[simp] theorem State.modCluster_hostOut (c : Nat) (f : Cluster → Cluster) : (s.modCluster c f).hostOut = s.hostOut := rfl
@[simp] theorem State.modCluster_framesDropped (c : Nat) (f : Cluster → Cluster) : (s.modCluster c f).framesDropped = s.framesDropped := rfl
@[simp] theorem State.modCluster_windowFails (c : Nat) (f : Cluster → Cluster) : (s.modCluster c f).windowFails = s.windowFails := rfl
@[simp] theorem State.modCluster_hostWaits (c : Nat) (f : Cluster → Cluster) : (s.modCluster c f).hostWaits = s.hostWaits := rfl
@[simp] theorem State.modCluster_ports (c : Nat) (f : Cluster → Cluster) : (s.modCluster c f).ports = s.ports := rfl
@[simp] theorem State.modCluster_allow (c : Nat) (f : Cluster → Cluster) : (s.modCluster c f).allow = s.allow := rfl
@[simp] theorem State.modCluster_peerSeq (c : Nat) (f : Cluster → Cluster) : (s.modCluster c f).peerSeq = s.peerSeq := rfl
@[simp] theorem State.modCluster_peerSends (c : Nat) (f : Cluster → Cluster) : (s.modCluster c f).peerSends = s.peerSends := rfl
@[simp] theorem State.modCluster_peerDone (c : Nat) (f : Cluster → Cluster) : (s.modCluster c f).peerDone = s.peerDone := rfl
@[simp] theorem State.modCluster_peerOut (c : Nat) (f : Cluster → Cluster) : (s.modCluster c f).peerOut = s.peerOut := rfl
@[simp] theorem State.modCluster_seq (c : Nat) (f : Cluster → Cluster) : (s.modCluster c f).seq = s.seq := rfl
@[simp] theorem State.modCluster_resets (c : Nat) (f : Cluster → Cluster) : (s.modCluster c f).resets = s.resets := rfl
@[simp] theorem State.modCluster_off (c : Nat) (f : Cluster → Cluster) : (s.modCluster c f).off = s.off := rfl
@[simp] theorem State.modCluster_boot (c : Nat) (f : Cluster → Cluster) : (s.modCluster c f).boot = s.boot := rfl
@[simp] theorem State.modCluster_spares (c : Nat) (f : Cluster → Cluster) : (s.modCluster c f).spares = s.spares := rfl
@[simp] theorem State.modCluster_controls (c : Nat) (f : Cluster → Cluster) : (s.modCluster c f).controls = s.controls := rfl
@[simp] theorem State.modCluster_inForce (c : Nat) (f : Cluster → Cluster) : (s.modCluster c f).inForce = s.inForce := rfl
@[simp] theorem State.modCluster_firmwareAt (c : Nat) (f : Cluster → Cluster) : (s.modCluster c f).firmwareAt = s.firmwareAt := rfl
@[simp] theorem State.modCluster_firmwareWrites (c : Nat) (f : Cluster → Cluster) : (s.modCluster c f).firmwareWrites = s.firmwareWrites := rfl
@[simp] theorem State.modCluster_controlsWas (c : Nat) (f : Cluster → Cluster) : (s.modCluster c f).controlsWas = s.controlsWas := rfl
@[simp] theorem State.modCluster_clamps (c : Nat) (f : Cluster → Cluster) : (s.modCluster c f).clamps = s.clamps := rfl
@[simp] theorem State.modCluster_dmaDrops (c : Nat) (f : Cluster → Cluster) : (s.modCluster c f).dmaDrops = s.dmaDrops := rfl
@[simp] theorem State.modCluster_clockStep (c : Nat) (f : Cluster → Cluster) : (s.modCluster c f).clockStep = s.clockStep := rfl
@[simp] theorem State.modCluster_powerStep (c : Nat) (f : Cluster → Cluster) : (s.modCluster c f).powerStep = s.powerStep := rfl
@[simp] theorem State.modCluster_coolant (c : Nat) (f : Cluster → Cluster) : (s.modCluster c f).coolant = s.coolant := rfl
@[simp] theorem State.modCluster_dieCorrections (c : Nat) (f : Cluster → Cluster) : (s.modCluster c f).dieCorrections = s.dieCorrections := rfl

@[simp] theorem State.modCtx_turns (c : Nat) (f : Context → Context) : (s.modCtx c f).turns = s.turns := rfl
@[simp] theorem State.modCtx_cur (c : Nat) (f : Context → Context) : (s.modCtx c f).cur = s.cur := rfl
@[simp] theorem State.modCtx_fresh (c : Nat) (f : Context → Context) : (s.modCtx c f).fresh = s.fresh := rfl
@[simp] theorem State.modCtx_free (c : Nat) (f : Context → Context) : (s.modCtx c f).free = s.free := rfl
@[simp] theorem State.modCtx_clock (c : Nat) (f : Context → Context) : (s.modCtx c f).clock = s.clock := rfl
@[simp] theorem State.modCtx_err (c : Nat) (f : Context → Context) : (s.modCtx c f).err = s.err := rfl
@[simp] theorem State.modCtx_interlock (c : Nat) (f : Context → Context) : (s.modCtx c f).interlock = s.interlock := rfl
@[simp] theorem State.modCtx_groups (c : Nat) (f : Context → Context) : (s.modCtx c f).groups = s.groups := rfl
@[simp] theorem State.modCtx_chunks (c : Nat) (f : Context → Context) : (s.modCtx c f).chunks = s.chunks := rfl
@[simp] theorem State.modCtx_cores (c : Nat) (f : Context → Context) : (s.modCtx c f).cores = s.cores := rfl
@[simp] theorem State.modCtx_clusters (c : Nat) (f : Context → Context) : (s.modCtx c f).clusters = s.clusters := rfl
@[simp] theorem State.modCtx_mem (c : Nat) (f : Context → Context) : (s.modCtx c f).mem = s.mem := rfl
@[simp] theorem State.modCtx_poison (c : Nat) (f : Context → Context) : (s.modCtx c f).poison = s.poison := rfl
@[simp] theorem State.modCtx_l2 (c : Nat) (f : Context → Context) : (s.modCtx c f).l2 = s.l2 := rfl
@[simp] theorem State.modCtx_pins (c : Nat) (f : Context → Context) : (s.modCtx c f).pins = s.pins := rfl
@[simp] theorem State.modCtx_served (c : Nat) (f : Context → Context) : (s.modCtx c f).served = s.served := rfl
@[simp] theorem State.modCtx_reuse (c : Nat) (f : Context → Context) : (s.modCtx c f).reuse = s.reuse := rfl
@[simp] theorem State.modCtx_contexts (c : Nat) (f : Context → Context) : (s.modCtx c f).contexts = s.contexts.modify c f := rfl
@[simp] theorem State.modCtx_grids (c : Nat) (f : Context → Context) : (s.modCtx c f).grids = s.grids := rfl
@[simp] theorem State.modCtx_teams (c : Nat) (f : Context → Context) : (s.modCtx c f).teams = s.teams := rfl
@[simp] theorem State.modCtx_gangs (c : Nat) (f : Context → Context) : (s.modCtx c f).gangs = s.gangs := rfl
@[simp] theorem State.modCtx_queueTable (c : Nat) (f : Context → Context) : (s.modCtx c f).queueTable = s.queueTable := rfl
@[simp] theorem State.modCtx_queueSeen (c : Nat) (f : Context → Context) : (s.modCtx c f).queueSeen = s.queueSeen := rfl
@[simp] theorem State.modCtx_requests (c : Nat) (f : Context → Context) : (s.modCtx c f).requests = s.requests := rfl
@[simp] theorem State.modCtx_cmds (c : Nat) (f : Context → Context) : (s.modCtx c f).cmds = s.cmds := rfl
@[simp] theorem State.modCtx_rounds (c : Nat) (f : Context → Context) : (s.modCtx c f).rounds = s.rounds := rfl
@[simp] theorem State.modCtx_messages (c : Nat) (f : Context → Context) : (s.modCtx c f).messages = s.messages := rfl
@[simp] theorem State.modCtx_wakes (c : Nat) (f : Context → Context) : (s.modCtx c f).wakes = s.wakes := rfl
@[simp] theorem State.modCtx_routers (c : Nat) (f : Context → Context) : (s.modCtx c f).routers = s.routers := rfl
@[simp] theorem State.modCtx_windows (c : Nat) (f : Context → Context) : (s.modCtx c f).windows = s.windows := rfl
@[simp] theorem State.modCtx_streams (c : Nat) (f : Context → Context) : (s.modCtx c f).streams = s.streams := rfl
@[simp] theorem State.modCtx_hostOut (c : Nat) (f : Context → Context) : (s.modCtx c f).hostOut = s.hostOut := rfl
@[simp] theorem State.modCtx_framesDropped (c : Nat) (f : Context → Context) : (s.modCtx c f).framesDropped = s.framesDropped := rfl
@[simp] theorem State.modCtx_windowFails (c : Nat) (f : Context → Context) : (s.modCtx c f).windowFails = s.windowFails := rfl
@[simp] theorem State.modCtx_hostWaits (c : Nat) (f : Context → Context) : (s.modCtx c f).hostWaits = s.hostWaits := rfl
@[simp] theorem State.modCtx_ports (c : Nat) (f : Context → Context) : (s.modCtx c f).ports = s.ports := rfl
@[simp] theorem State.modCtx_allow (c : Nat) (f : Context → Context) : (s.modCtx c f).allow = s.allow := rfl
@[simp] theorem State.modCtx_peerSeq (c : Nat) (f : Context → Context) : (s.modCtx c f).peerSeq = s.peerSeq := rfl
@[simp] theorem State.modCtx_peerSends (c : Nat) (f : Context → Context) : (s.modCtx c f).peerSends = s.peerSends := rfl
@[simp] theorem State.modCtx_peerDone (c : Nat) (f : Context → Context) : (s.modCtx c f).peerDone = s.peerDone := rfl
@[simp] theorem State.modCtx_peerOut (c : Nat) (f : Context → Context) : (s.modCtx c f).peerOut = s.peerOut := rfl
@[simp] theorem State.modCtx_seq (c : Nat) (f : Context → Context) : (s.modCtx c f).seq = s.seq := rfl
@[simp] theorem State.modCtx_resets (c : Nat) (f : Context → Context) : (s.modCtx c f).resets = s.resets := rfl
@[simp] theorem State.modCtx_off (c : Nat) (f : Context → Context) : (s.modCtx c f).off = s.off := rfl
@[simp] theorem State.modCtx_boot (c : Nat) (f : Context → Context) : (s.modCtx c f).boot = s.boot := rfl
@[simp] theorem State.modCtx_spares (c : Nat) (f : Context → Context) : (s.modCtx c f).spares = s.spares := rfl
@[simp] theorem State.modCtx_controls (c : Nat) (f : Context → Context) : (s.modCtx c f).controls = s.controls := rfl
@[simp] theorem State.modCtx_inForce (c : Nat) (f : Context → Context) : (s.modCtx c f).inForce = s.inForce := rfl
@[simp] theorem State.modCtx_firmwareAt (c : Nat) (f : Context → Context) : (s.modCtx c f).firmwareAt = s.firmwareAt := rfl
@[simp] theorem State.modCtx_firmwareWrites (c : Nat) (f : Context → Context) : (s.modCtx c f).firmwareWrites = s.firmwareWrites := rfl
@[simp] theorem State.modCtx_controlsWas (c : Nat) (f : Context → Context) : (s.modCtx c f).controlsWas = s.controlsWas := rfl
@[simp] theorem State.modCtx_clamps (c : Nat) (f : Context → Context) : (s.modCtx c f).clamps = s.clamps := rfl
@[simp] theorem State.modCtx_dmaDrops (c : Nat) (f : Context → Context) : (s.modCtx c f).dmaDrops = s.dmaDrops := rfl
@[simp] theorem State.modCtx_clockStep (c : Nat) (f : Context → Context) : (s.modCtx c f).clockStep = s.clockStep := rfl
@[simp] theorem State.modCtx_powerStep (c : Nat) (f : Context → Context) : (s.modCtx c f).powerStep = s.powerStep := rfl
@[simp] theorem State.modCtx_coolant (c : Nat) (f : Context → Context) : (s.modCtx c f).coolant = s.coolant := rfl
@[simp] theorem State.modCtx_dieCorrections (c : Nat) (f : Context → Context) : (s.modCtx c f).dieCorrections = s.dieCorrections := rfl

@[simp] theorem State.bump_turns : (s.bump).turns = s.turns := rfl
@[simp] theorem State.bump_cur : (s.bump).cur = s.cur := rfl
@[simp] theorem State.bump_fresh : (s.bump).fresh = s.fresh + 1 := rfl
@[simp] theorem State.bump_free : (s.bump).free = s.free := rfl
@[simp] theorem State.bump_clock : (s.bump).clock = s.clock := rfl
@[simp] theorem State.bump_err : (s.bump).err = s.err := rfl
@[simp] theorem State.bump_interlock : (s.bump).interlock = s.interlock := rfl
@[simp] theorem State.bump_groups : (s.bump).groups = s.groups := rfl
@[simp] theorem State.bump_chunks : (s.bump).chunks = s.chunks := rfl
@[simp] theorem State.bump_cores : (s.bump).cores = s.cores := rfl
@[simp] theorem State.bump_clusters : (s.bump).clusters = s.clusters := rfl
@[simp] theorem State.bump_mem : (s.bump).mem = s.mem := rfl
@[simp] theorem State.bump_poison : (s.bump).poison = s.poison := rfl
@[simp] theorem State.bump_l2 : (s.bump).l2 = s.l2 := rfl
@[simp] theorem State.bump_pins : (s.bump).pins = s.pins := rfl
@[simp] theorem State.bump_served : (s.bump).served = s.served := rfl
@[simp] theorem State.bump_reuse : (s.bump).reuse = s.reuse := rfl
@[simp] theorem State.bump_contexts : (s.bump).contexts = s.contexts := rfl
@[simp] theorem State.bump_grids : (s.bump).grids = s.grids := rfl
@[simp] theorem State.bump_teams : (s.bump).teams = s.teams := rfl
@[simp] theorem State.bump_gangs : (s.bump).gangs = s.gangs := rfl
@[simp] theorem State.bump_queueTable : (s.bump).queueTable = s.queueTable := rfl
@[simp] theorem State.bump_queueSeen : (s.bump).queueSeen = s.queueSeen := rfl
@[simp] theorem State.bump_requests : (s.bump).requests = s.requests := rfl
@[simp] theorem State.bump_cmds : (s.bump).cmds = s.cmds := rfl
@[simp] theorem State.bump_rounds : (s.bump).rounds = s.rounds := rfl
@[simp] theorem State.bump_messages : (s.bump).messages = s.messages := rfl
@[simp] theorem State.bump_wakes : (s.bump).wakes = s.wakes := rfl
@[simp] theorem State.bump_routers : (s.bump).routers = s.routers := rfl
@[simp] theorem State.bump_windows : (s.bump).windows = s.windows := rfl
@[simp] theorem State.bump_streams : (s.bump).streams = s.streams := rfl
@[simp] theorem State.bump_hostOut : (s.bump).hostOut = s.hostOut := rfl
@[simp] theorem State.bump_framesDropped : (s.bump).framesDropped = s.framesDropped := rfl
@[simp] theorem State.bump_windowFails : (s.bump).windowFails = s.windowFails := rfl
@[simp] theorem State.bump_hostWaits : (s.bump).hostWaits = s.hostWaits := rfl
@[simp] theorem State.bump_ports : (s.bump).ports = s.ports := rfl
@[simp] theorem State.bump_allow : (s.bump).allow = s.allow := rfl
@[simp] theorem State.bump_peerSeq : (s.bump).peerSeq = s.peerSeq := rfl
@[simp] theorem State.bump_peerSends : (s.bump).peerSends = s.peerSends := rfl
@[simp] theorem State.bump_peerDone : (s.bump).peerDone = s.peerDone := rfl
@[simp] theorem State.bump_peerOut : (s.bump).peerOut = s.peerOut := rfl
@[simp] theorem State.bump_seq : (s.bump).seq = s.seq := rfl
@[simp] theorem State.bump_resets : (s.bump).resets = s.resets := rfl
@[simp] theorem State.bump_off : (s.bump).off = s.off := rfl
@[simp] theorem State.bump_boot : (s.bump).boot = s.boot := rfl
@[simp] theorem State.bump_spares : (s.bump).spares = s.spares := rfl
@[simp] theorem State.bump_controls : (s.bump).controls = s.controls := rfl
@[simp] theorem State.bump_inForce : (s.bump).inForce = s.inForce := rfl
@[simp] theorem State.bump_firmwareAt : (s.bump).firmwareAt = s.firmwareAt := rfl
@[simp] theorem State.bump_firmwareWrites : (s.bump).firmwareWrites = s.firmwareWrites := rfl
@[simp] theorem State.bump_controlsWas : (s.bump).controlsWas = s.controlsWas := rfl
@[simp] theorem State.bump_clamps : (s.bump).clamps = s.clamps := rfl
@[simp] theorem State.bump_dmaDrops : (s.bump).dmaDrops = s.dmaDrops := rfl
@[simp] theorem State.bump_clockStep : (s.bump).clockStep = s.clockStep := rfl
@[simp] theorem State.bump_powerStep : (s.bump).powerStep = s.powerStep := rfl
@[simp] theorem State.bump_coolant : (s.bump).coolant = s.coolant := rfl
@[simp] theorem State.bump_dieCorrections : (s.bump).dieCorrections = s.dieCorrections := rfl

@[simp] theorem State.onRouters_turns (rs : List Nat) (f : Router → Router) : (s.onRouters rs f).turns = s.turns := rfl
@[simp] theorem State.onRouters_cur (rs : List Nat) (f : Router → Router) : (s.onRouters rs f).cur = s.cur := rfl
@[simp] theorem State.onRouters_fresh (rs : List Nat) (f : Router → Router) : (s.onRouters rs f).fresh = s.fresh := rfl
@[simp] theorem State.onRouters_free (rs : List Nat) (f : Router → Router) : (s.onRouters rs f).free = s.free := rfl
@[simp] theorem State.onRouters_clock (rs : List Nat) (f : Router → Router) : (s.onRouters rs f).clock = s.clock := rfl
@[simp] theorem State.onRouters_err (rs : List Nat) (f : Router → Router) : (s.onRouters rs f).err = s.err := rfl
@[simp] theorem State.onRouters_interlock (rs : List Nat) (f : Router → Router) : (s.onRouters rs f).interlock = s.interlock := rfl
@[simp] theorem State.onRouters_groups (rs : List Nat) (f : Router → Router) : (s.onRouters rs f).groups = s.groups := rfl
@[simp] theorem State.onRouters_chunks (rs : List Nat) (f : Router → Router) : (s.onRouters rs f).chunks = s.chunks := rfl
@[simp] theorem State.onRouters_cores (rs : List Nat) (f : Router → Router) : (s.onRouters rs f).cores = s.cores := rfl
@[simp] theorem State.onRouters_clusters (rs : List Nat) (f : Router → Router) : (s.onRouters rs f).clusters = s.clusters := rfl
@[simp] theorem State.onRouters_mem (rs : List Nat) (f : Router → Router) : (s.onRouters rs f).mem = s.mem := rfl
@[simp] theorem State.onRouters_poison (rs : List Nat) (f : Router → Router) : (s.onRouters rs f).poison = s.poison := rfl
@[simp] theorem State.onRouters_l2 (rs : List Nat) (f : Router → Router) : (s.onRouters rs f).l2 = s.l2 := rfl
@[simp] theorem State.onRouters_pins (rs : List Nat) (f : Router → Router) : (s.onRouters rs f).pins = s.pins := rfl
@[simp] theorem State.onRouters_served (rs : List Nat) (f : Router → Router) : (s.onRouters rs f).served = s.served := rfl
@[simp] theorem State.onRouters_reuse (rs : List Nat) (f : Router → Router) : (s.onRouters rs f).reuse = s.reuse := rfl
@[simp] theorem State.onRouters_contexts (rs : List Nat) (f : Router → Router) : (s.onRouters rs f).contexts = s.contexts := rfl
@[simp] theorem State.onRouters_grids (rs : List Nat) (f : Router → Router) : (s.onRouters rs f).grids = s.grids := rfl
@[simp] theorem State.onRouters_teams (rs : List Nat) (f : Router → Router) : (s.onRouters rs f).teams = s.teams := rfl
@[simp] theorem State.onRouters_gangs (rs : List Nat) (f : Router → Router) : (s.onRouters rs f).gangs = s.gangs := rfl
@[simp] theorem State.onRouters_queueTable (rs : List Nat) (f : Router → Router) : (s.onRouters rs f).queueTable = s.queueTable := rfl
@[simp] theorem State.onRouters_queueSeen (rs : List Nat) (f : Router → Router) : (s.onRouters rs f).queueSeen = s.queueSeen := rfl
@[simp] theorem State.onRouters_requests (rs : List Nat) (f : Router → Router) : (s.onRouters rs f).requests = s.requests := rfl
@[simp] theorem State.onRouters_cmds (rs : List Nat) (f : Router → Router) : (s.onRouters rs f).cmds = s.cmds := rfl
@[simp] theorem State.onRouters_rounds (rs : List Nat) (f : Router → Router) : (s.onRouters rs f).rounds = s.rounds := rfl
@[simp] theorem State.onRouters_messages (rs : List Nat) (f : Router → Router) : (s.onRouters rs f).messages = s.messages := rfl
@[simp] theorem State.onRouters_wakes (rs : List Nat) (f : Router → Router) : (s.onRouters rs f).wakes = s.wakes := rfl
@[simp] theorem State.onRouters_routers (rs : List Nat) (f : Router → Router) : (s.onRouters rs f).routers = rs.foldl (fun m r => if r < 24 then m.put r (f (m.get {} r)) else m) s.routers := rfl
@[simp] theorem State.onRouters_windows (rs : List Nat) (f : Router → Router) : (s.onRouters rs f).windows = s.windows := rfl
@[simp] theorem State.onRouters_streams (rs : List Nat) (f : Router → Router) : (s.onRouters rs f).streams = s.streams := rfl
@[simp] theorem State.onRouters_hostOut (rs : List Nat) (f : Router → Router) : (s.onRouters rs f).hostOut = s.hostOut := rfl
@[simp] theorem State.onRouters_framesDropped (rs : List Nat) (f : Router → Router) : (s.onRouters rs f).framesDropped = s.framesDropped := rfl
@[simp] theorem State.onRouters_windowFails (rs : List Nat) (f : Router → Router) : (s.onRouters rs f).windowFails = s.windowFails := rfl
@[simp] theorem State.onRouters_hostWaits (rs : List Nat) (f : Router → Router) : (s.onRouters rs f).hostWaits = s.hostWaits := rfl
@[simp] theorem State.onRouters_ports (rs : List Nat) (f : Router → Router) : (s.onRouters rs f).ports = s.ports := rfl
@[simp] theorem State.onRouters_allow (rs : List Nat) (f : Router → Router) : (s.onRouters rs f).allow = s.allow := rfl
@[simp] theorem State.onRouters_peerSeq (rs : List Nat) (f : Router → Router) : (s.onRouters rs f).peerSeq = s.peerSeq := rfl
@[simp] theorem State.onRouters_peerSends (rs : List Nat) (f : Router → Router) : (s.onRouters rs f).peerSends = s.peerSends := rfl
@[simp] theorem State.onRouters_peerDone (rs : List Nat) (f : Router → Router) : (s.onRouters rs f).peerDone = s.peerDone := rfl
@[simp] theorem State.onRouters_peerOut (rs : List Nat) (f : Router → Router) : (s.onRouters rs f).peerOut = s.peerOut := rfl
@[simp] theorem State.onRouters_seq (rs : List Nat) (f : Router → Router) : (s.onRouters rs f).seq = s.seq := rfl
@[simp] theorem State.onRouters_resets (rs : List Nat) (f : Router → Router) : (s.onRouters rs f).resets = s.resets := rfl
@[simp] theorem State.onRouters_off (rs : List Nat) (f : Router → Router) : (s.onRouters rs f).off = s.off := rfl
@[simp] theorem State.onRouters_boot (rs : List Nat) (f : Router → Router) : (s.onRouters rs f).boot = s.boot := rfl
@[simp] theorem State.onRouters_spares (rs : List Nat) (f : Router → Router) : (s.onRouters rs f).spares = s.spares := rfl
@[simp] theorem State.onRouters_controls (rs : List Nat) (f : Router → Router) : (s.onRouters rs f).controls = s.controls := rfl
@[simp] theorem State.onRouters_inForce (rs : List Nat) (f : Router → Router) : (s.onRouters rs f).inForce = s.inForce := rfl
@[simp] theorem State.onRouters_firmwareAt (rs : List Nat) (f : Router → Router) : (s.onRouters rs f).firmwareAt = s.firmwareAt := rfl
@[simp] theorem State.onRouters_firmwareWrites (rs : List Nat) (f : Router → Router) : (s.onRouters rs f).firmwareWrites = s.firmwareWrites := rfl
@[simp] theorem State.onRouters_controlsWas (rs : List Nat) (f : Router → Router) : (s.onRouters rs f).controlsWas = s.controlsWas := rfl
@[simp] theorem State.onRouters_clamps (rs : List Nat) (f : Router → Router) : (s.onRouters rs f).clamps = s.clamps := rfl
@[simp] theorem State.onRouters_dmaDrops (rs : List Nat) (f : Router → Router) : (s.onRouters rs f).dmaDrops = s.dmaDrops := rfl
@[simp] theorem State.onRouters_clockStep (rs : List Nat) (f : Router → Router) : (s.onRouters rs f).clockStep = s.clockStep := rfl
@[simp] theorem State.onRouters_powerStep (rs : List Nat) (f : Router → Router) : (s.onRouters rs f).powerStep = s.powerStep := rfl
@[simp] theorem State.onRouters_coolant (rs : List Nat) (f : Router → Router) : (s.onRouters rs f).coolant = s.coolant := rfl
@[simp] theorem State.onRouters_dieCorrections (rs : List Nat) (f : Router → Router) : (s.onRouters rs f).dieCorrections = s.dieCorrections := rfl

/-! ### The derived updates -/

theorem State.setG_eq (g : Group) : s.setG g = s.setGroup s.cur g := rfl

@[simp] theorem State.modGroup_eq (k : Nat) (f : Group → Group) : s.modGroup k f = s.setGroup k (f (s.group k)) := rfl

@[simp] theorem State.modCore_eq (c : Nat) (f : Core → Core) : s.modCore c f = s.setCore c (f (s.core c)) := rfl

@[simp] theorem State.flit_eq (rs : List Nat) : s.flit rs = s.onRouters rs fun x => x.pass s.downWindow s.clock := rfl

theorem State.g_eq : s.g = s.group s.cur := rfl

@[simp] theorem State.g_setG (g : Group) : (s.setG g).g = g := AMap.get_put_self _ _ _ _

@[simp] theorem State.group_setG_cur (g : Group) : (s.setG g).group s.cur = g := AMap.get_put_self _ _ _ _

@[simp] theorem State.group_setG_ne (k : Nat) (g : Group) (h : k ≠ s.cur) : (s.setG g).group k = s.group k :=
  AMap.get_put_ne _ _ _ _ _ h

@[simp] theorem State.g_bump : s.bump.g = s.g := rfl
@[simp] theorem State.g_modCtx (c : Nat) (f : Context → Context) : (s.modCtx c f).g = s.g := rfl
@[simp] theorem State.g_setCore (c : Nat) (x : Core) : (s.setCore c x).g = s.g := rfl
@[simp] theorem State.core_setG (c : Nat) (g : Group) : (s.setG g).core c = s.core c := rfl
@[simp] theorem State.context_setG (c : Nat) (g : Group) : (s.setG g).context c = s.context c := rfl
@[simp] theorem State.byte_setG (a : Nat) (g : Group) : (s.setG g).byte a = s.byte a := rfl

/-! ### Reading a part after writing it -/

@[simp] theorem State.group_setGroup_self (k : Nat) (g : Group) : (s.setGroup k g).group k = g :=
  AMap.get_put_self _ _ _ _

@[simp] theorem State.group_setGroup_ne (k j : Nat) (g : Group) (h : j ≠ k) :
    (s.setGroup k g).group j = s.group j := AMap.get_put_ne _ _ _ _ _ h

@[simp] theorem State.core_setCore_self (c : Nat) (x : Core) : (s.setCore c x).core c = x :=
  AMap.get_put_self _ _ _ _

@[simp] theorem State.core_setCore_ne (c d : Nat) (x : Core) (h : d ≠ c) :
    (s.setCore c x).core d = s.core d := AMap.get_put_ne _ _ _ _ _ h

/-- The last of two writes to a slot stands. -/
@[simp] theorem State.setGroup_setGroup (k : Nat) (g h : Group) :
    (s.setGroup k g).setGroup k h = s.setGroup k h := by
  simp [State.setGroup]

@[simp] theorem State.setG_setG (g h : Group) : (s.setG g).setG h = s.setG h := by
  simp [State.setG]

@[simp] theorem State.group_setCore (c k : Nat) (x : Core) : (s.setCore c x).group k = s.group k := rfl
@[simp] theorem State.group_modCtx (c k : Nat) (f : Context → Context) : (s.modCtx c f).group k = s.group k := rfl
@[simp] theorem State.group_modCluster (c k : Nat) (f : Cluster → Cluster) :
    (s.modCluster c f).group k = s.group k := rfl
@[simp] theorem State.group_bump (k : Nat) : s.bump.group k = s.group k := rfl
@[simp] theorem State.core_setGroup (c k : Nat) (g : Group) : (s.setGroup k g).core c = s.core c := rfl
@[simp] theorem State.core_modCtx (c d : Nat) (f : Context → Context) : (s.modCtx c f).core d = s.core d := rfl
@[simp] theorem State.core_bump (c : Nat) : s.bump.core c = s.core c := rfl
@[simp] theorem State.context_setGroup (c k : Nat) (g : Group) : (s.setGroup k g).context c = s.context c := rfl
@[simp] theorem State.context_setCore (c d : Nat) (x : Core) : (s.setCore d x).context c = s.context c := rfl
@[simp] theorem State.context_bump (c : Nat) : s.bump.context c = s.context c := rfl
@[simp] theorem State.byte_setGroup (a k : Nat) (g : Group) : (s.setGroup k g).byte a = s.byte a := rfl
@[simp] theorem State.byte_setCore (a c : Nat) (x : Core) : (s.setCore c x).byte a = s.byte a := rfl
@[simp] theorem State.byte_modCtx (a c : Nat) (f : Context → Context) : (s.modCtx c f).byte a = s.byte a := rfl
@[simp] theorem State.byte_bump (a : Nat) : s.bump.byte a = s.byte a := rfl

/-- A live context after it is changed. -/
theorem State.context_modCtx (c d : Nat) (f : Context → Context) :
    (s.modCtx c f).context d =
      if d = c then ((AMap.find? s.contexts c).map f).getD {} else s.context d := by
  unfold State.context State.modCtx
  simp only [AMap.get_eq_find?, AMap.find?_modify]
  split
  · rename_i h; subst h; rfl
  · rfl

/-! ### Harvest counters change contexts alone -/

@[simp] theorem State.harvest_turns (c i n : Nat) : (s.harvest c i n).turns = s.turns := rfl
@[simp] theorem State.harvest_cur (c i n : Nat) : (s.harvest c i n).cur = s.cur := rfl
@[simp] theorem State.harvest_fresh (c i n : Nat) : (s.harvest c i n).fresh = s.fresh := rfl
@[simp] theorem State.harvest_free (c i n : Nat) : (s.harvest c i n).free = s.free := rfl
@[simp] theorem State.harvest_clock (c i n : Nat) : (s.harvest c i n).clock = s.clock := rfl
@[simp] theorem State.harvest_err (c i n : Nat) : (s.harvest c i n).err = s.err := rfl
@[simp] theorem State.harvest_interlock (c i n : Nat) : (s.harvest c i n).interlock = s.interlock := rfl
@[simp] theorem State.harvest_groups (c i n : Nat) : (s.harvest c i n).groups = s.groups := rfl
@[simp] theorem State.harvest_chunks (c i n : Nat) : (s.harvest c i n).chunks = s.chunks := rfl
@[simp] theorem State.harvest_cores (c i n : Nat) : (s.harvest c i n).cores = s.cores := rfl
@[simp] theorem State.harvest_clusters (c i n : Nat) : (s.harvest c i n).clusters = s.clusters := rfl
@[simp] theorem State.harvest_mem (c i n : Nat) : (s.harvest c i n).mem = s.mem := rfl
@[simp] theorem State.harvest_poison (c i n : Nat) : (s.harvest c i n).poison = s.poison := rfl
@[simp] theorem State.harvest_l2 (c i n : Nat) : (s.harvest c i n).l2 = s.l2 := rfl
@[simp] theorem State.harvest_pins (c i n : Nat) : (s.harvest c i n).pins = s.pins := rfl
@[simp] theorem State.harvest_served (c i n : Nat) : (s.harvest c i n).served = s.served := rfl
@[simp] theorem State.harvest_reuse (c i n : Nat) : (s.harvest c i n).reuse = s.reuse := rfl
@[simp] theorem State.harvest_grids (c i n : Nat) : (s.harvest c i n).grids = s.grids := rfl
@[simp] theorem State.harvest_teams (c i n : Nat) : (s.harvest c i n).teams = s.teams := rfl
@[simp] theorem State.harvest_gangs (c i n : Nat) : (s.harvest c i n).gangs = s.gangs := rfl
@[simp] theorem State.harvest_queueTable (c i n : Nat) : (s.harvest c i n).queueTable = s.queueTable := rfl
@[simp] theorem State.harvest_queueSeen (c i n : Nat) : (s.harvest c i n).queueSeen = s.queueSeen := rfl
@[simp] theorem State.harvest_requests (c i n : Nat) : (s.harvest c i n).requests = s.requests := rfl
@[simp] theorem State.harvest_cmds (c i n : Nat) : (s.harvest c i n).cmds = s.cmds := rfl
@[simp] theorem State.harvest_rounds (c i n : Nat) : (s.harvest c i n).rounds = s.rounds := rfl
@[simp] theorem State.harvest_messages (c i n : Nat) : (s.harvest c i n).messages = s.messages := rfl
@[simp] theorem State.harvest_wakes (c i n : Nat) : (s.harvest c i n).wakes = s.wakes := rfl
@[simp] theorem State.harvest_routers (c i n : Nat) : (s.harvest c i n).routers = s.routers := rfl
@[simp] theorem State.harvest_windows (c i n : Nat) : (s.harvest c i n).windows = s.windows := rfl
@[simp] theorem State.harvest_streams (c i n : Nat) : (s.harvest c i n).streams = s.streams := rfl
@[simp] theorem State.harvest_hostOut (c i n : Nat) : (s.harvest c i n).hostOut = s.hostOut := rfl
@[simp] theorem State.harvest_framesDropped (c i n : Nat) : (s.harvest c i n).framesDropped = s.framesDropped := rfl
@[simp] theorem State.harvest_windowFails (c i n : Nat) : (s.harvest c i n).windowFails = s.windowFails := rfl
@[simp] theorem State.harvest_hostWaits (c i n : Nat) : (s.harvest c i n).hostWaits = s.hostWaits := rfl
@[simp] theorem State.harvest_ports (c i n : Nat) : (s.harvest c i n).ports = s.ports := rfl
@[simp] theorem State.harvest_allow (c i n : Nat) : (s.harvest c i n).allow = s.allow := rfl
@[simp] theorem State.harvest_peerSeq (c i n : Nat) : (s.harvest c i n).peerSeq = s.peerSeq := rfl
@[simp] theorem State.harvest_peerSends (c i n : Nat) : (s.harvest c i n).peerSends = s.peerSends := rfl
@[simp] theorem State.harvest_peerDone (c i n : Nat) : (s.harvest c i n).peerDone = s.peerDone := rfl
@[simp] theorem State.harvest_peerOut (c i n : Nat) : (s.harvest c i n).peerOut = s.peerOut := rfl
@[simp] theorem State.harvest_seq (c i n : Nat) : (s.harvest c i n).seq = s.seq := rfl
@[simp] theorem State.harvest_resets (c i n : Nat) : (s.harvest c i n).resets = s.resets := rfl
@[simp] theorem State.harvest_off (c i n : Nat) : (s.harvest c i n).off = s.off := rfl
@[simp] theorem State.harvest_boot (c i n : Nat) : (s.harvest c i n).boot = s.boot := rfl
@[simp] theorem State.harvest_spares (c i n : Nat) : (s.harvest c i n).spares = s.spares := rfl
@[simp] theorem State.harvest_controls (c i n : Nat) : (s.harvest c i n).controls = s.controls := rfl
@[simp] theorem State.harvest_inForce (c i n : Nat) : (s.harvest c i n).inForce = s.inForce := rfl
@[simp] theorem State.harvest_firmwareAt (c i n : Nat) : (s.harvest c i n).firmwareAt = s.firmwareAt := rfl
@[simp] theorem State.harvest_firmwareWrites (c i n : Nat) : (s.harvest c i n).firmwareWrites = s.firmwareWrites := rfl
@[simp] theorem State.harvest_controlsWas (c i n : Nat) : (s.harvest c i n).controlsWas = s.controlsWas := rfl
@[simp] theorem State.harvest_clamps (c i n : Nat) : (s.harvest c i n).clamps = s.clamps := rfl
@[simp] theorem State.harvest_dmaDrops (c i n : Nat) : (s.harvest c i n).dmaDrops = s.dmaDrops := rfl
@[simp] theorem State.harvest_clockStep (c i n : Nat) : (s.harvest c i n).clockStep = s.clockStep := rfl
@[simp] theorem State.harvest_powerStep (c i n : Nat) : (s.harvest c i n).powerStep = s.powerStep := rfl
@[simp] theorem State.harvest_coolant (c i n : Nat) : (s.harvest c i n).coolant = s.coolant := rfl
@[simp] theorem State.harvest_dieCorrections (c i n : Nat) : (s.harvest c i n).dieCorrections = s.dieCorrections := rfl

@[simp] theorem State.group_harvest (c i n k : Nat) : (s.harvest c i n).group k = s.group k := rfl

/-- The state with its contexts replaced. -/
def State.withContexts (s : State) (x : AMap Context) : State := { s with contexts := x }

@[simp] theorem State.withContexts_contexts (x : AMap Context) : (s.withContexts x).contexts = x := rfl

/-- Adding to harvest counters changes the contexts and nothing else (R337). -/
theorem State.harvests_eq (c : Nat) (l : List (Nat × Nat)) :
    s.harvests c l = s.withContexts (s.harvests c l).contexts := by
  unfold State.harvests
  induction l generalizing s with
  | nil => rfl
  | cons p l ih =>
    rw [List.foldl_cons]
    split
    · exact ih s
    · rw [ih]
      rfl

/-- What is added depends on the contexts alone. -/
theorem State.harvests_contexts_congr (t : State) (c : Nat) (l : List (Nat × Nat)) (h : s.contexts = t.contexts) :
    (s.harvests c l).contexts = (t.harvests c l).contexts := by
  unfold State.harvests
  induction l generalizing s t with
  | nil => exact h
  | cons p l ih =>
    rw [List.foldl_cons, List.foldl_cons]
    split
    · exact ih s t h
    · exact ih _ _ (by simp [State.harvest, h])

@[simp] theorem State.group_harvests (c k : Nat) (l : List (Nat × Nat)) : (s.harvests c l).group k = s.group k := by
  rw [State.harvests_eq]; rfl

@[simp] theorem State.g_harvests (c : Nat) (l : List (Nat × Nat)) : (s.harvests c l).g = s.g := by
  rw [State.harvests_eq]; rfl

@[simp] theorem State.cur_harvests (c : Nat) (l : List (Nat × Nat)) : (s.harvests c l).cur = s.cur := by
  rw [State.harvests_eq]; rfl

@[simp] theorem State.mem_harvests (c : Nat) (l : List (Nat × Nat)) : (s.harvests c l).mem = s.mem := by
  rw [State.harvests_eq]; rfl

@[simp] theorem State.harvests_nil (c : Nat) : s.harvests c [] = s := rfl

end Sys2Proof.Machine
end

