-- ==== Sys2Proof/Laws/Perform.lean ====
section
/-! SUPPORT. What the frame of every instruction answers: an instruction that may issue runs its effect and retires;
one that meets a fault takes it; one that waits leaves the state alone. -/

namespace Sys2Proof.Machine

variable {i : Instr} {n : Info} {s : State}

/-! ### Retirement -/

/-- h is g with another place. -/
abbrev PlacedOf (g h : Group) : Prop := h = g.placedAs h

theorem PlacedOf.trans {g h k : Group} (x : PlacedOf g h) (y : PlacedOf h k) : PlacedOf g k := by
  have e : h.placedAs k = g.placedAs k := by rw [x]; rfl
  exact Eq.trans y e

theorem Group.placed_countLooks (g : Group) (n : Info) (b : Bool) : PlacedOf g (g.countLooks n b) := rfl

theorem Group.placed_advance (g : Group) (k : Nat) (f : Flow) : PlacedOf g (g.advance k f) := by
  cases f with
  | seq => unfold Group.advance; dsimp only; split <;> rfl
  | jump _ => rfl
  | nextClause => rfl
  | resume _ _ => rfl
  | ended => rfl

/-- The place and word of an advance depend on the clause, the place and the word alone. -/
theorem Group.advance_congr (g h : Group) (k : Nat) (f : Flow) (hc : g.clause = h.clause) (hp : g.pc = h.pc)
    (hw : g.word = h.word) :
    (g.advance k f).pc = (h.advance k f).pc ∧ (g.advance k f).word = (h.advance k f).word := by
  have hcode : g.code = h.code := by unfold Group.code; rw [hc]
  cases f with
  | seq =>
    unfold Group.advance
    dsimp only
    rw [hcode, hw]
    split
    · exact ⟨hp, rfl⟩
    · exact ⟨congrArg (fun p => nextHeader p h.code.words.length) hp, rfl⟩
  | jump _ => exact ⟨rfl, rfl⟩
  | nextClause =>
    unfold Group.advance
    dsimp only
    rw [hcode, hp]
    exact ⟨rfl, rfl⟩
  | resume _ _ => exact ⟨rfl, rfl⟩
  | ended => exact ⟨hp, hw⟩

theorem State.placed_trialDelay (s : State) (b g : Group) (f : Flow) :
    PlacedOf g (s.trialDelay b f g) ∧ (s.trialDelay b f g).pc = g.pc ∧ (s.trialDelay b f g).word = g.word := by
  unfold State.trialDelay
  split
  · dsimp only
    split
    · exact ⟨rfl, rfl, rfl⟩
    · unfold Trial.delays
      split <;> exact ⟨rfl, rfl, rfl⟩
  · exact ⟨rfl, rfl, rfl⟩

theorem State.placed_countChunk (s : State) (n : Info) (g : Group) :
    PlacedOf g (s.countChunk n g) ∧ (s.countChunk n g).pc = g.pc ∧ (s.countChunk n g).word = g.word := by
  unfold State.countChunk
  split
  · exact ⟨rfl, rfl, rfl⟩
  · split <;> exact ⟨rfl, rfl, rfl⟩

/-- Retirement moves the group's place and changes nothing else. -/
theorem State.retire_group (s : State) (i : Instr) (n : Info) (f : Flow) :
    ∃ g, s.retire i n f = s.setG g ∧ PlacedOf s.g g ∧
      g.pc = (s.g.advance i.size f).pc ∧ g.word = (s.g.advance i.size f).word := by
  let a := (s.g.countLooks n f.transfers).advance i.size f
  let b : Group := if s.g.issued then { a with issued := false } else a.issues (s.cycle s.cur) s.g.port
  have h1 : PlacedOf s.g a := (s.g.placed_countLooks n _).trans (Group.placed_advance _ _ _)
  have h2 : PlacedOf a b ∧ b.pc = a.pc ∧ b.word = a.word := by
    dsimp only [b]
    split <;> exact ⟨rfl, rfl, rfl⟩
  have h3 := s.placed_trialDelay s.g b f
  have h4 := s.placed_countChunk n (s.trialDelay s.g f b)
  have ha := Group.advance_congr (s.g.countLooks n f.transfers) s.g i.size f rfl rfl rfl
  refine ⟨s.countChunk n (s.trialDelay s.g f b), rfl, ((h1.trans h2.1).trans h3.1).trans h4.1, ?_, ?_⟩
  · rw [h4.2.1, h3.2.1, h2.2.1]; exact ha.1
  · rw [h4.2.2, h3.2.2, h2.2.2]; exact ha.2

/-- An instruction retires from u where its place is s's. -/
theorem State.retire_retired (s u : State) (i : Instr) (n : Info) (f : Flow)
    (hc : u.g.clause = s.g.clause) (hp : u.g.pc = s.g.pc) (hw : u.g.word = s.g.word) :
    Retired i f s u (u.retire i n f) := by
  obtain ⟨g, he, hg, h1, h2⟩ := u.retire_group i n f
  have hg' : (u.retire i n f).g = g := by rw [he]; simp
  have ha := Group.advance_congr u.g s.g i.size f hc hp hw
  refine ⟨?_, ?_, ?_, ?_⟩
  · rw [hg', h1, ha.1]
  · rw [hg', h2, ha.2]
  · rw [hg']; exact hg
  · rw [hg']; exact he

/-! ### What `perform` answers -/

/-- An instruction that issues and whose effect is done retires. -/
theorem perform_next {body : State → Res} {s' : State} {f : Flow} (h : Issues i n s) (hb : body s = .done s' f) :
    perform i n body s = .next (s'.retire i n f) := by
  obtain ⟨h1, h2, h3⟩ := h
  simp [perform, h1, h2, h3, hb]

/-- An instruction that issues and waits leaves what its effect says. -/
theorem perform_hold {body : State → Res} {s' : State} (h : Issues i n s) (hb : body s = .hold s') :
    perform i n body s = .next s' := by
  obtain ⟨h1, h2, h3⟩ := h
  simp [perform, h1, h2, h3, hb]

/-- An instruction that issues and whose own effect is a fault takes it. -/
theorem perform_trap {body : State → Res} {t : Trap} (h : Issues i n s) (hb : body s = .trap t) :
    perform i n body s = .next (s.raise t) := by
  obtain ⟨h1, h2, h3⟩ := h
  simp [perform, h1, h2, h3, hb]

/-- An instruction that meets a decode fault takes it, whatever its effect. -/
theorem perform_decode {body : State → Res} {t : Trap} (h1 : s.g.wait = .none) (h2 : s.g.decodeTrap i n = some t) :
    perform i n body s = .next (s.raise t) := by
  simp [perform, h1, h2]

/-- An instruction that may not issue yet leaves the state alone. -/
theorem perform_stall {body : State → Res} (h2 : s.g.decodeTrap i n = none) (h3 : s.ready n = false) :
    perform i n body s = .next s := by
  by_cases h1 : s.g.wait = .none
  · simp [perform, h1, h2, h3]
  · simp [perform, h1]

/-- Every instruction answers a next state: it waits, takes a fault, or retires. -/
theorem perform_answers (body : State → Res) : ∃ t, perform i n body s = .next t := by
  unfold perform
  repeat' split
  all_goals exact ⟨_, rfl⟩

theorem performG_next {body : Group → Except Trap Eff} {e : Eff} (h : Issues i n s) (hb : body s.g = .ok e) :
    performG i n body s = .next (((s.setG e.g).harvests e.g.ctx e.counts).retire i n e.flow) :=
  perform_next h (by simp only [hb])

theorem performG_trap {body : Group → Except Trap Eff} {t : Trap} (h : Issues i n s) (hb : body s.g = .error t) :
    performG i n body s = .next (s.raise t) :=
  perform_trap h (by simp only [hb])

theorem performG_answers (body : Group → Except Trap Eff) : ∃ t, performG i n body s = .next t := perform_answers _

/-! ### Register writes -/

/-- What an effect on registers leaves of the group: everything but the registers and GSTAT. -/
structure RegsOnly (g h : Group) (sw vw : List Nat) : Prop where
  rest : h = { g with s := h.s, ts := h.ts, v := h.v, gstat := h.gstat }
  s : ∀ r, g.isTs r ∨ r ∉ sw → h.s.get {} r = g.s.get {} r
  ts : ∀ r, ¬g.isTs r ∨ r ∉ sw → h.ts.get {} r = g.ts.get {} r
  v : ∀ r, r ∉ vw → h.vreg r = g.vreg r

theorem RegsOnly.refl (g : Group) (sw vw : List Nat) : RegsOnly g g sw vw :=
  ⟨rfl, fun _ _ => rfl, fun _ _ => rfl, fun _ _ => rfl⟩

theorem RegsOnly.trapMode {g h : Group} {sw vw : List Nat} (x : RegsOnly g h sw vw) : h.trapMode = g.trapMode := by
  rw [x.rest]

theorem RegsOnly.trans {g h k : Group} {sw vw sw' vw' : List Nat} (x : RegsOnly g h sw vw) (y : RegsOnly h k sw' vw') :
    RegsOnly g k (sw ++ sw') (vw ++ vw') := by
  have ht := x.trapMode
  refine ⟨?_, ?_, ?_, ?_⟩
  · have h1 := x.rest
    have h2 := y.rest
    rw [h1] at h2
    exact h2
  · intro r hr
    rw [List.mem_append] at hr
    rw [y.s r (by simp only [Group.isTs, ht] at *; tauto), x.s r (by tauto)]
  · intro r hr
    rw [List.mem_append] at hr
    rw [y.ts r (by simp only [Group.isTs, ht] at *; tauto), x.ts r (by tauto)]
  · intro r hr
    rw [y.v r (by simp at hr; tauto), x.v r (by simp at hr; tauto)]

/-- Writing a scalar changes that scalar alone. -/
theorem Group.setS_regsOnly (g : Group) (r : Nat) (v : Word) (tag : BitVec 4) (sw vw : List Nat) (h : r ∈ sw) :
    RegsOnly g (g.setS r v tag) sw vw := by
  unfold Group.setS
  by_cases hm : g.trapMode = true ∧ r < 8
  · rw [if_pos (by simpa using hm)]
    refine ⟨rfl, fun _ _ => rfl, fun q hq => ?_, fun _ _ => rfl⟩
    refine AMap.get_set_ne _ _ _ _ _ ?_
    rintro rfl
    rcases hq with hq | hq
    · exact hq hm
    · exact hq h
  · rw [if_neg (by simpa using hm)]
    refine ⟨rfl, fun q hq => ?_, fun _ _ => rfl, fun _ _ => rfl⟩
    refine AMap.get_set_ne _ _ _ _ _ ?_
    rintro rfl
    rcases hq with hq | hq
    · exact hm hq
    · exact hq h

@[simp] theorem Group.trapMode_setS (g : Group) (r : Nat) (v : Word) (tag : BitVec 4) :
    (g.setS r v tag).trapMode = g.trapMode := by
  unfold Group.setS; split <;> rfl

/-- A scalar reads as it was written. -/
@[simp] theorem Group.sreg_setS_self (g : Group) (r : Nat) (v : Word) (tag : BitVec 4) :
    (g.setS r v tag).sreg r = ⟨v, tag⟩ := by
  unfold Group.sreg Group.setS
  split <;> simp [*]

/-- Other scalars read as before. -/
@[simp] theorem Group.sreg_setS_ne (g : Group) (r q : Nat) (v : Word) (tag : BitVec 4) (h : q ≠ r) :
    (g.setS r v tag).sreg q = g.sreg q := by
  unfold Group.sreg
  simp only [Group.trapMode_setS]
  unfold Group.setS
  split <;> split <;> simp [*]

/-- A triple's three words take the mask, with the tag mask (R86). -/
theorem Group.sreg_setTriple (g : Group) (r : Nat) (m : LaneMask) :
    (g.setTriple r m).sreg r = ⟨m.extractLsb' 0 32, 13⟩ ∧
      (g.setTriple r m).sreg (r + 1) = ⟨m.extractLsb' 32 32, 13⟩ ∧
      (g.setTriple r m).sreg (r + 2) = ⟨m.extractLsb' 64 32, 13⟩ := by
  unfold Group.setTriple
  refine ⟨?_, ?_, ?_⟩
  · rw [Group.sreg_setS_ne _ _ _ _ _ (by omega), Group.sreg_setS_ne _ _ _ _ _ (by omega), Group.sreg_setS_self]
  · rw [Group.sreg_setS_ne _ _ _ _ _ (by omega), Group.sreg_setS_self]
  · rw [Group.sreg_setS_self]

theorem extract_append3 (m : LaneMask) :
    m.extractLsb' 64 32 ++ m.extractLsb' 32 32 ++ m.extractLsb' 0 32 = m := by
  apply BitVec.eq_of_getLsbD_eq
  intro i hi
  simp only [BitVec.getLsbD_append, BitVec.getLsbD_extractLsb']
  by_cases h1 : i < 32
  · simp [h1]
  · by_cases h2 : i - 32 < 32
    · have : 32 + (i - 32) = i := by omega
      simp [h1, h2, this]
    · have : 64 + (i - 32 - 32) = i := by omega
      have h3 : i - 32 - 32 < 32 := by omega
      simp [h1, h2, h3, this]

/-- A triple reads as it was written. -/
@[simp] theorem Group.triple_setTriple (g : Group) (r : Nat) (m : LaneMask) : (g.setTriple r m).triple r = m := by
  obtain ⟨h0, h1, h2⟩ := Group.sreg_setTriple g r m
  simp only [Group.triple, Group.sval, h0, h1, h2]
  exact extract_append3 m

theorem Group.setTriple_regsOnly (g : Group) (r : Nat) (m : LaneMask) (sw vw : List Nat)
    (h : r ∈ sw ∧ r + 1 ∈ sw ∧ r + 2 ∈ sw) : RegsOnly g (g.setTriple r m) sw vw := by
  have h1 := Group.setS_regsOnly g r (m.extractLsb' 0 32) 13 sw vw h.1
  have h2 := Group.setS_regsOnly (g.setS r (m.extractLsb' 0 32) 13) (r + 1) (m.extractLsb' 32 32) 13 sw vw h.2.1
  have h3 := Group.setS_regsOnly ((g.setS r (m.extractLsb' 0 32) 13).setS (r + 1) (m.extractLsb' 32 32) 13) (r + 2)
    (m.extractLsb' 64 32) 13 sw vw h.2.2
  have h4 := (h1.trans h2).trans h3
  refine ⟨h4.rest, fun q hq => h4.s q ?_, fun q hq => h4.ts q ?_, fun q hq => h4.v q ?_⟩
  all_goals simp only [List.mem_append]; tauto

/-- Writing lanes of a vector changes that vector alone. -/
theorem Group.setV_regsOnly (g : Group) (r : Nat) (m : LaneMask) (f : Nat → Word) (tag : BitVec 4)
    (sw vw : List Nat) (h : r ∈ vw) : RegsOnly g (g.setV r m f tag) sw vw := by
  unfold Group.setV
  split
  · exact RegsOnly.refl _ _ _
  · refine ⟨rfl, fun _ _ => rfl, fun _ _ => rfl, fun q hq => ?_⟩
    refine AMap.get_put_ne _ _ _ _ _ ?_
    rintro rfl
    exact hq h

theorem laneList_getD (f : Nat → Word) (l : Nat) (h : l < 96) : (laneList.map f).getD l 0 = f l := by
  simp [laneList, List.getD, h]

/-- A vector reads as it was written: the lanes of the mask, the others as they were. -/
theorem Group.lane_setV (g : Group) (r : Nat) (m : LaneMask) (f : Nat → Word) (tag : BitVec 4) (l : Nat) (h : l < 96)
    (hm : m ≠ 0) :
    ((g.setV r m f tag).vreg r).tag = tag ∧
      (g.setV r m f tag).lane r l = if m.getLsbD l then f l else g.lane r l := by
  have e : (g.setV r m f tag).vreg r =
      ⟨tag, laneList.map fun l => if m.getLsbD l then f l else (g.vreg r).lanes.getD l 0⟩ := by
    unfold Group.setV
    rw [if_neg hm]
    exact AMap.get_put_self _ _ _ _
  refine ⟨by rw [e], ?_⟩
  simp only [Group.lane, e]
  rw [laneList_getD _ _ h]

/-! ### Flags -/

theorem Group.raisedFlags_append (g : Group) (a b : List FlagEvent) :
    g.raisedFlags (a ++ b) = g.raisedFlags a ||| g.raisedFlags b := by
  have key : ∀ (l : List FlagEvent) (x : Flags),
      l.foldl (fun f e => f ||| e.flags) x = x ||| l.foldl (fun f e => f ||| e.flags) 0 := by
    intro l
    induction l with
    | nil => intro x; simp
    | cons e l ih =>
      intro x
      rw [List.foldl_cons, List.foldl_cons, ih, ih (0 ||| e.flags)]
      simp [BitVec.or_assoc]
  unfold Group.raisedFlags Group.raised
  rw [List.filter_append, List.foldl_append, key]

/-- The flags of a shared computation count when a lane that takes part is no helper lane. -/
theorem Group.raisedFlags_shared (g : Group) (fl : Flags) :
    g.raisedFlags (sharedEvent g.xm fl) = if g.xm &&& ~~~g.helper = 0 then 0 else fl := by
  unfold sharedEvent Group.raisedFlags Group.raised
  by_cases h : fl = 0
  · rw [if_pos h, h]; simp
  · rw [if_neg h]
    have h' : (fl != 0) = true := bne_iff_ne.2 h
    by_cases hx : g.xm &&& ~~~g.helper = 0
    · rw [List.filter_cons_of_neg (by simp [hx]), if_pos hx]; rfl
    · rw [List.filter_cons_of_pos (by simp only [h', Bool.true_and]; exact bne_iff_ne.2 hx), if_neg hx]
      simp

theorem laneBit_and (l : Nat) (h : l < 96) (m : LaneMask) : laneBit l &&& m = 0 ↔ m.getLsbD l = false := by
  unfold laneBit
  constructor
  · intro e
    have := congrArg (fun b => BitVec.getLsbD b l) e
    simpa [h] using this
  · intro e
    ext i hi
    simp
    intro h1 h2
    have : i = l := by omega
    subst this
    simpa [BitVec.getLsbD_eq_getElem hi] using e

theorem mem_lanesOf (m : LaneMask) (l : Nat) : l ∈ lanesOf m ↔ l < 96 ∧ m.getLsbD l = true := by
  simp [lanesOf, laneList]

theorem foldl_or_init (l : List Flags) (x : Flags) :
    l.foldl (fun a b => a ||| b) x = x ||| l.foldl (fun a b => a ||| b) 0 := by
  induction l generalizing x with
  | nil => simp
  | cons e l ih =>
    rw [List.foldl_cons, List.foldl_cons, ih, ih (0 ||| e)]
    simp [BitVec.or_assoc]

/-- The flags of lane computations are those of the active lanes that are no helper lanes. -/
theorem Group.raisedFlags_lanes (g : Group) (f : Nat → Flags) :
    g.raisedFlags (laneEvents g.xm f) = (lanesOf (g.xm &&& ~~~g.helper)).foldl (fun a l => a ||| f l) 0 := by
  have key : ∀ (ls : List Nat) (x : Flags), (∀ l ∈ ls, l < 96) →
      (((ls.filter fun l => g.xm.getLsbD l).filterMap fun l =>
          if f l = 0 then none else some ({ flags := f l, lanes := laneBit l } : FlagEvent)).filter
            fun e => e.flags != 0 && (e.lanes &&& ~~~g.helper) != 0).foldl (fun a e => a ||| e.flags) x =
        (ls.filter fun l => (g.xm &&& ~~~g.helper).getLsbD l).foldl (fun a l => a ||| f l) x := by
    intro ls
    induction ls with
    | nil => intro x _; rfl
    | cons l ls ih =>
      intro x hl
      have hl0 : l < 96 := hl l (by simp)
      have ih' := fun x => ih x fun k hk => hl k (by simp [hk])
      by_cases hx : g.xm.getLsbD l = true
      · rw [List.filter_cons_of_pos hx, List.filterMap_cons]
        have hb := laneBit_and l hl0 (~~~g.helper)
        by_cases hh : g.helper.getLsbD l = true
        · have h2 : laneBit l &&& ~~~g.helper = 0 := hb.2 (by simp [hh])
          rw [List.filter_cons_of_neg (by simp [hx, hh])]
          by_cases hf : f l = 0
          · rw [if_pos hf]; exact ih' x
          · rw [if_neg hf]
            dsimp only
            rw [List.filter_cons_of_neg (by simp [h2])]
            exact ih' x
        · have h3 : g.helper.getLsbD l = false := by simpa using hh
          have h2 : laneBit l &&& ~~~g.helper ≠ 0 := fun e => by
            have := hb.1 e
            rw [BitVec.getLsbD_not, h3] at this
            simp [hl0] at this
          rw [List.filter_cons_of_pos (by rw [BitVec.getLsbD_and, BitVec.getLsbD_not, h3, hx]; simp [hl0]), List.foldl_cons]
          by_cases hf : f l = 0
          · rw [if_pos hf, hf]; simpa using ih' x
          · rw [if_neg hf]
            dsimp only
            rw [List.filter_cons_of_pos
              (by simp only [bne_iff_ne.2 hf, bne_iff_ne.2 h2, Bool.and_self]), List.foldl_cons]
            exact ih' _
      · rw [List.filter_cons_of_neg hx, List.filter_cons_of_neg (by simp [hx])]
        exact ih' x
  exact key laneList 0 (by simp [laneList])

/-- A settlement with no enabled flag sets the flags, in trap mode none. -/
theorem Group.settle_ok (g done : Group) (evs : List FlagEvent) (h : NoTrap g (g.raisedFlags evs)) :
    g.settle evs done =
      .ok (if g.trapMode then done else { done with gstat := done.gstat ||| g.raisedFlags evs }) := by
  unfold Group.settle
  rcases h with h | h
  · simp [h]
  · by_cases ht : g.trapMode = true <;> simp [ht, h]

/-- A settlement with an enabled flag outside trap mode is the FP exception (R41). -/
theorem Group.settle_error (g done : Group) (evs : List FlagEvent) (ht : g.trapMode = false)
    (h : g.raisedFlags evs &&& g.ten ≠ 0) :
    ∃ m, g.settle evs done = .error
      { cause := 0x0E, val := (g.raisedFlags evs).toNat, mask := m, flags := g.raisedFlags evs &&& ~~~g.ten } := by
  unfold Group.settle
  rw [if_neg (by simp [ht])]
  dsimp only
  rw [if_neg h]
  exact ⟨_, rfl⟩

/-! ### An instruction that works on registers -/

/-- The state after an effect on registers: the frame holds, and the registers are those of the effect. -/
theorem ran_of_eff {e : Eff} {f : Flow} {sw vw : List Nat} {fl : Flags} {cnt : List (Nat × Nat)}
    (hr : RegsOnly s.g e.g sw vw) (hf : e.g.gstat = if s.g.trapMode then s.g.gstat else s.g.gstat ||| fl)
    (hc : (s.harvests s.g.ctx e.counts).contexts = (s.harvests s.g.ctx cnt).contexts) (hfl : e.flow = f) :
    let t := ((s.setG e.g).harvests e.g.ctx e.counts).retire i n e.flow
    Ran i f s t sw vw fl cnt ∧ t.g.s = e.g.s ∧ t.g.ts = e.g.ts ∧ t.g.v = e.g.v ∧ t.g.trapMode = e.g.trapMode := by
  subst hfl
  generalize hu : (s.setG e.g).harvests e.g.ctx e.counts = u
  have hctx : e.g.ctx = s.g.ctx := by rw [hr.rest]
  have hug : u.g = e.g := by rw [← hu]; simp
  have hu' : u = (s.withContexts (s.harvests s.g.ctx cnt).contexts).setG e.g := by
    rw [← hu, State.harvests_eq, hctx, State.harvests_contexts_congr (s.setG e.g) s _ _ rfl, hc]
    rfl
  obtain ⟨h1, h2, h3, h4⟩ := State.retire_retired s u i n e.flow (by rw [hug, hr.rest]) (by rw [hug, hr.rest])
    (by rw [hug, hr.rest])
  generalize u.retire i n e.flow = t at *
  dsimp only
  rw [hug] at h3
  have hs : t.g.s = e.g.s := by rw [h3]; rfl
  have hts : t.g.ts = e.g.ts := by rw [h3]; rfl
  have hv : t.g.v = e.g.v := by rw [h3]; rfl
  have hg : t.g.gstat = e.g.gstat := by rw [h3]; rfl
  have hm : t.g.trapMode = e.g.trapMode := by rw [h3]; rfl
  have ht : t = (s.withContexts (s.harvests s.g.ctx cnt).contexts).setG t.g := by
    conv_lhs => rw [h4, hu']
    rw [State.setG_setG]
  refine ⟨⟨h1, h2, ?_, ?_, ?_, ?_, ?_, ht, ?_, ?_⟩, hs, hts, hv, hm⟩
  · intro r hr'; rw [hs]; exact hr.s r hr'
  · intro r hr'; rw [hts]; exact hr.ts r hr'
  · intro r hr'; unfold Group.vreg; rw [hv]; exact hr.v r hr'
  · rw [hg]; exact hf
  · have hp : e.g.placedAs t.g =
        { s.g.placedAs t.g with s := e.g.s, ts := e.g.ts, v := e.g.v, gstat := e.g.gstat } := by
      conv_lhs => rw [hr.rest]
      rfl
    conv_lhs => rw [h3, hp]
    rw [hs, hts, hv, hg]
  · intro k hk; rw [ht]; exact AMap.get_put_ne _ _ _ _ _ hk
  · intro a; rw [ht]; rfl

end Sys2Proof.Machine
end

