-- ==== Sys2Proof/Laws/Scalar.lean ====
section
/-! SUPPORT. What the shared operations of the scalar, mask and transfer families do: the destination's new value, the
frame, and when a fault is taken instead. -/

namespace Sys2Proof.Machine

variable {i : Instr} {n : Info} {s : State}

/-- Reading a scalar of a state whose scalars and mode are those of a group. -/
theorem Group.sreg_congr {g h : Group} (hs : g.s = h.s) (ht : g.ts = h.ts) (hm : g.trapMode = h.trapMode) (r : Nat) :
    g.sreg r = h.sreg r := by
  unfold Group.sreg
  rw [hs, ht, hm]

/-- An instruction whose effect is a pure change of registers: it completes, with the frame. -/
theorem performG_pure {f : Group → Group} {sw vw : List Nat} (h : Issues i n s) (hr : RegsOnly s.g (f s.g) sw vw)
    (hg : (f s.g).gstat = s.g.gstat) :
    ∃ t, performG i n (pureG f) s = .next t ∧ Ran i .seq s t sw vw 0 [] ∧
      (∀ r, t.g.sreg r = (f s.g).sreg r) ∧ ∀ r, t.g.vreg r = (f s.g).vreg r := by
  refine ⟨_, performG_next h rfl, ?_⟩
  obtain ⟨h1, h2, h3, h4, h5⟩ := ran_of_eff (i := i) (n := n) (s := s) (e := { g := f s.g }) (f := .seq) (fl := 0)
    (cnt := []) hr (by rw [hg]; simp) rfl rfl
  refine ⟨h1, fun r => Group.sreg_congr h2 h3 h5 r, fun r => ?_⟩
  unfold Group.vreg
  rw [h4]

/-- SCALAR1: s(d) takes the value under the tag, and nothing else changes. -/
theorem scalar1_ran {d a : BitVec 6} {f : Word → Word} {tag : Group → BitVec 4}
    (h : Issues i { sr := [a.toNat], sw := [d.toNat] } s) :
    ∃ t, scalar1 i d a f tag s = .next t ∧ t.g.sreg d.toNat = ⟨f (s.g.sval a.toNat), tag s.g⟩ ∧
      Ran i .seq s t [d.toNat] [] 0 [] := by
  obtain ⟨t, h1, h2, h3, _⟩ := performG_pure (f := fun g => g.setS d.toNat (f (g.sval a.toNat)) (tag g)) h
    (Group.setS_regsOnly s.g _ _ _ [d.toNat] [] (by simp)) (by unfold Group.setS; split <;> rfl)
  exact ⟨t, h1, by rw [h3]; simp, h2⟩

@[simp] theorem Group.gstat_setS (g : Group) (r : Nat) (v : Word) (tag : BitVec 4) :
    (g.setS r v tag).gstat = g.gstat := by
  unfold Group.setS; split <;> rfl

@[simp] theorem Group.gstat_setTriple (g : Group) (r : Nat) (m : LaneMask) : (g.setTriple r m).gstat = g.gstat := by
  simp [Group.setTriple]

@[simp] theorem Group.gstat_setV (g : Group) (r : Nat) (m : LaneMask) (f : Nat → Word) (tag : BitVec 4) :
    (g.setV r m f tag).gstat = g.gstat := by
  unfold Group.setV; split <;> rfl

/-- Adding flags to a group keeps its registers. -/
theorem RegsOnly.flags {g h : Group} {sw vw : List Nat} (x : RegsOnly g h sw vw) (fl : Flags) :
    RegsOnly g { h with gstat := fl } sw vw := by
  have e := x.rest
  exact ⟨by rw [e], x.s, x.ts, x.v⟩

/-- A settled change of registers: the frame with the flags that were raised. -/
theorem ran_settled {g' : Group} {evs : List FlagEvent} {sw vw : List Nat} {c cnt : List (Nat × Nat)}
    (hn : NoTrap s.g (s.g.raisedFlags evs)) (hr : RegsOnly s.g g' sw vw) (hg : g'.gstat = s.g.gstat)
    (hc : (s.harvests s.g.ctx c).contexts = (s.harvests s.g.ctx cnt).contexts) :
    ∃ e : Group, s.g.settle evs g' = .ok e ∧
      let t := ((s.setG e).harvests e.ctx c).retire i n .seq
      Ran i .seq s t sw vw (s.g.raisedFlags evs) cnt ∧ (∀ r, t.g.sreg r = g'.sreg r) ∧
        ∀ r, t.g.vreg r = g'.vreg r := by
  refine ⟨_, Group.settle_ok _ _ _ hn, ?_⟩
  have key : ∀ e : Group, RegsOnly s.g e sw vw →
      e.gstat = (if s.g.trapMode then s.g.gstat else s.g.gstat ||| s.g.raisedFlags evs) →
      e.s = g'.s → e.ts = g'.ts → e.v = g'.v → e.trapMode = g'.trapMode →
      let t := ((s.setG e).harvests e.ctx c).retire i n .seq
      Ran i .seq s t sw vw (s.g.raisedFlags evs) cnt ∧ (∀ r, t.g.sreg r = g'.sreg r) ∧
        ∀ r, t.g.vreg r = g'.vreg r := by
    intro e he hgs e1 e2 e3 e4
    obtain ⟨h1, h2, h3, h4, h5⟩ := ran_of_eff (i := i) (n := n) (s := s) (e := { g := e, counts := c }) (f := .seq)
      (cnt := cnt) he hgs hc rfl
    refine ⟨h1, fun r => Group.sreg_congr (h2.trans e1) (h3.trans e2) (h5.trans e4) r, fun r => ?_⟩
    unfold Group.vreg
    rw [h4]
    exact congrArg (fun v => AMap.get {} v r) e3
  by_cases ht : s.g.trapMode = true
  · rw [if_pos ht]
    exact key _ hr (by rw [if_pos ht, hg]) rfl rfl rfl rfl
  · rw [if_neg ht]
    exact key _ (hr.flags _) (by rw [if_neg ht, hg]) rfl rfl rfl rfl

/-- SCALAR2: s(d) takes the value under the tag, and nothing else changes, no flag either. -/
theorem scalar2_ran {d a b : BitVec 6} {ea eb : BitVec 4} {f : Word → Word → Word} {tag : Group → BitVec 4}
    (h : Issues i { sr := [a.toNat, b.toNat], sw := [d.toNat],
                    tags := [(.s a.toNat, ea), (.s b.toNat, eb)] } s) :
    ∃ t, scalar2 i d a b ea eb f tag s = .next t ∧
      t.g.sreg d.toNat = ⟨f (s.g.sread a.toNat ea) (s.g.sread b.toNat eb), tag s.g⟩ ∧
      Ran i .seq s t [d.toNat] [] 0 [] := by
  obtain ⟨t, h1, h2, h3, _⟩ := performG_pure
    (f := fun g => g.setS d.toNat (f (g.ssrc a.toNat ea).1 (g.ssrc b.toNat eb).1) (tag g)) h
    (Group.setS_regsOnly s.g _ _ _ [d.toNat] [] (by simp)) (by simp)
  exact ⟨t, h1, by rw [h3]; simp [Group.sread], h2⟩

/-- MASK2: the triple takes the mask, with the tag mask; nothing else changes. -/
theorem mask2_ran {d a b : BitVec 6} {f : LaneMask → LaneMask → LaneMask}
    (h : Issues i { sr := tripleRegs a ++ tripleRegs b, sw := tripleRegs d, tags := tripleTags a ++ tripleTags b } s) :
    ∃ t, mask2 i d a b f s = .next t ∧ t.g.triple d.toNat = f (s.g.triple a.toNat) (s.g.triple b.toNat) ∧
      (∀ r ∈ tripleRegs d, (t.g.sreg r).tag = 13) ∧ Ran i .seq s t (tripleRegs d) [] 0 [] := by
  obtain ⟨t, h1, h2, h3, _⟩ := performG_pure
    (f := fun g => g.setTriple d.toNat (f (g.triple a.toNat) (g.triple b.toNat))) h
    (Group.setTriple_regsOnly s.g _ _ (tripleRegs d) [] (by simp [tripleRegs])) (by simp)
  refine ⟨t, h1, ?_, ?_, h2⟩
  · unfold Group.triple Group.sval
    simp only [h3]
    exact Group.triple_setTriple s.g d.toNat _
  · intro r hr
    obtain ⟨k0, k1, k2⟩ := Group.sreg_setTriple s.g d.toNat (f (s.g.triple a.toNat) (s.g.triple b.toNat))
    simp only [tripleRegs, List.mem_cons, List.mem_nil_iff, or_false] at hr
    rcases hr with rfl | rfl | rfl <;> simp [h3, k0, k1, k2]

end Sys2Proof.Machine
end

