-- ==== Sys2Proof/Laws/Vector.lean ====
section
/-! SUPPORT. What the shared operations of the vector families do: the lanes written, the flags of the active lanes that
are no helper lanes, what is counted, and the frame. -/

namespace Sys2Proof.Machine

variable {i : Instr} {n : Info} {s : State}

/-- The flags that count depend on the active lanes alone. -/
theorem Group.foldl_lanes_congr (g : Group) (f h : Nat → Flags) (e : ∀ l, l < 96 → g.active l = true → f l = h l) :
    (lanesOf (g.xm &&& ~~~g.helper)).foldl (fun a l => a ||| f l) 0 =
      (lanesOf (g.xm &&& ~~~g.helper)).foldl (fun a l => a ||| h l) 0 := by
  have : ∀ (ls : List Nat) (x : Flags), (∀ l ∈ ls, f l = h l) →
      ls.foldl (fun a l => a ||| f l) x = ls.foldl (fun a l => a ||| h l) x := by
    intro ls
    induction ls with
    | nil => intro x _; rfl
    | cons l ls ih =>
      intro x hl
      rw [List.foldl_cons, List.foldl_cons, hl l (by simp), ih _ fun k hk => hl k (by simp [hk])]
  refine this _ 0 fun l hl => ?_
  obtain ⟨h1, h2⟩ := (mem_lanesOf _ _).1 hl
  rw [BitVec.getLsbD_and] at h2
  exact e l h1 (by simpa [Group.active] using (Bool.and_eq_true_iff.1 h2).1)

theorem laneList_map_getD {α : Type} (f : Nat → α) (d : α) (l : Nat) (h : l < 96) :
    (laneList.map f).getD l d = f l := by
  simp [laneList, List.getD, h]

theorem Group.lanes96_getD (g : Group) (f : Nat → Word × Flags) (l : Nat) (h : l < 96) (ha : g.active l = true) :
    (g.lanes96 f).getD l (0, 0) = f l := by
  unfold Group.lanes96
  rw [laneList_map_getD _ _ _ h, if_pos ha]

theorem lt_96_of_active {g : Group} {l : Nat} (h : g.active l = true) : l < 96 := by
  by_contra hc
  unfold Group.active at h
  rw [BitVec.getLsbD_of_ge _ _ (by omega)] at h
  exact Bool.false_ne_true h

theorem xm_eq_zero_inactive {g : Group} (h : g.xm = 0) (l : Nat) : g.active l = false := by
  unfold Group.active
  rw [h]
  simp

/-- The flags of element computations and of a shared one. -/
theorem Group.raisedFlags_events (g : Group) (f : Nat → Word × Flags) (shared : Flags) :
    g.raisedFlags (g.events (g.lanes96 f) shared) = g.orLanes (fun l => (f l).2) shared := by
  unfold Group.events Group.orLanes
  rw [Group.raisedFlags_append, Group.raisedFlags_lanes, Group.raisedFlags_shared]
  rw [Group.foldl_lanes_congr g _ (fun l => (f l).2)]
  intro l hl ha
  rw [Group.lanes96_getD g f l hl ha]

/-- With an empty mask no flag counts. -/
theorem Group.orLanes_empty (g : Group) (f : Nat → Flags) (shared : Flags) (h : g.xm = 0) :
    g.orLanes f shared = 0 := by
  unfold Group.orLanes
  rw [h]
  simp [lanesOf]

theorem popCount_zero : popCount 0 = 0 := by
  simp [popCount, lanesOf]

/-- With an empty mask nothing is counted. -/
theorem State.harvests_counts_empty (s : State) (c : Option (Nat × Nat)) (h : s.g.xm = 0) :
    s.harvests s.g.ctx (s.g.counts c) = s := by
  unfold Group.counts Group.counted
  rw [h]
  cases c with
  | none => rfl
  | some p =>
    dsimp only
    rw [show popCount ((0 : LaneMask) &&& ~~~s.g.helper) = 0 by simp [popCount, lanesOf]]
    rfl

/-- An instruction of the lanes with an empty mask changes no register. -/
theorem ran_empty {sw vw : List Nat} (h : s.g.xm = 0) (f : Nat → Flags) (shared : Flags) (c : Option (Nat × Nat)) :
    let t := ((s.setG s.g).harvests s.g.ctx []).retire i n .seq
    Ran i .seq s t sw vw (s.g.orLanes f shared) (s.g.counts c) ∧ (∀ r, t.g.sreg r = s.g.sreg r) ∧
      ∀ r, t.g.vreg r = s.g.vreg r := by
  rw [Group.orLanes_empty _ _ _ h]
  obtain ⟨h1, h2, h3, h4, h5⟩ := ran_of_eff (i := i) (n := n) (s := s) (e := { g := s.g }) (f := .seq) (fl := 0)
    (cnt := s.g.counts c) (RegsOnly.refl s.g sw vw) (by simp) (by rw [State.harvests_counts_empty _ _ h]; rfl) rfl
  refine ⟨h1, fun r => Group.sreg_congr h2 h3 h5 r, fun r => ?_⟩
  unfold Group.vreg
  rw [h4]

/-- VECRUN: each active lane of the destination takes its lane's value; the register takes the tag; the flags of the
lanes are set; nothing else changes. -/
theorem vecRun_ran {d : Nat} {tag : Group → BitVec 4} {lane : Group → Nat → Word × Flags} {shared : Group → Flags}
    {count : Option (Nat × Nat)} (h : Issues i { n with mask := true } s)
    (hn : NoTrap s.g (s.g.orLanes (fun l => (lane s.g l).2) (shared s.g))) :
    ∃ t, vecRun i n d tag lane shared count s = .next t ∧
      WroteLanes s t d (tag s.g) (fun l => (lane s.g l).1) ∧
      Ran i .seq s t [] [d] (s.g.orLanes (fun l => (lane s.g l).2) (shared s.g)) (s.g.counts count) := by
  by_cases hx : s.g.xm = 0
  · obtain ⟨h1, _, h3⟩ := ran_empty (i := i) (n := { n with mask := true }) (s := s) (sw := []) (vw := [d]) hx
      (fun l => (lane s.g l).2) (shared s.g) count
    refine ⟨_, performG_next (e := { g := s.g }) h (by dsimp only; rw [if_pos hx]), ?_, h1⟩
    unfold WroteLanes
    rw [if_pos hx]
    exact h3 d
  · let vals := s.g.lanes96 (lane s.g)
    let g' := s.g.setV d s.g.xm (fun l => (vals.getD l (0, 0)).1) (tag s.g)
    have hfl := Group.raisedFlags_events s.g (lane s.g) (shared s.g)
    obtain ⟨e, he, h1, _, h3⟩ := ran_settled (i := i) (n := { n with mask := true }) (s := s) (g' := g')
      (evs := s.g.events vals (shared s.g)) (sw := []) (vw := [d]) (c := s.g.counts count) (cnt := s.g.counts count)
      (by rw [hfl]; exact hn) (Group.setV_regsOnly s.g _ _ _ _ [] [d] (by simp)) (by simp [g']) rfl
    refine ⟨_, performG_next (e := { g := e, counts := s.g.counts count }) h ?_, ?_, ?_⟩
    · dsimp only
      rw [if_neg hx]
      change (match s.g.settle (s.g.events vals (shared s.g)) g' with
        | .ok g' => Except.ok ({ g := g', counts := s.g.counts count } : Eff)
        | .error t => .error t) = _
      rw [he]
    · unfold WroteLanes
      rw [if_neg hx]
      refine ⟨?_, fun l hl => ?_⟩
      · rw [h3 d]; exact (Group.lane_setV s.g d s.g.xm _ (tag s.g) 0 (by omega) hx).1
      · unfold Group.lane
        rw [h3 d]
        refine (Group.lane_setV s.g d s.g.xm _ (tag s.g) l hl hx).2.trans ?_
        change (if s.g.active l = true then (vals.getD l (0, 0)).1 else s.g.lane d l) = _
        by_cases ha : s.g.active l = true
        · rw [if_pos ha, if_pos ha, Group.lanes96_getD s.g _ l hl ha]
        · rw [if_neg ha, if_neg ha]; rfl
    · rw [← hfl]; exact h1

/-- A bit of two masks mixed by a third. -/
theorem getLsbD_mix (x y m : LaneMask) (l : Nat) (h : l < 96) :
    ((x &&& ~~~m) ||| (y &&& m)).getLsbD l = if m.getLsbD l then y.getLsbD l else x.getLsbD l := by
  rw [BitVec.getLsbD_or, BitVec.getLsbD_and, BitVec.getLsbD_and, BitVec.getLsbD_not]
  cases m.getLsbD l <;> simp [h]

/-- What a triple of a group is after the active lanes' bits are written. -/
theorem Group.triple_setBits (g : Group) (d : Nat) (bits : LaneMask) (hx : g.xm ≠ 0) :
    (g.setBits d bits).triple d = (g.triple d &&& ~~~g.xm) ||| (bits &&& g.xm) := by
  unfold Group.setBits
  rw [if_neg hx]
  exact Group.triple_setTriple _ _ _

theorem foldl_pow_lt (f : Nat → Bool) (k : Nat) :
    (List.range k).foldl (fun m l => if f l then m + 2 ^ l else m) 0 < 2 ^ k := by
  induction k with
  | zero => simp
  | succ k ih =>
    rw [List.range_succ, List.foldl_append]
    simp only [List.foldl_cons, List.foldl_nil]
    split
    · rw [pow_succ]; omega
    · rw [pow_succ]; omega

theorem foldl_pow_testBit (f : Nat → Bool) (k l : Nat) :
    ((List.range k).foldl (fun m l => if f l then m + 2 ^ l else m) 0).testBit l = (decide (l < k) && f l) := by
  induction k with
  | zero => simp
  | succ k ih =>
    rw [List.range_succ, List.foldl_append]
    simp only [List.foldl_cons, List.foldl_nil]
    have hlt := foldl_pow_lt f k
    by_cases hf : f k = true
    · rw [if_pos hf]
      rcases Nat.lt_trichotomy l k with hl | hl | hl
      · rw [Nat.add_comm, Nat.testBit_two_pow_add_gt hl, ih]
        simp [hl, Nat.lt_succ_of_lt hl]
      · subst hl
        rw [Nat.add_comm, Nat.testBit_two_pow_add_eq, ih]
        simp [hf]
      · rw [Nat.testBit_lt_two_pow]
        · have : ¬ l < k + 1 := by omega
          simp [this]
        · calc _ < 2 ^ k + 2 ^ k := by omega
            _ = 2 ^ (k + 1) := by rw [pow_succ]; omega
            _ ≤ 2 ^ l := Nat.pow_le_pow_right (by omega) (by omega)
    · rw [if_neg hf, ih]
      by_cases hl : l = k
      · subst hl; simp [hf]
      · have : (l < k + 1) ↔ l < k := by omega
        simp [this]

/-- Lane l of a mask made of a condition. -/
theorem maskOf_getLsbD (f : Nat → Bool) (l : Nat) (h : l < 96) : (maskOf f).getLsbD l = f l := by
  unfold maskOf laneList
  rw [BitVec.getLsbD_ofNat, foldl_pow_testBit]
  simp [h]

theorem Group.setBits_regsOnly (g : Group) (d : Nat) (bits : LaneMask) :
    RegsOnly g (g.setBits d bits) [d, d + 1, d + 2] [] := by
  unfold Group.setBits
  split
  · exact RegsOnly.refl _ _ _
  · exact Group.setTriple_regsOnly g d _ _ _ (by simp)

@[simp] theorem Group.gstat_setBits (g : Group) (d : Nat) (bits : LaneMask) : (g.setBits d bits).gstat = g.gstat := by
  unfold Group.setBits
  split
  · rfl
  · simp

/-- CMPRUN: the active lanes' bits of the triple take the results; nothing else changes but the flags. -/
theorem cmpRun_ran {d : BitVec 6} {lane : Group → Nat → Bool × Flags} {shared : Group → Flags}
    {count : Option (Nat × Nat)}
    (h : Issues i { n with mask := true, sw := [d.toNat, d.toNat + 1, d.toNat + 2] } s)
    (hn : NoTrap s.g (s.g.orLanes (fun l => (lane s.g l).2) (shared s.g))) :
    ∃ t, cmpRun i n d lane shared count s = .next t ∧ WroteBits s t d.toNat (fun l => (lane s.g l).1) ∧
      Ran i .seq s t [d.toNat, d.toNat + 1, d.toNat + 2] []
        (s.g.orLanes (fun l => (lane s.g l).2) (shared s.g)) (s.g.counts count) := by
  by_cases hx : s.g.xm = 0
  · obtain ⟨h1, h2, _⟩ := ran_empty (i := i)
      (n := { n with mask := true, sw := [d.toNat, d.toNat + 1, d.toNat + 2] }) (s := s)
      (sw := [d.toNat, d.toNat + 1, d.toNat + 2]) (vw := []) hx (fun l => (lane s.g l).2) (shared s.g) count
    refine ⟨_, performG_next (e := { g := s.g }) h (by dsimp only; rw [if_pos hx]), ?_, h1⟩
    unfold WroteBits
    rw [if_pos hx]
    unfold Group.triple Group.sval
    simp only [h2]
  · let vals := laneList.map fun l => if s.g.active l then lane s.g l else (false, 0)
    let evs := laneEvents s.g.xm (fun l => (vals.getD l (false, 0)).2) ++ sharedEvent s.g.xm (shared s.g)
    let g' := s.g.setBits d.toNat (maskOf fun l => (vals.getD l (false, 0)).1)
    have hv : ∀ l, l < 96 → s.g.active l = true → vals.getD l (false, 0) = lane s.g l := by
      intro l hl ha
      simp only [vals]
      rw [laneList_map_getD _ _ _ hl, if_pos ha]
    have hfl : s.g.raisedFlags evs = s.g.orLanes (fun l => (lane s.g l).2) (shared s.g) := by
      simp only [evs]
      unfold Group.orLanes
      rw [Group.raisedFlags_append, Group.raisedFlags_lanes, Group.raisedFlags_shared]
      rw [Group.foldl_lanes_congr s.g _ (fun l => (lane s.g l).2)]
      intro l hl ha
      rw [hv l hl ha]
    obtain ⟨e, he, h1, h2, _⟩ := ran_settled (i := i)
      (n := { n with mask := true, sw := [d.toNat, d.toNat + 1, d.toNat + 2] }) (s := s) (g' := g')
      (evs := evs) (sw := [d.toNat, d.toNat + 1, d.toNat + 2]) (vw := []) (c := s.g.counts count)
      (cnt := s.g.counts count) (by rw [hfl]; exact hn) (Group.setBits_regsOnly _ _ _) (by simp [g']) rfl
    refine ⟨_, performG_next (e := { g := e, counts := s.g.counts count }) h ?_, ?_, ?_⟩
    · dsimp only
      rw [if_neg hx]
      change (match s.g.settle evs g' with
        | .ok g' => Except.ok ({ g := g', counts := s.g.counts count } : Eff)
        | .error t => .error t) = _
      rw [he]
    · unfold WroteBits
      rw [if_neg hx]
      refine ⟨fun l hl => ?_, fun r hr => ?_⟩
      · have : ∀ t : Group, (∀ r, t.sreg r = g'.sreg r) → t.triple d.toNat = g'.triple d.toNat := by
          intro t ht; unfold Group.triple Group.sval; simp only [ht]
        rw [this _ h2]
        simp only [g']
        rw [Group.triple_setBits _ _ _ hx, getLsbD_mix _ _ _ _ hl, maskOf_getLsbD _ l hl]
        change (if s.g.active l = true then _ else _) = _
        by_cases ha : s.g.active l = true
        · rw [if_pos ha, if_pos ha, hv l hl ha]
        · rw [if_neg ha, if_neg ha]
      · rw [h2 r]
        simp only [g']
        unfold Group.setBits
        rw [if_neg hx]
        obtain ⟨k0, k1, k2⟩ := Group.sreg_setTriple s.g d.toNat
          ((s.g.triple d.toNat &&& ~~~s.g.xm) ||| (maskOf (fun l => (vals.getD l (false, 0)).1) &&& s.g.xm))
        simp only [List.mem_cons, List.mem_nil_iff, or_false] at hr
        rcases hr with rfl | rfl | rfl
        · rw [k0]
        · rw [k1]
        · rw [k2]
    · rw [← hfl]; exact h1

/-! ### Long-latency instructions -/

/-- The state with a result queued in a group. -/
def State.queued (s : State) (g : Group) (w : List RegWrite) (cnt : List (Nat × Nat)) : State :=
  s.bump.setG
    { g with results := g.results ++ [{ id := s.fresh, kind := .compute, writes := w, counts := cnt }] }

/-- A settled long-latency instruction queues its result. -/
theorem settled_queued {evs : List FlagEvent} {w : List RegWrite} {cnt : List (Nat × Nat)} {g' : Group}
    (he : s.g.settle evs s.g = .ok g') :
    lateWrites s evs w cnt = .done (s.queued g' w cnt) .seq := by
  unfold lateWrites
  dsimp only
  rw [he]
  rfl

/-- A result that is queued: the frame. -/
theorem queued_started {w : List RegWrite} {fl : Flags} {cnt : List (Nat × Nat)} {evs : List FlagEvent}
    (hn : NoTrap s.g fl) (hfl : s.g.raisedFlags evs = fl) :
    ∃ g', s.g.settle evs s.g = .ok g' ∧ StartedAll i s ((s.queued g' w cnt).retire i n .seq) w fl cnt := by
  refine ⟨_, Group.settle_ok _ _ _ (by rw [hfl]; exact hn), ?_⟩
  have key : ∀ g' : Group,
      g' = { s.g with gstat := if s.g.trapMode then s.g.gstat else s.g.gstat ||| fl } →
      StartedAll i s ((s.queued g' w cnt).retire i n .seq) w fl cnt := by
    intro g' hg
    have hq : (s.queued g' w cnt).g =
        { g' with results := g'.results ++ [{ id := s.fresh, kind := .compute, writes := w, counts := cnt }] } :=
      State.g_setG _ _
    have hr := State.retire_retired s (s.queued g' w cnt) i n .seq (by rw [hq, hg]) (by rw [hq, hg])
      (by rw [hq, hg])
    refine ⟨?_, fun a => ?_⟩
    · subst hg
      exact hr
    · rw [hr.2.2.2]
      rfl
  by_cases ht : s.g.trapMode = true
  · rw [if_pos ht]
    refine key _ ?_
    rw [if_pos ht]
  · rw [if_neg ht, hfl]
    refine key _ ?_
    rw [if_neg ht]

/-- An instruction that queues writes once its flags are settled: completion and frame. -/
theorem late_started {evs : List FlagEvent} {w : List RegWrite} {fl : Flags} {cnt : List (Nat × Nat)}
    {body : State → Res} (h : Issues i n s) (hx : s.g.xm = 0 → body s = .done s .seq)
    (hb : s.g.xm ≠ 0 → body s = lateWrites s evs w cnt) (hn : NoTrap s.g fl)
    (hfl : s.g.xm ≠ 0 → s.g.raisedFlags evs = fl) :
    ∃ t, perform i n body s = .next t ∧ Started i s t w fl cnt := by
  unfold Started
  by_cases hz : s.g.xm = 0
  · refine ⟨_, perform_next h (hx hz), ?_⟩
    rw [if_pos hz]
    obtain ⟨h1, _⟩ := ran_of_eff (i := i) (n := n) (s := s) (e := { g := s.g }) (f := .seq) (fl := 0) (cnt := [])
      (RegsOnly.refl s.g [] []) (by simp) rfl rfl
    have hg : (s.setG s.g).g = s.g := State.g_setG _ _
    have hret : (s.setG s.g).retire i n .seq = s.retire i n .seq := by
      have e : ∀ g, (s.setG s.g).setG g = s.setG g := fun g => State.setG_setG s _ g
      unfold State.retire State.trialDelay State.countChunk State.cycle State.coreCycle
      rw [hg]
      exact e _
    simp only [State.harvests_nil] at h1
    rw [hret] at h1
    exact h1
  · obtain ⟨g', he, h1⟩ := queued_started (i := i) (n := n) (s := s) (w := w) (cnt := cnt) hn (hfl hz)
    refine ⟨_, perform_next h ((hb hz).trans (settled_queued he)), ?_⟩
    rw [if_neg hz]
    exact h1

theorem Group.lanes96_fst (g : Group) (f : Nat → Word × Flags) :
    (g.lanes96 f).map (·.1) = laneList.map fun l => if g.active l then (f l).1 else 0 := by
  unfold Group.lanes96
  rw [List.map_map]
  refine List.map_congr_left fun l _ => ?_
  simp only [Function.comp]
  split <;> rfl

/-- VECLATE: the flags are settled at issue, and the write of the active lanes waits. -/
theorem vecLate_started {d : Nat} {tag : Group → BitVec 4} {lane : Group → Nat → Word × Flags}
    {shared : Group → Flags} {count : Option (Nat × Nat)} (h : Issues i { n with mask := true } s)
    (hn : NoTrap s.g (s.g.orLanes (fun l => (lane s.g l).2) (shared s.g))) :
    ∃ t, vecLate i n d tag lane shared count s = .next t ∧
      Started i s t [lanesWrite s.g d (tag s.g) fun l => (lane s.g l).1]
        (s.g.orLanes (fun l => (lane s.g l).2) (shared s.g)) (s.g.counts count) := by
  refine late_started (evs := s.g.events (s.g.lanes96 (lane s.g)) (shared s.g)) h ?_ ?_ hn
    fun _ => Group.raisedFlags_events s.g (lane s.g) (shared s.g)
  · intro hx
    dsimp only
    rw [if_pos hx]
  · intro hx
    dsimp only
    rw [if_neg hx]
    unfold lateWrites lanesWrite
    -- the module build leaves a goal after the rewriting, the one text does not
    (rw [← Group.lanes96_fst]) <;> rfl

end Sys2Proof.Machine
end

