-- ==== Sys2Proof/Laws/Pairs.lean ====
section
/-! SUPPORT. What the shared operations on register pairs and register blocks do. -/

namespace Sys2Proof.Machine

variable {i : Instr} {n : Info} {s : State}

theorem Group.pairs96_getD (g : Group) (f : Nat → PairRes) (l : Nat) (h : l < 96) (ha : g.active l = true) :
    (g.pairs96 f).getD l ⟨0, 0, 0⟩ = f l := by
  unfold Group.pairs96
  rw [laneList_map_getD _ _ _ h, if_pos ha]

theorem Group.raisedFlags_pairEvents (g : Group) (f : Nat → PairRes) (shared : Flags) :
    g.raisedFlags (g.pairEvents (g.pairs96 f) shared) = g.orLanes (fun l => (f l).flags) shared := by
  unfold Group.pairEvents Group.orLanes
  rw [Group.raisedFlags_append, Group.raisedFlags_lanes, Group.raisedFlags_shared]
  rw [Group.foldl_lanes_congr g _ (fun l => (f l).flags)]
  intro l hl ha
  rw [Group.pairs96_getD g f l hl ha]

theorem Group.vreg_setV_ne (g : Group) (r q : Nat) (m : LaneMask) (f : Nat → Word) (tag : BitVec 4) (h : q ≠ r) :
    (g.setV r m f tag).vreg q = g.vreg q :=
  (Group.setV_regsOnly g r m f tag [] [r] (by simp)).v q (by simpa using h)

/-- The lanes that a write of the active lanes leaves in a register. -/
theorem wroteLanes_of {t h : Group} {g : Group} {d : Nat} {tag : BitVec 4} {f val : Nat → Word} (hx : g.xm ≠ 0)
    (ht : t.vreg d = (h.setV d g.xm f tag).vreg d) (hg : h.vreg d = g.vreg d)
    (hf : ∀ l, l < 96 → g.active l = true → f l = val l) :
    (t.vreg d).tag = tag ∧ ∀ l, l < 96 → t.lane d l = if g.active l then val l else g.lane d l := by
  refine ⟨?_, fun l hl => ?_⟩
  · rw [ht]; exact (Group.lane_setV h d g.xm f tag 0 (by omega) hx).1
  · have e : t.lane d l = (h.setV d g.xm f tag).lane d l := by unfold Group.lane; rw [ht]
    rw [e]
    refine (Group.lane_setV h d g.xm f tag l hl hx).2.trans ?_
    change (if g.active l = true then f l else h.lane d l) = _
    by_cases ha : g.active l = true
    · rw [if_pos ha, if_pos ha, hf l hl ha]
    · rw [if_neg ha, if_neg ha]; unfold Group.lane; rw [hg]

/-- PAIRRUN: the active lanes of v(d) and v(d + 1) take the two words of their lane's result. -/
theorem pairRun_ran {d : BitVec 7} {lane : Group → Nat → PairRes} {shared : Group → Flags}
    (h : Issues i { n with mask := true, vw := vpair d, pairs := ⟨false, d.toNat⟩ :: n.pairs } s)
    (hn : NoTrap s.g (s.g.orLanes (fun l => (lane s.g l).flags) (shared s.g))) :
    ∃ t, pairRun i n d lane shared s = .next t ∧ WroteLanes s t d.toNat 11 (fun l => (lane s.g l).hi) ∧
      WroteLanes s t (d.toNat + 1) 12 (fun l => (lane s.g l).lo) ∧
      Ran i .seq s t [] [d.toNat, d.toNat + 1] (s.g.orLanes (fun l => (lane s.g l).flags) (shared s.g))
        (s.g.counts (some (27, 1))) := by
  by_cases hx : s.g.xm = 0
  · obtain ⟨h1, _, h3⟩ := ran_empty (i := i)
      (n := { n with mask := true, vw := vpair d, pairs := ⟨false, d.toNat⟩ :: n.pairs }) (s := s) (sw := [])
      (vw := [d.toNat, d.toNat + 1]) hx (fun l => (lane s.g l).flags) (shared s.g) (some (27, 1))
    refine ⟨_, performG_next (e := { g := s.g }) h (by dsimp only; rw [if_pos hx]), ?_, ?_, h1⟩
    · unfold WroteLanes; rw [if_pos hx]; exact h3 _
    · unfold WroteLanes; rw [if_pos hx]; exact h3 _
  · let vals := s.g.pairs96 (lane s.g)
    let g1 := s.g.setV d.toNat s.g.xm (fun l => (vals.getD l ⟨0, 0, 0⟩).hi) 11
    let g' := g1.setV (d.toNat + 1) s.g.xm (fun l => (vals.getD l ⟨0, 0, 0⟩).lo) 12
    have hfl := Group.raisedFlags_pairEvents s.g (lane s.g) (shared s.g)
    have hr : RegsOnly s.g g' [] [d.toNat, d.toNat + 1] := by
      have h1 := Group.setV_regsOnly s.g d.toNat s.g.xm (fun l => (vals.getD l ⟨0, 0, 0⟩).hi) 11 [] [d.toNat] (by simp)
      have h2 := Group.setV_regsOnly g1 (d.toNat + 1) s.g.xm (fun l => (vals.getD l ⟨0, 0, 0⟩).lo) 12 []
        [d.toNat + 1] (by simp)
      exact h1.trans h2
    obtain ⟨e, he, h1, _, h3⟩ := ran_settled (i := i)
      (n := { n with mask := true, vw := vpair d, pairs := ⟨false, d.toNat⟩ :: n.pairs }) (s := s) (g' := g')
      (evs := s.g.pairEvents vals (shared s.g)) (sw := []) (vw := [d.toNat, d.toNat + 1])
      (c := s.g.counts cntPair) (cnt := s.g.counts cntPair) (by rw [hfl]; exact hn) hr
      (by simp only [g', g1, Group.gstat_setV]) rfl
    refine ⟨_, performG_next (e := { g := e, counts := s.g.counts cntPair }) h ?_, ?_, ?_, ?_⟩
    · dsimp only
      rw [if_neg hx]
      change (match s.g.settle (s.g.pairEvents vals (shared s.g)) g' with
        | .ok g' => Except.ok ({ g := g', counts := s.g.counts cntPair } : Eff)
        | .error t => .error t) = _
      rw [he]
    · unfold WroteLanes
      rw [if_neg hx]
      refine wroteLanes_of (h := s.g) (f := fun l => (vals.getD l ⟨0, 0, 0⟩).hi) hx ?_ rfl ?_
      · rw [h3]; exact Group.vreg_setV_ne g1 _ _ _ _ _ (by omega)
      · intro l hl ha; simp only [vals]; rw [Group.pairs96_getD _ _ l hl ha]
    · unfold WroteLanes
      rw [if_neg hx]
      refine wroteLanes_of (h := g1) (f := fun l => (vals.getD l ⟨0, 0, 0⟩).lo) hx (h3 _) ?_ ?_
      · exact Group.vreg_setV_ne s.g _ _ _ _ _ (by omega)
      · intro l hl ha; simp only [vals]; rw [Group.pairs96_getD _ _ l hl ha]
    · rw [← hfl]; exact h1

theorem Group.pairs96_map (g : Group) (f : Nat → PairRes) (h : PairRes → Word) (h0 : h ⟨0, 0, 0⟩ = 0) :
    (g.pairs96 f).map h = laneList.map fun l => if g.active l then h (f l) else 0 := by
  unfold Group.pairs96
  rw [List.map_map]
  refine List.map_congr_left fun l _ => ?_
  simp only [Function.comp]
  split
  · rfl
  · exact h0

/-- PAIRLATE: the flags are settled at issue, and the writes of the pair wait. -/
theorem pairLate_started {d : BitVec 7} {lane : Group → Nat → PairRes} {shared : Group → Flags}
    (h : Issues i { n with mask := true, vw := vpair d, pairs := ⟨false, d.toNat⟩ :: n.pairs } s)
    (hn : NoTrap s.g (s.g.orLanes (fun l => (lane s.g l).flags) (shared s.g))) :
    ∃ t, pairLate i n d lane shared s = .next t ∧
      Started i s t [lanesWrite s.g d.toNat 11 fun l => (lane s.g l).hi,
          lanesWrite s.g (d.toNat + 1) 12 fun l => (lane s.g l).lo]
        (s.g.orLanes (fun l => (lane s.g l).flags) (shared s.g)) (s.g.counts (some (27, 1))) := by
  refine late_started (evs := s.g.pairEvents (s.g.pairs96 (lane s.g)) (shared s.g)) h ?_ ?_ hn
    fun _ => Group.raisedFlags_pairEvents s.g (lane s.g) (shared s.g)
  · intro hx
    dsimp only
    rw [if_pos hx]
  · intro hx
    dsimp only
    rw [if_neg hx]
    unfold lateWrites lanesWrite
    rw [← Group.pairs96_map _ _ PairRes.hi rfl, ← Group.pairs96_map _ _ PairRes.lo rfl]
    rfl

/-- INTERLEAVE: register j of the destination block takes elements 96 j to 96 j + 95 in its active lanes, under the
tag of v(a). -/
theorem interleave_ran {k : Nat} {d a : BitVec 7} {f : Group → Nat → Word}
    (h : Issues i { vr := block a k, vw := block d k, mask := true } s) :
    ∃ t, interleave i k d a f s = .next t ∧
      (∀ j, j < k → WroteLanes s t (d.toNat + j) (s.g.vreg a.toNat).tag fun l => f s.g (96 * j + l)) ∧
      Ran i .seq s t [] (block d k) 0 [] := by
  let w : Group → Nat → Group := fun g' j =>
    g'.setV (d.toNat + j) s.g.xm (fun l => f s.g (96 * j + l)) (s.g.vreg a.toNat).tag
  have key : ∀ k, RegsOnly s.g ((List.range k).foldl w s.g) [] (block d k) ∧
      ((List.range k).foldl w s.g).gstat = s.g.gstat ∧
      ∀ j, j < k → s.g.xm ≠ 0 →
        ((List.range k).foldl w s.g).vreg (d.toNat + j) = (s.g.setV (d.toNat + j) s.g.xm (fun l => f s.g (96 * j + l))
          (s.g.vreg a.toNat).tag).vreg (d.toNat + j) := by
    intro k
    induction k with
    | zero => exact ⟨RegsOnly.refl _ _ _, rfl, fun j hj => absurd hj (by omega)⟩
    | succ k ih =>
      obtain ⟨i1, i2, i3⟩ := ih
      rw [List.range_succ, List.foldl_append]
      simp only [List.foldl_cons, List.foldl_nil]
      generalize (List.range k).foldl w s.g = p at i1 i2 i3 ⊢
      have hb : block d (k + 1) = block d k ++ [d.toNat + k] := by
        simp [block, List.range_succ]
      refine ⟨?_, ?_, ?_⟩
      · rw [hb]
        exact i1.trans (Group.setV_regsOnly p _ _ _ _ [] [d.toNat + k] (by simp))
      · simp only [w, Group.gstat_setV]; exact i2
      · intro j hj hx
        by_cases e : j = k
        · subst e
          simp only [w]
          have hv : p.vreg (d.toNat + j) = s.g.vreg (d.toNat + j) := i1.v _ (by simp [block])
          have e1 : ∀ g : Group, (g.setV (d.toNat + j) s.g.xm (fun l => f s.g (96 * j + l))
              (s.g.vreg a.toNat).tag).vreg (d.toNat + j) = ⟨(s.g.vreg a.toNat).tag, laneList.map fun l =>
                if s.g.xm.getLsbD l then f s.g (96 * j + l) else (g.vreg (d.toNat + j)).lanes.getD l 0⟩ := by
            intro g
            unfold Group.setV
            rw [if_neg hx]
            exact AMap.get_put_self _ _ _ _
          rw [e1, e1, hv]
        · simp only [w]
          rw [Group.vreg_setV_ne _ _ _ _ _ _ (by omega)]
          exact i3 j (by omega) hx
  obtain ⟨k1, k2, k3⟩ := key k
  obtain ⟨t, h1, h2, _, h4⟩ := performG_pure (f := fun g => (List.range k).foldl (fun g' j =>
      g'.setV (d.toNat + j) g.xm (fun l => f g (96 * j + l)) (g.vreg a.toNat).tag) g) h k1 k2
  refine ⟨t, h1, fun j hj => ?_, h2⟩
  unfold WroteLanes
  by_cases hx : s.g.xm = 0
  · rw [if_pos hx, h4]
    have e : ∀ (ls : List Nat) (g : Group), ls.foldl (fun g' j =>
        g'.setV (d.toNat + j) s.g.xm (fun l => f s.g (96 * j + l)) (s.g.vreg a.toNat).tag) g = g := by
      intro ls
      induction ls with
      | nil => intro g; rfl
      | cons j ls ih =>
        intro g
        rw [List.foldl_cons, ih]
        unfold Group.setV
        rw [if_pos hx]
    exact congrArg (fun g : Group => g.vreg (d.toNat + j)) (e _ _)
  · rw [if_neg hx]
    exact wroteLanes_of (h := s.g) hx ((h4 _).trans (k3 j hj hx)) rfl fun _ _ _ => rfl

end Sys2Proof.Machine
end

