-- ==== Sys2Proof/Laws/Forms.lean ====
section
/-! SUPPORT. From how a meaning runs to the form in which claims about its family are stated. -/

namespace Sys2Proof.Claim

open Machine

theorem flags_or_zero (z : Flags) : z ||| (0 : Flags) = z := by simp

theorem foldl_or_zero (ls : List Nat) (x : Flags) : ls.foldl (fun (a : Flags) (_ : Nat) => a ||| 0) x = x := by
  induction ls generalizing x with
  | nil => rfl
  | cons l ls ih => rw [List.foldl_cons, flags_or_zero]; exact ih x

/-- No lane and no shared computation raises a flag. -/
theorem orLanes_none (g : Group) : g.orLanes (fun _ => 0) 0 = 0 := by
  unfold Group.orLanes
  rw [foldl_or_zero]
  simp

theorem noTrap_zero (g : Group) : NoTrap g 0 := by right; simp

/-- An element-wise instruction on v(a) and B with flags of its own. -/
theorem vecF2_of {i : Instr} {d a : BitVec 7} {b : Src} {ea eb tag : BitVec 4}
    {f : Group → Word → Word → Word × Flags} {count : Option (Nat × Nat)}
    (hi : ∀ s, exec i s = vec2 i d a b ea eb tag f count s) : VecF2 i d a b ea eb tag f count := by
  intro s h hn
  obtain ⟨t, h1, h2, h3⟩ := vecRun_ran (i := i) (n := info2 d a b ea eb) (d := d.toNat) (tag := fun _ => tag)
    (lane := fun g l => lane2 g a b ea eb f l) (shared := fun g => g.bshared b eb) (count := count) h hn
  exact ⟨t, (hi s).trans h1, h2, h3⟩

/-- An element-wise instruction on v(a) alone with flags of its own. -/
theorem vecF1_of {i : Instr} {d a : BitVec 7} {ea tag : BitVec 4} {f : Group → Word → Word × Flags}
    {count : Option (Nat × Nat)} (hi : ∀ s, exec i s = vec1 i d a ea tag f count s) : VecF1 i d a ea tag f count := by
  intro s h hn
  obtain ⟨t, h1, h2, h3⟩ := vecRun_ran (i := i)
    (n := { vr := [a.toNat], vw := [d.toNat], tags := [(.v a.toNat, ea)] }) (d := d.toNat)
    (tag := fun _ => tag) (lane := fun g l => lane1 g a ea f l) (shared := fun _ => 0) (count := count) h hn
  exact ⟨t, (hi s).trans h1, h2, h3⟩

/-- An element-wise instruction on v(a) and B whose result is a relation of its operands. -/
theorem vec2_of {i : BitVec 7 → BitVec 7 → Src → Instr} {ea eb tag : BitVec 4} {f : Group → Word → Word → Word × Flags}
    {r : Word → Word → Word → Prop} (hi : ∀ d a b s, exec (i d a b) s = vec2 (i d a b) d a b ea eb tag f none s)
    (hf : ∀ g x y, (f g x y).2 = 0) (hr : ∀ g x y, r x y (f g x y).1) : Vec2 i ea eb r tag := by
  intro s d a b h x y fl hn
  have e : (fun l => (lane2 s.g a b ea eb f l).2) = fun l => (x l).2 ||| (y l).2 := by
    funext l
    show _ ||| _ ||| (f s.g (x l).1 (y l).1).2 = _
    rw [hf, flags_or_zero]
  obtain ⟨t, h1, h2, h3⟩ := vecF2_of (hi d a b) s h (by rw [e]; exact hn)
  rw [e] at h3
  exact ⟨t, _, h1, h2, fun l _ _ => hr s.g _ _, h3⟩

/-- An element-wise instruction on v(a) alone whose result is a relation of its operand. -/
theorem vec1_of {i : BitVec 7 → BitVec 7 → Instr} {ea tag : BitVec 4} {f : Group → Word → Word × Flags}
    {r : Word → Word → Prop} (hi : ∀ d a s, exec (i d a) s = vec1 (i d a) d a ea tag f none s)
    (hf : ∀ g x, (f g x).2 = 0) (hr : ∀ g x, r x (f g x).1) : Vec1 i ea r tag := by
  intro s d a h x fl hn
  have e : (fun l => (lane1 s.g a ea f l).2) = fun l => (x l).2 := by
    funext l
    show _ ||| (f s.g (x l).1).2 = _
    rw [hf, flags_or_zero]
  obtain ⟨t, h1, h2, h3⟩ := vecF1_of (hi d a) s h (by rw [e]; exact hn)
  rw [e] at h3
  exact ⟨t, _, h1, h2, fun l _ _ => hr s.g _, h3⟩

/-- An element-wise instruction that raises no flag. -/
theorem moves_of {i : Instr} {n : Info} {d : BitVec 7} {tag : Group → BitVec 4} {val : Group → Nat → Word}
    (hi : ∀ s, exec i s = vecRun i n d.toNat tag (fun g l => (val g l, 0)) (fun _ => 0) none s) :
    Moves i n d tag val := by
  intro s h
  obtain ⟨t, h1, h2, h3⟩ := vecRun_ran (i := i) (n := n) (d := d.toNat) (tag := tag)
    (lane := fun g l => (val g l, 0)) (shared := fun _ => 0) (count := none) h
    (by dsimp only; rw [orLanes_none]; exact noTrap_zero _)
  dsimp only at h3
  rw [orLanes_none] at h3
  exact ⟨t, (hi s).trans h1, h2, h3⟩

theorem lanes_of {i : Instr} {n : Info} {d : BitVec 7} {tag : Group → BitVec 4} {lane : Group → Nat → Word × Flags}
    {shared : Group → Flags} {count : Option (Nat × Nat)}
    (hi : ∀ s, exec i s = vecRun i n d.toNat tag lane shared count s) : Lanes i n d tag lane shared count := by
  intro s h hn
  obtain ⟨t, h1, h2, h3⟩ := vecRun_ran (d := d.toNat) (tag := tag) (count := count) h hn
  exact ⟨t, (hi s).trans h1, h2, h3⟩

theorem compares_of {i : Instr} {n : Info} {d : BitVec 6} {lane : Group → Nat → Bool × Flags} {shared : Group → Flags}
    {count : Option (Nat × Nat)} (hi : ∀ s, exec i s = cmpRun i n d lane shared count s) :
    Compares i n d lane shared count := by
  intro s h hn
  obtain ⟨t, h1, h2, h3⟩ := cmpRun_ran (count := count) h hn
  exact ⟨t, (hi s).trans h1, h2, h3⟩

theorem lateLanes_of {i : Instr} {n : Info} {d : BitVec 7} {tag : BitVec 4} {lane : Group → Nat → Word × Flags}
    {shared : Group → Flags} {count : Option (Nat × Nat)}
    (hi : ∀ s, exec i s = vecLate i n d.toNat (fun _ => tag) lane shared count s) :
    LateLanes i n d tag lane shared count := by
  intro s h hn
  obtain ⟨t, h1, h2⟩ := vecLate_started (d := d.toNat) (tag := fun _ => tag) (count := count) h hn
  exact ⟨t, (hi s).trans h1, h2⟩

theorem pairs_of {i : Instr} {n : Info} {d : BitVec 7} {lane : Group → Nat → PairRes} {shared : Group → Flags}
    (hi : ∀ s, exec i s = pairRun i n d lane shared s) : Pairs i n d lane shared := by
  intro s h hn
  obtain ⟨t, h1, h2⟩ := pairRun_ran h hn
  exact ⟨t, (hi s).trans h1, h2⟩

theorem latePairs_of {i : Instr} {n : Info} {d : BitVec 7} {lane : Group → Nat → PairRes} {shared : Group → Flags}
    (hi : ∀ s, exec i s = pairLate i n d lane shared s) : LatePairs i n d lane shared := by
  intro s h hn
  obtain ⟨t, h1, h2⟩ := pairLate_started h hn
  exact ⟨t, (hi s).trans h1, h2⟩

theorem lateRun_of {i : Instr} {n : Info} {evs : Group → List FlagEvent} {w : Group → List RegWrite}
    {cnt : Group → List (Nat × Nat)} {body : State → Res} (hi : ∀ s, exec i s = perform i n body s)
    (h0 : ∀ s : State, s.g.xm = 0 → body s = .done s .seq)
    (h1 : ∀ s : State, s.g.xm ≠ 0 → body s = lateWrites s (evs s.g) (w s.g) (cnt s.g)) : LateRun i n evs w cnt := by
  intro s h hn
  obtain ⟨t, e1, e2⟩ := late_started (body := body) h (h0 s) (h1 s) hn fun _ => rfl
  exact ⟨t, (hi s).trans e1, e2⟩

end Sys2Proof.Claim
end

