-- ==== Sys2Proof/Laws/Access.lean ====
section
/-! SUPPORT. What the issue of an access to memory does, and instructions whose effect is stated whole. -/

namespace Sys2Proof.Claim

open Machine

/-- An instruction whose effect is done retires: the claim form. -/
theorem did_of {i : Instr} {n : Info} {body : State → Res} {s u : State} {f : Flow}
    (hi : exec i s = perform i n body s) (h : Issues i n s) (hb : body s = .done u f)
    (hc : u.g.clause = s.g.clause) (hp : u.g.pc = s.g.pc) (hw : u.g.word = s.g.word)
    (hm : ∀ a, u.byte a = s.byte a) : ∃ t, exec i s = .next t ∧ Did i f s u t :=
  ⟨_, hi.trans (perform_next h hb), State.retire_retired s u i n f hc hp hw, hm⟩

theorem filterMap_nil_of {α β : Type} (l : List α) (f : α → Option β) (h : ∀ x ∈ l, f x = none) :
    l.filterMap f = [] := by
  induction l with
  | nil => rfl
  | cons x l ih =>
    rw [List.filterMap_cons_none (h x (by simp))]
    exact ih fun y hy => h y (by simp [hy])

theorem filter_nil_of {α : Type} (l : List α) (f : α → Bool) (h : ∀ x ∈ l, f x = false) : l.filter f = [] := by
  induction l with
  | nil => rfl
  | cons x l ih =>
    rw [List.filter_cons_of_neg (by rw [h x (by simp)]; simp)]
    exact ih fun y hy => h y (by simp [hy])

theorem any_false_of {α : Type} (l : List α) (f : α → Bool) (h : ∀ x ∈ l, f x = false) : l.any f = false := by
  induction l with
  | nil => rfl
  | cons x l ih =>
    rw [List.any_cons, h x (by simp), ih fun y hy => h y (by simp [hy])]
    rfl

theorem okLanes_mem {l : List ReqLane} {y : LaneAcc} (h : y ∈ okLanes l) :
    ∃ x ∈ l, ∃ va key, x.res = .ok va key ∧ y = x.acc va key := by
  unfold okLanes at h
  rw [List.mem_filterMap] at h
  obtain ⟨x, hx, hy⟩ := h
  split at hy
  · next va key e => exact ⟨x, hx, va, key, e, (Option.some.inj hy).symm⟩
  · exact absurd hy (by simp)

/-- What a claim says of one entry that passes. -/
def passes (s : State) (r : Req) (x : ReqLane) : Prop :=
  match x.res with
  | .ok va key => isPeer key = false ∧
      (if r.op.returns then s.logOverlaps s.cur va r.size = false else s.logLine s.cur va = false)
  | .fail _ _ => r.op.writes = false ∧ s.g.helper.getLsbD x.lane = true
  | .absent _ _ => r.op.writes = false ∧ s.g.helper.getLsbD x.lane = true
  | _ => False

theorem missPages_nil {s : State} {r : Req} {l : List ReqLane} (h : ∀ x ∈ l, passes s r x) : missPages l = [] := by
  unfold missPages
  rw [filterMap_nil_of l]
  · rfl
  · intro x hx
    have := h x hx
    unfold passes at this
    split at this <;> simp_all

theorem anyHeld_false {s : State} {r : Req} {l : List ReqLane} (h : ∀ x ∈ l, passes s r x) : anyHeld l = false := by
  unfold anyHeld
  refine any_false_of _ _ fun x hx => ?_
  have := h x hx
  unfold passes at this
  split at this <;> simp_all

theorem badLanes_nil {s : State} {r : Req} {l : List ReqLane} {loads pager : Bool} {helper : LaneMask}
    (hh : helper = s.g.helper ∨ ∀ x ∈ l, ∃ va key, x.res = .ok va key) (h : ∀ x ∈ l, passes s r x) :
    badLanes loads pager helper l = [] := by
  unfold badLanes
  refine filter_nil_of _ _ fun x hx => ?_
  rcases hh with rfl | hk
  · have := h x hx
    unfold passes at this
    split at this <;> simp_all
  · obtain ⟨va, key, e⟩ := hk x hx
    rw [e]
    simp

theorem goneLanes_eq (l : List ReqLane) : goneLanes true l = l.filter LaneMissed := by
  unfold goneLanes
  refine List.filter_congr fun x _ => ?_
  unfold LaneMissed
  cases x.res <;> rfl

theorem okLanes_passes {s : State} {r : Req} {l : List ReqLane} (h : ∀ x ∈ l, passes s r x) :
    ∀ y ∈ okLanes l, isPeer y.key = false ∧
      (if r.op.returns then s.logOverlaps s.cur y.va r.size = false else s.logLine s.cur y.va = false) := by
  intro y hy
  obtain ⟨x, hx, va, key, e, rfl⟩ := okLanes_mem hy
  have := h x hx
  unfold passes at this
  rw [e] at this
  exact this

/-- Issue, for a load or a returning atomic whose entries all pass. -/
theorem issue_returns {s : State} {r : Req} {l : List ReqLane} {zeros : LaneMask} (hr : r.op.returns = true)
    (hh : r.scalar = false ∧ r.helpers = false ∨ ∀ x ∈ l, ∃ va key, x.res = .ok va key)
    (h : ∀ x ∈ l, passes s r x) :
    s.issue r l zeros = .done (s.putAccess r (okLanes l)
      (zeros ||| laneMask ((l.filter LaneMissed).map fun x => x.lane))) .seq := by
  have hb : badLanes r.op.returns (s.isPager s.cur) (if r.scalar || r.helpers then 0 else s.g.helper) l = [] := by
    refine badLanes_nil ?_ h
    rcases hh with ⟨h1, h2⟩ | hk
    · left; rw [h1, h2]; rfl
    · exact .inr hk
  have hok := okLanes_passes h
  rw [hr] at hok
  unfold State.issue
  dsimp only
  rw [missPages_nil h, hb]
  dsimp only
  rw [hr, goneLanes_eq]
  unfold State.issueLoad
  dsimp only
  rw [anyHeld_false h, any_false_of (okLanes l) _ fun y hy => (hok y hy).2,
    filter_nil_of (okLanes l) _ fun y hy => (hok y hy).1]
  rfl

theorem logLanes_nil {s : State} {r : Req} {l : List ReqLane} (hr : r.op.returns = false) (hw : r.op.writes = true)
    (h : ∀ x ∈ l, passes s r x) : s.logLanes l = [] := by
  unfold State.logLanes
  refine filterMap_nil_of _ _ fun x hx => ?_
  have := h x hx
  unfold passes at this
  split at this <;> simp_all

theorem absentLanes_nil {s : State} {r : Req} {l : List ReqLane} (hw : r.op.writes = true)
    (h : ∀ x ∈ l, passes s r x) : absentLanes l = [] := by
  unfold absentLanes
  refine filterMap_nil_of _ _ fun x hx => ?_
  have := h x hx
  unfold passes at this
  split at this <;> simp_all

/-- Issue, for a store or a reduction whose entries all pass. -/
theorem issue_stores {s : State} {r : Req} {l : List ReqLane} {zeros : LaneMask} (hr : r.op.returns = false)
    (hw : r.op.writes = true) (h : ∀ x ∈ l, passes s r x) :
    s.issue r l zeros = .done (s.putWrites r (okLanes l)) .seq := by
  have hk : ∀ x ∈ l, ∃ va key, x.res = .ok va key := by
    intro x hx
    have := h x hx
    unfold passes at this
    split at this
    · next va key e => exact ⟨va, key, e⟩
    · exact absurd this.1 (by rw [hw]; simp)
    · exact absurd this.1 (by rw [hw]; simp)
    · exact this.elim
  have hok := okLanes_passes h
  unfold State.issue
  dsimp only
  rw [missPages_nil h, badLanes_nil (.inr hk) h]
  dsimp only
  rw [hr]
  unfold State.issueStore
  dsimp only
  rw [logLanes_nil hr hw h, absentLanes_nil hw h]
  have hf : (okLanes l).filter (fun x => !(([] : List LaneAcc).any fun y => y.lane == x.lane && y.va == x.va)) =
      okLanes l := by
    rw [List.filter_eq_self]
    intro x _
    rfl
  have he : logEntries s.g.ctx s.cur r s.g.site s.fresh [] (blockedLines l) = [] := rfl
  rw [hf, he, filter_nil_of (okLanes l) _ fun y hy => (hok y hy).1, anyHeld_false h, Bool.and_false]
  simp only [List.isEmpty_nil, Bool.and_self, Bool.not_true, Bool.and_false]
  rfl

/-- What the reads of a walk may change of the group that issues: the request that a line holds for it. -/
structure Walked (s t : State) : Prop where
  cur : t.cur = s.cur
  mem : t.mem = s.mem
  g : ∃ h, t.g = { s.g with walkHeld := h }

theorem Walked.rfl {s : State} : Walked s s := ⟨Eq.refl _, Eq.refl _, _, Eq.refl _⟩

theorem Walked.trans {s t u : State} (x : Walked s t) (y : Walked t u) : Walked s u := by
  obtain ⟨h, e⟩ := x.g
  obtain ⟨k, f⟩ := y.g
  exact ⟨y.cur.trans x.cur, y.mem.trans x.mem, k, by rw [f, e]⟩

theorem Walked.of_groups {s t : State} (h1 : t.cur = s.cur) (h2 : t.mem = s.mem) (h3 : t.groups = s.groups) :
    Walked s t := by
  refine ⟨h1, h2, s.g.walkHeld, ?_⟩
  unfold State.g State.group
  rw [h1, h3]

theorem walked_buckets (l : List ReuseReg) (s : State) :
    Walked s (l.foldl (fun s r => s.addBucket r.ctx r.slot (min 31 (Nat.log2 (r.d + 1)))) s) := by
  induction l generalizing s with
  | nil => exact .rfl
  | cons r l ih =>
    exact (Walked.of_groups (s := s) (t := s.addBucket r.ctx r.slot (min 31 (Nat.log2 (r.d + 1)))) (Eq.refl _) (Eq.refl _)
      (Eq.refl _)).trans (ih _)

theorem walked_reuseSeen (s : State) (line : Nat) : Walked s (s.reuseSeen line) := by
  unfold State.reuseSeen
  split
  · exact .rfl
  · exact (walked_buckets _ s).trans (.of_groups (Eq.refl _) (Eq.refl _) (Eq.refl _))

theorem walked_l2Serve (s : State) (line : Nat) : Walked s (s.l2Serve line) := by
  unfold State.l2Serve
  dsimp only
  split
  · exact walked_reuseSeen s line
  · split <;> exact (walked_reuseSeen s line).trans (.of_groups (Eq.refl _) (Eq.refl _) (Eq.refl _))

theorem walked_dropHeld (s : State) (line : Nat) (r : Nat × Nat) : Walked s (s.dropHeld line r) := by
  have key : Walked s (s.modGroup r.1 fun g => { g with walkHeld := none }) := by
    refine ⟨Eq.refl _, Eq.refl _, ?_⟩
    by_cases h : s.cur = r.1
    · refine ⟨none, ?_⟩
      unfold State.g
      rw [show (s.modGroup r.1 fun g => { g with walkHeld := none }).cur = s.cur from Eq.refl _, ← h]
      exact State.group_setGroup_self _ _ _
    · exact ⟨s.g.walkHeld, State.group_setGroup_ne _ _ _ _ h⟩
  unfold State.dropHeld
  split
  · exact .rfl
  · split
    · exact .rfl
    · dsimp only
      split
      · exact key.trans (.of_groups (Eq.refl _) (Eq.refl _) (Eq.refl _))
      · exact .of_groups (Eq.refl _) (Eq.refl _) (Eq.refl _)

theorem walked_meetPins {s t : State} {c : Nat} {r : Nat × Nat} {k n : Nat} (h : s.meetPins c r k n = .served t) :
    Walked s t := by
  unfold State.meetPins at h
  dsimp only at h
  split at h
  · cases h; exact .rfl
  · split at h
    · split at h <;> cases h
    · split at h
      · cases h
      · split at h
        · cases h; exact walked_dropHeld _ _ _
        · split at h <;> cases h

/-- Reads that all end keep what issues. -/
theorem walked_readReach (as : List Nat) {s t : State} {c : Nat} {r : Nat × Nat} {n : Nat}
    (h : s.readReach c r n as = .served t) : Walked s t := by
  induction as generalizing s with
  | nil => cases h; exact .rfl
  | cons a as ih =>
    unfold State.readReach at h
    split at h
    · next u hu =>
      split at h
      · cases h
      · exact ((walked_meetPins hu).trans
          ((Walked.of_groups (s := u) (t := u.flit (pathTo c a)) (Eq.refl _) (Eq.refl _) (Eq.refl _)).trans
            (walked_l2Serve _ _))).trans (ih h)
    · next m hm => exact absurd h (hm t)

theorem walked_walkMade (s : State) (k : Nat) (reads : List Nat) : Walked s (s.walkMade k reads) := by
  unfold State.walkMade
  split
  · next t h =>
    unfold State.tryWalk at h
    split at h
    · cases h
    · split at h
      · cases h
      · exact walked_readReach reads h
  · exact .rfl

/-- What a fetch of base registers may change of the state at the issue of an access. -/
def Refreshes (refresh : State → State) : Prop :=
  ∀ s, (refresh s).cur = s.cur ∧ (refresh s).mem = s.mem ∧
    ∃ b h, (refresh s).g = { s.g with b := b, walkHeld := h }

theorem refreshes_id : Refreshes id := fun _ => ⟨rfl, rfl, _, _, rfl⟩

theorem refreshes_freshBase (n : Nat) : Refreshes fun s => s.freshBase s.cur n := by
  intro s
  dsimp only
  unfold State.freshBase
  dsimp only
  split
  · obtain ⟨h1, h2, h, h3⟩ := walked_walkMade s s.cur (s.baseReads (s.group s.cur).ctx ((s.group s.cur).base n).vb)
    refine ⟨h1, h2, ?_⟩
    generalize s.walkMade s.cur _ = t at h1 h2 h3 ⊢
    have e : ∀ f : Group → Group, (t.modGroup s.cur f).g = f t.g := by
      intro f
      rw [← h1]
      exact AMap.get_put_self _ _ _ _
    unfold State.countEvent
    rw [State.modCore, State.g_setCore, e, h3]
    exact ⟨_, _, rfl⟩
  · exact ⟨rfl, rfl, _, _, rfl⟩

/-- What the issue of an access keeps of the group that issues and of memory, and that its group is written down. -/
structure Kept (u v : State) : Prop where
  cur : v.cur = u.cur
  mem : v.mem = u.mem
  clause : v.g.clause = u.g.clause
  pc : v.g.pc = u.g.pc
  word : v.g.word = u.g.word
  trapMode : v.g.trapMode = u.g.trapMode
  gstat : v.g.gstat = u.g.gstat
  whole : v.setG v.g = v

theorem Kept.trans {u v w : State} (x : Kept u v) (y : Kept v w) : Kept u w :=
  ⟨y.cur.trans x.cur, y.mem.trans x.mem, y.clause.trans x.clause, y.pc.trans x.pc, y.word.trans x.word,
    y.trapMode.trans x.trapMode, y.gstat.trans x.gstat, y.whole⟩

theorem kept_setG (u : State) (g : Group) (h1 : g.clause = u.g.clause) (h2 : g.pc = u.g.pc) (h3 : g.word = u.g.word)
    (h4 : g.trapMode = u.g.trapMode) (h5 : g.gstat = u.g.gstat) : Kept u (u.setG g) :=
  ⟨rfl, rfl, by rw [State.g_setG, h1], by rw [State.g_setG, h2], by rw [State.g_setG, h3], by rw [State.g_setG, h4],
    by rw [State.g_setG, h5], by rw [State.g_setG, State.setG_setG]⟩

theorem kept_setCore {u v : State} (h : Kept u v) (c : Nat) (x : Core) : Kept u (v.setCore c x) :=
  ⟨h.cur, h.mem, h.clause, h.pc, h.word, h.trapMode, h.gstat, congrArg (fun w => w.setCore c x) h.whole⟩

theorem kept_modGroup {u v : State} (h : Kept u v) (f : Group → Group) (h1 : ∀ g, (f g).clause = g.clause)
    (h2 : ∀ g, (f g).pc = g.pc) (h3 : ∀ g, (f g).word = g.word) (h4 : ∀ g, (f g).trapMode = g.trapMode)
    (h5 : ∀ g, (f g).gstat = g.gstat) : Kept u (v.modGroup u.cur f) := by
  rw [← h.cur]
  exact h.trans (kept_setG _ _ (h1 _) (h2 _) (h3 _) (h4 _) (h5 _))

theorem kept_demote {u v : State} (h : Kept u v) : Kept u (v.demote u.cur) := by
  unfold State.demote
  split
  · refine kept_setCore (kept_modGroup h _ ?_ ?_ ?_ ?_ ?_) _ _ <;> exact fun _ => rfl
  · exact kept_modGroup h _ (fun _ => rfl) (fun _ => rfl) (fun _ => rfl) (fun _ => rfl) fun _ => rfl
  · exact h

theorem kept_unlock {u v : State} (h : Kept u v) : Kept u (v.unlock u.cur) := by
  have h1 := kept_modGroup h (fun g => { g with lockDepth := (v.group u.cur).lockDepth - 1 }) (fun _ => rfl)
    (fun _ => rfl) (fun _ => rfl) (fun _ => rfl) fun _ => rfl
  unfold State.unlock
  dsimp only
  split
  · unfold State.leaveClass
    dsimp only
    have h2 := kept_modGroup h1 (fun g => { g with classes := g.classes.filter (· != .lock) }) (fun _ => rfl)
      (fun _ => rfl) (fun _ => rfl) (fun _ => rfl) fun _ => rfl
    split
    · exact kept_modGroup (kept_demote h2) _ (fun _ => rfl) (fun _ => rfl) (fun _ => rfl) (fun _ => rfl) fun _ => rfl
    · exact h2
  · exact h1

theorem kept_putAccess (u : State) (r : Req) (l : List LaneAcc) (z : LaneMask) : Kept u (u.putAccess r l z) := by
  have key (g : Group) (h1 : g.clause = u.g.clause) (h2 : g.pc = u.g.pc) (h3 : g.word = u.g.word)
      (h4 : g.trapMode = u.g.trapMode) (h5 : g.gstat = u.g.gstat) : Kept u (u.bump.setG g) := by
    have h := kept_setG u.bump g h1 h2 h3 h4 h5
    exact ⟨h.cur, h.mem, h.clause, h.pc, h.word, h.trapMode, h.gstat, h.whole⟩
  unfold State.putAccess
  dsimp only
  apply key <;> cases r.counter <;> rfl

theorem kept_putWrites (u : State) (r : Req) (l : List LaneAcc) : Kept u (u.putWrites r l) := by
  unfold State.putWrites
  split
  · exact kept_unlock (kept_putAccess u _ l 0)
  · exact kept_putAccess u r l 0

/-- An access in flight, as a claim names it. -/
theorem kept_issued (u : State) (r : Req) (l m : List LaneAcc) (z : LaneMask) :
    Kept u (if r.op.returns then u.putAccess r l z else u.putWrites r m) := by
  split
  · exact kept_putAccess u r l z
  · exact kept_putWrites u r m

/-- Setting the flags of an issued access. -/
theorem withGstat_of {u v : State} {fl gs : Flags} (h : Kept u v)
    (hg : gs = if u.g.trapMode then u.g.gstat else u.g.gstat ||| fl) :
    v.modGroup v.cur (fun g => { g with gstat := gs }) = withGstat v fl := by
  unfold withGstat State.modGroup
  rw [h.trapMode, h.gstat, hg]
  rfl

theorem raisedFlags_congr {g h : Group} (e : g.helper = h.helper) (evs : List FlagEvent) :
    g.raisedFlags evs = h.raisedFlags evs := by
  unfold Group.raisedFlags Group.raised
  rw [e]

/-- The spec of a vector access: its issue, where its entries pass. -/
theorem accesses_of {i : Instr} {n : Info} {r : Req} {turned : State → Option State} {refresh : State → State}
    {entries : State → Nat → List Entry} {evs : Group → List FlagEvent}
    (hi : ∀ s, exec i s = vecAccess i n r turned refresh entries evs s)
    (hf : Refreshes refresh) (hs : r.scalar = false ∧ r.helpers = false)
    (hrw : r.op.returns = true ∨ r.op.writes = true) : Accesses i n r turned refresh entries evs := by
  intro s h
  refine ⟨fun hx => ?_, fun hx hw hn hp => ?_⟩
  · refine did_of (u := match r.counter with
        | none => s
        | some c => s.bump.setG
          { s.g.raiseCounter c with
            results := s.g.results ++ [{ id := s.fresh, kind := r.op.kind, writes := [], counter := some c }] })
      (hi s) h ?_ ?_ ?_ ?_ ?_
    · dsimp only
      rw [if_pos hx]
      unfold State.issueEmpty
      cases r.counter <;> rfl
    all_goals
      cases r.counter
      · first | rfl | exact fun _ => rfl
      · dsimp only
        first
          | exact fun _ => rfl
          | (rw [State.g_setG]; rfl)
  · obtain ⟨f1, f2, b, wh, f3⟩ := hf s
    have hxm : (refresh s).g.xm = s.g.xm := by rw [f3]; rfl
    have hhe : (refresh s).g.helper = s.g.helper := by rw [f3]
    have ht : (refresh s).g.trapMode = s.g.trapMode := by rw [f3]
    have hten : (refresh s).g.ten = s.g.ten := by rw [f3]; rfl
    have hset : ∃ g', (refresh s).g.settle (evs s.g) (refresh s).g = .ok g' ∧
        g'.gstat = if (refresh s).g.trapMode then (refresh s).g.gstat
          else (refresh s).g.gstat ||| s.g.raisedFlags (evs s.g) := by
      refine ⟨_, Group.settle_ok _ _ _ ?_, ?_⟩
      rotate_left
      · rw [raisedFlags_congr hhe]
        split <;> rfl
      rw [raisedFlags_congr hhe]
      unfold NoTrap at hn ⊢
      rw [ht, hten]
      exact hn
    obtain ⟨g', hset, hgst⟩ := hset
    have hl : entriesOf (refresh s) r entries =
        ((lanesOf (if r.op.writes then s.g.xm &&& ~~~s.g.helper else s.g.xm)).flatMap fun l =>
          (entries (refresh s) l).map fun e =>
            { lane := l, res := e.res, data := e.data, b := e.b, c := e.c : ReqLane }) := by
      unfold entriesOf takesPart
      rw [hxm, hhe]
    refine did_of (u := Issued (refresh s) r entries (s.g.raisedFlags (evs s.g))) (hi s) h ?_ ?_ ?_ ?_ ?_
    · dsimp only
      rw [if_neg hx, hw]
      dsimp only
      unfold issueWith
      rw [hset]
      dsimp only
      rw [← hl]
      have hp' : ∀ x ∈ entriesOf (refresh s) r entries, passes (refresh s) r x := hp
      unfold Issued
      rcases Bool.eq_false_or_eq_true r.op.returns with hr | hr
      · rw [issue_returns hr (.inl hs) hp', if_pos hr, hxm, hhe]
        dsimp only
        rw [withGstat_of (kept_putAccess _ _ _ _) hgst]
      · rw [issue_stores hr (hrw.resolve_left (by rw [hr]; simp)) hp', if_neg (by rw [hr]; simp)]
        dsimp only
        rw [withGstat_of (kept_putWrites _ _ _) hgst]
    all_goals unfold Issued withGstat
    · rw [State.g_setG]; dsimp only; rw [(kept_issued _ _ _ _ _).clause, f3]
    · rw [State.g_setG]; dsimp only; rw [(kept_issued _ _ _ _ _).pc, f3]
    · rw [State.g_setG]; dsimp only; rw [(kept_issued _ _ _ _ _).word, f3]
    · intro a
      unfold State.byte
      rw [State.setG_mem, (kept_issued _ _ _ _ _).mem, f2]

/-- The issue of one entry that passes. -/
theorem issue_one {s : State} {r : Req} {e : Entry} {va key : Nat} (hrw : r.op.returns = true ∨ r.op.writes = true)
    (he : e.res = .ok va key) (hp : isPeer key = false)
    (ho : if r.op.returns then s.logOverlaps s.cur va r.size = false else s.logLine s.cur va = false) :
    s.issue r [{ lane := 0, res := e.res, data := e.data, b := e.b, c := e.c }] 0 =
      .done (let one := [{ lane := 0, va := va, key := key, data := e.data, b := e.b, c := e.c }]
        if r.op.returns then s.putAccess r one 0 else s.putWrites r one) .seq := by
  have h : ∀ x ∈ [({ lane := 0, res := e.res, data := e.data, b := e.b, c := e.c } : ReqLane)], passes s r x := by
    intro x hx
    obtain rfl := List.mem_singleton.1 hx
    unfold passes
    rw [he]
    exact ⟨hp, ho⟩
  have hk : okLanes [({ lane := 0, res := e.res, data := e.data, b := e.b, c := e.c } : ReqLane)] =
      [{ lane := 0, va := va, key := key, data := e.data, b := e.b, c := e.c }] := by
    unfold okLanes
    rw [he]
    rfl
  rcases Bool.eq_false_or_eq_true r.op.returns with hr | hr
  · rw [issue_returns hr (.inr fun x hx => ?_) h, hk, he]
    · dsimp only
      rw [if_pos hr]
      have z : (0 : LaneMask) ||| laneMask (([({ lane := 0, res := .ok va key, data := e.data, b := e.b, c := e.c } :
          ReqLane)].filter LaneMissed).map fun x => x.lane) = 0 := by simp [LaneMissed, laneMask]
      rw [z]
    · obtain rfl := List.mem_singleton.1 hx
      exact ⟨va, key, he⟩
  · rw [issue_stores hr (hrw.resolve_left (by rw [hr]; simp)) h, hk]
    dsimp only
    rw [if_neg (by rw [hr]; simp)]

/-- The spec of a scalar access. -/
theorem scalarAccess_of {i : Instr} {n : Info} {req : Group → Req} {entry : State → Entry}
    (hi : ∀ s : State, exec i s = perform i { n with access := true, counter := (req s.g).counter } (fun s =>
      s.issue (req s.g)
        [{ lane := 0, res := (entry s).res, data := (entry s).data, b := (entry s).b, c := (entry s).c }] 0) s)
    (hrw : ∀ g, (req g).op.returns = true ∨ (req g).op.writes = true) : ScalarAccess i n req entry := by
  intro s va key r h he hp ho
  have k := kept_issued s r [{ lane := 0, va := va, key := key, data := (entry s).data, b := (entry s).b, c := (entry s).c }]
    [{ lane := 0, va := va, key := key, data := (entry s).data, b := (entry s).b, c := (entry s).c }] 0
  refine did_of (hi s) h (issue_one (hrw s.g) he hp ho) k.clause k.pc k.word fun a => ?_
  unfold State.byte
  exact congrArg (fun m => AMap.get 0 m a) k.mem

end Sys2Proof.Claim
end

