-- ==== Sys2Proof/Laws/Encoding.lean ====
section
/-! SUPPORT. The fields of an encoded word, format by format, and what the decoder answers for a word of each format. -/

namespace Sys2Proof.Laws

/-- The low bits of two joined fields. -/
theorem append_lo {n m : Nat} (x : BitVec n) (y : BitVec m) : (x ++ y).extractLsb' 0 m = y := by
  ext i hi; simp [BitVec.getLsbD_append, hi]

/-- Bits above the low field of two joined fields. -/
theorem append_hi {n m : Nat} (x : BitVec n) (y : BitVec m) (k w : Nat) :
    (x ++ y).extractLsb' (m + k) w = x.extractLsb' k w := by
  ext i hi
  simp [BitVec.getLsbD_append, show ¬ m + k + i < m by omega, show m + k + i - m = k + i by omega]

/-- All bits of a field. -/
theorem all_bits {n : Nat} (x : BitVec n) : x.extractLsb' 0 n = x := by
  ext i hi; simp
/-- The fields of packSR. -/
theorem packSR_fields (m d a b : BitVec 6) (fn : BitVec 8) :
    (packSR m d a b fn).extractLsb' 26 6 = m ∧
    (packSR m d a b fn).extractLsb' 20 6 = d ∧
    (packSR m d a b fn).extractLsb' 14 6 = a ∧
    (packSR m d a b fn).extractLsb' 8 6 = b ∧
    (packSR m d a b fn).extractLsb' 0 8 = fn :=
  ⟨(append_hi (m ++ d ++ a ++ b) fn 18 6).trans ((append_hi (m ++ d ++ a) b 12 6).trans ((append_hi (m ++ d) a 6 6).trans ((append_hi (m) d 0 6).trans (all_bits m)))),
   (append_hi (m ++ d ++ a ++ b) fn 12 6).trans ((append_hi (m ++ d ++ a) b 6 6).trans ((append_hi (m ++ d) a 0 6).trans (append_lo (m) d))),
   (append_hi (m ++ d ++ a ++ b) fn 6 6).trans ((append_hi (m ++ d ++ a) b 0 6).trans (append_lo (m ++ d) a)),
   (append_hi (m ++ d ++ a ++ b) fn 0 6).trans (append_lo (m ++ d ++ a) b),
   append_lo (m ++ d ++ a ++ b) fn⟩

/-- The fields of packEC. -/
theorem packEC_fields (m k s t : BitVec 6) (fl : BitVec 8) :
    (packEC m k s t fl).extractLsb' 26 6 = m ∧
    (packEC m k s t fl).extractLsb' 20 6 = k ∧
    (packEC m k s t fl).extractLsb' 14 6 = s ∧
    (packEC m k s t fl).extractLsb' 8 6 = t ∧
    (packEC m k s t fl).extractLsb' 0 8 = fl :=
  ⟨(append_hi (m ++ k ++ s ++ t) fl 18 6).trans ((append_hi (m ++ k ++ s) t 12 6).trans ((append_hi (m ++ k) s 6 6).trans ((append_hi (m) k 0 6).trans (all_bits m)))),
   (append_hi (m ++ k ++ s ++ t) fl 12 6).trans ((append_hi (m ++ k ++ s) t 6 6).trans ((append_hi (m ++ k) s 0 6).trans (append_lo (m) k))),
   (append_hi (m ++ k ++ s ++ t) fl 6 6).trans ((append_hi (m ++ k ++ s) t 0 6).trans (append_lo (m ++ k) s)),
   (append_hi (m ++ k ++ s ++ t) fl 0 6).trans (append_lo (m ++ k ++ s) t),
   append_lo (m ++ k ++ s ++ t) fl⟩

/-- The fields of packSI. -/
theorem packSI_fields (m d a : BitVec 6) (imm : BitVec 14) :
    (packSI m d a imm).extractLsb' 26 6 = m ∧
    (packSI m d a imm).extractLsb' 20 6 = d ∧
    (packSI m d a imm).extractLsb' 14 6 = a ∧
    (packSI m d a imm).extractLsb' 0 14 = imm :=
  ⟨(append_hi (m ++ d ++ a) imm 12 6).trans ((append_hi (m ++ d) a 6 6).trans ((append_hi (m) d 0 6).trans (all_bits m))),
   (append_hi (m ++ d ++ a) imm 6 6).trans ((append_hi (m ++ d) a 0 6).trans (append_lo (m) d)),
   (append_hi (m ++ d ++ a) imm 0 6).trans (append_lo (m ++ d) a),
   append_lo (m ++ d ++ a) imm⟩

/-- The fields of packVR. -/
theorem packVR_fields (m : BitVec 6) (vd va : BitVec 7) (bs : BitVec 1) (b : BitVec 7) (fn : BitVec 4) :
    (packVR m vd va bs b fn).extractLsb' 26 6 = m ∧
    (packVR m vd va bs b fn).extractLsb' 19 7 = vd ∧
    (packVR m vd va bs b fn).extractLsb' 12 7 = va ∧
    (packVR m vd va bs b fn).extractLsb' 11 1 = bs ∧
    (packVR m vd va bs b fn).extractLsb' 4 7 = b ∧
    (packVR m vd va bs b fn).extractLsb' 0 4 = fn :=
  ⟨(append_hi (m ++ vd ++ va ++ bs ++ b) fn 22 6).trans ((append_hi (m ++ vd ++ va ++ bs) b 15 6).trans ((append_hi (m ++ vd ++ va) bs 14 6).trans ((append_hi (m ++ vd) va 7 6).trans ((append_hi (m) vd 0 6).trans (all_bits m))))),
   (append_hi (m ++ vd ++ va ++ bs ++ b) fn 15 7).trans ((append_hi (m ++ vd ++ va ++ bs) b 8 7).trans ((append_hi (m ++ vd ++ va) bs 7 7).trans ((append_hi (m ++ vd) va 0 7).trans (append_lo (m) vd)))),
   (append_hi (m ++ vd ++ va ++ bs ++ b) fn 8 7).trans ((append_hi (m ++ vd ++ va ++ bs) b 1 7).trans ((append_hi (m ++ vd ++ va) bs 0 7).trans (append_lo (m ++ vd) va))),
   (append_hi (m ++ vd ++ va ++ bs ++ b) fn 7 1).trans ((append_hi (m ++ vd ++ va ++ bs) b 0 1).trans (append_lo (m ++ vd ++ va) bs)),
   (append_hi (m ++ vd ++ va ++ bs ++ b) fn 0 7).trans (append_lo (m ++ vd ++ va ++ bs) b),
   append_lo (m ++ vd ++ va ++ bs ++ b) fn⟩

/-- The fields of packML. -/
theorem packML_fields (m : BitVec 6) (v : BitVec 7) (t : BitVec 2) (o : BitVec 7) (look : BitVec 4) (z q : BitVec 3) :
    (packML m v t o look z q).extractLsb' 26 6 = m ∧
    (packML m v t o look z q).extractLsb' 19 7 = v ∧
    (packML m v t o look z q).extractLsb' 17 2 = t ∧
    (packML m v t o look z q).extractLsb' 10 7 = o ∧
    (packML m v t o look z q).extractLsb' 6 4 = look ∧
    (packML m v t o look z q).extractLsb' 3 3 = z ∧
    (packML m v t o look z q).extractLsb' 0 3 = q :=
  ⟨(append_hi (m ++ v ++ t ++ o ++ look ++ z) q 23 6).trans ((append_hi (m ++ v ++ t ++ o ++ look) z 20 6).trans ((append_hi (m ++ v ++ t ++ o) look 16 6).trans ((append_hi (m ++ v ++ t) o 9 6).trans ((append_hi (m ++ v) t 7 6).trans ((append_hi (m) v 0 6).trans (all_bits m)))))),
   (append_hi (m ++ v ++ t ++ o ++ look ++ z) q 16 7).trans ((append_hi (m ++ v ++ t ++ o ++ look) z 13 7).trans ((append_hi (m ++ v ++ t ++ o) look 9 7).trans ((append_hi (m ++ v ++ t) o 2 7).trans ((append_hi (m ++ v) t 0 7).trans (append_lo (m) v))))),
   (append_hi (m ++ v ++ t ++ o ++ look ++ z) q 14 2).trans ((append_hi (m ++ v ++ t ++ o ++ look) z 11 2).trans ((append_hi (m ++ v ++ t ++ o) look 7 2).trans ((append_hi (m ++ v ++ t) o 0 2).trans (append_lo (m ++ v) t)))),
   (append_hi (m ++ v ++ t ++ o ++ look ++ z) q 7 7).trans ((append_hi (m ++ v ++ t ++ o ++ look) z 4 7).trans ((append_hi (m ++ v ++ t ++ o) look 0 7).trans (append_lo (m ++ v ++ t) o))),
   (append_hi (m ++ v ++ t ++ o ++ look ++ z) q 3 4).trans ((append_hi (m ++ v ++ t ++ o ++ look) z 0 4).trans (append_lo (m ++ v ++ t ++ o) look)),
   (append_hi (m ++ v ++ t ++ o ++ look ++ z) q 0 3).trans (append_lo (m ++ v ++ t ++ o ++ look) z),
   append_lo (m ++ v ++ t ++ o ++ look ++ z) q⟩

/-- The fields of packBR. -/
theorem packBR_fields (m : BitVec 6) (u : BitVec 1) (cond : BitVec 4) (sc : BitVec 6) (disp : BitVec 15) :
    (packBR m u cond sc disp).extractLsb' 26 6 = m ∧
    (packBR m u cond sc disp).extractLsb' 25 1 = u ∧
    (packBR m u cond sc disp).extractLsb' 21 4 = cond ∧
    (packBR m u cond sc disp).extractLsb' 15 6 = sc ∧
    (packBR m u cond sc disp).extractLsb' 0 15 = disp :=
  ⟨(append_hi (m ++ u ++ cond ++ sc) disp 11 6).trans ((append_hi (m ++ u ++ cond) sc 5 6).trans ((append_hi (m ++ u) cond 1 6).trans ((append_hi (m) u 0 6).trans (all_bits m)))),
   (append_hi (m ++ u ++ cond ++ sc) disp 10 1).trans ((append_hi (m ++ u ++ cond) sc 4 1).trans ((append_hi (m ++ u) cond 0 1).trans (append_lo (m) u))),
   (append_hi (m ++ u ++ cond ++ sc) disp 6 4).trans ((append_hi (m ++ u ++ cond) sc 0 4).trans (append_lo (m ++ u) cond)),
   (append_hi (m ++ u ++ cond ++ sc) disp 0 6).trans (append_lo (m ++ u ++ cond) sc),
   append_lo (m ++ u ++ cond ++ sc) disp⟩

/-- The fields of packSY. -/
theorem packSY_fields (m d : BitVec 6) (r : BitVec 12) (fn : BitVec 8) :
    (packSY m d r fn).extractLsb' 26 6 = m ∧
    (packSY m d r fn).extractLsb' 20 6 = d ∧
    (packSY m d r fn).extractLsb' 8 12 = r ∧
    (packSY m d r fn).extractLsb' 0 8 = fn :=
  ⟨(append_hi (m ++ d ++ r) fn 18 6).trans ((append_hi (m ++ d) r 6 6).trans ((append_hi (m) d 0 6).trans (all_bits m))),
   (append_hi (m ++ d ++ r) fn 12 6).trans ((append_hi (m ++ d) r 0 6).trans (append_lo (m) d)),
   (append_hi (m ++ d ++ r) fn 0 12).trans (append_lo (m ++ d) r),
   append_lo (m ++ d ++ r) fn⟩

theorem unpackX_packX (x : XWord) : unpackX (packX x) = x := by
  obtain ⟨a, b, c, d, e, f⟩ := x
  simp only [unpackX, packX, XWord.mk.injEq]
  exact ⟨(append_hi (a ++ b ++ c ++ d ++ e) f 12 7).trans ((append_hi (a ++ b ++ c ++ d) e 8 7).trans ((append_hi (a ++ b ++ c) d 4 7).trans ((append_hi (a ++ b) c 3 7).trans ((append_hi a b 0 7).trans (all_bits a))))),
    (append_hi (a ++ b ++ c ++ d ++ e) f 9 3).trans ((append_hi (a ++ b ++ c ++ d) e 5 3).trans ((append_hi (a ++ b ++ c) d 1 3).trans ((append_hi (a ++ b) c 0 3).trans (append_lo a b)))),
    (append_hi (a ++ b ++ c ++ d ++ e) f 8 1).trans ((append_hi (a ++ b ++ c ++ d) e 4 1).trans ((append_hi (a ++ b ++ c) d 0 1).trans (append_lo (a ++ b) c))),
    (append_hi (a ++ b ++ c ++ d ++ e) f 4 4).trans ((append_hi (a ++ b ++ c ++ d) e 0 4).trans (append_lo (a ++ b ++ c) d)),
    (append_hi (a ++ b ++ c ++ d ++ e) f 0 4).trans (append_lo (a ++ b ++ c ++ d) e), append_lo _ f⟩


theorem unpackMLX_packMLX (x : MlExt) : unpackMLX (packMLX x) = x := by
  obtain ⟨a, c, d, e⟩ := x
  simp only [unpackMLX, packMLX, MlExt.mk.injEq]
  exact ⟨(append_hi (a ++ 0#1 ++ c ++ d) e 5 24).trans ((append_hi (a ++ 0#1 ++ c) d 3 24).trans ((append_hi (a ++ 0#1) c 1 24).trans ((append_hi a 0#1 0 24).trans (all_bits a)))),
    (append_hi (a ++ 0#1 ++ c ++ d) e 2 2).trans ((append_hi (a ++ 0#1 ++ c) d 0 2).trans (append_lo (a ++ 0#1) c)),
    (append_hi (a ++ 0#1 ++ c ++ d) e 0 2).trans (append_lo (a ++ 0#1 ++ c) d), append_lo _ e⟩

theorem packMLX_zero (x : MlExt) : (packMLX x).extractLsb' 7 1 = 0#1 := by
  obtain ⟨a, c, d, e⟩ := x
  exact (append_hi (a ++ 0#1 ++ c ++ d) e 4 1).trans ((append_hi (a ++ 0#1 ++ c) d 2 1).trans
    ((append_hi (a ++ 0#1) c 0 1).trans (append_lo a 0#1)))

/-- The low bits of a widened field. -/
theorem extract_widened {n m : Nat} (x : BitVec n) (h : n ≤ m) : (x.setWidth m).extractLsb' 0 n = x := by
  apply BitVec.eq_of_toNat_eq
  have := Nat.lt_of_lt_of_le x.isLt (Nat.pow_le_pow_right (by decide : 2 > 0) h)
  simp [Nat.mod_eq_of_lt this, Nat.mod_eq_of_lt x.isLt]

/-- A widened field narrowed again. -/
theorem narrow_widened {n m : Nat} (x : BitVec n) (h : n ≤ m) : (x.setWidth m).setWidth n = x := by
  apply BitVec.eq_of_toNat_eq
  have := Nat.lt_of_lt_of_le x.isLt (Nat.pow_le_pow_right (by decide : 2 > 0) h)
  simp [Nat.mod_eq_of_lt this, Nat.mod_eq_of_lt x.isLt]

theorem lo6_widened (r : BitVec 6) : lo6 (r.setWidth 7) = r := extract_widened r (by decide)

theorem hi0_widened (r : BitVec 6) : hi0 (r.setWidth 7) = true := by
  have h : (r.setWidth 7).extractLsb' 6 1 = 0#1 := by ext i hi; simp
  simp only [hi0, h]; rfl

theorem src_encoded (s : Src) (k : Src → Option Instr) : src s.bs s.num k = k s := by
  cases s with
  | v r => rfl
  | s r => exact (congrArg (fun c => if c then k (.s (lo6 (r.setWidth 7))) else none) (hi0_widened r)).trans (congrArg (fun r => k (.s r)) (lo6_widened r))

/-- How decode ends: a well-formed instruction of the fields, or the fate of the word. -/
def finish (w : Word) : Option Instr → Instr
  | some i => if i.wf then i else .undefinedInstruction w
  | none => if 0x34 ≤ (major w).toNat then .reservedMajor w else .undefinedInstruction w

theorem finish_some (w : Word) {o : Option Instr} {i : Instr} (e : o = some i) (h : i.wf = true) : finish w o = i := by
  subst e; simp [finish, h]

theorem decode_of {w x : Word} {o : Option Instr} (h : decodeFields w x = o) : decode w x = finish w o := by
  subst h; rfl

theorem decode_SR (m d a b : BitVec 6) (fn : BitVec 8) (x : Word) (hm : formatOf m = .sr) :
    decode (packSR m d a b fn) x = finish (packSR m d a b fn) (decodeSR m d a b fn) := by
  obtain ⟨h0, h1, h2, h3, h4⟩ := packSR_fields m d a b fn
  exact decode_of (by simp only [decodeFields, major, h0, h1, h2, h3, h4, hm])

theorem decode_sel (m d a b : BitVec 6) (fn : BitVec 8) (x : Word) (hm : formatOf m = .sel) :
    decode (packSR m d a b fn) x = finish (packSR m d a b fn) (decodeSel d a b fn) := by
  obtain ⟨h0, h1, h2, h3, h4⟩ := packSR_fields m d a b fn
  exact decode_of (by simp only [decodeFields, major, h0, h1, h2, h3, h4, hm])

theorem decode_EC (m k s t : BitVec 6) (fl : BitVec 8) (x : Word) (hm : formatOf m = .ec) :
    decode (packEC m k s t fl) x = finish (packEC m k s t fl) (decodeEC m k s t fl) := by
  obtain ⟨h0, h1, h2, h3, h4⟩ := packEC_fields m k s t fl
  exact decode_of (by simp only [decodeFields, major, h0, h1, h2, h3, h4, hm])

theorem decode_SI (m d a : BitVec 6) (imm : BitVec 14) (x : Word) (hm : formatOf m = .si) :
    decode (packSI m d a imm) x =
      finish (packSI m d a imm) (if m == 0x04 then some (.saddImm d a imm) else some (.sandImm d a imm)) := by
  obtain ⟨h0, h1, h2, h3⟩ := packSI_fields m d a imm
  exact decode_of (by simp only [decodeFields, major, h0, h1, h2, h3, hm])

theorem decode_shift (m d a : BitVec 6) (imm : BitVec 14) (x : Word) (hm : formatOf m = .shift) :
    decode (packSI m d a imm) x = finish (packSI m d a imm) (decodeShiftImm d a imm) := by
  obtain ⟨h0, h1, h2, h3⟩ := packSI_fields m d a imm
  exact decode_of (by simp only [decodeFields, major, h0, h1, h2, h3, hm])

theorem decode_lit (m d a : BitVec 6) (imm : BitVec 14) (x : Word) (hm : formatOf m = .lit) :
    decode (packSI m d a imm) x = finish (packSI m d a imm) (decodeLit d a imm x) := by
  obtain ⟨h0, h1, h2, h3⟩ := packSI_fields m d a imm
  exact decode_of (by simp only [decodeFields, major, h0, h1, h2, h3, hm])

theorem decode_smem (m d a : BitVec 6) (imm : BitVec 14) (x : Word) (hm : formatOf m = .smem) :
    decode (packSI m d a imm) x = finish (packSI m d a imm) (decodeScalarMem d a imm) := by
  obtain ⟨h0, h1, h2, h3⟩ := packSI_fields m d a imm
  exact decode_of (by simp only [decodeFields, major, h0, h1, h2, h3, hm])

theorem decode_SY (m d : BitVec 6) (r : BitVec 12) (fn : BitVec 8) (x : Word) (hm : formatOf m = .sy) :
    decode (packSY m d r fn) x =
      finish (packSY m d r fn) (if fn == 0 then some (.srd d r) else need (fn == 1) (.swr d r)) := by
  obtain ⟨h0, h1, h2, h3⟩ := packSY_fields m d r fn
  exact decode_of (by simp only [decodeFields, major, h0, h1, h2, h3, hm])

theorem decode_BR (m : BitVec 6) (u : BitVec 1) (cond : BitVec 4) (sc : BitVec 6) (disp : BitVec 15) (x : Word)
    (hm : formatOf m = .br) :
    decode (packBR m u cond sc disp) x = finish (packBR m u cond sc disp) (some (.br u cond sc disp)) := by
  obtain ⟨h0, h1, h2, h3, h4⟩ := packBR_fields m u cond sc disp
  exact decode_of (by simp only [decodeFields, major, h0, h1, h2, h3, h4, hm])

theorem decode_BRF (m : BitVec 6) (u : BitVec 1) (cond : BitVec 4) (sc : BitVec 6) (disp : BitVec 15) (x : Word)
    (hm : formatOf m = .brf) :
    decode (packBR m u cond sc disp) x = finish (packBR m u cond sc disp) (decodeBR m u cond sc disp) := by
  obtain ⟨h0, h1, h2, h3, h4⟩ := packBR_fields m u cond sc disp
  exact decode_of (by simp only [decodeFields, major, h0, h1, h2, h3, h4, hm])

theorem decode_VR (m : BitVec 6) (vd va : BitVec 7) (bs : BitVec 1) (b : BitVec 7) (fn : BitVec 4) (x : Word)
    (hm : formatOf m = .vr) :
    decode (packVR m vd va bs b fn) x = finish (packVR m vd va bs b fn) (decodeVR m vd va bs b fn) := by
  obtain ⟨h0, h1, h2, h3, h4, h5⟩ := packVR_fields m vd va bs b fn
  exact decode_of (by simp only [decodeFields, major, h0, h1, h2, h3, h4, h5, hm])

theorem decode_VX (m : BitVec 6) (vd va : BitVec 7) (bs : BitVec 1) (b : BitVec 7) (fn : BitVec 4) (x : XWord)
    (hm : formatOf m = .vx) :
    decode (packVR m vd va bs b fn) (packX x) =
      finish (packVR m vd va bs b fn) (decodeVX m vd va bs b fn x) := by
  obtain ⟨h0, h1, h2, h3, h4, h5⟩ := packVR_fields m vd va bs b fn
  exact decode_of (by simp only [decodeFields, major, h0, h1, h2, h3, h4, h5, hm, unpackX_packX])

/-- Bits inside the low field of two joined fields. -/
theorem append_in {n m : Nat} (x : BitVec n) (y : BitVec m) (k w : Nat) (h : k + w ≤ m) :
    (x ++ y).extractLsb' k w = y.extractLsb' k w := by
  ext i hi
  simp [BitVec.getLsbD_append, show k + i < m by omega]

theorem append_above {n m : Nat} (x : BitVec n) (y : BitVec m) (k w : Nat) (h : m ≤ k) :
    (x ++ y).extractLsb' k w = x.extractLsb' (k - m) w := by
  obtain ⟨j, rfl⟩ := Nat.exists_eq_add_of_le h
  rw [append_hi, Nat.add_sub_cancel_left]

/-- The bits of qual that tell the ML instructions apart. -/
theorem packML_qual (m : BitVec 6) (v : BitVec 7) (t : BitVec 2) (o : BitVec 7) (look : BitVec 4) (z q : BitVec 3) :
    (packML m v t o look z q).extractLsb' 2 1 = q.extractLsb' 2 1 ∧
    (packML m v t o look z q).extractLsb' 0 2 = q.extractLsb' 0 2 :=
  ⟨append_in (m ++ v ++ t ++ o ++ look ++ z) q 2 1 (by decide), append_in (m ++ v ++ t ++ o ++ look ++ z) q 0 2 (by decide)⟩

theorem decode_ML (m : BitVec 6) (v : BitVec 7) (t : BitVec 2) (o : BitVec 7) (look : BitVec 4) (z q : BitVec 3)
    (x : Word) (hm : formatOf m = .ml) (hq : q.extractLsb' 2 1 = 0#1) :
    decode (packML m v t o look z q) x =
      finish (packML m v t o look z q) (decodeML m v t o look z (q.extractLsb' 0 2)) := by
  obtain ⟨h0, h1, h2, h3, h4, h5, h6⟩ := packML_fields m v t o look z q
  obtain ⟨h7, h8⟩ := packML_qual m v t o look z q
  exact decode_of (by simp only [decodeFields, major, h0, h1, h2, h3, h4, h5, h7, h8, hm, hq]; rfl)

theorem decode_MLX (m : BitVec 6) (v : BitVec 7) (t : BitVec 2) (o : BitVec 7) (look : BitVec 4) (z q : BitVec 3)
    (x : MlExt) (hm : formatOf m = .ml) (hq : q.extractLsb' 2 1 = 1#1) :
    decode (packML m v t o look z q) (packMLX x) =
      finish (packML m v t o look z q) (decodeMLX m v t o look z (q.extractLsb' 0 2) x) := by
  obtain ⟨h0, h1, h2, h3, h4, h5, h6⟩ := packML_fields m v t o look z q
  obtain ⟨h7, h8⟩ := packML_qual m v t o look z q
  exact decode_of (by simp only [decodeFields, major, h0, h1, h2, h3, h4, h5, h7, h8, hm, hq, packMLX_zero, unpackMLX_packMLX]; rfl)

theorem need_true {c : Bool} {i : Instr} (h : c = true) : need c i = some i := if_pos h

theorem fn2_fields (f : AtomFields) (b12 b11 : BitVec 1) (t : BitVec 2) :
    (f.fn2 b12 b11 t).extractLsb' 12 1 = b12 ∧ (f.fn2 b12 b11 t).extractLsb' 11 1 = b11 ∧
    (f.fn2 b12 b11 t).extractLsb' 9 2 = t ∧ (f.fn2 b12 b11 t).extractLsb' 6 3 = f.scope ∧
    (f.fn2 b12 b11 t).extractLsb' 4 2 = f.order ∧ (f.fn2 b12 b11 t).extractLsb' 0 4 = f.op :=
  ⟨(append_hi (b12 ++ b11 ++ t ++ f.scope ++ f.order) f.op 8 1).trans ((append_hi (b12 ++ b11 ++ t ++ f.scope) f.order 6 1).trans ((append_hi (b12 ++ b11 ++ t) f.scope 3 1).trans ((append_hi (b12 ++ b11) t 1 1).trans ((append_hi (b12) b11 0 1).trans (all_bits b12))))), (append_hi (b12 ++ b11 ++ t ++ f.scope ++ f.order) f.op 7 1).trans ((append_hi (b12 ++ b11 ++ t ++ f.scope) f.order 5 1).trans ((append_hi (b12 ++ b11 ++ t) f.scope 2 1).trans ((append_hi (b12 ++ b11) t 0 1).trans (append_lo (b12) b11)))), (append_hi (b12 ++ b11 ++ t ++ f.scope ++ f.order) f.op 5 2).trans ((append_hi (b12 ++ b11 ++ t ++ f.scope) f.order 3 2).trans ((append_hi (b12 ++ b11 ++ t) f.scope 0 2).trans (append_lo (b12 ++ b11) t))), (append_hi (b12 ++ b11 ++ t ++ f.scope ++ f.order) f.op 2 3).trans ((append_hi (b12 ++ b11 ++ t ++ f.scope) f.order 0 3).trans (append_lo (b12 ++ b11 ++ t) f.scope)), (append_hi (b12 ++ b11 ++ t ++ f.scope ++ f.order) f.op 0 2).trans (append_lo (b12 ++ b11 ++ t ++ f.scope) f.order), append_lo (b12 ++ b11 ++ t ++ f.scope ++ f.order) f.op⟩

theorem joined {n m : Nat} (x : BitVec (n + m)) : x.extractLsb' m n ++ x.extractLsb' 0 m = x := by
  ext i hi
  simp

theorem joined3 (n : BitVec 18) : n.extractLsb' 12 6 ++ n.extractLsb' 6 6 ++ n.extractLsb' 0 6 = n := by
  have e1 : (n.extractLsb' 6 12).extractLsb' 6 6 = n.extractLsb' 12 6 := by ext i hi; simp [show 6 + i < 12 by omega, show 6 + (6 + i) = 12 + i by omega]
  have e2 : (n.extractLsb' 6 12).extractLsb' 0 6 = n.extractLsb' 6 6 := by ext i hi; simp [show i < 12 by omega]
  exact (congrArg (· ++ n.extractLsb' 0 6) ((congrArg₂ (· ++ ·) e1.symm e2.symm).trans
    (joined (n := 6) (m := 6) (n.extractLsb' 6 12)))).trans (joined (n := 12) (m := 6) n)

end Sys2Proof.Laws
end

