-- ==== Sys2Proof/Laws/Memory.lean ====
section
/-! SUPPORT. Home memory: the canonical form, which every operation on memory keeps, and reading what was written. -/

namespace Sys2Proof.Machine

theorem Memory.wf_iff (m : AMap Byte) : Memory.wf m = true ↔ m.canon 0 := by
  simp only [Memory.wf, AMap.canon, Bool.and_eq_true, List.all_eq_true, bne_iff_ne, ne_eq]

theorem Memory.wf_set (m : AMap Byte) (k : Nat) (b : Byte) (h : Memory.wf m = true) :
    Memory.wf (m.set 0 k b) = true := by
  rw [Memory.wf_iff] at *
  exact AMap.canon_set 0 m k b h

/-- A fold of writes keeps the form. -/
theorem Memory.wf_fold {α : Type} (l : List α) (f : AMap Byte → α → AMap Byte)
    (hf : ∀ m x, Memory.wf m = true → Memory.wf (f m x) = true) (m : AMap Byte) (h : Memory.wf m = true) :
    Memory.wf (l.foldl f m) = true := by
  induction l generalizing m with
  | nil => exact h
  | cons x xs ih => exact ih _ (hf m x h)

theorem Memory.wf_putBytes (bs : List Byte) (m : AMap Byte) (k : Nat) (h : Memory.wf m = true) :
    Memory.wf (putBytes m k bs) = true := by
  induction bs generalizing m k with
  | nil => exact h
  | cons b bs ih => exact ih _ _ (Memory.wf_set m k b h)

theorem Memory.wf_putSectors (m : AMap Byte) (line : Nat) (mask : BitVec 4) (b : AMap Byte)
    (h : Memory.wf m = true) : Memory.wf (putSectors m line mask b) = true := by
  refine Memory.wf_fold _ _ (fun m i hm => ?_) m h
  split
  · exact Memory.wf_set _ _ _ hm
  · exact hm

/-- A fold of state operations that keep the form keeps it. -/
theorem State.wf_fold {α : Type} (l : List α) (f : State → α → State)
    (hf : ∀ s x, Memory.wf s.mem = true → Memory.wf (f s x).mem = true) (s : State) (h : Memory.wf s.mem = true) :
    Memory.wf (l.foldl f s).mem = true := by
  induction l generalizing s with
  | nil => exact h
  | cons x xs ih => exact ih _ (hf s x h)

/-- Adding to buckets leaves memory. -/
theorem State.mem_addBuckets {α : Type} (l : List α) (c i b : α → Nat) (s : State) :
    (l.foldl (fun s x => s.addBucket (c x) (i x) (b x)) s).mem = s.mem := by
  induction l generalizing s with
  | nil => rfl
  | cons x xs ih => exact ih _

/-- Reuse registers see an access without changing memory (R359). -/
theorem State.mem_reuseSeen (s : State) (line : Nat) : (s.reuseSeen line).mem = s.mem := by
  unfold State.reuseSeen
  split
  · rfl
  · exact State.mem_addBuckets _ _ _ _ s

/-- Serving an access to a line leaves memory (R372). -/
theorem State.mem_l2Serve (s : State) (line : Nat) : (s.l2Serve line).mem = s.mem := by
  unfold State.l2Serve
  split
  · exact State.mem_reuseSeen s line
  · dsimp only
    split <;> exact State.mem_reuseSeen s line

theorem State.wf_writeSectors (s : State) (c line : Nat) (m : BitVec 4) (r : BitVec 3) (h : Memory.wf s.mem = true) :
    Memory.wf (s.writeSectors c line m r).mem = true := by
  unfold State.writeSectors
  split
  · exact h
  · rename_i l _
    have hp : Memory.wf (putSectors s.mem line (l.dirty &&& m) l.bytes) = true := Memory.wf_putSectors _ _ _ _ h
    show Memory.wf (if _ then _ else _ : State).mem = true
    split
    · exact hp
    · rw [State.mem_l2Serve]; exact hp

theorem State.wf_writeBack (s : State) (c line : Nat) (r : BitVec 3) (h : Memory.wf s.mem = true) :
    Memory.wf (s.writeBack c line r).mem = true := State.wf_writeSectors s c line 15 r h

theorem State.wf_recallLine (s : State) (line : Nat) (h : Memory.wf s.mem = true) :
    Memory.wf (s.recallLine line).mem = true := by
  unfold State.recallLine
  split
  · exact h
  · refine State.wf_fold _ _ (fun s c hs => ?_) s h
    have hw := State.wf_writeBack s c line 1 hs
    exact hw

theorem State.wf_recallRange (s : State) (k n : Nat) (h : Memory.wf s.mem = true) :
    Memory.wf (s.recallRange k n).mem = true := by
  refine State.wf_fold _ _ (fun s line hs => ?_) s h
  unfold State.recallSectors
  split
  · exact State.wf_recallLine s _ hs
  · exact hs

theorem State.wf_homeWrite (s : State) (c : Option Nat) (k : Nat) (bs : List Byte) (h : Memory.wf s.mem = true) :
    Memory.wf (s.homeWrite c k bs).mem = true := by
  unfold State.homeWrite
  refine State.wf_fold _ _ (fun s line hs => ?_) _ (Memory.wf_putBytes _ _ _ (State.wf_recallRange s _ _ h))
  rw [← State.mem_l2Serve s line] at hs
  cases c <;> exact hs

theorem State.wf_homeWord (s : State) (k : Nat) (w : Word) (h : Memory.wf s.mem = true) :
    Memory.wf (s.homeWord k w).mem = true := State.wf_homeWrite s _ _ _ h

theorem State.wf_releaseL1 (s : State) (c : Nat) (scope : BitVec 3) (h : Memory.wf s.mem = true) :
    Memory.wf (s.releaseL1 c scope).mem = true := by
  unfold State.releaseL1
  split
  · exact h
  · refine State.wf_fold _ _ (fun s p hs => ?_) s h
    split
    · exact hs
    · exact State.wf_writeBack s _ _ _ hs

/-- A load replay changes no memory. -/
@[simp] theorem State.mem_noteReplay (s : State) (c line : Nat) : (s.noteReplay c line).mem = s.mem := by
  unfold State.noteReplay
  dsimp only
  split <;> rfl

theorem State.wf_evictL1 (s : State) (c line : Nat) (h : Memory.wf s.mem = true) :
    Memory.wf (s.evictL1 c line).mem = true := by
  unfold State.evictL1
  refine State.wf_writeBack _ c line 1 ?_
  rw [State.mem_noteReplay]
  split
  · exact h
  · exact h

theorem State.wf_recallFrames (s : State) (fs : List Nat) (h : Memory.wf s.mem = true) :
    Memory.wf (s.recallFrames fs).mem = true :=
  State.wf_fold _ _ (fun s _ hs => State.wf_recallLine s _ hs) s h

theorem State.wf_copyFrames (s : State) (fs : List Nat) (f : Nat) (h : Memory.wf s.mem = true) :
    Memory.wf (s.copyFrames fs f).mem = true := by
  refine Memory.wf_fold _ _ (fun m p hm => Memory.wf_set _ _ _ hm) _ ?_
  rw [Memory.wf_iff] at *
  exact AMap.canon_filter 0 _ _ h

/-- Memory right after reset lists nothing. -/
theorem Memory.wf_reset : Memory.wf State.reset.mem = true := rfl

/-! ### Reading what was written -/

theorem get_putBytes_outside (bs : List Byte) (m : AMap Byte) (k a : Nat) (h : a < k ∨ k + bs.length ≤ a) :
    (putBytes m k bs).get 0 a = m.get 0 a := by
  induction bs generalizing m k with
  | nil => rfl
  | cons b bs ih =>
    simp only [List.length_cons] at h
    rw [putBytes, ih _ _ (by omega), AMap.get_set_ne _ _ _ _ _ (by omega)]

theorem get_putBytes_inside (bs : List Byte) (m : AMap Byte) (k i : Nat) (h : i < bs.length) :
    (putBytes m k bs).get 0 (k + i) = bs.getD i 0 := by
  induction bs generalizing m k i with
  | nil => simp at h
  | cons b bs ih =>
    rw [putBytes]
    cases i with
    | zero => rw [get_putBytes_outside _ _ _ _ (by omega)]; simp
    | succ i =>
      have := ih (m.set 0 k b) (k + 1) i (by simpa using h)
      rw [show k + (i + 1) = k + 1 + i by omega, this]; simp

end Sys2Proof.Machine
end

