-- ==== Sys2Proof/Laws/PerInstr.lean ====
section
/-! SUPPORT. The round trip of the encoding, one lemma for each constructor of Instr. -/

namespace Sys2Proof.Laws

set_option Elab.async false

/-- Decoding an encoded well-formed instruction gives it back; the word after a one-word instruction is not read. -/
def RoundTrip.Statement (i : Instr) : Prop :=
  i.wf = true → (∀ w, i ≠ .undefinedInstruction w) →
    (∀ w, encode i = [w] → ∀ x, decode w x = i) ∧ ∀ w x, encode i = [w, x] → decode w x = i

theorem one_word {i : Instr} {w : Word} (e : encode i = [w]) (d : i.wf = true → ∀ x, decode w x = i) :
    RoundTrip.Statement i := by
  intro h _
  refine ⟨fun v ev x => ?_, fun v x ev => ?_⟩
  · rw [e] at ev; cases ev; exact d h x
  · rw [e] at ev; cases ev

theorem two_words {i : Instr} {w x : Word} (e : encode i = [w, x]) (d : i.wf = true → decode w x = i) :
    RoundTrip.Statement i := by
  intro h _
  refine ⟨fun v ev y => ?_, fun v y ev => ?_⟩
  · rw [e] at ev; cases ev
  · rw [e] at ev; cases ev; exact d h

theorem no_words {i : Instr} (e : encode i = []) : RoundTrip.Statement i := by
  intro _ _
  refine ⟨fun v ev y => ?_, fun v y ev => ?_⟩ <;> (rw [e] at ev; cases ev)

theorem RoundTrip.sadd (d a b : BitVec 6) : RoundTrip.Statement (.sadd d a b) :=
  one_word rfl fun wf x => (decode_SR 0x01 d a b 0x00 x rfl).trans (finish_some _ rfl wf)

theorem RoundTrip.ssub (d a b : BitVec 6) : RoundTrip.Statement (.ssub d a b) :=
  one_word rfl fun wf x => (decode_SR 0x01 d a b 0x01 x rfl).trans (finish_some _ rfl wf)

theorem RoundTrip.smul (d a b : BitVec 6) : RoundTrip.Statement (.smul d a b) :=
  one_word rfl fun wf x => (decode_SR 0x01 d a b 0x02 x rfl).trans (finish_some _ rfl wf)

theorem RoundTrip.smulhi (d a b : BitVec 6) : RoundTrip.Statement (.smulhi d a b) :=
  one_word rfl fun wf x => (decode_SR 0x01 d a b 0x03 x rfl).trans (finish_some _ rfl wf)

theorem RoundTrip.smulhn (d a b : BitVec 6) : RoundTrip.Statement (.smulhn d a b) :=
  one_word rfl fun wf x => (decode_SR 0x01 d a b 0x04 x rfl).trans (finish_some _ rfl wf)

theorem RoundTrip.sdiv (d a b : BitVec 6) : RoundTrip.Statement (.sdiv d a b) :=
  one_word rfl fun wf x => (decode_SR 0x01 d a b 0x05 x rfl).trans (finish_some _ rfl wf)

theorem RoundTrip.sdivn (d a b : BitVec 6) : RoundTrip.Statement (.sdivn d a b) :=
  one_word rfl fun wf x => (decode_SR 0x01 d a b 0x06 x rfl).trans (finish_some _ rfl wf)

theorem RoundTrip.srem (d a b : BitVec 6) : RoundTrip.Statement (.srem d a b) :=
  one_word rfl fun wf x => (decode_SR 0x01 d a b 0x07 x rfl).trans (finish_some _ rfl wf)

theorem RoundTrip.smin (d a b : BitVec 6) : RoundTrip.Statement (.smin d a b) :=
  one_word rfl fun wf x => (decode_SR 0x01 d a b 0x08 x rfl).trans (finish_some _ rfl wf)

theorem RoundTrip.smax (d a b : BitVec 6) : RoundTrip.Statement (.smax d a b) :=
  one_word rfl fun wf x => (decode_SR 0x01 d a b 0x09 x rfl).trans (finish_some _ rfl wf)

theorem RoundTrip.sminn (d a b : BitVec 6) : RoundTrip.Statement (.sminn d a b) :=
  one_word rfl fun wf x => (decode_SR 0x01 d a b 0x0A x rfl).trans (finish_some _ rfl wf)

theorem RoundTrip.smaxn (d a b : BitVec 6) : RoundTrip.Statement (.smaxn d a b) :=
  one_word rfl fun wf x => (decode_SR 0x01 d a b 0x0B x rfl).trans (finish_some _ rfl wf)

theorem RoundTrip.saddc (d a b : BitVec 6) : RoundTrip.Statement (.saddc d a b) :=
  one_word rfl fun wf x => (decode_SR 0x01 d a b 0x0C x rfl).trans (finish_some _ rfl wf)

theorem RoundTrip.ssubb (d a b : BitVec 6) : RoundTrip.Statement (.ssubb d a b) :=
  one_word rfl fun wf x => (decode_SR 0x01 d a b 0x0D x rfl).trans (finish_some _ rfl wf)

theorem RoundTrip.sand (d a b : BitVec 6) : RoundTrip.Statement (.sand d a b) :=
  one_word rfl fun wf x => (decode_SR 0x02 d a b 0x00 x rfl).trans (finish_some _ rfl wf)

theorem RoundTrip.sor (d a b : BitVec 6) : RoundTrip.Statement (.sor d a b) :=
  one_word rfl fun wf x => (decode_SR 0x02 d a b 0x01 x rfl).trans (finish_some _ rfl wf)

theorem RoundTrip.sxor (d a b : BitVec 6) : RoundTrip.Statement (.sxor d a b) :=
  one_word rfl fun wf x => (decode_SR 0x02 d a b 0x02 x rfl).trans (finish_some _ rfl wf)

theorem RoundTrip.sandn (d a b : BitVec 6) : RoundTrip.Statement (.sandn d a b) :=
  one_word rfl fun wf x => (decode_SR 0x02 d a b 0x03 x rfl).trans (finish_some _ rfl wf)

theorem RoundTrip.sshl (d a b : BitVec 6) : RoundTrip.Statement (.sshl d a b) :=
  one_word rfl fun wf x => (decode_SR 0x02 d a b 0x04 x rfl).trans (finish_some _ rfl wf)

theorem RoundTrip.sshr (d a b : BitVec 6) : RoundTrip.Statement (.sshr d a b) :=
  one_word rfl fun wf x => (decode_SR 0x02 d a b 0x05 x rfl).trans (finish_some _ rfl wf)

theorem RoundTrip.ssra (d a b : BitVec 6) : RoundTrip.Statement (.ssra d a b) :=
  one_word rfl fun wf x => (decode_SR 0x02 d a b 0x06 x rfl).trans (finish_some _ rfl wf)

theorem RoundTrip.srot (d a b : BitVec 6) : RoundTrip.Statement (.srot d a b) :=
  one_word rfl fun wf x => (decode_SR 0x02 d a b 0x07 x rfl).trans (finish_some _ rfl wf)

theorem RoundTrip.sclz (d a : BitVec 6) : RoundTrip.Statement (.sclz d a) :=
  one_word rfl fun wf x => (decode_SR 0x02 d a 0 0x08 x rfl).trans (finish_some _ rfl wf)

theorem RoundTrip.spopc (d a : BitVec 6) : RoundTrip.Statement (.spopc d a) :=
  one_word rfl fun wf x => (decode_SR 0x02 d a 0 0x09 x rfl).trans (finish_some _ rfl wf)

theorem RoundTrip.sbrev (d a : BitVec 6) : RoundTrip.Statement (.sbrev d a) :=
  one_word rfl fun wf x => (decode_SR 0x02 d a 0 0x0A x rfl).trans (finish_some _ rfl wf)

theorem RoundTrip.sext (d a n : BitVec 6) : RoundTrip.Statement (.sext d a n) :=
  one_word rfl fun wf x => (decode_SR 0x02 d a n 0x0B x rfl).trans (finish_some _ rfl wf)

theorem RoundTrip.scmp (d a b : BitVec 6) (cc : BitVec 4) : RoundTrip.Statement (.scmp d a b cc) :=
  one_word rfl fun wf x => (decode_sel 0x03 d a b (0#4 ++ cc) x rfl).trans
    (finish_some _ (by
      have e0 : (0#4 ++ cc : BitVec 8).extractLsb' 6 2 = 0#2 := (append_hi (0#4) cc 2 2).trans (rfl)
      have e1 : (0#4 ++ cc : BitVec 8).extractLsb' 4 4 = 0#4 := (append_hi (0#4) cc 0 4).trans (all_bits 0#4)
      have e2 : (0#4 ++ cc : BitVec 8).extractLsb' 0 4 = cc := append_lo (0#4) cc
      simp only [decodeSel, e0, e1, e2]
      rfl) wf)

theorem RoundTrip.ssel (d a b c : BitVec 6) : RoundTrip.Statement (.ssel d a b c) :=
  one_word rfl fun wf x => (decode_sel 0x03 d a b (1#2 ++ c) x rfl).trans
    (finish_some _ (by
      have e0 : (1#2 ++ c : BitVec 8).extractLsb' 6 2 = 1#2 := (append_hi (1#2) c 0 2).trans (all_bits 1#2)
      have e1 : (1#2 ++ c : BitVec 8).extractLsb' 0 6 = c := append_lo (1#2) c
      simp only [decodeSel, e0, e1]
      rfl) wf)

theorem RoundTrip.smov (d a : BitVec 6) : RoundTrip.Statement (.smov d a) :=
  one_word rfl fun wf x => (decode_sel 0x03 d a 0 0x80 x rfl).trans (finish_some _ rfl wf)

theorem RoundTrip.saddImm (d a : BitVec 6) (imm : BitVec 14) : RoundTrip.Statement (.saddImm d a imm) :=
  one_word rfl fun wf x => (decode_SI 0x04 d a imm x rfl).trans (finish_some _ rfl wf)

theorem RoundTrip.sandImm (d a : BitVec 6) (imm : BitVec 14) : RoundTrip.Statement (.sandImm d a imm) :=
  one_word rfl fun wf x => (decode_SI 0x05 d a imm x rfl).trans (finish_some _ rfl wf)

theorem RoundTrip.sshlImm (d a : BitVec 6) (n : BitVec 5) : RoundTrip.Statement (.sshlImm d a n) :=
  one_word rfl fun wf x => (decode_shift 0x06 d a (0#2 ++ 0#7 ++ n) x rfl).trans
    (finish_some _ (by
      have e0 : (0#2 ++ 0#7 ++ n : BitVec 14).extractLsb' 0 5 = n := append_lo (0#2 ++ 0#7) n
      have e1 : (0#2 ++ 0#7 ++ n : BitVec 14).extractLsb' 5 7 = 0#7 := (append_hi (0#2 ++ 0#7) n 0 7).trans (append_lo (0#2) 0#7)
      have e2 : (0#2 ++ 0#7 ++ n : BitVec 14).extractLsb' 12 2 = 0#2 := (append_hi (0#2 ++ 0#7) n 7 2).trans ((append_hi (0#2) 0#7 0 2).trans (all_bits 0#2))
      simp only [decodeShiftImm, e0, e1, e2]
      rfl) wf)

theorem RoundTrip.sshrImm (d a : BitVec 6) (n : BitVec 5) : RoundTrip.Statement (.sshrImm d a n) :=
  one_word rfl fun wf x => (decode_shift 0x06 d a (1#2 ++ 0#7 ++ n) x rfl).trans
    (finish_some _ (by
      have e0 : (1#2 ++ 0#7 ++ n : BitVec 14).extractLsb' 0 5 = n := append_lo (1#2 ++ 0#7) n
      have e1 : (1#2 ++ 0#7 ++ n : BitVec 14).extractLsb' 5 7 = 0#7 := (append_hi (1#2 ++ 0#7) n 0 7).trans (append_lo (1#2) 0#7)
      have e2 : (1#2 ++ 0#7 ++ n : BitVec 14).extractLsb' 12 2 = 1#2 := (append_hi (1#2 ++ 0#7) n 7 2).trans ((append_hi (1#2) 0#7 0 2).trans (all_bits 1#2))
      simp only [decodeShiftImm, e0, e1, e2]
      rfl) wf)

theorem RoundTrip.ssraImm (d a : BitVec 6) (n : BitVec 5) : RoundTrip.Statement (.ssraImm d a n) :=
  one_word rfl fun wf x => (decode_shift 0x06 d a (2#2 ++ 0#7 ++ n) x rfl).trans
    (finish_some _ (by
      have e0 : (2#2 ++ 0#7 ++ n : BitVec 14).extractLsb' 0 5 = n := append_lo (2#2 ++ 0#7) n
      have e1 : (2#2 ++ 0#7 ++ n : BitVec 14).extractLsb' 5 7 = 0#7 := (append_hi (2#2 ++ 0#7) n 0 7).trans (append_lo (2#2) 0#7)
      have e2 : (2#2 ++ 0#7 ++ n : BitVec 14).extractLsb' 12 2 = 2#2 := (append_hi (2#2 ++ 0#7) n 7 2).trans ((append_hi (2#2) 0#7 0 2).trans (all_bits 2#2))
      simp only [decodeShiftImm, e0, e1, e2]
      rfl) wf)

theorem RoundTrip.srotImm (d a : BitVec 6) (n : BitVec 5) : RoundTrip.Statement (.srotImm d a n) :=
  one_word rfl fun wf x => (decode_shift 0x06 d a (3#2 ++ 0#7 ++ n) x rfl).trans
    (finish_some _ (by
      have e0 : (3#2 ++ 0#7 ++ n : BitVec 14).extractLsb' 0 5 = n := append_lo (3#2 ++ 0#7) n
      have e1 : (3#2 ++ 0#7 ++ n : BitVec 14).extractLsb' 5 7 = 0#7 := (append_hi (3#2 ++ 0#7) n 0 7).trans (append_lo (3#2) 0#7)
      have e2 : (3#2 ++ 0#7 ++ n : BitVec 14).extractLsb' 12 2 = 3#2 := (append_hi (3#2 ++ 0#7) n 7 2).trans ((append_hi (3#2) 0#7 0 2).trans (all_bits 3#2))
      simp only [decodeShiftImm, e0, e1, e2]
      rfl) wf)

theorem RoundTrip.slit (d : BitVec 6) (tag : BitVec 4) (lit : Word) : RoundTrip.Statement (.slit d tag lit) :=
  two_words rfl fun wf => (decode_lit 0x07 d 0 (0#6 ++ tag ++ 0#4) lit rfl).trans
    (finish_some _ (by
      have e0 : (0#6 ++ tag ++ 0#4 : BitVec 14).extractLsb' 0 4 = 0#4 := append_lo (0#6 ++ tag) 0#4
      have e1 : (0#6 ++ tag ++ 0#4 : BitVec 14).extractLsb' 8 6 = 0#6 := (append_hi (0#6 ++ tag) 0#4 4 6).trans ((append_hi (0#6) tag 0 6).trans (all_bits 0#6))
      have e2 : (0#6 ++ tag ++ 0#4 : BitVec 14).extractLsb' 4 4 = tag := (append_hi (0#6 ++ tag) 0#4 0 4).trans (append_lo (0#6) tag)
      simp only [decodeLit, need, e0, e1, e2]
      rfl) wf)

theorem RoundTrip.saddLit (d a : BitVec 6) (lit : Word) : RoundTrip.Statement (.saddLit d a lit) :=
  two_words rfl fun wf => (decode_lit 0x07 d a 1 lit rfl).trans (finish_some _ rfl wf)

theorem RoundTrip.sandLit (d a : BitVec 6) (lit : Word) : RoundTrip.Statement (.sandLit d a lit) :=
  two_words rfl fun wf => (decode_lit 0x07 d a 2 lit rfl).trans (finish_some _ rfl wf)

theorem RoundTrip.sorLit (d a : BitVec 6) (lit : Word) : RoundTrip.Statement (.sorLit d a lit) :=
  two_words rfl fun wf => (decode_lit 0x07 d a 3 lit rfl).trans (finish_some _ rfl wf)

theorem RoundTrip.sxorLit (d a : BitVec 6) (lit : Word) : RoundTrip.Statement (.sxorLit d a lit) :=
  two_words rfl fun wf => (decode_lit 0x07 d a 4 lit rfl).trans (finish_some _ rfl wf)

theorem RoundTrip.smulLit (d a : BitVec 6) (lit : Word) : RoundTrip.Statement (.smulLit d a lit) :=
  two_words rfl fun wf => (decode_lit 0x07 d a 5 lit rfl).trans (finish_some _ rfl wf)

theorem RoundTrip.sld (d a : BitVec 6) (off : BitVec 8) (look : BitVec 4) : RoundTrip.Statement (.sld d a off look) :=
  one_word rfl fun wf x => (decode_smem 0x08 d a (off ++ look ++ 0#2) x rfl).trans
    (finish_some _ (by
      have e0 : (off ++ look ++ 0#2 : BitVec 14).extractLsb' 0 2 = 0#2 := append_lo (off ++ look) 0#2
      have e1 : (off ++ look ++ 0#2 : BitVec 14).extractLsb' 6 8 = off := (append_hi (off ++ look) 0#2 4 8).trans ((append_hi (off) look 0 8).trans (all_bits off))
      have e2 : (off ++ look ++ 0#2 : BitVec 14).extractLsb' 2 4 = look := (append_hi (off ++ look) 0#2 0 4).trans (append_lo (off) look)
      simp only [decodeScalarMem, e0, e1, e2]
      rfl) wf)

theorem RoundTrip.sst (d a : BitVec 6) (off : BitVec 8) : RoundTrip.Statement (.sst d a off) :=
  one_word rfl fun wf x => (decode_smem 0x08 d a (off ++ 0#4 ++ 1#2) x rfl).trans
    (finish_some _ (by
      have e0 : (off ++ 0#4 ++ 1#2 : BitVec 14).extractLsb' 0 2 = 1#2 := append_lo (off ++ 0#4) 1#2
      have e1 : (off ++ 0#4 ++ 1#2 : BitVec 14).extractLsb' 2 4 = 0#4 := (append_hi (off ++ 0#4) 1#2 0 4).trans (append_lo (off) 0#4)
      have e2 : (off ++ 0#4 ++ 1#2 : BitVec 14).extractLsb' 6 8 = off := (append_hi (off ++ 0#4) 1#2 4 8).trans ((append_hi (off) 0#4 0 8).trans (all_bits off))
      simp only [decodeScalarMem, e0, e1, e2]
      rfl) wf)

theorem RoundTrip.btset (n : BitVec 2) (a : BitVec 6) (perm : BitVec 2) : RoundTrip.Statement (.btset n a perm) :=
  one_word rfl fun wf x => (decode_SR 0x09 (n.setWidth 6) a (perm.setWidth 6) 0x00 x rfl).trans
    (finish_some _ (by simp [decodeSR, need]; have := n.isLt; have := perm.isLt; omega) wf)

theorem RoundTrip.btget (d : BitVec 6) (n : BitVec 2) (sel : BitVec 6) : RoundTrip.Statement (.btget d n sel) :=
  one_word rfl fun wf x => (decode_SR 0x09 d (n.setWidth 6) sel 0x01 x rfl).trans
    (finish_some _ (by simp [decodeSR, need]; have := n.isLt; omega) wf)

theorem RoundTrip.srd (d : BitVec 6) (r : BitVec 12) : RoundTrip.Statement (.srd d r) :=
  one_word rfl fun wf x => (decode_SY 0x0A d r 0x00 x rfl).trans (finish_some _ rfl wf)

theorem RoundTrip.swr (d : BitVec 6) (r : BitVec 12) : RoundTrip.Statement (.swr d r) :=
  one_word rfl fun wf x => (decode_SY 0x0A d r 0x01 x rfl).trans (finish_some _ rfl wf)

theorem RoundTrip.mand (d a b : BitVec 6) : RoundTrip.Statement (.mand d a b) :=
  one_word rfl fun wf x => (decode_SR 0x0B d a b 0x00 x rfl).trans (finish_some _ rfl wf)

theorem RoundTrip.mor (d a b : BitVec 6) : RoundTrip.Statement (.mor d a b) :=
  one_word rfl fun wf x => (decode_SR 0x0B d a b 0x01 x rfl).trans (finish_some _ rfl wf)

theorem RoundTrip.mxor (d a b : BitVec 6) : RoundTrip.Statement (.mxor d a b) :=
  one_word rfl fun wf x => (decode_SR 0x0B d a b 0x02 x rfl).trans (finish_some _ rfl wf)

theorem RoundTrip.mandn (d a b : BitVec 6) : RoundTrip.Statement (.mandn d a b) :=
  one_word rfl fun wf x => (decode_SR 0x0B d a b 0x03 x rfl).trans (finish_some _ rfl wf)

theorem RoundTrip.mnot (d a : BitVec 6) : RoundTrip.Statement (.mnot d a) :=
  one_word rfl fun wf x => (decode_SR 0x0B d a 0 0x04 x rfl).trans (finish_some _ rfl wf)

theorem RoundTrip.mpopc (d a : BitVec 6) : RoundTrip.Statement (.mpopc d a) :=
  one_word rfl fun wf x => (decode_SR 0x0B d a 0 0x05 x rfl).trans (finish_some _ rfl wf)

theorem RoundTrip.mfirst (d a : BitVec 6) : RoundTrip.Statement (.mfirst d a) :=
  one_word rfl fun wf x => (decode_SR 0x0B d a 0 0x06 x rfl).trans (finish_some _ rfl wf)

theorem RoundTrip.msetx (d a : BitVec 6) : RoundTrip.Statement (.msetx d a) :=
  one_word rfl fun wf x => (decode_SR 0x0B d a 0 0x07 x rfl).trans (finish_some _ rfl wf)

theorem RoundTrip.mgetx (d : BitVec 6) : RoundTrip.Statement (.mgetx d) :=
  one_word rfl fun wf x => (decode_SR 0x0B d 0 0 0x08 x rfl).trans (finish_some _ rfl wf)

theorem RoundTrip.mtest (d a : BitVec 6) : RoundTrip.Statement (.mtest d a) :=
  one_word rfl fun wf x => (decode_SR 0x0B d a 0 0x09 x rfl).trans (finish_some _ rfl wf)

theorem RoundTrip.br (u : BitVec 1) (cond : BitVec 4) (sc : BitVec 6) (disp : BitVec 15) :
    RoundTrip.Statement (.br u cond sc disp) :=
  one_word rfl fun wf x => (decode_BR 0x0C u cond sc disp x rfl).trans (finish_some _ rfl wf)

theorem RoundTrip.jmp (disp : BitVec 15) : RoundTrip.Statement (.jmp disp) :=
  one_word rfl fun wf x => (decode_BRF 0x0D 0 0 0 disp x rfl).trans (finish_some _ rfl wf)

theorem RoundTrip.call (sc : BitVec 6) (disp : BitVec 15) : RoundTrip.Statement (.call sc disp) :=
  one_word rfl fun wf x => (decode_BRF 0x0D 0 1 sc disp x rfl).trans (finish_some _ rfl wf)

theorem RoundTrip.ret (sc : BitVec 6) : RoundTrip.Statement (.ret sc) :=
  one_word rfl fun wf x => (decode_BRF 0x0D 0 2 sc 0 x rfl).trans (finish_some _ rfl wf)

theorem RoundTrip.jmpi (sc : BitVec 6) : RoundTrip.Statement (.jmpi sc) :=
  one_word rfl fun wf x => (decode_BRF 0x0D 0 3 sc 0 x rfl).trans (finish_some _ rfl wf)

theorem RoundTrip.loop (sc : BitVec 6) (disp : BitVec 15) : RoundTrip.Statement (.loop sc disp) :=
  one_word rfl fun wf x => (decode_BRF 0x0D 0 4 sc disp x rfl).trans (finish_some _ rfl wf)

theorem RoundTrip.nop  : RoundTrip.Statement (.nop) :=
  one_word rfl fun wf x => (decode_BRF 0x0E 0 0 0 0 x rfl).trans (finish_some _ rfl wf)

theorem RoundTrip.halt  : RoundTrip.Statement (.halt) :=
  one_word rfl fun wf x => (decode_BRF 0x0E 0 1 0 0 x rfl).trans (finish_some _ rfl wf)

theorem RoundTrip.yield (sc : BitVec 6) (disp : BitVec 15) : RoundTrip.Statement (.yield sc disp) :=
  one_word rfl fun wf x => (decode_BRF 0x0E 0 2 sc disp x rfl).trans (finish_some _ rfl wf)

theorem RoundTrip.ipref (disp : BitVec 15) : RoundTrip.Statement (.ipref disp) :=
  one_word rfl fun wf x => (decode_BRF 0x0E 0 3 0 disp x rfl).trans (finish_some _ rfl wf)

theorem RoundTrip.bara (n : BitVec 6) : RoundTrip.Statement (.bara n) :=
  one_word rfl fun wf x => (decode_SR 0x0F 0 n 0 0x00 x rfl).trans (finish_some _ rfl wf)

theorem RoundTrip.barw (n : BitVec 6) : RoundTrip.Statement (.barw n) :=
  one_word rfl fun wf x => (decode_SR 0x0F 0 n 0 0x01 x rfl).trans (finish_some _ rfl wf)

theorem RoundTrip.baraw (n : BitVec 6) : RoundTrip.Statement (.baraw n) :=
  one_word rfl fun wf x => (decode_SR 0x0F 0 n 0 0x02 x rfl).trans (finish_some _ rfl wf)

theorem RoundTrip.vadd (d a : BitVec 7) (b : Src) : RoundTrip.Statement (.vadd d a b) :=
  one_word rfl fun wf x => (decode_VR 0x10 d a b.bs b.num 0 x rfl).trans
    (finish_some _ (src_encoded b fun b => some (.vadd d a b)) wf)

theorem RoundTrip.vsub (d a : BitVec 7) (b : Src) : RoundTrip.Statement (.vsub d a b) :=
  one_word rfl fun wf x => (decode_VR 0x10 d a b.bs b.num 1 x rfl).trans
    (finish_some _ (src_encoded b fun b => some (.vsub d a b)) wf)

theorem RoundTrip.vmul (d a : BitVec 7) (b : Src) : RoundTrip.Statement (.vmul d a b) :=
  one_word rfl fun wf x => (decode_VR 0x10 d a b.bs b.num 2 x rfl).trans
    (finish_some _ (src_encoded b fun b => some (.vmul d a b)) wf)

theorem RoundTrip.vmulhi (d a : BitVec 7) (b : Src) : RoundTrip.Statement (.vmulhi d a b) :=
  one_word rfl fun wf x => (decode_VR 0x10 d a b.bs b.num 3 x rfl).trans
    (finish_some _ (src_encoded b fun b => some (.vmulhi d a b)) wf)

theorem RoundTrip.vmulhn (d a : BitVec 7) (b : Src) : RoundTrip.Statement (.vmulhn d a b) :=
  one_word rfl fun wf x => (decode_VR 0x10 d a b.bs b.num 4 x rfl).trans
    (finish_some _ (src_encoded b fun b => some (.vmulhn d a b)) wf)

theorem RoundTrip.vmin (d a : BitVec 7) (b : Src) : RoundTrip.Statement (.vmin d a b) :=
  one_word rfl fun wf x => (decode_VR 0x10 d a b.bs b.num 5 x rfl).trans
    (finish_some _ (src_encoded b fun b => some (.vmin d a b)) wf)

theorem RoundTrip.vmax (d a : BitVec 7) (b : Src) : RoundTrip.Statement (.vmax d a b) :=
  one_word rfl fun wf x => (decode_VR 0x10 d a b.bs b.num 6 x rfl).trans
    (finish_some _ (src_encoded b fun b => some (.vmax d a b)) wf)

theorem RoundTrip.vminn (d a : BitVec 7) (b : Src) : RoundTrip.Statement (.vminn d a b) :=
  one_word rfl fun wf x => (decode_VR 0x10 d a b.bs b.num 7 x rfl).trans
    (finish_some _ (src_encoded b fun b => some (.vminn d a b)) wf)

theorem RoundTrip.vmaxn (d a : BitVec 7) (b : Src) : RoundTrip.Statement (.vmaxn d a b) :=
  one_word rfl fun wf x => (decode_VR 0x10 d a b.bs b.num 8 x rfl).trans
    (finish_some _ (src_encoded b fun b => some (.vmaxn d a b)) wf)

theorem RoundTrip.vadds (d a : BitVec 7) (b : Src) : RoundTrip.Statement (.vadds d a b) :=
  one_word rfl fun wf x => (decode_VR 0x10 d a b.bs b.num 9 x rfl).trans
    (finish_some _ (src_encoded b fun b => some (.vadds d a b)) wf)

theorem RoundTrip.vsubs (d a : BitVec 7) (b : Src) : RoundTrip.Statement (.vsubs d a b) :=
  one_word rfl fun wf x => (decode_VR 0x10 d a b.bs b.num 10 x rfl).trans
    (finish_some _ (src_encoded b fun b => some (.vsubs d a b)) wf)

theorem RoundTrip.vabs (d a : BitVec 7) : RoundTrip.Statement (.vabs d a) :=
  one_word rfl fun wf x => (decode_VR 0x10 d a 0 0 11 x rfl).trans (finish_some _ rfl wf)

theorem RoundTrip.vand (d a : BitVec 7) (b : Src) : RoundTrip.Statement (.vand d a b) :=
  one_word rfl fun wf x => (decode_VR 0x11 d a b.bs b.num 0 x rfl).trans
    (finish_some _ (src_encoded b fun b => some (.vand d a b)) wf)

theorem RoundTrip.vor (d a : BitVec 7) (b : Src) : RoundTrip.Statement (.vor d a b) :=
  one_word rfl fun wf x => (decode_VR 0x11 d a b.bs b.num 1 x rfl).trans
    (finish_some _ (src_encoded b fun b => some (.vor d a b)) wf)

theorem RoundTrip.vxor (d a : BitVec 7) (b : Src) : RoundTrip.Statement (.vxor d a b) :=
  one_word rfl fun wf x => (decode_VR 0x11 d a b.bs b.num 2 x rfl).trans
    (finish_some _ (src_encoded b fun b => some (.vxor d a b)) wf)

theorem RoundTrip.vandn (d a : BitVec 7) (b : Src) : RoundTrip.Statement (.vandn d a b) :=
  one_word rfl fun wf x => (decode_VR 0x11 d a b.bs b.num 3 x rfl).trans
    (finish_some _ (src_encoded b fun b => some (.vandn d a b)) wf)

theorem RoundTrip.vshl (d a : BitVec 7) (b : Src) : RoundTrip.Statement (.vshl d a b) :=
  one_word rfl fun wf x => (decode_VR 0x11 d a b.bs b.num 4 x rfl).trans
    (finish_some _ (src_encoded b fun b => some (.vshl d a b)) wf)

theorem RoundTrip.vshr (d a : BitVec 7) (b : Src) : RoundTrip.Statement (.vshr d a b) :=
  one_word rfl fun wf x => (decode_VR 0x11 d a b.bs b.num 5 x rfl).trans
    (finish_some _ (src_encoded b fun b => some (.vshr d a b)) wf)

theorem RoundTrip.vsra (d a : BitVec 7) (b : Src) : RoundTrip.Statement (.vsra d a b) :=
  one_word rfl fun wf x => (decode_VR 0x11 d a b.bs b.num 6 x rfl).trans
    (finish_some _ (src_encoded b fun b => some (.vsra d a b)) wf)

theorem RoundTrip.vclz (d a : BitVec 7) : RoundTrip.Statement (.vclz d a) :=
  one_word rfl fun wf x => (decode_VR 0x11 d a 0 0 7 x rfl).trans (finish_some _ rfl wf)

theorem RoundTrip.vpopc (d a : BitVec 7) : RoundTrip.Statement (.vpopc d a) :=
  one_word rfl fun wf x => (decode_VR 0x11 d a 0 0 8 x rfl).trans (finish_some _ rfl wf)

theorem RoundTrip.vmad (d a : BitVec 7) (b : Src) (c : BitVec 7) : RoundTrip.Statement (.vmad d a b c) :=
  two_words rfl fun wf => (decode_VX 0x12 d a b.bs b.num 0 { vc := c } rfl).trans
    (finish_some _ ((src_encoded b fun b => need _ (.vmad d a b c)).trans (need_true (beq_self_eq_true _))) wf)

theorem RoundTrip.vsel (d a : BitVec 7) (b : Src) (c : BitVec 6) : RoundTrip.Statement (.vsel d a b c) :=
  two_words rfl fun wf => (decode_VX 0x12 d a b.bs b.num 1 { vc := c.setWidth 7 } rfl).trans
    (finish_some _ (by simp [decodeVX, need, src_encoded, lo6_widened]) wf)

theorem RoundTrip.vcmp (d : BitVec 6) (a : BitVec 7) (b : Src) (cc : BitVec 4) :
    RoundTrip.Statement (.vcmp d a b cc) :=
  two_words rfl fun wf => (decode_VX 0x12 (d.setWidth 7) a b.bs b.num 2 { fn2 := cc.setWidth 13 } rfl).trans
    (finish_some _ (by simp [decodeVX, need, src_encoded, lo6_widened, hi0_widened, extract_widened]) wf)

theorem RoundTrip.vmov (d : BitVec 7) (b : Src) : RoundTrip.Statement (.vmov d b) :=
  one_word rfl fun wf x => (decode_VR 0x13 d 0 b.bs b.num 0 x rfl).trans
    (finish_some _ (src_encoded b fun b => some (.vmov d b)) wf)

theorem RoundTrip.vidx (d : BitVec 7) (b : Option (BitVec 6)) : RoundTrip.Statement (.vidx d b) := by
  cases b with
  | none =>
    exact one_word rfl fun wf x => (decode_VR 0x13 d 0 0 0 1 x rfl).trans (finish_some _ rfl wf)
  | some b =>
    exact one_word rfl fun wf x => (decode_VR 0x13 d 0 1 (b.setWidth 7) 1 x rfl).trans
      (finish_some _ (by simp [decodeVR, need, hi0_widened, lo6_widened]) wf)

theorem RoundTrip.vbcast (d a : BitVec 7) (b : BitVec 6) : RoundTrip.Statement (.vbcast d a b) :=
  one_word rfl fun wf x => (decode_VR 0x13 d a 1 (b.setWidth 7) 2 x rfl).trans
    (finish_some _ (by simp [decodeVR, need, hi0_widened, lo6_widened]) wf)

theorem RoundTrip.fadd (d a : BitVec 7) (b : Src) : RoundTrip.Statement (.fadd d a b) :=
  one_word rfl fun wf x => (decode_VR 0x14 d a b.bs b.num 0 x rfl).trans
    (finish_some _ (src_encoded b fun b => some (.fadd d a b)) wf)

theorem RoundTrip.fsub (d a : BitVec 7) (b : Src) : RoundTrip.Statement (.fsub d a b) :=
  one_word rfl fun wf x => (decode_VR 0x14 d a b.bs b.num 1 x rfl).trans
    (finish_some _ (src_encoded b fun b => some (.fsub d a b)) wf)

theorem RoundTrip.fmul (d a : BitVec 7) (b : Src) : RoundTrip.Statement (.fmul d a b) :=
  one_word rfl fun wf x => (decode_VR 0x14 d a b.bs b.num 2 x rfl).trans
    (finish_some _ (src_encoded b fun b => some (.fmul d a b)) wf)

theorem RoundTrip.fmin (d a : BitVec 7) (b : Src) : RoundTrip.Statement (.fmin d a b) :=
  one_word rfl fun wf x => (decode_VR 0x14 d a b.bs b.num 3 x rfl).trans
    (finish_some _ (src_encoded b fun b => some (.fmin d a b)) wf)

theorem RoundTrip.fmax (d a : BitVec 7) (b : Src) : RoundTrip.Statement (.fmax d a b) :=
  one_word rfl fun wf x => (decode_VR 0x14 d a b.bs b.num 4 x rfl).trans
    (finish_some _ (src_encoded b fun b => some (.fmax d a b)) wf)

theorem RoundTrip.fscale (d a : BitVec 7) (b : Src) : RoundTrip.Statement (.fscale d a b) :=
  one_word rfl fun wf x => (decode_VR 0x14 d a b.bs b.num 5 x rfl).trans
    (finish_some _ (src_encoded b fun b => some (.fscale d a b)) wf)

theorem RoundTrip.fclass (d a : BitVec 7) : RoundTrip.Statement (.fclass d a) :=
  one_word rfl fun wf x => (decode_VR 0x14 d a 0 0 6 x rfl).trans (finish_some _ rfl wf)

theorem RoundTrip.ffma (d a : BitVec 7) (b : Src) (c : BitVec 7) (rm : BitVec 3) :
    RoundTrip.Statement (.ffma d a b c rm) :=
  two_words rfl fun wf => (decode_VX 0x15 d a b.bs b.num 0 { vc := c, rm := rm } rfl).trans
    (finish_some _ ((src_encoded b fun b => need _ (.ffma d a b c rm)).trans (need_true (beq_self_eq_true _))) wf)

theorem RoundTrip.fcmp (d : BitVec 6) (a : BitVec 7) (b : Src) (cc : BitVec 4) :
    RoundTrip.Statement (.fcmp d a b cc) :=
  two_words rfl fun wf => (decode_VX 0x15 (d.setWidth 7) a b.bs b.num 1 { fn2 := cc.setWidth 13 } rfl).trans
    (finish_some _ (by simp [decodeVX, need, src_encoded, lo6_widened, hi0_widened, extract_widened]) wf)

theorem RoundTrip.frnd (d a : BitVec 7) (rm : BitVec 3) : RoundTrip.Statement (.frnd d a rm) :=
  two_words rfl fun wf => (decode_VX 0x15 d a 0 0 2 { rm := rm } rfl).trans (finish_some _ (need_true (by simp)) wf)

theorem RoundTrip.faddRm (d a : BitVec 7) (b : Src) (rm : BitVec 3) : RoundTrip.Statement (.faddRm d a b rm) :=
  two_words rfl fun wf => (decode_VX 0x15 d a b.bs b.num 3 { rm := rm } rfl).trans
    (finish_some _ ((src_encoded b fun b => need _ (.faddRm d a b rm)).trans (need_true (beq_self_eq_true _))) wf)

theorem RoundTrip.fsubRm (d a : BitVec 7) (b : Src) (rm : BitVec 3) : RoundTrip.Statement (.fsubRm d a b rm) :=
  two_words rfl fun wf => (decode_VX 0x15 d a b.bs b.num 4 { rm := rm } rfl).trans
    (finish_some _ ((src_encoded b fun b => need _ (.fsubRm d a b rm)).trans (need_true (beq_self_eq_true _))) wf)

theorem RoundTrip.fmulRm (d a : BitVec 7) (b : Src) (rm : BitVec 3) : RoundTrip.Statement (.fmulRm d a b rm) :=
  two_words rfl fun wf => (decode_VX 0x15 d a b.bs b.num 5 { rm := rm } rfl).trans
    (finish_some _ ((src_encoded b fun b => need _ (.fmulRm d a b rm)).trans (need_true (beq_self_eq_true _))) wf)

theorem RoundTrip.hadd2Bf16 (d a : BitVec 7) (b : Src) : RoundTrip.Statement (.hadd2Bf16 d a b) :=
  one_word rfl fun wf x => (decode_VR 0x16 d a b.bs b.num 0 x rfl).trans
    (finish_some _ (src_encoded b fun b => some (.hadd2Bf16 d a b)) wf)

theorem RoundTrip.hadd2F16 (d a : BitVec 7) (b : Src) : RoundTrip.Statement (.hadd2F16 d a b) :=
  one_word rfl fun wf x => (decode_VR 0x16 d a b.bs b.num 1 x rfl).trans
    (finish_some _ (src_encoded b fun b => some (.hadd2F16 d a b)) wf)

theorem RoundTrip.hmul2Bf16 (d a : BitVec 7) (b : Src) : RoundTrip.Statement (.hmul2Bf16 d a b) :=
  one_word rfl fun wf x => (decode_VR 0x16 d a b.bs b.num 2 x rfl).trans
    (finish_some _ (src_encoded b fun b => some (.hmul2Bf16 d a b)) wf)

theorem RoundTrip.hmul2F16 (d a : BitVec 7) (b : Src) : RoundTrip.Statement (.hmul2F16 d a b) :=
  one_word rfl fun wf x => (decode_VR 0x16 d a b.bs b.num 3 x rfl).trans
    (finish_some _ (src_encoded b fun b => some (.hmul2F16 d a b)) wf)

theorem RoundTrip.hfma2 (d a : BitVec 7) (b : Src) (c : BitVec 7) (rm : BitVec 3) (ty : BitVec 4) :
    RoundTrip.Statement (.hfma2 d a b c rm ty) :=
  two_words rfl fun wf => (decode_VX 0x17 d a b.bs b.num 0 { vc := c, rm := rm, ty := ty } rfl).trans
    (finish_some _ ((src_encoded b fun b => need _ (.hfma2 d a b c rm ty)).trans (need_true (beq_self_eq_true _))) wf)

theorem RoundTrip.hadd2 (d a : BitVec 7) (b : Src) (rm : BitVec 3) (ty : BitVec 4) :
    RoundTrip.Statement (.hadd2 d a b rm ty) :=
  two_words rfl fun wf => (decode_VX 0x17 d a b.bs b.num 1 { rm := rm, ty := ty } rfl).trans
    (finish_some _ ((src_encoded b fun b => need _ (.hadd2 d a b rm ty)).trans (need_true (beq_self_eq_true _))) wf)

theorem RoundTrip.hmul2 (d a : BitVec 7) (b : Src) (rm : BitVec 3) (ty : BitVec 4) :
    RoundTrip.Statement (.hmul2 d a b rm ty) :=
  two_words rfl fun wf => (decode_VX 0x17 d a b.bs b.num 2 { rm := rm, ty := ty } rfl).trans
    (finish_some _ ((src_encoded b fun b => need _ (.hmul2 d a b rm ty)).trans (need_true (beq_self_eq_true _))) wf)

theorem RoundTrip.frcp (d a : BitVec 7) (look : BitVec 4) : RoundTrip.Statement (.frcp d a look) :=
  two_words rfl fun wf => (decode_VX 0x18 d a 0 0 0 { look := look } rfl).trans
    (finish_some _ (need_true (by simp)) wf)

theorem RoundTrip.frsq (d a : BitVec 7) (look : BitVec 4) : RoundTrip.Statement (.frsq d a look) :=
  two_words rfl fun wf => (decode_VX 0x18 d a 0 0 1 { look := look } rfl).trans
    (finish_some _ (need_true (by simp)) wf)

theorem RoundTrip.fsqrt (d a : BitVec 7) (rm : BitVec 3) (look : BitVec 4) :
    RoundTrip.Statement (.fsqrt d a rm look) :=
  two_words rfl fun wf => (decode_VX 0x18 d a 0 0 2 { rm := rm, look := look } rfl).trans
    (finish_some _ (need_true (by simp)) wf)

theorem RoundTrip.fdiv (d a : BitVec 7) (b : Src) (rm : BitVec 3) (look : BitVec 4) :
    RoundTrip.Statement (.fdiv d a b rm look) :=
  two_words rfl fun wf => (decode_VX 0x18 d a b.bs b.num 3 { rm := rm, look := look } rfl).trans
    (finish_some _ ((src_encoded b fun b => need _ (.fdiv d a b rm look)).trans (need_true (beq_self_eq_true _))) wf)

theorem RoundTrip.fexp2 (d a : BitVec 7) (look : BitVec 4) : RoundTrip.Statement (.fexp2 d a look) :=
  two_words rfl fun wf => (decode_VX 0x18 d a 0 0 4 { look := look } rfl).trans
    (finish_some _ (need_true (by simp)) wf)

theorem RoundTrip.flog2 (d a : BitVec 7) (look : BitVec 4) : RoundTrip.Statement (.flog2 d a look) :=
  two_words rfl fun wf => (decode_VX 0x18 d a 0 0 5 { look := look } rfl).trans
    (finish_some _ (need_true (by simp)) wf)

theorem RoundTrip.fsin (d a : BitVec 7) (look : BitVec 4) : RoundTrip.Statement (.fsin d a look) :=
  two_words rfl fun wf => (decode_VX 0x18 d a 0 0 6 { look := look } rfl).trans
    (finish_some _ (need_true (by simp)) wf)

theorem RoundTrip.fcos (d a : BitVec 7) (look : BitVec 4) : RoundTrip.Statement (.fcos d a look) :=
  two_words rfl fun wf => (decode_VX 0x18 d a 0 0 7 { look := look } rfl).trans
    (finish_some _ (need_true (by simp)) wf)

theorem RoundTrip.cvt (d a : BitVec 7) (t s : BitVec 4) (rm : BitVec 3) (sat : BitVec 1) (i j : BitVec 2) :
    RoundTrip.Statement (.cvt d a t s rm sat i j) :=
  two_words rfl fun wf => (decode_VX 0x19 d a 0 0 0 { rm := rm, sat := sat, ty := t, fn2 := 0#5 ++ j ++ i ++ s } rfl).trans
    (finish_some _ (by
      have e0 : (0#5 ++ j ++ i ++ s : BitVec 13).extractLsb' 6 2 = j := (append_hi (0#5 ++ j ++ i) s 2 2).trans ((append_hi (0#5 ++ j) i 0 2).trans (append_lo (0#5) j))
      have e1 : (0#5 ++ j ++ i ++ s : BitVec 13).extractLsb' 4 2 = i := (append_hi (0#5 ++ j ++ i) s 0 2).trans (append_lo (0#5 ++ j) i)
      have e2 : (0#5 ++ j ++ i ++ s : BitVec 13).extractLsb' 0 4 = s := append_lo (0#5 ++ j ++ i) s
      simp only [decodeVX, e0, e1, e2]
      simp [need]) wf)

theorem RoundTrip.cvtsr (d a : BitVec 7) (t : BitVec 4) (sat : BitVec 1) (j : BitVec 2) :
    RoundTrip.Statement (.cvtsr d a t sat j) :=
  two_words rfl fun wf => (decode_VX 0x19 d a 0 0 1 { sat := sat, ty := t, fn2 := 0#5 ++ j ++ 0#2 ++ 7#4 } rfl).trans
    (finish_some _ (by
      have e0 : (0#5 ++ j ++ 0#2 ++ 7#4 : BitVec 13).extractLsb' 6 2 = j := (append_hi (0#5 ++ j ++ 0#2) 7#4 2 2).trans ((append_hi (0#5 ++ j) 0#2 0 2).trans (append_lo (0#5) j))
      simp only [decodeVX, e0]
      simp [need]) wf)

theorem RoundTrip.pack2 (d a : BitVec 7) (b : Src) (ty : BitVec 4) : RoundTrip.Statement (.pack2 d a b ty) :=
  two_words rfl fun wf => (decode_VX 0x19 d a b.bs b.num 2 { ty := ty } rfl).trans
    (finish_some _ ((src_encoded b fun b => need _ (.pack2 d a b ty)).trans (need_true (beq_self_eq_true _))) wf)

theorem RoundTrip.unpack2 (d a : BitVec 7) (ty : BitVec 4) (h : BitVec 1) : RoundTrip.Statement (.unpack2 d a ty h) :=
  two_words rfl fun wf => (decode_VX 0x19 d a 0 0 3 { ty := ty, fn2 := h.setWidth 13 } rfl).trans
    (finish_some _ (by simp [decodeVX, need, extract_widened]) wf)

theorem RoundTrip.pack4 (d a b : BitVec 7) (ty : BitVec 4) : RoundTrip.Statement (.pack4 d a b ty) :=
  two_words rfl fun wf => (decode_VX 0x19 d a 0 b 4 { ty := ty } rfl).trans (finish_some _ (need_true (by simp)) wf)

theorem RoundTrip.unpack4 (d a : BitVec 7) (ty : BitVec 4) (k : BitVec 2) : RoundTrip.Statement (.unpack4 d a ty k) :=
  two_words rfl fun wf => (decode_VX 0x19 d a 0 0 5 { ty := ty, fn2 := k.setWidth 13 } rfl).trans
    (finish_some _ (by simp [decodeVX, need, extract_widened]) wf)

theorem RoundTrip.tagrd (d : BitVec 6) (a : Src) : RoundTrip.Statement (.tagrd d a) := by
  cases a with
  | v a =>
    exact two_words rfl fun wf => (decode_VX 0x19 (d.setWidth 7) a 0 0 6 {} rfl).trans
      (finish_some _ (by simp [decodeVX, need, hi0_widened, lo6_widened]) wf)
  | s b =>
    exact two_words rfl fun wf => (decode_VX 0x19 (d.setWidth 7) 0 1 (b.setWidth 7) 6 {} rfl).trans
      (finish_some _ (by simp [decodeVX, need, hi0_widened, lo6_widened]) wf)

theorem RoundTrip.tagwr (d : Src) (tag : BitVec 4) : RoundTrip.Statement (.tagwr d tag) := by
  cases d with
  | v d =>
    have e : (tag.setWidth 13).extractLsb' 4 1 = 0#1 := by
      ext i hi
      simp
    exact two_words rfl fun wf => (decode_VX 0x19 d 0 0 0 7 { fn2 := tag.setWidth 13 } rfl).trans
      (finish_some _ (by simp [decodeVX, need, e, extract_widened]) wf)
  | s d =>
    have e0 : (0#8 ++ 1#1 ++ tag : BitVec 13).extractLsb' 4 1 = 1#1 := (append_hi (0#8 ++ 1#1) tag 0 1).trans rfl
    have e1 : (0#8 ++ 1#1 ++ tag : BitVec 13).extractLsb' 0 4 = tag := append_lo (0#8 ++ 1#1) tag
    exact two_words rfl fun wf => (decode_VX 0x19 (d.setWidth 7) 0 0 0 7 { fn2 := 0#8 ++ 1#1 ++ tag } rfl).trans
      (finish_some _ (by simp only [decodeVX, e0, e1]; simp [need, hi0_widened, lo6_widened]) wf)

theorem RoundTrip.vrng (d : BitVec 7) : RoundTrip.Statement (.vrng d) :=
  two_words rfl fun wf => (decode_VX 0x19 d 0 0 0 8 {} rfl).trans (finish_some _ (need_true (by simp)) wf)

theorem RoundTrip.zip2 (d a : BitVec 7) : RoundTrip.Statement (.zip2 d a) :=
  two_words rfl fun wf => (decode_VX 0x1A d a 0 0 0 {} rfl).trans (finish_some _ (need_true (by simp)) wf)

theorem RoundTrip.zip3 (d a : BitVec 7) : RoundTrip.Statement (.zip3 d a) :=
  two_words rfl fun wf => (decode_VX 0x1A d a 0 0 1 {} rfl).trans (finish_some _ (need_true (by simp)) wf)

theorem RoundTrip.zip4 (d a : BitVec 7) : RoundTrip.Statement (.zip4 d a) :=
  two_words rfl fun wf => (decode_VX 0x1A d a 0 0 2 {} rfl).trans (finish_some _ (need_true (by simp)) wf)

theorem RoundTrip.unzip2 (d a : BitVec 7) : RoundTrip.Statement (.unzip2 d a) :=
  two_words rfl fun wf => (decode_VX 0x1A d a 0 0 3 {} rfl).trans (finish_some _ (need_true (by simp)) wf)

theorem RoundTrip.unzip3 (d a : BitVec 7) : RoundTrip.Statement (.unzip3 d a) :=
  two_words rfl fun wf => (decode_VX 0x1A d a 0 0 4 {} rfl).trans (finish_some _ (need_true (by simp)) wf)

theorem RoundTrip.unzip4 (d a : BitVec 7) : RoundTrip.Statement (.unzip4 d a) :=
  two_words rfl fun wf => (decode_VX 0x1A d a 0 0 5 {} rfl).trans (finish_some _ (need_true (by simp)) wf)

theorem RoundTrip.lshuf (d a : BitVec 7) (b : Src) : RoundTrip.Statement (.lshuf d a b) :=
  two_words rfl fun wf => (decode_VX 0x1A d a b.bs b.num 6 {} rfl).trans
    (finish_some _ ((src_encoded b fun b => need _ (.lshuf d a b)).trans (need_true (beq_self_eq_true _))) wf)

theorem laneIdx_encoded (i : LaneIdx) (k : LaneIdx → Option Instr) : laneIdx i.bs i.num (i.fn2.extractLsb' 0 7) k = k i := by
  cases i with
  | imm j => simp [laneIdx, LaneIdx.bs, LaneIdx.num, LaneIdx.fn2, extract_widened]
  | s r => simp [laneIdx, LaneIdx.bs, LaneIdx.num, hi0_widened, lo6_widened]

theorem RoundTrip.lrot (d a : BitVec 7) (k : LaneIdx) : RoundTrip.Statement (.lrot d a k) :=
  two_words rfl fun wf => (decode_VX 0x1A d a k.bs k.num 7 { fn2 := k.fn2 } rfl).trans
    (finish_some _ (by simp [decodeVX, need, laneIdx_encoded]) wf)

theorem RoundTrip.lread (d : BitVec 6) (a : BitVec 7) (k : LaneIdx) (look : BitVec 4) : RoundTrip.Statement (.lread d a k look) :=
  two_words rfl fun wf => (decode_VX 0x1A (d.setWidth 7) a k.bs k.num 8 { look := look, fn2 := k.fn2 } rfl).trans
    (finish_some _ (by simp [decodeVX, need, laneIdx_encoded, hi0_widened, lo6_widened]) wf)

theorem RoundTrip.lwrite (d : BitVec 7) (a : BitVec 6) (k : LaneIdx) : RoundTrip.Statement (.lwrite d a k) :=
  two_words rfl fun wf => (decode_VX 0x1A d (a.setWidth 7) k.bs k.num 9 { fn2 := k.fn2 } rfl).trans
    (finish_some _ (by simp [decodeVX, need, laneIdx_encoded, hi0_widened, lo6_widened]) wf)

theorem RoundTrip.faddx (d a : BitVec 7) (b : Src) : RoundTrip.Statement (.faddx d a b) :=
  one_word rfl fun wf x => (decode_VR 0x1B d a b.bs b.num 0 x rfl).trans
    (finish_some _ (src_encoded b fun b => some (.faddx d a b)) wf)

theorem RoundTrip.fsubx (d a : BitVec 7) (b : Src) : RoundTrip.Statement (.fsubx d a b) :=
  one_word rfl fun wf x => (decode_VR 0x1B d a b.bs b.num 1 x rfl).trans
    (finish_some _ (src_encoded b fun b => some (.fsubx d a b)) wf)

theorem RoundTrip.fmulx (d a : BitVec 7) (b : Src) : RoundTrip.Statement (.fmulx d a b) :=
  one_word rfl fun wf x => (decode_VR 0x1B d a b.bs b.num 2 x rfl).trans
    (finish_some _ (src_encoded b fun b => some (.fmulx d a b)) wf)

theorem RoundTrip.dwadd (d a : BitVec 7) (b : Src) : RoundTrip.Statement (.dwadd d a b) :=
  two_words rfl fun wf => (decode_VX 0x1C d a b.bs b.num 0 {} rfl).trans
    (finish_some _ ((src_encoded b fun b => need _ (.dwadd d a b)).trans (need_true (beq_self_eq_true _))) wf)

theorem RoundTrip.dwadds (d a : BitVec 7) (b : Src) : RoundTrip.Statement (.dwadds d a b) :=
  two_words rfl fun wf => (decode_VX 0x1C d a b.bs b.num 1 {} rfl).trans
    (finish_some _ ((src_encoded b fun b => need _ (.dwadds d a b)).trans (need_true (beq_self_eq_true _))) wf)

theorem RoundTrip.dwmul (d a : BitVec 7) (b : Src) : RoundTrip.Statement (.dwmul d a b) :=
  two_words rfl fun wf => (decode_VX 0x1C d a b.bs b.num 2 {} rfl).trans
    (finish_some _ ((src_encoded b fun b => need _ (.dwmul d a b)).trans (need_true (beq_self_eq_true _))) wf)

theorem RoundTrip.dwmuls (d a : BitVec 7) (b : Src) : RoundTrip.Statement (.dwmuls d a b) :=
  two_words rfl fun wf => (decode_VX 0x1C d a b.bs b.num 3 {} rfl).trans
    (finish_some _ ((src_encoded b fun b => need _ (.dwmuls d a b)).trans (need_true (beq_self_eq_true _))) wf)

theorem RoundTrip.dwdiv (d a : BitVec 7) (b : Src) (look : BitVec 4) : RoundTrip.Statement (.dwdiv d a b look) :=
  two_words rfl fun wf => (decode_VX 0x1C d a b.bs b.num 4 { look := look } rfl).trans
    (finish_some _ ((src_encoded b fun b => need _ (.dwdiv d a b look)).trans (need_true (beq_self_eq_true _))) wf)

theorem RoundTrip.dwsqrt (d a : BitVec 7) (look : BitVec 4) : RoundTrip.Statement (.dwsqrt d a look) :=
  two_words rfl fun wf => (decode_VX 0x1C d a 0 0 5 { look := look } rfl).trans
    (finish_some _ (need_true (by simp)) wf)

theorem RoundTrip.dwnorm (d a : BitVec 7) : RoundTrip.Statement (.dwnorm d a) :=
  two_words rfl fun wf => (decode_VX 0x1C d a 0 0 6 {} rfl).trans (finish_some _ (need_true (by simp)) wf)

theorem RoundTrip.dwcvt (d a : BitVec 7) (fromPair : BitVec 1) (ty : BitVec 4) (rm : BitVec 3) :
    RoundTrip.Statement (.dwcvt d a fromPair ty rm) :=
  two_words rfl fun wf => (decode_VX 0x1C d a 0 0 7 { rm := rm, ty := ty, fn2 := fromPair.setWidth 13 } rfl).trans
    (finish_some _ (by simp [decodeVX, need, extract_widened]) wf)

theorem RoundTrip.dwcmp (d : BitVec 6) (a : BitVec 7) (b : Src) (cc : BitVec 4) :
    RoundTrip.Statement (.dwcmp d a b cc) :=
  two_words rfl fun wf => (decode_VX 0x1C (d.setWidth 7) a b.bs b.num 8 { fn2 := cc.setWidth 13 } rfl).trans
    (finish_some _ (by simp [decodeVX, need, src_encoded, lo6_widened, hi0_widened, extract_widened]) wf)

theorem RoundTrip.creduce (d : BitVec 6) (a : BitVec 7) (c : BitVec 6) (single : BitVec 1) (look : BitVec 4) :
    RoundTrip.Statement (.creduce d a c single look) :=
  two_words rfl fun wf => (decode_VX 0x1D (d.setWidth 7) a 0 0 0 { vc := c.setWidth 7, look := look, fn2 := single.setWidth 13 } rfl).trans
    (finish_some _ (by simp [decodeVX, need, lo6_widened, hi0_widened, extract_widened]) wf)

theorem RoundTrip.credseg (d a : BitVec 7) (c : BitVec 6) (single : BitVec 1) (look : BitVec 4) :
    RoundTrip.Statement (.credseg d a c single look) :=
  two_words rfl fun wf => (decode_VX 0x1D d a 0 0 1 { vc := c.setWidth 7, look := look, fn2 := single.setWidth 13 } rfl).trans
    (finish_some _ (by simp [decodeVX, need, lo6_widened, extract_widened]) wf)

theorem RoundTrip.qswapx (d a : BitVec 7) : RoundTrip.Statement (.qswapx d a) :=
  one_word rfl fun wf x => (decode_VR 0x1E d a 0 0 0 x rfl).trans (finish_some _ rfl wf)

theorem RoundTrip.qswapy (d a : BitVec 7) : RoundTrip.Statement (.qswapy d a) :=
  one_word rfl fun wf x => (decode_VR 0x1E d a 0 0 1 x rfl).trans (finish_some _ rfl wf)

theorem RoundTrip.qswapd (d a : BitVec 7) : RoundTrip.Statement (.qswapd d a) :=
  one_word rfl fun wf x => (decode_VR 0x1E d a 0 0 2 x rfl).trans (finish_some _ rfl wf)

theorem RoundTrip.qbcast (d a : BitVec 7) (k : BitVec 2) : RoundTrip.Statement (.qbcast d a k) :=
  one_word rfl fun wf x => (decode_VR 0x1E d a 0 (k.setWidth 7) 3 x rfl).trans
    (finish_some _ (by simp [decodeVR, need]; have := k.isLt; omega) wf)

theorem RoundTrip.greduce (d : BitVec 6) (a : BitVec 7) (c : BitVec 6) (op : BitVec 3) (ty : BitVec 4) (rm : BitVec 3) (sat : BitVec 1) (look : BitVec 4) :
    RoundTrip.Statement (.greduce d a c op ty rm sat look) :=
  two_words rfl fun wf => (decode_VX 0x1F (d.setWidth 7) a 0 0 0 { vc := c.setWidth 7, rm := rm, sat := sat, look := look, ty := ty, fn2 := op.setWidth 13 } rfl).trans
    (finish_some _ (by simp [decodeVX, need, lo6_widened, hi0_widened, extract_widened]) wf)

theorem RoundTrip.gscan (d a : BitVec 7) (op : BitVec 3) (excl : BitVec 1) (ty : BitVec 4) (rm : BitVec 3) (sat : BitVec 1) (look : BitVec 4) :
    RoundTrip.Statement (.gscan d a op excl ty rm sat look) :=
  two_words rfl fun wf => (decode_VX 0x1F d a 0 0 1 { rm := rm, sat := sat, look := look, ty := ty, fn2 := 0#9 ++ excl ++ op } rfl).trans
    (finish_some _ (by
      have e0 : (0#9 ++ excl ++ op : BitVec 13).extractLsb' 3 1 = excl := (append_hi (0#9 ++ excl) op 0 1).trans (append_lo (0#9) excl)
      have e1 : (0#9 ++ excl ++ op : BitVec 13).extractLsb' 0 3 = op := append_lo (0#9 ++ excl) op
      simp only [decodeVX, e0, e1]
      simp [need]) wf)

theorem RoundTrip.gsegred (d a : BitVec 7) (c : BitVec 6) (op : BitVec 3) (ty : BitVec 4) (rm : BitVec 3) (sat : BitVec 1) (look : BitVec 4) :
    RoundTrip.Statement (.gsegred d a c op ty rm sat look) :=
  two_words rfl fun wf => (decode_VX 0x1F d a 0 0 2 { vc := c.setWidth 7, rm := rm, sat := sat, look := look, ty := ty, fn2 := op.setWidth 13 } rfl).trans
    (finish_some _ (by simp [decodeVX, need, lo6_widened, extract_widened]) wf)

theorem RoundTrip.gmatch (d a : BitVec 7) (mode : BitVec 2) (look : BitVec 4) :
    RoundTrip.Statement (.gmatch d a mode look) :=
  two_words rfl fun wf => (decode_VX 0x1F d a 0 0 3 { look := look, fn2 := mode.setWidth 13 } rfl).trans
    (finish_some _ (by simp [decodeVX, need, extract_widened]) wf)

theorem RoundTrip.vld (d : BitVec 7) (t : BitVec 2) (o : BitVec 7) (look : BitVec 4) (z : BitVec 3) :
    RoundTrip.Statement (.vld d t o look z) :=
  one_word rfl fun wf x => (decode_ML 0x20 d t o look z 0 x rfl (by decide)).trans
    (finish_some _ (by
      have hz : z ≠ 7#3 := by rintro rfl; exact absurd wf (by simp [Instr.wf, sizeOk])
      simp [decodeML, hz]) wf)

theorem RoundTrip.vld2w (d : BitVec 7) (t : BitVec 2) (o : BitVec 7) (look : BitVec 4) (z : BitVec 3) (x : MlExt) :
    RoundTrip.Statement (.vld2w d t o look z x) :=
  two_words rfl fun wf => (decode_MLX 0x20 d t o look z 4 x rfl (by decide)).trans
    (finish_some _ (by
      have hz : z ≠ 7#3 := by rintro rfl; exact absurd wf (by simp [Instr.wf, sizeOk])
      simp [decodeMLX, hz]) wf)

theorem RoundTrip.vst (s : BitVec 7) (t : BitVec 2) (o : BitVec 7) (z : BitVec 3) :
    RoundTrip.Statement (.vst s t o z) :=
  one_word rfl fun wf x => (decode_ML 0x20 s t o 0 z 1 x rfl (by decide)).trans (finish_some _ rfl wf)

theorem RoundTrip.vst2w (s : BitVec 7) (t : BitVec 2) (o : BitVec 7) (z : BitVec 3) (x : MlExt) :
    RoundTrip.Statement (.vst2w s t o z x) :=
  two_words rfl fun wf => (decode_MLX 0x20 s t o 0 z 5 x rfl (by decide)).trans (finish_some _ rfl wf)

theorem RoundTrip.vlds (d : BitVec 7) (t : BitVec 2) (o : BitVec 6) (look : BitVec 4) (z : BitVec 3) :
    RoundTrip.Statement (.vlds d t o look z) :=
  one_word rfl fun wf x => (decode_ML 0x20 d t (o.setWidth 7) look z 2 x rfl (by decide)).trans
    (finish_some _ (by simp [decodeML, need, lo6_widened, hi0_widened]) wf)

theorem RoundTrip.vlds2w (d : BitVec 7) (t : BitVec 2) (o : BitVec 6) (look : BitVec 4) (z : BitVec 3) (x : MlExt) :
    RoundTrip.Statement (.vlds2w d t o look z x) :=
  two_words rfl fun wf => (decode_MLX 0x20 d t (o.setWidth 7) look z 6 x rfl (by decide)).trans
    (finish_some _ (by simp [decodeMLX, need, lo6_widened, hi0_widened]) wf)

theorem RoundTrip.vsts (s : BitVec 7) (t : BitVec 2) (o : BitVec 6) (z : BitVec 3) :
    RoundTrip.Statement (.vsts s t o z) :=
  one_word rfl fun wf x => (decode_ML 0x20 s t (o.setWidth 7) 0 z 3 x rfl (by decide)).trans
    (finish_some _ (by simp [decodeML, need, lo6_widened, hi0_widened]) wf)

theorem RoundTrip.vsts2w (s : BitVec 7) (t : BitVec 2) (o : BitVec 6) (z : BitVec 3) (x : MlExt) :
    RoundTrip.Statement (.vsts2w s t o z x) :=
  two_words rfl fun wf => (decode_MLX 0x20 s t (o.setWidth 7) 0 z 7 x rfl (by decide)).trans
    (finish_some _ (by simp [decodeMLX, need, lo6_widened, hi0_widened]) wf)

theorem RoundTrip.pref (t : BitVec 2) (o : BitVec 7) : RoundTrip.Statement (.pref t o) :=
  one_word rfl fun wf x => (decode_ML 0x20 0 t o 0 7 0 x rfl (by decide)).trans (finish_some _ rfl wf)

theorem RoundTrip.pref2w (t : BitVec 2) (o : BitVec 7) (x : MlExt) : RoundTrip.Statement (.pref2w t o x) :=
  two_words rfl fun wf => (decode_MLX 0x20 0 t o 0 7 4 x rfl (by decide)).trans (finish_some _ rfl wf)

theorem RoundTrip.vldp (d : BitVec 7) (o : BitVec 7) (look : BitVec 4) (z : BitVec 3) :
    RoundTrip.Statement (.vldp d o look z) :=
  one_word rfl fun wf x => (decode_ML 0x21 d 0 o look z 0 x rfl (by decide)).trans (finish_some _ rfl wf)

theorem RoundTrip.vldp2w (d : BitVec 7) (o : BitVec 7) (look : BitVec 4) (z : BitVec 3) (x : MlExt) :
    RoundTrip.Statement (.vldp2w d o look z x) :=
  two_words rfl fun wf => (decode_MLX 0x21 d 0 o look z 4 x rfl (by decide)).trans (finish_some _ rfl wf)

theorem RoundTrip.vstp (s : BitVec 7) (o : BitVec 7) (z : BitVec 3) : RoundTrip.Statement (.vstp s o z) :=
  one_word rfl fun wf x => (decode_ML 0x21 s 0 o 0 z 1 x rfl (by decide)).trans (finish_some _ rfl wf)

theorem RoundTrip.vstp2w (s : BitVec 7) (o : BitVec 7) (z : BitVec 3) (x : MlExt) :
    RoundTrip.Statement (.vstp2w s o z x) :=
  two_words rfl fun wf => (decode_MLX 0x21 s 0 o 0 z 5 x rfl (by decide)).trans (finish_some _ rfl wf)

theorem RoundTrip.vldi (d : BitVec 7) (t : BitVec 2) (o : BitVec 7) (look : BitVec 4) (z : BitVec 3) :
    RoundTrip.Statement (.vldi d t o look z) :=
  one_word rfl fun wf x => (decode_ML 0x22 d t o look z 0 x rfl (by decide)).trans (finish_some _ rfl wf)

theorem RoundTrip.vldi2w (d : BitVec 7) (t : BitVec 2) (o : BitVec 7) (look : BitVec 4) (z : BitVec 3) (x : MlExt) :
    RoundTrip.Statement (.vldi2w d t o look z x) :=
  two_words rfl fun wf => (decode_MLX 0x22 d t o look z 4 x rfl (by decide)).trans (finish_some _ rfl wf)

theorem RoundTrip.vsti (s : BitVec 7) (t : BitVec 2) (o : BitVec 7) (z : BitVec 3) :
    RoundTrip.Statement (.vsti s t o z) :=
  one_word rfl fun wf x => (decode_ML 0x22 s t o 0 z 1 x rfl (by decide)).trans (finish_some _ rfl wf)

theorem RoundTrip.vsti2w (s : BitVec 7) (t : BitVec 2) (o : BitVec 7) (z : BitVec 3) (x : MlExt) :
    RoundTrip.Statement (.vsti2w s t o z x) :=
  two_words rfl fun wf => (decode_MLX 0x22 s t o 0 z 5 x rfl (by decide)).trans (finish_some _ rfl wf)

theorem RoundTrip.spld (d : BitVec 7) (o : BitVec 7) (look : BitVec 4) (z : BitVec 3) :
    RoundTrip.Statement (.spld d o look z) :=
  one_word rfl fun wf x => (decode_ML 0x23 d 0 o look z 0 x rfl (by decide)).trans (finish_some _ rfl wf)

theorem RoundTrip.spld2w (d : BitVec 7) (o : BitVec 7) (look : BitVec 4) (z : BitVec 3) (x : MlExt) :
    RoundTrip.Statement (.spld2w d o look z x) :=
  two_words rfl fun wf => (decode_MLX 0x23 d 0 o look z 4 x rfl (by decide)).trans (finish_some _ rfl wf)

theorem RoundTrip.spst (s : BitVec 7) (o : BitVec 7) (z : BitVec 3) : RoundTrip.Statement (.spst s o z) :=
  one_word rfl fun wf x => (decode_ML 0x23 s 0 o 0 z 1 x rfl (by decide)).trans (finish_some _ rfl wf)

theorem RoundTrip.spst2w (s : BitVec 7) (o : BitVec 7) (z : BitVec 3) (x : MlExt) :
    RoundTrip.Statement (.spst2w s o z x) :=
  two_words rfl fun wf => (decode_MLX 0x23 s 0 o 0 z 5 x rfl (by decide)).trans (finish_some _ rfl wf)

theorem RoundTrip.spldx (d : BitVec 7) (n : BitVec 2) (o : BitVec 7) (look : BitVec 4) (z : BitVec 3) :
    RoundTrip.Statement (.spldx d n o look z) :=
  one_word rfl fun wf x => (decode_ML 0x24 d n o look z 0 x rfl (by decide)).trans (finish_some _ rfl wf)

theorem RoundTrip.spldx2w (d : BitVec 7) (n : BitVec 2) (o : BitVec 7) (look : BitVec 4) (z : BitVec 3) (x : MlExt) :
    RoundTrip.Statement (.spldx2w d n o look z x) :=
  two_words rfl fun wf => (decode_MLX 0x24 d n o look z 4 x rfl (by decide)).trans (finish_some _ rfl wf)

theorem RoundTrip.spstx (s : BitVec 7) (n : BitVec 2) (o : BitVec 7) (z : BitVec 3) :
    RoundTrip.Statement (.spstx s n o z) :=
  one_word rfl fun wf x => (decode_ML 0x24 s n o 0 z 1 x rfl (by decide)).trans (finish_some _ rfl wf)

theorem RoundTrip.spstx2w (s : BitVec 7) (n : BitVec 2) (o : BitVec 7) (z : BitVec 3) (x : MlExt) :
    RoundTrip.Statement (.spstx2w s n o z x) :=
  two_words rfl fun wf => (decode_MLX 0x24 s n o 0 z 5 x rfl (by decide)).trans (finish_some _ rfl wf)

theorem RoundTrip.atom (d a : BitVec 7) (b : Src) (c : BitVec 7) (t : BitVec 2) (f : AtomFields) (lock : BitVec 1) (look : BitVec 4) :
    RoundTrip.Statement (.atom d a b c t f lock look) :=
  two_words rfl fun wf => (decode_VX 0x25 d a b.bs b.num 0 { vc := c, look := look, ty := f.ty, fn2 := f.fn2 0 lock t } rfl).trans
    (finish_some _ (by
      obtain ⟨e0, e1, e2, e3, e4, e5⟩ := fn2_fields f 0#1 lock t
      simp [decodeVX, need, src_encoded, atomOf, e1, e2, e3, e4, e5]) wf)

theorem RoundTrip.red (a : BitVec 7) (b : Src) (t : BitVec 2) (f : AtomFields) (lock : BitVec 1) :
    RoundTrip.Statement (.red a b t f lock) :=
  two_words rfl fun wf => (decode_VX 0x25 0 a b.bs b.num 1 { ty := f.ty, fn2 := f.fn2 0 lock t } rfl).trans
    (finish_some _ (by
      obtain ⟨e0, e1, e2, e3, e4, e5⟩ := fn2_fields f 0#1 lock t
      simp [decodeVX, need, src_encoded, atomOf, e1, e2, e3, e4, e5]) wf)

theorem RoundTrip.spatom (d a : BitVec 7) (b : Src) (c : BitVec 7) (x : BitVec 1) (n : BitVec 2) (f : AtomFields) (nr : BitVec 1) (look : BitVec 4) :
    RoundTrip.Statement (.spatom d a b c x n f nr look) :=
  two_words rfl fun wf => (decode_VX 0x26 d a b.bs b.num 0 { vc := c, look := look, ty := f.ty, fn2 := f.fn2 nr x n } rfl).trans
    (finish_some _ (by
      obtain ⟨e0, e1, e2, e3, e4, e5⟩ := fn2_fields f nr x n
      simp [decodeVX, need, src_encoded, atomOf, e0, e1, e2, e3, e4, e5]) wf)

theorem RoundTrip.satom (d a b c : BitVec 6) (f : AtomFields) (lock nr : BitVec 1) (look : BitVec 4) :
    RoundTrip.Statement (.satom d a b c f lock nr look) :=
  two_words rfl fun wf => (decode_VX 0x26 (d.setWidth 7) (a.setWidth 7) 0 (b.setWidth 7) 1 { vc := c.setWidth 7, look := look, ty := f.ty, fn2 := f.fn2 nr lock 0 } rfl).trans
    (finish_some _ (by
      obtain ⟨e0, e1, e2, e3, e4, e5⟩ := fn2_fields f nr lock 0#2
      simp [decodeVX, need, lo6_widened, hi0_widened, atomOf, e0, e1, e3, e4, e5]) wf)

theorem RoundTrip.fence (order : BitVec 2) (scope : BitVec 3) : RoundTrip.Statement (.fence order scope) :=
  one_word rfl fun wf x => (decode_SR 0x27 0 (0#1 ++ order ++ scope) 0 0x00 x rfl).trans
    (finish_some _ (by
      have e0 : (0#1 ++ order ++ scope : BitVec 6).extractLsb' 5 1 = 0#1 := (append_hi (0#1 ++ order) scope 2 1).trans ((append_hi (0#1) order 0 1).trans (all_bits 0#1))
      have e1 : (0#1 ++ order ++ scope : BitVec 6).extractLsb' 3 2 = order := (append_hi (0#1 ++ order) scope 0 2).trans (append_lo (0#1) order)
      have e2 : (0#1 ++ order ++ scope : BitVec 6).extractLsb' 0 3 = scope := append_lo (0#1 ++ order) scope
      simp only [decodeSR, need, e0, e1, e2]
      rfl) wf)

theorem RoundTrip.icinv (scope : BitVec 3) (a b : BitVec 6) : RoundTrip.Statement (.icinv scope a b) :=
  one_word rfl fun wf x => (decode_SR 0x27 (scope.setWidth 6) a b 0x01 x rfl).trans
    (finish_some _ (by simp [decodeSR, need]; have := scope.isLt; omega) wf)

theorem RoundTrip.ifence  : RoundTrip.Statement (.ifence) :=
  one_word rfl fun wf x => (decode_SR 0x27 0 0 0 0x02 x rfl).trans (finish_some _ rfl wf)

theorem RoundTrip.msend (q : BitVec 3) (a b : BitVec 6) (k : BitVec 3) (order : BitVec 2) (scope : BitVec 3) :
    RoundTrip.Statement (.msend q a b k order scope) :=
  two_words rfl fun wf => (decode_VX 0x29 (q.setWidth 7) (a.setWidth 7) 0 (b.setWidth 7) 0 { fn2 := 0#4 ++ scope ++ order ++ 0#1 ++ k } rfl).trans
    (finish_some _ (by
      have e0 : (0#4 ++ scope ++ order ++ 0#1 ++ k : BitVec 13).extractLsb' 0 3 = k := append_lo (0#4 ++ scope ++ order ++ 0#1) k
      have e1 : (0#4 ++ scope ++ order ++ 0#1 ++ k : BitVec 13).extractLsb' 4 2 = order := (append_hi (0#4 ++ scope ++ order ++ 0#1) k 1 2).trans ((append_hi (0#4 ++ scope ++ order) 0#1 0 2).trans (append_lo (0#4 ++ scope) order))
      have e2 : (0#4 ++ scope ++ order ++ 0#1 ++ k : BitVec 13).extractLsb' 6 3 = scope := (append_hi (0#4 ++ scope ++ order ++ 0#1) k 3 3).trans ((append_hi (0#4 ++ scope ++ order) 0#1 2 3).trans ((append_hi (0#4 ++ scope) order 0 3).trans (append_lo (0#4) scope)))
      simp only [decodeVX, e0, e1, e2, lo6_widened, hi0_widened]
      have b := q.isLt
      simp [need]
      omega) wf)

theorem RoundTrip.mrecv (d : BitVec 6) (q : BitVec 3) (poll : BitVec 1) (order : BitVec 2) (scope : BitVec 3) (look : BitVec 4) :
    RoundTrip.Statement (.mrecv d q poll order scope look) :=
  two_words rfl fun wf => (decode_VX 0x29 (d.setWidth 7) 0 0 0 1 { look := look, fn2 := poll ++ 0#3 ++ scope ++ order ++ 0#1 ++ q } rfl).trans
    (finish_some _ (by
      have e0 : (poll ++ 0#3 ++ scope ++ order ++ 0#1 ++ q : BitVec 13).extractLsb' 12 1 = poll := (append_hi (poll ++ 0#3 ++ scope ++ order ++ 0#1) q 9 1).trans ((append_hi (poll ++ 0#3 ++ scope ++ order) 0#1 8 1).trans ((append_hi (poll ++ 0#3 ++ scope) order 6 1).trans ((append_hi (poll ++ 0#3) scope 3 1).trans ((append_hi (poll) 0#3 0 1).trans (all_bits poll)))))
      have e1 : (poll ++ 0#3 ++ scope ++ order ++ 0#1 ++ q : BitVec 13).extractLsb' 0 3 = q := append_lo (poll ++ 0#3 ++ scope ++ order ++ 0#1) q
      have e2 : (poll ++ 0#3 ++ scope ++ order ++ 0#1 ++ q : BitVec 13).extractLsb' 4 2 = order := (append_hi (poll ++ 0#3 ++ scope ++ order ++ 0#1) q 1 2).trans ((append_hi (poll ++ 0#3 ++ scope ++ order) 0#1 0 2).trans (append_lo (poll ++ 0#3 ++ scope) order))
      have e3 : (poll ++ 0#3 ++ scope ++ order ++ 0#1 ++ q : BitVec 13).extractLsb' 6 3 = scope := (append_hi (poll ++ 0#3 ++ scope ++ order ++ 0#1) q 3 3).trans ((append_hi (poll ++ 0#3 ++ scope ++ order) 0#1 2 3).trans ((append_hi (poll ++ 0#3 ++ scope) order 0 3).trans (append_lo (poll ++ 0#3) scope)))
      simp only [decodeVX, e0, e1, e2, e3, lo6_widened, hi0_widened]
      simp [need]) wf)

theorem RoundTrip.wakew (a b : BitVec 6) (scope : BitVec 3) : RoundTrip.Statement (.wakew a b scope) :=
  two_words rfl fun wf => (decode_VX 0x29 0 (a.setWidth 7) 0 (b.setWidth 7) 2 { fn2 := 0#4 ++ scope ++ 0#6 } rfl).trans
    (finish_some _ (by
      have e0 : (0#4 ++ scope ++ 0#6 : BitVec 13).extractLsb' 6 3 = scope := (append_hi (0#4 ++ scope) 0#6 0 3).trans (append_lo (0#4) scope)
      simp only [decodeVX, e0, lo6_widened, hi0_widened]
      simp [need]) wf)

theorem RoundTrip.waitw (d a b c : BitVec 6) (order : BitVec 2) (scope : BitVec 3) :
    RoundTrip.Statement (.waitw d a b c order scope) :=
  two_words rfl fun wf => (decode_VX 0x29 (d.setWidth 7) (a.setWidth 7) 0 (b.setWidth 7) 3 { vc := c.setWidth 7, fn2 := 0#4 ++ scope ++ order ++ 0#4 } rfl).trans
    (finish_some _ (by
      have e0 : (0#4 ++ scope ++ order ++ 0#4 : BitVec 13).extractLsb' 6 3 = scope := (append_hi (0#4 ++ scope ++ order) 0#4 2 3).trans ((append_hi (0#4 ++ scope) order 0 3).trans (append_lo (0#4) scope))
      have e1 : (0#4 ++ scope ++ order ++ 0#4 : BitVec 13).extractLsb' 4 2 = order := (append_hi (0#4 ++ scope ++ order) 0#4 0 2).trans (append_lo (0#4 ++ scope) order)
      simp only [decodeVX, e0, e1, lo6_widened, hi0_widened]
      simp [need]) wf)

theorem RoundTrip.cpy (s t : BitVec 6) (cont acq : BitVec 1) : RoundTrip.Statement (.cpy s t cont acq) :=
  one_word rfl fun wf x => (decode_EC 0x2A 0 s t (0#6 ++ cont ++ acq) x rfl).trans
    (finish_some _ (by
      have e0 : (0#6 ++ cont ++ acq : BitVec 8).extractLsb' 1 1 = cont := (append_hi (0#6 ++ cont) acq 0 1).trans (append_lo (0#6) cont)
      have e1 : (0#6 ++ cont ++ acq : BitVec 8).extractLsb' 0 1 = acq := append_lo (0#6 ++ cont) acq
      have b := (by decide : ∀ cont acq : BitVec 1, (0#6 ++ cont ++ acq : BitVec 8).toNat < 4) cont acq
      simp only [decodeEC, need, e0, e1]
      exact if_pos (decide_eq_true b)) wf)

theorem RoundTrip.ewait (s : BitVec 6) : RoundTrip.Statement (.ewait s) :=
  one_word rfl fun wf x => (decode_EC 0x2A 1 s 0 0 x rfl).trans (finish_some _ rfl wf)

theorem RoundTrip.epoll (s t : BitVec 6) : RoundTrip.Statement (.epoll s t) :=
  one_word rfl fun wf x => (decode_EC 0x2A 2 s t 0 x rfl).trans (finish_some _ rfl wf)

theorem RoundTrip.mma (s t : BitVec 6) (acc : BitVec 1) : RoundTrip.Statement (.mma s t acc) :=
  one_word rfl fun wf x => (decode_EC 0x2B 0 s t (0#7 ++ acc) x rfl).trans
    (finish_some _ (by
      have e0 : (0#7 ++ acc : BitVec 8).extractLsb' 0 1 = acc := append_lo (0#7) acc
      have b := (by decide : ∀ acc : BitVec 1, (0#7 ++ acc : BitVec 8).toNat < 2) acc
      simp only [decodeEC, need, e0]
      exact if_pos (decide_eq_true b)) wf)

theorem RoundTrip.mmas (s t : BitVec 6) (acc : BitVec 1) : RoundTrip.Statement (.mmas s t acc) :=
  one_word rfl fun wf x => (decode_EC 0x2B 1 s t (0#7 ++ acc) x rfl).trans
    (finish_some _ (by
      have e0 : (0#7 ++ acc : BitVec 8).extractLsb' 0 1 = acc := append_lo (0#7) acc
      have b := (by decide : ∀ acc : BitVec 1, (0#7 ++ acc : BitVec 8).toNat < 2) acc
      simp only [decodeEC, need, e0]
      exact if_pos (decide_eq_true b)) wf)

theorem RoundTrip.mmag (s t : BitVec 6) (acc : BitVec 1) : RoundTrip.Statement (.mmag s t acc) :=
  one_word rfl fun wf x => (decode_EC 0x2B 2 s t (0#7 ++ acc) x rfl).trans
    (finish_some _ (by
      have e0 : (0#7 ++ acc : BitVec 8).extractLsb' 0 1 = acc := append_lo (0#7) acc
      have b := (by decide : ∀ acc : BitVec 1, (0#7 ++ acc : BitVec 8).toNat < 2) acc
      simp only [decodeEC, need, e0]
      exact if_pos (decide_eq_true b)) wf)

theorem RoundTrip.mbatch (t : BitVec 6) : RoundTrip.Statement (.mbatch t) :=
  one_word rfl fun wf x => (decode_EC 0x2B 3 0 t 0 x rfl).trans (finish_some _ rfl wf)

theorem RoundTrip.mwait (s : BitVec 6) : RoundTrip.Statement (.mwait s) :=
  one_word rfl fun wf x => (decode_EC 0x2B 4 s 0 0 x rfl).trans (finish_some _ rfl wf)

theorem RoundTrip.gath (s t : BitVec 6) (acq resume : BitVec 1) : RoundTrip.Statement (.gath s t acq resume) :=
  one_word rfl fun wf x => (decode_EC 0x2C 0 s t (0#6 ++ acq ++ resume) x rfl).trans
    (finish_some _ (by
      have e0 : (0#6 ++ acq ++ resume : BitVec 8).extractLsb' 1 1 = acq := (append_hi (0#6 ++ acq) resume 0 1).trans (append_lo (0#6) acq)
      have e1 : (0#6 ++ acq ++ resume : BitVec 8).extractLsb' 0 1 = resume := append_lo (0#6 ++ acq) resume
      have b := (by decide : ∀ acq resume : BitVec 1, (0#6 ++ acq ++ resume : BitVec 8).toNat < 4) acq resume
      simp only [decodeEC, need, e0, e1]
      exact if_pos (decide_eq_true b)) wf)

theorem RoundTrip.scat (s t : BitVec 6) (resume : BitVec 1) : RoundTrip.Statement (.scat s t resume) :=
  one_word rfl fun wf x => (decode_EC 0x2C 1 s t (0#7 ++ resume) x rfl).trans
    (finish_some _ (by
      have e0 : (0#7 ++ resume : BitVec 8).extractLsb' 0 1 = resume := append_lo (0#7) resume
      have b := (by decide : ∀ resume : BitVec 1, (0#7 ++ resume : BitVec 8).toNat < 2) resume
      simp only [decodeEC, need, e0]
      exact if_pos (decide_eq_true b)) wf)

theorem RoundTrip.scbegin (s t : BitVec 6) : RoundTrip.Statement (.scbegin s t) :=
  one_word rfl fun wf x => (decode_EC 0x2D 0 s t 0 x rfl).trans (finish_some _ rfl wf)

theorem RoundTrip.scprobe (s t : BitVec 6) (bf16 sp acq : BitVec 1) :
    RoundTrip.Statement (.scprobe s t bf16 sp acq) :=
  one_word rfl fun wf x => (decode_EC 0x2D 1 s t (0#5 ++ bf16 ++ sp ++ acq) x rfl).trans
    (finish_some _ (by
      have e0 : (0#5 ++ bf16 ++ sp ++ acq : BitVec 8).extractLsb' 2 1 = bf16 := (append_hi (0#5 ++ bf16 ++ sp) acq 1 1).trans ((append_hi (0#5 ++ bf16) sp 0 1).trans (append_lo (0#5) bf16))
      have e1 : (0#5 ++ bf16 ++ sp ++ acq : BitVec 8).extractLsb' 1 1 = sp := (append_hi (0#5 ++ bf16 ++ sp) acq 0 1).trans (append_lo (0#5 ++ bf16) sp)
      have e2 : (0#5 ++ bf16 ++ sp ++ acq : BitVec 8).extractLsb' 0 1 = acq := append_lo (0#5 ++ bf16 ++ sp) acq
      have b := (by decide : ∀ bf16 sp acq : BitVec 1, (0#5 ++ bf16 ++ sp ++ acq : BitVec 8).toNat < 8) bf16 sp acq
      simp only [decodeEC, need, e0, e1, e2]
      exact if_pos (decide_eq_true b)) wf)

theorem RoundTrip.scsave (s t : BitVec 6) : RoundTrip.Statement (.scsave s t) :=
  one_word rfl fun wf x => (decode_EC 0x2D 2 s t 0 x rfl).trans (finish_some _ rfl wf)

theorem RoundTrip.nredx (s t : BitVec 6) (scope : BitVec 3) : RoundTrip.Statement (.nredx s t scope) :=
  one_word rfl fun wf x => (decode_EC 0x2E 0 s t (scope.setWidth 8) x rfl).trans
    (finish_some _ (by simp [decodeEC, need, extract_widened]; have := scope.isLt; omega) wf)

theorem RoundTrip.promote (up : BitVec 1) : RoundTrip.Statement (.promote up) :=
  one_word rfl fun wf x => (decode_SR 0x2F 0 (up.setWidth 6) 0 0x00 x rfl).trans
    (finish_some _ (by simp [decodeSR, need]; have := up.isLt; omega) wf)

/-- The word of TRAP or BKPT, whose number fills the three register fields of SR. -/
theorem decode_number (n : BitVec 18) (fn : BitVec 8) (x : Word) :
    decode (0x30#6 ++ n ++ fn) x = finish (0x30#6 ++ n ++ fn)
      (decodeSR 0x30#6 (n.extractLsb' 12 6) (n.extractLsb' 6 6) (n.extractLsb' 0 6) fn) := by
  have h0 : (0x30#6 ++ n ++ fn : Word).extractLsb' 26 6 = 0x30#6 :=
    (append_hi (0x30#6 ++ n) fn 18 6).trans ((append_hi 0x30#6 n 0 6).trans (all_bits _))
  have h1 : (0x30#6 ++ n ++ fn : Word).extractLsb' 20 6 = n.extractLsb' 12 6 :=
    (append_hi (0x30#6 ++ n) fn 12 6).trans (append_in 0x30#6 n 12 6 (by decide))
  have h2 : (0x30#6 ++ n ++ fn : Word).extractLsb' 14 6 = n.extractLsb' 6 6 :=
    (append_hi (0x30#6 ++ n) fn 6 6).trans (append_in 0x30#6 n 6 6 (by decide))
  have h3 : (0x30#6 ++ n ++ fn : Word).extractLsb' 8 6 = n.extractLsb' 0 6 :=
    (append_hi (0x30#6 ++ n) fn 0 6).trans (append_in 0x30#6 n 0 6 (by decide))
  have h4 : (0x30#6 ++ n ++ fn : Word).extractLsb' 0 8 = fn := append_lo (0x30#6 ++ n) fn
  have hm : formatOf 0x30#6 = .sr := rfl
  exact decode_of (by simp only [decodeFields, major, h0, h1, h2, h3, h4, hm])

theorem RoundTrip.trap (n : BitVec 18) : RoundTrip.Statement (.trap n) :=
  one_word rfl fun wf x => (decode_number n 0 x).trans
    (finish_some _ (congrArg (fun n => some (Instr.trap n)) (joined3 n)) wf)

theorem RoundTrip.bkpt (n : BitVec 18) : RoundTrip.Statement (.bkpt n) :=
  one_word rfl fun wf x => (decode_number n 2 x).trans
    (finish_some _ (congrArg (fun n => some (Instr.bkpt n)) (joined3 n)) wf)

theorem RoundTrip.rte  : RoundTrip.Statement (.rte) :=
  one_word rfl fun wf x => (decode_SR 0x30 0 0 0 0x01 x rfl).trans (finish_some _ rfl wf)

theorem RoundTrip.rteEnd  : RoundTrip.Statement (.rteEnd) :=
  one_word rfl fun wf x => (decode_SR 0x30 0 1 0 0x01 x rfl).trans (finish_some _ rfl wf)

theorem RoundTrip.tsave (s : BitVec 7) (k : BitVec 4) : RoundTrip.Statement (.tsave s k) :=
  one_word rfl fun wf x => (decode_VR 0x31 s 0 0 (k.setWidth 7) 0 x rfl).trans
    (finish_some _ (by simp [decodeVR, need]; have := k.isLt; omega) wf)

theorem RoundTrip.tload (d : BitVec 7) (k : BitVec 4) : RoundTrip.Statement (.tload d k) :=
  one_word rfl fun wf x => (decode_VR 0x31 d 0 0 (k.setWidth 7) 1 x rfl).trans
    (finish_some _ (by simp [decodeVR, need]; have := k.isLt; omega) wf)

theorem RoundTrip.ctxsave (c a : BitVec 6) : RoundTrip.Statement (.ctxsave c a) :=
  one_word rfl fun wf x => (decode_SR 0x32 c a 0 0x00 x rfl).trans (finish_some _ rfl wf)

theorem RoundTrip.ctxload (c a : BitVec 6) : RoundTrip.Statement (.ctxload c a) :=
  one_word rfl fun wf x => (decode_SR 0x32 c a 0 0x01 x rfl).trans (finish_some _ rfl wf)

theorem RoundTrip.progress (k : BitVec 3) : RoundTrip.Statement (.progress k) :=
  one_word rfl fun wf x => (decode_SR 0x33 0 (k.setWidth 6) 0 0x00 x rfl).trans
    (finish_some _ (by simp [decodeSR, need]; have := k.isLt; omega) wf)

theorem RoundTrip.undefinedInstruction (w : Word) : RoundTrip.Statement (.undefinedInstruction w) :=
  fun _ h => absurd rfl (h w)

theorem RoundTrip.reservedMajor (w : Word) : RoundTrip.Statement (.reservedMajor w) :=
  one_word rfl fun wf x => by
    have h : 0x34 ≤ (major w).toNat := of_decide_eq_true wf
    have f : formatOf (major w) = .none := (by decide : ∀ m : BitVec 6, 0x34 ≤ m.toNat → formatOf m = .none) _ h
    simp only [decode, decodeFields, f, if_pos h]

theorem RoundTrip.clauseStart (g : Nat) : RoundTrip.Statement (.clauseStart g) := no_words rfl

theorem RoundTrip.instructionCacheFill (g : Nat) : RoundTrip.Statement (.instructionCacheFill g) := no_words rfl

theorem RoundTrip.loadReturn (g id : Nat) : RoundTrip.Statement (.loadReturn g id) := no_words rfl

theorem RoundTrip.storeAccepted (g id : Nat) : RoundTrip.Statement (.storeAccepted g id) := no_words rfl

theorem RoundTrip.atomicReturn (g id : Nat) : RoundTrip.Statement (.atomicReturn g id) := no_words rfl

theorem RoundTrip.resultWrite (g : Nat) : RoundTrip.Statement (.resultWrite g) := no_words rfl

theorem RoundTrip.releaseComplete (g : Nat) : RoundTrip.Statement (.releaseComplete g) := no_words rfl

theorem RoundTrip.icinvComplete (g : Nat) : RoundTrip.Statement (.icinvComplete g) := no_words rfl

theorem RoundTrip.promotionStart (g : Nat) : RoundTrip.Statement (.promotionStart g) := no_words rfl

theorem RoundTrip.promotionSwitchDone (g : Nat) : RoundTrip.Statement (.promotionSwitchDone g) := no_words rfl

theorem RoundTrip.demotionSwitchDone (g : Nat) : RoundTrip.Statement (.demotionSwitchDone g) := no_words rfl

theorem RoundTrip.barrierLaggardQualify (g n : Nat) :
    RoundTrip.Statement (.barrierLaggardQualify g n) := no_words rfl

theorem RoundTrip.barrierPhaseComplete (team n : Nat) :
    RoundTrip.Statement (.barrierPhaseComplete team n) := no_words rfl

theorem RoundTrip.barrierWake (team n : Nat) : RoundTrip.Statement (.barrierWake team n) := no_words rfl

theorem RoundTrip.groupRegistersReturn (g : Nat) : RoundTrip.Statement (.groupRegistersReturn g) := no_words rfl

theorem RoundTrip.teamEnd (team : Nat) : RoundTrip.Statement (.teamEnd team) := no_words rfl

theorem RoundTrip.cbitmapSet (team : Nat) : RoundTrip.Statement (.cbitmapSet team) := no_words rfl

theorem RoundTrip.dispatcherTailRead (q : Nat) : RoundTrip.Statement (.dispatcherTailRead q) := no_words rfl

theorem RoundTrip.launchRecordTake (q : Nat) : RoundTrip.Statement (.launchRecordTake q) := no_words rfl

theorem RoundTrip.teamPlacement (ctx : Nat) : RoundTrip.Statement (.teamPlacement ctx) := no_words rfl

theorem RoundTrip.consumerRelease (grid team : Nat) :
    RoundTrip.Statement (.consumerRelease grid team) := no_words rfl

theorem RoundTrip.pinGrant (g id line : Nat) : RoundTrip.Statement (.pinGrant g id line) := no_words rfl

theorem RoundTrip.accessRetryResend (g id line : Nat) :
    RoundTrip.Statement (.accessRetryResend g id line) := no_words rfl

theorem RoundTrip.recallComplete (line : Nat) : RoundTrip.Statement (.recallComplete line) := no_words rfl

theorem RoundTrip.l1LineFill (g id line : Nat) (victim : Option Nat) :
    RoundTrip.Statement (.l1LineFill g id line victim) := no_words rfl

theorem RoundTrip.l2LineFill (line : Nat) (victim : Option Nat) :
    RoundTrip.Statement (.l2LineFill line victim) := no_words rfl

theorem RoundTrip.pageWalkComplete (g page : Nat) : RoundTrip.Statement (.pageWalkComplete g page) := no_words rfl

theorem RoundTrip.faultRecordAnswer (ctx seq : Nat) :
    RoundTrip.Statement (.faultRecordAnswer ctx seq) := no_words rfl

theorem RoundTrip.invalidateRange (ctx : Nat) : RoundTrip.Statement (.invalidateRange ctx) := no_words rfl

theorem RoundTrip.invalidateRangeDone (ctx : Nat) : RoundTrip.Statement (.invalidateRangeDone ctx) := no_words rfl

theorem RoundTrip.compact (ctx : Nat) : RoundTrip.Statement (.compact ctx) := no_words rfl

theorem RoundTrip.compactDone (ctx : Nat) : RoundTrip.Statement (.compactDone ctx) := no_words rfl

theorem RoundTrip.translationRequestFail (ctx : Nat) :
    RoundTrip.Statement (.translationRequestFail ctx) := no_words rfl

theorem RoundTrip.commandIssueResume (g : Nat) : RoundTrip.Statement (.commandIssueResume g) := no_words rfl

theorem RoundTrip.sourceReadDone (cmd : Nat) : RoundTrip.Statement (.sourceReadDone cmd) := no_words rfl

theorem RoundTrip.copyEngineTake (core : Nat) : RoundTrip.Statement (.copyEngineTake core) := no_words rfl

theorem RoundTrip.cpyComplete (cmd : Nat) : RoundTrip.Statement (.cpyComplete cmd) := no_words rfl

theorem RoundTrip.enginePageFault (cmd : Nat) : RoundTrip.Statement (.enginePageFault cmd) := no_words rfl

theorem RoundTrip.engineFailure (cmd : Nat) : RoundTrip.Statement (.engineFailure cmd) := no_words rfl

theorem RoundTrip.matrixEngineTake (core : Nat) : RoundTrip.Statement (.matrixEngineTake core) := no_words rfl

theorem RoundTrip.matrixCommandComplete (cmd : Nat) :
    RoundTrip.Statement (.matrixCommandComplete cmd) := no_words rfl

theorem RoundTrip.gatherScatterComplete (cmd : Nat) :
    RoundTrip.Statement (.gatherScatterComplete cmd) := no_words rfl

theorem RoundTrip.scsaveStart (cmd : Nat) : RoundTrip.Statement (.scsaveStart cmd) := no_words rfl

theorem RoundTrip.scsaveComplete (cmd : Nat) : RoundTrip.Statement (.scsaveComplete cmd) := no_words rfl

theorem RoundTrip.scprobeComplete (cmd : Nat) : RoundTrip.Statement (.scprobeComplete cmd) := no_words rfl

theorem RoundTrip.partialMerge (src : MergeSource) : RoundTrip.Statement (.partialMerge src) := no_words rfl

theorem RoundTrip.roundResultSend (slot : Nat) : RoundTrip.Statement (.roundResultSend slot) := no_words rfl

theorem RoundTrip.nredxComplete (cmd : Nat) : RoundTrip.Statement (.nredxComplete cmd) := no_words rfl

theorem RoundTrip.messageDelivery (core q msg : Nat) :
    RoundTrip.Statement (.messageDelivery core q msg) := no_words rfl

theorem RoundTrip.wakeDelivery (core : Nat) : RoundTrip.Statement (.wakeDelivery core) := no_words rfl

theorem RoundTrip.waitwTimeout (g : Nat) : RoundTrip.Statement (.waitwTimeout g) := no_words rfl

theorem RoundTrip.routerPowerDown (r : Nat) : RoundTrip.Statement (.routerPowerDown r) := no_words rfl

theorem RoundTrip.routerWake (r : Nat) : RoundTrip.Statement (.routerWake r) := no_words rfl

theorem RoundTrip.faultRecordRelease (ctx : Nat) : RoundTrip.Statement (.faultRecordRelease ctx) := no_words rfl

theorem RoundTrip.eventRecordRelease (ctx : Nat) : RoundTrip.Statement (.eventRecordRelease ctx) := no_words rfl

theorem RoundTrip.forcedSave (team steps : Nat) : RoundTrip.Statement (.forcedSave team steps) := no_words rfl

theorem RoundTrip.preemptStatusWrite (ctx : Nat) : RoundTrip.Statement (.preemptStatusWrite ctx) := no_words rfl

theorem RoundTrip.teamRestore (ctx : Nat) : RoundTrip.Statement (.teamRestore ctx) := no_words rfl

theorem RoundTrip.tiadeRead (p : TiadePacket) : RoundTrip.Statement (.tiadeRead p) := no_words rfl

theorem RoundTrip.tiadeWrite (p : TiadePacket) : RoundTrip.Statement (.tiadeWrite p) := no_words rfl

theorem RoundTrip.tiadeAtomic (p : TiadePacket) : RoundTrip.Statement (.tiadeAtomic p) := no_words rfl

theorem RoundTrip.tiadeFrameDrop (f : HostFrame) : RoundTrip.Statement (.tiadeFrameDrop f) := no_words rfl

theorem RoundTrip.createContext (p : MgmtPacket) : RoundTrip.Statement (.createContext p) := no_words rfl

theorem RoundTrip.destroyContext (p : MgmtPacket) : RoundTrip.Statement (.destroyContext p) := no_words rfl

theorem RoundTrip.setStep (p : MgmtPacket) : RoundTrip.Statement (.setStep p) := no_words rfl

theorem RoundTrip.preemptContext (p : MgmtPacket) : RoundTrip.Statement (.preemptContext p) := no_words rfl

theorem RoundTrip.resumeContext (p : MgmtPacket) : RoundTrip.Statement (.resumeContext p) := no_words rfl

theorem RoundTrip.registerWindow (p : MgmtPacket) : RoundTrip.Statement (.registerWindow p) := no_words rfl

theorem RoundTrip.removeWindow (p : MgmtPacket) : RoundTrip.Statement (.removeWindow p) := no_words rfl

theorem RoundTrip.registerLaunchQueueTable (p : MgmtPacket) :
    RoundTrip.Statement (.registerLaunchQueueTable p) := no_words rfl

theorem RoundTrip.harvestRecord (p : MgmtPacket) : RoundTrip.Statement (.harvestRecord p) := no_words rfl

theorem RoundTrip.rosterRecord (p : MgmtPacket) : RoundTrip.Statement (.rosterRecord p) := no_words rfl

theorem RoundTrip.getVersion (p : MgmtPacket) : RoundTrip.Statement (.getVersion p) := no_words rfl

theorem RoundTrip.getCapabilities (p : MgmtPacket) : RoundTrip.Statement (.getCapabilities p) := no_words rfl

theorem RoundTrip.negotiateAlgorithms (p : MgmtPacket) : RoundTrip.Statement (.negotiateAlgorithms p) := no_words rfl

theorem RoundTrip.getMeasurements (p : MgmtPacket) : RoundTrip.Statement (.getMeasurements p) := no_words rfl

theorem RoundTrip.vendorHarvestRequest (p : MgmtPacket) :
    RoundTrip.Statement (.vendorHarvestRequest p) := no_words rfl

theorem RoundTrip.vendorRosterRequest (p : MgmtPacket) : RoundTrip.Statement (.vendorRosterRequest p) := no_words rfl

theorem RoundTrip.spdmUnsupportedRequest (p : MgmtPacket) :
    RoundTrip.Statement (.spdmUnsupportedRequest p) := no_words rfl

theorem RoundTrip.linkAuthentication (port : Nat) (nonce peerNonce peerKey peerSig : List Byte) :
    RoundTrip.Statement (.linkAuthentication port nonce peerNonce peerKey peerSig) := no_words rfl

theorem RoundTrip.linkAuthRetry (port : Nat) : RoundTrip.Statement (.linkAuthRetry port) := no_words rfl

theorem RoundTrip.peerAccess (r : PeerRequest) : RoundTrip.Statement (.peerAccess r) := no_words rfl

theorem RoundTrip.peerAck (dev seq : Nat) (ok : Bool) (data : List Byte) :
    RoundTrip.Statement (.peerAck dev seq ok data) := no_words rfl

theorem RoundTrip.linkFailure (port : Nat) : RoundTrip.Statement (.linkFailure port) := no_words rfl

theorem RoundTrip.peerPathTimeout (dev : Nat) : RoundTrip.Statement (.peerPathTimeout dev) := no_words rfl

theorem RoundTrip.sample (core : Nat) : RoundTrip.Statement (.sample core) := no_words rfl

theorem RoundTrip.trialDelayExpire (g : Nat) : RoundTrip.Statement (.trialDelayExpire g) := no_words rfl

theorem RoundTrip.chunkCommit (g : Nat) : RoundTrip.Statement (.chunkCommit g) := no_words rfl

theorem RoundTrip.powerLimit (w : Word) (host : Bool) : RoundTrip.Statement (.powerLimit w host) := no_words rfl

theorem RoundTrip.coreClock (w : Word) (host : Bool) : RoundTrip.Statement (.coreClock w host) := no_words rfl

theorem RoundTrip.routerPowerDownControl (w : Word) (host : Bool) :
    RoundTrip.Statement (.routerPowerDownControl w host) := no_words rfl

theorem RoundTrip.hostPortControl (w : Word) (host : Bool) :
    RoundTrip.Statement (.hostPortControl w host) := no_words rfl

theorem RoundTrip.peerPortsControl (w : Word) (host : Bool) :
    RoundTrip.Statement (.peerPortsControl w host) := no_words rfl

theorem RoundTrip.samplingControl (w : Word) (host : Bool) :
    RoundTrip.Statement (.samplingControl w host) := no_words rfl

theorem RoundTrip.reuseHistogramControl (w : Word) (host : Bool) :
    RoundTrip.Statement (.reuseHistogramControl w host) := no_words rfl

theorem RoundTrip.causalTrialControl (w : Word) (host : Bool) :
    RoundTrip.Statement (.causalTrialControl w host) := no_words rfl

theorem RoundTrip.replayControl (w : Word) (host : Bool) :
    RoundTrip.Statement (.replayControl w host) := no_words rfl

theorem RoundTrip.expertBlockWrite (fn idx : Nat) (w : Word) :
    RoundTrip.Statement (.expertBlockWrite fn idx w) := no_words rfl

theorem RoundTrip.controlApply (fn : Nat) : RoundTrip.Statement (.controlApply fn) := no_words rfl

theorem RoundTrip.bootRecordClear  : RoundTrip.Statement .bootRecordClear := no_words rfl

theorem RoundTrip.moduleReset (failures : List BootFailure) :
    RoundTrip.Statement (.moduleReset failures) := no_words rfl

theorem RoundTrip.coreFailure (core : Nat) : RoundTrip.Statement (.coreFailure core) := no_words rfl

theorem RoundTrip.clockStepDown  : RoundTrip.Statement .clockStepDown := no_words rfl

theorem RoundTrip.coolantFlowLost  : RoundTrip.Statement .coolantFlowLost := no_words rfl

theorem RoundTrip.coolantFlowRestored  : RoundTrip.Statement .coolantFlowRestored := no_words rfl

theorem RoundTrip.flitCrcError (port : Nat) : RoundTrip.Statement (.flitCrcError port) := no_words rfl

end Sys2Proof.Laws
end

