-- ==== Sys2Proof/Tests/Slice0.lean ====
section
/-! SUPPORT. The author's own tests: for every statement a concrete state that meets its hypotheses, the words of
the spec that decode to the instructions they stand for, the terms that are not well formed, and the worked examples
of the spec. -/

open Sys2Proof Sys2Proof.Machine Sys2Proof.Claim

namespace Sys2Proof.Tests

set_option Elab.async false

/-! ### Helpers -/

/-- The machine with a program loaded and HALT as the next instruction: group 0 of context 1, all lanes active. -/
def ready : State := State.reset.withFetchWord 32 0x38200000

/-- The state with a change to its group. -/
def withG (s : State) (f : Group → Group) : State := s.setG (f s.g)

/-- The state with some scalars of its group. -/
def withS (s : State) (l : List (Nat × Word × BitVec 4)) : State :=
  withG s fun g => l.foldl (fun g x => g.setS x.1 x.2.1 x.2.2) g

/-- In trap mode. -/
def trapped : State := withG ready fun g => { g with trapMode := true }

/-- In a privileged context. -/
def privileged : State := ready.modCtx 1 fun c => { c with priv := true }

/-- The instruction ends in a next state. -/
def Goes (i : Instr) (s : State) : Prop := ∃ t, exec i s = .next t

theorem goes {i : Instr} {s : State} {P : State → Prop} (h : ∃ t, exec i s = .next t ∧ P t) : Goes i s :=
  h.imp fun _ x => x.1

theorem goes2 {i : Instr} {s : State} {α : Sort*} {P : State → α → Prop} (h : ∃ t v, exec i s = .next t ∧ P t v) :
    Goes i s := h.imp fun _ x => x.elim fun _ y => y.1

theorem goesEq {i : Instr} {s t : State} (h : exec i s = .next t) : Goes i s := ⟨t, h⟩

theorem none_of {α : Type} {o : Option α} {P : α → Prop} (h : o = none) : ∀ x, o = some x → P x := by
  intro x hx; rw [h] at hx; cases hx

theorem some_of {α : Type} {o : Option α} {P : α → Prop} (q : α) (h : o = some q) (hq : P q) : ∀ x, o = some x → P x := by
  intro x hx; rw [h] at hx; cases hx; exact hq

/-! ### The hypotheses of the statements are met: scalars and masks -/

theorem goes_scalar2 {i ea eb r tag} {s : State} (h : Scalar2 i ea eb r tag)
    (p : Issues (i 5 6 7) (infoSS 5 6 7 ea eb) s) : Goes (i 5 6 7) s := goes (h s 5 6 7 p)

theorem goes_scalar1 {i r tag} {s : State} (h : Scalar1 i 5 6 r tag) (p : Issues i (infoS 5 6) s) : Goes i s :=
  goes (h s p)

/-- s6 and s7 of given values. -/
def twoVals (x y : Word) : State := withS ready [(6, x, 0), (7, y, 0)]

theorem witness_ScalarOperations (h : Obligations.ScalarOperations) :
    (Goes (.sadd 5 6 7) ready ∧ Goes (.ssub 5 6 7) ready ∧ Goes (.smul 5 6 7) ready ∧ Goes (.smulhi 5 6 7) ready ∧
      Goes (.smulhn 5 6 7) ready ∧ Goes (.smin 5 6 7) ready ∧ Goes (.smax 5 6 7) ready ∧ Goes (.sminn 5 6 7) ready ∧
      Goes (.smaxn 5 6 7) ready ∧ Goes (.saddc 5 6 7) ready ∧ Goes (.ssubb 5 6 7) ready) ∧
    (Goes (.sand 5 6 7) ready ∧ Goes (.sor 5 6 7) ready ∧ Goes (.sxor 5 6 7) ready ∧ Goes (.sandn 5 6 7) ready ∧
      Goes (.sclz 5 6) ready ∧ Goes (.spopc 5 6) ready ∧ Goes (.sbrev 5 6) ready ∧ Goes (.sext 5 6 1) ready ∧
      Goes (.sext 5 6 32) ready) := by
  obtain ⟨⟨a1, a2, a3, a4, a5, a6, a7, a8, a9, a10, a11⟩, ⟨b1, b2, b3, b4, b5, b6, b7, b8⟩, -⟩ := h
  refine ⟨⟨goes_scalar2 a1 ?_, goes_scalar2 a2 ?_, goes_scalar2 a3 ?_, goes_scalar2 a4 ?_, goes_scalar2 a5 ?_,
    goes_scalar2 a6 ?_, goes_scalar2 a7 ?_, goes_scalar2 a8 ?_, goes_scalar2 a9 ?_, goes_scalar2 a10 ?_,
    goes_scalar2 a11 ?_⟩, goes_scalar2 b1 ?_, goes_scalar2 b2 ?_, goes_scalar2 b3 ?_, goes_scalar2 b4 ?_,
    goes_scalar1 (b5 5 6) ?_, goes_scalar1 (b6 5 6) ?_, goes_scalar1 (b7 5 6) ?_,
    goes_scalar1 (b8 5 6 1 (by decide)) ?_, goes_scalar1 (b8 5 6 32 (by decide)) ?_⟩ <;> decide +kernel

theorem witness_ScalarOperations_constants (h : Obligations.ScalarOperations) :
    (Goes (.scmp 5 6 7 0) ready ∧ Goes (.scmp 5 6 7 9) ready) ∧ Goes (.ssel 5 6 7 8) ready ∧ Goes (.smov 5 6) ready ∧
      Goes (.slit 5 3 0x3F800000) ready ∧ Goes (.saddImm 5 6 0x3FFF) ready ∧ Goes (.sandImm 5 6 1) ready ∧
      Goes (.sshlImm 5 6 31) ready ∧ Goes (.sshrImm 5 6 31) ready ∧ Goes (.ssraImm 5 6 31) ready ∧
      Goes (.srotImm 5 6 31) ready ∧ Goes (.saddLit 5 6 1) ready ∧ Goes (.sandLit 5 6 1) ready ∧
      Goes (.sorLit 5 6 1) ready ∧ Goes (.sxorLit 5 6 1) ready ∧ Goes (.smulLit 5 6 3) ready := by
  obtain ⟨-, -, c1, c2, c3, c4, c5, c6, c7, c8, c9, c10, c11, c12, c13, c14, c15⟩ := h
  refine ⟨⟨goes (c1 0 (by decide) ready 5 6 7 ?_), goes (c1 9 (by decide) ready 5 6 7 ?_)⟩, goes (c2 ready 5 6 7 8 ?_),
    goes_scalar1 (c3 5 6) ?_, goes (c4 ready 5 3 0x3F800000 ?_), goes_scalar1 (c5 5 6 0x3FFF) ?_,
    goes_scalar1 (c6 5 6 1) ?_, goes_scalar1 (c7 5 6 31) ?_, goes_scalar1 (c8 5 6 31) ?_, goes_scalar1 (c9 5 6 31) ?_,
    goes_scalar1 (c10 5 6 31) ?_, goes_scalar1 (c11 5 6 1) ?_, goes_scalar1 (c12 5 6 1) ?_,
    goes_scalar1 (c13 5 6 1) ?_, goes_scalar1 (c14 5 6 1) ?_, goes_scalar1 (c15 5 6 3) ?_⟩ <;> decide +kernel

theorem witness_ScalarDivision (h : Obligations.ScalarDivision) :
    Goes (.sdiv 5 6 7) (twoVals 0x80000000 0xFFFFFFFF) ∧ Goes (.sdiv 5 6 7) (twoVals 7 0) ∧
      Goes (.sdivn 5 6 7) (twoVals 7 0) ∧ Goes (.srem 5 6 7) (twoVals 0x80000000 0xFFFFFFFF) := by
  refine ⟨goes_scalar2 h.1 ?_, goes_scalar2 h.1 ?_, goes_scalar2 h.2.1 ?_, goes_scalar2 h.2.2 ?_⟩ <;> decide +kernel

theorem witness_ScalarShifts (h : Obligations.ScalarShifts) :
    Goes (.sshl 5 6 7) (twoVals 1 31) ∧ Goes (.sshr 5 6 7) (twoVals 1 32) ∧ Goes (.ssra 5 6 7) (twoVals 0x80000000 32) ∧
      Goes (.srot 5 6 7) (twoVals 1 33) := by
  refine ⟨goes_scalar2 h.1 ?_, goes_scalar2 h.2.1 ?_, goes_scalar2 h.2.2.1 ?_, goes_scalar2 h.2.2.2 ?_⟩ <;>
    decide +kernel

theorem witness_MaskInstructions (h : Obligations.MaskInstructions) :
    Goes (.mand 10 13 16) ready ∧ Goes (.mor 10 13 16) ready ∧ Goes (.mxor 10 13 16) ready ∧
      Goes (.mandn 10 61 16) ready ∧ Goes (.mnot 10 13) ready ∧ Goes (.mpopc 10 61) ready ∧
      Goes (.mfirst 10 13) ready ∧ Goes (.msetx 58 13) ready ∧ Goes (.mgetx 61) ready ∧ Goes (.mtest 5 13) ready := by
  obtain ⟨h1, h2, h3, h4, h5, h6, h7, h8, h9, h10⟩ := h
  refine ⟨goes2 (h1 ready 10 13 16 ?_), goes2 (h2 ready 10 13 16 ?_), goes2 (h3 ready 10 13 16 ?_),
    goes2 (h4 ready 10 61 16 ?_), goes (h5 ready 10 13 ?_), goes (h6 ready 10 61 ?_), goes (h7 ready 10 13 ?_),
    goes (h8 ready 58 13 (by decide) ?_), goes (h9 ready 61 ?_), goes (h10 ready 5 13 ?_)⟩ <;> decide +kernel

/-! ### Control, traps, system registers -/

/-- A command of group 0 with a ticket, still open. -/
def openCmd (kind : CmdKind) (ticket : Word) (batch : Option Nat) : Cmd :=
  { group := 0, ctx := 1, grid := 1, team := 1, core := 0, kind := kind, ticket := ticket, site := ⟨0, 0, 0⟩, block := []
    batch := batch }

/-- The group at address 0, with its lower lanes in s10:s12. -/
def atZero : State := withS (withG ready fun g => { g with pc := 0 }) [(10, 1, 13), (20, 2, 0), (21, 0xFFFFFFFF, 0), (8, 0x600000, 14)]

theorem witness_ControlTransfers (h : Obligations.ControlTransfers) :
    (Goes (.br 0 0 0 5) ready ∧ Goes (.br 0 1 10 5) ready ∧ Goes (.br 1 10 16 5) ready ∧ Goes (.br 0 2 10 5) ready) ∧
      Goes (.jmp 5) ready ∧ Goes (.call 8 5) ready ∧ Goes (.ret 8) atZero ∧ Goes (.jmpi 20) atZero ∧
      Goes (.loop 10 5) atZero ∧ Goes (.loop 20 5) atZero ∧ Goes .nop ready ∧ Goes (.ipref 5) ready ∧
      (ready.askCode 0 0x700000).cluster (clusterOf 0) =
        { ready.cluster (clusterOf 0) with asked := some ((ready.group 0).ctx, 0x700000) } ∧
      ready.askCode 0 (-1) = ready := by
  obtain ⟨⟨h1, h2, h3, h4, h5, h6, h7, h8, h9⟩, -⟩ := h
  refine ⟨⟨goes ((h1 ready 0 0 0 5 ?_ ?_ ?_).1 trivial ?_), goes ((h1 ready 0 1 10 5 ?_ ?_ ?_).1 (show _ = 0 from ?_) ?_),
      goes ((h1 ready 1 10 16 5 ?_ ?_ ?_).1 (show _ = 0 from ?_) ?_),
      goes ((h1 ready 0 2 10 5 ?_ ?_ ?_).2 (show ¬_ ≠ 0 from ?_))⟩,
    goes (h2 ready 5 ?_ ?_), goes (h3 ready 8 5 ?_ ?_), goes (h4 atZero 8 ?_ ?_ ?_), goes (h5 atZero 20 ?_ ?_),
    goes (h6 atZero 10 5 ?_ ?_), goes (h6 atZero 20 5 ?_ ?_), goes (h7 ready ?_), goes (h8 ready 5 ?_),
    ((h9 ready 0 0x700000).1 ?_ ?_ ?_).2.1, (h9 ready 0 (-1)).2 ?_⟩ <;>
    (try unfold inSpace) <;> (try unfold uniform) <;> decide +kernel

theorem witness_ControlTransfers_faults (h : Obligations.ControlTransfers) :
    (Goes (.br 1 9 10 5) atZero ∧ Goes (.br 0 0 0 0x7FFF) atZero ∧ Goes (.br 0 2 20 0x7FFF) atZero) ∧
      Goes (.jmp 0x7FFF) atZero ∧ Goes (.call 8 0x7FFF) atZero ∧ Goes (.jmpi 21) atZero ∧ Goes (.loop 20 0x7FFF) atZero ∧
      Goes (.ret 8) (withS ready [(9, 0x1000000, 14)]) ∧ Goes (.ret 8) (withS ready [(8, 2, 14)]) := by
  obtain ⟨-, h1, h2, h3, h4, h5, h6, h7, h8⟩ := h
  refine ⟨⟨(h1 atZero 9 10 5 ?_ ?_ ?_ ?_).elim fun _ x => goesEq x.2,
      (h2 atZero 0 0 0 0x7FFF ?_ ?_ ?_ trivial ?_).elim fun _ x => goesEq x.2,
      (h2 atZero 0 2 20 0x7FFF ?_ ?_ ?_ (show _ ≠ 0 from ?_) ?_).elim fun _ x => goesEq x.2⟩,
    (h3 atZero 0x7FFF ?_ ?_).elim fun _ x => goesEq x.2, (h4 atZero 8 0x7FFF ?_ ?_).elim fun _ x => goesEq x.2,
    (h5 atZero 21 ?_ ?_).elim fun _ x => goesEq x.2, (h6 atZero 20 0x7FFF ?_ ?_ ?_).elim fun _ x => goesEq x.2,
    (h7 _ 8 ?_ ?_).elim fun _ x => goesEq x.2, (h8 _ 8 ?_ ?_ ?_).elim fun _ x => goesEq x.2⟩ <;>
    (try unfold inSpace) <;> (try unfold uniform) <;> decide +kernel

/-! ### Traps, decode faults, system registers -/

/-- Group 0 with one command of a ticket, still open, in s20. -/
def waiting : State :=
  { withG (withS ready [(20, 1, 2), (21, 2, 2)]) (fun g => { g with ticket := 1 }) with
    cmds := [(1, openCmd .cpy 1 none)] }

theorem witness_TrapInstructionsAndHalt (h : Obligations.TrapInstructionsAndHalt) :
    (Goes (.trap 5) privileged ∧ Goes (.bkpt 5) privileged ∧ Goes .rte trapped ∧ Goes .rteEnd trapped ∧
      Goes (.undefinedInstruction 0) ready ∧ Goes (.reservedMajor 0xFC000000) ready) ∧
      Goes .halt ready ∧ Goes .halt (withG ready fun g => { g with engine := .sprinter }) ∧ Goes (.yield 63 5) ready ∧
      Goes (.yield 22 5) waiting ∧ Goes (.yield 20 5) (withG waiting fun g => { g with ticket := 5 }) ∧
      Goes (.yield 20 5) waiting ∧ Goes (.yield 21 5) waiting := by
  obtain ⟨⟨h1, h2, h3, h4, h5, h6⟩, h7, h7s, h8, h9, h10, h11⟩ := h
  refine ⟨⟨goes (h1 privileged 5 ?_ ?_ ?_), goes (h2 privileged 5 ?_ ?_ ?_), goes (h3 trapped ?_ ?_),
    goes (h4 trapped ?_ ?_), goes (h5 ready 0 ?_ ?_), goes (h6 ready 0xFC000000 ?_ ?_)⟩, goes (h7 ready ?_ ?_ ?_),
    goes (h7s _ ?_ ?_ ?_), goes (h8 ready 5 ?_ ?_), goes (h9 waiting 22 5 ?_ ?_ ?_ ?_ ?_),
    goes (h10 _ 20 5 ?_ ?_ ?_ ?_ ?_), goes (h10 waiting 20 5 ?_ ?_ ?_ ?_ ?_), goesEq (h11 waiting 21 5 ?_ ?_ ?_)⟩ <;>
    (try unfold inSpace) <;> decide +kernel

theorem witness_ExceptionEntryAndDoubleTrap (h : Obligations.ExceptionEntryAndDoubleTrap) :
    Entered ready (ready.raise ⟨0x14, 0, 0, 0⟩) ⟨0x14, 0, 0, 0⟩ ∧ Halted trapped (trapped.raise ⟨0x14, 0, 0, 0⟩) :=
  ⟨h.1 ready _ (by decide +kernel), (h.2 trapped _ (by decide +kernel) (by decide +kernel)).1⟩

theorem witness_PrivilegeChecks (h : Obligations.PrivilegeChecks) :
    (Goes (.trap 5) ready ∧ Goes (.bkpt 5) ready ∧ Goes .rte ready ∧ Goes .rteEnd ready ∧ Goes (.ctxsave 20 22) ready ∧
      Goes (.ctxload 20 22) ready ∧ Goes (.srd 7 0x40) ready ∧ Goes (.srd 7 0x4F) ready ∧ Goes (.swr 7 0x4F) ready ∧
      Goes (.tsave 5 3) ready ∧ Goes (.tload 5 3) ready) ∧
    Goes (.ctxsave 20 22) trapped ∧ Goes (.ctxload 20 22) trapped := by
  obtain ⟨h1, h2, h3, h4, h5, h6, h7, h8, h9⟩ := h.1 ready (by decide +kernel) (by decide +kernel)
  refine ⟨⟨goes (h1 5 ?_), goes (h2 5 ?_), goes h3, goes h4, goes (h5 20 22 ?_), goes (h6 20 22 ?_),
    goes (h7 7 0x40 ?_ ?_ ?_), goes (h7 7 0x4F ?_ ?_ ?_), goes (h8 7 0x4F ?_ ?_ ?_), goes (h9 5 3 ?_ ?_).1,
    goes (h9 5 3 ?_ ?_).2⟩, goes (h.2 trapped 20 22 ?_ ?_ ?_ ?_ _ (List.mem_cons_self ..)),
    goes (h.2 trapped 20 22 ?_ ?_ ?_ ?_ _ (List.mem_cons_of_mem _ (List.mem_cons_self ..)))⟩ <;> decide +kernel

theorem witness_SystemRegisters (h : Obligations.SystemRegisters) :
    (Goes (.srd 7 0) ready ∧ Goes (.srd 7 0x4F) privileged ∧ Goes (.srd 7 0x4D) trapped ∧ Goes (.srd 7 0x80) ready ∧
      Goes (.srd 7 0xAF) ready ∧ Goes (.srd 7 0x14) ready ∧ Goes (.srd 7 0x15) ready) ∧
    (Goes (.swr 7 0) ready ∧ Goes (.swr 7 0x4F) privileged ∧ Goes (.swr 7 0x48) trapped ∧
      Goes (.swr 7 0x48) (withG trapped fun g => { g with ts := g.ts.put 7 ⟨2, 0⟩ }) ∧ Goes (.swr 7 0x14) ready ∧
      Goes (.swr 7 0x48) privileged) := by
  obtain ⟨h1, h2⟩ := h
  refine ⟨⟨goes ((h1 ready 7 0 ?_).1 (0, fun s => s.g.gctl, 0) ?_ ?_),
    goes ((h1 privileged 7 0x4F ?_).1 (0x4F, fun s => (s.context s.g.ctx).preemptLimit, 0) ?_ ?_),
    goes ((h1 trapped 7 0x4D ?_).2.1 3 ?_ ?_), goes ((h1 ready 7 0x80 ?_).2.2.1 0 ?_ ?_),
    goes ((h1 ready 7 0xAF ?_).2.2.1 47 ?_ ?_), goes ((h1 ready 7 0x14 ?_).2.2.2.1 ?_),
    goes ((h1 ready 7 0x15 ?_).2.2.2.2 ?_)⟩, goes ((h2 ready 7 0 ?_).1 ?_ ?_ ?_),
    goes ((h2 privileged 7 0x4F ?_).1 ?_ ?_ ?_), goes ((h2 trapped 7 0x48 ?_).1 ?_ ?_ ?_),
    goesEq ((h2 _ 7 0x48 ?_).2.1 ?_ ?_ ?_ ?_), goesEq ((h2 ready 7 0x14 ?_).2.2 ?_ ?_),
    goesEq ((h2 privileged 7 0x48 ?_).2.2 ?_ ?_)⟩ <;>
    (first | decide +kernel | (unfold mayWrite; decide +kernel) | simp [sysTable])

theorem witness_DecodeFaultOrder (h : Obligations.DecodeFaultOrder) (body : State → Res) :
    (∃ t, perform .nop { vr := [128] } body ready = .next t) ∧ (∃ t, perform .nop { barred := true } body ready = .next t) ∧
    (∃ t, perform .nop { pairs := [⟨true, 63⟩] } body ready = .next t) ∧
    (∃ t, perform .nop { tags := [(.s 5, 3)] } body
      (withS (withG ready fun g => { g with gctl := 8 }) [(5, 1, 1)]) = .next t) ∧
    (∃ t, perform .nop { sr := [5] } body (withG ready fun g => { g with looks := [⟨3, [.s 5]⟩] }) = .next t) ∧
    (∃ t, perform .nop { sr := [5] } body (withG ready fun g =>
      { g with results := [{ id := 1, kind := .load, writes := [.sreg 5 0 0], counter := none }] }) = .next t) := by
  refine ⟨⟨_, (h _ _ body ready ?_).1 ?_⟩, ⟨_, (h _ _ body ready ?_).2.1 ?_ ?_⟩,
    ((h _ _ body ready ?_).2.2.1 ?_ ?_ ?_).imp' (fun _ => _) fun _ x => x,
    ((h _ _ body _ ?_).2.2.2.1 ?_ ?_ ?_ ?_).imp' (fun _ => _) fun _ x => x,
    ((h _ _ body _ ?_).2.2.2.2.1 ?_ ?_ ?_ ?_ ?_).imp' (fun _ => _) fun _ x => x,
    ⟨_, (h _ _ body _ ?_).2.2.2.2.2 ?_ ?_ ?_ ?_ ?_ ?_⟩⟩ <;> decide +kernel

/-! ### Vector instructions -/

theorem goes_vec2 {i ea eb r tag} {s : State} (h : Vec2 i ea eb r tag) (b : Src)
    (p : Issues (i 3 4 b) { info2 3 4 b ea eb with mask := true } s)
    (q : NoTrap s.g (s.g.orLanes (fun l => (s.g.vsrc 4 ea l).2 ||| (s.g.blane b eb l).2) (s.g.bshared b eb))) :
    Goes (i 3 4 b) s := goes2 (h s 3 4 b p q)

theorem goes_lanes {i n d tag lane shared count} {s : State} (h : Lanes i n d tag lane shared count)
    (p : Issues i { n with mask := true } s) (q : NoTrap s.g (s.g.orLanes (fun l => (lane s.g l).2) (shared s.g))) :
    Goes i s := goes (h s p q)

theorem goes_moves {i n d tag val} {s : State} (h : Moves i n d tag val) (p : Issues i { n with mask := true } s) :
    Goes i s := goes (h s p)

theorem goes_vecF2 {i d a b ea eb tag f count} {s : State} (h : VecF2 i d a b ea eb tag f count)
    (p : Issues i { info2 d a b ea eb with mask := true } s)
    (q : NoTrap s.g (s.g.orLanes (fun l => (lane2 s.g a b ea eb f l).2) (s.g.bshared b eb))) : Goes i s := goes (h s p q)

theorem goes_vecF1 {i d a ea tag f count} {s : State} (h : VecF1 i d a ea tag f count)
    (p : Issues i { vr := [a.toNat], vw := [d.toNat], tags := [(.v a.toNat, ea)], mask := true } s)
    (q : NoTrap s.g (s.g.orLanes (fun l => (lane1 s.g a ea f l).2) 0)) : Goes i s := goes (h s p q)

theorem witness_VectorInteger (h : Obligations.VectorInteger) :
    (Goes (.vadd 3 4 (.v 5)) ready ∧ Goes (.vsub 3 4 (.s 5)) ready ∧ Goes (.vmul 3 4 (.v 5)) ready ∧
      Goes (.vmulhi 3 4 (.v 5)) ready ∧ Goes (.vmulhn 3 4 (.v 5)) ready ∧ Goes (.vmin 3 4 (.v 5)) ready ∧
      Goes (.vmax 3 4 (.v 5)) ready ∧ Goes (.vminn 3 4 (.v 5)) ready ∧ Goes (.vmaxn 3 4 (.v 5)) ready ∧
      Goes (.vadds 3 4 (.v 5)) ready ∧ Goes (.vsubs 3 4 (.v 5)) ready) ∧
    (Goes (.vand 3 4 (.v 5)) ready ∧ Goes (.vor 3 4 (.v 5)) ready ∧ Goes (.vxor 3 4 (.v 5)) ready ∧
      Goes (.vandn 3 4 (.v 5)) ready ∧ Goes (.vshl 3 4 (.v 5)) ready ∧ Goes (.vshr 3 4 (.v 5)) ready ∧
      Goes (.vsra 3 4 (.s 63)) ready ∧ Goes (.vabs 3 4) ready ∧ Goes (.vclz 3 4) ready ∧ Goes (.vpopc 127 127) ready) := by
  obtain ⟨a1, a2, a3, a4, a5, a6, a7, a8, a9, a10, a11, b1, b2, b3, b4, b5, b6, b7, b8, b9, b10⟩ := h
  refine ⟨⟨goes_vec2 a1 _ ?_ ?_, goes_vec2 a2 _ ?_ ?_, goes_vec2 a3 _ ?_ ?_, goes_vec2 a4 _ ?_ ?_, goes_vec2 a5 _ ?_ ?_,
    goes_vec2 a6 _ ?_ ?_, goes_vec2 a7 _ ?_ ?_, goes_vec2 a8 _ ?_ ?_, goes_vec2 a9 _ ?_ ?_, goes_vec2 a10 _ ?_ ?_,
    goes_vec2 a11 _ ?_ ?_⟩, goes_vec2 b1 _ ?_ ?_, goes_vec2 b2 _ ?_ ?_, goes_vec2 b3 _ ?_ ?_, goes_vec2 b4 _ ?_ ?_,
    goes_vec2 b5 _ ?_ ?_, goes_vec2 b6 _ ?_ ?_, goes_vec2 b7 _ ?_ ?_, goes2 (b8 ready 3 4 ?_ ?_),
    goes2 (b9 ready 3 4 ?_ ?_), goes2 (b10 ready 127 127 ?_ ?_)⟩ <;> decide +kernel

theorem witness_VectorSelectCompareMove (h : Obligations.VectorSelectCompareMove) :
    Goes (.vmad 3 4 (.v 5) 6) ready ∧ Goes (.vsel 3 4 (.v 5) 10) ready ∧ Goes (.vmov 3 (.s 5)) ready ∧
      Goes (.vidx 3 none) ready ∧ Goes (.vidx 3 (some 5)) ready ∧ Goes (.vbcast 3 4 5) ready ∧
      Goes (.vcmp 10 4 (.v 5) 0) ready ∧ Goes (.vcmp 10 4 (.v 5) 9) ready := by
  obtain ⟨h1, h2, h3, h4, h5, h6, h7⟩ := h
  refine ⟨goes_moves (h1 3 4 (.v 5) 6) ?_, goes_moves (h2 3 4 (.v 5) 10) ?_, goes_moves (h3 3 (.s 5)) ?_,
    goes_moves (h4 3) ?_, goes_moves (h5 3 5) ?_, goes_moves (h6 3 4 5) ?_, goes2 (h7 ready 10 4 (.v 5) 0 ?_ ?_ ?_),
    goes2 (h7 ready 10 4 (.v 5) 9 ?_ ?_ ?_)⟩ <;> decide +kernel

theorem witness_FpElementwise_sums (h : Obligations.FpElementwise) :
    Goes (.fadd 3 4 (.v 5)) ready ∧ Goes (.fsub 3 4 (.v 5)) ready ∧ Goes (.fmul 3 4 (.v 5)) ready ∧
      Goes (.faddRm 3 4 (.v 5) 1) ready ∧ Goes (.fsubRm 3 4 (.v 5) 1) ready ∧ Goes (.fmulRm 3 4 (.v 5) 1) ready ∧
      Goes (.hadd2Bf16 3 4 (.v 5)) ready ∧ Goes (.hadd2F16 3 4 (.v 5)) ready ∧ Goes (.hmul2Bf16 3 4 (.v 5)) ready ∧
      Goes (.hmul2F16 3 4 (.v 5)) ready ∧ Goes (.hadd2 3 4 (.v 5) 1 9) ready ∧ Goes (.hadd2 3 4 (.v 5) 1 8) ready ∧
      Goes (.hmul2 3 4 (.v 5) 1 9) ready ∧ Goes (.hmul2 3 4 (.v 5) 1 8) ready := by
  obtain ⟨h1, h2, h3, h4, h5, h6, h7, h8, h9, h10, h11, h12, h13, h14⟩ := h.1 3 4 (.v 5) 1
  refine ⟨goes_vecF2 h1 ?_ ?_, goes_vecF2 h2 ?_ ?_, goes_vecF2 h3 ?_ ?_, goes_vecF2 h4 ?_ ?_, goes_vecF2 h5 ?_ ?_,
    goes_vecF2 h6 ?_ ?_, goes_vecF2 h7 ?_ ?_, goes_vecF2 h8 ?_ ?_, goes_vecF2 h9 ?_ ?_, goes_vecF2 h10 ?_ ?_,
    goes_vecF2 h11 ?_ ?_, goes_vecF2 h12 ?_ ?_, goes_vecF2 h13 ?_ ?_, goes_vecF2 h14 ?_ ?_⟩ <;> decide +kernel

theorem witness_FpElementwise (h : Obligations.FpElementwise) :
    Goes (.ffma 3 4 (.v 5) 6 1) ready ∧ Goes (.hfma2 3 4 (.v 5) 6 1 8) ready ∧ Goes (.hfma2 3 4 (.v 5) 6 1 9) ready ∧
      Goes (.fmin 3 4 (.v 5)) ready ∧ Goes (.fmax 3 4 (.v 5)) ready ∧ Goes (.fscale 3 4 (.v 5)) ready ∧
      Goes (.fclass 3 4) ready ∧ Goes (.frnd 3 4 1) ready ∧ Goes (.fcmp 10 4 (.v 5) 0) ready ∧
      Goes (.fcmp 10 4 (.v 5) 7) ready := by
  obtain ⟨-, h1, h2, h3, h4, h5, h6, h7, h8⟩ := h
  refine ⟨goes_lanes (h1 3 4 (.v 5) 6 1) ?_ ?_, goes_lanes (h2 3 4 (.v 5) 6 1 8 ?_) ?_ ?_,
    goes_lanes (h2 3 4 (.v 5) 6 1 9 ?_) ?_ ?_, goes_vecF2 (h3 3 4 (.v 5)) ?_ ?_, goes_vecF2 (h4 3 4 (.v 5)) ?_ ?_,
    goes_vecF2 (h5 3 4 (.v 5)) ?_ ?_, goes_vecF1 (h6 3 4) ?_ ?_, goes_vecF1 (h7 3 4 1) ?_ ?_,
    goes (h8 10 4 (.v 5) 0 ?_ ready ?_ ?_), goes (h8 10 4 (.v 5) 7 ?_ ready ?_ ?_)⟩ <;> decide +kernel

theorem goes_late {i n d tag lane shared count} {s : State} (h : LateLanes i n d tag lane shared count)
    (p : Issues i { n with mask := true } s) (q : NoTrap s.g (s.g.orLanes (fun l => (lane s.g l).2) (shared s.g))) :
    Goes i s := goes (h s p q)

theorem goes_pairs {i n d lane shared} {s : State} (h : Pairs i n d lane shared)
    (p : Issues i { n with mask := true, vw := vpair d, pairs := ⟨false, d.toNat⟩ :: n.pairs } s)
    (q : NoTrap s.g (s.g.orLanes (fun l => (lane s.g l).flags) (shared s.g))) : Goes i s := goes (h s p q)

theorem goes_latePairs {i n d lane shared} {s : State} (h : LatePairs i n d lane shared)
    (p : Issues i { n with mask := true, vw := vpair d, pairs := ⟨false, d.toNat⟩ :: n.pairs } s)
    (q : NoTrap s.g (s.g.orLanes (fun l => (lane s.g l).flags) (shared s.g))) : Goes i s := goes (h s p q)

theorem goes_run {i n evs w cnt} {s : State} (h : LateRun i n evs w cnt) (p : Issues i n s)
    (q : NoTrap s.g (s.g.raisedFlags (evs s.g))) : Goes i s := goes (h s p q)

/-- All lanes of v4 hold 1.0. -/
def ones : State := withG ready fun g => { g with v := g.v.put 4 { lanes := List.replicate 96 0x3F800000, tag := 3 } }

theorem witness_LongLatencyFp (h : Obligations.LongLatencyFp) :
    Goes (.frcp 3 4 1) ones ∧ Goes (.frsq 3 4 1) ones ∧ Goes (.fexp2 3 4 1) ones ∧ Goes (.flog2 3 4 1) ones ∧
      Goes (.fsin 3 5 1) ones ∧ Goes (.fcos 3 5 1) ones ∧ Goes (.fsqrt 3 4 1 15) ones ∧
      Goes (.fdiv 3 5 (.v 4) 1 0) ones := by
  obtain ⟨h1, h2, h3, h4, h5, h6, h7, h8⟩ := h
  refine ⟨goes_late (h1 3 4 1) ?_ ?_, goes_late (h2 3 4 1) ?_ ?_, goes_late (h3 3 4 1) ?_ ?_, goes_late (h4 3 4 1) ?_ ?_,
    goes_late (h5 3 5 1) ?_ ?_, goes_late (h6 3 5 1) ?_ ?_, goes_late (h7 1 3 4 15) ?_ ?_,
    goes_late (h8 3 5 (.v 4) 1 0) ?_ ?_⟩ <;> decide +kernel

theorem witness_ConversionPackingTags (h : Obligations.ConversionPackingTags) :
    Goes (.cvt 3 4 7 1 1 0 0 0) ready ∧ Goes (.pack2 3 4 (.v 5) 9) ready ∧ Goes (.pack4 3 4 6 10) ready ∧
      Goes (.unpack2 3 4 3 1) ready ∧ Goes (.unpack4 3 4 5 3) ready ∧ Goes (.tagrd 5 (.s 63)) ready ∧
      Goes (.tagwr (.v 3) 5) ready ∧ Goes (.tagwr (.s 3) 15) ready := by
  obtain ⟨h1, h2, h3, h4, h5, h6, h7, h8⟩ := h
  refine ⟨goes_lanes (h1 3 4 7 1 1 0 0 0) ?_ ?_, goes_moves (h2 3 4 (.v 5) 9) ?_, goes_moves (h3 3 4 6 10) ?_,
    goes2 (h4 3 1 ready 3 4 ?_ ?_), goes2 (h5 5 3 ready 3 4 ?_ ?_), goes (h6 ready 5 (.s 63) ?_), goes (h7 ready 3 5 ?_),
    goes (h8 ready 3 15 ?_)⟩ <;> decide +kernel

theorem witness_RandomNumbers (h : Obligations.RandomNumbers) :
    Goes (.vrng 3) ready ∧ Goes (.cvtsr 3 4 10 1 3) ready ∧ Goes (.cvtsr 3 4 9 0 1) ready := by
  obtain ⟨h1, h2, -⟩ := h
  refine ⟨goes (h1 ready 3 ?_), goes (h2 ready 3 4 10 1 3 .e4m3 ?_ ?_ ?_), goes (h2 ready 3 4 9 0 1 .fp16 ?_ ?_ ?_)⟩ <;>
    decide +kernel

theorem witness_LaneMovement (h : Obligations.LaneMovement) :
    (Goes (.zip2 2 4) ready ∧ Goes (.zip3 2 6) ready ∧ Goes (.zip4 2 8) ready ∧ Goes (.unzip2 2 4) ready ∧
      Goes (.unzip3 2 6) ready ∧ Goes (.unzip4 2 124) ready) ∧ Goes (.lshuf 3 4 (.v 5)) ready ∧
      Goes (.lrot 3 4 (.imm 95)) ready ∧ Goes (.lread 5 4 (.imm 95) 1) ready ∧ Goes (.lread 5 4 (.imm 96) 1) ready ∧
      Goes (.lwrite 3 5 (.s 6)) ready ∧ Goes (.lwrite 3 5 (.imm 127)) ready ∧ Goes (.qswapx 3 4) ready ∧
      Goes (.qswapy 3 4) ready ∧ Goes (.qswapd 3 4) ready ∧ Goes (.qbcast 3 4 3) ready := by
  obtain ⟨h1, h2, h3, h4, h5, h6, h7, h8⟩ := h
  refine ⟨⟨goes (h1 ready 2 .zip2 2 4 (by simp) ?_), goes (h1 ready 3 .zip3 2 6 (by simp) ?_),
      goes (h1 ready 4 .zip4 2 8 (by simp) ?_), goes (h2 ready 2 .unzip2 2 4 (by simp) ?_),
      goes (h2 ready 3 .unzip3 2 6 (by simp) ?_), goes (h2 ready 4 .unzip4 2 124 (by simp) ?_)⟩,
    goes_moves (h3 3 4 (.v 5)) ?_, goes_moves (h4 3 4 (.imm 95)) ?_, goes (h5 ready 5 4 (.imm 95) 1 ?_),
    goes (h5 ready 5 4 (.imm 96) 1 ?_), goes (h6 ready 3 5 (.s 6) ?_), goes (h6 ready 3 5 (.imm 127) ?_),
    goes2 (h7 (.qswapx 3 4) 3 4 (fun l => l ^^^ 1) (by simp) ready ?_),
    goes2 (h7 (.qswapy 3 4) 3 4 (fun l => l ^^^ 2) (by simp) ready ?_),
    goes2 (h7 (.qswapd 3 4) 3 4 (fun l => l ^^^ 3) (by simp) ready ?_), goes_moves (h8 3 4 3) ?_⟩ <;> decide +kernel

theorem witness_ExactPairs (h : Obligations.ExactPairs) :
    Goes (.faddx 2 4 (.v 5)) ready ∧ Goes (.fsubx 2 4 (.v 5)) ready ∧ Goes (.fmulx 2 4 (.s 5)) ready ∧
      Goes (.dwadd 2 4 (.v 6)) ready ∧ Goes (.dwmul 2 4 (.v 6)) ready ∧ Goes (.dwadds 2 4 (.v 7)) ready ∧
      Goes (.dwmuls 2 4 (.s 7)) ready ∧ Goes (.dwnorm 2 4) ready ∧ Goes (.dwdiv 2 4 (.v 6) 1) ready ∧
      Goes (.dwsqrt 2 4 1) ready ∧ Goes (.dwcvt 2 5 0 1 1) ready ∧ Goes (.dwcvt 3 4 1 7 1) ready ∧
      Goes (.dwcmp 10 4 (.v 6) 0) ready ∧ Goes (.dwcmp 10 4 (.v 6) 7) ready := by
  obtain ⟨h1, h2, h3, h4, h5, h6, h7, h8, h9, h10, h11, h12, h13⟩ := h
  refine ⟨goes_pairs (h1 2 4 (.v 5)) ?_ ?_, goes_pairs (h2 2 4 (.v 5)) ?_ ?_, goes_pairs (h3 2 4 (.s 5)) ?_ ?_,
    goes_pairs (h4 2 4 (.v 6)) ?_ ?_, goes_pairs (h5 2 4 (.v 6)) ?_ ?_, goes_pairs (h6 2 4 (.v 7)) ?_ ?_,
    goes_pairs (h7 2 4 (.s 7)) ?_ ?_, goes_pairs (h8 2 4) ?_ ?_, goes_latePairs (h9 2 4 (.v 6) 1) ?_ ?_,
    goes_latePairs (h10 2 4 1) ?_ ?_, goes_pairs (h11 2 5 1 1) ?_ ?_, goes_lanes (h12 3 4 7 1) ?_ ?_,
    goes (h13 10 4 (.v 6) 0 ?_ ready ?_ ?_), goes (h13 10 4 (.v 6) 7 ?_ ready ?_ ?_)⟩ <;> decide +kernel

/-- 1 + 2^-24 lies between two FP32 numbers and goes to the even one, 1; the smallest subnormal is exact. -/
theorem witness_RoundedOnce (h : Obligations.RoundedOnce) :
    (∃ m' e' n, Fmt.fp32.decode (Fmt.fp32.round .rne false false (2 ^ 24 + 1) (-24)).1 = .fin false m' e' ∧
      IsRounded .rne false (2 ^ 24 + 1) (-24) (-23) n) ∧
    ∃ m' e' n, Fmt.fp32.decode (Fmt.fp32.round .rup false true 1 (-149)).1 = .fin true m' e' ∧
      IsRounded .rup true 1 (-149) (-149) n := by
  obtain ⟨m, e, n, h1, -, -, h2, -⟩ := h .fp32 .rne false (2 ^ 24 + 1) (-24) (by decide) (by decide +kernel)
  obtain ⟨m', e', n', h3, -, -, h4, -⟩ := h .fp32 .rup true 1 (-149) (by decide) (by decide +kernel)
  exact ⟨⟨m, e, n, h1, by convert h2 using 1; decide +kernel⟩, m', e', n', h3, by convert h4 using 1; decide +kernel⟩

theorem witness_Collectives (h : Obligations.Collectives) :
    Goes (.creduce 4 4 61 0 1) ready ∧ Goes (.creduce 4 5 61 1 1) ready ∧ Goes (.credseg 2 4 10 0 1) ready ∧
      Goes (.greduce 5 4 61 0 7 1 0 1) ready ∧ Goes (.gscan 3 4 0 1 1 1 1 1) ready ∧
      Goes (.gsegred 3 4 10 0 2 1 0 1) ready ∧ Goes (.gmatch 3 4 2 1) ready := by
  obtain ⟨h1, h2, h3, h4, h5, h6⟩ := h
  refine ⟨goes_run (h1 4 4 61 0 1) ?_ ?_, goes_run (h1 4 5 61 1 1) ?_ ?_, goes_run (h2 2 4 10 0 1) ?_ ?_,
    goes_run (h3 5 4 61 0 7 1 0 1) ?_ ?_, goes_run (h4 3 4 0 1 1 1 1 1) ?_ ?_, goes_run (h5 3 4 10 0 2 1 0 1) ?_ ?_,
    goes_run (h6 3 4 2 1) ?_ ?_⟩ <;> decide +kernel

theorem witness_CollectiveValues (h : Obligations.CollectiveValues) :
    intOf true (collTree ready.g 0 1 0 1 (fun _ => 0x7FFFFFFF) 3).1 = 2 ^ 31 - 1 ∧ (matchOf ready.g 4 2 95).toNat = 95 :=
  ⟨(h.1 ready.g 1 0 (fun _ => 0x7FFFFFFF) 3 (.inl rfl)).trans (by decide +kernel),
    (h.2.2.2 ready.g 4 95 (by decide) (by decide +kernel)).2.2.trans (by decide +kernel)⟩

/-- GCTL enables every flag; v4 holds 1.0, v5 zeros. -/
def trapping : State := withG ones fun g => { g with gctl := 0x3F00 }

/-- The same with the largest finite number in v5. -/
def largest : State :=
  withG trapping fun g => { g with v := g.v.put 5 { lanes := List.replicate 96 0x7F7FFFFF, tag := 3 } }

/-- The same with a signaling NaN in v4 and v5. -/
def notNumber : State :=
  withG trapping fun g =>
    let nan : VReg := { lanes := List.replicate 96 0x7F800001, tag := 3 }
    { g with v := (g.v.put 5 nan).put 4 nan }

theorem goes_fp {i n lane shared} {s : State} (h : FpTraps i n lane shared)
    (p : Issues i { n with mask := true } s ∧ TakesFaults s ∧ s.g.orLanes (lane s.g) (shared s.g) &&& s.g.ten ≠ 0) :
    Goes i s := goes2 (h s p.1 p.2.1 p.2.2)

theorem witness_FpExceptionTrap (h : Obligations.FpExceptionTrap) :
    Goes (.fadd 3 5 (.v 5)) largest ∧ Goes (.fdiv 3 4 (.v 5) 0 1) trapping ∧ Goes (.ffma 3 5 (.v 5) 5 0) largest ∧
      Goes (.hfma2 3 5 (.v 5) 5 0 9) largest ∧ Goes (.frcp 3 5 1) trapping ∧ Goes (.cvt 3 5 1 7 1 0 0 0) largest ∧
      Goes (.fcmp 10 5 (.v 5) 2) notNumber ∧ Goes (.dwcmp 10 4 (.v 4) 2) notNumber ∧ Goes (.faddx 2 5 (.v 5)) largest ∧
      Goes (.dwdiv 2 4 (.v 6) 1) trapping := by
  obtain ⟨h1, h2, h3, h4, h5, h6⟩ := h
  refine ⟨goes_fp (h1 3 5 (.v 5) 0 1).1 ?_, goes_fp (h1 3 4 (.v 5) 0 1).2.2.2.2.2.2.2.2.2.2.2.2.2.2.2.2.2 ?_,
    goes_fp (h2 3 5 5 (.v 5) 0 0).1 ?_, goes_fp ((h2 3 5 5 (.v 5) 0 9).2 (.inr rfl)) ?_, goes_fp (h3 3 5 0 1).1 ?_,
    goes_fp (h4 3 5 1 7 1 0 0 0) ?_, goes_fp (h5 10 5 (.v 5) 2 (by decide)).1 ?_,
    goes_fp (h5 10 4 (.v 4) 2 (by decide)).2 ?_, goes_fp (h6 2 5 (.v 5) 0).1 ?_,
    goes_fp (h6 2 4 (.v 6) 1).2.2.2.2.2.2.2.2.1 ?_⟩ <;> decide +kernel

/-! ### Memory accesses -/

/-- The program's first page stands in the TLB, and every base register covers 1 MiB of it. -/
def mapped : State :=
  withG (ready.modCore 0 fun c =>
      { c with tlb := [{ ctx := 1, va := 0, size := 2 ^ 30, start := 0, target := .local, rd := true, wr := true, ex := true }] })
    fun g => { g with
      b := [0, 1, 2, 3].map fun n => (n, { vb := 0x100000, limit := 2 ^ 20, rd := true, wr := true, valid := true
                                           everset := true, target := .local, start := 0x100000 }) }

/-- The same with no lane active. -/
def masked : State := withS mapped [(61, 0, 13), (62, 0, 13), (63, 0, 13)]

/-- The entry translates and may issue. -/
def passes (u : State) (r : Req) (x : ReqLane) : Bool :=
  match x.res with
  | .ok va key => isPeer key == false && (if r.op.returns then u.logOverlaps u.cur va r.size else u.logLine u.cur va) == false
  | _ => false

theorem pass_of {u : State} {r : Req} {entries : State → Nat → List Entry}
    (h : (entriesOf u r entries).all (passes u r) = true) : EntriesPass u r entries := by
  intro x hx
  have := List.all_eq_true.1 h x hx
  unfold passes at this
  split at this <;> simp_all

theorem goes_acc {i n r turned refresh entries evs} {s : State} (h : Accesses i n r turned refresh entries evs)
    (p : Issues i { n with mask := true, access := true, counter := r.counter } s ∧ s.g.xm ≠ 0 ∧ (turned s).isNone ∧
      NoTrap s.g (s.g.raisedFlags (evs s.g)) ∧ (entriesOf (refresh s) r entries).all (passes (refresh s) r) = true) :
    Goes i s := goes ((h s p.1).2 p.2.1 (Option.isNone_iff_eq_none.1 p.2.2.1) p.2.2.2.1 (pass_of p.2.2.2.2))

theorem goes_acc0 {i n r turned refresh entries evs} {s : State} (h : Accesses i n r turned refresh entries evs)
    (p : Issues i { n with mask := true, access := true, counter := r.counter } s ∧ s.g.xm = 0) :
    Goes i s := goes ((h s p.1).1 p.2)

theorem goes_sacc {i n entry} {r : Group → Req} {s : State} (h : ScalarAccess i n r entry) (va key : Nat)
    (p : Issues i { n with access := true, counter := (r s.g).counter } s)
    (q : (entry s).res = .ok va key ∧ isPeer key = false ∧
      if (r s.g).op.returns then s.logOverlaps s.cur va (r s.g).size = false else s.logLine s.cur va = false) :
    Goes i s := goes (h s va key p q.1 q.2.1 q.2.2)

/-- Fields of an atomic: an operation on i32 without order. -/
def af (op : BitVec 4) : AtomFields := { op := op, ty := 1, order := 0, scope := 0 }

/-- A second word of an ML instruction: offset 192. -/
def ext : MlExt := { off := 192, hint := 1, order := 0, scope := 0 }

theorem witness_GlobalLoadsAndStores (h : Obligations.GlobalLoadsAndStores) :
    (Goes (.vld 2 1 4 1 4) mapped ∧ Goes (.vld2w 2 1 4 1 5 ext) mapped ∧ Goes (.vlds 2 1 6 1 3) mapped ∧
      Goes (.vlds2w 2 1 6 1 4 ext) mapped ∧ Goes (.vldi 2 1 4 1 1) mapped ∧ Goes (.vldi2w 2 1 4 1 4 ext) mapped ∧
      Goes (.vld 2 1 4 1 4) masked) ∧
    (Goes (.vst 2 1 4 4) mapped ∧ Goes (.vst2w 2 1 4 5 ext) mapped ∧ Goes (.vsts 2 1 6 3) mapped ∧
      Goes (.vsts2w 2 1 6 4 ext) mapped ∧ Goes (.vsti 2 1 4 1) mapped ∧ Goes (.vsti2w 2 1 4 4 ext) mapped ∧
      Goes (.vst 2 1 4 4) masked) := by
  obtain ⟨⟨h1, h2, h3, h4, h5, h6⟩, k1, k2, k3, k4, k5, k6⟩ := h
  refine ⟨⟨goes_acc (h1 2 1 4 1 4) ?_, goes_acc (h2 2 1 4 1 5 ext) ?_, goes_acc (h3 2 1 6 1 3) ?_,
    goes_acc (h4 2 1 6 1 4 ext) ?_, goes_acc (h5 2 1 4 1 1) ?_, goes_acc (h6 2 1 4 1 4 ext) ?_,
    goes_acc0 (h1 2 1 4 1 4) ?_⟩, goes_acc (k1 2 1 4 4) ?_, goes_acc (k2 2 1 4 5 ext) ?_, goes_acc (k3 2 1 6 3) ?_,
    goes_acc (k4 2 1 6 4 ext) ?_, goes_acc (k5 2 1 4 1) ?_, goes_acc (k6 2 1 4 4 ext) ?_,
    goes_acc0 (k1 2 1 4 4) ?_⟩ <;> decide +kernel

theorem witness_PrivateAccesses (h : Obligations.PrivateAccesses) :
    Goes (.vldp 2 4 1 4) mapped ∧ Goes (.vldp2w 2 4 1 5 { ext with off := 1 }) mapped ∧ Goes (.vstp 2 4 5) mapped ∧
      Goes (.vstp2w 2 4 4 { ext with off := 1 }) mapped ∧ Goes (.vldp 2 4 1 5) masked := by
  obtain ⟨h1, h2, h3, h4⟩ := h
  refine ⟨goes_acc (h1 2 4 1 4 ?_) ?_, goes_acc (h2 2 4 1 5 { ext with off := 1 } ?_) ?_, goes_acc (h3 2 4 5 ?_) ?_,
    goes_acc (h4 2 4 4 { ext with off := 1 } ?_) ?_, goes_acc0 (h1 2 4 1 5 ?_) ?_⟩ <;> decide +kernel

theorem witness_AddressChecksAndTranslation (h : Obligations.AddressChecksAndTranslation) :
    mapped.baseLane 0 {} 4 4 true false = .fail 0x0A 4 ∧
    mapped.baseLane 0 (mapped.g.base 1) (-1) 4 true false = .fail 0x0A (2 ^ 64 - 1) ∧
    mapped.baseLane 0 (mapped.g.base 1) 0x100002 4 true false = .fail 0x0D 0x100002 ∧
    mapped.baseLane 0 { mapped.g.base 1 with wr := false } 0x1FFFFC 4 false true = .fail 0x0A 0x1FFFFC ∧
    mapped.baseLane 0 (mapped.g.base 1) 0x1FFFFC 4 false true = .ok 0x1FFFFC 0x1FFFFC ∧
    mapped.baseLane 0 (mapped.g.base 1) 0x200000 4 true false = mapped.translate 0 0x200000 true false ∧
    (∃ v, mapped.pairLane 0 0x1000000 0 true false = .fail 0x0A v) ∧
    mapped.pairLane 0 0 2 true false = .fail 0x0D 2 ∧
    mapped.pairLane 0 0 4 true false = mapped.translate 0 4 true false ∧
    (∃ v, mapped.privLane 0 (-1) 0 0 true false = .fail 0x0B v) ∧
    mapped.translate 0 (2 ^ 30 - 1) true true = .ok (2 ^ 30 - 1) (2 ^ 30 - 1) := by
  obtain ⟨⟨h1, h2, h3⟩, h4⟩ := h
  refine ⟨(h1 mapped 0 {} 4 4 true false ?_).1 ?_, (h1 mapped 0 (mapped.g.base 1) (-1) 4 true false ?_).2.1 ?_ ?_,
    (h1 mapped 0 (mapped.g.base 1) 0x100002 4 true false ?_).2.2.1 ?_ ?_ ?_,
    ((h1 mapped 0 { mapped.g.base 1 with wr := false } 0x1FFFFC 4 false true ?_).2.2.2.1 ?_ ?_ ?_ ?_ ?_).1 ?_,
    ((h1 mapped 0 (mapped.g.base 1) 0x1FFFFC 4 false true ?_).2.2.2.1 ?_ ?_ ?_ ?_ ?_).2 ?_ ?_,
    (h1 mapped 0 (mapped.g.base 1) 0x200000 4 true false ?_).2.2.2.2 ?_ ?_ ?_ ?_,
    (h2 mapped 0 0x1000000 0 true false).1 ?_, (h2 mapped 0 0 2 true false).2.1 ?_ ?_ ?_,
    (h2 mapped 0 0 4 true false).2.2 ?_ ?_ ?_, (h3 mapped 0 0 (-1) 0 true false).1 ?_,
    (h4 mapped 0 (2 ^ 30 - 1) ((mapped.core 0).tlb.headD ⟨0, 0, 0, 0, .local, false, false, false⟩) true true ?_).2 ?_ ?_⟩ <;>
    (try unfold inSpace) <;> decide +kernel

/-- No private word may be accessed. -/
def noPrivate : State := withG ready fun g => { g with stklim := 0 }

theorem goes_lanesFail {i n r turned refresh entries evs} {s : State}
    (h : LaneFaultsOf i n r turned refresh entries evs) (cause val : Nat)
    (p : Issues i { n with mask := true, access := true, counter := r.counter } s ∧ TakesFaults s ∧ s.g.xm ≠ 0 ∧
      (turned s).isNone ∧ NoTrap s.g (s.g.raisedFlags (evs s.g)))
    (q : ((entriesOf (refresh s) r entries).all fun y =>
      match y.res with | .miss _ => false | .absent _ _ => false | _ => true) = true)
    (w : (((entriesOf (refresh s) r entries).filter fun y => LaneMissed y && !s.g.helper.getLsbD y.lane).head?.map
      fun y => y.res) = some (.fail cause val)) : Goes i s := by
  obtain ⟨x, hx, hv⟩ := Option.map_eq_some_iff.1 w
  obtain ⟨xs, hs⟩ := List.head?_eq_some_iff.1 hx
  refine goes2 (h s x xs cause val p.1 p.2.1 p.2.2.1 (Option.isNone_iff_eq_none.1 p.2.2.2.1) p.2.2.2.2
    (fun y hy va c => ?_) hs hv)
  have e := List.all_eq_true.1 q y hy
  constructor <;> intro k <;> rw [k] at e <;> cases e

theorem witness_LaneFaults (h : Obligations.LaneFaults) :
    (Goes (.vld2w 2 1 4 1 4 ext) ready ∧ Goes (.vsts 2 1 6 3) ready ∧ Goes (.vldp 2 4 1 4) noPrivate ∧
      Goes (.red 4 (.s 6) 1 (af 6) 1) ready) ∧ Goes (.vld 2 1 4 1 4) ready := by
  obtain ⟨⟨⟨⟨-, h1, -⟩, -, -, h2, -⟩, ⟨h3, -⟩, -, h4⟩, h5⟩ := h
  refine ⟨⟨goes_lanesFail (h1 2 1 4 1 4 ext) 0x0A 192 ?_ ?_ ?_, goes_lanesFail (h2 2 1 6 3) 0x0A 0 ?_ ?_ ?_,
      goes_lanesFail (h3 2 4 1 4 ?_) 0x0B 0 ?_ ?_ ?_, goes_lanesFail (h4 4 (.s 6) 1 (af 6) 1 ?_) 0x0A 0 ?_ ?_ ?_⟩,
    goes2 (h5 ready 2 1 4 1 4 0 0x0A 0 ?_ ?_ ?_ (fun k va _ _ => ?_) ?_ ?_ ?_ ?_ (fun k hk => absurd hk (by omega)))⟩
  all_goals first
    | decide +kernel
    | simp [State.baseLane, show (ready.g.base 1).everset = false by decide +kernel]



theorem witness_GlobalAtomics (h : Obligations.GlobalAtomics) :
    Goes (.atom 2 4 (.v 6) 8 1 (af 7) 0 1) mapped ∧ Goes (.red 4 (.s 6) 1 (af 6) 1) mapped ∧
      Goes (.satom 5 8 6 7 (af 7) 0 0 1) mapped ∧ Goes (.satom 5 8 6 7 (af 0) 0 1 0) mapped ∧
      Goes (.red 4 (.s 6) 1 (af 0) 0) masked := by
  obtain ⟨⟨h1, h2⟩, h3⟩ := h
  refine ⟨goes_acc (h1 2 4 (.v 6) 8 1 (af 7) 0 1) ?_, goes_acc (h2 4 (.s 6) 1 (af 6) 1 ?_) ?_,
    goes_sacc (h3 5 8 6 7 (af 7) 0 0 1) 0 0 ?_ ?_, goes_sacc (h3 5 8 6 7 (af 0) 0 1 0) 0 0 ?_ ?_,
    goes_acc0 (h2 4 (.s 6) 1 (af 0) 0 ?_) ?_⟩ <;> decide +kernel

/-- s8:s9 hold an address above 2^56. -/
def farPair : State := withS mapped [(8, 4, 14), (9, 0x1000000, 14)]

/-- An error has spoilt the lines of the page table that map address 0. -/
def spoiltTable : State := { mapped with poison := (mapped.baseReads 1 0).map lineOf }

theorem witness_ScalarAccessesAndBaseRegisters (h : Obligations.ScalarAccessesAndBaseRegisters) :
    (Goes (.sld 5 8 127 1) mapped ∧ Goes (.sst 5 8 0) mapped ∧ Goes (.wakew 8 6 4) mapped) ∧
      (Goes (.btset 3 8 3) ready ∧ Goes (.btset 3 8 3) spoiltTable ∧ Goes (.btset 3 8 3) farPair) ∧
      Goes (.btget 8 1 0) mapped ∧ Goes (.btget 8 1 1) mapped ∧ Goes (.btget 8 1 2) mapped ∧ Goes (.pref 1 4) mapped ∧
      Goes (.pref2w 1 4 ext) mapped := by
  obtain ⟨⟨h1, h2, h3⟩, h4, h5, h6, h7, h8, h9, -⟩ := h
  refine ⟨⟨goes_sacc (h1 5 8 127 1) 508 508 ?_ ?_, goes_sacc (h2 5 8 0) 0 0 ?_ ?_, goes_sacc (h3 8 6 4) 0 0 ?_ ?_⟩,
    ⟨goes2 ((h4 ready 3 8 3 ?_).1 ?_ (Option.isNone_iff_eq_none.1 ?_)),
      goesEq ((h4 spoiltTable 3 8 3 ?_).2.1 _ ?_ (Option.some_get ?_).symm), goesEq ((h4 farPair 3 8 3 ?_).2.2 ?_)⟩,
    goes (h5 mapped 8 1 ?_), goes (h6 mapped 8 1 ?_), goes2 (h7 mapped 8 1 ?_), goes (h8 mapped 1 4 ?_),
    goes (h9 mapped 1 4 ext ?_)⟩ <;> decide +kernel

/-- The loaded program's team. -/
def theTeam : Team :=
  { ctx := 1, grid := 1, index := 0, gang := 1, core := 0, slots := [0], block := 0, blocks := 16, scratchBase := 0
    scratch := 524160, vregs := 128, priv := 48 }

/-- The core's scratchpad has served slot 5 in this clock. -/
def bankBusy : State := { mapped with served := [(bankPoint 0, (mapped.clock, 5))] }

/-- A store of lane 0 to the loaded team's scratchpad at an offset, on its way to the bank under number 1. -/
def storeOnWay (off : Nat) (s : State) : State :=
  withG s fun g => { g with
    results := [{ id := 1, kind := .store, writes := [], counter := some 3
                  bank := some { core := 0, team := 1, remote := false, pc := g.pc, word := 0, site := ⟨0, 0, 0⟩
                                 lanes := [⟨0, off, off, [1, 2, 3, 4]⟩] } }] }

/-- The result that a store on its way stands for. -/
def onWay (s : State) : Result := (s.result 0 1 .store).getD { id := 0, kind := .load, writes := [], counter := none }

/-- A store of no lane. -/
def noStore : BankStore := { core := 0, team := 0, lanes := [], pc := 0, word := 0, site := ⟨0, 0, 0⟩ }

/-- A range lock of a command covers the store's bytes. -/
def storeBarred : State :=
  (storeOnWay 64 mapped).modCore 0 fun c => { c with locks := [{ cmd := 9, team := 1, lo := 0, hi := 128, dest := true, from_ := 0 }] }

theorem witness_Scratchpad (h : Obligations.Scratchpad) :
    (Goes (.spld 2 4 1 5) mapped ∧ Goes (.spld2w 2 4 1 4 ext) mapped ∧ Goes (.spldx 2 0 4 1 1) mapped ∧
      Goes (.spldx2w 2 0 4 1 3 ext) mapped ∧ Goes (.spld 2 4 1 5) masked ∧ Goes (.spld 2 4 1 5) bankBusy) ∧
    (Goes (.spst 2 4 5) mapped ∧ Goes (.spst2w 2 4 4 { ext with order := 2 }) mapped ∧ Goes (.spstx 2 0 4 1) mapped ∧
      Goes (.spstx2w 2 0 4 3 ext) mapped ∧ Goes (.spst 2 4 5) masked) ∧
    (Goes (.spatom 2 4 (.v 6) 8 0 0 (af 7) 0 1) mapped ∧ Goes (.spatom 2 4 (.s 6) 8 1 0 (af 0) 1 1) mapped ∧
      Goes (.spatom 2 4 (.v 6) 8 0 0 (af 7) 0 1) bankBusy ∧ Goes (.spatom 2 4 (.v 6) 8 0 0 (af 0) 0 1) masked) ∧
    Goes (.storeAccepted 0 1) (storeOnWay 64 mapped) ∧ Goes (.storeAccepted 0 1) storeBarred := by
  obtain ⟨⟨h1, h2, h3, h4, k1, k2, k3, k4⟩, h5, -, h6, -⟩ := h
  have e := h6 (storeOnWay 64 mapped) 0 1 (onWay (storeOnWay 64 mapped)) ((onWay (storeOnWay 64 mapped)).bank.getD noStore)
    (by decide +kernel) (by decide +kernel) (by decide +kernel) (by decide +kernel)
  have f := h6 storeBarred 0 1 (onWay storeBarred) ((onWay storeBarred).bank.getD noStore)
    (by decide +kernel) (by decide +kernel) (by decide +kernel) (by decide +kernel)
  refine ⟨⟨goes (((h1 2 4 1 5 mapped theTeam ?_ ?_).2 ?_ ?_).2 ?_), goes (((h2 2 4 1 4 ext mapped theTeam ?_ ?_).2 ?_ ?_).2 ?_),
      goes (((h3 2 0 4 1 1 mapped theTeam ?_ ?_).2 ?_ ?_).2 ?_),
      goes (((h4 2 0 4 1 3 ext mapped theTeam ?_ ?_).2 ?_ ?_).2 ?_), goes ((h1 2 4 1 5 masked theTeam ?_ ?_).1 ?_),
      goesEq (((h1 2 4 1 5 bankBusy theTeam ?_ ?_).2 ?_ ?_).1 ?_)⟩,
    ⟨goes (((k1 2 4 5 mapped theTeam ?_ ?_).2 ?_ ?_).1 ?_),
      goes (((k2 2 4 4 { ext with order := 2 } mapped theTeam ?_ ?_).2 ?_ ?_).2 ?_ ?_),
      goes (((k3 2 0 4 1 mapped theTeam ?_ ?_).2 ?_ ?_).1 ?_), goes (((k4 2 0 4 3 ext mapped theTeam ?_ ?_).2 ?_ ?_).1 ?_),
      goes ((k1 2 4 5 masked theTeam ?_ ?_).1 ?_)⟩,
    ⟨goes ((h5 mapped 2 4 (.v 6) 8 0 0 (af 7) 0 1 theTeam ?_ ?_).2.2 ?_ ?_ ?_ ?_),
      goes ((h5 mapped 2 4 (.s 6) 8 1 0 (af 0) 1 1 theTeam ?_ ?_).2.2 ?_ ?_ ?_ ?_),
      goesEq ((h5 bankBusy 2 4 (.v 6) 8 0 0 (af 7) 0 1 theTeam ?_ ?_).2.1 ?_ ?_ ?_),
      goes ((h5 masked 2 4 (.v 6) 8 0 0 (af 0) 0 1 theTeam ?_ ?_).1 ?_)⟩,
    goesEq (e.1 ?_), goes (f.2 ⟨0, 64, 64, [1, 2, 3, 4]⟩ [] ?_ ?_ ?_ ?_ ?_ ?_)⟩ <;> decide +kernel

theorem witness_ReleaseAndAcquire (h : Obligations.ReleaseAndAcquire) :
    ready.releaseL1 0 1 = ready ∧ (ready.acquireL1 0 2).groups = ready.groups ∧
      (ready.releaseL1 0 4).byte 0 = (match ready.l1 0 0 with
        | some l => if l.dirty.getLsbD 0 then l.bytes.get 0 0 else ready.byte 0
        | none => ready.byte 0) :=
  ⟨((h ready 0 1).1 (by decide)).1, ((h ready 0 2).2.2 (by decide)).2.1,
    ((h ready 0 4).2.1 (by decide) (by decide +kernel)).1 0⟩

/-- A state in which the group has a store in flight. -/
def storing : State :=
  withG ready fun g => { g with
    counters := g.counters.put 3 1
    accesses := [{ id := 1, op := .store, lanes := [{ lane := 0, va := 192, key := 192, data := [1, 2, 3, 4] }], counter := some 3 }] }

theorem witness_FencesAndCode (h : Obligations.FencesAndCode) :
    Goes (.fence 3 4) ready ∧ Goes (.fence 2 4) storing ∧ Goes (.fence 1 4) ready ∧ Goes (.icinv 4 8 5) ready ∧
      Goes (.icinv 4 8 5) farPair ∧ Goes .ifence ready := by
  obtain ⟨h1, h2, h3⟩ := h
  refine ⟨goes ((h1 ready 3 4 ?_).1 ?_ ?_), goesEq ((h1 storing 2 4 ?_).2.1 ?_ ?_), goes ((h1 ready 1 4 ?_).2.2 ?_ ?_ ?_),
    goes ((h2 ready 4 8 5 ?_).1 ?_), goesEq ((h2 farPair 4 8 5 ?_).2 ?_), goes (h3 ready ?_)⟩ <;> decide +kernel

/-- A message of two words from group 0 to core 0, queue 2. -/
def message : Message :=
  { id := 1, ctx := 1, from_ := 0, team := 1, index := 0, toCore := 0, queue := 2, words := [7, 8] }

/-- The message stands in its queue. -/
def queued : State := ready.modCore 0 fun c => { c with queues := c.queues.put 2 [message] }

/-- The log of the group's context is replayed, and its next record names the group and holds an input. -/
def replaying (s : State) (v : Word) : State :=
  s.modCtx 1 fun c => { c with observe := { c.observe with
    mode := 2, log := [{ agent := 0, core := 0, slot := 0, end_ := 1, size := s.g.chunk, input := some v }] } }

/-- The group has read its word of WAITW and it held 0. -/
def waited : State := withG mapped fun g => { g with waitRead := some 0 }

theorem witness_MessagesAndWaitWord (h : Obligations.MessagesAndWaitWord) :
    (Goes (.msend 2 10 5 7 0 0) ready ∧ Goes (.msend 2 10 5 0 2 2) ready ∧ Goes (.msend 2 10 6 0 0 0) (twoVals 256 0) ∧
      Goes (.mrecv 10 2 0 0 0 1) (withG ready fun g => { g with inbox := some message }) ∧ Goes (.mrecv 10 2 0 1 2 1) queued ∧
      Goes (.mrecv 10 2 1 0 0 1) queued ∧ Goes (.mrecv 10 2 1 0 0 1) ready ∧
      Goes (.mrecv 10 2 1 0 0 1) (replaying queued 0) ∧ Goes (.mrecv 10 2 0 0 0 1) ready ∧
      Goes (.mrecv 10 2 1 0 0 1) (replaying ready 5)) ∧
    Goes (.waitw 5 8 6 7 0 0) (withS waited [(6, 1, 0)]) ∧
      Goes (.waitw 5 8 6 7 0 0) (withG { withS waited [(7, 1, 0)] with clock := 100 } fun g => { g with waitStart := some 0 }) ∧
      Goes (.waitw 5 8 6 7 0 0) (replaying waited 9) ∧ Goes (.waitw 5 8 6 7 0 0) waited ∧
      Goes (.waitw 5 8 6 7 0 0) mapped := by
  obtain ⟨⟨h1, h2⟩, h3⟩ := h
  refine ⟨⟨goes ((h1 ready 2 10 5 7 0 0 ?_).1 ?_ ?_ ?_ ?_), goes ((h1 ready 2 10 5 0 2 2 ?_).1 ?_ ?_ ?_ ?_),
      goesEq ((h1 (twoVals 256 0) 2 10 6 0 0 0 ?_).2 ?_), goes ((h2 _ 10 2 0 0 0 1 ?_).1 message ?_),
      goes ((h2 queued 10 2 0 1 2 1 ?_).2.1 message [] ?_ ?_ ?_), goes ((h2 queued 10 2 1 0 0 1 ?_).2.1 message [] ?_ ?_ ?_),
      goes ((h2 ready 10 2 1 0 0 1 ?_).2.2.1 ?_ ?_ (.inl ⟨?_, none_of ?_⟩)),
      goes ((h2 (replaying queued 0) 10 2 1 0 0 1 ?_).2.2.1 ?_ ?_ (.inr ?_)),
      goes ((h2 ready 10 2 0 0 0 1 ?_).2.2.2 ?_ (.inl ?_) ?_),
      goes ((h2 (replaying ready 5) 10 2 1 0 0 1 ?_).2.2.2 ?_ (.inr ⟨5, ?_, ?_⟩) ?_)⟩,
    goes ((h3 (withS waited [(6, 1, 0)]) 5 8 6 7 0 0 ?_).1 0 ?_ ?_ ?_ ?_),
    goes ((h3 (withG { withS waited [(7, 1, 0)] with clock := 100 } fun g => { g with waitStart := some 0 }) 5 8 6 7 0 0 ?_).2.1
      0 ?_ ?_ ?_ ?_ ?_ ?_),
    goes ((h3 (replaying waited 9) 5 8 6 7 0 0 ?_).2.2.1 0 9 ?_ ?_ ?_),
    goes ((h3 waited 5 8 6 7 0 0 ?_).2.2.2.1 0 ?_ ?_ ?_ ?_ ?_ ?_), goes2 ((h3 mapped 5 8 6 7 0 0 ?_).2.2.2.2 0 0 ?_ ?_ ?_ ?_ ?_)⟩ <;>
    decide +kernel

/-! ### Barriers, promotion, commands -/

/-- The group has arrived at barrier 2 in phase 0. -/
def arrived : State :=
  withG { ready with teams := [(1, { theTeam with barriers := [(2, { arrived := [0] })] })] }
    fun g => { g with phases := [(2, 0)], arrivalDone := true }

/-- The phase has completed since. -/
def passed : State := { arrived with teams := [(1, { theTeam with barriers := [(2, { phase := 1 })] })] }

/-- Bed 0's local crossbar has served a flit of class 3 in this clock. -/
def crossbarBusy : State := { ready with routers := [(0, { last := some (ready.clock, 2, 0, 0) })] }

/-- The loaded program's gang. -/
def theGang : Gang := (ready.gangs.find? 1).getD { grid := 0, teams := [] }

theorem witness_BarrierInstructions (h : Obligations.BarrierInstructions) :
    ((Goes (.bara 0) ready ∧ Goes (.bara 19) ready ∧ Goes (.bara 2) arrived ∧ Goes (.bara 2) storing ∧
        Goes (.bara 19) crossbarBusy) ∧
      (Goes (.barw 2) ready ∧ Goes (.barw 2) passed ∧ Goes (.barw 2) arrived) ∧
      Goes (.baraw 2) passed ∧ Goes (.baraw 2) ready ∧ Goes (.baraw 19) ready ∧ Goes (.baraw 2) storing) ∧
      ((ready.arrive 0 2).group 0).phases.find? 2 = some 0 ∧ ((ready.arrive 0 19).group 0).phases.find? 19 = some 0 := by
  obtain ⟨h1, h2, h3⟩ := h
  refine ⟨⟨⟨goes ((h1 ready 0 ?_).1 ?_ ?_ ?_ ?_), goes ((h1 ready 19 ?_).1 ?_ ?_ ?_ ?_),
        goesEq ((h1 arrived 2 ?_).2.1 ?_ ?_), goesEq ((h1 storing 2 ?_).2.2.1 ?_ ?_ ?_ ?_),
        goesEq ((h1 crossbarBusy 19 ?_).2.2.2.1 ?_ ?_ ?_)⟩,
      ⟨goes ((h1 ready 2 ?_).2.2.2.2.1 ?_ (none_of ?_)), goes ((h1 passed 2 ?_).2.2.2.2.1 ?_ (some_of 0 ?_ ?_)),
        goes ((h1 arrived 2 ?_).2.2.2.2.2.1 ?_ (fun h => h 0 ?_ ?_))⟩,
      goes ((h1 passed 2 ?_).2.2.2.2.2.2.1 ?_ ?_ (some_of 0 ?_ ?_)), goes ((h1 ready 2 ?_).2.2.2.2.2.2.2.1 ?_ ?_ ?_ ?_ ?_),
      goes ((h1 ready 19 ?_).2.2.2.2.2.2.2.1 ?_ ?_ ?_ ?_ ?_),
      goes ((h1 storing 2 ?_).2.2.2.2.2.2.2.2 ?_ ?_ (.inr ⟨?_, ?_⟩))⟩,
    (h2 ready 0 2 theTeam ?_ ?_).2.2.1.trans ?_, (h3 ready 0 19 theTeam theGang ?_ ?_ ?_).2.2.1.trans ?_⟩
  all_goals decide +kernel

/-- A trial that ends at the first PROGRESS of counter 2. -/
def tried : State :=
  ready.modCtx 1 fun c => { c with observe := { c.observe with trial := some { lo := 0, hi := 1, delay := 0, counter := 2, target := 1 } } }

/-- A privileged context whose pre-emption has begun. -/
def preempting : State := privileged.modCtx 1 fun c => { c with preempt := .draining }

theorem witness_PromoteProgressAndContextRequests (h : Obligations.PromoteProgressAndContextRequests) :
    (Goes (.promote 1) ready ∧ Goes (.promote 0) ready ∧ Goes (.progress 7) ready ∧
      Goes (.progress 7) { ready with spares := [⟨8, 0⟩] } ∧ Goes (.progress 2) tried) ∧
      (Goes (.ctxsave 20 22) privileged ∧ Goes (.ctxsave 20 22) (withS privileged [(20, 1, 0)]) ∧
        Goes (.ctxsave 20 22) (withS preempting [(20, 1, 0)])) ∧
      Goes (.ctxload 20 22) privileged ∧ Goes (.ctxload 20 22) (withS privileged [(20, 1, 0)]) ∧
      Goes (.ctxload 20 22) (withS preempting [(20, 1, 0)]) := by
  obtain ⟨⟨h1, h2, h3⟩, h4⟩ := h
  refine ⟨⟨goes (h1 ready ?_), goes (h2 ready ?_), goes ((h3 ready 7 ?_).2.1 ?_ (none_of ?_)),
      goes ((h3 { ready with spares := [⟨8, 0⟩] } 7 ?_).1 ?_),
      goes ((h3 tried 2 ?_).2.2 ?_ { lo := 0, hi := 1, delay := 0, counter := 2, target := 1 } ?_ ?_ ?_)⟩,
    ⟨goes ((h4 privileged 20 22 ?_).1 ?_), goes ((h4 (withS privileged [(20, 1, 0)]) 20 22 ?_).1 ?_),
      goes ((h4 (withS preempting [(20, 1, 0)]) 20 22 ?_).1 ?_)⟩,
    goes ((h4 privileged 20 22 ?_).2 ?_), goes ((h4 (withS privileged [(20, 1, 0)]) 20 22 ?_).2 ?_),
    goes ((h4 (withS preempting [(20, 1, 0)]) 20 22 ?_).2 ?_)⟩ <;> decide +kernel

/-- In trap mode, with the program's page in the TLB. -/
def mappedTrap : State := withG mapped fun g => { g with trapMode := true }

theorem witness_TrapFrame (h : Obligations.TrapFrame) :
    Goes (.tsave 127 15) mappedTrap ∧ Goes (.tload 5 0) mappedTrap := by
  refine ⟨goes ((h mappedTrap 127 15
      (fun l => mappedTrap.g.pvbase.toNat + 384 * (mappedTrap.g.trap.frame.toNat + 15) + 4 * l)).1 ?_ ?_ ?_),
    goes ((h mappedTrap 5 0
      (fun l => mappedTrap.g.pvbase.toNat + 384 * (mappedTrap.g.trap.frame.toNat + 0) + 4 * l)).2 ?_ ?_ ?_)⟩ <;>
    decide +kernel

/-- A state whose blocks at s16, s24, s32, s40 are a copy, a matrix command, a gather and a reduction across dies. -/
def blocks : State := withS mapped
  [(18, 0x1000, 0), (20, 23, 0), (21, 42, 0), (25, 0x1000, 0), (26, 0x2000, 0), (27, 0x7C1E0F, 0), (28, 0xC000C0, 0),
    (29, 0x000400C0, 0), (36, 16, 0), (37, 192, 0), (38, 0x801, 0), (42, 1, 0), (44, 1, 0)]

/-- The blocks of SCPROBE at s16 and SCSAVE at s24. -/
def probes : State := withS mapped
  [(17, 0, 0), (19, 0x10001, 0), (20, 4, 0), (21, 8, 0), (25, 0, 0), (26, 0x10001, 0), (27, 4, 0), (28, 7, 0)]

theorem goes_cmd {i n tdest acq kind counter block checks ents init} {s : State}
    (h : Commands i n tdest acq kind counter block checks ents init) (p : Issues i (n s.g) s) (q : checks s)
    (r : Taken s (ents s) kind.isMatrix) : Goes i s := goes (h s p q r)

theorem witness_CommandsAreTaken (h : Obligations.CommandsAreTaken) :
    (Goes (.cpy 16 8 0 1) blocks ∧ Goes (.mma 24 63 1) blocks ∧ Goes (.mmas 24 63 0) blocks ∧ Goes (.mmag 24 63 0) blocks ∧
      Goes (.gath 32 8 1 0) blocks ∧ Goes (.scat 32 8 1) blocks ∧ Goes (.scprobe 16 8 0 1 0) probes ∧
      Goes (.nredx 40 8 4) blocks) ∧ Goes (.scbegin 16 8) blocks ∧ Goes (.scsave 24 8) probes ∧ Goes (.cpy 16 8 1 0) blocks := by
  refine ⟨⟨goes_cmd ((h.1 16 8).1 1) ?_ ?_ ?_, goes_cmd ((h.1 24 63).2.1 1 (.mma, .mma 24 63 1) (by simp) 0) ?_ ?_ ?_,
      goes_cmd ((h.1 24 63).2.1 0 (.mmas, .mmas 24 63 0) (by simp) 0) ?_ ?_ ?_,
      goes_cmd ((h.1 24 63).2.1 0 (.mmag, .mmag 24 63 0) (by simp) 0) ?_ ?_ ?_,
      goes_cmd ((h.1 32 8).2.2.1 1 0 false _ rfl) ?_ ?_ ?_, goes_cmd ((h.1 32 8).2.2.1 0 1 true _ rfl) ?_ ?_ ?_,
      goes_cmd ((h.1 16 8).2.2.2.1 0 1 0) ?_ ?_ ?_, goes_cmd ((h.1 40 8).2.2.2.2 4) ?_ ?_ ?_⟩,
    goes ((h.2 16 8).1 blocks ?_), goes ((h.2 24 8).2.1 probes ?_ ?_ ?_ ?_ ?_), goes ((h.2 16 8).2.2 0 blocks ?_ ?_ ?_ ?_ ?_)⟩ <;>
    (try unfold MatrixChecks) <;> (try unfold inScratch) <;> (try unfold Taken) <;> decide +kernel

theorem goes_check {i n checks} {s : State} (h : ChecksFail i n checks)
    (p : Issues i (n s.g) s ∧ TakesFaults s ∧ ((checks s).find? fun c => !c.1).isSome = true) : Goes i s :=
  goes (h s _ p.1 p.2.1 (Option.some_get p.2.2).symm)

/-- s16 to s23 hold no legal block. -/
def noBlock : State := withS mapped ((List.range 8).map fun k => (16 + k, 0xFFFFFFFF, 0))

theorem witness_CommandFaultsAndControls (h : Obligations.CommandFaultsAndControls) :
    ((Goes (.cpy 16 63 0 1) noBlock ∧ Goes (.mma 16 63 1) noBlock ∧ Goes (.mmas 16 63 1) noBlock ∧
        Goes (.mmag 16 63 1) noBlock ∧ Goes (.gath 16 63 1 0) noBlock ∧ Goes (.scat 16 63 0) noBlock ∧
        Goes (.scprobe 16 63 0 1 0) noBlock ∧ Goes (.scsave 16 63) noBlock) ∧
      Goes (.nredx 40 63 4) mapped ∧ Goes (.nredx 40 63 4) (withS mapped [(40, 2, 0), (42, 1, 0), (44, 1, 0)]) ∧
      Goes (.nredx 40 63 4) (withS mapped [(41, 2, 0), (42, 1, 0), (44, 65536, 0)]) ∧
      Goes (.nredx 40 63 4) (withS mapped [(40, 524160, 0), (42, 768, 0), (43, 63, 0), (44, 1, 0)]) ∧
      Goes (.nredx 40 63 4) (withS mapped [(41, 524160, 0), (42, 1, 0), (44, 1, 0)])) ∧
    (Goes (.ewait 22) ready ∧ Goes (.ewait 20) waiting ∧ Goes (.ewait 21) waiting ∧ Goes (.epoll 22 12) ready ∧
      Goes (.epoll 20 63) waiting ∧ Goes (.epoll 21 63) waiting ∧ Goes (.mbatch 12) ready ∧
      Goes (.mbatch 12) { ready with cmds := [(1, openCmd .mma 1 none)] } ∧ Goes (.mwait 22) ready ∧
      Goes (.mwait 20) (withG { waiting with cmds := [(1, openCmd .mma 1 (some 1))] } fun g => { g with batch := 1 }) ∧
      Goes (.mwait 21) waiting) := by
  obtain ⟨k, h2, h3, h4, h5⟩ := h
  obtain ⟨k1, k2, k3, k4, k5, -⟩ := k 16 63
  have n := (k 40 63).2.2.2.2.2 4
  refine ⟨⟨⟨goes_check (k1 0 1) ?_, goes_check (k2 1 _ (List.mem_cons_self ..)) ?_,
        goes_check (k2 1 _ (List.mem_cons_of_mem _ (List.mem_cons_self ..))) ?_,
        goes_check (k2 1 _ (List.mem_cons_of_mem _ (List.mem_cons_of_mem _ (List.mem_cons_self ..)))) ?_,
        goes_check (k3 1 0 _ (List.mem_cons_self ..)) ?_,
        goes_check (k3 1 0 _ (List.mem_cons_of_mem _ (List.mem_cons_self ..))) ?_, goes_check (k4 0 1 0) ?_, goes_check k5 ?_⟩,
      goes_check n ?_, goes_check n ?_, goes_check n ?_, goes_check n ?_, goes_check n ?_⟩,
    goes ((h2 ready 22 ?_).1 ?_ ?_), goes ((h2 waiting 20 ?_).2.1 ?_ ?_), goesEq ((h2 waiting 21 ?_).2.2 ?_),
    goes2 ((h3 ready 22 12 ?_).1 ?_), goes2 ((h3 waiting 20 63 ?_).1 ?_), goesEq ((h3 waiting 21 63 ?_).2 ?_),
    goes ((h4 ready 12 ?_).2 ?_), goes ((h4 { ready with cmds := [(1, openCmd .mma 1 none)] } 12 ?_).1 ?_),
    goes ((h5 ready 22 ?_).1 ?_ ?_),
    goes ((h5 (withG { waiting with cmds := [(1, openCmd .mma 1 (some 1))] } fun g => { g with batch := 1 }) 20 ?_).2.1 ?_ ?_),
    goesEq ((h5 waiting 21 ?_).2.2 ?_)⟩ <;> decide +kernel

/-! ### Memory events -/

/-- Whether every line that an L1 holds is clean. -/
def clean (s : State) : Bool := s.cores.all fun p => p.2.l1.all fun q => q.2.dirty == 0

theorem clean_lines {s : State} (h : clean s = true) : ∀ c line l, s.l1 c line = some l → l.dirty = 0 := by
  intro c line l hl
  unfold State.l1 State.core at hl
  rw [AMap.get_eq_find?] at hl
  cases hc : AMap.find? s.cores c with
  | none => rw [hc] at hl; cases hl
  | some x =>
    rw [hc] at hl
    have h1 := List.all_eq_true.1 h _ (AMap.find?_mem _ _ _ hc)
    simpa using List.all_eq_true.1 h1 _ (AMap.find?_mem _ _ _ hl)

/-- A word of lane 0 at byte 192. -/
def word0 : LaneAcc := { lane := 0, va := 192, key := 192, data := [1, 2, 3, 4], b := 5 }

/-- Group 0 with an access of one lane in flight, whose line the L2 holds. -/
def inFlight (a : Access) : State := { withG ready fun g => { g with accesses := [a] } with l2 := [1] }

/-- The core's L1 holds the line with its first sector valid and clean. -/
def cached (s : State) : State := s.modCore 0 fun c => { c with l1 := [(1, { valid := 1, pinned := 1 })] }

/-- The line is pinned by core 0. -/
def pinned (s : State) : State := { cached s with pins := [(1, { owners := [(0, 0)] })] }

/-- A load, a store and an atomic of that word. -/
def aLoad (d : Dest) : Access := { id := 1, op := .load 4, dest := d, lanes := [word0] }
def aStore (scope : BitVec 3) : Access := { id := 1, op := .store, lanes := [word0], scope := scope }
def aAtomic (scope : BitVec 3) (returns : Bool) : Access :=
  { id := 1, op := .atomic (af 0) 0 returns, lanes := [word0], scope := scope, dest := if returns then .vec 3 else .none }

/-- A result that no memory serves. -/
def aResult (kind : ResultKind) : Result := { id := 1, kind := kind, writes := [.sreg 5 7 0], counter := none }

/-- Group 0 with that result still to be written. -/
def withResult (kind : ResultKind) : State := withG ready fun g => { g with results := [aResult kind] }

theorem witness_LoadsReturn (h : Obligations.LoadsReturn) :
    (Goes (.loadReturn 0 1) (cached (inFlight (aLoad (.vec 3)))) ∧ Goes (.loadReturn 0 1) (cached (inFlight (aLoad (.scalar 3)))) ∧
      Goes (.loadReturn 0 1) (inFlight { aLoad (.pair 4) with hint := 1 })) ∧
    (Goes (.loadReturn 0 1) (withResult .load) ∧ Goes (.storeAccepted 0 1) (withResult .store) ∧
      Goes (.atomicReturn 0 1) (withResult .atomic)) ∧ Goes (.resultWrite 0) (withResult .compute) := by
  obtain ⟨h1, h2, h3⟩ := h
  refine ⟨⟨goes (h1 (cached (inFlight (aLoad (.vec 3)))) 0 1 (aLoad (.vec 3)) 4 ?_ ?_ ?_ ?_ ?_ ?_ ?_),
      goes (h1 (cached (inFlight (aLoad (.scalar 3)))) 0 1 (aLoad (.scalar 3)) 4 ?_ ?_ ?_ ?_ ?_ ?_ ?_),
      goes (h1 (inFlight { aLoad (.pair 4) with hint := 1 }) 0 1 { aLoad (.pair 4) with hint := 1 } 4 ?_ ?_ ?_ ?_ ?_ ?_ ?_)⟩,
    ⟨goesEq ((h2 (withResult .load) 0 1 (aResult .load)).1 ?_), goesEq ((h2 (withResult .store) 0 1 (aResult .store)).2.1 ?_ ?_),
      goesEq ((h2 (withResult .atomic) 0 1 (aResult .atomic)).2.2 ?_)⟩,
    goes (h3 (withResult .compute) 0 (aResult .compute) [] ?_)⟩ <;> decide +kernel

/-- The core's own L1 holds the line dirty. -/
def dirtied (s : State) : State :=
  { s.modCore 0 fun c => { c with l1 := [(1, { valid := 1, dirty := 1, pinned := 1 })] } with pins := [(1, { owners := [(0, 0)] })] }

theorem pins_held {s : State} {a : Access}
    (h : (a.lines.all fun p => (s.l1 (coreOf 0) p.1).isSome) = true) : PinsHeld s 0 a :=
  fun p hp _ _ => List.all_eq_true.1 h p hp

theorem witness_StoresPerformed (h : Obligations.StoresPerformed) :
    Goes (.storeAccepted 0 1) (inFlight (aStore 4)) ∧ Goes (.storeAccepted 0 1) (dirtied (inFlight (aStore 4))) ∧
      Goes (.storeAccepted 0 1) (pinned (inFlight (aStore 0))) := by
  refine ⟨goes ((h (inFlight (aStore 4)) 0 1 (aStore 4) ?_ ?_ ?_ ?_ ?_ ?_ ?_ ?_ ?_).1 ?_ (clean_lines ?_)),
    goes ((h (dirtied (inFlight (aStore 4))) 0 1 (aStore 4) ?_ ?_ ?_ ?_ ?_ ?_ ?_ ?_ ?_).2.1 ?_ ?_ (pins_held ?_)),
    goes ((h (pinned (inFlight (aStore 0))) 0 1 (aStore 0) ?_ ?_ ?_ ?_ ?_ ?_ ?_ ?_ ?_).2.2 ?_ ?_ ?_ ?_)⟩ <;> decide +kernel

/-- The same of one whose lanes hold no bytes. -/
def bareAtomic : Access := { aAtomic 4 true with lanes := [{ word0 with data := [] }] }

theorem witness_AtomicsPerformed (h : Obligations.AtomicsPerformed) :
    Goes (.atomicReturn 0 1) (inFlight (aAtomic 4 true)) ∧ Goes (.storeAccepted 0 1) (inFlight (aAtomic 2 false)) ∧
      Goes (.atomicReturn 0 1) (dirtied (inFlight bareAtomic)) ∧
      Goes (.atomicReturn 0 1) (pinned (inFlight (aAtomic 1 true))) := by
  refine ⟨goes ((h (inFlight (aAtomic 4 true)) 0 1 (aAtomic 4 true) (af 0) 0 true ?_ ?_ ?_ ?_ ?_ ?_ ?_ ?_ ?_).1 ?_ (clean_lines ?_)),
    goes ((h (inFlight (aAtomic 2 false)) 0 1 (aAtomic 2 false) (af 0) 0 false ?_ ?_ ?_ ?_ ?_ ?_ ?_ ?_ ?_).1 ?_ (clean_lines ?_)),
    goes ((h (dirtied (inFlight bareAtomic)) 0 1 bareAtomic (af 0) 0 true ?_ ?_ ?_ ?_ ?_ ?_ ?_ ?_ ?_).2.1 ?_ ?_ ?_ (pins_held ?_)),
    goes ((h (pinned (inFlight (aAtomic 1 true))) 0 1 (aAtomic 1 true) (af 0) 0 true ?_ ?_ ?_ ?_ ?_ ?_ ?_ ?_ ?_).2.2 ?_
      (fun x hx => ?_))⟩
  all_goals first
    | decide +kernel
    | (obtain rfl : x = word0 := by simpa [aAtomic] using hx
       exact ⟨by decide +kernel, { valid := 1, pinned := 1 }, by decide +kernel, by decide +kernel⟩)

/-- The line is pinned by core 1, and a number of its requests were sent again. -/
def elsewhere (retries : Nat) : State :=
  { inFlight (aStore 4) with pins := [(1, { owners := [(0, 1)], retries := retries })] }

/-- The line is being recalled from core 1. -/
def recalled (held : List (Nat × Nat)) : State :=
  { inFlight (aStore 4) with pins := [(1, { owners := [(0, 1)], recalling := true, held := held })] }

/-- The same of a store of lane 40, in the second beat. -/
def laterBeat (retries : Nat) : State :=
  { inFlight { aStore 4 with lanes := [{ word0 with lane := 40 }] } with
    pins := [(1, { owners := [(0, 1)], retries := retries })] }

/-- A word of lane 0 in a line. -/
def wordIn (line : Nat) : LaneAcc := { lane := 0, va := 0, key := 192 * line, data := [0] }

theorem wordIn_lines (line : Nat) (h : line < 2 ^ 24) :
    ∃ q ∈ ({ id := 1, op := .store, scope := 4, lanes := [wordIn line] } : Access).lines, q.1 = line ∧ q.2 ≠ 0 := by
  have h1 : isLocal (192 * line) = true := by simp [isLocal, Config.windowKey]; omega
  have h2 : lineOf (192 * line) = line := by simp [lineOf]
  have h3 : sectorMask line (192 * line) 1 = 1 := by simp [sectorMask, h2, sectorOf]
  simp [Access.lines, wordIn, h1, h2, h3, addSectors, AMap.put, AMap.erase, AMap.ins, AMap.get, Access.bytesOf,
    AccessOp.returns]

/-- Whatever sets the lines go to, 18 of them share one. -/
theorem same_set {N : Nat} (n1 : 64 * 10922 * 17 < N) :
    ∃ y, 17 < ((Finset.range N).filter fun x => l2SetOf x = y).card := by
  have hm : ∀ x ∈ Finset.range N, l2SetOf x ∈ Finset.range 64 ×ˢ Finset.range 10922 := by
    intro x _
    simp only [Finset.mem_product, Finset.mem_range, l2SetOf, sliceOf]
    omega
  generalize h64 : Finset.range 64 = A at hm
  generalize hB : Finset.range 10922 = B at hm
  have hc : (A ×ˢ B).card * 17 < (Finset.range N).card := by
    rw [Finset.card_product, ← h64, ← hB, Finset.card_range, Finset.card_range, Finset.card_range]; exact n1
  obtain ⟨y, -, hy⟩ := Finset.exists_lt_card_fiber_of_mul_lt_card_of_maps_to hm hc
  exact ⟨y, hy⟩

/-- So some set of a slice can be full while a group waits for another of its lines. -/
theorem full_set : ∃ (line v : Nat) (s : State), line ∉ s.l2 ∧
    (∃ p ∈ s.groups, ∃ a ∈ p.2.accesses, ∃ q ∈ a.lines, q.1 = line ∧ s.homeSectors p.1 a line q.2 ≠ 0) ∧
    16 ≤ (s.l2Way line).length ∧ v ∈ (s.l2Way line).tail := by
  obtain ⟨N, n1, n2⟩ : ∃ N, 64 * 10922 * 17 < N ∧ N ≤ 2 ^ 24 := ⟨2 ^ 24, by decide, le_refl _⟩
  obtain ⟨y, hy⟩ := same_set n1
  have hall : ∀ x ∈ ((Finset.range N).filter fun x => l2SetOf x = y).toList, x < N ∧ l2SetOf x = y := by
    intro x hx; simpa using hx
  have hn := Finset.nodup_toList ((Finset.range N).filter fun x => l2SetOf x = y)
  rw [← Finset.length_toList] at hy
  generalize ((Finset.range N).filter fun x => l2SetOf x = y).toList = l at hall hn hy
  match l, hn, hy, hall with
  | a :: b :: c :: rest, hn, hy, hall =>
    have ha := hall a (by simp)
    have hw : (b :: c :: rest).filter (fun l => l2SetOf l == l2SetOf a) = b :: c :: rest := by
      rw [List.filter_eq_self]
      intro x hx
      simp [(hall x (List.mem_cons_of_mem _ hx)).2, ha.2]
    obtain ⟨q, hq, h1, h2⟩ := wordIn_lines a (ha.1.trans_le n2)
    refine ⟨a, c, { ready with
      groups := [(0, { accesses := [{ id := 1, op := .store, scope := 4, lanes := [wordIn a] }] })], l2 := b :: c :: rest },
      (List.nodup_cons.1 hn).1, ⟨_, List.mem_singleton.2 rfl, _, List.mem_singleton.2 rfl, q, hq, h1, ?_⟩, ?_, ?_⟩
    · simpa [State.homeSectors, State.needPins, Access.through] using h2
    · simp only [State.l2Way, hw]
      simp only [List.length_cons] at hy ⊢
      omega
    · simp [State.l2Way, hw]

theorem witness_PinsAndFills (h : Obligations.PinsAndFills) :
    (Goes (.pinGrant 0 1 1) (inFlight (aStore 0)) ∧ Goes (.accessRetryResend 0 1 1) (elsewhere 0) ∧
      Goes (.accessRetryResend 0 1 1) (elsewhere 4094) ∧ Goes (.accessRetryResend 0 1 1) (laterBeat 7) ∧
      Goes (.accessRetryResend 0 1 1) (elsewhere 4095) ∧ Goes (.accessRetryResend 0 1 1) (recalled [])) ∧
      Goes (.recallComplete 1) (recalled [(0, 3)]) ∧
      Goes (.recallComplete 1) (recalled []) ∧ Goes (.l1LineFill 0 1 1 none) (inFlight (aLoad (.vec 3))) ∧
      Goes (.l2LineFill 1 none) { inFlight (aStore 4) with l2 := [] } ∧
      ∃ line v s, Goes (.l2LineFill line (some v)) s := by
  obtain ⟨h1, h2, h3, h4, h5⟩ := h
  obtain ⟨line, v, s, f1, f2, f3, f4⟩ := full_set
  refine ⟨⟨goes (h1 (inFlight (aStore 0)) 0 1 1 0 (aStore 0) ?_ ?_ ?_ ?_ ?_ ?_ ?_),
      goes (((h2 (elsewhere 0) 0 1 1 0 (aStore 4) { owners := [(0, 1)] } ?_ ?_ ?_ ?_ ?_ ?_ ?_).2 ?_ ?_).2 ?_),
      goes (((h2 (elsewhere 4094) 0 1 1 0 (aStore 4) { owners := [(0, 1)], retries := 4094 }
        ?_ ?_ ?_ ?_ ?_ ?_ ?_).2 ?_ ?_).2 ?_),
      goes (((h2 (laterBeat 7) 0 1 1 1 { aStore 4 with lanes := [{ word0 with lane := 40 }] }
        { owners := [(0, 1)], retries := 7 } ?_ ?_ ?_ ?_ ?_ ?_ ?_).2 ?_ ?_).2 ?_),
      goesEq (((h2 (elsewhere 4095) 0 1 1 0 (aStore 4) { owners := [(0, 1)], retries := 4095 }
        ?_ ?_ ?_ ?_ ?_ ?_ ?_).2 ?_ ?_).1 ?_),
      goesEq ((h2 (recalled []) 0 1 1 0 (aStore 4) { owners := [(0, 1)], recalling := true } ?_ ?_ ?_ ?_ ?_ ?_ ?_).1 ?_)⟩,
    goes (h3 (recalled [(0, 3)]) 1 { owners := [(0, 1)], recalling := true, held := [(0, 3)] } ?_ ?_),
    goes (h3 (recalled []) 1 { owners := [(0, 1)], recalling := true } ?_ ?_),
    goes (h4 (inFlight (aLoad (.vec 3))) 0 1 1 0 (aLoad (.vec 3)) ?_ ?_ ?_ ?_ ⟨4, ?_⟩ ?_ ?_ ?_ ?_ ?_ (.inr ?_) ?_),
    goesEq ((h5 { inFlight (aStore 4) with l2 := [] } 1 ?_ ?_).1 ?_),
    line, v, s, goesEq ((h5 s line f1 f2).2 f3 v f4)⟩ <;> decide +kernel

/-! ### Clauses, promotion, ends -/

/-- A clause of one HALT. -/
def haltClause : Clause := ⟨0x600000, 0xA0000001, [0x38200000]⟩

/-- The group at the start of that clause, read or still in the fetch buffer. -/
def atClause (inBuffer : Bool) : State :=
  withG ready fun g => { g with
    started := false, clause := if inBuffer then none else some haltClause, fetchBuf := if inBuffer then [haltClause] else [] }

/-- Its grid has ended. -/
def ended : State := { atClause false with grids := (atClause false).grids.mapVals fun _ q => { q with cancelled := true } }

/-- A late store fault of one store is pending. -/
def late : State := withG (atClause false) fun g => { g with pending := [.lateStore {} 1] }

/-- The group waits for the code at 0x600040. -/
def fetching : State := withG ready fun g => { g with wait := .fetch 0x600040 }

/-- A hint has asked the cluster's cache for the block at 0x600000, whose page stands in the instruction TLB. -/
def askedFor : State :=
  ready.modCluster 0 fun c =>
    { c with
      asked := some (1, 0x600000)
      itlb := [{ ctx := 1, va := 0, size := 2 ^ 30, start := 0, target := .local, rd := true, wr := true, ex := true }] }

theorem no_fetch {w : Wait} (h : w = .none) : ∀ b, w ≠ .fetch b := by rintro b rfl; cases h

/-- The loaded program's grid. -/
def theGrid : Grid := { ctx := 1, queue := 0, prio := 0, launch := loadedLaunch, placed := [0] }

/-- A header that no rule allows stands at the group's address; a resumption where no instruction begins. -/
def badHeader (s : State) : State := withG s fun g => { g with clause := some { haltClause with header := 0 }, started := false }
def badResumption : State := withG (atClause false) fun g => { g with resumed := true, word := 1 }

/-- The block that the group waits for is spoilt. -/
def fetchingSpoilt : State := { fetching with err := .line }

theorem notEnded {s : State} {k : Nat} (h : (s.group k).word = 0 ∧ s.grids.find? (s.group k).grid = some theGrid ∧
    s.atLimit k = false) : (s.group k).word ≠ 0 ∨
      (∀ q, s.grids.find? (s.group k).grid = some q → q.cancelled = false) ∧ s.atLimit k = false :=
  .inr ⟨some_of theGrid h.2.1 rfl, h.2.2⟩

/-- What the walk and the read of a block give. -/
def fetchFrom (s : State) (block : Nat) : State := (s.fetchKey 0 block).1
def servedFrom (s : State) (block : Nat) : State :=
  match (fetchFrom s block).tryWalk 0 [block / 64 * 64] 64 with
  | .served v => v
  | _ => s

theorem served_from {s : State} {block : Nat} (h : (match (fetchFrom s block).tryWalk 0 [block / 64 * 64] 64 with
    | .served _ => true
    | _ => false) = true) : (fetchFrom s block).tryWalk 0 [block / 64 * 64] 64 = .served (servedFrom s block) := by
  unfold servedFrom
  split <;> simp_all

theorem witness_ClausesAndWaits (h : Obligations.ClausesAndWaits) :
    (Goes (.clauseStart 0) ended ∧ Goes (.clauseStart 0) late ∧ Goes (.clauseStart 0) (atClause false) ∧
      Goes (.clauseStart 0) (atClause true) ∧ Goes (.clauseStart 0) (badHeader (atClause false)) ∧
      Goes (.clauseStart 0) badResumption) ∧
      (Goes (.instructionCacheFill 0) fetching ∧ Goes (.instructionCacheFill 0) fetchingSpoilt) ∧
      Goes (.instructionCacheFill 0) askedFor ∧
      Goes (.releaseComplete 0) (withG ready fun g => { g with wait := .release 4 }) ∧
      Goes (.icinvComplete 0) (withG ready fun g => { g with wait := .icinv 0 64 4 }) := by
  obtain ⟨h1, h2, h5, h3, h4⟩ := h
  refine ⟨⟨goes ((h1 ended 0 haltClause ?_ ?_ ?_).1 ⟨{ theGrid with cancelled := true }, ?_, ?_⟩ ?_),
      goes (((h1 late 0 haltClause ?_ ?_ ?_).2 (notEnded ?_)).1 {} 1 [] ?_ ?_ ?_ ?_),
      goesEq (((((h1 (atClause false) 0 haltClause ?_ ?_ ?_).2 (notEnded ?_)).2 ?_ (.inl ?_)).1 ?_ ?_ ?_).1 ?_),
      goesEq (((((h1 (atClause true) 0 haltClause ?_ ?_ ?_).2 (notEnded ?_)).2 ?_ (.inr ⟨?_, .inl ?_⟩)).1 ?_ ?_ ?_).2.1 ?_ ?_),
      goes ((((h1 (badHeader (atClause false)) 0 { haltClause with header := 0 } ?_ ?_ ?_).2 (notEnded ?_)).2 ?_ (.inl ?_)).2
        ?_ ?_ ?_),
      goes ((((h1 badResumption 0 haltClause ?_ ?_ ?_).2 (.inl ?_)).2 ?_ (.inl ?_)).2 ?_ ?_ ?_)⟩,
    ⟨goes ((h2 fetching 0 0x600040 ?_ (fetchFrom fetching 0x600040) (servedFrom fetching 0x600040) 0x600040 ?_
        (served_from ?_)).1 ?_),
      goes ((h2 fetchingSpoilt 0 0x600040 ?_ (fetchFrom fetchingSpoilt 0x600040) (servedFrom fetchingSpoilt 0x600040)
        0x600040 ?_ (served_from ?_)).2 ?_ ?_)⟩,
    goes ((h5 askedFor 0 (no_fetch ?_)).2 0x600000 0x600000 (fetchFrom askedFor 0x600000) (servedFrom askedFor 0x600000)
      ?_ ?_ (served_from ?_)),
    goes (h3 (withG ready fun g => { g with wait := .release 4 }) 0 4 ?_ ?_),
    goes (h4 (withG ready fun g => { g with wait := .icinv 0 64 4 }) 0 0 64 4 ?_)⟩ <;> decide +kernel

/-- A group that asks for promotion by its hint at this clock. -/
def hinted : State :=
  withG ready fun g => { g with classes := [.hint], qualAt := some (ready.cycle 0) }

/-- Four groups of the same core hold its sprinter slots, of no class. -/
def crowded : State :=
  { hinted with
    groups := hinted.groups ++ [1, 2, 3, 4].map fun k => (k, { ready.g with engine := .sprinter, promotedAt := 10 - k }) }

/-- The same, but the weakest of them has not switched yet. -/
def crowdedSwitching : State :=
  { crowded with groups := crowded.groups.modify 4 fun g => { g with engine := .promoting 5 } }

/-- A barrier of the group's team. -/
def withBarrier (n : Nat) (b : Barrier) : State := { ready with teams := [(1, { theTeam with barriers := [(n, b)] })] }

/-- The same of its gang. -/
def withGangBarrier (n : Nat) (b : Barrier) : State :=
  { ready with gangs := [(1, { grid := 1, teams := [1], barriers := [(n, b)] })] }

/-- The group waits at barrier 2 whose phase has completed. -/
def waking : State :=
  withG (withBarrier 2 { phase := 1, wakeAt := [(0, 0)] }) fun g => { g with wait := .barrier 2, phases := [(2, 0)] }

/-- The group waits at barrier 16 of its gang whose phase has completed. -/
def wakingGang : State :=
  withG (withGangBarrier 16 { phase := 1, wakeAt := [(0, 0)] }) fun g => { g with wait := .barrier 16, phases := [(16, 0)] }

/-- The group has halted, and its registers have returned or not. -/
def halted (resident : Bool) : State := withG ready fun g => { g with halted := true, resident := resident }

theorem witness_PromotionPhasesAndEnds (h : Obligations.PromotionPhasesAndEnds) :
    (Goes (.promotionStart 0) hinted ∧ Goes (.promotionStart 0) crowded ∧ Goes (.promotionStart 0) crowdedSwitching ∧
      Goes (.promotionSwitchDone 0) (withG ready fun g => { g with engine := .promoting 0 }) ∧
      Goes (.demotionSwitchDone 0) (withG ready fun g => { g with engine := .demoting 0 }) ∧
      Goes (.barrierLaggardQualify 0 15) { withBarrier 15 { quorumAt := some 0 } with clock := 512 }) ∧
    Goes (.barrierPhaseComplete 1 15) (withBarrier 15 { due := true, arrived := [0] }) ∧
      Goes (.barrierPhaseComplete 1 16) (withGangBarrier 16 { due := true, arrived := [0] }) ∧
      Goes (.barrierWake 1 2) waking ∧ Goes (.barrierWake 1 16) wakingGang ∧ Goes (.groupRegistersReturn 0) (halted true) ∧ Goes (.teamEnd 1) (halted false) := by
  obtain ⟨⟨h1, h2, h3, h4⟩, k1, k2, k3, k4, k5⟩ := h
  refine ⟨⟨goesEq ((h1 hinted 0 ?_ ?_).1 ?_), goes ((h1 crowded 0 ?_ ?_).2 4 ?_ ?_ ?_),
      goes ((h1 crowdedSwitching 0 ?_ ?_).2 4 ?_ ?_ ?_),
      goes (h2 (withG ready fun g => { g with engine := .promoting 0 }) 0 0 ?_ ?_),
      goesEq (h3 (withG ready fun g => { g with engine := .demoting 0 }) 0 0 ?_ ?_),
      goes (h4 { withBarrier 15 { quorumAt := some 0 } with clock := 512 } 0 15 0 ?_ ?_ ?_ ?_ ?_ ?_ ?_)⟩,
    goes (k1 (withBarrier 15 { due := true, arrived := [0] }) 1 15
      { theTeam with barriers := [(15, { due := true, arrived := [0] })] } ?_ ?_ ?_),
    goes (k2 (withGangBarrier 16 { due := true, arrived := [0] }) 1 16 theTeam
      { grid := 1, teams := [1], barriers := [(16, { due := true, arrived := [0] })] } ?_ ?_ ?_ ?_),
    goes (k3 waking 1 2 0 ?_ ?_ (.inl ?_)), goes (k3 wakingGang 1 16 0 ?_ ?_ (.inr ?_)), goesEq (k4 (halted true) 0 ?_ ?_ ?_ ?_), goes (k5 (halted false) 1 theTeam ?_ ?_ ?_ ?_)⟩ <;>
    decide +kernel

/-! ### Engines and exact sums -/

/-- Bytes placed in memory. -/
def withBytes (s : State) (a : Nat) (bs : List Byte) : State := { s with mem := putBytes s.mem a bs }

/-- The program's state with one command of group 0. -/
def cmdState (c : Cmd) : State := { mapped with cmds := [(1, c)] }

/-- A command of a kind whose engine has taken it, with its block. -/
def running (kind : CmdKind) (block : List Word) : Cmd := { openCmd kind 1 none with phase := .running, block := block }

/-- A tile of two words from offset 0 of the scratchpad to 0x1000; from a page that is absent; from below offset 0. -/
def tile : List Word := [0, 0, 0x1000, 0, 1, 42, 0, 0]
def absentTile : List Word := [0, 0x80, 0x1000, 0, 1, 34, 0, 0]
def outsideTile : List Word := [0x90000, 0, 0x1000, 0, 1, 42, 0, 0]

/-- The context has a reuse table of two entries of 1,024 bytes, whose lines the L2 holds. -/
def withTable (s : State) : State :=
  { s.modCtx 1 fun c => { c with stepbase := 0x200000, stepj := 1, stepent := 1024 } with l2 := [10928, 10929, 10930] }

/-- The group holds a CPY that could not be taken, and can now. -/
def heldCopy : State :=
  withG (withS mapped [(18, 0x1000, 0), (20, 1, 0), (21, 42, 0)])
    fun g => { g with wait := .command [] false, clause := some ⟨0x600000, 0xA0000001, [0xA8021000]⟩ }

theorem ran_out {s : State} {id : Nat} (h : (s.runOut id).2 = none) : s.runOut id = ((s.runOut id).1, none) :=
  Prod.ext rfl h

/-- Whether the next element of a command meets an absent page, or fails. -/
def stopsAbsent (s : State) (id : Nat) : Bool :=
  match s.stopOf id with
  | some (_, d, .absent _ _) => s.mayCommit d.ctx 1 d.core
  | _ => false
def stopsFailed (s : State) (id : Nat) : Bool :=
  match s.stopOf id with
  | some (_, d, .failed _) => s.mayCommit d.ctx 1 d.core
  | _ => false

def stopsSpoilt (s : State) (id : Nat) : Bool :=
  match s.stopOf id with
  | some (_, d, .spoilt _ _) => s.mayCommit d.ctx 1 d.core
  | _ => false

theorem stop_absent {s : State} {id : Nat} (h : stopsAbsent s id = true) :
    ∃ u d va code, s.stopOf id = some (u, d, .absent va code) ∧ s.mayCommit d.ctx 1 d.core = true := by
  unfold stopsAbsent at h
  split at h
  · exact ⟨_, _, _, _, ‹_›, h⟩
  · cases h

theorem stop_failed {s : State} {id : Nat} (h : stopsFailed s id = true) :
    ∃ u d st, s.stopOf id = some (u, d, .failed st) ∧ s.mayCommit d.ctx 1 d.core = true := by
  unfold stopsFailed at h
  split at h
  · exact ⟨_, _, _, ‹_›, h⟩
  · cases h

theorem stop_spoilt {s : State} {id : Nat} (h : stopsSpoilt s id = true) :
    ∃ u d va line, s.stopOf id = some (u, d, .spoilt va line) ∧ s.mayCommit d.ctx 1 d.core = true := by
  unfold stopsSpoilt at h
  split at h
  · exact ⟨_, _, _, _, ‹_›, h⟩
  · cases h

/-- What a computation that ended well gives. -/
def endOk {α β : Type} (r : Except α β) : Bool :=
  match r with
  | .ok _ => true
  | .error _ => false

theorem ok_of {α β : Type} {r : Except α β} (h : endOk r = true) : ∃ v, r = .ok v := by
  cases r with
  | ok v => exact ⟨v, rfl⟩
  | error _ => cases h

theorem some_get {α : Type} {o : Option α} (h : o.isSome = true) : o = some (o.get h) := by simp

/-- The gather block of one element of four bytes: indices at 0, data at 16, status at 192. -/
def gather : List Word := [0x100000, 0, 1, 0, 16, 192, 0x801, 0]

/-- A probe of one input word and one output word, and a save of the same. -/
def probeCmd : Cmd := { running .scprobe [5, 0, 0, 0x10001, 4, 8, 0, 0] with sp := true }
def saveCmd (phase : CmdPhase) : Cmd := { openCmd .scsave 1 none with phase := phase, block := [5, 0, 0x10001, 4, 7, 0, 0, 0] }

theorem witness_EngineSteps (h : Obligations.EngineSteps) :
    (Goes (.commandIssueResume 0) heldCopy ∧ Goes (.copyEngineTake 0) (cmdState { openCmd .cpy 1 none with block := tile }) ∧
      Goes (.matrixEngineTake 0) (cmdState (openCmd .mma 1 none))) ∧
    (Goes (.sourceReadDone 1) (cmdState { running .nredx [0, 0, 1, 0, 1, 0, 0, 0] with phase := .queued }) ∧
      Goes (.sourceReadDone 1) (cmdState (running .cpy tile)) ∧ Goes (.cpyComplete 1) (cmdState (running .cpy tile)) ∧
      Goes (.matrixCommandComplete 1) (cmdState { running .mma [] with tile := 1 })) := by
  obtain ⟨h1, h2, h3, -⟩ := h
  refine ⟨⟨goes (h1 heldCopy 0 [] false (.cpy 8 16 0 0) ?_ ?_ ?_ ?_ (.inl ⟨_, _, _, _, rfl⟩)),
      goesEq ((h2 (cmdState { openCmd .cpy 1 none with block := tile }) 0 1).1 ?_ ?_),
      goesEq ((h2 (cmdState (openCmd .mma 1 none)) 0 1).2 ?_ ?_)⟩,
    goesEq ((h3 (cmdState { running .nredx [0, 0, 1, 0, 1, 0, 0, 0] with phase := .queued }) {} 1 _ rfl ?_).1 ?_ ?_ ⟨?_, ?_⟩),
    goesEq ((h3 (cmdState (running .cpy tile)) _ 1 _ rfl ?_).2.1 ?_ ?_ ?_ ?_ (ran_out ?_)),
    goesEq ((h3 (cmdState (running .cpy tile)) _ 1 _ rfl ?_).2.2.1 ?_ ?_ ⟨?_, ?_⟩ (ran_out ?_) ?_),
    goesEq ((h3 (cmdState { running .mma [] with tile := 1 }) _ 1 _ rfl ?_).2.2.2.1 ?_ ?_ ⟨?_, ?_⟩ (ran_out ?_) ?_)⟩ <;>
    decide +kernel

theorem witness_EngineSteps_ends (h : Obligations.EngineSteps) :
    (Goes (.gatherScatterComplete 1) (cmdState (running .gath gather)) ∧
      Goes (.scprobeComplete 1) (withTable (cmdState probeCmd))) ∧
    Goes (.scsaveStart 1) (withTable (cmdState (saveCmd .queued))) ∧
      Goes (.scsaveComplete 1) (withTable (cmdState (saveCmd .begun))) := by
  obtain ⟨-, -, h3, -⟩ := h
  obtain ⟨v, hv⟩ := ok_of (r := probeEnd ⟨((withTable (cmdState probeCmd)).runOut 1).1,
    ((((withTable (cmdState probeCmd)).runOut 1).1.cmds.find? 1).getD probeCmd).answers, 1⟩
    ((((withTable (cmdState probeCmd)).runOut 1).1.cmds.find? 1).getD probeCmd)) (by decide +kernel)
  obtain ⟨v2, hv2⟩ := ok_of (r := saveBegin ⟨withTable (cmdState (saveCmd .queued)), [], 1⟩ (saveCmd .queued)) (by decide +kernel)
  obtain ⟨v3, hv3⟩ := ok_of (r := saveEnd ⟨withTable (cmdState (saveCmd .begun)), [], 1⟩ (saveCmd .begun)) (by decide +kernel)
  refine ⟨⟨goesEq ((h3 (cmdState (running .gath gather)) _ 1 _ rfl ?_).2.2.2.2.1 _ ?_ ?_ ⟨?_, ?_⟩ (ran_out ?_) (some_get ?_)),
      goesEq ((h3 (withTable (cmdState probeCmd)) _ 1 _ rfl ?_).2.2.2.2.2.1
        (d := (((withTable (cmdState probeCmd)).runOut 1).1.cmds.find? 1).getD probeCmd) v ?_ ?_ ⟨?_, ?_⟩ (ran_out ?_) ?_ hv)⟩,
    goesEq ((h3 (withTable (cmdState (saveCmd .queued))) v2 1 _ rfl ?_).2.2.2.2.2.2.1 ?_ ?_ ⟨?_, ?_⟩ ?_ hv2),
    goesEq ((h3 (withTable (cmdState (saveCmd .begun))) v3 1 _ rfl ?_).2.2.2.2.2.2.2.1 ?_ ?_ ⟨?_, ?_⟩ hv3)⟩ <;> decide +kernel

/-- An error has spoilt the page table that the copy's source needs. -/
def spoiltCopy : State :=
  { cmdState (running .cpy absentTile) with poison := ((cmdState (running .cpy absentTile)).walkReads 1 (0x80 * 2 ^ 32)).map lineOf }

theorem witness_EngineSteps_stops (h : Obligations.EngineSteps) :
    Goes (.enginePageFault 1) (cmdState (running .cpy absentTile)) ∧
      Goes (.engineFailure 1) (cmdState (running .cpy outsideTile)) ∧ Goes (.engineFailure 1) spoiltCopy ∧
      Goes (.engineFailure 1) (cmdState { running .cpy tile with status := 0x15 }) := by
  obtain ⟨-, -, h3, -⟩ := h
  obtain ⟨u, d, va, code, e, m⟩ := stop_absent (s := cmdState (running .cpy absentTile)) (id := 1) (by decide +kernel)
  obtain ⟨u', d', st, e', m'⟩ := stop_failed (s := cmdState (running .cpy outsideTile)) (id := 1) (by decide +kernel)
  obtain ⟨u2, d2, va2, line, e2, m2⟩ := stop_spoilt (s := spoiltCopy) (id := 1) (by decide +kernel)
  exact ⟨goes ((h3 _ u 1 _ rfl (by decide +kernel)).2.2.2.2.2.2.2.2.1 d va code e m),
    goesEq ((h3 _ u' 1 _ rfl (by decide +kernel)).2.2.2.2.2.2.2.2.2.1 d' st (by decide +kernel) e' m'),
    goes ((h3 _ u2 1 _ rfl (by decide +kernel)).2.2.2.2.2.2.2.2.2.2.1 d2 va2 line (by decide +kernel) e2 m2),
    goesEq ((h3 (cmdState { running .cpy tile with status := 0x15 }) {} 1 _ rfl (by decide +kernel)).2.2.2.2.2.2.2.2.2.2.2
      (by decide +kernel))⟩

/-- An NREDX of one element, one contribution of p to slot 0 within the gang, ready to be sent. -/
def contribution (p : Word) : Cmd :=
  { openCmd .nredx 1 none with block := [0, 16, 1, 0, p, 0, 0, 0], scope := 2, sourceRead := true, data := [0x3F800000] }

/-- A round of slot 0 of that gang that another command has opened. -/
def round (n p : Nat) (done : Bool) : Round :=
  { ctx := 1, scope := 2, inst := scopeInst 2 0, slot := 0, n := n, p := p, count := 1, elems := [partialElem 0x3F800000]
    contributors := [2], node := 0, completed := done }

/-- A partial of a slot of device scope that a router holds. -/
def heldPart (scope : BitVec 3) (node : Nat) : Round :=
  { ctx := 1, scope := scope, inst := 0, slot := 0, n := 1, p := 2, count := 1, elems := [partialElem 0x3F800000]
    contributors := [2], node := node }

/-- A partial of another device for this device's root. -/
def peerPart : PeerPartial :=
  { dev := 3, seq := 9, ctx := 1, slot := 0, n := 1, p := 2, count := 1, rootDev := leNat (mapped.context 1).sysroot
    elems := [partialElem 0x3F800000] }

/-- The state with the contribution and a round. -/
def rounds (c : Cmd) (r : Round) : State := { cmdState c with rounds := [(7, r)] }

/-- The device at the root of sys scope is another one. -/
def elsewhereRoot (d : Byte) : State := mapped.modCtx 1 fun c => { c with sysroot := [d] }

/-- Of two devices one is not this one. -/
theorem other_root : ∃ d : Byte, (d = 3 ∨ d = 4) ∧ (elsewhereRoot d).rootNode 1 5 8 = false := by
  by_cases h : 3 = ownDev
  · exact ⟨4, .inr rfl, (show (elsewhereRoot 4).rootNode 1 5 8 = (4 == ownDev) by rfl).trans (by simp [← h])⟩
  · exact ⟨3, .inl rfl, (show (elsewhereRoot 3).rootNode 1 5 8 = (3 == ownDev) by rfl).trans (by simpa using h)⟩

/-- A port leads to device 3. -/
def linkedTo3 : State := { mapped with ports := [(2, { up := true, partner := [3] })] }

theorem witness_ReductionRounds (h : Obligations.ReductionRounds) :
    (Goes (.partialMerge (.command 1)) (cmdState (contribution 2)) ∧
      Goes (.partialMerge (.command 1)) (rounds (contribution 2) (round 1 2 false)) ∧
      Goes (.partialMerge (.command 1)) (rounds (contribution 2) (round 1 3 false))) ∧
    (Goes (.partialMerge (.held 7)) { mapped with rounds := [(7, heldPart 4 0)] } ∧
      Goes (.partialMerge (.held 7)) { mapped with rounds := [(7, heldPart 4 0), (9, heldPart 4 8)] } ∧
      ∃ d, Goes (.partialMerge (.held 7)) { elsewhereRoot d with rounds := [(7, heldPart 5 8)] }) ∧
    Goes (.partialMerge (.peer peerPart)) linkedTo3 ∧ Goes (.roundResultSend 7) (rounds (contribution 2) (round 1 1 true)) ∧
      Goes (.nredxComplete 1) (cmdState { contribution 2 with status := 0x15 }) ∧
      Goes (.nredxComplete 1) (cmdState { contribution 2 with phase := .sent, result := some [0x3F800000] }) := by
  obtain ⟨h1, k, h2, h3, h4⟩ := h
  obtain ⟨d, hd, e⟩ := other_root
  have hc : ∀ {s : State} {o : Option Context}, s.contexts.find? peerPart.ctx = o → o.isSome = true →
      ∃ c, s.contexts.find? peerPart.ctx = some c := fun e h => ⟨_, e.trans (some_get h)⟩
  refine ⟨⟨goes ((h1 (cmdState (contribution 2)) 1 _ rfl ?_ ?_ ?_ ?_ ?_).1 ?_),
      goes ((h1 (rounds (contribution 2) (round 1 2 false)) 1 _ rfl ?_ ?_ ?_ ?_ ?_).2.1 7 (round 1 2 false) [] ?_ ?_ ?_ ?_ ?_),
      goes ((h1 (rounds (contribution 2) (round 1 3 false)) 1 _ rfl ?_ ?_ ?_ ?_ ?_).2.2 7 (round 1 3 false) []
        ?_ ?_ ?_ (.inr ?_))⟩,
    ⟨goes (((k { mapped with rounds := [(7, heldPart 4 0)] } 7 (heldPart 4 0) ?_ ?_ ?_).1 8 ?_ ?_).1 ?_),
      goes (((k { mapped with rounds := [(7, heldPart 4 0), (9, heldPart 4 8)] } 7 (heldPart 4 0) ?_ ?_ ?_).1 8 ?_ ?_).2 9
        (heldPart 4 8) [] ?_ ?_ ?_ ?_ ?_),
      d, goes ((k { elsewhereRoot d with rounds := [(7, heldPart 5 8)] } 7 (heldPart 5 8) ?_ e ?_).2 ?_)⟩,
    goes (h2 linkedTo3 peerPart (hc rfl ?_) ?_ ?_ ?_ ?_ ?_ ?_),
    goes (h3 (rounds (contribution 2) (round 1 1 true)) 7 (round 1 1 true) ?_ ?_),
    goesEq ((h4 (cmdState { contribution 2 with status := 0x15 }) 1 _ rfl ?_ ?_).1 ?_),
    goesEq ((h4 (cmdState { contribution 2 with phase := .sent, result := some [0x3F800000] }) 1 _ rfl ?_ ?_).2 _ ?_ rfl ?_ ?_)⟩
  all_goals first
    | decide +kernel
    | (rcases hd with rfl | rfl <;> decide +kernel)

/-! ### Translation, network, dispatcher -/

/-- The context's translation ring lies at 0x50000000 with one request of a kind in it. -/
def ring (kind va len : Nat) : State :=
  withBytes (withBytes (ready.modCtx 1 fun c => { c with xlate := 0x50000000 }) 0x50000000
      (leBytes 8 0x50001000 ++ leBytes 4 4 ++ leBytes 12 0 ++ leBytes 4 0 ++ leBytes 4 1))
    0x50001000 (leBytes 4 kind ++ leBytes 4 0 ++ leBytes 8 va ++ leBytes 4 len ++ leBytes 4 0 ++ leBytes 8 0x700000)

/-- The group waits on fault record 0, whose answer is n. -/
def recorded (n : Nat) : State :=
  withG (withBytes (ready.modCtx 1 fun c => { c with records := [(0, (0x50000000, 0))], woken := [0x50000030] }) 0x50000000
    (leBytes 4 1 ++ leBytes 44 0 ++ leBytes 4 n)) fun g => { g with wait := .records [(0, none)] 0 1 }

/-- A fault or event record is held for a queue of four entries. -/
def heldRecord : State :=
  withBytes (ready.modCtx 1 fun c =>
      { c with faultq := 0x50000000, eventq := 0x50000000, heldFaults := [[1]], heldEvents := [[1]] }) 0x50000000
    (leBytes 8 0x50001000 ++ leBytes 4 4 ++ leBytes 12 0 ++ leBytes 4 0 ++ leBytes 4 0)

/-- The group waits for a page walk. -/
def walking : State := withG ready fun g => { g with wait := .walk [0] }

/-- Another core holds the first entry that the walk reads. -/
def walkPinned : State :=
  { walking with pins := [(lineOf ((walking.walkReads 1 0).headD 0), { owners := [(0, 1), (1, 1), (2, 1), (3, 1)], retries := 7 })] }

/-- An invalidation whose accesses have been performed. -/
def invalidating : State :=
  ready.modCtx 1 fun c =>
    { c with xlateOp := some { compact := false, va := 0, bytes := 24576, frame := 0, done := 0x700000, waitFor := [(0, 1)], waitPeers := [] } }

/-- No other group waits on the record. -/
theorem sole {s : State} {k : Nat} (h : s.groups.map (·.1) = [k]) {P : Nat × Group → Prop} : ∀ p ∈ s.groups, p.1 ≠ k → P p := by
  intro p hp hk
  have : p.1 ∈ s.groups.map (·.1) := List.mem_map_of_mem hp
  rw [h] at this
  exact absurd (by simpa using this) hk

/-- An error has spoilt the line of that entry. -/
def walkSpoilt : State := { walking with poison := [lineOf ((walking.walkReads 1 0).headD 0)] }

theorem unpinned_all {s : State} {l : List Nat} {P : Pin → Prop} (h : s.pins = []) :
    ∀ a ∈ l, ∀ p, s.pins.find? (lineOf a) = some p → P p := by
  intro a _ p e; rw [h] at e; cases e

theorem pinned_all {s : State} {l : List Nat} {P : Pin → Prop} [DecidablePred P] (h : (s.pins.all fun p => decide (P p.2)) = true) :
    ∀ a ∈ l, ∀ p, s.pins.find? (lineOf a) = some p → P p := by
  intro a _ p e
  simpa using List.all_eq_true.1 h _ (AMap.find?_mem _ _ _ e)

theorem witness_WalksAnswersAndCompaction (h : Obligations.WalksAnswersAndCompaction) :
    ((Goes (.pageWalkComplete 0 0) walking ∧ Goes (.pageWalkComplete 0 0) walkPinned ∧ Goes (.pageWalkComplete 0 0) walkSpoilt) ∧
      Goes (.faultRecordAnswer 1 0) (recorded 1) ∧ Goes (.faultRecordAnswer 1 0) (recorded 2)) ∧
    (Goes (.translationRequestFail 1) (ring 3 0 1) ∧ Goes (.translationRequestFail 1) (ring 2 0 256) ∧
      Goes (.invalidateRange 1) (ring 1 24576 1) ∧ Goes (.invalidateRangeDone 1) invalidating ∧
      Goes (.faultRecordRelease 1) heldRecord ∧ Goes (.eventRecordRelease 1) heldRecord) := by
  obtain ⟨⟨h1, h2, h3, h4, h5⟩, -⟩ := h
  have w1 := h1 walking 0 0 [0] (by decide +kernel) (by decide +kernel) (by decide +kernel) (unpinned_all (by decide +kernel))
  have w2 := h1 walkPinned 0 0 [0] (by decide +kernel) (by decide +kernel) (by decide +kernel) (pinned_all (by decide +kernel))
  have w3 := h1 walkSpoilt 0 0 [0] (by decide +kernel) (by decide +kernel) (by decide +kernel) (unpinned_all (by decide +kernel))
  refine ⟨⟨⟨goes (w1.2 ?_), goes ((w2.1 _ (some_get ?_)).1 ?_ (some_of _ (some_get ?_) ?_)),
        goes ((w3.1 _ (some_get ?_)).2 ?_ ?_)⟩,
      goes ((h2 (recorded 1) 1 0 0 0x50000000 0 0 1 ?_ ?_ ?_ ⟨_, List.mem_of_mem_head? rfl, ?_⟩ ?_ ?_ ?_ ?_ (sole ?_) ?_ ?_).1 ?_),
      goes ((h2 (recorded 2) 1 0 0 0x50000000 0 0 1 ?_ ?_ ?_ ⟨_, List.mem_of_mem_head? rfl, ?_⟩ ?_ ?_ ?_ ?_ (sole ?_) ?_ ?_).2 ?_ ?_ ?_)⟩,
    ⟨goesEq ((h3 (ring 3 0 1) 1 ⟨3, 0, 1, 0x700000⟩ ?_).1 ?_ ?_),
      goesEq ((h3 (ring 2 0 256) 1 ⟨2, 0, 256, 0x700000⟩ ?_).2.1 ?_ ?_ ?_),
      goes ((h3 (ring 1 24576 1) 1 ⟨1, 24576, 1, 0x700000⟩ ?_).2.2 ?_ ?_ ?_ ?_),
      goesEq (h4 invalidating 1
        { compact := false, va := 0, bytes := 24576, frame := 0, done := 0x700000, waitFor := [(0, 1)], waitPeers := [] } ?_ ?_ ?_ ?_),
      goesEq ((h5 heldRecord 1 [1] []).1 ?_ ?_), goesEq ((h5 heldRecord 1 [1] []).2 ?_ ?_)⟩⟩ <;> decide +kernel

/-- The tables above a region of 256 leaves at 1.5 GiB, and a request to compact it. -/
def tables : State :=
  withBytes (withBytes (ring 2 (65536 * 24576) 0) 0x40200008 (leBytes 8 (1 + 2 ^ 16 * (0x40400000 / 2048))))
    0x40400000 (leBytes 8 (1 + 2 ^ 16 * (0x40600000 / 2048)))

/-- Bytes 2 and 3 of the leaf of a page of the region: its frame. -/
def frameLow (i : Nat) : Byte := BitVec.ofNat 8 (1 + i % 16)
def frameHigh (i : Nat) : Byte := BitVec.ofNat 8 (1 + i / 16)

/-- The bytes of the leaf of a page at A. -/
def leafBytes (A i : Nat) : AMap Byte := [(A + 8 * i, 0x3B#8), (A + 8 * i + 2, frameLow i), (A + 8 * i + 3, frameHigh i)]

/-- The leaf of a page of the region. -/
def leaf (i : Nat) : Nat := 0x3B + 2 ^ 16 * ((1 + i % 16) + 256 * (1 + i / 16))

/-- The same with the leaves. -/
def region : State :=
  { tables with
    mem := (tables.mem.filter fun p => p.1 < 0x40600000) ++ (List.range' 0 256).flatMap (leafBytes 0x40600000) ++
      tables.mem.filter fun p => 0x40600000 ≤ p.1 }

/-- The region is being compacted. -/
def compacting : State :=
  region.modCtx 1 fun c =>
    { c with xlateOp := some { compact := true, va := 65536 * 24576, bytes := 256 * 24576, frame := 0, done := 0x700000 } }

theorem get_leaves (m m' : AMap Byte) (A : Nat) (hm : ∀ p ∈ m, p.1 < A) (n i j : Nat) (hi : i < n) (hj : j < 8)
    (hm' : ∀ p ∈ m', A + 8 * n ≤ p.1) :
    AMap.get 0 (m ++ (List.range' 0 n).flatMap (leafBytes A) ++ m') (A + 8 * i + j) =
      if j = 0 then 0x3B else if j = 2 then frameLow i else if j = 3 then frameHigh i else 0 := by
  have skip : ∀ (l m : AMap Byte) (k : Nat), (∀ p ∈ l, p.1 ≠ k) → AMap.get 0 (l ++ m) k = AMap.get 0 m k := by
    intro l m k h
    induction l with
    | nil => rfl
    | cons p l ih =>
      simp only [List.cons_append, AMap.get]
      rw [if_neg (h p (by simp))]
      exact ih fun q hq => h q (by simp [hq])
  have after (l : List Nat) (hl : ∀ q ∈ l, i < q) : AMap.get 0 (l.flatMap (leafBytes A) ++ m') (A + 8 * i + j) = 0 := by
    rw [skip _ m' _ fun p hp => by
      obtain ⟨q, hq, h⟩ := List.mem_flatMap.1 hp
      have := hl q hq
      simp [leafBytes] at h
      rcases h with rfl | rfl | rfl <;> simp <;> omega]
    have := skip m' [] (A + 8 * i + j) fun p hp => by have := hm' p hp; omega
    simpa using this
  rw [List.append_assoc, skip m _ _ fun p hp => by have := hm p hp; omega,
    show List.range' 0 n = List.range' 0 i ++ i :: List.range' (i + 1) (n - i - 1) by
      rw [← List.range'_succ, show n - i - 1 + 1 = n - i by omega]
      have := List.range'_append (s := 0) (m := i) (n := n - i) (step := 1)
      simpa [show i + (n - i) = n by omega] using this.symm,
    List.flatMap_append, List.append_assoc, skip _ _ _ fun p hp => by
      obtain ⟨q, hq, h⟩ := List.mem_flatMap.1 hp
      have := List.mem_range'_1.1 hq
      simp [leafBytes] at h
      rcases h with rfl | rfl | rfl <;> simp <;> omega,
    List.flatMap_cons, List.append_assoc]
  simp only [leafBytes, List.cons_append, List.nil_append, AMap.get]
  have := after (List.range' (i + 1) (n - i - 1)) fun q hq => by have := List.mem_range'_1.1 hq; omega
  rcases j with _ | _ | _ | _ | j <;> simp_all

/-- The leaves of the region as the walk reads them. -/
theorem leaves (s : State) (hp : s.pins = []) (hm : s.mem = region.mem) :
    (List.range 256).map (fun i => s.peekNat (0x40600000 + 8 * i) 8) = (List.range 256).map leaf := by
  refine List.map_congr_left fun i hi => ?_
  have h2 : ∀ j, j < 8 → s.peek (0x40600000 + 8 * i + j) =
      if j = 0 then 0x3B else if j = 2 then frameLow i else if j = 3 then frameHigh i else 0 := by
    intro j hj
    have h3 : s.peek (0x40600000 + 8 * i + j) = AMap.get 0 s.mem (0x40600000 + 8 * i + j) := by
      simp [State.peek, State.pinOwner, hp, State.byte]
    rw [h3, hm]
    exact get_leaves _ _ _ (by decide +kernel) 256 i j (List.mem_range.1 hi) hj (by decide +kernel)
  have h4 : s.peeks (0x40600000 + 8 * i) 8 = [0x3B, 0, frameLow i, frameHigh i, 0, 0, 0, 0] := by
    simp only [State.peeks]
    rw [show List.range 8 = [0, 1, 2, 3, 4, 5, 6, 7] by decide]
    simp only [List.map_cons, List.map_nil, h2 0 (by decide), h2 1 (by decide), h2 2 (by decide), h2 3 (by decide),
      h2 4 (by decide), h2 5 (by decide), h2 6 (by decide), h2 7 (by decide)]
    rfl
  rw [State.peekNat, h4]
  have h5 := List.mem_range.1 hi
  simp only [leNat, frameLow, frameHigh, leaf]
  simp
  omega

theorem region_compactable (s : State) (hp : s.pins = []) (hm : s.mem = region.mem)
    (h2 : s.level2 1 (65536 * 24576) = some 0x40400000) (h1 : s.peekNat 0x40400000 8 = 1 + 2 ^ 16 * (0x40600000 / 2048)) :
    s.compactable 1 (65536 * 24576) = some (0x40400000, (List.range 256).map leaf) := by
  rw [State.compactable, h2, Option.bind_some, State.level1, h1, if_pos (by decide),
    show (1 + 2 ^ 16 * (0x40600000 / 2048)) / 2 ^ 16 % 2 ^ 30 * 2048 = 0x40600000 by decide, leaves s hp hm, Option.bind_some]
  decide +kernel

theorem witness_Compaction (h : Obligations.WalksAnswersAndCompaction) :
    Goes (.compact 1) region ∧
      ∃ t u : State, exec (.compactDone 1) compacting = .next t ∧ u.bytes 0x40400000 8 = leBytes 8 0x3B ∧
        u.byte 5 = ((compacting.recallFrames (((List.range 256).map leaf).map fun e => e / 2 ^ 16 % 2 ^ 26)).recallFrames
          (List.range 256)).byte (leaf 0 / 2 ^ 16 % 2 ^ 26 * 24576 + 5) := by
  obtain ⟨-, h1, h2, -⟩ := h
  have e1 := region_compactable region (by decide +kernel) rfl (by decide +kernel) (by decide +kernel)
  have e2 := region_compactable compacting (by decide +kernel) rfl (by decide +kernel) (by decide +kernel)
  refine ⟨goes (h1 region 1 ⟨2, 65536 * 24576, 0, 0x700000⟩ ?_ ?_ ?_ ?_ ?_ ?_ (by rw [e1]; rfl)), ?_⟩
  · decide +kernel
  · decide +kernel
  · decide +kernel
  · decide +kernel
  · decide +kernel
  · decide +kernel
  · obtain ⟨t, u, ht, -, -, -, -, hu⟩ := h2 compacting 1 0x40400000
      { compact := true, va := 65536 * 24576, bytes := 256 * 24576, frame := 0, done := 0x700000 }
      ((List.range 256).map leaf) (by decide +kernel) (by decide +kernel) (by decide +kernel) (by decide +kernel) e2
    obtain ⟨b, c⟩ := hu (by decide +kernel) (by decide +kernel) (by decide +kernel) (by decide +kernel) (by decide +kernel)
    exact ⟨t, u, ht, b.trans (by decide +kernel), by simpa using c 0 5 (by decide) (by decide)⟩

/-- A message from the group to its own core, in the network. -/
def sending (wait : Wait) : State := { withG ready (fun g => { g with wait := wait }) with messages := [message] }

/-- Router 5 has been idle since the start and may power down; or it is down, and a message to core 200 needs it. -/
def idleRouter : State := { ready with clock := 2 ^ 24 }

/-- A message to core 200. -/
def farMessage : Message := { message with toCore := 200 }

/-- The first router on its way. -/
def firstRouter : Nat := (route 0 200).headD 0

/-- A wake on the word that holds the answer of record 0. -/
def recordWake : State :=
  { withBytes (ready.modCtx 1 fun c => { c with records := [(0, (0x50000000, 0))] }) 0x50000030 [1] with
    wakes := [{ id := 1, from_ := 0, core := 0, key := 0x50000030 }] }

/-- The router has powered down in this clock. -/
def justDown : State := { ready with routers := [(firstRouter, { powered := false, downAt := some 0, powerDowns := 1 })] }

theorem none_of2 {o : Option (Nat × Nat)} {P : Nat → Nat → Prop} (h : o = none) : ∀ u f, o = some (u, f) → P u f := by
  intro u f e; rw [h] at e; cases e

/-- The clock in which an idle router may power down. -/
def aboutToPowerDown : State :=
  { idleRouter with routers := [(firstRouter, { idleFrom := idleRouter.clock + 1 - idleRouter.idleWindow })] }

theorem witness_Network (h : Obligations.Network) :
    (Goes (.messageDelivery 0 2 1) (sending .none) ∧ Goes (.messageDelivery 0 2 1) (sending (.message 2 0))) ∧
    (Goes (.wakeDelivery 0) { ready with wakes := [{ id := 1, from_ := 0, core := 0, key := 192 }] } ∧
      Goes (.waitwTimeout 0) (withG { ready with clock := 1 } fun g => { g with wait := .word 192 0 1 })) ∧
    (Goes (.routerPowerDown 23) idleRouter ∧
      Goes (.routerWake firstRouter)
        { ready with messages := [farMessage], routers := [(firstRouter, { powered := false })] }) ∧
    (∃ t, exec (.wakeDelivery 0) recordWake = .next t ∧ 0x50000030 ∈ (t.context 1).woken) ∧
    ((aboutToPowerDown.flit [firstRouter]).router firstRouter).abandoned = 1 ∧
    (justDown.flit [firstRouter]).router firstRouter =
      { justDown.router firstRouter with powered := true, powerDowns := 0, abandoned := 1, idleFrom := 1 } := by
  obtain ⟨h1, h2, h3, h4⟩ := h
  refine ⟨⟨goes (h1 (sending .none) 0 2 1 message ?_ ?_ (none_of2 ?_) ?_ ?_),
      goes (h1 (sending (.message 2 0)) 0 2 1 message ?_ ?_ (none_of2 ?_) ?_ ?_)⟩,
    ⟨goes (h2 { ready with wakes := [{ id := 1, from_ := 0, core := 0, key := 192 }] } 0 { id := 1, from_ := 0, core := 0, key := 192 } ?_ ?_),
      goesEq (h3 (withG { ready with clock := 1 } fun g => { g with wait := .word 192 0 1 }) 0 192 0 1 ?_ ?_ ?_)⟩,
    ⟨goesEq ((h4 idleRouter 23 ?_).1 ?_ ?_ ?_ ?_),
    goesEq ((h4 { ready with messages := [farMessage], routers := [(firstRouter, { powered := false })] } firstRouter ?_).2.1 ?_ ?_)⟩,
    (h2 recordWake 0 { id := 1, from_ := 0, core := 0, key := 0x50000030 } ?_ ?_).imp fun t x => ⟨x.1, x.2.2.2 1
      { ready.context 1 with records := [(0, (0x50000000, 0))] } 0 0x50000000 0 ?_ ?_ rfl ?_⟩,
    (congrArg Router.abandoned ((h4 aboutToPowerDown firstRouter ?_).2.2.1 ?_ ?_ ?_)).trans ?_,
    ((h4 justDown firstRouter ?_).2.2.2 ?_).trans ?_⟩ <;>
    decide +kernel

/-- Whether a computation ended well with a value. -/
def okWith {α β : Type} [DecidableEq β] (r : Except α β) (v : β) : Bool :=
  match r with
  | .ok x => x == v
  | .error _ => false

theorem ok_eq {α β : Type} [DecidableEq β] {r : Except α β} {v : β} (h : okWith r v = true) : r = .ok v := by
  cases r with
  | ok x => simpa [okWith] using h
  | error _ => cases h

/-- A launch queue at 0x50000000 with one record: version 1 at 0x50001000, or an empty one. -/
def launching (version : Nat) : State :=
  withBytes (withBytes { ready with queueTable := some 0x50000000, grids := [] } 0x50000000
      (leBytes 8 0x50001000 ++ leBytes 4 4 ++ leBytes 4 1 ++ leBytes 4 2 ++ leBytes 4 0 ++ leBytes 4 0 ++ leBytes 4 1))
    0x50001000
    (leBytes 4 version ++ leBytes 4 0 ++ leBytes 8 9 ++ leBytes 8 0x600000 ++ leBytes 8 0x700000 ++ leBytes 4 1 ++ leBytes 2 1 ++
      leBytes 2 1 ++ leBytes 4 96 ++ leBytes 4 8)

/-- The TAIL has been read. -/
def seen (version : Nat) : State := { launching version with queueSeen := [(0, 1)] }

/-- A dependent grid whose one producer has set its bit. -/
def depGrid : Grid := { theGrid with launch := { loadedLaunch with dep := true, pteams := 1, pbitmap := 0x700000 } }
def dependent : State := withBytes { ready with grids := [(1, depGrid)] } 0x700000 [1]

/-- The grid's team of two teams has ended; its bits lie at 0x700000. -/
def endedTeam : State :=
  { halted false with
    grids := [(1, { theGrid with launch := { loadedLaunch with teams := 2, cbitmap := 0x700000 } })]
    teams := [(1, { theTeam with ended := true })] }

/-- A grid with one gang still to be placed. -/
def unplaced : State := { ready with grids := [(1, { theGrid with placed := [] })], teams := [], gangs := [], groups := [] }

theorem witness_Dispatching (h : Obligations.Dispatching) :
    (Goes (.dispatcherTailRead 0) (launching 1) ∧ Goes (.launchRecordTake 0) (seen 1) ∧ Goes (.launchRecordTake 0) (seen 2)) ∧
      Goes (.consumerRelease 1 0) dependent ∧ Goes (.cbitmapSet 1) endedTeam ∧ Goes (.teamPlacement 1) unplaced ∧
      ∃ r, unplaced.offer [(1, { theGrid with placed := [] })] =
        (unplaced.countDeferrals r.deferred).placeGang 1 0 { theGrid with placed := [] } r := by
  obtain ⟨h1, h2, h3, h4, h5, -⟩ := h
  refine ⟨⟨goesEq ((h1 (launching 1) 0 0x50000000 ?_).1 ?_), goesEq (((h1 (seen 1) 0 0x50000000 ?_).2 1 ?_ ?_ ?_ ?_ ?_).1 ?_),
      goesEq (((h1 (seen 2) 0 0x50000000 ?_).2 1 ?_ ?_ ?_ ?_ ?_).2 0 ?_)⟩,
    goesEq (h2 dependent 1 0 depGrid [0] ?_ ?_ ?_ ?_ ?_ (ok_eq ?_) (ok_eq ?_)),
    goes (h3 endedTeam 1 0x700000 { theTeam with ended := true }
      { theGrid with launch := { loadedLaunch with teams := 2, cbitmap := 0x700000 } } ?_ ?_ ?_ ?_ ?_ ?_ (ok_eq ?_)),
    goesEq (h4 unplaced 1 _ (some_get ?_) ?_ ?_ ⟨(1, { theGrid with placed := [] }), ?_, ?_⟩ ?_),
    _, h5 unplaced 1 0 { theGrid with placed := [] } [] ?_ ?_ ?_⟩ <;> decide +kernel

/-! ### Saves, restores, observation -/

/-- The context is being saved, core 0 has reached its limit and the group stands at a clause boundary. -/
def stopping : State :=
  ((atClause false).modCtx 1 fun c => { c with preempt := .draining }).modCore 0 fun c => { c with limitAt := some 0 }

/-- A saved team of one group, and a context that has nothing but it. -/
def savedTeam : SavedTeam :=
  { team := theTeam, key := 1, groups := [(0, ready.g)], locks := [], sideLog := [], queues := [], messages := [], at_ := 0x60000000
    size := 0 }
def saved : State :=
  { ready.modCtx 1 (fun c => { c with saved := [savedTeam] }) with teams := [], gangs := [(1, { grid := 1, teams := [1] })], groups := [] }

/-- A request that is known to have failed. -/
def aRequest : CtxRequest := { target := 1, save := true, issuer := 1, addr := 0x700000, status := some 3 }

/-- Sampling is on, with a ring of so many entries. -/
def sampling (n t : Nat) : State :=
  { ready.modCtx 1 (fun c => { c with observe := { c.observe with ringBase := 0x50000000, ringEntries := n, ringTail := t } }) with
    inForce := ready.inForce.put 5 { en := true } }

/-- A chunk that a sync ended, in a mode, with a log. -/
def chunked (mode : Nat) (log : List LogRecord) : State :=
  withG (ready.modCtx 1 fun c => { c with observe := { c.observe with mode := mode, log := log } })
    fun g => { g with chunk := 5, chunkEnd := some 1 }

theorem search_eq {x : Search} {c : List (Nat × List Nat × Nat × Nat)} {d : List Nat} (h1 : x.chosen = c)
    (h2 : x.deferred = d) : x = ⟨c, d⟩ := by cases x; simp_all

/-- A chunk whose loads do not hold any more. -/
def staleChunk : State := { chunked 1 [] with chunks := [(0, { start := ready.g, stale := true })] }

/-- The address of a request's status lies in a peer window. -/
def farRequest : State := { withBytes ready 0x40200007 [1] with requests := [{ aRequest with addr := 0x40 }] }

theorem witness_SavesRestoresAndObservation (h : Obligations.SavesRestoresAndObservation) :
    (Goes (.forcedSave 1 0) stopping ∧ Goes (.teamRestore 1) saved ∧
      Goes (.preemptStatusWrite 1) { ready with requests := [aRequest] } ∧
      ∃ t, exec (.preemptStatusWrite 1) farRequest = .next t ∧ ∃ p, t.peerSends = farRequest.peerSends ++ [p]) ∧
    (Goes (.sample 0) (sampling 1 0) ∧ Goes (.sample 0) (sampling 1 1) ∧
      Goes (.trialDelayExpire 0) (withG ready fun g => { g with delayUntil := some 0 })) ∧
    (Goes (.chunkCommit 0) (chunked 1 []) ∧ Goes (.chunkCommit 0) (chunked 0 []) ∧ Goes (.chunkCommit 0) (chunked 2 []) ∧
      Goes (.chunkCommit 0) (chunked 2 [⟨0, 0, 0, 1, 4, none⟩]) ∧ Goes (.chunkCommit 0) (chunked 2 [⟨0, 0, 0, 1, 6, none⟩]) ∧
      Goes (.chunkCommit 0) staleChunk) ∧ ∃ bs, savedTeam.asRead 0 bs = savedTeam := by
  obtain ⟨⟨h1, h2, hr, h3⟩, h4, h5, h6⟩ := h
  refine ⟨⟨goes (h1 stopping 1 0 ?_ ?_ ?_ ?_),
      goes (h2 saved 1 0 0 0 [0] savedTeam [] ?_ ?_ ?_ ?_ ?_ ?_ ?_ (search_eq ?_ ?_) ?_),
      goes (h3 { ready with requests := [aRequest] } 1 aRequest ?_),
      (h3 farRequest 1 { aRequest with addr := 0x40 } ?_).imp fun t x => ⟨x.1, (x.2.2.2.1 _ (some_get ?_)).elim fun n y =>
        (y.2.2 ?_).imp fun p z => z.1⟩⟩,
    ⟨goes (h4 (sampling 1 0) 0 1 0 ?_ ?_ ?_ ?_ ?_), goes (h4 (sampling 1 1) 0 1 0 ?_ ?_ ?_ ?_ ?_),
      goesEq (h5 (withG ready fun g => { g with delayUntil := some 0 }) 0 0 ?_ ?_)⟩,
    ⟨goes (((h6 (chunked 1 []) 0 1 ?_ ?_ ?_ ?_).2 ?_).1 ?_), goes (((h6 (chunked 0 []) 0 1 ?_ ?_ ?_ ?_).2 ?_).2.1 ?_ ?_),
      goes (((h6 (chunked 2 []) 0 1 ?_ ?_ ?_ ?_).2 ?_).2.1 ?_ ?_),
      goes (((h6 (chunked 2 [⟨0, 0, 0, 1, 4, none⟩]) 0 1 ?_ ?_ ?_ ?_).2 ?_).2.2.1 ⟨0, 0, 0, 1, 4, none⟩ ?_ ?_ ?_ ?_ ?_ ?_),
      goes (((h6 (chunked 2 [⟨0, 0, 0, 1, 6, none⟩]) 0 1 ?_ ?_ ?_ ?_).2 ?_).2.2.2 ⟨0, 0, 0, 1, 6, none⟩ ?_ ?_ ?_ ?_ (.inr ?_) ?_),
      goes ((h6 staleChunk 0 1 ?_ ?_ ?_ ?_).1 ?_ ?_ { start := ready.g, stale := true } ?_)⟩,
    _, hr savedTeam 0 true (List.replicate (savedTeam.team.scratch + (savedTeam.groups.map fun p => p.2.privateSize).sum) 0)
      (by simp)⟩ <;>
    decide +kernel

/-! ### The host port, management, controls, peers -/

/-- A window of context 1 over its first page, and a packet for it. -/
def windowed : State :=
  { ready with windows := [(3, { ctx := 1, base := 0, length := 4096, rd := true, wr := true, key := 0xABCD })] }
def packet (psn : BitVec 32) (length : Nat) (payload : List Byte) : TiadePacket :=
  { flags := 0, stream := 0, psn := psn, win := 3, key := 0xABCD, offset := 64, length := length, aop := 0, payload := payload }

/-- Whether a computation ended badly. -/
def errWith {α β : Type} [DecidableEq α] (r : Except α β) (v : α) : Bool :=
  match r with
  | .ok _ => false
  | .error x => x == v

theorem err_eq {α β : Type} [DecidableEq α] {r : Except α β} {v : α} (h : errWith r v = true) : r = .error v := by
  cases r with
  | error x => simpa [errWith] using h
  | ok _ => cases h

/-- A frame that breaks a limit. -/
def badFrame : HostFrame :=
  { size := 9217, ethertype := 0x8A7D, vlanTags := 0, ipv4 := false, ipFragment := false, udpPort := 0, op := 1, order := 0 }

/-- The window's page lies in a peer window. -/
def peerPage : State := withBytes windowed 0x40200007 [1]

theorem unpinned {s : State} (h : s.pins = []) : ∀ line i, s.pinOwner line i = none := by
  intro line i; simp [State.pinOwner, h]

/-- An error has spoilt the line that the packet names. -/
def spoiltLine : State := { windowed with poison := [0] }

theorem witness_HostPort (h : Obligations.HostPort) :
    (Goes (.tiadeRead (packet 1 4 [])) windowed ∧ Goes (.tiadeWrite (packet 1 1 [5])) windowed ∧
      Goes (.tiadeRead (packet (-1) 4 [])) windowed ∧ Goes (.tiadeWrite (packet (-1) 1 [5])) windowed) ∧
    (Goes (.tiadeRead (packet 0 4 [])) ready ∧ Goes (.tiadeRead (packet 0 4 [])) windowed ∧
      Goes (.tiadeRead (packet 0 4 [])) spoiltLine ∧ Goes (.tiadeRead (packet 0 4 [])) peerPage ∧
      Goes (.tiadeWrite (packet 0 1 [5])) ready ∧ Goes (.tiadeWrite (packet 0 1 [5])) windowed) ∧
    (Goes (.tiadeAtomic (packet 0 4 [1, 0, 0, 0])) ready ∧ Goes (.tiadeAtomic (packet 0 4 [1, 0, 0, 0])) windowed) ∧
    Goes (.tiadeRead (packet 0 4609 [])) windowed ∧ Goes (.tiadeFrameDrop badFrame) ready := by
  obtain ⟨h1, h2⟩ := h
  let far (i : Nat) : Nat := Config.windowKey * 257 + 64 + i
  refine ⟨⟨goesEq ((h1 windowed (packet 1 4 []) ?_).1 ?_ ?_ ?_).1, goesEq (((h1 windowed (packet 1 1 [5]) ?_).1 ?_ ?_ ?_).2 ?_),
      goesEq ((h1 windowed (packet (-1) 4 []) ?_).2.1 ?_ ?_).1, goesEq (((h1 windowed (packet (-1) 1 [5]) ?_).2.1 ?_ ?_).2 ?_)⟩,
    ⟨goes (((h1 ready (packet 0 4 []) ?_).2.2.1 ?_ ?_ ?_).1 1 (err_eq ?_)),
      goes ((((h1 windowed (packet 0 4 []) ?_).2.2.1 ?_ ?_ ?_).2.1 1 64 [64, 65, 66, 67] (ok_eq ?_)).1 ?_ ?_),
      goes ((((h1 spoiltLine (packet 0 4 []) ?_).2.2.1 ?_ ?_ ?_).2.1 1 64 [64, 65, 66, 67] (ok_eq ?_)).2.1 ?_ (unpinned ?_) ?_),
      goes2 ((((h1 peerPage (packet 0 4 []) ?_).2.2.1 ?_ ?_ ?_).2.1 1 64 [far 0, far 1, far 2, far 3] (ok_eq ?_)).2.2 ?_ ?_),
      goes (((h1 ready (packet 0 1 [5]) ?_).2.2.1 ?_ ?_ ?_).2.2.1 1 ?_ (err_eq ?_)),
      goes (((h1 windowed (packet 0 1 [5]) ?_).2.2.1 ?_ ?_ ?_).2.2.2 1 64 [64] ?_ (ok_eq ?_) ?_)⟩,
    ⟨goes (((h1 ready (packet 0 4 [1, 0, 0, 0]) ?_).2.2.2.1 ?_ ?_ ?_ ?_).1 1 (err_eq ?_)),
      goes (((h1 windowed (packet 0 4 [1, 0, 0, 0]) ?_).2.2.2.1 ?_ ?_ ?_ ?_).2 1 64 64 [65, 66, 67] (ok_eq ?_) ?_ (unpinned ?_) ?_)⟩,
    goesEq ((h1 windowed (packet 0 4609 []) ?_).2.2.2.2 ?_), goesEq (h2 ready badFrame (.inl ?_))⟩ <;> decide +kernel

/-- A packet of the management host, or of another. -/
def mgmt (fromHost : Bool) (ws : List Word) : MgmtPacket := { stream := 0, fromMgmtHost := fromHost, psn := 0, words := ws }

/-- A context descriptor of context 7 on cluster 60. -/
def descriptor : List Word :=
  [7, 0, 0, 0x10000000, 0, 0, 0x40000000] ++ List.replicate 27 0 ++ [1] ++ List.replicate 29 0

/-- An SPDM message with a code and a vendor's request for context c. -/
def spdm (code kind c : Nat) : MgmtPacket :=
  mgmt true (bytesWords 32 ([0x12, BitVec.ofNat 8 code, 0, 0] ++ leBytes 2 4 ++ leBytes 1 4 ++ leBytes 4 0xDA6E ++ leBytes 2 8 ++
    leBytes 4 kind ++ leBytes 4 c))

/-- Context 1 is being pre-empted. -/
def draining : State := ready.modCtx 1 fun c => { c with preempt := .draining }

/-- Context 1 has no team. -/
def empty : State := { ready with teams := [], groups := [] }

theorem goes_managed {i p s u c b} (h : Managed i p s u c b) (q : p.stream = 0 ∧ p.fromMgmtHost = true ∧ p.psn = s.streams.get 0 0) :
    Goes (i p) s := goesEq (h q.1 q.2.1 q.2.2)

theorem witness_Management_refused (h : Obligations.Management) :
    (∀ i ∈ [Instr.createContext (mgmt false []), .rosterRecord (mgmt false [])], Goes i ready) ∧
    (Goes (.createContext (mgmt true descriptor)) empty ∧ Goes (.createContext (mgmt true [])) ready) ∧
    (∀ i ∈ [Instr.destroyContext, .setStep, .preemptContext, .harvestRecord, .rosterRecord],
      Goes (i (mgmt true [9])) ready) ∧ Goes (.resumeContext (mgmt true [9, 1])) ready := by
  obtain ⟨h1, h2, -⟩ := h
  have e : ready.contexts.find? 9 = none := by decide +kernel
  have w : ¬(mgmt true [9]).word 1 = 1 := by decide
  have w1 : (mgmt true [9, 1]).word 1 = 1 := by decide
  refine ⟨fun i hi => goesEq (h1 ready (mgmt false []) (.inr rfl) i (by fin_cases hi <;> simp)),
    ⟨goes_managed ((h2 empty (mgmt true descriptor)).1 ?_) ?_, goes_managed ((h2 ready (mgmt true [])).2.1 ?_) ?_⟩,
    fun i hi => goes_managed ((h2 ready (mgmt true [9])).2.2.1 e i (by rw [if_neg w]; fin_cases hi <;> simp)) ?_,
    goes_managed ((h2 ready (mgmt true [9, 1])).2.2.1 e .resumeContext (by rw [if_pos w1]; simp)) ?_⟩ <;> decide +kernel

theorem witness_Management (h : Obligations.Management) :
    (Goes (.destroyContext (mgmt true [1])) ready ∧ Goes (.destroyContext (mgmt true [1])) empty ∧
      Goes (.setStep (mgmt true [1, 5])) ready ∧ Goes (.preemptContext (mgmt true [1])) ready ∧
      Goes (.preemptContext (mgmt true [1])) draining ∧ Goes (.preemptContext (mgmt true [1, 2])) ready ∧
      Goes (.resumeContext (mgmt true [1, 1])) ready ∧ Goes (.resumeContext (mgmt true [1, 1])) draining ∧
      Goes (.harvestRecord (mgmt true [1])) ready ∧ Goes (.rosterRecord (mgmt true [1])) ready) ∧
    (Goes (.registerWindow (mgmt true [254, 1, 0, 0, 64])) ready ∧ Goes (.removeWindow (mgmt true [254])) ready ∧
      Goes (.registerWindow (mgmt true [254])) ready ∧ Goes (.registerLaunchQueueTable (mgmt true [0x50000000])) ready) := by
  obtain ⟨-, h2, -⟩ := h
  have x1 : ready.contexts.find? 1 = some (ready.context 1) := by decide +kernel
  have x2 : empty.contexts.find? 1 = some (empty.context 1) := by decide +kernel
  have x3 : draining.contexts.find? 1 = some (draining.context 1) := by decide +kernel
  refine ⟨⟨goes_managed (((h2 ready (mgmt true [1])).2.2.2.1 _ x1).1 ?_) ?_,
      goes_managed (((h2 empty (mgmt true [1])).2.2.2.1 _ x2).2.1 ?_) ?_,
      goes_managed (((h2 ready (mgmt true [1, 5])).2.2.2.1 _ x1).2.2.1) ?_,
      goes_managed (((h2 ready (mgmt true [1])).2.2.2.1 _ x1).2.2.2.1 ?_ ?_) ?_,
      goes_managed (((h2 draining (mgmt true [1])).2.2.2.1 _ x3).2.2.2.2.1 ?_ ?_) ?_,
      goes_managed (((h2 ready (mgmt true [1, 2])).2.2.2.1 _ x1).2.2.2.2.2.1 ?_) ?_,
      goes_managed (((h2 ready (mgmt true [1, 1])).2.2.2.1 _ x1).2.2.2.2.2.2.1 ?_ ?_) ?_,
      goes_managed (((h2 draining (mgmt true [1, 1])).2.2.2.1 _ x3).2.2.2.2.2.2.2.1 ?_ ?_) ?_,
      goes_managed (((h2 ready (mgmt true [1])).2.2.2.1 _ x1).2.2.2.2.2.2.2.2.1) ?_,
      goes_managed (((h2 ready (mgmt true [1])).2.2.2.1 _ x1).2.2.2.2.2.2.2.2.2) ?_⟩,
    goes_managed ((h2 ready (mgmt true [254, 1, 0, 0, 64])).2.2.2.2.1 _ ?_ x1 ?_) ?_,
    goes_managed ((h2 ready (mgmt true [254])).2.2.2.2.2.1 ?_ ?_).1 ?_,
    goes_managed ((h2 ready (mgmt true [254])).2.2.2.2.2.1 ?_ ?_).2 ?_,
    goes_managed ((h2 ready (mgmt true [0x50000000])).2.2.2.2.2.2) ?_⟩ <;> decide +kernel

theorem witness_Management_spdm (h : Obligations.Management) :
    (Goes (.getVersion (spdm 0x84 0 0)) ready ∧ Goes (.getCapabilities (spdm 0xE1 0 0)) ready ∧
      Goes (.negotiateAlgorithms (spdm 0xE3 0 0)) ready ∧ Goes (.getMeasurements (spdm 0xE0 0 0)) ready) ∧
    (Goes (.vendorHarvestRequest (spdm 0xFE 7 1)) ready ∧ Goes (.vendorRosterRequest (spdm 0xFE 8 1)) ready ∧
      Goes (.vendorHarvestRequest (spdm 0xFE 7 9)) ready ∧ Goes (.vendorRosterRequest (spdm 0xFE 8 9)) ready) ∧
    (Goes (.spdmUnsupportedRequest (spdm 0xFE 9 1)) ready ∧ Goes (.spdmUnsupportedRequest (spdm 0x81 0 0)) ready ∧
      Goes (.spdmUnsupportedRequest (mgmt true [0xFE12])) ready) := by
  obtain ⟨-, -, h3⟩ := h
  refine ⟨⟨goes_managed ((h3 ready (spdm 0x84 0 0)).1 ?_) ?_, goes_managed ((h3 ready (spdm 0xE1 0 0)).2.1 ?_) ?_,
      goes_managed ((h3 ready (spdm 0xE3 0 0)).2.2.1 ?_) ?_, goes_managed ((h3 ready (spdm 0xE0 0 0)).2.2.2.1 ?_) ?_⟩,
    ⟨goes_managed ((h3 ready (spdm 0xFE 7 1)).2.2.2.2.1 1 ?_ ?_) ?_,
      goes_managed ((h3 ready (spdm 0xFE 8 1)).2.2.2.2.2.1 1 ?_ ?_) ?_,
      goes_managed (((h3 ready (spdm 0xFE 7 9)).2.2.2.2.2.2.1 9 ?_).1 ?_) ?_,
      goes_managed (((h3 ready (spdm 0xFE 8 9)).2.2.2.2.2.2.1 9 ?_).2 ?_) ?_⟩,
    goes_managed ((h3 ready (spdm 0xFE 9 1)).2.2.2.2.2.2.2.1 9 1 ?_ ?_ ?_) ?_,
    goes_managed ((h3 ready (spdm 0x81 0 0)).2.2.2.2.2.2.2.2.1 ?_) ?_,
    goes_managed ((h3 ready (mgmt true [0xFE12])).2.2.2.2.2.2.2.2.2 ?_) ?_⟩ <;> decide +kernel

/-- The four seed cores of die 0 have taken the places of failed ones. -/
def noSeeds : State := { ready with spares := [⟨3, 0⟩, ⟨3, 1⟩, ⟨3, 2⟩, ⟨3, 3⟩] }

/-- The firmware has written in this clock. -/
def afterFirmware : State := { ready with firmwareAt := some ready.clock, firmwareWrites := [.basic 0 0x80000002] }

/-- A written control whose unit is quiet. -/
def dueControl (fn : Nat) (s : State) : State := { s with controls := s.controls.put fn { en := true, due := true } }

theorem witness_ControlsAndBoot (h : Obligations.ControlsAndBoot) :
    (∀ i ∈ [Instr.powerLimit 0x80000001 true, .coreClock 0x8000000E true, .routerPowerDownControl 0x8000000F false,
        .hostPortControl 0x80000001 true, .peerPortsControl 0 true, .samplingControl 0x80000001 true,
        .reuseHistogramControl 0x80000001 true, .causalTrialControl 0x80000001 true, .replayControl 0x80000002 true],
      Goes i ready) ∧ Goes (.powerLimit 0x80000001 true) afterFirmware ∧
    (Goes (.expertBlockWrite 0 0 2801) ready ∧ Goes (.expertBlockWrite 1 0 1400) ready ∧
      (Goes (.controlApply 1) (dueControl 1 ready) ∧ Goes (.controlApply 2) (dueControl 2 { ready with clock := 2 ^ 24 }) ∧
        Goes (.controlApply 3) (dueControl 3 ready) ∧ Goes (.controlApply 4) (dueControl 4 ready) ∧
        Goes (.controlApply 5) (dueControl 5 (halted true))) ∧
      Goes .bootRecordClear ready ∧ Goes .bootRecordClear { ready with off := true } ∧ Goes (.moduleReset []) ready ∧
      Goes (.moduleReset [⟨1, 0⟩]) ready ∧ Goes (.moduleReset [⟨7, 2⟩]) ready ∧ Goes (.moduleReset [⟨8, 0⟩]) ready ∧
      Goes (.moduleReset [⟨3, 5⟩]) noSeeds ∧ Goes (.coreFailure 0) ready ∧ Goes (.coreFailure 255) ready) ∧
    (Goes .clockStepDown ready ∧ Goes .clockStepDown { ready with clockStep := 14 } ∧ Goes .coolantFlowLost ready ∧
      Goes .coolantFlowRestored { ready with coolant := false }) := by
  obtain ⟨h1, -, h2, h3, h4, h5, h6, h7, h8⟩ := h
  refine ⟨fun i hi => ?_, goesEq ((h1 afterFirmware 0x80000001 true (.powerLimit 0x80000001 true, 0, 14) (by simp)).2 ?_ ?_),
    ⟨goes2 (h2 ready 0 0 2801 ?_ ?_), goes2 (h2 ready 1 0 1400 ?_ ?_),
      ⟨goes (h3 (dueControl 1 ready) 1 ?_ (.inl ?_)),
        goes (h3 (dueControl 2 { ready with clock := 2 ^ 24 }) 2 ?_ (.inr (.inr (.inl ⟨?_, ?_⟩)))),
        goes (h3 (dueControl 3 ready) 3 ?_ (.inr (.inr (.inr (.inl ⟨?_, ?_⟩))))),
        goes (h3 (dueControl 4 ready) 4 ?_ (.inr (.inl ?_))),
        goes (h3 (dueControl 5 (halted true)) 5 ?_ (.inr (.inr (.inr (.inr ⟨?_, .inl ?_⟩)))))⟩,
      goesEq ((h4 ready).1 ?_), goes ((h4 { ready with off := true }).2 ?_), goes (h5 ready ?_).1,
      goes (((h5 ready ?_).2 ⟨1, 0⟩ ?_ ?_ ?_ ?_ ?_).1 ?_), goes (((h5 ready ?_).2 ⟨7, 2⟩ ?_ ?_ ?_ ?_ ?_).2.1 ?_ ?_),
      goes (((h5 ready ?_).2 ⟨8, 0⟩ ?_ ?_ ?_ ?_ ?_).2.1 ?_ ?_), goes (((h5 noSeeds ?_).2 ⟨3, 5⟩ ?_ ?_ ?_ ?_ ?_).2.2 ?_ ?_),
      goes (h6 ready 0 ?_ ?_), goes (h6 ready 255 ?_ ?_)⟩,
    goesEq ((h7 ready).1 ?_), goesEq ((h7 { ready with clockStep := 14 }).2 ?_), goes ((h8 ready).1 ?_),
    goes ((h8 { ready with coolant := false }).2 ?_)⟩
  · have f : ∀ host : Bool, host = false ∨ ready.firmwareAt ≠ some ready.clock := by decide +kernel
    fin_cases hi
    · exact goes2 ((h1 ready 0x80000001 true (.powerLimit 0x80000001 true, 0, 14) (by simp)).1 (f _))
    · exact goes2 ((h1 ready 0x8000000E true (.coreClock 0x8000000E true, 1, 14) (by simp)).1 (f _))
    · exact goes2 ((h1 ready 0x8000000F false (.routerPowerDownControl 0x8000000F false, 2, 14) (by simp)).1 (f _))
    · exact goes2 ((h1 ready 0x80000001 true (.hostPortControl 0x80000001 true, 3, 0) (by simp)).1 (f _))
    · exact goes2 ((h1 ready 0 true (.peerPortsControl 0 true, 4, 0) (by simp)).1 (f _))
    · exact goes2 ((h1 ready 0x80000001 true (.samplingControl 0x80000001 true, 5, 14) (by simp)).1 (f _))
    · exact goes2 ((h1 ready 0x80000001 true (.reuseHistogramControl 0x80000001 true, 6, 12) (by simp)).1 (f _))
    · exact goes2 ((h1 ready 0x80000001 true (.causalTrialControl 0x80000001 true, 7, 0) (by simp)).1 (f _))
    · exact goes2 ((h1 ready 0x80000002 true (.replayControl 0x80000002 true, 8, 1) (by simp)).1 (f _))
  all_goals decide +kernel

/-- A state with one peer link up to device 4, and the same window. -/
def linked : State := { windowed with ports := [(2, { up := true, partner := [4] })] }

/-- The window may not be read. -/
def unreadable : State :=
  { linked with windows := [(3, { ctx := 1, base := 0, length := 4096, rd := false, wr := true, key := 0xABCD })] }

/-- A request of device 4. -/
def request (op : PeerOp) : PeerRequest := { dev := 4, seq := 1, ctx := 1, va := 64, op := op }

/-- A load of group 0 that a peer has not answered. -/
def aSend : PeerSend := { dev := 4, seq := 1, op := .load 4, group := 0, lane := 0, va := 64, port := 2 }
def asking : State := { withG linked (fun g => { g with wait := .peer }) with peerSends := [aSend] }

/-- The page of the access lies in a peer window; or an error has spoilt its line. -/
def linkedFar : State := withBytes linked 0x40200007 [1]
def linkedSpoilt : State := { linked with poison := [0] }

theorem witness_PeerLinks (h : Obligations.PeerLinks) (key sig : List Byte) :
    (Goes (.linkAuthentication 15 (List.replicate 32 0) (List.replicate 32 1) key sig) ready ∧
      Goes (.linkAuthRetry 2) { ready with ports := [(2, { retryAt := some 0 })] } ∧ Goes (.flitCrcError 2) linked ∧
      Goes (.linkFailure 2) linked) ∧
    (Goes (.peerAccess (request (.load 4))) { linked with peerDone := [(4, 1)] } ∧
      Goes (.peerAccess (request (.load 4))) { linked with windows := [] } ∧ Goes (.peerAccess (request (.load 4))) linked ∧
      Goes (.peerAccess (request (.load 4))) linkedSpoilt ∧ Goes (.peerAccess (request (.load 4))) linkedFar ∧
      Goes (.peerAccess (request (.store [1, 2]))) linked ∧ Goes (.peerAccess (request (.atomic 0 2 1 0))) linked ∧
      Goes (.peerAccess (request (.load 4))) unreadable) ∧
    (Goes (.peerAck 4 1 true [1, 2, 3, 4]) asking ∧ ((asking.peerDeliver aSend (some [1, 2, 3, 4])).group 0).wait = .none ∧
      Goes (.peerPathTimeout 4) { asking with ports := [], clock := 2 ^ 24 }) := by
  obtain ⟨h1, h2, h3, h4, h5, h6⟩ := h
  let far (i : Nat) : Nat := Config.windowKey * 257 + 64 + i
  have a := h1 ready 15 (List.replicate 32 0) (List.replicate 32 1) key sig (by decide +kernel) (by decide +kernel)
    (by decide +kernel) (by decide) (by decide)
  have n : ∀ op : PeerOp, (∀ a b c d e f g, op ≠ .merge a b c d e f g) →
      ∀ a b c d e f g, (request op).op ≠ .merge a b c d e f g := fun _ x => x
  have l := fun (s : State) (p : s.hasPath 4 = true) (q : (4, 1) ∉ s.peerDone) =>
    (h4 s (request (.load 4)) p (n _ (by simp))).2 q (.inl ⟨4, rfl⟩)
  refine ⟨⟨(Decidable.em (signatureOk (List.replicate 32 0) key sig = true ∧ Config.shake256 key ∈ ready.allow)).elim
        (fun x => goesEq (a.1 x)) fun x => goesEq (a.2 x),
      goesEq (h2 { ready with ports := [(2, { retryAt := some 0 })] } 2 0 ?_ ?_), goesEq (h3 linked 2 ?_).1, goes (h3 linked 2 ?_).2⟩,
    ⟨goesEq ((h4 { linked with peerDone := [(4, 1)] } (request (.load 4)) ?_ (n _ (by simp))).1 ?_),
      goesEq ((l { linked with windows := [] } ?_ ?_).1 ?_),
      goes ((((l linked ?_ ?_).2 3 64 ?_).1 4 1 64 [64, 65, 66, 67] rfl (ok_eq ?_)).1 ?_ ?_),
      goes ((((l linkedSpoilt ?_ ?_).2 3 64 ?_).1 4 1 64 [64, 65, 66, 67] rfl (ok_eq ?_)).2.1 ?_ (unpinned ?_) ?_),
      goes2 ((((l linkedFar ?_ ?_).2 3 64 ?_).1 4 1 64 [far 0, far 1, far 2, far 3] rfl (ok_eq ?_)).2.2 ?_ ?_),
      goes ((((h4 linked (request (.store [1, 2])) ?_ (n _ (by simp))).2 ?_ (.inr ?_)).2 3 64 ?_).2.1 [1, 2] 1 64 [64, 65] rfl
        (ok_eq ?_) ?_),
      goes ((((h4 linked (request (.atomic 0 2 1 0)) ?_ (n _ (by simp))).2 ?_ (.inr ?_)).2 3 64 ?_).2.2.1 0 2 1 0 1 64 64
        [65, 66, 67] rfl (ok_eq ?_) ?_ (unpinned ?_) ?_),
      goesEq (((l unreadable ?_ ?_).2 3 64 ?_).2.2.2 4 4 rfl (err_eq ?_))⟩,
    goesEq (h5 asking aSend true [1, 2, 3, 4] ?_ ?_ ?_).1,
    ((h5 asking aSend true [1, 2, 3, 4] ?_ ?_ ?_).2 ?_ (by simp [aSend]) ?_ ?_).1,
    goesEq (h6 { asking with ports := [], clock := 2 ^ 24 } 4 ?_ ?_)⟩ <;> decide +kernel

/-! ### The loader, steps, encodings -/

/-- The group is promoted, so that no unit has anything to do of itself. -/
def sprinting : State := withG { ready with turns := [] } fun g => { g with engine := .sprinter }

/-- It has issued in this clock. -/
def justIssued : State := withG sprinting fun g => { g with lastIssue := some (sprinting.cycle 0) }

/-- The clause of the ready group. -/
def readyClause : Clause := ⟨0x600000, 0xA0000001, [0x38200000]⟩

/-- The state in which the ready group issues in a turn that meets an error. -/
def erring (e : SoftError) : State := { ready with turns := [{ act := .issue 0, err := e }] }

/-- The next instruction would make a chunk firm whose loads do not hold any more. -/
def staleIssue : State :=
  { withG (ready.modCtx 1 fun c => { c with observe := { c.observe with mode := 1 } }) fun g => { g with chunk := 5 } with
    chunks := [(0, { start := ready.g, stale := true })] }

theorem witness_StepRunsDecoded (h : Obligations.StepRunsDecoded) :
    (step ready = settled (issued 0 { { ready with turns := [] }.tick 1 [] with err := .none }
        (exec .halt { { { ready with turns := [] }.tick 1 [] with err := .none } with cur := 0 })) ∧
      (∃ t, step (erring .register) = settled (.next t)) ∧ (∃ t, step (erring (.word 5)) = settled (.next t)) ∧
      ∃ t, step staleIssue = settled (.next t)) ∧
    (ready.openChunk 0 = ready ∧ issued 0 ready (.next ready) = .next ready) ∧
    ((∃ u, step (withG sprinting fun g => { g with issued := true }) = settled (issued 0 u (exec .halt { u with cur := 0 }))) ∧
      (∃ u, step sprinting = settled (issued 0 u (exec .halt { u with cur := 0 }))) ∧ ∃ u, step justIssued = .next u) ∧
    ((∃ u, step { ready with turns := [{ act := .event .clockStepDown }] } = settled (exec .clockStepDown u)) ∧
      ∃ u : State, step { sampling 1 0 with turns := [{ act := .event (.sample 0) }] } =
        settled (exec (.sample 0) (u.noteInterlock 0))) ∧
    step { ready with off := true, turns := [] } = .fault .moduleOff ∧ step { ready with off := true } = .fault .moduleOff := by
  obtain ⟨h1, h2, h3, h4, h5⟩ := h
  refine ⟨⟨?_, ⟨_, ((h1 (erring .register) [] 1 0 [] readyClause .register ?_ ?_ ?_ ?_ ?_).1 ?_).2.1 rfl⟩,
      ⟨_, ((h1 (erring (.word 5)) [] 1 0 [] readyClause (.word 5) ?_ ?_ ?_ ?_ ?_).1 ?_).2.2 5 rfl⟩,
      ⟨_, (h1 staleIssue [] 1 0 [] readyClause .none ?_ ?_ ?_ ?_ ?_).2 ?_⟩⟩,
    ⟨(h2 ready 0 ?_).1, (h2 ready 0 ?_).2.2 ready ?_ ?_ ?_⟩,
    ⟨⟨_, (h3 (withG sprinting fun g => { g with issued := true }) 0 readyClause ?_ ?_ ?_ ?_ ?_).1 ?_ ?_ ?_ ?_ ?_⟩,
      ⟨_, ((h3 sprinting 0 readyClause ?_ ?_ ?_ ?_ ?_).2 ?_).1 ?_ ?_ ?_ ?_ ?_⟩,
      ⟨_, ((h3 justIssued 0 readyClause ?_ ?_ ?_ ?_ ?_).2 ?_).2 ?_⟩⟩,
    ⟨⟨_, (h4 { ready with turns := [{ act := .event .clockStepDown }] } [] 1 [] .clockStepDown ?_ ?_ ?_).1 fun _ e => ?_⟩,
      ⟨_, (h4 { sampling 1 0 with turns := [{ act := .event (.sample 0) }] } [] 1 [] (.sample 0) ?_ ?_ ?_).2 0 rfl⟩⟩,
    (h5 { ready with off := true, turns := [] } ?_).1 ?_,
    (h5 { ready with off := true } ?_).2 { act := .issue 0 } [] ?_ ?_⟩
  · have e := h1 ready [] 1 0 [] readyClause .none ?_ ?_ ?_ ?_ ?_
    · exact (e.1 (by decide +kernel)).1 rfl
    all_goals decide +kernel
  all_goals first | exact (nomatch e) | decide +kernel

theorem witness_EncodeDecode (h : Obligations.EncodeDecode) :
    decode 0x50204030 0 = .fadd 4 4 (.v 3) ∧ decode 0x1C500030 0x3F800000 = .slit 5 3 0x3F800000 :=
  ⟨(h (.fadd 4 4 (.v 3)) (by decide) (by simp)).1 0x50204030 (by decide) 0,
    (h (.slit 5 3 0x3F800000) (by decide) (by simp)).2 _ _ (by decide)⟩

theorem witness_MemoryStaysCanonical (h : Obligations.MemoryStaysCanonical) : ∀ t, step ready = .next t → Memory.wf t.mem = true :=
  fun t => h ready t (by decide +kernel)
theorem next_from_ready : (match step ready with | .next _ => true | _ => false) = true := by decide +kernel

/-! ### The Utril loader: the exact dot product of 08 -/

/-- The words of the 12 instructions, as 08 lists them. -/
def dotCode : List Word :=
  [0x10010000, 0xFFFFFFFF, 0xFFFF0000, 0x03010001, 0x00000000, 0xFFFF0000, 0x12013000, 0xFFFFFFFF, 0x00000000,
    0x12013001, 0xFFFFFFFF, 0x00000008, 0x13050002, 0x30000001, 0xFFFF0000, 0x13050003, 0x30010001, 0xFFFF0000,
    0x07050004, 0x00020003, 0xFFFF0000, 0x0A030005, 0x0004FFFF, 0xFFFF0005, 0x0A030006, 0x0003FFFF, 0xFFFF0005,
    0x160B0008, 0x00050006, 0xFFFF0000, 0x180B1000, 0x0008FFFF, 0xFFFF0000, 0x1E01FFFF, 0xFFFFFFFF, 0xFFFF0000]

/-- The module: its header, one kernel of 12 instructions, and its name qdot. -/
def dotImage : List Byte :=
  wordsBytes ([0x4C525455, 0x00010001, 0, 16, 32, 40, 12, 16, 0x746F6471, 0] ++ dotCode)

/-- What the loader answers for one kernel. -/
def dotWords : List Word :=
  match Utril.load dotImage 16 with
  | .ok [k] => k.words
  | _ => []

/-- 70 words: five clauses of 14, 14, 15, 14 and 8 words (08). -/
theorem test_utril_clauses : dotWords.length = 70 ∧ [0, 15, 30, 46, 61].map (fun i => dotWords.getD i 0) =
    [0xA000000E, 0xA000000E, 0xA000000F, 0xA000000E, 0xA0000008] := by decide +kernel

/-- The words that 08 gives for some instructions, in its order. -/
theorem test_utril_words : [4, 6, 7, 8, 9, 10, 14, 16, 17].map (fun i => dotWords.getD i 0) =
    [0x2F9F7603, 0x4C000001, 0x40080000, 0x23600004, 0x23700040, 0x240D8300, 0x80000418, 0x64000007, 0x00000005] ∧
    dotWords.drop 64 = [0x6C100012, 0x75B02000, 0x72000000, 0x0C5D8080, 0x0C6DC080, 0x38200000] := by decide +kernel

theorem witness_UtrilLoads (h : Obligations.UtrilLoads) :
    (∃ ts, Utril.load dotImage 16 = .ok ts ∧ ∀ t ∈ ts, t.n = 16 ∧ t.gctl = 0) ∧
    (∃ ks, Utril.parse dotImage = .ok ks ∧ ∀ k ∈ ks, 1 ≤ k.code.length) ∧
    ∃ r, Utril.nativeItems 16 { name := [], params := 0, code := [] } = .ok r := by
  obtain ⟨ts, e⟩ := ok_of (r := Utril.load dotImage 16) (by decide +kernel)
  obtain ⟨ks, f⟩ := ok_of (r := Utril.parse dotImage) (by decide +kernel)
  exact ⟨⟨ts, e, (h.1 _ _ ts e).2.2.2⟩, ⟨ks, f, fun k hk => ((h.2.1 _ ks f).2.2 k hk).1⟩, ok_of (by decide +kernel)⟩

/-! ### Words of the spec -/

theorem test_decode_scalar : decode 0x04A0060C 0 = .saddc 10 0 6 := by decide
theorem test_decode_scalar_imm : decode 0x10A2BFFF 0 = .saddImm 10 10 0x3FFF := by decide
theorem test_decode_pair_memory : decode 0x23600004 0 = .sld 54 0 0 1 := by decide
theorem test_decode_system : decode 0x28701400 0 = .srd 7 0x014 := by decide
theorem test_decode_mask : decode 0x2F9F7603 0 = .mandn 57 61 54 := by decide
theorem test_decode_branch : decode 0x315E8004 0 = .br 0 10 61 4 := by decide
theorem test_decode_halt : decode 0x38200000 0 = .halt := by decide
theorem test_decode_barrier : decode 0x3C00C002 0 = .baraw 3 := by decide
theorem test_decode_vector : decode 0x40080000 0 = .vadd 1 0 (.v 0) := by decide
theorem test_decode_index : decode 0x4C000001 0 = .vidx 0 none := by decide
theorem test_decode_fp : decode 0x50204030 0 = .fadd 4 4 (.v 3) := by decide
theorem test_decode_pairs : decode 0x6C502030 0 = .faddx 10 2 (.v 3) := by decide
theorem test_decode_quad : decode 0x78305000 0 = .qswapx 6 5 := by decide
theorem test_decode_load : decode 0x80421CA0 0 = .vld 8 1 7 2 4 := by decide
theorem test_decode_fence : decode 0x9C070000 0 = .fence 3 4 := by decide
theorem test_decode_wait : decode 0xA8178000 0 = .ewait 30 := by decide
theorem test_decode_copy : decode 0xA8021E00 0 = .cpy 8 30 0 0 := by decide
theorem test_decode_batch : decode 0xAC302000 0 = .mbatch 32 := by decide
theorem test_decode_gather : decode 0xB0021600 0 = .gath 8 22 0 0 := by decide
theorem test_decode_region : decode 0xB4023F00 0 = .scbegin 8 63 := by decide
theorem test_decode_promote : decode 0xBC004000 0 = .promote 1 := by decide
theorem test_decode_trap : decode 0xC0000500 0 = .trap 5 := by decide
theorem test_decode_frame : decode 0xC4280031 0 = .tload 5 3 := by decide
theorem test_decode_context : decode 0xC9458000 0 = .ctxsave 20 22 := by decide
theorem test_decode_progress : decode 0xCC008000 0 = .progress 2 := by decide
theorem test_decode_literal : decode 0x1C500030 0x3F800000 = .slit 5 3 0x3F800000 := by decide
theorem test_decode_fma : decode 0x54401020 0x06C00000 = .ffma 8 1 (.v 2) 3 3 := by decide
theorem test_decode_select : decode 0x483879B1 0x42000000 = .vsel 7 7 (.s 27) 33 := by decide
theorem test_decode_exact_sum : decode 0x74A04000 0x7A000001 = .creduce 20 4 61 1 0 := by decide
theorem test_decode_group_sum : decode 0x7CA04000 0x7A00E000 = .greduce 20 4 61 0 7 0 0 0 := by decide
theorem test_decode_private : decode 0x84200C24 0x200 = .vldp2w 4 3 0 4 ⟨2, 0, 0, 0⟩ := by decide
theorem test_decode_scratchpad : decode 0x902C0C24 0xC000 = .spldx2w 5 2 3 0 4 ⟨192, 0, 0, 0⟩ := by decide
theorem test_decode_atomic : decode 0x94487940 0x16000A97 = .atom 9 7 (.s 20) 11 1 { op := 7, ty := 0, order := 1, scope := 2 } 1 0 := by decide
theorem test_decode_tag : decode 0x64000007 5 = .tagwr (.v 0) 5 := by decide
/-- A major that is reserved, and words whose fields break a limit (R62, R64). -/
theorem test_decode_reserved : decode 0xD0000000 0 = .reservedMajor 0xD0000000 := by decide
theorem test_decode_undefined : decode 0x38200001 0 = .undefinedInstruction 0x38200001 ∧
    decode 0x30E00000 0 = .undefinedInstruction 0x30E00000 := by decide

/-! ### Terms that are not well formed -/

theorem test_wf_sext : Instr.wf (.sext 5 6 0) = false := by decide
theorem test_wf_sext_high : Instr.wf (.sext 5 6 33) = false := by decide
theorem test_wf_scmp : Instr.wf (.scmp 5 6 7 10) = false := by decide
theorem test_wf_btset : Instr.wf (.btset 0 6 0) = false := by decide
theorem test_wf_btget : Instr.wf (.btget 6 0 3) = false := by decide
theorem test_wf_srd : Instr.wf (.srd 5 2) = false := by decide
theorem test_wf_swr : Instr.wf (.swr 5 0x11) = false := by decide
theorem test_wf_mand : Instr.wf (.mand 62 0 0) = false := by decide
theorem test_wf_mask_source : Instr.wf (.mtest 0 62) = false := by decide
theorem test_wf_msetx : Instr.wf (.msetx 59 0) = false := by decide
theorem test_wf_br_condition : Instr.wf (.br 0 7 0 0) = false := by decide
theorem test_wf_br_always : Instr.wf (.br 0 0 1 0) = false := by decide
theorem test_wf_br_triple : Instr.wf (.br 0 8 62 0) = false := by decide
theorem test_wf_jmpi : Instr.wf (.jmpi 61) = false := by decide
theorem test_wf_loop : Instr.wf (.loop 61 0) = false := by decide
theorem test_wf_bara : Instr.wf (.bara 20) = false := by decide
theorem test_wf_vsel : Instr.wf (.vsel 0 0 (.v 0) 62) = false := by decide
theorem test_wf_vcmp : Instr.wf (.vcmp 0 0 (.v 0) 10) = false := by decide
theorem test_wf_ffma : Instr.wf (.ffma 0 0 (.v 0) 0 5) = false := by decide
theorem test_wf_fcmp : Instr.wf (.fcmp 0 0 (.v 0) 8) = false := by decide
theorem test_wf_hfma2 : Instr.wf (.hfma2 0 0 (.v 0) 0 0 7) = false := by decide
theorem test_wf_cvt_same : Instr.wf (.cvt 0 0 7 7 0 0 0 0) = false := by decide
theorem test_wf_cvt_source : Instr.wf (.cvt 0 0 7 3 0 0 0 0) = false := by decide
theorem test_wf_cvt_element : Instr.wf (.cvt 0 0 9 7 0 0 0 2) = false := by decide
theorem test_wf_cvt_sat : Instr.wf (.cvt 0 0 9 7 0 1 0 0) = false := by decide
theorem test_wf_cvtsr : Instr.wf (.cvtsr 0 0 7 0 0) = false := by decide
theorem test_wf_pack2 : Instr.wf (.pack2 0 0 (.v 0) 1) = false := by decide
theorem test_wf_unpack2 : Instr.wf (.unpack2 0 0 8 0) = false := by decide
theorem test_wf_pack4 : Instr.wf (.pack4 0 0 0 3) = false := by decide
theorem test_wf_unpack4 : Instr.wf (.unpack4 0 0 3 0) = false := by decide
theorem test_wf_lrot : Instr.wf (.lrot 0 0 (.imm 96)) = false := by decide
theorem test_wf_dwcvt : Instr.wf (.dwcvt 0 0 0 7 1) = false := by decide
theorem test_wf_dwcmp : Instr.wf (.dwcmp 62 0 (.v 0) 0) = false := by decide
theorem test_wf_creduce : Instr.wf (.creduce 0 0 62 0 0) = false := by decide
theorem test_wf_greduce_type : Instr.wf (.greduce 0 0 0 3 7 0 0 0) = false := by decide
theorem test_wf_greduce_sat : Instr.wf (.greduce 0 0 0 1 1 0 1 0) = false := by decide
theorem test_wf_gscan_mode : Instr.wf (.gscan 0 0 0 0 1 1 0 0) = false := by decide
theorem test_wf_gmatch : Instr.wf (.gmatch 0 0 3 0) = false := by decide
theorem test_wf_vld : Instr.wf (.vld 0 0 0 0 6) = false := by decide
theorem test_wf_vld_order : Instr.wf (.vld2w 0 0 0 0 4 ⟨0, 0, 2, 0⟩) = false := by decide
theorem test_wf_vst_hint : Instr.wf (.vst2w 0 0 0 4 ⟨0, 3, 0, 0⟩) = false := by decide
theorem test_wf_vst_scope : Instr.wf (.vst2w 0 0 0 4 ⟨0, 0, 0, 6⟩) = false := by decide
theorem test_wf_pref : Instr.wf (.pref2w 0 0 ⟨0, 0, 1, 0⟩) = false := by decide
theorem test_wf_vldp : Instr.wf (.vldp 0 0 0 2) = false := by decide
theorem test_wf_vldp_scope : Instr.wf (.vldp2w 0 0 0 4 ⟨0, 0, 0, 1⟩) = false := by decide
theorem test_wf_spld : Instr.wf (.spld2w 0 0 0 4 ⟨0, 1, 0, 0⟩) = false := by decide
theorem test_wf_atom_type : Instr.wf (.atom 0 0 (.v 0) 0 0 ⟨3, 1, 0, 0⟩ 0 0) = false := by decide
theorem test_wf_atom_lock : Instr.wf (.atom 0 0 (.v 0) 0 0 ⟨0, 1, 1, 0⟩ 1 0) = false := by decide
theorem test_wf_red_cas : Instr.wf (.red 0 (.v 0) 0 ⟨7, 0, 0, 0⟩ 0) = false := by decide
theorem test_wf_spatom_team : Instr.wf (.spatom 0 0 (.v 0) 0 0 1 ⟨0, 1, 0, 0⟩ 0 0) = false := by decide
theorem test_wf_satom_return : Instr.wf (.satom 1 0 0 0 ⟨0, 1, 0, 0⟩ 0 1 0) = false := by decide
theorem test_wf_fence : Instr.wf (.fence 0 0) = false := by decide
theorem test_wf_icinv : Instr.wf (.icinv 5 0 0) = false := by decide
theorem test_wf_msend : Instr.wf (.msend 0 54 0 7 0 0) = false := by decide
theorem test_wf_mrecv : Instr.wf (.mrecv 53 0 0 0 0 0) = false := by decide
theorem test_wf_wakew : Instr.wf (.wakew 0 0 6) = false := by decide
theorem test_wf_waitw : Instr.wf (.waitw 0 0 0 0 2 0) = false := by decide
theorem test_wf_block : Instr.wf (.cpy 54 0 0 0) = false := by decide
theorem test_wf_ticket : Instr.wf (.cpy 0 61 0 0) = false := by decide
theorem test_wf_nredx : Instr.wf (.nredx 0 0 1) = false := by decide
theorem test_wf_reserved : Instr.wf (.reservedMajor 0xCC000000) = false := by decide

/-! ### Worked examples of the spec -/

/-- The state after an instruction that ends in a next state. -/
def after (i : Instr) (s : State) : State :=
  match exec i s with
  | .next t => t
  | _ => State.reset

/-- All lanes of a vector hold a word, with a tag. -/
def withV (s : State) (r : Nat) (w : Word) (tag : BitVec 4) : State :=
  withG s fun g => { g with v := g.v.put r { lanes := List.replicate 96 w, tag := tag } }

/-- The writes of the last result that waits. -/
def waitingWrites (s : State) : List RegWrite := (s.g.results.flatMap fun r => r.writes)

/-- R78: the carry of 0xFFFFFF40 + 0xC0. -/
theorem test_saddc : (after (.saddc 10 0 6) (withS ready [(0, 0xFFFFFF40, 14), (6, 0xC0, 2)])).g.sval 10 = 1 := by
  decide +kernel
/-- R75: division by zero and the most negative number by minus one. -/
theorem test_sdiv : (after (.sdiv 5 6 7) (twoVals 0x80000000 0xFFFFFFFF)).g.sval 5 = 0x80000000 ∧
    (after (.sdiv 5 6 7) (twoVals 7 0)).g.sval 5 = 0xFFFFFFFF := by decide +kernel
theorem test_srem : (after (.srem 5 6 7) (twoVals 7 0)).g.sval 5 = 7 ∧
    (after (.srem 5 6 7) (twoVals 0xFFFFFFF9 2)).g.sval 5 = 0xFFFFFFFF := by decide +kernel
/-- R76: a count of 32. -/
theorem test_ssra : (after (.ssra 5 6 7) (twoVals 0x80000000 32)).g.sval 5 = 0xFFFFFFFF ∧
    (after (.sshl 5 6 7) (twoVals 1 32)).g.sval 5 = 0 := by decide +kernel
/-- R42: with FMT 0 a word tagged i32 that holds -5 adds as -5.0. -/
theorem test_fadd_converts :
    (after (.fadd 3 4 (.v 5)) (withV (withV ready 4 0xFFFFFFFB 1) 5 0x40A00000 3)).g.lane 3 95 = 0 := by decide +kernel
/-- R121: (1 + 2^-12)^2 = (1 + 2^-11) + 2^-24, with no flag. -/
theorem test_fmulx :
    let g := (after (.fmulx 2 4 (.v 4)) (withV ready 4 0x3F800800 3)).g
    g.lane 2 0 = 0x3F801000 ∧ g.lane 3 0 = 0x33800000 ∧ g.gstat = 0 := by decide +kernel
/-- R101: 500.0 saturates to 448 in the third element; OVF and INX. -/
theorem test_cvt_e4m3 :
    let g := (after (.cvt 6 2 10 7 0 1 0 3) (withV ready 2 0x43FA0000 3)).g
    g.lane 6 0 = 0x7E000000 ∧ g.gstat = fOVF ||| fINX := by decide +kernel
/-- R98, R143: FRCP of 3.0. -/
theorem test_frcp : waitingWrites (after (.frcp 3 4 0) (withV ready 4 0x40400000 3)) =
    [.vreg 3 ready.g.xm (List.replicate 96 0x3EAAAAAB) 3] := by decide +kernel
/-- R171: the sum of 72 ones. -/
theorem test_greduce : waitingWrites (after (.greduce 20 4 61 0 7 0 0 0)
    (withV (withS ready [(61, 0xFFFFFFFF, 13), (62, 0xFFFFFFFF, 13), (63, 0xFF, 13)]) 4 0x3F800000 3)) =
    [.sreg 20 0x42900000 3] := by decide +kernel
/-- The table of 06 where FP32 summation fails: the exact sum of 2^25, 1.5, 1.5 and -2^25 is 3. -/
theorem test_creduce : waitingWrites (after (.creduce 20 4 61 1 0)
    (withG (withS ready [(61, 15, 13), (62, 0, 13), (63, 0, 13)]) fun g =>
      { g with v := g.v.put 4 { lanes := [0x4C000000, 0x3FC00000, 0x3FC00000, 0xCC000000], tag := 3 } })) =
    [.sreg 20 0x40400000 11, .sreg 21 0 12] := by decide +kernel
/-- R79: a pair whose high byte is not zero. -/
theorem test_sld_fault : (after (.sld 5 8 0 0) farPair).g.trap.cause = 0x0A := by decide +kernel
/-- R286: the handler of a trap lies at TBASE + 64 times its cause. -/
theorem test_trap_entry : (after (.trap 5) privileged).g.pc = 0x500000 + 64 * 0x0F ∧
    (after (.trap 5) privileged).g.trap.val = 5 := by decide +kernel
/-- R106: ZIP3 deals the lanes of three registers in turn. -/
theorem test_zip3 : (after (.zip3 10 4) (withV (withV (withV ready 4 1 0) 5 2 0) 6 3 0)).g.lane 10 1 = 2 := by
  decide +kernel

end Sys2Proof.Tests
end

section
/-! SETTLED: O60. Every step keeps home memory in its canonical form, which is the model's own choice, as is the 0 that
an unlisted byte reads as (DESIGN CHOICE, log entry 2); R5, R192 and R195 say nothing of it.

Three functions write home memory: `putSectors` under `State.writeSectors`, `putBytes` under `State.homeWrite`, and
`State.copyFrames`. Laws/Memory.lean has that they keep the form. What is left is that a step reaches memory through them
alone: one lemma for each function of the model that calls one of them, or that takes its state apart by a choice, a match
or a fold, in the order of the model, up to `step`. A function whose update plainly copies `mem` has no lemma: there the
hypothesis about the state it starts from is the proof. -/

namespace Sys2Proof.Machine

/-! ### The form, and what keeps it -/

/-- Home memory is in its canonical form. -/
def State.Canonical (s : State) : Prop := Memory.wf s.mem = true

/-- A step of a unit, where it is taken, leaves home memory in its canonical form. -/
def MoveCanonical (m : Option State) : Prop := ∀ t, m = some t → t.Canonical

/-- A next state has home memory in its canonical form. -/
def OutcomeCanonical (o : Host.Outcome State Fault Refusal) : Prop := ∀ t, o = .next t → t.Canonical

/-- The state that an instruction's effect leaves, done or waiting, has home memory in its canonical form. -/
def Res.Canonical : Res → Prop
  | .done s _ => s.Canonical
  | .hold s => s.Canonical
  | .trap _ => True

/-- The state after a request at a home slice has home memory in its canonical form. -/
def Meet.Canonical : Meet → Prop
  | .served s => s.Canonical
  | .retry s => s.Canonical
  | .held s => s.Canonical
  | .waits => True
  | .spoilt _ => True

/-- The state after the fill of a block of code has home memory in its canonical form. -/
def Filled.Canonical : Filled → Prop
  | .taken s => s.Canonical
  | .turned s => s.Canonical
  | .waits => True
  | .spoilt s _ => s.Canonical

/-- The state with which an engine stops has home memory in its canonical form. -/
def Stop.Canonical : Stop → Prop
  | .retry s => s.Canonical
  | .held s => s.Canonical
  | _ => True

/-- What holds of both branches holds of the choice. -/
theorem ite_holds {α : Type} {P : α → Prop} {c : Prop} [Decidable c] {a b : α} (ha : P a) (hb : P b) :
    P (if c then a else b) :=
  iteInduction (fun _ => ha) fun _ => hb

namespace State.Canonical
theorem foldl {α : Type} {f : State → α → State} {l : List α} {s : State}
    (hf : ∀ (s : State) a, s.Canonical → (f s a).Canonical) (h : s.Canonical) : (l.foldl f s).Canonical :=
  State.wf_fold l f hf s h

theorem ite {c : Prop} [Decidable c] {t u : State} (ht : t.Canonical) (hu : u.Canonical) :
    (if c then t else u).Canonical :=
  ite_holds ht hu

theorem ite_fst {β : Type} {c : Prop} [Decidable c] {p q : State × β} (hp : p.1.Canonical) (hq : q.1.Canonical) :
    (if c then p else q).1.Canonical :=
  ite_holds (P := fun p : State × β => p.1.Canonical) hp hq

/-- A fold that carries something beside the state. -/
theorem foldl_fst {α β : Type} {f : State × β → α → State × β} {l : List α} {p : State × β}
    (hf : ∀ p a, p.1.Canonical → (f p a).1.Canonical) (h : p.1.Canonical) : (l.foldl f p).1.Canonical := by
  induction l generalizing p with
  | nil => exact h
  | cons a l ih => exact ih (hf p a h)

variable {t : State}

/-! What a state that a call answers keeps of the call. -/

theorem of_fst {α : Type} {p : State × α} {x : α} (e : p = (t, x)) (h : p.1.Canonical) : t.Canonical := by
  subst e; exact h

theorem of_mem (h : Memory.wf t.mem = true) : t.Canonical := h

theorem getD {m : Option State} (hm : MoveCanonical m) (h : t.Canonical) : (m.getD t).Canonical := by
  cases m with
  | none => exact h
  | some s => exact hm s rfl

theorem of_some {m : Option State} (e : m = some t) (h : MoveCanonical m) : t.Canonical := h t e

theorem of_done {r : Res} {f : Flow} (e : r = .done t f) (h : r.Canonical) : t.Canonical := by subst e; exact h

theorem of_hold {r : Res} (e : r = .hold t) (h : r.Canonical) : t.Canonical := by subst e; exact h

theorem of_served {m : Meet} (e : m = .served t) (h : m.Canonical) : t.Canonical := by subst e; exact h

theorem of_retry {m : Meet} (e : m = .retry t) (h : m.Canonical) : t.Canonical := by subst e; exact h

theorem of_taken {m : Filled} (e : m = .taken t) (h : m.Canonical) : t.Canonical := by subst e; exact h

theorem of_turned {m : Filled} (e : m = .turned t) (h : m.Canonical) : t.Canonical := by subst e; exact h

theorem of_spoilt {m : Filled} {line : Nat} (e : m = .spoilt t line) (h : m.Canonical) : t.Canonical := by
  subst e; exact h

theorem of_held {m : Meet} (e : m = .held t) (h : m.Canonical) : t.Canonical := by subst e; exact h
end State.Canonical

namespace MoveCanonical
theorem none : MoveCanonical none := fun _ e => nomatch e

theorem some {t : State} (h : t.Canonical) : MoveCanonical (some t) := fun _ e => Option.some.inj e ▸ h

theorem map {α : Type} {o : Option α} {f : α → State} (hf : ∀ x, (f x).Canonical) : MoveCanonical (o.map f) := by
  cases o with
  | none => exact .none
  | some x => exact .some (hf x)

theorem map_state {m : Option State} {f : State → State} (hf : ∀ s, s.Canonical → (f s).Canonical)
    (hm : MoveCanonical m) : MoveCanonical (m.map f) := by
  cases m with
  | none => exact .none
  | some s => exact .some (hf s (hm s rfl))

theorem bind {α : Type} {o : Option α} {f : α → Option State} (hf : ∀ x, MoveCanonical (f x)) :
    MoveCanonical (o.bind f) := by
  cases o with
  | none => exact .none
  | some x => exact hf x

theorem bind_state {m : Option State} {f : State → Option State} (hf : ∀ s, s.Canonical → MoveCanonical (f s))
    (hm : MoveCanonical m) : MoveCanonical (m.bind f) := by
  cases m with
  | none => exact .none
  | some s => exact hf s (hm s rfl)
end MoveCanonical

namespace OutcomeCanonical
theorem next {t : State} (h : t.Canonical) : OutcomeCanonical (.next t) := fun _ e => Host.Outcome.next.inj e ▸ h

theorem fault {r : Fault} : OutcomeCanonical (.fault r) := fun _ e => nomatch e

theorem refused {r : Refusal} : OutcomeCanonical (.refused r) := fun _ e => nomatch e

end OutcomeCanonical


/-- What an attempt answers or stops with holds of one of two predicates. -/
def ExceptHolds {ε α : Type} (E : ε → Prop) (A : α → Prop) : Except ε α → Prop
  | .error x => E x
  | .ok a => A a

namespace ExceptHolds
variable {ε α : Type} {E : ε → Prop} {A : α → Prop} {x : Except ε α}

theorem ok {a : α} (h : A a) : ExceptHolds E A (.ok a) := h

theorem error {y : ε} (h : E y) : ExceptHolds E A (.error y) := h

theorem of_ok {a : α} (e : x = .ok a) (h : ExceptHolds E A x) : A a := by subst e; exact h

theorem of_error {y : ε} (e : x = .error y) (h : ExceptHolds E A x) : E y := by subst e; exact h

theorem map {β : Type} {B : β → Prop} {f : α → β} (hf : ∀ a, A a → B (f a)) (h : ExceptHolds E A x) :
    ExceptHolds E B (x.map f) := by
  cases x with
  | error y => exact h
  | ok a => exact hf a h

theorem bind {β : Type} {B : β → Prop} {f : α → Except ε β} (hf : ∀ a, A a → ExceptHolds E B (f a))
    (h : ExceptHolds E A x) : ExceptHolds E B (x >>= f) := by
  cases x with
  | error y => exact h
  | ok a => exact hf a h
end ExceptHolds

section

variable {s : State}

/-! ### The state and its memory -/

theorem State.Canonical.modCore {c : Nat} {f : Core → Core} (h : s.Canonical) : (s.modCore c f).Canonical := h

theorem State.Canonical.modCtx {c : Nat} {f : Context → Context} (h : s.Canonical) : (s.modCtx c f).Canonical := h

theorem State.Canonical.harvests {c : Nat} {l : List (Nat × Nat)} (h : s.Canonical) : (s.harvests c l).Canonical :=
  .foldl (fun _ _ h => .ite h h) h

theorem State.Canonical.reuseTick (h : s.Canonical) : (s.reuseTick).Canonical := .foldl (fun _ _ h => h) h

theorem State.Canonical.l2Serve {line : Nat} (h : s.Canonical) : (s.l2Serve line).Canonical := by
  unfold State.Canonical
  rwa [State.mem_l2Serve]

theorem State.Canonical.writeSectors {c line : Nat} {mask : BitVec 4} {rec_ : BitVec 3} (h : s.Canonical) :
    (s.writeSectors c line mask rec_).Canonical :=
  State.wf_writeSectors _ _ _ _ _ h

theorem State.Canonical.writeBack {c line : Nat} {rec_ : BitVec 3} (h : s.Canonical) :
    (s.writeBack c line rec_).Canonical :=
  State.wf_writeBack _ _ _ _ h

theorem State.Canonical.recallLine {line : Nat} (h : s.Canonical) : (s.recallLine line).Canonical :=
  State.wf_recallLine _ _ h

theorem State.Canonical.recallRange {k n : Nat} (h : s.Canonical) : (s.recallRange k n).Canonical :=
  State.wf_recallRange _ _ _ h

theorem State.Canonical.dropHeld {line : Nat} {r : Nat × Nat} (h : s.Canonical) : (s.dropHeld line r).Canonical := by
  unfold State.dropHeld
  split
  · exact h
  · exact .ite h (.ite h h)

theorem State.Canonical.joinHeld {line : Nat} {p : Pin} {r : Nat × Nat} (h : s.Canonical) :
    (s.joinHeld line p r).Canonical :=
  .ite h h

theorem Meet.Canonical.meetPins {c : Nat} {r : Nat × Nat} {k n : Nat} (h : s.Canonical) :
    (s.meetPins c r k n).Canonical := by
  unfold State.meetPins
  dsimp only
  split
  · exact h
  · refine ite_holds (ite_holds trivial (.joinHeld h)) (ite_holds trivial ?_)
    exact ite_holds (.dropHeld h) (ite_holds (.joinHeld h) (.dropHeld h))

theorem State.Canonical.takePinned {c k n : Nat} (h : s.Canonical) : (s.takePinned c k n).Canonical :=
  .ite (.writeSectors h) h

theorem State.Canonical.sliceRead {k n : Nat} (h : s.Canonical) : (s.sliceRead k n).1.Canonical :=
  .foldl (fun _ _ h => .l2Serve h) (.recallRange h)

theorem State.Canonical.homeWrite {by_ : Option Nat} {k : Nat} {bs : List Byte} (h : s.Canonical) :
    (s.homeWrite by_ k bs).Canonical :=
  State.wf_homeWrite _ _ _ _ h

theorem State.Canonical.homeWord {k : Nat} {w : Word} (h : s.Canonical) : (s.homeWord k w).Canonical :=
  State.wf_homeWord _ _ _ h

theorem Meet.Canonical.readReach {c n : Nat} {r : Nat × Nat} {as : List Nat} (h : s.Canonical) :
    (s.readReach c r n as).Canonical := by
  induction as generalizing s with
  | nil => exact h
  | cons a as ih =>
    unfold State.readReach
    split
    · next t e =>
      have ht := State.Canonical.of_served e (.meetPins h)
      exact ite_holds trivial (ih (.l2Serve ht))
    · exact .meetPins h

theorem Meet.Canonical.tryWalk {k n : Nat} {reads : List Nat} (h : s.Canonical) :
    (s.tryWalk k reads n).Canonical := by
  unfold State.tryWalk
  refine ite_holds trivial ?_
  split
  · next t e =>
    have ht := State.Canonical.of_retry e (.readReach h)
    exact ht
  · exact .readReach h

theorem State.Canonical.agentTouch {k n : Nat} (h : s.Canonical) : (s.agentTouch k n).Canonical :=
  .foldl (fun _ _ h => .l2Serve h) (.recallRange h)

theorem State.Canonical.agentWalk {ctx va n : Nat} (h : s.Canonical) : (s.agentWalk ctx va n).Canonical := by
  induction n with
  | zero => exact h
  | succ n ih =>
    unfold State.agentWalk
    dsimp only
    split
    · exact .agentTouch ih
    · exact ih

theorem State.Canonical.eventPacket {ctx q : Nat} {tail : Word} (h : s.Canonical) :
    (s.eventPacket ctx q tail).Canonical :=
  .ite h h

theorem State.Canonical.pushRecord {ctx q desc : Nat} {ws : List Word} (h : s.Canonical) :
    (s.pushRecord ctx q desc ws).Canonical :=
  .eventPacket (.homeWord (.homeWrite h))

theorem State.Canonical.pushFault {ctx : Nat} {ws : List Word} (h : s.Canonical) : (s.pushFault ctx ws).Canonical :=
  .ite (.modCtx (.pushRecord h)) (.pushRecord h)

theorem State.Canonical.enqueueFault {ctx : Nat} {ws : List Word} (h : s.Canonical) :
    (s.enqueueFault ctx ws).Canonical :=
  .ite (.pushFault h) h

theorem State.Canonical.faultRecord {ctx : Nat} {r : FaultRecord} (h : s.Canonical) :
    (s.faultRecord ctx r).Canonical :=
  .enqueueFault h

theorem State.Canonical.demote {k : Nat} (h : s.Canonical) : (s.demote k).Canonical := by
  unfold State.demote
  split <;> exact h

theorem State.Canonical.leaveClass {k : Nat} {c : PClass} (h : s.Canonical) : (s.leaveClass k c).Canonical :=
  .ite (.demote h) h

theorem State.Canonical.setBarrier {team n : Nat} {b : Barrier} (h : s.Canonical) :
    (s.setBarrier team n b).Canonical := by
  unfold State.setBarrier
  split
  · exact h
  · exact .ite h h

theorem State.Canonical.checkBarrier {team n : Nat} (h : s.Canonical) : (s.checkBarrier team n).Canonical :=
  .ite (.setBarrier h) h

theorem State.Canonical.flushPending {k : Nat} (h : s.Canonical) : (s.flushPending k).Canonical := by
  unfold State.flushPending
  refine .foldl (fun _ _ h => ?_) h
  split
  · exact .faultRecord h
  · exact h

theorem State.Canonical.haltGroup {k : Nat} (h : s.Canonical) : (s.haltGroup k).Canonical :=
  .foldl (fun _ _ h => .checkBarrier (.setBarrier h)) (.demote h)

theorem State.Canonical.vector {k : Nat} {t : Trap} {pc : Addr} {word : Nat} {site : Site} (h : s.Canonical) :
    (s.vector k t pc word site).Canonical :=
  .ite (.haltGroup (.faultRecord (.flushPending h))) (.demote h)

theorem State.Canonical.takeFault {k : Nat} {t : Trap} {pc : Addr} {word : Nat} {site : Site} (h : s.Canonical) :
    (s.takeFault k t pc word site).Canonical :=
  .ite (.vector h) (.vector h)

theorem State.Canonical.raise {t : Trap} (h : s.Canonical) : (s.raise t).Canonical := .ite (.takeFault h) h

/-- What every instruction goes through: an effect that keeps the form, in a frame that keeps it. -/
theorem OutcomeCanonical.perform {i : Instr} {n : Info} {body : State → Res}
    (hbody : ∀ s, s.Canonical → (body s).Canonical) (h : s.Canonical) : OutcomeCanonical (perform i n body s) := by
  unfold Machine.perform
  refine ite_holds (.next h) ?_
  split
  · exact .next (.raise h)
  · refine ite_holds ?_ (.next h)
    split
    · next s' _ e =>
      have hs' := State.Canonical.of_done e (hbody _ h)
      exact .next hs'
    · exact .next (.raise h)
    · next s' e =>
      have hs' := State.Canonical.of_hold e (hbody _ h)
      exact .next hs'

theorem OutcomeCanonical.performG {i : Instr} {n : Info} {body : Group → Except Trap Eff} (h : s.Canonical) :
    OutcomeCanonical (performG i n body s) := by
  unfold Machine.performG
  refine .perform (fun _ h => ?_) h
  split
  · exact .harvests h
  · exact trivial

/-! ### How a grid ends -/

theorem State.Canonical.endGroup {k : Nat} (h : s.Canonical) : (s.endGroup k).Canonical :=
  .haltGroup (.flushPending h)

theorem State.Canonical.stopEnded {k : Nat} (h : s.Canonical) : (s.stopEnded k).Canonical := .ite (.endGroup h) h

theorem State.Canonical.endGrid {grid code va : Nat} (h : s.Canonical) : (s.endGrid grid code va).Canonical := by
  unfold State.endGrid
  split
  · exact h
  · exact .ite h (.faultRecord (.foldl (fun _ _ h => .ite (.endGroup h) h) h))

theorem State.Canonical.errorEnd {g va : Nat} (h : s.Canonical) : (s.errorEnd g va).Canonical := .endGrid h

theorem MoveCanonical.walkTurned {k va : Nat} {reads : List Nat} (h : s.Canonical) :
    MoveCanonical (s.walkTurned k va reads) := by
  unfold State.walkTurned
  split
  · exact .none
  · next t e => exact .some (.of_retry e (.tryWalk h))
  · next t e => exact .some (.of_held e (.tryWalk h))
  · exact .some h
  · exact .some (.endGroup (.errorEnd h))

theorem State.Canonical.walkMade {k : Nat} {reads : List Nat} (h : s.Canonical) : (s.walkMade k reads).Canonical := by
  unfold State.walkMade
  split
  · next t e => exact State.Canonical.of_served e (.tryWalk h)
  · exact h

/-! ### Fetching -/

theorem State.Canonical.fetchKey {k va : Nat} (h : s.Canonical) : (s.fetchKey k va).1.Canonical := by
  unfold State.fetchKey
  dsimp only
  split
  · exact h
  · split
    · next e =>
      have ht := State.Canonical.of_served e (.tryWalk h)
      split <;> exact ht
    · next e => exact .of_retry e (.tryWalk h)
    · next e => exact .of_held e (.tryWalk h)
    · exact h
    · dsimp only
      exact .endGroup (.errorEnd h)

theorem State.Canonical.loadPageFault {k : Nat} {fails : List (Nat × Nat)} {va : Nat} {lanes : LaneMask}
    (h : s.Canonical) : (s.loadPageFault k fails va lanes).Canonical :=
  .ite (.vector h) (.foldl_fst (fun _ _ h => .faultRecord h) h)

theorem State.Canonical.fetchFault {k : Nat} {t : Trap} (h : s.Canonical) : (s.fetchFault k t).Canonical := .vector h

theorem State.Canonical.deliverPending {k : Nat} {p : Pending} (h : s.Canonical) :
    (s.deliverPending k p).Canonical := by
  unfold State.deliverPending
  dsimp only
  split <;> exact .vector h

theorem State.Canonical.askCode {k : Nat} {va : Int} (h : s.Canonical) : (s.askCode k va).Canonical := .ite h h

theorem State.Canonical.takeHint {k : Nat} {c : Clause} (h : s.Canonical) : (s.takeHint k c).Canonical :=
  .ite h (.askCode h)

theorem MoveCanonical.beginClause {k : Nat} {c : Clause} (h : s.Canonical) : MoveCanonical (s.beginClause k c) :=
  ite_holds (ite_holds (.some (.fetchFault h)) .none) (ite_holds (.some (.takeHint h)) .none)

theorem MoveCanonical.fetchClause {k : Nat} (h : s.Canonical) : MoveCanonical (s.fetchClause k) := by
  unfold State.fetchClause
  have h' : (s.flit [coreOf k / 32]).Canonical := h
  have ht := h'.fetchKey (k := k) (va := (s.group k).pc.toNat)
  dsimp only
  split
  · exact ite_holds (.some (.fetchFault ht)) .none
  · exact ite_holds (.some (.loadPageFault ht)) .none
  · exact .some ht
  · exact .none
  · split
    · exact .some ht
    · refine ite_holds (.beginClause ht) (ite_holds ?_ ?_)
      · split
        · exact .some ht
        · split
          · next e => exact .some (.of_some e (.beginClause ht))
          · exact .some ht
      · have hu := ht.fetchKey (k := k) (va := ((s.group k).pc.toNat / 24576 + 1) * 24576)
        split
        · exact ite_holds (.some (.fetchFault hu)) .none
        · exact ite_holds (.some (.loadPageFault hu)) .none
        · exact .some hu
        · exact .none
        · split
          · exact .some hu
          · exact .some hu
          · split
            · next e => exact .some (.of_some e (.beginClause hu))
            · exact .some hu

theorem MoveCanonical.clauseStart {k : Nat} (h : s.Canonical) : MoveCanonical (s.clauseStart k) := by
  unfold State.clauseStart
  refine ite_holds .none ?_
  split
  · exact ite_holds (.some (.deliverPending h)) .none
  · split
    · exact .beginClause h
    · split
      · exact .some (.getD (.beginClause h) h)
      · exact .fetchClause h

theorem Filled.Canonical.fillBlock {k block : Nat} (h : s.Canonical) : (s.fillBlock k block).Canonical := by
  unfold State.fillBlock
  have hs := h.fetchKey (k := k) (va := block)
  dsimp only
  split
  · next key _ =>
    have hf := Meet.Canonical.tryWalk (k := k) (reads := [key / 64 * 64]) (n := 64) hs
    split
    · next e =>
      have ht := State.Canonical.of_served e hf
      exact ite_holds hs ht
    · next e => exact State.Canonical.of_retry e hf
    · next e => exact State.Canonical.of_held e hf
    · exact trivial
    · exact hs
  · exact hs
  · exact trivial
  · exact hs

theorem State.Canonical.codeError {k block line : Nat} (h : s.Canonical) : (s.codeError k block line).Canonical :=
  .endGroup (.errorEnd h)

theorem MoveCanonical.fillCode {k block : Nat} (h : s.Canonical) : MoveCanonical (s.fillCode k block) := by
  unfold State.fillCode
  split
  · next t eq =>
    have ht := State.Canonical.of_taken eq (.fillBlock h)
    exact .some ht
  · next t eq =>
    have ht := State.Canonical.of_turned eq (.fillBlock h)
    exact .some ht
  · exact .none
  · next t _ eq =>
    have ht := State.Canonical.of_spoilt eq (.fillBlock h)
    exact .some (.codeError ht)

theorem MoveCanonical.fillAsked {k block : Nat} (h : s.Canonical) : MoveCanonical (s.fillAsked k block) := by
  unfold State.fillAsked
  dsimp only
  split
  · next t eq =>
    have ht := State.Canonical.of_taken eq (.fillBlock h)
    exact .some ht
  · next t eq =>
    have ht := State.Canonical.of_turned eq (.fillBlock h)
    exact .some ht
  · exact .none
  · next t _ eq =>
    have ht := State.Canonical.of_spoilt eq (.fillBlock h)
    exact .some ht

/-! ### Checking and issuing an access -/

theorem MoveCanonical.baseTurned {k n : Nat} (h : s.Canonical) : MoveCanonical (s.baseTurned k n) :=
  ite_holds (.walkTurned h) .none

theorem State.Canonical.freshBase {k n : Nat} (h : s.Canonical) : (s.freshBase k n).Canonical := .ite (.walkMade h) h

theorem State.Canonical.agentWord {ctx va key : Nat} {w : Word} (h : s.Canonical) :
    (s.agentWord ctx va key w).Canonical :=
  .ite h (.homeWord h)

theorem State.Canonical.storeRecords {k : Nat} {site : Site} {ls : AMap (Nat × Nat × Nat)} (h : s.Canonical) :
    (s.storeRecords k site ls).Canonical :=
  .foldl (fun _ _ h => .faultRecord h) h

theorem State.Canonical.releaseL1 {c : Nat} {scope : BitVec 3} (h : s.Canonical) : (s.releaseL1 c scope).Canonical :=
  State.wf_releaseL1 _ _ _ h

theorem State.Canonical.acquireL1 {c : Nat} {scope : BitVec 3} (h : s.Canonical) : (s.acquireL1 c scope).Canonical :=
  .ite h h

theorem State.Canonical.unlock {k : Nat} (h : s.Canonical) : (s.unlock k).Canonical := .ite (.leaveClass h) h

theorem State.Canonical.putWrites {r : Req} {lanes : List LaneAcc} (h : s.Canonical) :
    (s.putWrites r lanes).Canonical :=
  .ite (.unlock h) h

theorem Res.Canonical.issueStore {r : Req} {lanes : List ReqLane} (h : s.Canonical) :
    (s.issueStore r lanes).Canonical := by
  unfold State.issueStore
  refine ite_holds h ?_
  refine ite_holds h ?_
  refine ite_holds h ?_
  refine ite_holds h ?_
  refine .foldl (fun _ _ h => h) ?_
  exact .storeRecords (.ite (.putWrites (.ite (.releaseL1 h) h)) (.putWrites (.ite (.releaseL1 h) h)))

theorem Res.Canonical.issueLoad {r : Req} {lanes : List ReqLane} {zeros helper : LaneMask} (h : s.Canonical) :
    (s.issueLoad r lanes zeros helper).Canonical := by
  unfold State.issueLoad
  refine ite_holds h ?_
  refine ite_holds h ?_
  refine ite_holds (ite_holds h (ite_holds h (.foldl (fun _ _ h => h) (.ite (.releaseL1 h) h)))) ?_
  dsimp only
  split
  · exact trivial
  · exact h

theorem Res.Canonical.issue {r : Req} {lanes : List ReqLane} {zeros : LaneMask} (h : s.Canonical) :
    (s.issue r lanes zeros).Canonical := by
  unfold State.issue
  refine ite_holds h ?_
  dsimp only
  split
  · split
    · exact trivial
    · exact ite_holds trivial (.loadPageFault h)
    · exact h
  · exact ite_holds (.issueLoad h) (.issueStore h)

theorem Res.Canonical.issueEmpty {kind : ResultKind} {counter : Option Nat} (h : s.Canonical) :
    (s.issueEmpty kind counter).Canonical := by
  unfold State.issueEmpty
  split <;> exact h

/-! ### Instructions on memory -/

theorem OutcomeCanonical.execBtset {n : BitVec 2} {a : BitVec 6} {perm : BitVec 2} (h : s.Canonical) :
    OutcomeCanonical (execBtset n a perm s) := by
  unfold Machine.execBtset
  refine .perform (fun _ h => ?_) h
  refine ite_holds trivial ?_
  dsimp only
  split
  · next t e => exact State.Canonical.of_some e (.walkTurned h)
  · exact .walkMade h

theorem Res.Canonical.issueWith {evs : List FlagEvent} {r : Req} {lanes : List ReqLane} {zeros : LaneMask}
    (h : s.Canonical) : (issueWith s evs r lanes zeros).Canonical := by
  unfold Machine.issueWith
  split
  · exact trivial
  · split
    · next s' _ e =>
      have hs' := State.Canonical.of_done e (.issue h)
      exact hs'
    · exact .issue h

theorem OutcomeCanonical.vecAccess {i : Instr} {n : Info} {r : Req} {turned : State → Option State}
    {refresh : State → State} {entries : State → Nat → List Entry} {evs : Group → List FlagEvent}
    (hturned : ∀ s, s.Canonical → MoveCanonical (turned s))
    (hrefresh : ∀ s, s.Canonical → (refresh s).Canonical) (h : s.Canonical) : OutcomeCanonical
    (vecAccess i n r turned refresh entries evs s) := by
  unfold Machine.vecAccess
  refine .perform (fun _ h => ?_) h
  refine ite_holds (.issueEmpty h) ?_
  split
  · next t e => exact State.Canonical.of_some e (hturned _ h)
  · exact .issueWith (hrefresh _ h)

theorem OutcomeCanonical.baseLoad {i : Instr} {n : Info} {d : BitVec 7} {t : BitVec 2} {look : BitVec 4}
    {z : BitVec 3} {x : MlExt} {add : Group → Nat → Int} {evs : Group → List FlagEvent} (h : s.Canonical) :
    OutcomeCanonical (baseLoad i n d t look z x add evs s) :=
  .vecAccess (fun _ h => .baseTurned h) (fun _ h => .freshBase h) h

theorem OutcomeCanonical.baseStore {i : Instr} {n : Info} {r : BitVec 7} {t : BitVec 2} {z : BitVec 3}
    {x : MlExt} {add : Group → Nat → Int} {evs : Group → List FlagEvent} (h : s.Canonical) : OutcomeCanonical
    (baseStore i n r t z x add evs s) :=
  .vecAccess (fun _ h => .baseTurned h) (fun _ h => .freshBase h) h

theorem OutcomeCanonical.privLoad {i : Instr} {d o : BitVec 7} {look : BitVec 4} {z : BitVec 3} {x : MlExt}
    (h : s.Canonical) : OutcomeCanonical (privLoad i d o look z x s) :=
  .vecAccess (fun _ _ => .none) (fun _ h => h) h

theorem OutcomeCanonical.privStore {i : Instr} {r o : BitVec 7} {z : BitVec 3} {x : MlExt} (h : s.Canonical) :
    OutcomeCanonical (privStore i r o z x s) :=
  .vecAccess (fun _ _ => .none) (fun _ h => h) h

theorem State.Canonical.prefetch {t : BitVec 2} {o : BitVec 7} {x : MlExt} (h : s.Canonical) :
    (prefetch t o x s).Canonical :=
  .ite (.ite h (.freshBase h)) (.ite h (.freshBase h))

theorem MoveCanonical.spRelease {order : BitVec 2} {scope : BitVec 3} (h : s.Canonical) :
    MoveCanonical (s.spRelease order scope) :=
  ite_holds (ite_holds (.some (.releaseL1 h)) .none) (.some h)

theorem State.Canonical.spAcquire {order : BitVec 2} {scope : BitVec 3} (h : s.Canonical) :
    (s.spAcquire order scope).Canonical :=
  .ite (.acquireL1 h) h

theorem State.Canonical.spFlit {remote : Option Nat} (h : s.Canonical) : (s.spFlit remote).Canonical := .ite h h

theorem OutcomeCanonical.spLoad {i : Instr} {d o : BitVec 7} {remote : Option Nat} {look : BitVec 4}
    {z : BitVec 3} {x : MlExt} (h : s.Canonical) : OutcomeCanonical (spLoad i d o remote look z x s) := by
  unfold Machine.spLoad
  refine .perform (fun _ h => ?_) h
  refine ite_holds (.issueEmpty h) ?_
  dsimp only
  split
  · exact trivial
  · exact ite_holds h (.spAcquire (.spFlit h))

theorem OutcomeCanonical.spStore {i : Instr} {r o : BitVec 7} {remote : Option Nat} {z : BitVec 3} {x : MlExt}
    (h : s.Canonical) : OutcomeCanonical (spStore i r o remote z x s) := by
  unfold Machine.spStore
  refine .perform (fun _ h => ?_) h
  refine ite_holds (.issueEmpty h) ?_
  dsimp only
  split
  · exact trivial
  · split
    · exact h
    · next t e =>
      have ht := State.Canonical.of_some e (.spRelease h)
      exact ht

/-! ### Scalar instructions -/

theorem OutcomeCanonical.scalar2 {i : Instr} {d a b : BitVec 6} {ea eb : BitVec 4} {f : Word → Word → Word}
    {tag : Group → BitVec 4} (h : s.Canonical) : OutcomeCanonical (scalar2 i d a b ea eb f tag s) :=
  .performG h

theorem OutcomeCanonical.scalar1 {i : Instr} {d a : BitVec 6} {f : Word → Word} {tag : Group → BitVec 4}
    (h : s.Canonical) : OutcomeCanonical (scalar1 i d a f tag s) :=
  .performG h

/-! ### Vector integer instructions -/

theorem OutcomeCanonical.vecRun {i : Instr} {n : Info} {d : Nat} {tag : Group → BitVec 4}
    {lane : Group → Nat → Word × Flags} {shared : Group → Flags} {count : Option (Nat × Nat)} (h : s.Canonical) :
    OutcomeCanonical (vecRun i n d tag lane shared count s) :=
  .performG h

theorem OutcomeCanonical.vecLate {i : Instr} {n : Info} {d : Nat} {tag : Group → BitVec 4}
    {lane : Group → Nat → Word × Flags} {shared : Group → Flags} {count : Option (Nat × Nat)} (h : s.Canonical) :
    OutcomeCanonical (vecLate i n d tag lane shared count s) := by
  unfold Machine.vecLate
  refine .perform (fun _ h => ?_) h
  refine ite_holds h ?_
  dsimp only
  split
  · exact h
  · exact trivial

theorem OutcomeCanonical.vec2 {i : Instr} {d a : BitVec 7} {b : Src} {ea eb tag : BitVec 4}
    {f : Group → Word → Word → Word × Flags} {count : Option (Nat × Nat)} (h : s.Canonical) : OutcomeCanonical
    (vec2 i d a b ea eb tag f count s) :=
  .vecRun h

theorem OutcomeCanonical.vec1 {i : Instr} {d a : BitVec 7} {ea tag : BitVec 4}
    {f : Group → Word → Word × Flags} {count : Option (Nat × Nat)} (h : s.Canonical) : OutcomeCanonical
    (vec1 i d a ea tag f count s) :=
  .vecRun h

theorem OutcomeCanonical.vint2 {i : Instr} {d a : BitVec 7} {b : Src} {e tag : BitVec 4}
    {f : Word → Word → Word} (h : s.Canonical) : OutcomeCanonical (vint2 i d a b e tag f s) :=
  .vec2 h

theorem OutcomeCanonical.cmpRun {i : Instr} {n : Info} {d : BitVec 6} {lane : Group → Nat → Bool × Flags}
    {shared : Group → Flags} {count : Option (Nat × Nat)} (h : s.Canonical) : OutcomeCanonical
    (cmpRun i n d lane shared count s) :=
  .performG h

/-! ### Vector floating point -/

theorem OutcomeCanonical.fpArith {i : Instr} {d a : BitVec 7} {b : Src}
    {f : RMode → FpVal → FpVal → Nat × Flags} {rm : BitVec 3} (h : s.Canonical) : OutcomeCanonical
    (fpArith i d a b f rm s) :=
  .vec2 h

theorem OutcomeCanonical.halfArith {i : Instr} {d a : BitVec 7} {b : Src} {ty : BitVec 4} {rm : BitVec 3}
    {f : Fmt → RMode → FpVal → FpVal → Nat × Flags} (h : s.Canonical) : OutcomeCanonical
    (halfArith i d a b ty rm f s) :=
  .vec2 h

theorem OutcomeCanonical.longFp1 {i : Instr} {d a : BitVec 7} {look : BitVec 4}
    {f : Group → Word → Word × Flags} (h : s.Canonical) : OutcomeCanonical (longFp1 i d a look f s) :=
  .vecLate h

/-! ### Messages and synchronisation -/

theorem OutcomeCanonical.execSatom {d a b c : BitVec 6} {f : AtomFields} {lock nr : BitVec 1} {look : BitVec 4}
    (h : s.Canonical) : OutcomeCanonical (execSatom d a b c f lock nr look s) := by
  unfold Machine.execSatom
  exact .perform (fun _ h => .issue h) h

theorem State.Canonical.spAtomLanes {f : AtomFields} {core : Nat} {ops : Nat → Word × Word} {s : State}
    {ls : List (Nat × LaneRes)} (h : s.Canonical) : (spAtomLanes f core ops s ls).1.Canonical := by
  induction ls generalizing s with
  | nil => exact h
  | cons l ls ih =>
    change (match l.2.key with | none => _ | some _ => _ : State × AMap Word).1.Canonical
    split
    · exact ih h
    · refine ih ?_
      split <;> exact h

theorem OutcomeCanonical.execSpatom {d a : BitVec 7} {b : Src} {c : BitVec 7} {x : BitVec 1} {n : BitVec 2}
    {f : AtomFields} {nr : BitVec 1} {look : BitVec 4} (h : s.Canonical) : OutcomeCanonical
    (execSpatom d a b c x n f nr look s) := by
  unfold Machine.execSpatom
  refine .perform (fun _ h => ?_) h
  refine ite_holds (.issueEmpty h) ?_
  dsimp only
  split
  · exact trivial
  · refine ite_holds h ?_
    split
    · exact h
    · next t eq =>
      have ht := State.Canonical.of_some eq (.spRelease h)
      exact .ite (.spAcquire (.spAtomLanes (.spFlit ht))) (.spAcquire (.spAtomLanes (.spFlit ht)))

theorem OutcomeCanonical.execFence {order : BitVec 2} {scope : BitVec 3} (h : s.Canonical) :
    OutcomeCanonical (execFence order scope s) := by
  unfold Machine.execFence
  refine .perform (fun _ h => ?_) h
  exact ite_holds (ite_holds (.ite (.acquireL1 (.releaseL1 h)) (.releaseL1 h)) h) (ite_holds (.acquireL1 h) h)

theorem OutcomeCanonical.execMsend {q : BitVec 3} {a b : BitVec 6} {k : BitVec 3} {order : BitVec 2}
    {scope : BitVec 3} (h : s.Canonical) : OutcomeCanonical (execMsend q a b k order scope s) := by
  unfold Machine.execMsend
  refine .perform (fun _ h => ?_) h
  refine ite_holds trivial ?_
  refine ite_holds h ?_
  split
  · exact h
  · next t e =>
    have ht := State.Canonical.of_some e (.spRelease h)
    exact ht

theorem OutcomeCanonical.execMrecv {d : BitVec 6} {q : BitVec 3} {poll : BitVec 1} {order : BitVec 2}
    {scope : BitVec 3} {look : BitVec 4} (h : s.Canonical) : OutcomeCanonical
    (execMrecv d q poll order scope look s) := by
  unfold Machine.execMrecv
  refine .perform (fun _ h => ?_) h
  dsimp only
  split
  · exact .ite (.spAcquire h) (.spAcquire h)
  · split
    · exact ite_holds h (.ite (.spAcquire h) (.spAcquire h))
    · exact ite_holds h (.demote h)

theorem Res.Canonical.waitDone {d : BitVec 6} {order : BitVec 2} {scope : BitVec 3} {v : Word} (h : s.Canonical) :
    (waitDone d order scope v s).Canonical :=
  .spAcquire h

theorem OutcomeCanonical.execWaitw {d a b c : BitVec 6} {order : BitVec 2} {scope : BitVec 3} (h : s.Canonical) :
    OutcomeCanonical (execWaitw d a b c order scope s) := by
  unfold Machine.execWaitw
  refine .perform (fun _ h => ?_) h
  dsimp only
  split
  · exact h
  · exact ite_holds (.waitDone h) (ite_holds (.waitDone h) (ite_holds (.waitDone h) (ite_holds h (.demote h))))
  · split
    · next s' _ e =>
      have hs' := State.Canonical.of_done e (.issue h)
      exact hs'
    · exact .issue h

/-! ### Barriers -/

theorem State.Canonical.arrive {k n : Nat} (h : s.Canonical) : (s.arrive k n).Canonical :=
  .checkBarrier (.ite (.leaveClass (.setBarrier (.ite h h))) (.setBarrier (.ite h h)))

theorem Res.Canonical.waitBarrier {n : Nat} (h : s.Canonical) : (waitBarrier s n).Canonical := .leaveClass h

theorem Res.Canonical.barrierDone {n : Nat} (h : s.Canonical) : (barrierDone s n).Canonical := .ite (.acquireL1 h) h

theorem ExceptHolds.tryArrive {n : Nat} (h : s.Canonical) :
    ExceptHolds State.Canonical State.Canonical (tryArrive s n) :=
  ite_holds h (ite_holds h (ite_holds (.arrive (.releaseL1 h)) h))

theorem OutcomeCanonical.execBara {n : BitVec 6} (h : s.Canonical) : OutcomeCanonical (execBara n s) := by
  unfold Machine.execBara
  refine .perform (fun _ h => ?_) h
  split
  · next t e =>
    have ht := ExceptHolds.of_ok e (.tryArrive h)
    exact ht
  · next t e =>
    have ht := ExceptHolds.of_error e (.tryArrive h)
    exact ht

theorem OutcomeCanonical.execBaraw {n : BitVec 6} (h : s.Canonical) : OutcomeCanonical (execBaraw n s) := by
  unfold Machine.execBaraw
  refine .perform (fun _ h => ?_) h
  refine ite_holds (ite_holds (.barrierDone h) (.waitBarrier h)) ?_
  split
  · next t e =>
    have ht := ExceptHolds.of_ok e (.tryArrive h)
    exact .waitBarrier ht
  · next t e =>
    have ht := ExceptHolds.of_error e (.tryArrive h)
    exact .ite ht (.leaveClass ht)

/-! ### Pairs and quads -/

theorem OutcomeCanonical.pairRun {i : Instr} {n : Info} {d : BitVec 7} {lane : Group → Nat → PairRes}
    {shared : Group → Flags} (h : s.Canonical) : OutcomeCanonical (pairRun i n d lane shared s) :=
  .performG h

theorem OutcomeCanonical.pairLate {i : Instr} {n : Info} {d : BitVec 7} {lane : Group → Nat → PairRes}
    {shared : Group → Flags} (h : s.Canonical) : OutcomeCanonical (pairLate i n d lane shared s) := by
  unfold Machine.pairLate
  refine .perform (fun _ h => ?_) h
  refine ite_holds h ?_
  dsimp only
  split
  · exact h
  · exact trivial

theorem OutcomeCanonical.primitive {i : Instr} {d a : BitVec 7} {b : Src} {f : Word → Word → PairRes}
    (h : s.Canonical) : OutcomeCanonical (primitive i d a b f s) :=
  .pairRun h

theorem OutcomeCanonical.execDwcvt {d a : BitVec 7} {fromPair : BitVec 1} {ty : BitVec 4} {rm : BitVec 3}
    (h : s.Canonical) : OutcomeCanonical (execDwcvt d a fromPair ty rm s) :=
  ite_holds (.vecRun h) (.pairRun h)

theorem Res.Canonical.lateWrites {evs : List FlagEvent} {writes : List RegWrite} {counts : List (Nat × Nat)}
    (h : s.Canonical) : (lateWrites s evs writes counts).Canonical := by
  unfold Machine.lateWrites
  dsimp only
  split
  · exact h
  · exact trivial

theorem OutcomeCanonical.execCreduce {d : BitVec 6} {a : BitVec 7} {c : BitVec 6} {single : BitVec 1}
    {look : BitVec 4} (h : s.Canonical) : OutcomeCanonical (execCreduce d a c single look s) := by
  unfold Machine.execCreduce
  exact .perform (fun _ h => ite_holds h (.lateWrites h)) h

theorem OutcomeCanonical.execCredseg {d a : BitVec 7} {c : BitVec 6} {single : BitVec 1} {look : BitVec 4}
    (h : s.Canonical) : OutcomeCanonical (execCredseg d a c single look s) := by
  unfold Machine.execCredseg
  exact .perform (fun _ h => ite_holds h (.lateWrites h)) h

/-! ### Collectives -/

theorem OutcomeCanonical.quadMove {i : Instr} {d a : BitVec 7} {src : Nat → Nat} (h : s.Canonical) :
    OutcomeCanonical (quadMove i d a src s) :=
  .vecRun h

/-! ### Control transfers -/

theorem OutcomeCanonical.mask2 {i : Instr} {d a b : BitVec 6} {f : LaneMask → LaneMask → LaneMask} (h : s.Canonical) :
    OutcomeCanonical (mask2 i d a b f s) :=
  .performG h

theorem OutcomeCanonical.execBr {u : BitVec 1} {cond : BitVec 4} {sc : BitVec 6} {disp : BitVec 15}
    (h : s.Canonical) : OutcomeCanonical (execBr u cond sc disp s) := by
  unfold Machine.execBr
  exact .performG h

theorem OutcomeCanonical.execHalt (h : s.Canonical) : OutcomeCanonical (execHalt s) := by
  unfold Machine.execHalt
  refine .perform (fun _ h => ?_) h
  dsimp only
  split
  · exact ite_holds (.demote h) (.haltGroup h)
  · refine ite_holds (ite_holds (.demote (.flushPending h)) (.haltGroup (.flushPending h))) ?_
    refine ite_holds ?_ h
    split <;> exact .vector h

theorem OutcomeCanonical.execYield {sc : BitVec 6} {disp : BitVec 15} (h : s.Canonical) :
    OutcomeCanonical (execYield sc disp s) := by
  unfold Machine.execYield
  refine .perform (fun _ h => ?_) h
  refine ite_holds trivial ?_
  split
  · exact trivial
  · exact ite_holds (.demote (.leaveClass h)) h

/-! ### Engine commands -/

theorem ExceptHolds.issueCmd {r : CmdReq} {tdest : BitVec 6} (h : s.Canonical) :
    ExceptHolds State.Canonical State.Canonical (s.issueCmd r tdest) := by
  unfold State.issueCmd
  dsimp only
  refine ite_holds h ?_
  split <;> exact .foldl (fun _ _ h => h) h

theorem Res.Canonical.issueChecked {tdest : BitVec 6} {acq : Bool} {flow : Flow} {plan : Except Trap CmdReq}
    (h : s.Canonical) : (issueChecked tdest acq flow s plan).Canonical := by
  unfold Machine.issueChecked
  split
  · exact trivial
  · split
    · next t e =>
      have ht := ExceptHolds.of_error e (.issueCmd h)
      exact ht
    · next t e =>
      have ht := ExceptHolds.of_ok e (.issueCmd h)
      exact .ite (.acquireL1 ht) ht

theorem Res.Canonical.cpyBody {sbase tdest : BitVec 6} {cont acq : BitVec 1} (h : s.Canonical) :
    (cpyBody sbase tdest cont acq s).Canonical := by
  unfold Machine.cpyBody
  refine ite_holds ?_ (.issueChecked h)
  split
  · next t _ e => exact .demote (.leaveClass (.of_done e (.issueChecked h)))
  · exact .issueChecked h

theorem OutcomeCanonical.execCpy {sbase tdest : BitVec 6} {cont acq : BitVec 1} (h : s.Canonical) :
    OutcomeCanonical (execCpy sbase tdest cont acq s) :=
  .perform (fun _ h => .cpyBody h) h

theorem Res.Canonical.matBody {kind : CmdKind} {sbase tdest : BitVec 6} {acc : BitVec 1} (h : s.Canonical) :
    (matBody kind sbase tdest acc s).Canonical :=
  .issueChecked h

theorem OutcomeCanonical.execMma {sbase tdest : BitVec 6} {acc : BitVec 1} (h : s.Canonical) :
    OutcomeCanonical (execMma sbase tdest acc s) :=
  .perform (fun _ h => .matBody h) h

theorem OutcomeCanonical.execMmas {sbase tdest : BitVec 6} {acc : BitVec 1} (h : s.Canonical) :
    OutcomeCanonical (execMmas sbase tdest acc s) :=
  .perform (fun _ h => .matBody h) h

theorem OutcomeCanonical.execMmag {sbase tdest : BitVec 6} {acc : BitVec 1} (h : s.Canonical) :
    OutcomeCanonical (execMmag sbase tdest acc s) :=
  .perform (fun _ h => .matBody h) h

theorem Res.Canonical.gathBody {sbase tdest : BitVec 6} {acq resume : BitVec 1} (h : s.Canonical) :
    (gathBody sbase tdest acq resume s).Canonical :=
  .issueChecked h

theorem Res.Canonical.scatBody {sbase tdest : BitVec 6} {resume : BitVec 1} (h : s.Canonical) :
    (scatBody sbase tdest resume s).Canonical :=
  .issueChecked h

theorem OutcomeCanonical.execGath {sbase tdest : BitVec 6} {acq resume : BitVec 1} (h : s.Canonical) :
    OutcomeCanonical (execGath sbase tdest acq resume s) :=
  .perform (fun _ h => .gathBody h) h

theorem OutcomeCanonical.execScat {sbase tdest : BitVec 6} {resume : BitVec 1} (h : s.Canonical) :
    OutcomeCanonical (execScat sbase tdest resume s) :=
  .perform (fun _ h => .scatBody h) h

theorem Res.Canonical.probeBody {sbase tdest : BitVec 6} {bf16 sp acq : BitVec 1} (h : s.Canonical) :
    (probeBody sbase tdest bf16 sp acq s).Canonical :=
  .issueChecked h

theorem OutcomeCanonical.execScprobe {sbase tdest : BitVec 6} {bf16 sp acq : BitVec 1} (h : s.Canonical) :
    OutcomeCanonical (execScprobe sbase tdest bf16 sp acq s) :=
  .perform (fun _ h => .probeBody h) h

theorem Res.Canonical.saveBody {sbase tdest : BitVec 6} (h : s.Canonical) : (saveBody sbase tdest s).Canonical := by
  unfold Machine.saveBody
  split
  · next t _ e =>
    have ht := State.Canonical.of_done e (.issueChecked h)
    exact ht
  · exact .issueChecked h

theorem OutcomeCanonical.execScsave {sbase tdest : BitVec 6} (h : s.Canonical) :
    OutcomeCanonical (execScsave sbase tdest s) :=
  .perform (fun _ h => .saveBody h) h

theorem Res.Canonical.nredxBody {sbase tdest : BitVec 6} {scope : BitVec 3} (h : s.Canonical) :
    (nredxBody sbase tdest scope s).Canonical :=
  .issueChecked h

theorem OutcomeCanonical.execNredx {sbase tdest : BitVec 6} {scope : BitVec 3} (h : s.Canonical) :
    OutcomeCanonical (execNredx sbase tdest scope s) :=
  .perform (fun _ h => .nredxBody h) h

theorem OutcomeCanonical.resumeCommand {k : Nat} {i : Instr} {o : Host.Outcome State Fault Refusal}
    (h : s.Canonical) (e : s.resumeCommand k i = some o) : OutcomeCanonical o := by
  unfold State.resumeCommand at e
  split at e <;> cases e
  · exact .execCpy h
  · exact .execMma h
  · exact .execMmas h
  · exact .execMmag h
  · exact .execGath h
  · exact .execScat h
  · exact .execScprobe h
  · exact .execScsave h
  · exact .execNredx h

/-! ### System instructions -/

theorem OutcomeCanonical.execSrd {d : BitVec 6} {r : BitVec 12} (h : s.Canonical) :
    OutcomeCanonical (execSrd d r s) := by
  unfold Machine.execSrd
  exact .perform (fun _ h => ite_holds h (ite_holds h h)) h

theorem State.Canonical.sysWrite {n : Nat} {w : Word} (h : s.Canonical) : (sysWrite s n w).Canonical := by
  unfold Machine.sysWrite
  dsimp only
  split <;> exact h

theorem OutcomeCanonical.execSwr {d : BitVec 6} {r : BitVec 12} (h : s.Canonical) :
    OutcomeCanonical (execSwr d r s) := by
  unfold Machine.execSwr
  exact .perform (fun _ h => ite_holds trivial (.sysWrite h)) h

theorem State.Canonical.commitAgent {ctx agent core slot : Nat} (h : s.Canonical) :
    (s.commitAgent ctx agent core slot).Canonical :=
  .ite h h

theorem OutcomeCanonical.trapWith {i : Instr} {cause : Nat} {n : BitVec 18} (h : s.Canonical) :
    OutcomeCanonical (trapWith i cause n s) :=
  .perform (fun _ _ => trivial) h

theorem OutcomeCanonical.execTsave {r : BitVec 7} {k : BitVec 4} (h : s.Canonical) :
    OutcomeCanonical (execTsave r k s) := by
  unfold Machine.execTsave
  refine .perform (fun _ h => ?_) h
  dsimp only
  split
  · next s' _ e =>
    have hs' := State.Canonical.of_done e (.issue h)
    exact hs'
  · exact .issue h

theorem State.Canonical.startPreempt {ctx limit : Nat} (h : s.Canonical) : (s.startPreempt ctx limit).Canonical :=
  .foldl (fun _ _ h => h) h

theorem State.Canonical.stopPreempt {ctx : Nat} (h : s.Canonical) : (s.stopPreempt ctx).Canonical :=
  .foldl (fun _ _ h => h) h

theorem State.Canonical.requestSave {issuer target addr : Nat} (h : s.Canonical) :
    (s.requestSave issuer target addr).Canonical := by
  unfold State.requestSave
  dsimp only
  split
  · exact h
  · exact .ite (.startPreempt h) h

theorem State.Canonical.requestLoad {issuer target addr : Nat} (h : s.Canonical) :
    (s.requestLoad issuer target addr).Canonical := by
  unfold State.requestLoad
  dsimp only
  split
  · exact h
  · exact .ite h (.stopPreempt h)

theorem OutcomeCanonical.ctxRequest {i : Instr} {c a : BitVec 6} {f : State → Nat → Nat → Nat → State}
    (hf : ∀ s x1 x2 x3, s.Canonical → (f s x1 x2 x3).Canonical) (h : s.Canonical) : OutcomeCanonical
    (ctxRequest i c a f s) :=
  .perform (fun _ h => hf _ _ _ _ h) h

theorem State.Canonical.stopTrial {ctx : Nat} (h : s.Canonical) : (s.stopTrial ctx).Canonical := by
  unfold State.stopTrial
  dsimp only
  split
  · exact h
  · exact .foldl (fun _ _ h => h) h

theorem OutcomeCanonical.execProgress {k : BitVec 3} (h : s.Canonical) : OutcomeCanonical (execProgress k s) := by
  unfold Machine.execProgress
  refine .perform (fun _ h => ?_) h
  refine ite_holds h ?_
  split
  · exact .ite (.stopTrial h) h
  · exact h

/-! ### The work of the engines -/

theorem ExceptHolds.key {e : Eng} {c : Cmd} {va : Int} {n : Nat} {write : Bool} (h : e.s.Canonical) :
    ExceptHolds Stop.Canonical (fun p => p.2.Canonical) (e.key c va n write) := by
  unfold Eng.key
  refine ite_holds trivial ?_
  refine ite_holds trivial ?_
  split
  · next t e => exact State.Canonical.of_retry e (.readReach h)
  · next t e => exact State.Canonical.of_held e (.readReach h)
  · exact trivial
  · exact trivial
  · next t e =>
    have ht := State.Canonical.of_served e (.readReach h)
    split
    · exact trivial
    · exact trivial
    · exact ite_holds ht trivial

theorem ExceptHolds.ask {e : Eng} {va key : Nat} {op : PeerOp} (h : e.s.Canonical) :
    ExceptHolds Stop.Canonical (fun p => p.2.s.Canonical) (e.ask va key op) := by
  unfold Eng.ask
  split
  · exact trivial
  · exact trivial
  · exact h

theorem ExceptHolds.reach {e : Eng} {c : Cmd} {va key n : Nat} (h : e.s.Canonical) :
    ExceptHolds Stop.Canonical State.Canonical (e.reach c va key n) := by
  unfold Eng.reach
  refine ite_holds trivial ?_
  split
  · next t e =>
    have ht := State.Canonical.of_retry e (.meetPins h)
    exact ht
  · next t e =>
    have ht := State.Canonical.of_held e (.meetPins h)
    exact ht
  · next t e =>
    have ht := State.Canonical.of_served e (.meetPins h)
    exact .takePinned ht
  · exact trivial

theorem ExceptHolds.read {e : Eng} {c : Cmd} {va : Int} {n : Nat} (h : e.s.Canonical) :
    ExceptHolds Stop.Canonical (fun p => p.2.s.Canonical) (e.read c va n) := by
  unfold Eng.read
  split
  · next e => exact .error (ExceptHolds.of_error e (.key h))
  · next _ t e =>
    have ht := ExceptHolds.of_ok e (.key h)
    split
    · next e1 => exact .error (ExceptHolds.of_error e1 (.reach ht))
    · next t' e1 =>
      have ht' := ExceptHolds.of_ok e1 (.reach ht)
      exact ite_holds (.ask ht') (ite_holds trivial (.sliceRead ht'))

theorem ExceptHolds.write {e : Eng} {c : Cmd} {va : Int} {bs : List Byte} (h : e.s.Canonical) :
    ExceptHolds Stop.Canonical (fun p => p.s.Canonical) (e.write c va bs) := by
  unfold Eng.write
  split
  · next e => exact .error (ExceptHolds.of_error e (.key h))
  · next _ t e =>
    have ht := ExceptHolds.of_ok e (.key h)
    refine ite_holds trivial ?_
    split
    · next e1 => exact .error (ExceptHolds.of_error e1 (.reach ht))
    · next t' e1 =>
      have ht' := ExceptHolds.of_ok e1 (.reach ht)
      exact ite_holds (.map (fun _ h => h) (.ask ht')) (.homeWrite ht')

theorem ExceptHolds.readWords {e : Eng} {c : Cmd} {va n : Nat} (h : e.s.Canonical) :
    ExceptHolds Stop.Canonical (fun p => p.2.s.Canonical) (e.readWords c va n) := by
  induction n generalizing e va with
  | zero => exact h
  | succ n ih =>
    unfold Eng.readWords
    split
    · next eq => exact .error (ExceptHolds.of_error eq (.read h))
    · next eq =>
      have h1 := ExceptHolds.of_ok eq (.read h)
      split
      · next eq1 => exact .error (ExceptHolds.of_error eq1 (ih h1))
      · next eq1 =>
        have h2 := ExceptHolds.of_ok eq1 (ih h1)
        exact .ok h2

theorem ExceptHolds.writeWords {e : Eng} {c : Cmd} {va : Nat} {ws : List Word} (h : e.s.Canonical) :
    ExceptHolds Stop.Canonical (fun e => e.s.Canonical) (e.writeWords c va ws) := by
  induction ws generalizing e va with
  | nil => exact h
  | cons w ws ih =>
    unfold Eng.writeWords
    split
    · next eq => exact .error (ExceptHolds.of_error eq (.write h))
    · next eq =>
      have h1 := ExceptHolds.of_ok eq (.write h)
      exact ih h1

theorem State.Canonical.cmdWrite {c : Cmd} {o : Nat} {bs : List Byte} (h : s.Canonical) :
    (s.cmdWrite c o bs).Canonical := by
  unfold State.cmdWrite
  split <;> exact h

theorem ExceptHolds.sideTeam {c : Cmd} {d : CopySide} {a : Int} {z : Nat} :
    ExceptHolds Stop.Canonical (fun _ => True) (sideTeam s c d a z) := by
  unfold Machine.sideTeam
  split
  · exact trivial
  · exact ite_holds trivial (ite_holds trivial trivial)

theorem ExceptHolds.readSide {e : Eng} {c : Cmd} {d : CopySide} {a : Int} {z : Nat} (h : e.s.Canonical) :
    ExceptHolds Stop.Canonical (fun p => p.2.s.Canonical) (e.readSide c d a z) := by
  unfold Eng.readSide
  refine ite_holds (.read h) ?_
  split
  · next eq => exact .error (ExceptHolds.of_error eq .sideTeam)
  · exact .ok h

theorem ExceptHolds.writeSide {e : Eng} {c : Cmd} {d : CopySide} {a : Int} {bs : List Byte} (h : e.s.Canonical) :
    ExceptHolds Stop.Canonical (fun p => p.s.Canonical) (e.writeSide c d a bs) := by
  unfold Eng.writeSide
  refine ite_holds (.write h) ?_
  split
  · next eq => exact .error (ExceptHolds.of_error eq .sideTeam)
  · exact .ok h

theorem ExceptHolds.copyStep {e : Eng} {c : Cmd} (h : e.s.Canonical) :
    ExceptHolds Stop.Canonical (fun p => p.1.s.Canonical) (copyStep e c) := by
  unfold Machine.copyStep
  dsimp only
  split
  · next eq => exact .error (ExceptHolds.of_error eq (.readSide h))
  · next _ e eq =>
    have he := ExceptHolds.of_ok eq (.readSide h)
    split
    · next eq1 => exact .error (ExceptHolds.of_error eq1 (.writeSide he))
    · next e' eq1 =>
      have he' := ExceptHolds.of_ok eq1 (.writeSide he)
      exact .ok he'

theorem State.Canonical.countRegion {c : Cmd} {pair n : Nat} (h : s.Canonical) :
    (s.countRegion c pair n).Canonical := by
  unfold State.countRegion
  split <;> exact h

theorem State.Canonical.tileWrite {c : Cmd} {m : MatBlock} {l : List ((Nat × Nat) × Word)} (h : s.Canonical) :
    (s.tileWrite c m l).Canonical :=
  .foldl (fun _ _ h => .cmdWrite h) h

theorem State.Canonical.matStep {c : Cmd} (h : s.Canonical) : (s.matStep c).1.Canonical :=
  have hc := .ite (.harvests h) (.countRegion (.harvests h))
  .ite_fst (.tileWrite hc) hc

theorem State.Canonical.gatherStart {e : Eng} {c : Cmd} (h : e.s.Canonical) : (gatherStart e c).1.s.Canonical := by
  unfold Machine.gatherStart
  split
  · exact h
  · exact .cmdWrite h

theorem State.Canonical.gatherMark {e : Eng} {c : Cmd} {i : Nat} (h : e.s.Canonical) :
    (gatherMark e c i).1.s.Canonical :=
  .cmdWrite h

theorem ExceptHolds.gatherStep {e : Eng} {c : Cmd} (h : e.s.Canonical) :
    ExceptHolds Stop.Canonical (fun p => p.1.s.Canonical) (gatherStep e c) := by
  unfold Machine.gatherStep
  have hs := State.Canonical.gatherStart (c := c) h
  generalize gatherStart e c = p at hs
  obtain ⟨e, c⟩ := p
  dsimp only at hs ⊢
  refine ite_holds hs (ite_holds hs (ite_holds hs (ite_holds hs (ite_holds hs ?_))))
  split
  · next eq =>
    refine State.Canonical.gatherMark ?_
    split at eq
    · have he := ExceptHolds.of_ok eq (.write hs)
      exact he
    · split at eq
      · cases eq
      · next eq1 =>
        have he := ExceptHolds.of_ok eq1 (.read hs)
        cases eq
        exact .cmdWrite he
  · exact hs
  · exact hs
  · next eq =>
    split at eq
    · exact .error (ExceptHolds.of_error eq (.write hs))
    · split at eq
      · next eq1 =>
        cases eq
        exact .error (ExceptHolds.of_error eq1 (.read hs))
      · cases eq

theorem ExceptHolds.probeHeader {e : Eng} {c : Cmd} (h : e.s.Canonical) :
    ExceptHolds Stop.Canonical (fun p => p.1.s.Canonical) (probeHeader e c) := by
  unfold Machine.probeHeader
  split
  · next eq => exact .error (ExceptHolds.of_error eq (.readWords h))
  · next _ e eq =>
    have he := ExceptHolds.of_ok eq (.readWords h)
    exact .ok he

theorem ExceptHolds.probeStep {e : Eng} {c : Cmd} (h : e.s.Canonical) :
    ExceptHolds Stop.Canonical (fun p => p.1.s.Canonical) (probeStep e c) := by
  unfold Machine.probeStep
  dsimp only
  split
  · next eq => exact .error (ExceptHolds.of_error eq (ite_holds (.ok h) (ite_holds (.error trivial) (.read h))))
  · next _ e eq =>
    have he := ExceptHolds.of_ok eq (ite_holds (.ok h) (ite_holds (.error trivial) (.read h)))
    split
    · next eq1 => exact .error (ExceptHolds.of_error eq1 (.read he))
    · next _ e' eq1 =>
      have he' := ExceptHolds.of_ok eq1 (.read he)
      exact .ok he'

theorem ExceptHolds.probeEnd {e : Eng} {c : Cmd} (h : e.s.Canonical) :
    ExceptHolds Stop.Canonical State.Canonical (probeEnd e c) := by
  unfold Machine.probeEnd
  dsimp only
  split
  · next eq => exact .error (ExceptHolds.of_error eq (.readWords h))
  · next _ e eq =>
    have he := ExceptHolds.of_ok eq (.readWords h)
    refine ite_holds ?_ (.ok (.cmdWrite he))
    split
    · next eq1 => exact .error (ExceptHolds.of_error eq1 (.readWords he))
    · next _ e' eq1 =>
      have he' := ExceptHolds.of_ok eq1 (.readWords he)
      split
      · next eq2 => exact .error (ExceptHolds.of_error eq2 (.readWords he'))
      · next _ e' eq2 =>
        have he' := ExceptHolds.of_ok eq2 (.readWords he')
        exact .ok (.cmdWrite (.harvests (.cmdWrite he')))

theorem ExceptHolds.saveBegin {e : Eng} {c : Cmd} (h : e.s.Canonical) :
    ExceptHolds Stop.Canonical State.Canonical (saveBegin e c) :=
  ite_holds trivial (.map (fun _ h => h) (.write h))

theorem ExceptHolds.saveEnd {e : Eng} {c : Cmd} (h : e.s.Canonical) :
    ExceptHolds Stop.Canonical State.Canonical (saveEnd e c) := by
  unfold Machine.saveEnd
  refine .bind (fun _ h => ?_) (.writeWords h)
  -- the words stay closed, so that no lemma looks into their lists
  generalize c.block.getD 4 0 :: bytesWords 22 _ = macs, List.replicate 20 (0 : Word) = zeros
  refine .bind (fun _ h => ?_) (.writeWords h)
  refine .bind (fun _ h => ?_) (.writeWords h)
  refine .bind (fun _ h => ?_) (.writeWords h)
  refine .bind (fun _ h => ?_) (.writeWords h)
  exact .bind (fun _ h => h) (.write h)

theorem ExceptHolds.unit {e : Eng} {c : Cmd} (h : e.s.Canonical) :
    ExceptHolds Stop.Canonical (fun p => p.1.s.Canonical) (e.unit c) := by
  unfold Eng.unit
  split
  · exact .copyStep h
  · exact .gatherStep h
  · exact .gatherStep h
  · exact ite_holds (.probeHeader h) (.probeStep h)
  · exact .ok h
  · exact .ok h
  · exact .ok (.matStep h)

/-- A run of a command leaves home memory in its canonical form, in its state and in that with which it stops. -/
theorem runCmd_canonical {id n : Nat} (h : s.Canonical) :
    (s.runCmd id n).1.Canonical ∧ ∀ x, (s.runCmd id n).2 = some x → x.Canonical := by
  induction n generalizing s with
  | zero => exact ⟨h, fun _ e => nomatch e⟩
  | succ n ih =>
    unfold State.runCmd
    split
    · exact ⟨h, fun _ e => nomatch e⟩
    · split
      · exact ⟨h, fun _ e => nomatch e⟩
      · split
        · exact ⟨h, fun x e => Option.some.inj e ▸ trivial⟩
        · split
          · next e => exact ⟨h, fun x e' => Option.some.inj e' ▸ ExceptHolds.of_error e (.unit h)⟩
          · next e =>
            have h' := ExceptHolds.of_ok e (.unit h)
            exact ih h'

theorem State.Canonical.runCmd {id n : Nat} (h : s.Canonical) : (s.runCmd id n).1.Canonical := (runCmd_canonical h).1

theorem runOut_canonical {id : Nat} (h : s.Canonical) :
    (s.runOut id).1.Canonical ∧ ∀ x, (s.runOut id).2 = some x → x.Canonical := by
  unfold State.runOut
  split
  · exact ⟨h, fun _ e => nomatch e⟩
  · exact runCmd_canonical h

theorem State.Canonical.runOut {id : Nat} (h : s.Canonical) : (s.runOut id).1.Canonical := (runOut_canonical h).1

theorem State.Canonical.wakeTicket {k : Nat} (h : s.Canonical) : (s.wakeTicket k).Canonical := by
  unfold State.wakeTicket
  split
  · exact .ite h h
  · exact .ite h h
  · exact h

theorem State.Canonical.finishCmd {id status : Nat} (h : s.Canonical) : (s.finishCmd id status).Canonical := by
  unfold State.finishCmd
  split
  · exact h
  · refine .wakeTicket ?_
    refine .ite ?_ ?_
    · split
      · exact .ite h h
      · exact h
    · refine .faultRecord ?_
      split
      · exact .ite h h
      · exact h

/-! ### Events of the engines -/

/-- An event keeps the form where the state that it answers, if it is enabled, has it. -/
theorem OutcomeCanonical.event {name : String} {o : Option State} (ho : MoveCanonical o) :
    OutcomeCanonical (event name o) := by
  cases o with
  | none => exact .refused
  | some t => exact .next (ho t rfl)

theorem OutcomeCanonical.execCommandIssueResume {g : Nat} (h : s.Canonical) :
    OutcomeCanonical (execCommandIssueResume g s) := by
  unfold Machine.execCommandIssueResume
  dsimp only
  split
  · refine ite_holds ?_ .refused
    cases e : s.resumeCommand g (s.group g).instr with
    | none => exact .refused
    | some o => exact .resumeCommand h e
  · exact .refused

theorem MoveCanonical.asChunk {c : Cmd} {o : Option State} (ho : MoveCanonical o) : MoveCanonical (s.asChunk c o) :=
  ite_holds (.map_state (fun _ h => .commitAgent h) ho) .none

theorem MoveCanonical.pauseCmd {id : Nat} {x : Stop} (h : s.Canonical) (hx : x.Canonical) :
    MoveCanonical (s.pauseCmd id x) := by
  cases x with
  | ask va key op => exact .map fun _ => h
  | retry t => exact .some hx
  | held t => exact .some hx
  | absent va code => exact .none
  | failed status => exact .none
  | spoilt va line => exact .none
  | wait => exact .none

theorem State.Canonical.spoilCmd {id : Nat} {c : Cmd} {va line : Nat} (h : s.Canonical) :
    (s.spoilCmd id c va line).Canonical :=
  .finishCmd (.endGrid h)

theorem MoveCanonical.engineStep {id n : Nat} (h : s.Canonical) : MoveCanonical (s.engineStep id n) := by
  unfold State.engineStep
  split
  · exact .none
  · refine ite_holds .none ?_
    have hr := runCmd_canonical (id := id) (n := n) h
    split
    · next e => rw [e] at hr; exact .some (.spoilCmd hr.1)
    · next e => rw [e] at hr; exact .some (.getD (.pauseCmd hr.1 (hr.2 _ rfl)) hr.1)
    · next e => rw [e] at hr; exact .some hr.1

theorem OutcomeCanonical.execCopyEngineTake {core : Nat} (h : s.Canonical) :
    OutcomeCanonical (execCopyEngineTake core s) := by
  unfold Machine.execCopyEngineTake
  refine .event ?_
  split
  · exact ite_holds (.some h) .none
  · exact .none

theorem OutcomeCanonical.execMatrixEngineTake {core : Nat} (h : s.Canonical) :
    OutcomeCanonical (execMatrixEngineTake core s) := by
  unfold Machine.execMatrixEngineTake
  refine .event ?_
  split
  · exact ite_holds (.some h) .none
  · exact .none

theorem OutcomeCanonical.execSourceReadDone {cmd : Nat} (h : s.Canonical) :
    OutcomeCanonical (execSourceReadDone cmd s) := by
  unfold Machine.execSourceReadDone
  refine .event ?_
  split
  · exact .none
  · refine ite_holds .none ?_
    refine ite_holds (ite_holds .none (.asChunk (.some h))) ?_
    refine ite_holds .none ?_
    split
    · next t eq =>
      have ht := State.Canonical.of_fst eq (.runOut h)
      exact .some ht
    · exact .none

theorem MoveCanonical.completeCmd {cmd : Nat} {kinds : CmdKind → Bool} {last : State → Cmd → Option State}
    (h : s.Canonical) (hlast : ∀ s x1, s.Canonical → MoveCanonical (last s x1)) : MoveCanonical
    (s.completeCmd cmd kinds last) := by
  unfold State.completeCmd
  split
  · exact .none
  · refine ite_holds .none ?_
    refine .asChunk ?_
    split
    · next t eq => exact .map_state (fun _ h => .finishCmd h) (.bind (fun _ => hlast _ _ (.of_fst eq (.runOut h))))
    · exact .none

theorem OutcomeCanonical.execCpyComplete {cmd : Nat} (h : s.Canonical) : OutcomeCanonical (execCpyComplete cmd s) :=
  .event (.completeCmd h (fun _ _ h => .some h))

theorem OutcomeCanonical.execMatrixCommandComplete {cmd : Nat} (h : s.Canonical) :
    OutcomeCanonical (execMatrixCommandComplete cmd s) :=
  .event (.completeCmd h (fun _ _ h => .some h))

theorem OutcomeCanonical.execGatherScatterComplete {cmd : Nat} (h : s.Canonical) :
    OutcomeCanonical (execGatherScatterComplete cmd s) :=
  .event (.completeCmd h (fun _ _ h => .some (.cmdWrite h)))

theorem OutcomeCanonical.execScprobeComplete {cmd : Nat} (h : s.Canonical) :
    OutcomeCanonical (execScprobeComplete cmd s) := by
  unfold Machine.execScprobeComplete
  refine .event ?_
  refine .completeCmd h (fun _ _ h => ?_)
  split
  · next t eq => exact .some (ExceptHolds.of_ok eq (.probeEnd h))
  · exact .none

theorem OutcomeCanonical.execScsaveStart {cmd : Nat} (h : s.Canonical) :
    OutcomeCanonical (execScsaveStart cmd s) := by
  unfold Machine.execScsaveStart
  refine .event ?_
  split
  · exact .none
  · refine ite_holds .none ?_
    refine .asChunk ?_
    split
    · next t e =>
      have ht := ExceptHolds.of_ok e (.saveBegin h)
      exact .some ht
    · exact .none

theorem OutcomeCanonical.execScsaveComplete {cmd : Nat} (h : s.Canonical) :
    OutcomeCanonical (execScsaveComplete cmd s) := by
  unfold Machine.execScsaveComplete
  refine .event ?_
  split
  · exact .none
  · refine ite_holds .none ?_
    refine .asChunk ?_
    split
    · next t eq => exact .some (.finishCmd (ExceptHolds.of_ok eq (.saveEnd h)))
    · exact .none

/-- Where an engine stops, the state that its work leaves and the one with which it stops are both canonical. -/
theorem stopOf_canonical {s t : State} {cmd : Nat} {c : Cmd} {x : Stop} (h : s.Canonical)
    (e : s.stopOf cmd = some (t, c, x)) : t.Canonical ∧ x.Canonical := by
  have ending {s : State} {c' : Cmd} {r : Except Stop State} (h : s.Canonical)
      (hr : ExceptHolds Stop.Canonical State.Canonical r)
      (e : (match (generalizing := false) r with
        | .error x => some (s, c', x)
        | .ok _ => none) = some (t, c, x)) : t.Canonical ∧ x.Canonical := by
    cases r with
    | error y => cases e; exact ⟨h, hr⟩
    | ok a => cases e
  unfold State.stopOf at e
  dsimp only at e
  split at e
  · cases e
  · split at e
    · split at e
      · cases e
      · split at e
        · exact ending h (.saveBegin h) e
        · split at e
          · exact ending h (.saveEnd h) e
          · cases e
    · split at e
      · cases e
      · have hr := runOut_canonical (id := cmd) h
        split at e
        · next t' x' e' =>
          rw [e'] at hr
          obtain ⟨c', -, e⟩ := Option.map_eq_some_iff.1 e
          cases e
          exact ⟨hr.1, hr.2 _ rfl⟩
        · next t' e' =>
          rw [e'] at hr
          split at e
          · split at e
            · exact ending hr.1 (.probeEnd hr.1) e
            · cases e
          · cases e

theorem MoveCanonical.enginePause {cmd : Nat} (h : s.Canonical) : MoveCanonical (s.enginePause cmd) := by
  unfold State.enginePause
  split
  · next e =>
    obtain ⟨ht, hx⟩ := stopOf_canonical h e
    exact .asChunk (.pauseCmd ht hx)
  · exact .none

theorem OutcomeCanonical.execEnginePageFault {cmd : Nat} (h : s.Canonical) :
    OutcomeCanonical (execEnginePageFault cmd s) := by
  unfold Machine.execEnginePageFault
  refine .event ?_
  split
  · next e => exact .asChunk (.some (.faultRecord (stopOf_canonical h e).1))
  · exact .none

theorem OutcomeCanonical.execEngineFailure {cmd : Nat} (h : s.Canonical) :
    OutcomeCanonical (execEngineFailure cmd s) := by
  unfold Machine.execEngineFailure
  refine .event ?_
  split
  · exact .none
  · refine ite_holds .none (ite_holds (.some (.finishCmd h)) ?_)
    split
    · next e => exact .asChunk (.some (.finishCmd (stopOf_canonical h e).1))
    · next e => exact .asChunk (.some (.spoilCmd (stopOf_canonical h e).1))
    · exact .none

theorem State.Canonical.failRound {cmds : List Nat} {peers : List (Nat × Nat)} (h : s.Canonical) :
    (s.failRound cmds peers).Canonical :=
  .foldl (fun _ _ h => h) h

theorem MoveCanonical.mergeInto {ctx : Nat} {scope : BitVec 3} {inst slot node : Nat} {x : Partial}
    (h : s.Canonical) : MoveCanonical (s.mergeInto ctx scope inst slot node x) := by
  unfold State.mergeInto
  dsimp only
  split
  · exact ite_holds (.some (.failRound (.ite h h))) (.some (.ite h h))
  · exact ite_holds .none (ite_holds (.some (.failRound (.ite h h))) (.some (.ite h h)))

theorem OutcomeCanonical.execPartialMerge {src : MergeSource} (h : s.Canonical) :
    OutcomeCanonical (execPartialMerge src s) := by
  unfold Machine.execPartialMerge
  refine .event ?_
  split
  · split
    · exact .none
    · exact ite_holds .none (.map_state (fun _ h => h) (.mergeInto h))
  · split
    · exact .none
    · refine ite_holds .none ?_
      split
      · exact .some h
      · exact .mergeInto h
  · refine ite_holds (.some h) ?_
    refine ite_holds .none ?_
    exact ite_holds (.some (.failRound h)) (ite_holds .none (.map_state (fun _ h => h) (.mergeInto h)))

theorem OutcomeCanonical.execRoundResultSend {slot : Nat} (h : s.Canonical) :
    OutcomeCanonical (execRoundResultSend slot s) := by
  unfold Machine.execRoundResultSend
  refine .event ?_
  split
  · exact .none
  · exact ite_holds .none (.some (.ite (.foldl (fun _ _ h => h) h) (.foldl (fun _ _ h => h) h)))

theorem OutcomeCanonical.execNredxComplete {cmd : Nat} (h : s.Canonical) :
    OutcomeCanonical (execNredxComplete cmd s) := by
  unfold Machine.execNredxComplete
  refine .event ?_
  split
  · exact .none
  · refine ite_holds .none ?_
    refine ite_holds (.some (.finishCmd h)) ?_
    split
    · exact .none
    · exact ite_holds .none (.asChunk (.some (.finishCmd (.harvests (.cmdWrite h)))))

/-! ### Home slices -/

theorem State.Canonical.noteReplay {c line : Nat} (h : s.Canonical) : (s.noteReplay c line).Canonical := .ite h h

theorem State.Canonical.evictL1 {c line : Nat} (h : s.Canonical) : (s.evictL1 c line).Canonical :=
  State.wf_evictL1 _ _ _ h

theorem State.Canonical.makeRoom {c line : Nat} {victim : Option Nat} (h : s.Canonical) :
    (s.makeRoom c line victim).Canonical := by
  unfold State.makeRoom
  refine .ite h ?_
  split
  · exact .evictL1 h
  · exact h

theorem State.Canonical.useL1 {c line : Nat} (h : s.Canonical) : (s.useL1 c line).Canonical := h

theorem State.Canonical.fillSectors {c line : Nat} {mask : BitVec 4} {filled : Bool} (h : s.Canonical) :
    (s.fillSectors c line mask filled).Canonical :=
  h

theorem State.Canonical.armReuse {g line : Nat} (h : s.Canonical) : (s.armReuse g line).Canonical := by
  unfold State.armReuse
  refine .ite h ?_
  split
  · exact h
  · exact .ite h h

theorem State.Canonical.touchSlice {g line : Nat} (h : s.Canonical) : (s.touchSlice g line).Canonical :=
  .armReuse (.l2Serve h)

theorem State.Canonical.touchBeats {g : Nat} {a : Access} {line : Nat} {need : BitVec 4 → BitVec 4}
    (h : s.Canonical) : (s.touchBeats g a line need).Canonical :=
  .foldl (fun _ _ h => .ite h (.touchSlice h)) h

theorem State.Canonical.errorAccess {g : Nat} {a : Access} {line : Nat} (h : s.Canonical) :
    (s.errorAccess g a line).Canonical :=
  .errorEnd h

/-! ### Events of memory -/

theorem State.Canonical.finishResult {g : Nat} {r : Result} (h : s.Canonical) : (s.finishResult g r).Canonical :=
  .harvests h

theorem OutcomeCanonical.execResultWrite {g : Nat} (h : s.Canonical) : OutcomeCanonical (execResultWrite g s) :=
  .event (.map (fun _ => .finishResult h))

theorem State.Canonical.windowFlits {g : Nat} {a : Access} (h : s.Canonical) : (s.windowFlits g a).Canonical :=
  .foldl (fun _ _ h => .ite h h) h

theorem State.Canonical.endAccess {g : Nat} {a : Access} (h : s.Canonical) : (s.endAccess g a).Canonical :=
  .ite (.acquireL1 (.windowFlits h)) (.windowFlits h)

theorem State.Canonical.loadTouch {g : Nat} {a : Access} (h : s.Canonical) : (s.loadTouch g a).Canonical := by
  unfold State.loadTouch
  refine .foldl (fun _ _ h => ?_) h
  dsimp only
  split
  · exact .ite (.fillSectors (.useL1 (.touchBeats h))) (.useL1 (.touchBeats h))
  · exact .useL1 (.touchBeats h)

theorem State.Canonical.performLoad {g : Nat} {a : Access} {z : BitVec 3} (h : s.Canonical) :
    (s.performLoad g a z).Canonical :=
  .endAccess (.loadTouch h)

theorem OutcomeCanonical.execLoadReturn {g id : Nat} (h : s.Canonical) :
    OutcomeCanonical (execLoadReturn g id s) := by
  unfold Machine.execLoadReturn
  refine .event ?_
  split
  · exact .some (.finishResult h)
  · split
    · refine ite_holds ?_ .none
      split
      · exact .some (.errorAccess h)
      · exact .some (.performLoad h)
    · exact .none
  · exact .none

theorem State.Canonical.performStore {g : Nat} {a : Access} (h : s.Canonical) : (s.performStore g a).Canonical := by
  unfold State.performStore
  extract_lets c lines away given stored cleared kept touched
  have hs : stored.Canonical :=
    .foldl (fun _ _ h => .ite h (.ite h (.homeWrite h))) (.foldl (fun _ _ h => .writeBack h) h)
  have hk : kept.Canonical := .foldl (fun _ _ h => .ite (.modCore (.fillSectors (.makeRoom h))) h) hs
  have ht : touched.Canonical := .foldl (fun _ _ h => .ite (.touchBeats h) h) hk
  refine .ite ?_ ht
  split <;> exact ht

theorem State.Canonical.atomicLanes {c : Nat} {atL1 : Bool} {f : AtomFields} {l : List LaneAcc} (h : s.Canonical) :
    (s.atomicLanes c atL1 f l).1.Canonical := by
  induction l generalizing s with
  | nil => exact h
  | cons x l ih =>
    refine .ite_fst (ih h) (ih ?_)
    split
    · exact h
    · exact .ite h (.homeWrite h)

theorem State.Canonical.lockStep {g : Nat} {a : Access} {f : AtomFields} {olds : AMap Word} (h : s.Canonical) :
    (s.lockStep g a f olds).Canonical :=
  .ite h (.ite (.ite (.ite h h) h) (.unlock h))

theorem State.Canonical.performAtomic {g : Nat} {a : Access} {f : AtomFields} {lock : BitVec 1} (h : s.Canonical) :
    (s.performAtomic g a f lock).Canonical := by
  unfold State.performAtomic
  extract_lets c atL1 released taken p touched written ended
  have hr : released.Canonical := .ite (.releaseL1 h) h
  have ht : taken.Canonical := .ite hr (.foldl (fun _ _ h => .writeSectors h) hr)
  have hp : touched.Canonical := .foldl (fun _ _ h => .ite h (.touchBeats h)) (.atomicLanes ht)
  have he : ended.Canonical := .endAccess hp
  exact .ite (.lockStep he) he

theorem State.Canonical.sendHeld {g : Nat} {a : Access} (h : s.Canonical) : (s.sendHeld g a).Canonical :=
  .foldl (fun _ _ h => h) (.releaseL1 h)

theorem MoveCanonical.bankTake {g : Nat} {r : Result} {b : BankStore} (h : s.Canonical) :
    MoveCanonical (s.bankTake g r b) := by
  unfold State.bankTake
  refine ite_holds .none ?_
  split
  · exact ite_holds (.some (.takeFault h)) .none
  · exact .some (.finishResult (.foldl (fun _ _ h => h) (.ite h h)))

theorem OutcomeCanonical.execStoreAccepted {g id : Nat} (h : s.Canonical) :
    OutcomeCanonical (execStoreAccepted g id s) := by
  unfold Machine.execStoreAccepted
  refine .event ?_
  split
  · split
    · exact .bankTake h
    · exact .some (.finishResult h)
  · refine ite_holds (.some (.sendHeld h)) ?_
    refine ite_holds .none ?_
    split
    · split
      · exact .some (.errorAccess h)
      · exact .some (.endAccess (.performStore (.ite (.releaseL1 h) h)))
    · split
      · exact .some (.errorAccess h)
      · exact .some (.performAtomic h)
    · exact .none
  · exact .none

theorem OutcomeCanonical.execAtomicReturn {g id : Nat} (h : s.Canonical) :
    OutcomeCanonical (execAtomicReturn g id s) := by
  unfold Machine.execAtomicReturn
  refine .event ?_
  split
  · exact .some (.finishResult h)
  · split
    · refine ite_holds ?_ .none
      split
      · exact .some (.errorAccess h)
      · exact .some (.performAtomic h)
    · exact .none
  · exact .none

theorem OutcomeCanonical.execPinGrant {g id line : Nat} (h : s.Canonical) :
    OutcomeCanonical (execPinGrant g id line s) := by
  unfold Machine.execPinGrant
  refine .event ?_
  split
  · exact .none
  · dsimp only
    split
    · exact .none
    · have hm : ((s.makeRoom (coreOf g) line none).touchSlice g line).Canonical := .touchSlice (.makeRoom h)
      exact .some (.modCore (.fillSectors hm))

theorem OutcomeCanonical.execAccessRetryResend {g id line : Nat} (h : s.Canonical) :
    OutcomeCanonical (execAccessRetryResend g id line s) := by
  unfold Machine.execAccessRetryResend
  refine .event ?_
  split
  · exact .map (fun _ => .ite h (.ite h h))
  · exact .none

theorem OutcomeCanonical.execRecallComplete {line : Nat} (h : s.Canonical) :
    OutcomeCanonical (execRecallComplete line s) := by
  unfold Machine.execRecallComplete
  refine .event ?_
  split
  · exact ite_holds .none (.some (.recallLine (.foldl (fun _ _ h => .noteReplay h) h)))
  · exact .none

theorem OutcomeCanonical.execL1LineFill {g id line : Nat} {victim : Option Nat} (h : s.Canonical) :
    OutcomeCanonical (execL1LineFill g id line victim s) := by
  unfold Machine.execL1LineFill
  refine .event ?_
  split
  · exact .none
  · refine ite_holds .none ?_
    split
    · exact .none
    · split
      · exact .some (.errorAccess h)
      · exact .some (.touchSlice (.makeRoom (.dropHeld h)))

theorem OutcomeCanonical.execL2LineFill {line : Nat} {victim : Option Nat} (h : s.Canonical) :
    OutcomeCanonical (execL2LineFill line victim s) :=
  .event (ite_holds .none (.some h))

/-! ### Events of a group -/

theorem MoveCanonical.startOrStop {k : Nat} (h : s.Canonical) : MoveCanonical (s.startOrStop k) :=
  ite_holds .none (ite_holds (.some (.endGroup h)) (ite_holds .none (.clauseStart h)))

theorem OutcomeCanonical.execClauseStart {g : Nat} (h : s.Canonical) : OutcomeCanonical (execClauseStart g s) :=
  .event (.startOrStop h)

theorem OutcomeCanonical.execInstructionCacheFill {g : Nat} (h : s.Canonical) :
    OutcomeCanonical (execInstructionCacheFill g s) := by
  unfold Machine.execInstructionCacheFill
  refine .event ?_
  split
  · exact .fillCode h
  · split
    · exact ite_holds .none (.fillAsked h)
    · exact .none

theorem OutcomeCanonical.execReleaseComplete {g : Nat} (h : s.Canonical) :
    OutcomeCanonical (execReleaseComplete g s) := by
  unfold Machine.execReleaseComplete
  refine .event ?_
  split
  · exact ite_holds (.some (.releaseL1 h)) .none
  · exact .none

theorem OutcomeCanonical.execIcinvComplete {g : Nat} (h : s.Canonical) :
    OutcomeCanonical (execIcinvComplete g s) := by
  unfold Machine.execIcinvComplete
  refine .event ?_
  split
  · exact .some h
  · exact .none

theorem OutcomeCanonical.execPromotionStart {g : Nat} (h : s.Canonical) :
    OutcomeCanonical (execPromotionStart g s) := by
  unfold Machine.execPromotionStart
  refine .event ?_
  refine ite_holds .none ?_
  refine ite_holds (.some h) ?_
  split
  · exact ite_holds (.some (.demote h)) .none
  · exact .none

theorem State.Canonical.countPromotion {k : Nat} (h : s.Canonical) : (s.countPromotion k).Canonical := .ite h h

theorem OutcomeCanonical.execPromotionSwitchDone {g : Nat} (h : s.Canonical) :
    OutcomeCanonical (execPromotionSwitchDone g s) := by
  unfold Machine.execPromotionSwitchDone
  refine .event ?_
  split
  · exact ite_holds .none (.some (.ite (.demote (.countPromotion h)) (.countPromotion h)))
  · exact .none

theorem OutcomeCanonical.execDemotionSwitchDone {g : Nat} (h : s.Canonical) :
    OutcomeCanonical (execDemotionSwitchDone g s) := by
  unfold Machine.execDemotionSwitchDone
  refine .event ?_
  split
  · exact ite_holds .none (.some h)
  · exact .none

theorem OutcomeCanonical.execBarrierLaggardQualify {g n : Nat} (h : s.Canonical) :
    OutcomeCanonical (execBarrierLaggardQualify g n s) := by
  unfold Machine.execBarrierLaggardQualify
  refine .event ?_
  dsimp only
  split
  · exact ite_holds (.some h) .none
  · exact .none

theorem OutcomeCanonical.execBarrierPhaseComplete {team n : Nat} (h : s.Canonical) :
    OutcomeCanonical (execBarrierPhaseComplete team n s) :=
  .event (ite_holds .none (.some (.setBarrier h)))

theorem OutcomeCanonical.execBarrierWake {team n : Nat} (h : s.Canonical) :
    OutcomeCanonical (execBarrierWake team n s) := by
  unfold Machine.execBarrierWake
  refine .event ?_
  dsimp only
  split
  · exact ite_holds .none (.some (.foldl (fun _ _ h => .ite h h) (.setBarrier h)))
  · exact .none

theorem OutcomeCanonical.execGroupRegistersReturn {g : Nat} (h : s.Canonical) :
    OutcomeCanonical (execGroupRegistersReturn g s) :=
  .event (ite_holds (.some h) .none)

theorem OutcomeCanonical.execTeamEnd {team : Nat} (h : s.Canonical) : OutcomeCanonical (execTeamEnd team s) := by
  unfold Machine.execTeamEnd
  refine .event ?_
  split
  · exact .none
  · exact ite_holds .none (.some h)

/-! ### Translation -/

theorem OutcomeCanonical.execPageWalkComplete {g page : Nat} (h : s.Canonical) :
    OutcomeCanonical (execPageWalkComplete g page s) := by
  unfold Machine.execPageWalkComplete
  refine .event ?_
  split
  · refine ite_holds .none ?_
    dsimp only
    split
    · next t e => exact .some (.of_retry e (.tryWalk h))
    · next t e => exact .some (.of_held e (.tryWalk h))
    · exact .none
    · exact .some (.endGroup (.errorEnd h))
    · next t e =>
      have ht := State.Canonical.of_served e (.tryWalk h)
      refine .some ?_
      split <;> exact ht
  · exact .none

theorem State.Canonical.removedStore {e : SideEntry} (h : s.Canonical) : (s.removedStore e).Canonical :=
  .ite (.faultRecord h) h

theorem State.Canonical.replayEntry {e : SideEntry} {p : TlbEntry} (h : s.Canonical) :
    (s.replayEntry e p).Canonical :=
  .ite h (.foldl (fun _ _ h => h) h)

theorem State.Canonical.drainList {blocked : List Nat} {es : List SideEntry} (h : s.Canonical) :
    (s.drainList blocked es).1.Canonical := by
  induction es generalizing s blocked with
  | nil => exact h
  | cons e es ih =>
    refine .ite_fst (ih h) ?_
    have hw := h.agentWalk (ctx := e.ctx) (va := 192 * e.line) (n := 4)
    refine .ite_fst (ih (.errorEnd hw)) ?_
    split
    · exact .ite_fst (ih (.removedStore hw)) (.ite_fst (ih hw) (ih (.replayEntry hw)))
    · exact ih (.storeRecords hw)
    · exact ih (.storeRecords hw)

theorem State.Canonical.sideRoom {c : Nat} (h : s.Canonical) : (s.sideRoom c).Canonical := .ite h h

theorem State.Canonical.drainLog {c : Nat} (h : s.Canonical) : (s.drainLog c).Canonical := .sideRoom (.drainList h)

theorem State.Canonical.answerLog {ctx page resp c : Nat} (h : s.Canonical) :
    (s.answerLog ctx page resp c).Canonical := by
  unfold State.answerLog
  refine .ite (.acquireL1 h) ?_
  refine .ite (.drainLog (.acquireL1 h)) ?_
  refine .drainLog ?_
  exact .ite (.foldl (fun _ _ h => .removedStore h) (.acquireL1 h)) (.foldl (fun _ _ h => .endGrid h) (.acquireL1 h))

theorem State.Canonical.dispatcherFault {grid va code : Nat} {write : Bool} (h : s.Canonical) :
    (s.dispatcherFault grid va code write).Canonical := by
  unfold State.dispatcherFault
  split
  · exact h
  · exact .faultRecord h

theorem ExceptHolds.dispatcherKey {grid va align : Nat} {write : Bool} (h : s.Canonical) :
    ExceptHolds MoveCanonical (fun _ => True) (s.dispatcherKey grid va align write) := by
  unfold State.dispatcherKey
  split
  · exact .none
  · refine ite_holds .none ?_
    refine ite_holds (.some (.endGrid h)) ?_
    refine ite_holds (.some (.endGrid h)) ?_
    split
    · exact ite_holds (.some (.endGrid h)) (ite_holds (.some (.endGrid h)) trivial)
    · exact .some (.dispatcherFault h)
    · exact .some (.dispatcherFault h)

theorem State.Canonical.completeGrid {grid : Nat} (h : s.Canonical) : (s.completeGrid grid).Canonical := by
  unfold State.completeGrid
  split
  · exact h
  · refine .ite h (.ite h ?_)
    split
    · exact .homeWord (.agentWalk h)
    · exact h
    · next t e => exact ExceptHolds.of_error e (.dispatcherKey h) t rfl

theorem State.Canonical.answerGrid {grid seq resp : Nat} (h : s.Canonical) : (s.answerGrid grid seq resp).Canonical :=
  .ite (.completeGrid h) (.endGrid h)

theorem MoveCanonical.answerGroup {k seq resp : Nat} (h : s.Canonical) :
    MoveCanonical (s.answerGroup k seq resp) := by
  unfold State.answerGroup
  dsimp only
  split
  · refine ite_holds (.some h) ?_
    split
    · exact .some (.acquireL1 h)
    · exact .some (.acquireL1 h)
    · exact ite_holds (.some (.vector (.acquireL1 h))) .none
    · exact .some (.endGrid (.acquireL1 h))
  · exact .some h

theorem State.Canonical.answerCmd {id resp : Nat} (h : s.Canonical) : (s.answerCmd id resp).Canonical := by
  unfold State.answerCmd
  split
  · exact h
  · exact .ite (.acquireL1 h) (.ite (.finishCmd (.acquireL1 h)) (.finishCmd (.endGrid (.acquireL1 h))))

theorem MoveCanonical.answerGroups {groups : List Nat} {seq resp : Nat} {m : Option State} (hm : MoveCanonical m) :
    MoveCanonical (groups.foldl (fun o k => o.bind fun s => s.answerGroup k seq resp) m) := by
  induction groups generalizing m with
  | nil => exact hm
  | cons k groups ih => exact ih (.bind_state (fun _ h => .answerGroup h) hm)

theorem MoveCanonical.answer {ctx seq page resp : Nat} {store : Bool} (h : s.Canonical) :
    MoveCanonical (s.answer ctx seq page resp store) := by
  refine .map_state (fun s h => ?_) (.answerGroups (.some h))
  have hg {cmds grids : List Nat} :
      (grids.foldl (fun s q => s.answerGrid q seq resp) (cmds.foldl (fun s id => s.answerCmd id resp) s)).Canonical :=
    .foldl (fun _ _ h => .answerGrid h) (.foldl (fun _ _ h => .answerCmd h) h)
  exact .ite (.foldl (fun _ _ h => .answerLog h) hg) hg

theorem OutcomeCanonical.execFaultRecordAnswer {ctx seq : Nat} (h : s.Canonical) :
    OutcomeCanonical (execFaultRecordAnswer ctx seq s) := by
  unfold Machine.execFaultRecordAnswer
  refine .event ?_
  split
  · exact .none
  · exact ite_holds .none (.map_state (fun _ h => h) (.answer h))

theorem State.Canonical.takeXlate {ctx : Nat} (h : s.Canonical) : (s.takeXlate ctx).Canonical := .homeWord h

theorem State.Canonical.xlateStatus {ctx done status : Nat} (h : s.Canonical) :
    (s.xlateStatus ctx done status).Canonical := by
  unfold State.xlateStatus
  split
  · exact .agentWord (.agentWalk h)
  · exact h

theorem State.Canonical.clearBases {ctx va n : Nat} (h : s.Canonical) : (s.clearBases ctx va n).Canonical := h

theorem State.Canonical.dropTlbs {ctx va n : Nat} (h : s.Canonical) : (s.dropTlbs ctx va n).Canonical := h

theorem OutcomeCanonical.execInvalidateRange {ctx : Nat} (h : s.Canonical) :
    OutcomeCanonical (execInvalidateRange ctx s) := by
  unfold Machine.execInvalidateRange
  refine .event ?_
  split
  · exact .none
  · exact ite_holds .none (.some (.modCtx (.clearBases (.dropTlbs (.takeXlate h)))))

theorem OutcomeCanonical.execInvalidateRangeDone {ctx : Nat} (h : s.Canonical) :
    OutcomeCanonical (execInvalidateRangeDone ctx s) := by
  unfold Machine.execInvalidateRangeDone
  refine .event ?_
  split
  · exact .none
  · exact ite_holds .none (.some (.xlateStatus h))

theorem OutcomeCanonical.execCompact {ctx : Nat} (h : s.Canonical) : OutcomeCanonical (execCompact ctx s) := by
  unfold Machine.execCompact
  refine .event ?_
  split
  · exact .none
  · exact ite_holds .none (.some (.takeXlate h))

theorem State.Canonical.recallFrames {frames : List Nat} (h : s.Canonical) : (s.recallFrames frames).Canonical :=
  State.wf_recallFrames _ _ h

theorem State.Canonical.copyFrames {frames : List Nat} {f : Nat} (h : s.Canonical) :
    (s.copyFrames frames f).Canonical :=
  State.wf_copyFrames _ _ _ h

theorem OutcomeCanonical.execCompactDone {ctx : Nat} (h : s.Canonical) :
    OutcomeCanonical (execCompactDone ctx s) := by
  unfold Machine.execCompactDone
  refine .event ?_
  split
  · exact .none
  · refine ite_holds .none (.map fun _ => .xlateStatus (.foldl (fun _ _ h => .drainLog h) (.of_mem ?_)))
    simp only [State.modCtx_mem, State.clearBases, State.dropTlbs]
    exact State.wf_homeWrite _ _ _ _ (State.Canonical.copyFrames (.recallFrames (.recallFrames h)))

theorem OutcomeCanonical.execTranslationRequestFail {ctx : Nat} (h : s.Canonical) :
    OutcomeCanonical (execTranslationRequestFail ctx s) := by
  unfold Machine.execTranslationRequestFail
  refine .event ?_
  split
  · exact .none
  · refine ite_holds .none ?_
    exact ite_holds (.some (.xlateStatus (.takeXlate h))) (ite_holds .none (.some (.xlateStatus (.takeXlate h))))

/-! ### The dispatcher -/

theorem OutcomeCanonical.execDispatcherTailRead {q : Nat} (h : s.Canonical) :
    OutcomeCanonical (execDispatcherTailRead q s) := by
  unfold Machine.execDispatcherTailRead
  refine .event ?_
  split
  · exact .none
  · exact ite_holds .none (.some (.agentTouch h))

theorem OutcomeCanonical.execLaunchRecordTake {q : Nat} (h : s.Canonical) :
    OutcomeCanonical (execLaunchRecordTake q s) := by
  unfold Machine.execLaunchRecordTake
  refine .event ?_
  split
  · exact .none
  · refine ite_holds .none ?_
    refine ite_holds .none ?_
    refine .some ?_
    split
    · exact .faultRecord (.homeWord (.agentTouch (.agentTouch h)))
    · exact .homeWord (.agentTouch (.agentTouch h))

theorem ExceptHolds.bitsSet {grid bitmap : Nat} {js : List Nat} (h : s.Canonical) :
    ExceptHolds MoveCanonical (fun _ => True) (s.bitsSet grid bitmap js) := by
  induction js with
  | nil => exact trivial
  | cons j js ih =>
    unfold State.bitsSet
    split
    · next e => exact .error (ExceptHolds.of_error e (.dispatcherKey h))
    · exact ite_holds ih trivial

theorem ExceptHolds.producers {grid : Nat} {l : Launch} {c : Nat} (h : s.Canonical) :
    ExceptHolds MoveCanonical (fun _ => True) (s.producers grid l c) := by
  unfold State.producers
  dsimp only
  split
  · exact trivial
  · exact trivial
  · exact trivial
  · exact trivial
  · split
    · exact trivial
    · next e => exact .error (ExceptHolds.of_error e (.dispatcherKey h))
    · next e _ => exact .error (ExceptHolds.of_error e (.dispatcherKey h))

theorem ExceptHolds.producersDone {grid team : Nat} {q : Grid} (h : s.Canonical) :
    ExceptHolds MoveCanonical (fun _ => True) (s.producersDone grid team q) := by
  unfold State.producersDone
  split
  · next x eq => exact .error (ExceptHolds.of_error eq (.producers h))
  · exact .bitsSet h

theorem State.Canonical.producersRead {grid team : Nat} {q : Grid} (h : s.Canonical) :
    (s.producersRead grid team q).Canonical := by
  unfold State.producersRead
  refine .foldl (fun _ _ h => ?_) h
  split
  · exact .agentTouch (.agentWalk h)
  · exact h

theorem OutcomeCanonical.execConsumerRelease {grid team : Nat} (h : s.Canonical) :
    OutcomeCanonical (execConsumerRelease grid team s) := by
  unfold Machine.execConsumerRelease
  refine .event ?_
  split
  · exact .none
  · refine ite_holds .none ?_
    split
    · next x eq => exact ExceptHolds.of_error eq (.producersDone h)
    · exact .none
    · exact .some (.producersRead h)

theorem State.Canonical.returnGroups {id : Nat} {t : Team} (h : s.Canonical) : (s.returnGroups id t).Canonical :=
  .foldl (fun _ _ h => .ite h h) h

theorem OutcomeCanonical.execCbitmapSet {team : Nat} (h : s.Canonical) :
    OutcomeCanonical (execCbitmapSet team s) := by
  unfold Machine.execCbitmapSet
  refine .event ?_
  split
  · exact .none
  · split
    · exact .none
    · refine ite_holds .none ?_
      split
      · next eq => exact ExceptHolds.of_error eq (.dispatcherKey h)
      · refine .some (.completeGrid (.of_mem ?_))
        dsimp only
        exact State.Canonical.homeWrite (.agentWalk (.releaseL1 (.returnGroups h)))

theorem State.Canonical.placeTeam {ctx grid gangKey gang index : Nat} {l : Launch} {c : Nat} {slots : List Nat}
    {block base : Nat} (h : s.Canonical) :
    (s.placeTeam ctx grid gangKey gang index l c slots block base).Canonical :=
  .foldl (fun _ _ h => h) (.acquireL1 h)

theorem State.Canonical.countDeferrals {cs : List Nat} (h : s.Canonical) : (s.countDeferrals cs).Canonical :=
  .foldl (fun _ _ h => h) h

theorem State.Canonical.placeGang {grid gang : Nat} {q : Grid} {r : Search} (h : s.Canonical) :
    (s.placeGang grid gang q r).Canonical :=
  .foldl (fun _ _ h => .placeTeam h) h

theorem State.Canonical.offer {gs : AMap Grid} (h : s.Canonical) : (s.offer gs).Canonical := by
  induction gs generalizing s with
  | nil => exact h
  | cons q gs ih =>
    unfold State.offer
    refine .ite (ih h) ?_
    split
    · exact ih h
    · exact .ite (.placeGang (.countDeferrals h)) (ih (.countDeferrals h))

theorem State.Canonical.offerAll {ctx n : Nat} (h : s.Canonical) : (s.offerAll ctx n).Canonical := by
  induction n generalizing s with
  | zero => exact h
  | succ n ih => exact .ite h (ih (.offer h))

theorem OutcomeCanonical.execTeamPlacement {ctx : Nat} (h : s.Canonical) :
    OutcomeCanonical (execTeamPlacement ctx s) := by
  unfold Machine.execTeamPlacement
  refine .event ?_
  split
  · exact .none
  · exact ite_holds .none (.some (.offerAll h))

/-! ### The network -/

theorem State.Canonical.touchRouters (h : s.Canonical) : s.touchRouters.Canonical := by
  unfold State.touchRouters
  exact h

theorem OutcomeCanonical.execRouterPowerDown {r : Nat} (h : s.Canonical) :
    OutcomeCanonical (execRouterPowerDown r s) := by
  unfold Machine.execRouterPowerDown
  refine .event ?_
  refine ite_holds .none ?_
  split
  · exact .none
  · exact ite_holds .none (.some h)

theorem OutcomeCanonical.execRouterWake {r : Nat} (h : s.Canonical) : OutcomeCanonical (execRouterWake r s) :=
  .event (ite_holds (.some h) .none)

theorem OutcomeCanonical.execMessageDelivery {core q msg : Nat} (h : s.Canonical) :
    OutcomeCanonical (execMessageDelivery core q msg s) := by
  unfold Machine.execMessageDelivery
  refine .event ?_
  split
  · exact .none
  · refine ite_holds .none ?_
    refine .some ?_
    split <;> exact h

theorem OutcomeCanonical.execWakeDelivery {core : Nat} (h : s.Canonical) :
    OutcomeCanonical (execWakeDelivery core s) := by
  unfold Machine.execWakeDelivery
  refine .event ?_
  split
  · exact .none
  · exact ite_holds .none (.some h)

theorem OutcomeCanonical.execWaitwTimeout {g : Nat} (h : s.Canonical) : OutcomeCanonical (execWaitwTimeout g s) := by
  unfold Machine.execWaitwTimeout
  refine .event ?_
  split
  · exact ite_holds .none (.some h)
  · exact .none

theorem OutcomeCanonical.execFaultRecordRelease {ctx : Nat} (h : s.Canonical) :
    OutcomeCanonical (execFaultRecordRelease ctx s) := by
  unfold Machine.execFaultRecordRelease
  refine .event ?_
  split
  · exact .none
  · exact ite_holds .none (.some (.pushFault h))

theorem OutcomeCanonical.execEventRecordRelease {ctx : Nat} (h : s.Canonical) :
    OutcomeCanonical (execEventRecordRelease ctx s) := by
  unfold Machine.execEventRecordRelease
  refine .event ?_
  split
  · exact .none
  · exact ite_holds .none (.some (.pushRecord h))

/-! ### Preemption -/

theorem State.Canonical.performEntry {e : SideEntry} {p : TlbEntry} (h : s.Canonical) :
    (s.performEntry e p).Canonical := by
  unfold State.performEntry
  extract_lets c lanes released sent performed
  have hs : sent.Canonical := .foldl (fun _ _ h => h) (.ite (.releaseL1 h) h)
  have hp : performed.Canonical := by
    unfold performed
    split
    · exact .foldl (fun _ _ h => .homeWrite h) hs
    · exact .atomicLanes hs
    · exact hs
  refine .ite ?_ hp
  unfold lanes
  split <;> exact hp

/-- The four reads of the walk stay closed: unfolded, they are copies of the state within the state. -/
theorem State.Canonical.saveEntries {stays : List Nat} {es : List SideEntry} (h : s.Canonical) :
    (s.saveEntries stays es).1.Canonical := by
  induction es generalizing s stays with
  | nil => exact h
  | cons e es ih =>
    have hw := h.agentWalk (ctx := e.ctx) (va := 192 * e.line) (n := 4)
    conv => arg 1; arg 1; whnf
    generalize instDecidableEqBool (stays.contains e.group) true = d
    cases d with
    | isTrue => exact ih h
    | isFalse =>
      generalize s.agentWalk e.ctx (192 * e.line) 4 = t at hw ⊢
      dsimp only
      split
      · exact .ite_fst (ih h) (.ite_fst (ih (.removedStore hw)) (ih (.performEntry hw)))
      · exact ih h

theorem State.Canonical.replayPeers {stays : List Nat} {es : List SideEntry} (h : s.Canonical) :
    (s.replayPeers stays es).1.Canonical := by
  induction es generalizing s stays with
  | nil => exact h
  | cons e es ih =>
    unfold State.replayPeers
    dsimp only
    split
    · exact ih h
    · split
      · split
        · exact ih (.removedStore h)
        · split
          · exact ih (.replayEntry h)
          · exact ih h
      · exact ih h

theorem State.Canonical.freeBytes {n : Nat} (h : s.Canonical) : (s.freeBytes n).1.Canonical := h

theorem State.Canonical.saveTeam {key : Nat} {t : Team} (h : s.Canonical) : (s.saveTeam key t).Canonical := by
  unfold State.saveTeam
  refine .of_mem ?_
  dsimp only
  refine State.wf_homeWrite _ _ _ _ (State.Canonical.freeBytes (.freeBytes ?_))
  exact .saveEntries (.foldl (fun _ _ h => .demote h) h)

theorem State.Canonical.replayTeams {ts : AMap Team} (h : s.Canonical) : (s.replayTeams ts).Canonical :=
  .foldl (fun _ _ h => .replayPeers h) h

theorem OutcomeCanonical.execForcedSave {team steps : Nat} (h : s.Canonical) :
    OutcomeCanonical (execForcedSave team steps s) := by
  unfold Machine.execForcedSave
  refine .event (ite_holds .none (ite_holds (.some (.replayTeams ?_)) (.some (.foldl (fun _ _ h => .saveTeam h) ?_))))
  · exact .foldl (fun _ _ h => .runCmd h) h
  · exact .foldl (fun _ _ h => .runCmd h) h

theorem State.Canonical.restorePrivate {ctx base : Nat} {bs : List Byte} (h : s.Canonical) :
    (s.restorePrivate ctx base bs).Canonical := by
  unfold State.restorePrivate
  refine .foldl (fun _ _ h => ?_) h
  split
  · exact .homeWrite h
  · exact h

theorem State.Canonical.restoreTeam {t : SavedTeam} {core : Nat} {slots : List Nat} {block base : Nat}
    {f : Nat → Nat} (h : s.Canonical) : (s.restoreTeam t core slots block base f).Canonical :=
  .acquireL1 (.foldl_fst (fun _ _ h => .restorePrivate h) (.sliceRead h))

theorem State.Canonical.restoreGang {ctx : Nat} {ts : List SavedTeam} {gang : Nat} {r : Search} (h : s.Canonical) :
    (s.restoreGang ctx ts gang r).Canonical := by
  unfold State.restoreGang
  refine .foldl (fun _ _ h => .drainLog h) ?_
  refine .foldl (fun _ _ h => .foldl (fun _ _ h => .checkBarrier (.setBarrier h)) h) ?_
  refine .foldl (fun _ _ h => .foldl (fun _ _ h => h) h) ?_
  exact .foldl (fun _ _ h => .restoreTeam h) h

theorem State.Canonical.offerSaved {ctx : Nat} {gangs : List Nat} (h : s.Canonical) :
    (s.offerSaved ctx gangs).Canonical := by
  induction gangs generalizing s with
  | nil => exact h
  | cons gang gangs ih =>
    unfold State.offerSaved
    dsimp only
    split
    · exact ih h
    · split
      · exact ih h
      · split
        · exact .restoreGang (.countDeferrals h)
        · exact ih (.countDeferrals h)

theorem OutcomeCanonical.execTeamRestore {ctx : Nat} (h : s.Canonical) : OutcomeCanonical (execTeamRestore ctx s) :=
  .event (ite_holds .none (.some (.offerSaved h)))

theorem OutcomeCanonical.execPreemptStatusWrite {ctx : Nat} (h : s.Canonical) :
    OutcomeCanonical (execPreemptStatusWrite ctx s) := by
  unfold Machine.execPreemptStatusWrite
  refine .event ?_
  split
  · exact .none
  · refine .some ?_
    split
    · exact .agentWord (.agentWalk (.ite h h))
    · exact .ite h h

/-! ### Observation -/

theorem OutcomeCanonical.execSample {core : Nat} (h : s.Canonical) : OutcomeCanonical (execSample core s) := by
  unfold Machine.execSample
  refine .event ?_
  dsimp only
  split
  · exact .none
  · refine ite_holds .none ?_
    split
    · exact .some h
    · refine ite_holds (.some h) (.some (.of_mem ?_))
      simp only [State.modCtx_mem, State.modGroup, State.setGroup_mem]
      exact State.wf_homeWrite _ _ _ _ h

theorem OutcomeCanonical.execTrialDelayExpire {g : Nat} (h : s.Canonical) :
    OutcomeCanonical (execTrialDelayExpire g s) := by
  unfold Machine.execTrialDelayExpire
  refine .event ?_
  split
  · exact ite_holds (.some h) .none
  · exact .none

theorem State.Canonical.squash {k : Nat} (h : s.Canonical) : (s.squash k).Canonical := by
  unfold State.squash
  split
  · exact h
  · exact .foldl (fun _ _ h => h) h

theorem OutcomeCanonical.execChunkCommit {g : Nat} (h : s.Canonical) : OutcomeCanonical (execChunkCommit g s) := by
  unfold Machine.execChunkCommit
  refine .event ?_
  split
  · exact .none
  · refine ite_holds .none ?_
    refine ite_holds (.some (.squash h)) ?_
    refine ite_holds (.some h) ?_
    split
    · exact .some h
    · exact ite_holds .none (ite_holds (.some h) (.some (.ite (.startPreempt h) h)))

/-! ### Controls and failures -/

theorem State.Canonical.sequenced {host : Bool} {w : ControlWrite} (h : s.Canonical) :
    (s.sequenced host w).Canonical :=
  .ite h (.ite h h)

theorem OutcomeCanonical.controlWrite {fn : Nat} {w : Word} {host : Bool} (h : s.Canonical) :
    OutcomeCanonical (controlWrite fn w host s) :=
  .next (.sequenced h)

theorem State.Canonical.startTrial {ctx : Nat} {t : Trial} (h : s.Canonical) : (s.startTrial ctx t).Canonical :=
  .foldl (fun _ _ h => h) h

theorem State.Canonical.armSampling {c : Control} {ctx : Nat} (h : s.Canonical) : (s.armSampling c ctx).Canonical :=
  .foldl (fun _ _ h => h) h

theorem State.Canonical.armTrial {c : Control} {ctx : Nat} (h : s.Canonical) : (s.armTrial c ctx).Canonical :=
  .ite (.startTrial (.stopTrial h)) (.stopTrial h)

theorem State.Canonical.applied {fn : Nat} {c : Control} (h : s.Canonical) : (s.applied fn c).Canonical := by
  unfold State.applied
  refine .ite h ?_
  refine .ite (.foldl (fun _ _ h => h) h) ?_
  refine .ite (.foldl (fun _ _ h => .armSampling h) h) ?_
  exact .ite (.ite h h) (.ite (.foldl (fun _ _ h => .armTrial h) h) (.ite (.foldl (fun _ _ h => h) h) h))

theorem OutcomeCanonical.execControlApply {fn : Nat} (h : s.Canonical) : OutcomeCanonical (execControlApply fn s) :=
  .event (ite_holds .none (.some (.applied h)))

theorem State.Canonical.bootFails {f : BootFailure} (h : s.Canonical) : (s.bootFails f).Canonical :=
  .ite h (.ite h (.ite h h))

theorem MoveCanonical.bootRun {fs : List BootFailure} (h : s.Canonical) : MoveCanonical (s.bootRun fs) := by
  induction fs generalizing s with
  | nil => exact .some h
  | cons f fs ih => exact ite_holds .none (ite_holds (.some (.bootFails h)) (ih (.bootFails h)))

theorem OutcomeCanonical.execBootRecordClear (h : s.Canonical) : OutcomeCanonical (execBootRecordClear s) :=
  .next (.ite (.getD (.bootRun h) h) h)

theorem OutcomeCanonical.execCoreFailure {core : Nat} (h : s.Canonical) :
    OutcomeCanonical (execCoreFailure core s) := by
  have hf (grids mine ids : List Nat) (u : Group → Group) :
      (ids.foldl (fun s id => s.dropLocks id false) (mine.foldl (fun s k => (s.endGroup k).modGroup k u)
        (grids.foldl (fun s q => s.endGrid q 0xE1 0) s))).Canonical := by
    refine .foldl (fun _ _ h => h) (.foldl (fun s k h => .of_mem ?_) (.foldl (fun _ _ h => .endGrid h) h))
    simp only [State.modGroup, State.setGroup_mem]
    exact State.Canonical.endGroup h
  unfold Machine.execCoreFailure
  refine .event (ite_holds .none (.some (.ite (.of_mem ?_) (.of_mem ?_))))
  · simp only [State.markAbsent, State.modCluster_mem, State.setCore_mem]
    exact hf _ _ _ _
  · simp only [State.setCore_mem]
    exact hf _ _ _ _

theorem State.Canonical.eventRecord {ctx kind : Nat} (h : s.Canonical) : (s.eventRecord ctx kind).Canonical :=
  .ite (.pushRecord h) h

theorem State.Canonical.eventAll {kind : Nat} (h : s.Canonical) : (s.eventAll kind).Canonical :=
  .foldl (fun _ _ h => .eventRecord h) h

/-! ### Peer devices -/

theorem OutcomeCanonical.execLinkAuthRetry {port : Nat} (h : s.Canonical) :
    OutcomeCanonical (execLinkAuthRetry port s) := by
  unfold Machine.execLinkAuthRetry
  refine .event ?_
  split
  · exact ite_holds (.some h) .none
  · exact .none

theorem State.Canonical.peerStoreFails {p : PeerSend} (h : s.Canonical) : (s.peerStoreFails p).Canonical :=
  .removedStore h

theorem State.Canonical.forward {w : HostWait} {ctx : Nat} {runs : List (Nat × Nat × PeerOp)} (h : s.Canonical) :
    (s.forward w ctx runs).Canonical :=
  .foldl (fun _ _ h => h) h

theorem State.Canonical.peerHost {id offset : Nat} {data : Option (List Byte)} (h : s.Canonical) :
    (s.peerHost id offset data).Canonical := by
  unfold State.peerHost
  split
  · exact h
  · refine .ite h ?_
    dsimp only
    split
    · exact h
    · exact .ite h h

theorem State.Canonical.peerDeliver {p : PeerSend} {data : Option (List Byte)} (h : s.Canonical) :
    (s.peerDeliver p data).Canonical := by
  unfold State.peerDeliver
  dsimp only
  split
  · exact .foldl (fun _ _ h => h) h
  · split
    · exact .peerHost h
    · exact h
    · exact .ite (.peerStoreFails h) h
    · exact .ite h h

theorem OutcomeCanonical.execPeerAck {dev seq : Nat} {ok : Bool} {data : List Byte} (h : s.Canonical) :
    OutcomeCanonical (execPeerAck dev seq ok data s) := by
  unfold Machine.execPeerAck
  refine .event ?_
  split
  · exact .none
  · exact ite_holds (.some (.peerDeliver h)) .none

theorem State.Canonical.writeKeys {ks : List Nat} {bs : List Byte} (h : s.Canonical) :
    (s.writeKeys ks bs).Canonical :=
  .foldl (fun _ _ h => .homeWrite h) h

theorem State.Canonical.readKeys {ks : List Nat} (h : s.Canonical) : (s.readKeys ks).1.Canonical := by
  unfold State.readKeys
  dsimp only
  split <;> exact .foldl (fun _ _ h => .ite (.sliceRead h) h) h

theorem State.Canonical.agentAtomic {op ty : BitVec 4} {key : Nat} {b c : Word} (h : s.Canonical) :
    (s.agentAtomic op ty key b c).1.Canonical := by
  unfold State.agentAtomic
  split
  · next t e => exact State.Canonical.of_fst e (.readKeys h)
  · next t _ e =>
    have ht := State.Canonical.of_fst e (.readKeys h)
    dsimp only
    split
    · exact .homeWord ht
    · exact ht

theorem State.Canonical.readRuns {runs : List (Nat × Nat × List Byte)} (h : s.Canonical) :
    (s.readRuns runs).1.Canonical :=
  .foldl_fst (fun _ _ h => .readKeys h) h

theorem State.Canonical.peerPerform {r : PeerRequest} (h : s.Canonical) : (s.peerPerform r).Canonical := by
  unfold State.peerPerform
  dsimp only
  split
  · split
    · exact h
    · refine .ite (.readKeys h) ?_
      split
      · next t e =>
        have ht := State.Canonical.of_fst e (.readRuns h)
        exact ht
      · next t _ e =>
        have ht := State.Canonical.of_fst e (.readRuns h)
        exact .forward ht
  · split
    · exact h
    · exact .ite (.writeKeys h) (.forward (.foldl (fun _ _ h => .homeWrite h) h))
  · split
    · exact .ite (.forward h) (.agentAtomic h)
    · exact h
  · exact h

theorem OutcomeCanonical.execPeerAccess {r : PeerRequest} (h : s.Canonical) : OutcomeCanonical (execPeerAccess r s) :=
  .event (ite_holds .none (ite_holds (.some h) (ite_holds .none (.some (.peerPerform h)))))

/-! ### The host port -/

theorem State.Canonical.inOrder {stream : Nat} {psn : BitVec 32} {perform : State → State} (h : s.Canonical)
    (hperform : ∀ s, s.Canonical → (perform s).Canonical) : (s.inOrder stream psn perform).Canonical := by
  unfold State.inOrder
  split
  · exact hperform _ h
  · exact h
  · exact h

theorem State.Canonical.nextOr {o : Host.Outcome State Fault Refusal} (h : s.Canonical) (ho : OutcomeCanonical o) :
    (nextOr s o).Canonical := by
  cases o with
  | next t => exact ho t rfl
  | fault r => exact h
  | refused r => exact h

theorem State.Canonical.controlPut {o : Nat} {w : Word} (h : s.Canonical) : (s.controlPut o w).Canonical :=
  .ite (.ite h (.sequenced h)) (.ite (.ite (.nextOr h (.execBootRecordClear h)) h) (.ite (.sequenced h) h))

theorem State.Canonical.firmwareAccess {at_ n : Nat} {data : List Byte} (h : s.Canonical) :
    (s.firmwareAccess at_ n data).Canonical :=
  .ite (.ite (.readKeys h) (.writeKeys h)) h

theorem State.Canonical.tiadeRead {p : TiadePacket} (h : s.Canonical) : (s.tiadeRead p).Canonical := by
  unfold State.tiadeRead
  refine .ite ?_ ?_
  · split <;> exact h
  · split
    · exact h
    · refine .ite ?_ ?_
      · split
        · next t _ e =>
          have ht := State.Canonical.of_fst e (.readKeys (.commitAgent h))
          exact ht
        · next t e =>
          have ht := State.Canonical.of_fst e (.readKeys (.commitAgent h))
          exact ht
      · split
        · next t _ e =>
          have ht := State.Canonical.of_fst e (.readRuns (.commitAgent h))
          exact .forward ht
        · next t e =>
          have ht := State.Canonical.of_fst e (.readRuns (.commitAgent h))
          exact ht

theorem State.Canonical.wakeWords {ctx : Nat} {ks : List Nat} (h : s.Canonical) : (s.wakeWords ctx ks).Canonical :=
  .foldl (fun _ _ h => h) h

theorem State.Canonical.tiadeWrite {p : TiadePacket} (h : s.Canonical) : (s.tiadeWrite p).Canonical := by
  unfold State.tiadeWrite
  refine .ite ?_ ?_
  · split
    · exact h
    · exact .foldl (fun _ _ h => .controlPut h) h
  · split
    · exact h
    · refine .ite (.wakeWords (.writeKeys (.commitAgent h))) (.forward (.wakeWords ?_))
      exact .foldl (fun _ _ h => .homeWrite h) (.commitAgent h)

theorem State.Canonical.tiadeAtomic {p : TiadePacket} (h : s.Canonical) : (s.tiadeAtomic p).Canonical := by
  unfold State.tiadeAtomic
  refine .ite h ?_
  split
  · refine .ite (.forward (.commitAgent h)) ?_
    split
    · next t _ e =>
      have ht := State.Canonical.of_fst e (.agentAtomic (.commitAgent h))
      exact ht
    · next t e =>
      have ht := State.Canonical.of_fst e (.agentAtomic (.commitAgent h))
      exact ht
  · exact h
  · exact h

theorem OutcomeCanonical.hostAccess {name : String} {p : TiadePacket} {ok writes : Bool} {f : State → State}
    (hf : ∀ s, s.Canonical → (f s).Canonical) (h : s.Canonical) : OutcomeCanonical
    (hostAccess name p ok writes f s) :=
  ite_holds (.next h) (ite_holds (.next (.inOrder h hf)) .refused)

theorem OutcomeCanonical.manage {p : MgmtPacket} {op : State → State × Nat × List Byte}
    (hop : ∀ s, s.Canonical → (op s).1.Canonical) (h : s.Canonical) : OutcomeCanonical (manage p op s) :=
  .next (.ite h (.inOrder h (fun _ h => hop _ h)))

theorem OutcomeCanonical.manageIf {name : String} {mine : Bool} {p : MgmtPacket}
    {op : State → State × Nat × List Byte} (hop : ∀ s, s.Canonical → (op s).1.Canonical) (h : s.Canonical) :
    OutcomeCanonical (manageIf name mine p op s) :=
  ite_holds (.manage hop h) .refused

theorem OutcomeCanonical.execPreemptContext {p : MgmtPacket} (h : s.Canonical) :
    OutcomeCanonical (execPreemptContext p s) := by
  unfold Machine.execPreemptContext
  refine .manageIf (fun _ h => ?_) h
  split
  · exact h
  · exact .ite_fst h (.ite_fst (.startPreempt h) h)

theorem OutcomeCanonical.execResumeContext {p : MgmtPacket} (h : s.Canonical) :
    OutcomeCanonical (execResumeContext p s) := by
  unfold Machine.execResumeContext
  refine .manageIf (fun _ h => ?_) h
  split
  · exact h
  · exact .ite_fst h (.requestLoad h)

theorem State.Canonical.takeRoster {ctx : Nat} (h : s.Canonical) : (s.takeRoster ctx).1.Canonical := h

theorem OutcomeCanonical.spdmEvent {name : String} {p : MgmtPacket} {mine : SpdmAsk → Bool}
    {op : State → SpdmAsk → State × List Byte} (hop : ∀ s x1, s.Canonical → (op s x1).1.Canonical)
    (h : s.Canonical) : OutcomeCanonical (spdmEvent name p mine op s) :=
  ite_holds (.manage (fun _ h => hop _ _ h) h) .refused

theorem OutcomeCanonical.execGetVersion {p : MgmtPacket} (h : s.Canonical) : OutcomeCanonical (execGetVersion p s) :=
  .spdmEvent (fun _ _ h => h) h

theorem OutcomeCanonical.execGetCapabilities {p : MgmtPacket} (h : s.Canonical) :
    OutcomeCanonical (execGetCapabilities p s) :=
  .spdmEvent (fun _ _ h => h) h

theorem OutcomeCanonical.execNegotiateAlgorithms {p : MgmtPacket} (h : s.Canonical) :
    OutcomeCanonical (execNegotiateAlgorithms p s) :=
  .spdmEvent (fun _ _ h => h) h

theorem OutcomeCanonical.execGetMeasurements {p : MgmtPacket} (h : s.Canonical) :
    OutcomeCanonical (execGetMeasurements p s) :=
  .spdmEvent (fun _ _ h => h) h

theorem OutcomeCanonical.execVendorHarvestRequest {p : MgmtPacket} (h : s.Canonical) :
    OutcomeCanonical (execVendorHarvestRequest p s) :=
  .spdmEvent (fun _ _ h => .ite_fst h h) h

theorem OutcomeCanonical.execVendorRosterRequest {p : MgmtPacket} (h : s.Canonical) :
    OutcomeCanonical (execVendorRosterRequest p s) :=
  .spdmEvent (fun _ _ h => .ite_fst h (.takeRoster h)) h

theorem OutcomeCanonical.execSpdmUnsupportedRequest {p : MgmtPacket} (h : s.Canonical) :
    OutcomeCanonical (execSpdmUnsupportedRequest p s) := by
  unfold Machine.execSpdmUnsupportedRequest
  refine .spdmEvent (fun _ _ h => ?_) h
  split <;> exact h

/-! ### Permutations -/

theorem OutcomeCanonical.interleave {i : Instr} {k : Nat} {d a : BitVec 7} {f : Group → Nat → Word}
    (h : s.Canonical) : OutcomeCanonical (interleave i k d a f s) :=
  .performG h

theorem OutcomeCanonical.zip {i : Instr} {k : Nat} {d a : BitVec 7} (h : s.Canonical) :
    OutcomeCanonical (zip i k d a s) :=
  .interleave h

theorem OutcomeCanonical.unzip {i : Instr} {k : Nat} {d a : BitVec 7} (h : s.Canonical) :
    OutcomeCanonical (unzip i k d a s) :=
  .interleave h

/-! ### Every instruction and event -/

theorem OutcomeCanonical.exec {i : Instr} (h : s.Canonical) : OutcomeCanonical (exec i s) := by
  unfold Machine.exec
  cases i with
  | sadd | ssub | smul | smulhi | smulhn | sdiv | sdivn | srem | smin | smax | sminn | smaxn | saddc | ssubb
  | sand | sor | sxor | sandn | sshl | sshr | ssra | srot | scmp => exact .scalar2 h
  | sclz | spopc | sbrev | sext | smov | saddImm | sandImm | sshlImm | sshrImm | ssraImm | srotImm | saddLit
  | sandLit | sorLit | sxorLit | smulLit => exact .scalar1 h
  | ssel | slit | btget | mnot | mpopc | mfirst | msetx | mgetx | mtest | jmp | call | ret | jmpi | loop | nop
  | cvtsr | tagrd | tagwr | vrng | lwrite => exact .performG h
  | sld | sst | wakew | tload => exact .perform (fun _ h => .issue h) h
  | btset => exact .execBtset h
  | srd => exact .execSrd h
  | swr => exact .execSwr h
  | mand | mor | mxor | mandn => exact .mask2 h
  | br => exact .execBr h
  | halt => exact .execHalt h
  | yield => exact .execYield h
  | ipref => exact .perform (fun _ h => .askCode h) h
  | bara => exact .execBara h
  | barw => exact .perform (fun _ h => ite_holds (.barrierDone h) (.waitBarrier h)) h
  | baraw => exact .execBaraw h
  | vadd | vsub | vmul | vmulhi | vmulhn | vmin | vmax | vminn | vmaxn | vadds | vsubs | vand | vor | vxor
  | vandn | vshl | vshr | vsra => exact .vint2 h
  | vabs | vclz | vpopc | fclass | frnd | unpack2 | unpack4 => exact .vec1 h
  | vmad | vsel | vmov | vidx | vbcast | ffma | hfma2 | cvt | pack2 | pack4 | lshuf | lrot => exact .vecRun h
  | vcmp | fcmp | dwcmp => exact .cmpRun h
  | fadd | fsub | fmul | faddRm | fsubRm | fmulRm => exact .fpArith h
  | fmin | fmax | fscale => exact .vec2 h
  | hadd2Bf16 | hadd2F16 | hmul2Bf16 | hmul2F16 | hadd2 | hmul2 => exact .halfArith h
  | frcp | frsq | fsqrt | fexp2 | flog2 | fsin | fcos => exact .longFp1 h
  | fdiv => exact .vecLate h
  | zip2 | zip3 | zip4 => exact .zip h
  | unzip2 | unzip3 | unzip4 => exact .unzip h
  | lread | ifence | scbegin => exact .perform (fun _ h => h) h
  | faddx | fsubx | fmulx => exact .primitive h
  | dwadd | dwadds | dwmul | dwmuls | dwnorm => exact .pairRun h
  | dwdiv | dwsqrt => exact .pairLate h
  | dwcvt => exact .execDwcvt h
  | creduce => exact .execCreduce h
  | credseg => exact .execCredseg h
  | qswapx | qswapy | qswapd | qbcast => exact .quadMove h
  | greduce | gscan | gsegred | gmatch => exact .perform (fun _ h => ite_holds h (.lateWrites h)) h
  | vld | vld2w | vlds | vlds2w | vldi | vldi2w => exact .baseLoad h
  | vst | vst2w | vsts | vsts2w | vsti | vsti2w => exact .baseStore h
  | pref | pref2w => exact .perform (fun _ h => .ite h (.prefetch h)) h
  | vldp | vldp2w => exact .privLoad h
  | vstp | vstp2w => exact .privStore h
  | spld | spld2w | spldx | spldx2w => exact .spLoad h
  | spst | spst2w | spstx | spstx2w => exact .spStore h
  | atom | red => exact .vecAccess (fun _ h => .baseTurned h) (fun _ h => .freshBase h) h
  | spatom => exact .execSpatom h
  | satom => exact .execSatom h
  | fence => exact .execFence h
  | icinv => exact .perform (fun _ h => ite_holds trivial h) h
  | msend => exact .execMsend h
  | mrecv => exact .execMrecv h
  | waitw => exact .execWaitw h
  | cpy => exact .execCpy h
  | ewait | mwait => exact .perform (fun _ h => ite_holds trivial (ite_holds (.demote h) (.acquireL1 h))) h
  | epoll => exact .perform (fun _ h => ite_holds trivial (.ite h (.acquireL1 h))) h
  | mma => exact .execMma h
  | mmas => exact .execMmas h
  | mmag => exact .execMmag h
  | mbatch => exact .perform (fun _ h => .ite h h) h
  | gath => exact .execGath h
  | scat => exact .execScat h
  | scprobe => exact .execScprobe h
  | scsave => exact .execScsave h
  | nredx => exact .execNredx h
  | promote => exact .perform (fun _ h => .ite h (.leaveClass h)) h
  | trap | bkpt => exact .trapWith h
  | rte => exact .perform (fun _ h => .ite (.harvests h) h) h
  | rteEnd => exact .perform (fun _ h => .endGroup (.endGrid h)) h
  | tsave => exact .execTsave h
  | ctxsave => exact .ctxRequest (fun _ _ _ _ h => .requestSave h) h
  | ctxload => exact .ctxRequest (fun _ _ _ _ h => .requestLoad h) h
  | progress => exact .execProgress h
  | undefinedInstruction | reservedMajor => exact .next (.ite h (.raise h))
  | clauseStart => exact .execClauseStart h
  | instructionCacheFill => exact .execInstructionCacheFill h
  | loadReturn => exact .execLoadReturn h
  | storeAccepted => exact .execStoreAccepted h
  | atomicReturn => exact .execAtomicReturn h
  | resultWrite => exact .execResultWrite h
  | releaseComplete => exact .execReleaseComplete h
  | icinvComplete => exact .execIcinvComplete h
  | promotionStart => exact .execPromotionStart h
  | promotionSwitchDone => exact .execPromotionSwitchDone h
  | demotionSwitchDone => exact .execDemotionSwitchDone h
  | barrierLaggardQualify => exact .execBarrierLaggardQualify h
  | barrierPhaseComplete => exact .execBarrierPhaseComplete h
  | barrierWake => exact .execBarrierWake h
  | groupRegistersReturn => exact .execGroupRegistersReturn h
  | teamEnd => exact .execTeamEnd h
  | cbitmapSet => exact .execCbitmapSet h
  | dispatcherTailRead => exact .execDispatcherTailRead h
  | launchRecordTake => exact .execLaunchRecordTake h
  | teamPlacement => exact .execTeamPlacement h
  | consumerRelease => exact .execConsumerRelease h
  | pinGrant => exact .execPinGrant h
  | accessRetryResend => exact .execAccessRetryResend h
  | recallComplete => exact .execRecallComplete h
  | l1LineFill => exact .execL1LineFill h
  | l2LineFill => exact .execL2LineFill h
  | pageWalkComplete => exact .execPageWalkComplete h
  | faultRecordAnswer => exact .execFaultRecordAnswer h
  | invalidateRange => exact .execInvalidateRange h
  | invalidateRangeDone => exact .execInvalidateRangeDone h
  | compact => exact .execCompact h
  | compactDone => exact .execCompactDone h
  | translationRequestFail => exact .execTranslationRequestFail h
  | commandIssueResume => exact .execCommandIssueResume h
  | sourceReadDone => exact .execSourceReadDone h
  | copyEngineTake => exact .execCopyEngineTake h
  | cpyComplete => exact .execCpyComplete h
  | enginePageFault => exact .execEnginePageFault h
  | engineFailure => exact .execEngineFailure h
  | matrixEngineTake => exact .execMatrixEngineTake h
  | matrixCommandComplete => exact .execMatrixCommandComplete h
  | gatherScatterComplete => exact .execGatherScatterComplete h
  | scsaveStart => exact .execScsaveStart h
  | scsaveComplete => exact .execScsaveComplete h
  | scprobeComplete => exact .execScprobeComplete h
  | partialMerge => exact .execPartialMerge h
  | roundResultSend => exact .execRoundResultSend h
  | nredxComplete => exact .execNredxComplete h
  | messageDelivery => exact .execMessageDelivery h
  | wakeDelivery => exact .execWakeDelivery h
  | waitwTimeout => exact .execWaitwTimeout h
  | routerPowerDown => exact .execRouterPowerDown h
  | routerWake => exact .execRouterWake h
  | faultRecordRelease => exact .execFaultRecordRelease h
  | eventRecordRelease => exact .execEventRecordRelease h
  | forcedSave => exact .execForcedSave h
  | preemptStatusWrite => exact .execPreemptStatusWrite h
  | teamRestore => exact .execTeamRestore h
  | tiadeRead => exact .hostAccess (fun _ h => .tiadeRead h) h
  | tiadeWrite => exact .hostAccess (fun _ h => .tiadeWrite h) h
  | tiadeAtomic => exact .hostAccess (fun _ h => .tiadeAtomic h) h
  | tiadeFrameDrop | linkFailure | flitCrcError => exact .event (ite_holds (.some h) .none)
  | createContext | setStep | removeWindow | harvestRecord => exact .manage (fun _ h => .ite_fst h h) h
  | destroyContext => exact .manage (fun _ h => .ite_fst h (.ite_fst h h)) h
  | preemptContext => exact .execPreemptContext h
  | resumeContext => exact .execResumeContext h
  | registerWindow => exact .manage (fun _ h => .ite_fst h (.ite_fst h (.ite_fst h h))) h
  | registerLaunchQueueTable => exact .manage (fun _ h => h) h
  | rosterRecord => exact .manage (fun _ h => .ite_fst h (.takeRoster h)) h
  | getVersion => exact .execGetVersion h
  | getCapabilities => exact .execGetCapabilities h
  | negotiateAlgorithms => exact .execNegotiateAlgorithms h
  | getMeasurements => exact .execGetMeasurements h
  | vendorHarvestRequest => exact .execVendorHarvestRequest h
  | vendorRosterRequest => exact .execVendorRosterRequest h
  | spdmUnsupportedRequest => exact .execSpdmUnsupportedRequest h
  | linkAuthentication => exact .event (ite_holds .none (.some h))
  | linkAuthRetry => exact .execLinkAuthRetry h
  | peerAccess => exact .execPeerAccess h
  | peerAck => exact .execPeerAck h
  | peerPathTimeout => exact .event (ite_holds .none (.some (.foldl (fun _ _ h => .peerDeliver h) h)))
  | sample => exact .execSample h
  | trialDelayExpire => exact .execTrialDelayExpire h
  | chunkCommit => exact .execChunkCommit h
  | powerLimit | coreClock | routerPowerDownControl | hostPortControl | peerPortsControl | samplingControl
  | reuseHistogramControl | causalTrialControl | replayControl => exact .controlWrite h
  | expertBlockWrite => exact .event (ite_holds .none (.some (.sequenced h)))
  | controlApply => exact .execControlApply h
  | bootRecordClear => exact .execBootRecordClear h
  | moduleReset => exact .event (ite_holds .none (.bootRun h))
  | coreFailure => exact .execCoreFailure h
  | clockStepDown => exact .next (.ite h (.ite h h))
  | coolantFlowLost => exact .event (ite_holds (.some (.eventAll h)) .none)
  | coolantFlowRestored => exact .event (ite_holds .none (.some (.eventAll h)))

/-! ### The schedule -/

theorem State.Canonical.tick {n : Nat} {ticks : List (Nat × Nat)} (h : s.Canonical) : (s.tick n ticks).Canonical :=
  .touchRouters (.foldl (fun _ _ h => h) (.ite h (.reuseTick h)))

theorem MoveCanonical.took {o : Host.Outcome State Fault Refusal} (ho : OutcomeCanonical o) :
    MoveCanonical (took o) := by
  cases o with
  | next t => exact .some (ho t rfl)
  | fault r => exact .none
  | refused r => exact .none

theorem MoveCanonical.orElse {a : Option State} {b : Unit → Option State} (ha : MoveCanonical a)
    (hb : ∀ u, MoveCanonical (b u)) : MoveCanonical (orElse a b) := by
  unfold Machine.orElse
  split
  · exact ha
  · exact hb ()

theorem MoveCanonical.firstOk {α : Type} {f : α → Option State} {l : List α} (hf : ∀ x, MoveCanonical (f x)) :
    MoveCanonical (firstOk f l) := by
  induction l with
  | nil => exact .none
  | cons x l ih => exact .orElse (hf x) fun _ => ih

theorem MoveCanonical.accessMove {k : Nat} {a : Access} (h : s.Canonical) : MoveCanonical (s.accessMove k a) := by
  unfold State.accessMove
  refine .orElse (.took (.execLoadReturn h)) (fun _ => ?_)
  refine .orElse (.took (.execStoreAccepted h)) (fun _ => ?_)
  refine .orElse (.took (.execAtomicReturn h)) (fun _ => ?_)
  refine .orElse (.firstOk (fun _ => .took (.execL2LineFill h))) (fun _ => ?_)
  refine .orElse (.firstOk (fun _ => .took (.execPinGrant h))) (fun _ => ?_)
  refine .orElse (.firstOk (fun _ => .took (.execL1LineFill h))) (fun _ => ?_)
  refine .orElse (.firstOk (fun _ => .took (.execRecallComplete h))) (fun _ => ?_)
  exact .firstOk (fun _ => .took (.execAccessRetryResend h))

theorem MoveCanonical.groupMove {k : Nat} {g : Group} (h : s.Canonical) : MoveCanonical (s.groupMove k g) := by
  unfold State.groupMove
  refine .orElse (.took (.execResultWrite h)) (fun _ => ?_)
  refine .orElse ?_ (fun _ => ?_)
  · refine .firstOk (fun _ => ?_)
    refine .orElse (.took (.execLoadReturn h)) (fun _ => ?_)
    exact .orElse (.took (.execStoreAccepted h)) (fun _ => .took (.execAtomicReturn h))
  · refine .orElse (.firstOk (fun _ => .accessMove h)) (fun _ => ?_)
    refine .orElse ?_ (fun _ => ?_)
    · split
      · exact .firstOk (fun _ => .took (.execPageWalkComplete h))
      · exact .took (.execInstructionCacheFill h)
      · exact .took (.execReleaseComplete h)
      · exact .took (.execIcinvComplete h)
      · exact .took (.execWaitwTimeout h)
      · exact .took (.execCommandIssueResume h)
      · exact .none
    · refine .orElse (.took (.execPromotionSwitchDone h)) (fun _ => ?_)
      refine .orElse (.took (.execDemotionSwitchDone h)) (fun _ => ?_)
      refine .orElse (.took (.execTrialDelayExpire h)) (fun _ => ?_)
      refine .orElse (.took (.execChunkCommit h)) (fun _ => ?_)
      refine .orElse (.took (.execPromotionStart h)) (fun _ => ?_)
      refine .orElse (.took (.execGroupRegistersReturn h)) (fun _ => ?_)
      exact .orElse (.took (.execClauseStart h)) (fun _ => .took (.execInstructionCacheFill h))

theorem MoveCanonical.cmdMove {id : Nat} {c : Cmd} (h : s.Canonical) : MoveCanonical (s.cmdMove id c) := by
  unfold State.cmdMove
  refine .orElse (.took (.execSourceReadDone h)) (fun _ => ?_)
  refine .orElse (.took (.execCpyComplete h)) (fun _ => ?_)
  refine .orElse (.took (.execMatrixCommandComplete h)) (fun _ => ?_)
  refine .orElse (.took (.execGatherScatterComplete h)) (fun _ => ?_)
  refine .orElse (.took (.execScsaveStart h)) (fun _ => ?_)
  refine .orElse (.took (.execScsaveComplete h)) (fun _ => ?_)
  refine .orElse (.took (.execScprobeComplete h)) (fun _ => ?_)
  refine .orElse (.took (.execPartialMerge h)) (fun _ => ?_)
  refine .orElse (.took (.execNredxComplete h)) (fun _ => ?_)
  refine .orElse (.took (.execEngineFailure h)) (fun _ => ?_)
  refine .orElse (.took (.execEnginePageFault h)) (fun _ => ?_)
  refine .orElse (.took (.execCopyEngineTake h)) (fun _ => ?_)
  exact .orElse (.took (.execMatrixEngineTake h)) (fun _ => .enginePause h)

theorem MoveCanonical.teamMove {id : Nat} (h : s.Canonical) : MoveCanonical (s.teamMove id) := by
  unfold State.teamMove
  refine .orElse ?_ (fun _ => .orElse (.took (.execTeamEnd h)) (fun _ => .took (.execCbitmapSet h)))
  exact .firstOk (fun _ => .orElse (.took (.execBarrierPhaseComplete h)) (fun _ => .took (.execBarrierWake h)))

theorem MoveCanonical.contextMove {ctx : Nat} {c : Context} (h : s.Canonical) :
    MoveCanonical (s.contextMove ctx c) := by
  unfold State.contextMove
  refine .orElse (.firstOk (fun _ => .took (.execFaultRecordAnswer h))) (fun _ => ?_)
  refine .orElse (.took (.execFaultRecordRelease h)) (fun _ => ?_)
  refine .orElse (.took (.execEventRecordRelease h)) (fun _ => ?_)
  refine .orElse (.took (.execInvalidateRange h)) (fun _ => ?_)
  refine .orElse (.took (.execInvalidateRangeDone h)) (fun _ => ?_)
  refine .orElse (.took (.execCompact h)) (fun _ => ?_)
  refine .orElse (.took (.execCompactDone h)) (fun _ => ?_)
  refine .orElse (.took (.execTranslationRequestFail h)) (fun _ => ?_)
  exact .orElse (.took (.execTeamRestore h)) (fun _ => .took (.execTeamPlacement h))

theorem MoveCanonical.ownMove (h : s.Canonical) : MoveCanonical (s.ownMove) := by
  unfold State.ownMove
  refine .orElse (.firstOk (fun _ => .groupMove h)) (fun _ => ?_)
  refine .orElse (.firstOk (fun _ => .took (.execRecallComplete h))) (fun _ => ?_)
  refine .orElse (.firstOk (fun _ => .teamMove h)) (fun _ => ?_)
  refine .orElse (.firstOk (fun _ => .took (.execWakeDelivery h))) (fun _ => ?_)
  refine .orElse (.firstOk (fun _ => .cmdMove h)) (fun _ => ?_)
  refine .orElse ?_ (fun _ => ?_)
  · exact .firstOk (fun _ => .orElse (.took (.execRoundResultSend h)) (fun _ => .took (.execPartialMerge h)))
  · refine .orElse (.firstOk (fun _ => .took (.execMessageDelivery h))) (fun _ => ?_)
    refine .orElse (.firstOk (fun _ => .contextMove h)) (fun _ => ?_)
    refine .orElse (.firstOk fun _ => ite_holds (.firstOk fun _ => .took (.execConsumerRelease h)) .none) (fun _ =>
      ?_)
    refine .orElse (.firstOk (fun _ => .took (.execPreemptStatusWrite h))) (fun _ => ?_)
    refine .orElse (.firstOk (fun _ => .took (.execForcedSave h))) (fun _ => ?_)
    refine .orElse (.firstOk (fun _ => .took (.execDispatcherTailRead h))) (fun _ => ?_)
    refine .orElse (.firstOk (fun _ => .took (.execLaunchRecordTake h))) (fun _ => ?_)
    refine .orElse (.firstOk (fun _ => .took (.execLinkAuthRetry h))) (fun _ => ?_)
    refine .orElse (.firstOk (fun _ => .took (.execRouterWake h))) (fun _ => ?_)
    refine .orElse (.firstOk (fun _ => .took (.execControlApply h))) (fun _ => ?_)
    exact .firstOk (fun _ => .took (.execRouterPowerDown h))

/-! ### What moves next -/

theorem State.Canonical.openChunk {k : Nat} (h : s.Canonical) : (s.openChunk k).Canonical := .ite h h

theorem State.Canonical.noteCounts {s t : State} {k : Nat} (ht : t.Canonical) : (s.noteCounts t k).Canonical :=
  .ite ht ht

theorem State.Canonical.afterIssue {s t : State} {k : Nat} (ht : t.Canonical) : (s.afterIssue t k).Canonical :=
  .stopEnded (.ite (.ite ht (.ite ht ht)) (.noteCounts (.ite ht (.ite ht ht))))

/-! ### A step -/

theorem OutcomeCanonical.settled {o : Host.Outcome State Fault Refusal} (ho : OutcomeCanonical o) :
    OutcomeCanonical (settled o) := by
  cases o with
  | next t => exact .next (.touchRouters (ho t rfl))
  | fault r => exact .fault
  | refused r => exact .refused

theorem OutcomeCanonical.issued {k : Nat} {o : Host.Outcome State Fault Refusal} (ho : OutcomeCanonical o) :
    OutcomeCanonical (issued k s o) := by
  unfold Machine.issued
  split
  · exact .next (.afterIssue (ho _ rfl))
  · exact ho

theorem OutcomeCanonical.issue {k : Nat} (h : s.Canonical) : OutcomeCanonical (issue k s) := by
  unfold Machine.issue
  refine ite_holds .refused ?_
  refine ite_holds (.next (.squash h)) ?_
  dsimp only
  split
  · exact .issued (.exec (.openChunk h))
  · exact .next (.errorEnd (.openChunk h))
  · exact .next (.errorEnd (.openChunk h))
  · exact .issued (.exec (.openChunk h))

theorem OutcomeCanonical.happen {i : Instr} (h : s.Canonical) : OutcomeCanonical (happen i s) := by
  unfold Machine.happen
  refine ite_holds .refused ?_
  refine .exec ?_
  split <;> exact .ite h h

theorem OutcomeCanonical.act {a : Act} (h : s.Canonical) : OutcomeCanonical (act a s) := by
  unfold Machine.act
  split
  · exact .issue h
  · exact .happen h
  · exact .event (.engineStep h)
  · exact .next (.firmwareAccess h)

theorem OutcomeCanonical.takeTurn {t : Turn} (h : s.Canonical) : OutcomeCanonical (takeTurn t s) :=
  ite_holds .fault (.settled (.act (.tick h)))

theorem OutcomeCanonical.ownStep (h : s.Canonical) : OutcomeCanonical (ownStep s) := by
  unfold Machine.ownStep
  refine ite_holds .fault ?_
  split
  · next t eq => exact .next (.touchRouters (.of_some eq (.ownMove h)))
  · split
    · exact .settled (.execSample h)
    · exact .settled (.issue h)
    · split
      · exact .settled (.issue h)
      · exact .next (.tick h)

theorem OutcomeCanonical.step (h : s.Canonical) : OutcomeCanonical (step s) := by
  unfold Machine.step
  split
  · exact .takeTurn h
  · exact .ownStep h

end

/-- Settles O60: a step is an issue, an event, an engine's work or a tick, and each keeps the form. -/
theorem memoryStaysCanonical : Obligations.MemoryStaysCanonical := by
  unfold Obligations.MemoryStaysCanonical
  intro s t h e
  exact OutcomeCanonical.step h t e

end Sys2Proof.Machine
end

section
/-! SETTLED: O25. Private accesses (R22, R114): `accesses_of` says what the issue of a vector access does; what is left is
that the bytes a private store takes from a lane are the words that the claim names one by one. -/

namespace Sys2Proof.Claim

open Machine

@[simp] theorem length_leBytes (n v : Nat) : (leBytes n v).length = n := by
  induction n generalizing v with
  | zero => rfl
  | succ n ih => simp [leBytes, ih]

/-- Word j of what a private store takes from a lane: of a 64-bit store the first word is that of v(r + 1) (R5, R114). -/
theorem storeBytes_word {z : BitVec 3} (hz : z = 4 ∨ z = 5) (g : Group) (r : BitVec 7) (l : Nat) {j : Nat}
    (hj : j ∈ privWords z) :
    ((g.storeBytes r z l).drop (4 * j)).take 4 =
      leBytes 4 (g.lane (if z = 5 ∧ j = 0 then r.toNat + 1 else r.toNat) l).toNat := by
  rcases hz with rfl | rfl
  · obtain rfl : j = 0 := by simpa [privWords] using hj
    simp [Group.storeBytes, sizeBytes]
  · obtain rfl | rfl : j = 0 ∨ j = 1 := by simpa [privWords] using hj
    all_goals simp [Group.storeBytes, List.drop_append]

/-- A private store is a vector access whose entries hold their words. -/
theorem privStore_eq {z : BitVec 3} (hz : z = 4 ∨ z = 5) (i : Instr) (r o : BitVec 7) (x : MlExt) (s : State) :
    privStore i r o z x s =
      vecAccess i { vr := o.toNat :: sizeRegs r z, pairs := sizePairs r z }
        { op := .store, size := 4, hint := x.hint, counter := some 3 } (fun _ => none) id
        (fun s l => (privWords z).map fun j =>
          { res := privAddr o z x false true j s l
            data := leBytes 4 (s.g.lane (if z = 5 ∧ j = 0 then r.toNat + 1 else r.toNat) l).toNat })
        (fun _ => []) s := by
  have e (s : State) (l : Nat) := List.map_congr_left (l := privWords z)
    (f := fun j => ({ res := privAddr o z x false true j s l
                      data := ((s.g.storeBytes r z l).drop (4 * j)).take 4 } : Entry))
    fun j hj => by rw [storeBytes_word hz s.g r l hj]
  simp only [privStore, e]

/-- Settles O25: each private access is a vector access whose entries are its words. -/
theorem privateAccesses : Obligations.PrivateAccesses := by
  unfold Obligations.PrivateAccesses PrivateForms
  dsimp only
  refine ⟨fun d o look z _ => ?_, fun d o look z x _ => ?_, fun r o z hz => ?_, fun r o z x hz => ?_⟩
  · exact accesses_of (fun s => rfl) refreshes_id ⟨rfl, rfl⟩ (.inl rfl)
  · exact accesses_of (fun s => rfl) refreshes_id ⟨rfl, rfl⟩ (.inl rfl)
  · exact accesses_of (privStore_eq hz (.vstp r o z) r o noExt) refreshes_id ⟨rfl, rfl⟩ (.inr rfl)
  · exact accesses_of (privStore_eq hz (.vstp2w r o z x) r o x) refreshes_id ⟨rfl, rfl⟩ (.inr rfl)

end Sys2Proof.Claim
end

section
/-! SETTLED: O58. What a step runs. The next turn's clocks and an opened chunk leave the groups alone, so that what issues is
what the words at the group's place decode to; the rest is the case split of `issue`, `happen` and `ownStep` (R12, R54,
R157). -/

namespace Sys2Proof.Machine

/-! ### What a turn does before its act -/

/-- A fold of updates that leave the groups leaves them. -/
theorem State.groups_foldl {α : Type} (f : State → α → State) (h : ∀ s x, (f s x).groups = s.groups) (l : List α)
    (s : State) : (l.foldl f s).groups = s.groups := by
  induction l generalizing s with
  | nil => rfl
  | cons x l ih => rw [List.foldl_cons, ih, h]

@[simp] theorem State.groups_reuseTick (s : State) : s.reuseTick.groups = s.groups :=
  State.groups_foldl (fun s (r : ReuseReg) => s.addBucket r.ctx r.slot 32) (fun _ _ => rfl) _ s

/-- Clocks pass without a change of any group. -/
@[simp] theorem State.groups_tick (s : State) (n : Nat) (ticks : List (Nat × Nat)) : (s.tick n ticks).groups = s.groups := by
  refine (State.groups_foldl (fun s (p : Nat × Nat) => s.modCore p.1 fun c => { c with ahead := c.ahead + p.2 })
    (fun _ _ => rfl) ticks _).trans ?_
  split
  · rfl
  · exact s.groups_reuseTick

@[simp] theorem State.groups_openChunk (s : State) (k : Nat) : (s.openChunk k).groups = s.groups := by
  unfold State.openChunk
  dsimp only
  split <;> rfl

@[simp] theorem State.err_openChunk (s : State) (k : Nat) : (s.openChunk k).err = s.err := by
  unfold State.openChunk
  dsimp only
  split <;> rfl

/-- Where the groups are the same, so is each group. -/
theorem State.group_congr {s t : State} (h : t.groups = s.groups) (k : Nat) : t.group k = s.group k := by
  unfold State.group
  rw [h]

/-- The instruction at a group's place in the clause that it has. -/
theorem Group.instr_of_clause {g : Group} {c : Clause} (h : g.clause = some c) :
    g.instr = decode (c.words.getD g.word 0) (c.words.getD (g.word + 1) 0) := by
  unfold Group.instr Group.code
  rw [h]
  rfl

/-! ### An issue -/

section
variable {s : State} {k : Nat} (hm : s.mayIssue k = true) (hs : s.selects k = true)
include hm hs

/-- A chunk that must run again does so in place of the issue (R361). -/
theorem issue_squashes (hq : s.squashes k = true) : issue k s = .next (s.squash k) := by
  simp [issue, hm, hs, hq]

/-- An issue with no soft error runs the instruction at the group's place. -/
theorem issue_none (hq : s.squashes k = false) (he : s.err = .none) :
    issue k s = issued k (s.openChunk k) (exec (s.group k).instr { s.openChunk k with cur := k }) := by
  simp [issue, hm, hs, hq, he, State.group_congr (s.groups_openChunk k) k]

/-- An uncorrectable error of a register ends the grid (R368). -/
theorem issue_register (hq : s.squashes k = false) (he : s.err = .register) :
    issue k s = .next ((s.openChunk k).errorEnd k 0) := by
  simp [issue, hm, hs, hq, he]

/-- An uncorrectable error of a word ends the grid (R368). -/
theorem issue_word {va : Nat} (hq : s.squashes k = false) (he : s.err = .word va) :
    issue k s = .next ((s.openChunk k).errorEnd k va) := by
  simp [issue, hm, hs, hq, he]
end

/-- A group of a grid that has not ended does not stop. -/
theorem State.stopEnded_of_not_ended {s : State} {k : Nat} (h : s.gridEnded k = false) : s.stopEnded k = s := by
  simp [State.stopEnded, h]

/-- Where no chunk is open and the group goes on at once, an issue comes to nothing beside the instruction's effect. -/
theorem State.afterIssue_of_goes_on {s t : State} {k : Nat} (hm : (s.context (s.group k).ctx).observe.mode = 0)
    (hw : (t.group k).wait = .none) (ha : (t.group k).waitAccess = none) (he : t.gridEnded k = false) :
    s.afterIssue t k = t := by
  simp [State.afterIssue, Wait.reissues, hm, hw, ha, State.stopEnded_of_not_ended he]

/-! ### A step -/

theorem step_of_turn {s : State} {t : Turn} {ts : List Turn} (h : s.turns = t :: ts) :
    step s = takeTurn t { s with turns := ts } := by
  simp [step, h]

/-- While the module is on, a turn's act is carried out after its clocks. -/
theorem takeTurn_of_on {s : State} (t : Turn) (h : s.off = false) :
    takeTurn t s = settled (act t.act { s.tick t.dt t.ticks with err := t.err }) := by
  simp [takeTurn, h]

theorem step_of_no_turn {s : State} (h : s.turns = []) : step s = ownStep s := by
  simp [step, h]

theorem sampledCore_of_ne {e : Instr} (h : ∀ core, e ≠ .sample core) : sampledCore e = none := by
  unfold sampledCore
  split
  · exact absurd rfl (h _)
  · rfl

/-- An event that takes no sample, with no soft error, is its step. -/
theorem happen_of_no_sample {s : State} {e : Instr} (hz : e.size = 0) (he : s.err = .none) (h : ∀ core, e ≠ .sample core) :
    happen e s = exec e s := by
  simp [happen, hz, he, sampledCore_of_ne h]

/-- A sample notes first whether an interlock holds its group (R358). -/
theorem happen_sample {s : State} {core : Nat} (he : s.err = .none) :
    happen (.sample core) s = exec (.sample core) (s.noteInterlock core) := by
  have hz : (Instr.sample core).size = 0 := rfl
  simp [happen, hz, he, sampledCore]

/-- Settles O58: the cases of the next turn's act, and of a state with no turn. -/
theorem stepRunsDecoded : Obligations.StepRunsDecoded := by
  unfold Obligations.StepRunsDecoded
  refine ⟨?_, ?_, ?_, ?_, ?_⟩
  · intro s ts dt k ticks c e ht ho u v i hm hs hc
    have hg : u.group k = s.group k := State.group_congr (State.groups_tick _ dt ticks) k
    have hi : (u.group k).instr = i := by rw [hg]; exact Group.instr_of_clause hc
    have hstep : step s = settled (issue k u) := (step_of_turn ht).trans (takeTurn_of_on _ ho)
    refine ⟨fun hq => ⟨fun he => ?_, fun he => ?_, fun va he => ?_⟩, fun hq => ?_⟩
    · rw [hstep, issue_none hm hs hq he, hi]
    · rw [hstep, issue_register hm hs hq he]
    · rw [hstep, issue_word hm hs hq he]
    · rw [hstep, issue_squashes hm hs hq]
  · intro s k hmode
    refine ⟨by simp [State.openChunk, hmode], by simp [State.squashes, hmode], fun t hw ha he => ?_⟩
    exact congrArg _ (State.afterIssue_of_goes_on hmode hw ha he)
  · intro s k c ht ho hown hsam hc i runs
    have hstep := step_of_no_turn ht
    have hruns : step s = settled (issue k s) → runs s := by
      intro h hm hs he hq
      rw [h, issue_none hm hs hq he, Group.instr_of_clause hc]
    refine ⟨fun hn => hruns ?_, fun hn => ⟨fun hk => hruns ?_, fun hk => ?_⟩⟩
    · simp [hstep, ownStep, ho, hown, hsam, hn]
    · simp [hstep, ownStep, ho, hown, hsam, hn, hk]
    · simp [hstep, ownStep, ho, hown, hsam, hn, hk]
  · intro s ts dt ticks e ht ho hz u
    have hstep : step s = settled (happen e u) := (step_of_turn ht).trans (takeTurn_of_on _ ho)
    refine ⟨fun hne => ?_, fun core hcore => ?_⟩
    · rw [hstep, happen_of_no_sample hz rfl hne]
    · rw [hstep, hcore, happen_sample rfl]
  · intro s ho
    refine ⟨fun ht => ?_, fun t ts ht ha => ?_⟩
    · simp [step_of_no_turn ht, ownStep, ho]
    · simp [step_of_turn ht, takeTurn, ho, ha]

end Sys2Proof.Machine
end

section
/-! SUPPORT. What the home slices' service, records, barriers and the end of a group leave alone: frames of the shared
operations of the model, used for exceptions, for fetching and for the dispatcher. -/

namespace Sys2Proof.Machine

variable {s t u : State}

/-! ### Memory and records -/

/-- s with the parts of t that service at the home slices and the writing of records may change. -/
def State.servedAs (s t : State) : State :=
  { s with
    mem := t.mem, poison := t.poison, l2 := t.l2, pins := t.pins, reuse := t.reuse, contexts := t.contexts, cores := t.cores
    routers := t.routers, chunks := t.chunks, wakes := t.wakes, fresh := t.fresh, hostOut := t.hostOut }

/-- t is s but for what service at the home slices and the writing of records may change. -/
abbrev MemoryOnly (s t : State) : Prop := t = s.servedAs t

namespace MemoryOnly

theorem refl (s : State) : MemoryOnly s s := rfl

theorem trans (x : MemoryOnly s t) (y : MemoryOnly t u) : MemoryOnly s u := by
  have e : t.servedAs u = s.servedAs u := by rw [x]; rfl
  exact Eq.trans y e

theorem ite {c : Prop} [Decidable c] (ht : MemoryOnly s t) (hu : MemoryOnly s u) : MemoryOnly s (if c then t else u) :=
  ite_holds ht hu

theorem foldl {α : Type} {f : State → α → State} (h : ∀ s x, MemoryOnly s (f s x)) (l : List α) (s : State) :
    MemoryOnly s (l.foldl f s) := by
  induction l generalizing s with
  | nil => exact refl s
  | cons x l ih => exact (h s x).trans (ih _)

theorem groups (x : MemoryOnly s t) : t.groups = s.groups := by rw [x]; rfl
theorem group (x : MemoryOnly s t) (k : Nat) : t.group k = s.group k := State.group_congr x.groups k
theorem cur (x : MemoryOnly s t) : t.cur = s.cur := by rw [x]; rfl
theorem teams (x : MemoryOnly s t) : t.teams = s.teams := by rw [x]; rfl
theorem grids (x : MemoryOnly s t) : t.grids = s.grids := by rw [x]; rfl

end MemoryOnly

theorem State.reuseSeen_memoryOnly (s : State) (line : Nat) : MemoryOnly s (s.reuseSeen line) := by
  unfold State.reuseSeen
  split
  · exact .refl s
  · exact (MemoryOnly.foldl (f := fun s (r : ReuseReg) => s.addBucket r.ctx r.slot (min 31 (Nat.log2 (r.d + 1))))
      (fun _ _ => rfl) _ s).trans rfl

theorem State.l2Serve_memoryOnly (s : State) (line : Nat) : MemoryOnly s (s.l2Serve line) := by
  unfold State.l2Serve
  refine .ite (s.reuseSeen_memoryOnly line) ?_
  exact .ite ((s.reuseSeen_memoryOnly line).trans rfl) ((s.reuseSeen_memoryOnly line).trans rfl)

theorem State.writeSectors_memoryOnly (s : State) (c line : Nat) (mask : BitVec 4) (rec_ : BitVec 3) :
    MemoryOnly s (s.writeSectors c line mask rec_) := by
  unfold State.writeSectors
  split
  · exact .refl s
  · refine MemoryOnly.trans (.ite rfl ?_) rfl
    exact MemoryOnly.trans rfl (State.l2Serve_memoryOnly _ line)

theorem State.writeBack_memoryOnly (s : State) (c line : Nat) (rec_ : BitVec 3) : MemoryOnly s (s.writeBack c line rec_) :=
  s.writeSectors_memoryOnly c line 15 rec_

theorem State.recallLine_memoryOnly (s : State) (line : Nat) : MemoryOnly s (s.recallLine line) := by
  unfold State.recallLine
  split
  · exact .refl s
  · exact .foldl (fun s c => (s.writeBack_memoryOnly c line 1).trans rfl) _ s

theorem State.recallRange_memoryOnly (s : State) (k n : Nat) : MemoryOnly s (s.recallRange k n) :=
  .foldl (fun s line => .ite (s.recallLine_memoryOnly line) (.refl s)) _ s

theorem State.homeWrite_memoryOnly (s : State) (by_ : Option Nat) (k : Nat) (bs : List Byte) :
    MemoryOnly s (s.homeWrite by_ k bs) := by
  have step (s : State) (line : Nat) : MemoryOnly s
      (match by_ with
      | none => (((s.l2Serve line).markStale by_ line (sectorMask line k bs.length)).dirtied line).flit (huskPart (dieOf line))
      | some c => (((s.l2Serve line).markStale by_ line (sectorMask line k bs.length)).dirtied line).dropClean c line
          (sectorMask line k bs.length)) := by
    cases by_ <;> exact (s.l2Serve_memoryOnly line).trans rfl
  unfold State.homeWrite
  exact (MemoryOnly.trans ((s.recallRange_memoryOnly k bs.length).trans rfl) (.foldl step _ _)).trans rfl

theorem State.homeWord_memoryOnly (s : State) (k : Nat) (w : Word) : MemoryOnly s (s.homeWord k w) :=
  s.homeWrite_memoryOnly none k _

theorem State.eventPacket_memoryOnly (s : State) (ctx q : Nat) (tail : Word) : MemoryOnly s (s.eventPacket ctx q tail) :=
  .ite (.refl s) rfl

theorem State.pushRecord_memoryOnly (s : State) (ctx q desc : Nat) (ws : List Word) :
    MemoryOnly s (s.pushRecord ctx q desc ws) := by
  unfold State.pushRecord
  refine MemoryOnly.trans ?_ (State.eventPacket_memoryOnly _ ctx q _)
  exact ((s.homeWrite_memoryOnly none _ _).trans (State.homeWord_memoryOnly _ _ _)).trans rfl

theorem State.pushFault_memoryOnly (s : State) (ctx : Nat) (ws : List Word) : MemoryOnly s (s.pushFault ctx ws) := by
  unfold State.pushFault
  exact .ite ((s.pushRecord_memoryOnly ctx 0 _ ws).trans rfl) (s.pushRecord_memoryOnly ctx 0 _ ws)

/-- A fault record changes nothing of the groups, teams and grids. -/
theorem State.faultRecord_memoryOnly (s : State) (ctx : Nat) (r : FaultRecord) : MemoryOnly s (s.faultRecord ctx r) := by
  have h : MemoryOnly s (s.enqueueFault ctx (r.words (s.context ctx).faultSeq)) := .ite (s.pushFault_memoryOnly ctx _) rfl
  exact h.trans rfl

theorem State.releaseL1_memoryOnly (s : State) (c : Nat) (scope : BitVec 3) : MemoryOnly s (s.releaseL1 c scope) :=
  .ite (.refl s) (.foldl (fun s (p : Nat × L1Line) => .ite (.refl s) (s.writeBack_memoryOnly c p.1 scope)) _ s)

theorem State.agentTouch_memoryOnly (s : State) (k n : Nat) : MemoryOnly s (s.agentTouch k n) :=
  (s.recallRange_memoryOnly k n).trans
    (.foldl (fun s line => MemoryOnly.trans rfl (State.l2Serve_memoryOnly (s.flit (huskPart (dieOf line))) line)) _ _)

theorem State.agentWalk_memoryOnly (s : State) (ctx va n : Nat) : MemoryOnly s (s.agentWalk ctx va n) := by
  induction n with
  | zero => exact .refl s
  | succ n ih =>
    unfold State.agentWalk
    dsimp only
    split
    · exact ih.trans (State.agentTouch_memoryOnly _ _ 8)
    · exact ih

/-! ### Demotion -/

/-- A group once its demotion has begun at a clock. -/
def Group.demoted (g : Group) (now : Nat) : Group :=
  match g.engine with
  | .sprinter => { g with engine := .demoting (now + 12), demoteNext := false }
  | .promoting _ => { g with demoteNext := true }
  | _ => g

theorem State.demote_group (s : State) (k : Nat) : (s.demote k).group k = (s.group k).demoted (s.cycle k) := by
  unfold State.demote Group.demoted
  split <;> simp [State.countEvent, *]

theorem State.demote_setGroup (s : State) (k : Nat) (g : Group) :
    (s.demote k).setGroup k g = { s with groups := s.groups.put k g, cores := (s.demote k).cores } := by
  unfold State.demote
  split <;> simp [State.countEvent, State.setGroup, State.setCore]

@[simp] theorem State.demote_context (s : State) (k c : Nat) : (s.demote k).context c = s.context c := by
  unfold State.demote
  split <;> rfl

theorem State.demote_core (s : State) (k c : Nat) : (s.demote k).core c = s.core c ∨
    ∃ n, (s.demote k).core c = { s.core c with events := ({ (s.core c).events with demotions := n }).sat } := by
  unfold State.demote
  split
  · by_cases h : c = coreOf k
    · subst h
      exact .inr ⟨_, by simp [State.countEvent]; rfl⟩
    · exact .inl (by simp [State.countEvent, h])
  · exact .inl rfl
  · exact .inl rfl

/-! ### Taking an exception (R286, R287) -/

/-- A group in its handler for fault f, taken at a place: its trap registers are set, and it waits for nothing. -/
def Group.entered (g : Group) (f : Trap) (pc : Addr) (word : Nat) (site : Site) (tbase : Addr) : Group :=
  { g.dropWaits with
    looks := []
    wait := .none
    gstat := g.gstat ||| f.flags
    trap := {
      cause := BitVec.ofNat 6 f.cause, mask := f.mask, val := BitVec.ofNat 64 f.val, pc := pc,
      word := BitVec.ofNat 4 word, site := site, frame := g.stklim }
    trapMode := true
    pc := tbase + BitVec.ofNat 56 (64 * f.cause)
    word := 0, clause := none, started := false, fetchBuf := [], issued := false, qualHeld := false
    demoteNext := g.demoteNext && g.engine != .herd }

/-- Outside trap mode a group enters its handler, and begins its demotion (R286). -/
theorem State.vector_of_no_trap (s : State) (k : Nat) (f : Trap) (pc : Addr) (word : Nat) (site : Site)
    (h : (s.group k).trapMode = false) :
    s.vector k f pc word site = { s with
      groups := s.groups.put k
        (((s.group k).demoted (s.cycle k)).entered f pc word site (s.context (s.group k).ctx).tbase)
      cores := (s.demote k).cores } := by
  unfold State.vector
  rw [if_neg (by simp [h]), ← s.demote_setGroup k, ← s.demote_group k, ← s.demote_context k]
  rfl

/-- The trap handler's clause of a context lies 64 bytes times the cause above TBASE. -/
theorem toNat_handler (tbase : Addr) (n : Nat) : (tbase + BitVec.ofNat 56 n).toNat = (tbase.toNat + n) % 2 ^ 56 := by
  simp

/-- The group that issues, in its handler for fault f; in a logging or replaying context its chunk has ended. -/
def State.inHandler (s : State) (f : Trap) (chunkEnd : Option Nat) (chunkPaid : Bool) : State :=
  { s with
    groups := s.groups.put s.cur
      { (s.g.demoted (s.cycle s.cur)).entered f s.g.pc s.g.word s.g.site (s.context s.g.ctx).tbase with
        chunkEnd := chunkEnd, chunkPaid := chunkPaid }
    cores := (s.demote s.cur).cores }

theorem State.g_inHandler (s : State) (f : Trap) (e : Option Nat) (p : Bool) :
    (s.inHandler f e p).g = { (s.g.demoted (s.cycle s.cur)).entered f s.g.pc s.g.word s.g.site (s.context s.g.ctx).tbase with
      chunkEnd := e, chunkPaid := p } :=
  AMap.get_put_self _ _ _ _

theorem State.inHandler_entered (s : State) (f : Trap) (e : Option Nat) (p : Bool) :
    Claim.Entered s (s.inHandler f e p) f := by
  unfold Claim.Entered
  rw [State.g_inHandler]
  refine ⟨rfl, ?_, ?_, rfl, rfl, rfl, rfl, rfl, rfl, ?_, ?_, ?_, ?_, fun c => s.demote_core s.cur c, fun k hk => ?_,
    fun _ => rfl⟩
  · cases he : s.g.engine <;> simp [Group.demoted, he, Group.entered, Group.site]
  · exact toNat_handler _ _
  · cases he : s.g.engine <;> simp [Group.demoted, he, Group.entered]
  · cases he : s.g.engine <;> simp [Group.demoted, he, Group.entered, Group.dropWaits]
  · cases he : s.g.engine <;> simp [Group.demoted, he, Group.entered, Group.dropWaits]
  · rfl
  · exact AMap.get_put_ne _ _ _ _ _ hk

/-- A quiet group outside trap mode enters its handler (R27, R286). -/
theorem State.raise_entered (s : State) (f : Trap) (h : Claim.TakesFaults s) : Claim.Entered s (s.raise f) f := by
  obtain ⟨ht, hq⟩ := h
  have hv := s.vector_of_no_trap s.cur f s.g.pc s.g.word s.g.site ht
  have hr : s.raise f = s.takeFault s.cur f s.g.pc s.g.word s.g.site := if_pos hq
  rw [hr]
  unfold State.takeFault
  dsimp only
  split
  · rw [hv]
    exact s.inHandler_entered f _ _
  · have e : (s.vector s.cur f s.g.pc s.g.word s.g.site).modGroup s.cur
        (fun g => { g with chunkEnd := some 2, chunkPaid := false }) = s.inHandler f (some 2) false := by
      rw [hv]
      simp [State.setGroup, State.group, State.inHandler, State.g]
    rw [e]
    exact s.inHandler_entered f _ _

/-! ### Barriers (R178) -/

/-- s with the teams and gangs of t. -/
def State.teamsAs (s t : State) : State := { s with teams := t.teams, gangs := t.gangs }

/-- t is s but for its teams and gangs, where barriers stand. -/
abbrev TeamsOnly (s t : State) : Prop := t = s.teamsAs t

theorem TeamsOnly.trans (x : TeamsOnly s t) (y : TeamsOnly t u) : TeamsOnly s u := by
  have e : t.teamsAs u = s.teamsAs u := by rw [x]; rfl
  exact Eq.trans y e

theorem TeamsOnly.groups (x : TeamsOnly s t) : t.groups = s.groups := by rw [x]; rfl
theorem TeamsOnly.cur (x : TeamsOnly s t) : t.cur = s.cur := by rw [x]; rfl
theorem TeamsOnly.grids (x : TeamsOnly s t) : t.grids = s.grids := by rw [x]; rfl
theorem TeamsOnly.mem (x : TeamsOnly s t) : t.mem = s.mem := by rw [x]; rfl

theorem State.setBarrier_teamsOnly (s : State) (team n : Nat) (b : Barrier) : TeamsOnly s (s.setBarrier team n b) := by
  unfold State.setBarrier
  split
  · rfl
  · split <;> rfl

theorem State.checkBarrier_teamsOnly (s : State) (team n : Nat) : TeamsOnly s (s.checkBarrier team n) :=
  ite_holds (s.setBarrier_teamsOnly team n _) rfl

/-- Who is in an arrived set once a barrier is replaced: there who is in the new one's, elsewhere who was before. -/
theorem State.mem_arrived_setBarrier {team n m k : Nat} {b : Barrier}
    (h : k ∈ ((s.setBarrier team n b).barrier team m).arrived) :
    if m = n then k ∈ b.arrived else k ∈ (s.barrier team m).arrived := by
  unfold State.setBarrier at h
  split at h
  · next e => simp [State.barrier, e] at h
  · next t e =>
    split at h
    · next hn =>
      by_cases hm : m = n
      · simpa [State.barrier, hm, hn] using h
      · by_cases h16 : m < 16 <;> simp [State.barrier, e, hm, h16] at h ⊢ <;> exact h
    · next hn =>
      by_cases hm : m = n
      · subst hm
        cases eg : s.gangs.find? t.gang <;> simp [State.barrier, e, hn, AMap.find?_modify, eg] at h ⊢
        exact h
      · by_cases h16 : m < 16
        · simpa [State.barrier, e, hm, h16] using h
        · cases eg : s.gangs.find? t.gang <;> simp [State.barrier, e, hm, h16, AMap.find?_modify, eg] at h ⊢
          exact h

/-- Checking a barrier changes no arrived set. -/
theorem State.mem_arrived_checkBarrier {team n m k : Nat} (h : k ∈ ((s.checkBarrier team n).barrier team m).arrived) :
    k ∈ (s.barrier team m).arrived := by
  unfold State.checkBarrier at h
  dsimp only at h
  split at h
  · have := State.mem_arrived_setBarrier h
    split at this
    · next e => rw [e]; exact this
    · exact this
  · exact h

/-- A group leaves one barrier of its team. -/
def State.leaveBarrier (k team : Nat) (s : State) (n : Nat) : State :=
  (s.setBarrier team n { s.barrier team n with arrived := (s.barrier team n).arrived.filter (· != k) }).checkBarrier team n

theorem State.leaveBarrier_teamsOnly (k team : Nat) (s : State) (n : Nat) : TeamsOnly s (s.leaveBarrier k team n) :=
  (s.setBarrier_teamsOnly team n _).trans (State.checkBarrier_teamsOnly _ team n)

theorem State.leaveBarriers_teamsOnly (k team : Nat) (ns : List Nat) (s : State) :
    TeamsOnly s (ns.foldl (State.leaveBarrier k team) s) := by
  induction ns generalizing s with
  | nil => rfl
  | cons n ns ih => exact (s.leaveBarrier_teamsOnly k team n).trans (ih _)

/-- Who leaves some barriers is in none of their arrived sets. -/
theorem State.not_mem_arrived_leaveBarriers {k team m : Nat} (ns : List Nat) (s : State)
    (h : k ∈ ((ns.foldl (State.leaveBarrier k team) s).barrier team m).arrived) :
    m ∉ ns ∧ k ∈ (s.barrier team m).arrived := by
  induction ns generalizing s with
  | nil => exact ⟨by simp, h⟩
  | cons n ns ih =>
    obtain ⟨hm, hk⟩ := ih _ h
    have := State.mem_arrived_setBarrier (State.mem_arrived_checkBarrier hk)
    split at this
    · simp at this
    · next hne => exact ⟨by simp [hne, hm], this⟩

/-! ### The end of a group (R85, R287) -/

/-- A group that has halted (R85). -/
def Group.halts (g : Group) : Group :=
  { g.dropWaits with
    halted := true, trapMode := false, wait := .none, clause := none, started := false, looks := [], classes := [], lockDepth := 0
    issued := false, displaced := false, qualHeld := false
    results := g.results.map fun r => { r with writes := [] }
    accesses := g.accesses.map fun a => { a with dest := .none } }

/-- Halting sets the group, then takes it out of its barriers. -/
theorem State.haltGroup_eq (s : State) (k : Nat) :
    s.haltGroup k = (List.range 20).foldl (State.leaveBarrier k (s.group k).team)
      { s with groups := s.groups.put k ((s.group k).demoted (s.cycle k)).halts, cores := (s.demote k).cores } := by
  rw [← s.demote_setGroup k, ← s.demote_group k]
  rfl

theorem State.haltGroup_teamsOnly (s : State) (k : Nat) :
    TeamsOnly { s with groups := s.groups.put k ((s.group k).demoted (s.cycle k)).halts, cores := (s.demote k).cores }
      (s.haltGroup k) := by
  rw [s.haltGroup_eq k]
  exact State.leaveBarriers_teamsOnly _ _ _ _

theorem State.haltGroup_group (s : State) (k : Nat) :
    (s.haltGroup k).group k = ((s.group k).demoted (s.cycle k)).halts := by
  rw [State.group_congr (s.haltGroup_teamsOnly k).groups]
  exact AMap.get_put_self _ _ _ _

@[simp] theorem State.haltGroup_mem (s : State) (k : Nat) : (s.haltGroup k).mem = s.mem := (s.haltGroup_teamsOnly k).mem

theorem State.haltGroup_grids (s : State) (k : Nat) : (s.haltGroup k).grids = s.grids := (s.haltGroup_teamsOnly k).grids

theorem State.haltGroup_barrier (s : State) (k n : Nat) (h : n < 20) :
    k ∉ ((s.haltGroup k).barrier (s.group k).team n).arrived := by
  rw [s.haltGroup_eq k]
  intro hk
  exact (State.not_mem_arrived_leaveBarriers _ _ hk).1 (List.mem_range.2 h)

/-- Demotion changes of a group only where its engine stands. -/
theorem Group.demoted_eq (g : Group) (now : Nat) :
    g.demoted now = { g with engine := (g.demoted now).engine, demoteNext := (g.demoted now).demoteNext } := by
  unfold Group.demoted
  split <;> rfl

/-- The record that a pending late store becomes when it is not delivered (R287). -/
def State.pendingRecord (k ctx : Nat) (s : State) (p : Pending) : State :=
  match p with
  | .lateStore site n => s.faultRecord ctx (s.groupRecord k { kind := 4, code := 0x11, site := site, count := n })
  | .engine _ _ => s

/-- The state after the records of a group's pending late stores. -/
def State.pendingRecords (s : State) (k : Nat) : State :=
  (s.group k).pending.foldl (State.pendingRecord k (s.group k).ctx) s

theorem State.pendingRecords_memoryOnly (s : State) (k : Nat) : MemoryOnly s (s.pendingRecords k) := by
  refine MemoryOnly.foldl (fun s p => ?_) _ s
  cases p with
  | lateStore site n => exact s.faultRecord_memoryOnly _ _
  | engine site st => exact .refl s

theorem State.pendingRecords_of_none (s : State) (k : Nat) (h : (s.group k).pending = []) : s.pendingRecords k = s := by
  unfold State.pendingRecords
  rw [h]
  rfl

theorem State.flushPending_eq (s : State) (k : Nat) :
    s.flushPending k = (s.pendingRecords k).setGroup k { s.group k with pending := [] } := by
  rw [← (s.pendingRecords_memoryOnly k).group k]
  rfl

@[simp] theorem State.flushPending_group (s : State) (k : Nat) :
    (s.flushPending k).group k = { s.group k with pending := [] } := by
  rw [s.flushPending_eq k, State.group_setGroup_self]

theorem State.flushPending_cur (s : State) (k : Nat) : (s.flushPending k).cur = s.cur := by
  rw [s.flushPending_eq k, State.setGroup_cur, (s.pendingRecords_memoryOnly k).cur]

theorem State.flushPending_grids (s : State) (k : Nat) : (s.flushPending k).grids = s.grids := by
  rw [s.flushPending_eq k, State.setGroup_grids, (s.pendingRecords_memoryOnly k).grids]

/-- A group of an ended grid ends: it halts with no fault pending (R287, R289). -/
theorem State.endGroup_group (s : State) (k : Nat) :
    (s.endGroup k).group k = ({ s.group k with pending := [] }.demoted ((s.flushPending k).cycle k)).halts := by
  unfold State.endGroup
  rw [State.haltGroup_group, State.flushPending_group]

theorem State.endGroup_grids (s : State) (k : Nat) : (s.endGroup k).grids = s.grids := by
  unfold State.endGroup
  rw [State.haltGroup_grids, State.flushPending_grids]

/-- With no fault pending the end of a group writes no memory. -/
theorem State.endGroup_mem (s : State) (k : Nat) (h : (s.group k).pending = []) : (s.endGroup k).mem = s.mem := by
  unfold State.endGroup
  rw [State.haltGroup_mem, s.flushPending_eq k, State.setGroup_mem, s.pendingRecords_of_none k h]

/-- What the end of a group keeps of it. -/
theorem Group.halts_demoted (g : Group) (now : Nat) :
    (g.demoted now).halts.halted = true ∧ (g.demoted now).halts.trapMode = false ∧ (g.demoted now).halts.wait = .none ∧
      (g.demoted now).halts.started = false ∧ (g.demoted now).halts.s = g.s ∧ (g.demoted now).halts.v = g.v ∧
      (g.demoted now).halts.pending = g.pending ∧ (g.demoted now).halts.grid = g.grid ∧
      (g.demoted now).halts.team = g.team := by
  rw [g.demoted_eq now]
  exact ⟨rfl, rfl, rfl, rfl, rfl, rfl, rfl, rfl, rfl⟩

/-- A fault in trap mode ends the group as a double trap, with a record and no fault left pending (R287). -/
theorem State.vector_of_trap (s : State) (k : Nat) (f : Trap) (pc : Addr) (word : Nat) (site : Site)
    (h : (s.group k).trapMode = true) :
    ∃ u, MemoryOnly (s.flushPending k) u ∧ s.vector k f pc word site = u.haltGroup k := by
  unfold State.vector
  dsimp only
  rw [if_pos h]
  exact ⟨_, State.faultRecord_memoryOnly _ _ _, rfl⟩

/-- A group halts: its registers stay, and no barrier of its team has it (R85). -/
theorem halted_haltGroup {s u : State} (hc : u.cur = s.cur) (hg : u.group s.cur = { s.g with pending := [] }) :
    Claim.Halted s (u.haltGroup s.cur) ∧ (u.haltGroup s.cur).g.pending = [] := by
  have htc : (u.haltGroup s.cur).cur = s.cur := (u.haltGroup_teamsOnly s.cur).cur.trans hc
  have htg : (u.haltGroup s.cur).g = ((u.group s.cur).demoted (u.cycle s.cur)).halts :=
    (congrArg (u.haltGroup s.cur).group htc).trans (u.haltGroup_group s.cur)
  rw [hg] at htg
  obtain ⟨h1, h2, h3, _, h5, h6, h7, _⟩ := Group.halts_demoted { s.g with pending := [] } (u.cycle s.cur)
  unfold Claim.Halted
  rw [htg]
  refine ⟨⟨h1, h2, h3, h5, h6, fun n hn => ?_⟩, h7⟩
  have hb := u.haltGroup_barrier s.cur n hn
  rw [hg] at hb
  exact hb

/-- Where the chunk of a group stands does not matter for its having halted. -/
theorem halted_with_chunk {s t : State} {e : Option Nat} {p : Bool} (hc : t.cur = s.cur)
    (h : Claim.Halted s t ∧ t.g.pending = []) :
    Claim.Halted s (t.modGroup s.cur fun g => { g with chunkEnd := e, chunkPaid := p }) ∧
      (t.modGroup s.cur fun g => { g with chunkEnd := e, chunkPaid := p }).g.pending = [] := by
  have e : (t.modGroup s.cur fun g => { g with chunkEnd := e, chunkPaid := p }).g =
      { t.g with chunkEnd := e, chunkPaid := p } := by
    rw [← hc]
    exact State.group_setGroup_self _ _ _
  obtain ⟨⟨h1, h2, h3, h5, h6, hb⟩, h7⟩ := h
  unfold Claim.Halted
  rw [e]
  exact ⟨⟨h1, h2, h3, h5, h6, hb⟩, h7⟩

/-- A quiet group in trap mode that takes a fault ends, with no fault pending (R287). -/
theorem State.raise_halted (s : State) (f : Trap) (ht : s.g.trapMode = true) (hq : s.g.quiet = true) :
    Claim.Halted s (s.raise f) ∧ (s.raise f).g.pending = [] := by
  obtain ⟨u, hu, hv⟩ := s.vector_of_trap s.cur f s.g.pc s.g.word s.g.site ht
  have hg : u.group s.cur = { s.g with pending := [] } := (hu.group s.cur).trans (s.flushPending_group s.cur)
  have hc : u.cur = s.cur := hu.cur.trans (s.flushPending_cur s.cur)
  have hr : s.raise f = s.takeFault s.cur f s.g.pc s.g.word s.g.site := if_pos hq
  rw [hr]
  unfold State.takeFault
  dsimp only
  rw [hv]
  split
  · exact halted_haltGroup hc hg
  · exact halted_with_chunk ((u.haltGroup_teamsOnly s.cur).cur.trans hc) (halted_haltGroup hc hg)

end Sys2Proof.Machine
end

section
/-! SETTLED: O9. Privileged instructions outside the modes that may run them (R23, R301 to R304): each is barred, which its
decode finds before all else but a register that is too high. -/

namespace Sys2Proof.Claim

open Machine

/-- A barred instruction of which no vector register is too high meets a privileged fault. -/
theorem decodeTrap_of_barred {g : Group} {i : Instr} {n : Info} (hb : n.barred = true) (hv : ∀ r ∈ n.vr ++ n.vw, r < g.n) :
    g.decodeTrap i n = some ⟨0x14, i.word.toNat, g.xm, 0⟩ := by
  have low : (n.vr ++ n.vw).any (fun r => g.n ≤ r) = false :=
    any_false_of _ _ fun r hr => decide_eq_false (Nat.not_le.2 (hv r hr))
  unfold Group.decodeTrap
  rw [if_neg (by simp [low]), if_pos hb]

/-- A barred instruction raises cause 0x14. -/
theorem perform_barred {i : Instr} {n : Info} {body : State → Res} {s : State} (hw : s.g.wait = .none)
    (hb : n.barred = true) (hv : ∀ r ∈ n.vr ++ n.vw, r < s.g.n) :
    perform i n body s = .next (s.raise ⟨0x14, i.word.toNat, s.g.xm, 0⟩) :=
  perform_decode hw (decodeTrap_of_barred hb hv)

/-- An instruction that its group may not run: it raises cause 0x14, whatever its effect. -/
abbrev Barred (i : Instr) (s : State) : Prop := exec i s = .next (s.raise ⟨0x14, i.word.toNat, s.g.xm, 0⟩)

/-- Outside trap mode and a privileged context no register from 0x40 to 0x4F may be named. -/
theorem sysBarred_of_range {s : State} {n : Nat} (ht : s.g.trapMode = false) (hp : (s.context s.g.ctx).priv = false)
    (h1 : 0x40 ≤ n) (h2 : n ≤ 0x4F) : sysBarred s n = true := by
  simp [sysBarred, State.privileged, *]

section
variable {s : State} (hw : s.g.wait = .none) (ht : s.g.trapMode = false) (hp : (s.context s.g.ctx).priv = false)
include hw

theorem barred_rte (ht : s.g.trapMode = false) : Barred .rte s := by
  unfold Barred exec execRte
  exact perform_barred hw (by simp [ht]) (by simp)

theorem barred_rteEnd (ht : s.g.trapMode = false) : Barred .rteEnd s := by
  unfold Barred exec execRteEnd
  exact perform_barred hw (by simp [ht]) (by simp)

include hp

theorem barred_ctxsave (c a : BitVec 6) : Barred (.ctxsave c a) s := by
  unfold Barred exec execCtxsave ctxRequest
  exact perform_barred hw (by simp [State.privileged, hp]) (by simp)

theorem barred_ctxload (c a : BitVec 6) : Barred (.ctxload c a) s := by
  unfold Barred exec execCtxload ctxRequest
  exact perform_barred hw (by simp [State.privileged, hp]) (by simp)

include ht

theorem barred_trap (n : BitVec 18) : Barred (.trap n) s := by
  unfold Barred exec execTrap trapWith
  exact perform_barred hw (by simp [State.privileged, ht, hp]) (by simp)

theorem barred_bkpt (n : BitVec 18) : Barred (.bkpt n) s := by
  unfold Barred exec execBkpt trapWith
  exact perform_barred hw (by simp [State.privileged, ht, hp]) (by simp)

theorem barred_srd (d : BitVec 6) (r : BitVec 12) (h1 : 0x40 ≤ r.toNat) (h2 : r.toNat ≤ 0x4F) : Barred (.srd d r) s := by
  unfold Barred exec execSrd
  exact perform_barred hw (sysBarred_of_range ht hp h1 h2) (by simp)

theorem barred_swr (d : BitVec 6) (r : BitVec 12) (h1 : 0x40 ≤ r.toNat) (h2 : r.toNat ≤ 0x4F) : Barred (.swr d r) s := by
  unfold Barred exec execSwr
  exact perform_barred hw (by simp [swrBarred, sysBarred_of_range ht hp h1 h2]) (by simp)

theorem barred_tsave (r : BitVec 7) (k : BitVec 4) (hr : r.toNat < s.g.n) : Barred (.tsave r k) s := by
  unfold Barred exec execTsave
  exact perform_barred hw (by simp [State.privileged, ht, hp]) (by simpa using hr)

theorem barred_tload (r : BitVec 7) (k : BitVec 4) (hr : r.toNat < s.g.n) : Barred (.tload r k) s := by
  unfold Barred exec execTload
  exact perform_barred hw (by simp [State.privileged, ht, hp]) (by simpa using hr)

end

/-- Settles O9: each form is barred, so that its decode answers cause 0x14 before all else; outside trap mode the group
enters its handler, in trap mode it halts. -/
theorem privilegeChecks : Obligations.PrivilegeChecks := by
  unfold Obligations.PrivilegeChecks
  refine ⟨fun s hw hf => ?_, fun s c a hw ht hq hp i hi => ?_⟩
  · have ht : s.g.trapMode = false := hf.1
    have enters {i : Instr} (h : Barred i s) :
        ∃ t, exec i s = .next t ∧ Entered s t ⟨0x14, i.word.toNat, s.g.xm, 0⟩ :=
      ⟨_, h, s.raise_entered _ hf⟩
    exact ⟨fun n hp => enters (barred_trap hw ht hp n), fun n hp => enters (barred_bkpt hw ht hp n),
      enters (barred_rte hw ht), enters (barred_rteEnd hw ht),
      fun c a hp => enters (barred_ctxsave hw hp c a), fun c a hp => enters (barred_ctxload hw hp c a),
      fun d r hp h1 h2 => enters (barred_srd hw ht hp d r h1 h2), fun d r hp h1 h2 => enters (barred_swr hw ht hp d r h1 h2),
      fun r k hp hr => ⟨enters (barred_tsave hw ht hp r k hr), enters (barred_tload hw ht hp r k hr)⟩⟩
  · have halts {i : Instr} (h : Barred i s) :
        ∃ t, exec i s = .next t ∧ t = s.raise ⟨0x14, i.word.toNat, s.g.xm, 0⟩ ∧ Halted s t ∧ t.g.pending = [] :=
      ⟨_, h, rfl, s.raise_halted _ ht hq⟩
    rcases List.mem_pair.1 hi with rfl | rfl
    · exact halts (barred_ctxsave hw hp c a)
    · exact halts (barred_ctxload hw hp c a)

end Sys2Proof.Claim
end

section
/-! SETTLED: O10. The system registers (R23, R82, R298 to R300, R338): what SRD gives of each and what SWR makes of it, and
that SWR is barred exactly of those that may not be written. -/

namespace Sys2Proof.Claim

open Machine

variable {s : State}

/-! ### SRD -/

/-- No register of the table is a half of CYCLE or a harvest counter. -/
theorem sysTable_others : ∀ e ∈ sysTable, e.1 ≠ 0x14 ∧ e.1 ≠ 0x15 ∧ ¬(0x80 ≤ e.1 ∧ e.1 < 0xB0) := by decide

/-- The word index in bits [31:28] and the upper 24 bits of the place lie beside each other. -/
theorem ofNat_place (p : Addr) (w : BitVec 4) :
    BitVec.ofNat 32 (2 ^ 28 * w.toNat + p.toNat / 2 ^ 32) = upper p.toNat ||| BitVec.ofNat 32 (2 ^ 28 * w.toNat) := by
  have hp : p.toNat / 2 ^ 32 < 2 ^ 28 := by have := p.isLt; omega
  rw [Nat.two_pow_add_eq_or_of_lt hp, Nat.or_comm]
  exact BitVec.ofNat_or

/-- What SRD gives of the registers of the table. -/
theorem sysValue_of_mem (s : State) : ∀ e ∈ sysTable, sysValue s e.1 = (e.2.1 s, e.2.2) := by
  have low {n : Nat} (x : BitVec n) : x.setWidth 32 = BitVec.ofNat 32 x.toNat := by simp
  unfold sysTable
  simp only [List.forall_mem_cons]
  refine ⟨rfl, rfl, rfl, rfl, rfl, rfl, rfl, ?_, rfl, rfl, rfl, rfl, ?_, rfl, rfl, rfl, rfl, rfl, ?_, rfl, ?_, ?_, rfl, rfl,
    rfl, rfl, rfl, by simp⟩
  · exact congrArg (·, 14) (low _)
  · exact congrArg (· &&& _, 0) (low _)
  · exact congrArg (·, 0) (low _)
  · exact congrArg (·, 0) (low _)
  · exact congrArg (·, 0) (ofNat_place _ _)

/-- Writing a scalar leaves the group's place alone. -/
theorem setS_place (g : Group) (r : Nat) (v : Word) (tag : BitVec 4) :
    (g.setS r v tag).clause = g.clause ∧ (g.setS r v tag).pc = g.pc ∧ (g.setS r v tag).word = g.word := by
  rw [(g.setS_regsOnly r v tag [r] [] (List.mem_singleton_self r)).rest]
  exact ⟨rfl, rfl, rfl⟩

/-- An instruction that changes its group alone, and not its place. -/
theorem did_setG {i : Instr} {n : Info} {body : State → Res} {g : Group} (h : Issues i n s)
    (hb : body s = .done (s.setG g) .seq) (hg : g.clause = s.g.clause ∧ g.pc = s.g.pc ∧ g.word = s.g.word) :
    ∃ t, perform i n body s = .next t ∧ Did i .seq s (s.setG g) t := by
  obtain ⟨hc, hp, hw⟩ := hg
  exact ⟨_, perform_next h hb, State.retire_retired s _ i n .seq (by simp [hc]) (by simp [hp]) (by simp [hw]), fun _ => rfl⟩

section
variable {d : BitVec 6} {r : BitVec 12}
  (h : Issues (.srd d r) { sw := [d.toNat], barred := sysBarred s r.toNat, serial := some false } s)
include h

/-- SRD of a register that is no half of CYCLE. -/
theorem did_srd (h14 : r.toNat ≠ 0x14) (h15 : r.toNat ≠ 0x15) {g : Group}
    (hg : (if 0x80 ≤ r.toNat && r.toNat < 0xB0 then
      { s.g with harvHi := hiWord (harvestOf (s.context s.g.ctx) (r.toNat - 0x80)) } else s.g) = g) :
    ∃ t, exec (.srd d r) s = .next t ∧
      Did (.srd d r) .seq s (s.setG (g.setS d.toNat (sysValue s r.toNat).1 (sysValue s r.toNat).2)) t := by
  unfold exec execSrd
  refine did_setG h ?_ ?_
  · simp only [h14, h15, if_false, hg]
  · have : g.clause = s.g.clause ∧ g.pc = s.g.pc ∧ g.word = s.g.word := by
      subst hg
      split <;> exact ⟨rfl, rfl, rfl⟩
    simpa only [setS_place] using this

/-- SRD of the low half of CYCLE holds the high half (R25). -/
theorem did_srd_cycle (h14 : r.toNat = 0x14) :
    let v := s.input (BitVec.ofNat 32 (s.cycle s.cur))
    ∃ t, exec (.srd d r) s = .next t ∧ Did (.srd d r) .seq s
      (s.setG { { s.g with cycHold := some (upper (s.cycle s.cur)) }.setS d.toNat v 2 with chunkInput := some v }) t := by
  unfold exec execSrd
  refine did_setG h ?_ (setS_place { s.g with cycHold := some (upper (s.cycle s.cur)) } _ _ _)
  exact if_pos h14

/-- SRD of the high half of CYCLE gives what is held (R25). -/
theorem did_srd_cycleHi (h15 : r.toNat = 0x15) :
    let v := s.input (s.g.cycHold.getD (upper (s.cycle s.cur)))
    ∃ t, exec (.srd d r) s = .next t ∧ Did (.srd d r) .seq s
      (s.setG { { s.g with cycHold := none }.setS d.toNat v 2 with chunkInput := some v }) t := by
  unfold exec execSrd
  refine did_setG h ?_ (setS_place { s.g with cycHold := none } _ _ _)
  exact (if_neg (by omega)).trans (if_pos h15)

/-- SRD of a harvest counter holds its high word (R338). -/
theorem did_srd_harvest {k : Nat} (hk : k < 48) (hr : r.toNat = 0x80 + k) :
    ∃ t, exec (.srd d r) s = .next t ∧ Did (.srd d r) .seq s
      (s.setG ({ s.g with harvHi := upper (harvestOf (s.context s.g.ctx) k) }.setS d.toNat
        (BitVec.ofNat 32 (harvestOf (s.context s.g.ctx) k)) 2)) t := by
  have e : r.toNat - 0x80 = k := by omega
  have c : (0x80 ≤ r.toNat && r.toNat < 0xB0) = true := by simp; omega
  have hv : sysValue s r.toNat = (loWord (harvestOf (s.context s.g.ctx) k), 2) := by
    unfold sysValue
    exact (if_pos c).trans (by rw [e])
  have := did_srd h (by omega) (by omega) (if_pos c)
  rw [hv, e] at this
  exact this

end

/-- SRD of TSITE gives its words (R299). -/
theorem sysValue_site (s : State) : ∀ k < 4, sysValue s (0x4A + k) = (s.g.trap.site.words.getD k 0, 0) := by
  intro k hk
  interval_cases k <;> rfl

/-! ### SWR -/

/-- The registers that a group may write are those of which SWR is not barred (R23, R299, R300). -/
theorem mayWrite_iff (s : State) (n : Nat) : mayWrite s n ↔ swrBarred s n = false := by
  unfold mayWrite swrBarred sysBarred State.privileged
  cases s.g.trapMode <;> cases (s.context s.g.ctx).priv <;> simp <;> omega

/-- Replacing the low word of an address keeps bits [55:32]. -/
theorem setLow_eq (a : Addr) (w : Word) : setLow a w = BitVec.ofNat 56 (a.toNat / 2 ^ 32 * 2 ^ 32 + w.toNat) := by
  apply BitVec.eq_of_toNat_eq
  have ha := a.isLt
  have hw := w.isLt
  rw [setLow, BitVec.toNat_append, ← Nat.shiftLeft_add_eq_or_of_lt hw, BitVec.extractLsb'_toNat, BitVec.toNat_ofNat,
    Nat.shiftLeft_eq, Nat.shiftRight_eq_div_pow]
  omega

/-- Replacing bits [55:32] of an address keeps its low word. -/
theorem setHigh_eq (a : Addr) (w : Word) :
    setHigh a w = BitVec.ofNat 56 (w.toNat % 2 ^ 24 * 2 ^ 32 + a.toNat % 2 ^ 32) := by
  apply BitVec.eq_of_toNat_eq
  have ha : (a.setWidth 32).toNat < 2 ^ 32 := (a.setWidth 32).isLt
  rw [setHigh, BitVec.toNat_append, ← Nat.shiftLeft_add_eq_or_of_lt ha, BitVec.extractLsb'_toNat, BitVec.toNat_setWidth,
    BitVec.toNat_ofNat, Nat.shiftLeft_eq, Nat.shiftRight_eq_div_pow]
  omega

/-- Clearing the low 12 bits of a word rounds it down to 4096. -/
theorem toNat_and_page (w : Word) : (w &&& (0xFFFFF000 : Word)).toNat = w.toNat / 4096 * 4096 := by
  have h : w &&& (0xFFFFF000 : Word) = (w >>> 12) <<< 12 := by
    ext i hi
    interval_cases i <;> simp
  rw [h]
  have := w.isLt
  simp [Nat.shiftRight_eq_div_pow, Nat.shiftLeft_eq]
  omega

/-- What SWR makes of a register that may be written. -/
theorem sysWrite_eq {n : Nat} (h : mayWrite s n) (w : Word) : sysWrite s n w = sysAfter s n w := by
  have hn : n ∈ [0, 1, 0x10, 0x40, 0x41, 0x4F, 0x48, 0x49, 0x4E] := by
    unfold mayWrite at h
    simp at h ⊢
    omega
  simp only [List.mem_cons, List.not_mem_nil, or_false] at hn
  rcases hn with rfl | rfl | rfl | rfl | rfl | rfl | rfl | rfl | rfl
  · rfl
  · have : w.setWidth 6 = w.extractLsb' 0 6 := by simp [BitVec.setWidth_eq_extractLsb']
    simp only [sysWrite, sysAfter, this]
  · rfl
  · simp only [sysWrite, sysAfter, setLow_eq, toNat_and_page]
  · simp only [sysWrite, sysAfter, setHigh_eq]
  · simp only [sysWrite, sysAfter]
  · simp only [sysWrite, sysAfter, setLow_eq]
  · simp only [sysWrite, sysAfter, setHigh_eq]
  · simp only [sysWrite, sysAfter]

/-- SWR leaves the group's place and the bytes of memory alone. -/
theorem sysWrite_place (s : State) (n : Nat) (w : Word) :
    (sysWrite s n w).g.clause = s.g.clause ∧ (sysWrite s n w).g.pc = s.g.pc ∧ (sysWrite s n w).g.word = s.g.word ∧
      (sysWrite s n w).mem = s.mem := by
  unfold sysWrite
  dsimp only
  split <;> simp

section
variable {d : BitVec 6} {r : BitVec 12} (hm : mayWrite s r.toNat)
  (h : Issues (.swr d r) { sr := [d.toNat], serial := some false } s)
include hm h

/-- An SWR that is not barred issues. -/
theorem issues_swr : Issues (.swr d r) { sr := [d.toNat], barred := swrBarred s r.toNat, serial := some false } s := by
  rw [(mayWrite_iff s _).1 hm]
  exact h

/-- SWR of a register that may be written. -/
theorem did_swr (ha : ¬(r.toNat = 0x48 ∧ (s.g.sval d.toNat).toNat % 4 ≠ 0)) :
    ∃ t, exec (.swr d r) s = .next t ∧ Did (.swr d r) .seq s (sysAfter s r.toNat (s.g.sval d.toNat)) t := by
  obtain ⟨hc, hp, hw, hmem⟩ := sysWrite_place s r.toNat (s.g.sval d.toNat)
  rw [← sysWrite_eq hm]
  unfold exec execSwr
  exact ⟨_, perform_next (issues_swr hm h) (if_neg ha), State.retire_retired s _ _ _ .seq hc hp hw,
    fun a => congrArg (fun m : AMap Byte => m.get 0 a) hmem⟩

/-- SWR of a misaligned TPC (R300). -/
theorem exec_swr_misaligned (ha : r.toNat = 0x48 ∧ (s.g.sval d.toNat).toNat % 4 ≠ 0) :
    exec (.swr d r) s = .next (s.raise ⟨0x0D, (s.g.sval d.toNat).toNat, s.g.xm, 0⟩) := by
  unfold exec execSwr
  exact perform_trap (issues_swr hm h) (if_pos ha)

end

/-- SWR of a register that may not be written is barred. -/
theorem exec_swr_barred {d : BitVec 6} {r : BitVec 12} (hm : ¬mayWrite s r.toNat) (hw : s.g.wait = .none) :
    Barred (.swr d r) s := by
  unfold Barred exec execSwr
  exact perform_barred hw (by simpa [mayWrite_iff] using hm) (by simp)

/-- Settles O10: SRD by the table of values, the words of TSITE, the harvest counters and the two halves of CYCLE; SWR by
what may be written. -/
theorem systemRegisters : Obligations.SystemRegisters := by
  unfold Obligations.SystemRegisters
  refine ⟨fun s d r h => ⟨fun e he hr => ?_, fun k hk hr => ?_, fun k hk hr => ?_, did_srd_cycle h, did_srd_cycleHi h⟩,
    fun s d r _ => ⟨did_swr, fun hm h hr ha => exec_swr_misaligned hm h ⟨hr, ha⟩, exec_swr_barred⟩⟩
  · obtain ⟨h14, h15, hh⟩ := sysTable_others e he
    rw [← hr] at h14 h15 hh
    have := did_srd h h14 h15 (if_neg (by simpa using hh))
    rw [hr, sysValue_of_mem s e he] at this
    exact this
  · have := did_srd h (by omega) (by omega) (if_neg (by simp; omega))
    rw [hr, sysValue_site s k hk] at this
    exact this
  · exact did_srd_harvest h hk hr

end Sys2Proof.Claim
end

section
/-! SUPPORT. The dispatcher's events by their equations (R148 to R155), and the registers of a launched group (R26, R38,
R146). -/

namespace Sys2Proof.Machine

variable {s : State}

/-! ### Launch queues -/

/-- A tail that has changed, or a priority that has, makes the dispatcher read the queue. -/
theorem queueRead_needed {q : Nat} {tail : Word} {prio : Nat}
    (h : s.queueSeen.find? q ≠ some tail ∨ ∃ g ∈ s.grids, g.2.queue = q ∧ g.2.prio ≠ prio) :
    (s.queueSeen.find? q = some tail && s.grids.all (fun g => g.2.queue != q || g.2.prio == prio)) = false := by
  rcases h with h | ⟨g, hg, hq, hp⟩
  · simp [h]
  · simp only [Bool.and_eq_false_iff, List.all_eq_false]
    exact .inr ⟨g, hg, by simp [hq, hp]⟩

/-- The dispatcher reads the tail and the priority of a queue (R148). -/
theorem exec_dispatcherTailRead {q d : Nat} (hd : s.queueDesc q = some d)
    (h : s.queueSeen.find? q ≠ some (s.peekWord (d + 0x1C)) ∨
      ∃ g ∈ s.grids, g.2.queue = q ∧ g.2.prio ≠ s.peekNat (d + 0x10) 4 % 8) :
    exec (.dispatcherTailRead q) s = .next { s.agentTouch d 64 with
      queueSeen := s.queueSeen.put q (s.peekWord (d + 0x1C))
      grids := s.grids.mapVals fun _ g => if g.queue = q then { g with prio := s.peekNat (d + 0x10) 4 % 8 } else g } := by
  show execDispatcherTailRead q s = _
  unfold execDispatcherTailRead
  rw [hd]
  dsimp only
  rw [if_neg (by rw [queueRead_needed h]; exact Bool.false_ne_true)]
  rfl

section
variable {q d : Nat} (hd : s.queueDesc q = some d) {seen : Word} (hs : s.queueSeen.find? q = some seen)
  (hn : s.peekNat (d + 8) 4 ≠ 0) (hc : (s.contexts.find? (s.peekNat (d + 0x0C) 4)).isSome = true)
  (hh : BitVec.ofNat 32 (s.peekNat (d + 0x18) 4) ≠ seen) (hg : ∀ g ∈ s.grids, g.2.queue = q → g.2.settled = true)
include hd hs hn hc hh hg

/-- The dispatcher takes the next record of a queue whose earlier records are settled: HEAD advances (R148, R151). -/
theorem exec_launchRecordTake :
    let ctx := s.peekNat (d + 0x0C) 4
    let head := s.peekNat (d + 0x18) 4
    let a := s.peekNat d 8 + 256 * (head % s.peekNat (d + 8) 4)
    let u := ((s.agentTouch d 64).agentTouch a 256).homeWord (d + 0x18) (BitVec.ofNat 32 (head + 1))
    (s.launchError ctx a = none → exec (.launchRecordTake q) s = .next { u.bump with
      grids := u.grids.put u.fresh
        { ctx := ctx, queue := q, prio := s.peekNat (d + 0x10) 4 % 8, launch := s.readLaunch a } }) ∧
    ∀ off, s.launchError ctx a = some off → exec (.launchRecordTake q) s = .next
      (u.faultRecord ctx { kind := 8, code := off, grid := (s.readLaunch a).grid, va := a }) := by
  have h1 : ¬(s.peekNat (d + 8) 4 = 0 || (s.contexts.find? (s.peekNat (d + 0x0C) 4)).isNone ||
      (s.queueSeen.find? q).all (BitVec.ofNat 32 (s.peekNat (d + 0x18) 4) == ·)) := by
    simp [hn, hs, hh, Option.isSome_iff_ne_none.1 hc]
  have h2 : ¬s.grids.any fun g => g.2.queue == q && !g.2.settled := by
    simpa using fun k g hm hq => hg (k, g) hm hq
  intro ctx head a u
  show (_ → execLaunchRecordTake q s = _) ∧ ∀ off, _ → execLaunchRecordTake q s = _
  unfold execLaunchRecordTake
  rw [hd]
  dsimp only
  rw [if_neg h1, if_neg h2]
  refine ⟨fun h => ?_, fun off h => ?_⟩
  · rw [h]; rfl
  · rw [h]; rfl

end

/-! ### Dependent launch and placement -/

/-- A consumer whose producers' bits are set is released (R152). -/
theorem exec_consumerRelease {grid team : Nat} {q : Grid} {ps : List Nat} (hq : s.grids.find? grid = some q)
    (hw : q.waits team = true) (hp : s.producers grid q.launch team = .ok ps)
    (hb : s.bitsSet grid q.launch.pbitmap ps = .ok true) :
    exec (.consumerRelease grid team) s = .next { s.producersRead grid team q with
      grids := s.grids.put grid { q with released := q.released ++ [team], offered := false } } := by
  have hd : s.producersDone grid team q = .ok true := by simp [State.producersDone, hp, hb]
  show execConsumerRelease grid team s = _
  unfold execConsumerRelease
  simp only [hq, hw, hd]
  rfl

/-- The dispatcher places the teams of a context of which some may be offered (R151, R155). -/
theorem exec_teamPlacement {ctx : Nat} {c : Context} (hc : s.contexts.find? ctx = some c) (hp : c.preempt = .none)
    (hs : c.saved = []) (ho : ∃ q ∈ s.awaiting ctx, q.2.offered = false) (hr : s.releasing ctx = false) :
    exec (.teamPlacement ctx) s = .next (s.offerAll ctx (s.offersOf ctx)) := by
  have h : ¬(c.preempt != .none || !c.saved.isEmpty || (s.awaiting ctx).all (fun q => q.2.offered) || s.releasing ctx) := by
    obtain ⟨q, hm, hf⟩ := ho
    simpa [hp, hs, hr] using ⟨q.1, q.2, hm, hf⟩
  show execTeamPlacement ctx s = _
  unfold execTeamPlacement
  rw [hc]
  dsimp only
  rw [if_neg h]
  rfl

/-- An offered gang for which every core is found is placed (R155). -/
theorem offer_of_place {grid gang : Nat} {q : Grid} {qs : AMap Grid} (ho : q.offered = false) (hg : q.nextGang = some gang)
    (hr : (s.findPlace q.ctx q.launch.gpt q.launch.vregs q.launch.scratch q.launch.tpg).chosen.length = q.launch.tpg) :
    s.offer ((grid, q) :: qs) =
      (s.countDeferrals (s.findPlace q.ctx q.launch.gpt q.launch.vregs q.launch.scratch q.launch.tpg).deferred).placeGang grid
        gang q (s.findPlace q.ctx q.launch.gpt q.launch.vregs q.launch.scratch q.launch.tpg) := by
  rw [State.offer, if_neg (by simp [ho]), hg]
  exact if_pos hr

/-! ### The state of a launched group (R22, R26, R38, R146) -/

/-- Where a group starts, and how its registers are set out, before its scalars are written. -/
def launchBase (c : Context) (ctx grid team k : Nat) (l : Launch) (index g : Nat) : Group :=
  { resident := true, ctx := ctx, grid := grid, team := team, index := g, pc := l.entry, n := l.vregs, gctl := l.gctl
    helper := maskOf fun i => launchedLanes l.extent g ≤ i, stklim := BitVec.ofNat 32 l.priv, pvbase := c.area k
    trap := { frame := BitVec.ofNat 32 l.priv }
    rng := laneList.map fun i => (i, launchSeed l.seed index g i) }

/-- The mask with which a group starts: its lanes, rounded up to whole quads. -/
def launchMask (l : Launch) (g : Nat) : LaneMask := maskOf fun i => i < (launchedLanes l.extent g + 3) / 4 * 4

/-- The launch arguments in s0 to s4. -/
def Group.withArgs (x : Group) (l : Launch) (index g gang : Nat) : Group :=
  ((((x.setS 0 (l.param.setWidth 32) 14).setS 1 (BitVec.ofNat 32 (l.param.toNat / 2 ^ 32)) 14).setS 2
    (BitVec.ofNat 32 index) 1).setS 3 (BitVec.ofNat 32 g) 1).setS 4 (BitVec.ofNat 32 gang) 1

theorem launchGroup_eq (c : Context) (ctx grid team k index gang g : Nat) (l : Launch) :
    launchGroup c ctx grid team k l index gang g =
      ((launchBase c ctx grid team k l index g).withArgs l index g gang).setTriple 61 (launchMask l g) := rfl

/-- Reading an entry of a map over the numbers of a list. -/
theorem AMap.get_map {α : Type} (d : α) (f : Nat → α) {l : List Nat} {i : Nat} (h : i ∈ l) :
    AMap.get d (l.map fun j => (j, f j)) i = f i := by
  induction l with
  | nil => cases h
  | cons j l ih =>
    by_cases e : j = i
    · simp [AMap.get, e]
    · simp only [List.map_cons, AMap.get, e, if_false]
      exact ih ((List.mem_cons.1 h).resolve_left fun x => e x.symm)

/-- The launch arguments are scalars s0 to s4. -/
theorem Group.withArgs_regsOnly (x : Group) (l : Launch) (index g gang : Nat) :
    RegsOnly x (x.withArgs l index g gang) [0, 1, 2, 3, 4] [] :=
  (((((x.setS_regsOnly 0 _ _ [0] [] (List.mem_singleton_self _)).trans
    (Group.setS_regsOnly _ 1 _ _ [1] [] (List.mem_singleton_self _))).trans
    (Group.setS_regsOnly _ 2 _ _ [2] [] (List.mem_singleton_self _))).trans
    (Group.setS_regsOnly _ 3 _ _ [3] [] (List.mem_singleton_self _))).trans
    (Group.setS_regsOnly _ 4 _ _ [4] [] (List.mem_singleton_self _)))

/-- The launch arguments as they are read (R26). -/
theorem Group.sreg_withArgs (x : Group) (l : Launch) (index g gang : Nat) :
    (x.withArgs l index g gang).sreg 0 = ⟨l.param.setWidth 32, 14⟩ ∧
      (x.withArgs l index g gang).sreg 1 = ⟨BitVec.ofNat 32 (l.param.toNat / 2 ^ 32), 14⟩ ∧
      (x.withArgs l index g gang).sreg 2 = ⟨BitVec.ofNat 32 index, 1⟩ ∧
      (x.withArgs l index g gang).sreg 3 = ⟨BitVec.ofNat 32 g, 1⟩ ∧
      (x.withArgs l index g gang).sreg 4 = ⟨BitVec.ofNat 32 gang, 1⟩ := by
  simp [Group.withArgs]

/-- Outside trap mode a scalar reads as its register holds. -/
theorem Group.sreg_of_no_trap {x : Group} (h : x.trapMode = false) (r : Nat) : x.sreg r = x.s.get {} r := by
  simp [Group.sreg, h]

/-- A triple leaves other scalars alone. -/
theorem Group.sreg_setTriple_ne (x : Group) {r q : Nat} (m : LaneMask) (h : q < r) : (x.setTriple r m).sreg q = x.sreg q := by
  unfold Group.setTriple
  rw [Group.sreg_setS_ne _ _ _ _ _ (by omega), Group.sreg_setS_ne _ _ _ _ _ (by omega), Group.sreg_setS_ne _ _ _ _ _ (by omega)]

/-- The execution mask is the triple of s61. -/
theorem Group.xm_eq_triple (x : Group) : x.xm = x.triple 61 := by
  simp [Group.xm, Group.triple, Group.sval, Group.sreg]

section
variable (c : Context) (ctx grid team k index gang g : Nat) (l : Launch)

theorem launchGroup_regsOnly : RegsOnly (launchBase c ctx grid team k l index g) (launchGroup c ctx grid team k l index gang g)
    [0, 1, 2, 3, 4, 61, 62, 63] [] :=
  ((launchBase c ctx grid team k l index g).withArgs_regsOnly l index g gang).trans
    (Group.setTriple_regsOnly _ 61 (launchMask l g) [61, 62, 63] [] (by simp))

/-- The scalars below s61 of a launched group. -/
theorem sreg_launchGroup {r : Nat} (h : r < 61) : (launchGroup c ctx grid team k l index gang g).sreg r =
    ((launchBase c ctx grid team k l index g).withArgs l index g gang).sreg r := by
  rw [launchGroup_eq, Group.sreg_setTriple_ne _ _ h]

/-- Scalars s5 to s60 of a launched group are zero (R26). -/
theorem sreg_launchGroup_rest {r : Nat} (h5 : 5 ≤ r) (h : r < 61) :
    (launchGroup c ctx grid team k l index gang g).sreg r = {} := by
  have hx := launchGroup_regsOnly c ctx grid team k index gang g l
  rw [Group.sreg_of_no_trap hx.trapMode, hx.s r (.inr (by simp; omega))]
  rfl

/-- Apart from its registers and GSTAT a launched group is as it was set out. -/
theorem launchGroup_field {α : Type} (f : Group → α)
    (hf : ∀ (x : Group) (s ts : AMap SReg) (v : AMap VReg) (st : Flags),
      f { x with s := s, ts := ts, v := v, gstat := st } = f x) :
    f (launchGroup c ctx grid team k l index gang g) = f (launchBase c ctx grid team k l index g) := by
  rw [(launchGroup_regsOnly c ctx grid team k index gang g l).rest]
  exact hf _ _ _ _ _

theorem gstat_launchGroup : (launchGroup c ctx grid team k l index gang g).gstat = 0 := by
  rw [launchGroup_eq, Group.gstat_setTriple]
  simp only [Group.withArgs, Group.gstat_setS]
  rfl

/-- A launched group's lanes are active up to whole quads (R147). -/
theorem xm_launchGroup {i : Nat} (hi : i < 96) : (launchGroup c ctx grid team k l index gang g).xm.getLsbD i = true ↔
    i < (launchedLanes l.extent g + 3) / 4 * 4 := by
  rw [Group.xm_eq_triple, launchGroup_eq, Group.triple_setTriple, launchMask, maskOf_getLsbD _ i hi]
  exact decide_eq_true_iff

/-- The lanes beyond the launched ones are helper lanes (R147). -/
theorem helper_launchGroup {i : Nat} (hi : i < 96) :
    (launchGroup c ctx grid team k l index gang g).helper.getLsbD i = true ↔ launchedLanes l.extent g ≤ i := by
  rw [launchGroup_field c ctx grid team k index gang g l Group.helper fun _ _ _ _ _ => rfl]
  unfold launchBase
  rw [maskOf_getLsbD _ i hi]
  exact decide_eq_true_iff

/-- Each lane of a launched group has its own random state (R38). -/
theorem rng_launchGroup {i : Nat} (hi : i < 96) :
    (launchGroup c ctx grid team k l index gang g).rng.get 0 i = launchSeed l.seed index g i := by
  rw [launchGroup_field c ctx grid team k index gang g l Group.rng fun _ _ _ _ _ => rfl]
  exact AMap.get_map 0 _ (List.mem_range.2 hi)

end

end Sys2Proof.Machine
end

section
/-! SETTLED: O49. The dispatcher. What is left is the bit of an ended team (R153): while bits are missing its grid stays,
and however the completion of a grid ends, the team does not come back. -/

namespace Sys2Proof.Machine

variable {s : State} {team : Nat}

/-! ### A team that is not there does not come back -/

theorem State.find?_teams_setBarrier (h : s.teams.find? team = none) (id n : Nat) (b : Barrier) :
    (s.setBarrier id n b).teams.find? team = none := by
  unfold State.setBarrier
  cases ht : s.teams.find? id with
  | none => exact h
  | some t =>
    dsimp only
    split
    · have hne : team ≠ id := by rintro rfl; simp [h] at ht
      simpa [hne] using h
    · exact h

theorem State.find?_teams_checkBarrier (h : s.teams.find? team = none) (id n : Nat) :
    (s.checkBarrier id n).teams.find? team = none :=
  ite_holds (P := fun u : State => u.teams.find? team = none) (State.find?_teams_setBarrier h id n _) h

theorem State.find?_teams_leaveBarriers (k id : Nat) (ns : List Nat) (s : State) (h : s.teams.find? team = none) :
    (ns.foldl (State.leaveBarrier k id) s).teams.find? team = none := by
  induction ns generalizing s with
  | nil => exact h
  | cons n ns ih => exact ih _ (State.find?_teams_checkBarrier (State.find?_teams_setBarrier h id n _) id n)

theorem State.find?_teams_endGroup (h : s.teams.find? team = none) (k : Nat) : (s.endGroup k).teams.find? team = none := by
  unfold State.endGroup
  rw [State.haltGroup_eq]
  refine State.find?_teams_leaveBarriers _ _ _ _ ?_
  rw [s.flushPending_eq k]
  show (s.pendingRecords k).teams.find? team = none
  rw [(s.pendingRecords_memoryOnly k).teams]
  exact h

theorem State.find?_teams_endGroups (ks : List Nat) (s : State) (h : s.teams.find? team = none) :
    (ks.foldl (fun s k => if (s.group k).stopsAtOnce then s.endGroup k else s) s).teams.find? team = none := by
  induction ks generalizing s with
  | nil => exact h
  | cons k ks ih => exact ih _ (ite_holds (P := fun u : State => u.teams.find? team = none) (State.find?_teams_endGroup h k) h)

theorem State.find?_teams_endGrid (h : s.teams.find? team = none) (grid code va : Nat) :
    (s.endGrid grid code va).teams.find? team = none := by
  unfold State.endGrid
  split
  · exact h
  · split
    · exact h
    · dsimp only
      rw [(State.faultRecord_memoryOnly _ _ _).teams]
      exact State.find?_teams_endGroups _ _ h

theorem State.dispatcherFault_teams (s : State) (grid va code : Nat) (write : Bool) :
    (s.dispatcherFault grid va code write).teams = s.teams := by
  unfold State.dispatcherFault
  split
  · rfl
  · exact (State.faultRecord_memoryOnly _ _ _).teams

/-- What an access of the dispatcher comes to, where it ends its grid or writes a record if it fails. -/
def State.FailsAs (s : State) (grid va : Nat) (write : Bool) (x : Except (Option State) Nat) : Prop :=
  ∀ t, x = .error (some t) → (∃ code, t = s.endGrid grid code va) ∨ ∃ code, t = s.dispatcherFault grid va code write

/-- Where an access of the dispatcher fails, its grid ends or a record is written. -/
theorem State.dispatcherKey_failsAs (s : State) (grid va align : Nat) (write : Bool) :
    s.FailsAs grid va write (s.dispatcherKey grid va align write) := by
  have ended (code : Nat) : s.FailsAs grid va write (.error (some (s.endGrid grid code va))) :=
    fun _ h => .inl ⟨code, (Option.some.inj (Except.error.inj h)).symm⟩
  have recorded (code : Nat) : s.FailsAs grid va write (.error (some (s.dispatcherFault grid va code write))) :=
    fun _ h => .inr ⟨code, (Option.some.inj (Except.error.inj h)).symm⟩
  have waits : s.FailsAs grid va write (.error none) := nofun
  unfold State.dispatcherKey
  split
  · exact waits
  · refine ite_holds waits (ite_holds (ended 0) (ite_holds (ended 0xE0) ?_))
    split
    · exact ite_holds (ended 0) (ite_holds (ended 0xE0) nofun)
    · exact recorded 1
    · exact recorded 2

theorem State.find?_teams_completeGrid (h : s.teams.find? team = none) (grid : Nat) :
    (s.completeGrid grid).teams.find? team = none := by
  unfold State.completeGrid
  repeat' split
  · exact h
  · exact h
  · exact h
  · next key _ =>
    show ((State.agentWalk _ _ _ _).homeWord key 1).teams.find? team = none
    rw [(State.homeWord_memoryOnly _ _ _).teams, (State.agentWalk_memoryOnly _ _ _ _).teams]
    exact h
  · exact h
  · next t ht =>
    rcases s.dispatcherKey_failsAs _ _ _ _ t ht with ⟨code, rfl⟩ | ⟨code, rfl⟩
    · exact State.find?_teams_endGrid h grid code _
    · rw [State.dispatcherFault_teams]
      exact h

/-! ### The bit -/

theorem State.returnGroups_grids (s : State) (id : Nat) (t : Team) : (s.returnGroups id t).grids = s.grids := by
  unfold State.returnGroups
  induction t.slots generalizing s with
  | nil => rfl
  | cons l ls ih =>
    rw [List.foldl_cons, ih]
    exact ite_holds (P := fun u : State => u.grids = s.grids) rfl rfl

/-- A write at the home leaves the bytes it writes in memory. -/
theorem State.mem_homeWrite (s : State) (by_ : Option Nat) (k : Nat) (bs : List Byte) :
    (s.homeWrite by_ k bs).mem = putBytes (s.recallRange k bs.length).mem k bs := by
  have served (ls : List Nat) (f : State → Nat → State) (hf : ∀ s line, (f s line).mem = s.mem) (s : State) :
      (ls.foldl f s).mem = s.mem := by
    induction ls generalizing s with
    | nil => rfl
    | cons l ls ih => rw [List.foldl_cons, ih, hf]
  unfold State.homeWrite
  refine served _ _ (fun s line => ?_) _
  cases by_ <;> exact State.mem_l2Serve s line

theorem State.byte_homeWrite_one (s : State) (by_ : Option Nat) (k : Nat) (b : Byte) :
    (s.homeWrite by_ k [b]).byte k = b := by
  unfold State.byte
  rw [State.mem_homeWrite]
  exact get_putBytes_inside [b] _ k 0 (by simp)

/-- While bits of a grid's teams are missing it is not complete. -/
theorem State.completeGrid_of_missing {grid : Nat} {q : Grid} (hq : s.grids.find? grid = some q)
    (hb : q.bits.length < q.launch.teams) : s.completeGrid grid = s := by
  unfold State.completeGrid
  rw [hq]
  exact if_pos (by simp [hb])

/-- The state in which an ended team has its bit set, and is gone. -/
def State.bitSet (s : State) (team key : Nat) (tm : Team) (q : Grid) : State :=
  let u := ((s.returnGroups team tm).releaseL1 tm.core 4).agentWalk q.ctx (q.launch.cbitmap + tm.index / 8) 4
  let u := u.homeWrite none key [u.peek key ||| (1#8 <<< (tm.index % 8))]
  { u with teams := u.teams.erase team, grids := u.grids.put tm.grid { q with bits := q.bits ++ [tm.index] } }

theorem State.bitSet_grids (s : State) (team key : Nat) (tm : Team) (q : Grid) :
    (s.bitSet team key tm q).grids = s.grids.put tm.grid { q with bits := q.bits ++ [tm.index] } := by
  unfold State.bitSet
  dsimp only
  rw [(State.homeWrite_memoryOnly _ _ _ _).grids, (State.agentWalk_memoryOnly _ _ _ _).grids,
    (State.releaseL1_memoryOnly _ _ _).grids, State.returnGroups_grids]

theorem State.byte_bitSet (s : State) (team key : Nat) (tm : Team) (q : Grid) :
    let u := ((s.returnGroups team tm).releaseL1 tm.core 4).agentWalk q.ctx (q.launch.cbitmap + tm.index / 8) 4
    (s.bitSet team key tm q).byte key = u.peek key ||| (1#8 <<< (tm.index % 8)) :=
  State.byte_homeWrite_one (((s.returnGroups team tm).releaseL1 tm.core 4).agentWalk q.ctx _ 4) none key _

/-- An ended team whose side-log entries have drained has its bit set (R153). -/
theorem exec_cbitmapSet {key : Nat} {tm : Team} {q : Grid} (ht : s.teams.find? team = some tm)
    (hq : s.grids.find? tm.grid = some q) (he : tm.ended = true) (hc : q.cancelled = false) (hi : tm.index ∉ q.bits)
    (hd : s.teamDrained team tm = true)
    (hk : s.dispatcherKey tm.grid (q.launch.cbitmap + tm.index / 8) 1 true = .ok key) :
    exec (.cbitmapSet team) s = .next ((s.bitSet team key tm q).completeGrid tm.grid) := by
  show execCbitmapSet team s = _
  unfold execCbitmapSet
  simp only [ht, hq, hk]
  rw [if_neg (by simp [he, hc, hi, hd])]
  rfl

end Sys2Proof.Machine

namespace Sys2Proof.Claim

open Machine

/-- Settles O49: each event of the dispatcher by its equation, and the launch state by the registers it writes. -/
theorem dispatching : Obligations.Dispatching := by
  unfold Obligations.Dispatching
  refine ⟨?_, ?_, ?_, ?_, ?_, ?_⟩
  · intro s q d hd tail prio ctx n head a
    exact ⟨exec_dispatcherTailRead hd, fun seen hs hn hc hh hg => exec_launchRecordTake hd hs hn hc hh hg⟩
  · intro s grid team q ps hq hdep hcan hlt hrel hp hb
    exact exec_consumerRelease hq (by simp [Grid.waits, *]) hp hb
  · intro s team key tm q ht hq he hc hi hd hk
    refine ⟨_, exec_cbitmapSet ht hq he hc hi hd hk, State.find?_teams_completeGrid (AMap.find?_erase_self _ _) _, ?_⟩
    intro hlt u
    have hg := State.bitSet_grids s team key tm q
    rw [State.completeGrid_of_missing (q := { q with bits := q.bits ++ [tm.index] }) (by rw [hg]; exact AMap.find?_put_self _ _ _)
      (by simpa using hlt)]
    exact ⟨s.byte_bitSet team key tm q, hg⟩
  · intro s ctx c hc hp hs ho hr
    exact exec_teamPlacement hc hp hs ho hr
  · intro s grid gang q qs ho hg r hr
    exact offer_of_place ho hg hr
  · intro c ctx grid team k index gang g l x lanes
    have hx := launchGroup_regsOnly c ctx grid team k index gang g l
    have keeps {α : Type} (f : Group → α) := launchGroup_field c ctx grid team k index gang g l f
    have low {r : Nat} (h : r < 61) := sreg_launchGroup c ctx grid team k index gang g l h
    have hp : l.param.setWidth 32 = BitVec.ofNat 32 l.param.toNat := by simp
    obtain ⟨h0, h1, h2, h3, h4⟩ := (launchBase c ctx grid team k l index g).sreg_withArgs l index g gang
    exact ⟨keeps (·.resident) fun _ _ _ _ _ => rfl, keeps (·.halted) fun _ _ _ _ _ => rfl, hx.trapMode,
      keeps (·.pc) fun _ _ _ _ _ => rfl, keeps (·.n) fun _ _ _ _ _ => rfl, keeps (·.gctl) fun _ _ _ _ _ => rfl,
      gstat_launchGroup c ctx grid team k index gang g l,
      (keeps (·.stklim.toNat) fun _ _ _ _ _ => rfl).trans (BitVec.toNat_ofNat _ _),
      keeps (·.ticket) fun _ _ _ _ _ => rfl, keeps (·.batch) fun _ _ _ _ _ => rfl,
      (low (by omega)).trans (hp ▸ h0), (low (by omega)).trans h1, (low (by omega)).trans h2, (low (by omega)).trans h3,
      (low (by omega)).trans h4, fun r => sreg_launchGroup_rest c ctx grid team k index gang g l,
      fun r => hx.v r List.not_mem_nil, fun r => keeps (·.base r) fun _ _ _ _ _ => rfl,
      fun i => xm_launchGroup c ctx grid team k index gang g l, fun i => helper_launchGroup c ctx grid team k index gang g l,
      fun i => rng_launchGroup c ctx grid team k index gang g l⟩

end Sys2Proof.Claim
end

section
/-! SUPPORT. The start of a clause (R12, R50 to R53, R285): fetching leaves all but the group's fetch buffer and the routers
alone, and a clause that is at hand begins or faults. -/

namespace Sys2Proof.Machine

variable {s t u : State} {k : Nat} {c : Clause}

/-! ### The hint of a header -/

/-- Asking for code depends on the cluster and on the context of the group that asks, and changes the cluster alone. -/
theorem State.askCode_congr (hc : t.clusters = s.clusters) (hg : (t.group k).ctx = (s.group k).ctx) (va : Int) :
    t.askCode k va = { t with clusters := (s.askCode k va).clusters } := by
  have hk : t.cluster (clusterOf k) = s.cluster (clusterOf k) := congrArg (·.get {} (clusterOf k)) hc
  unfold State.askCode
  dsimp only
  rw [hk, hg]
  split
  · rw [← hc]
  · unfold State.modCluster
    rw [hk, hc]

theorem State.takeHint_congr (hc : t.clusters = s.clusters) (hg : (t.group k).ctx = (s.group k).ctx) (c : Clause) :
    t.takeHint k c = { t with clusters := (s.takeHint k c).clusters } := by
  unfold State.takeHint
  split
  · rw [← hc]
  · exact State.askCode_congr hc hg _

/-! ### The start of a fetched clause -/

/-- A clause that passes its checks, for a group that begins or resumes it. -/
def Group.mayBegin (g : Group) (c : Clause) : Prop := c.ok = true ∧ (g.resumed = true → g.word ∈ starts 0 c.words)

theorem Group.not_mayBegin (g : Group) (c : Clause) (h : c.ok = false ∨ g.resumed = true ∧ g.word ∉ starts 0 c.words) :
    ¬g.mayBegin c := by
  rintro ⟨h1, h2⟩
  rcases h with h | ⟨hr, hn⟩
  · simp [h1] at h
  · exact hn (h2 hr)

/-- A clause that passes its checks starts once its counters read zero, and its hint goes to the cache (R51, R52). -/
theorem State.beginClause_started (h : (s.group k).mayBegin c) (hw : (s.group k).waitMet c.header = true) :
    s.beginClause k c =
      some ((s.takeHint k c).modGroup k fun g => { g with clause := some c, started := true, resumed := false }) := by
  obtain ⟨hok, hr⟩ := h
  unfold State.beginClause
  dsimp only
  rw [if_neg (by simpa [hok] using hr), if_pos hw]

/-- A clause that breaks a rule raises cause 0x03 (R12, R302). -/
theorem State.beginClause_fault (h : ¬(s.group k).mayBegin c) (hq : (s.group k).quiet = true) :
    s.beginClause k c = some (s.fetchFault k ⟨0x03, c.header.toNat, (s.group k).xm, 0⟩) := by
  have hb : (!c.ok || ((s.group k).resumed && !((starts 0 c.words).contains (s.group k).word))) = true := by
    unfold Group.mayBegin at h
    cases hok : c.ok <;> cases hr : (s.group k).resumed <;> simp_all
  unfold State.beginClause
  dsimp only
  rw [if_pos hb, if_pos hq]

/-! ### Fetching -/

/-- t is s with the clause at the PC of group k at hand, and what the fetch has put on the routers. -/
def FetchOnly (s t : State) (k : Nat) : Prop :=
  t = { s with groups := t.groups, routers := t.routers } ∧
    ∃ buf cl, t.group k = { s.group k with fetchBuf := buf, clause := cl }

/-- A group's clause and fetch buffer as they are. -/
theorem Group.with_own_fetch (g : Group) : g = { g with fetchBuf := g.fetchBuf, clause := g.clause } := rfl

theorem FetchOnly.setGroup (rs : List Nat) (buf : List Clause) (cl : Option Clause) :
    FetchOnly s ((s.flit rs).setGroup k { s.group k with fetchBuf := buf, clause := cl }) k :=
  ⟨rfl, buf, cl, State.group_setGroup_self _ _ _⟩

/-- What the routers carry does not matter for the code that is read. -/
theorem State.codeWords_flit (s : State) (rs : List Nat) (k va key n : Nat) :
    (s.flit rs).codeWords k va key n = s.codeWords k va key n := by
  induction n generalizing va key with
  | zero => rfl
  | succ n ih =>
    have h : (s.flit rs).codeWord k va key = s.codeWord k va key := rfl
    unfold State.codeWords
    rw [h, ih]

/-- A page that the cluster's instruction TLB holds translates at once (R199). -/
theorem State.fetchKey_hit {va : Nat} {e : TlbEntry} (hx : e.ex = true)
    (he : ((s.cluster (clusterOf k)).itlb.find? fun e => e.holds (s.group k).ctx va) = some e) :
    s.fetchKey k va = (s, .ok (e.key va)) := by
  unfold State.fetchKey
  dsimp only
  rw [he]
  simp [hx]

/-- A clause that lies whole in the cache, on one page that translates, is the one that begins. -/
theorem State.fetchClause_of_cached {e : TlbEntry} (hx : e.ex = true) (hpc : c.pc = (s.group k).pc)
    (he : ((s.cluster (clusterOf k)).itlb.find? fun e => e.holds (s.group k).ctx (s.group k).pc.toNat) = some e)
    (hh : s.codeWord k (s.group k).pc.toNat (e.key (s.group k).pc.toNat) = .ok c.header)
    (hw : if headerOk c.header then
        (s.group k).pc.toNat / 24576 = ((s.group k).pc.toNat + 4 * headerCount c.header + 3) / 24576 ∧
        s.codeWords k ((s.group k).pc.toNat + 4) (e.key (s.group k).pc.toNat + 4) (headerCount c.header) = .ok c.words
      else c.words = []) :
    ∃ t, FetchOnly s t k ∧ ∀ u, t.beginClause k c = some u → s.fetchClause k = some u := by
  have hk : (s.flit [coreOf k / 32]).fetchKey k (s.group k).pc.toNat =
      (s.flit [coreOf k / 32], .ok (e.key (s.group k).pc.toNat)) := State.fetchKey_hit hx he
  have hh' : (s.flit [coreOf k / 32]).codeWord k (s.group k).pc.toNat (e.key (s.group k).pc.toNat) = .ok c.header := hh
  by_cases ho : headerOk c.header
  · rw [if_pos ho] at hw
    obtain ⟨hpage, hwords⟩ := hw
    have hpage' : (s.group k).pc.toNat / 24576 = ((s.group k).pc.toNat + 4 * (headerCount c.header + 1) - 1) / 24576 := by
      rw [hpage]
      congr 1
    refine ⟨_, .setGroup [coreOf k / 32] ((s.flit [coreOf k / 32]).following k 2
      (nextHeader (s.group k).pc (headerCount c.header)) (e.key (s.group k).pc.toNat + 4 * (headerCount c.header + 1)))
      (s.group k).clause, fun u hu => ?_⟩
    have hc : c = ⟨(s.group k).pc, c.header, c.words⟩ := by rw [← hpc]
    rw [hc] at hu
    unfold State.fetchClause
    dsimp only
    rw [hk]
    dsimp only
    rw [hh']
    dsimp only
    rw [if_neg (by simp [ho]), if_pos hpage', State.codeWords_flit, hwords]
    dsimp only
    split
    · next v hv => exact hv.symm.trans hu
    · next hv => exact absurd (hv.symm.trans hu) nofun
  · rw [if_neg ho] at hw
    refine ⟨s.flit [coreOf k / 32], ⟨rfl, _, _, (s.group k).with_own_fetch⟩, fun u hu => ?_⟩
    have hc : c = ⟨(s.group k).pc, c.header, []⟩ := by rw [← hpc, ← hw]
    rw [hc] at hu
    unfold State.fetchClause
    dsimp only
    rw [hk]
    dsimp only
    rw [hh']
    dsimp only
    rw [if_pos (by simp [ho])]
    exact hu

/-- The state with a clause of its fetch buffer taken by a group. -/
def State.fromBuffer (s : State) (k : Nat) (c : Clause) : State :=
  s.setGroup k { s.group k with
    fetchBuf := (s.group k).fetchBuf.filter fun x => c.pc.toNat < x.pc.toNat, clause := some c }

/-- A group that may start a clause, with no fault to deliver before it. -/
structure Group.AtBoundary (g : Group) : Prop where
  started : g.started = false
  wait : g.wait = .none
  pending : g.trapMode = true ∨ g.word ≠ 0 ∨ g.pending = []

section
variable (h : (s.group k).AtBoundary)
include h

theorem Group.AtBoundary.none_delivered :
    (if (s.group k).trapMode || (s.group k).word != 0 then none else (s.group k).pending.head?) = none := by
  rcases h.pending with hp | hp | hp <;> simp [hp]

theorem State.clauseStart_of_clause (hc : (s.group k).clause = some c) : s.clauseStart k = s.beginClause k c := by
  unfold State.clauseStart
  dsimp only
  rw [if_neg (by simp [h.started, h.wait]), h.none_delivered]
  dsimp only
  rw [hc]

theorem State.clauseStart_of_buffer (hc : (s.group k).clause = none)
    (hb : ((s.group k).fetchBuf.find? fun x => x.pc == (s.group k).pc) = some c) :
    s.clauseStart k = some (((s.fromBuffer k c).beginClause k c).getD (s.fromBuffer k c)) := by
  unfold State.clauseStart
  dsimp only
  rw [if_neg (by simp [h.started, h.wait]), h.none_delivered]
  dsimp only
  rw [hc]
  dsimp only
  rw [hb]
  rfl

theorem State.clauseStart_of_fetch (hc : (s.group k).clause = none)
    (hb : ((s.group k).fetchBuf.find? fun x => x.pc == (s.group k).pc) = none) : s.clauseStart k = s.fetchClause k := by
  unfold State.clauseStart
  dsimp only
  rw [if_neg (by simp [h.started, h.wait]), h.none_delivered]
  dsimp only
  rw [hc]
  dsimp only
  rw [hb]

/-- A clause that is here is the one that begins. -/
theorem State.clauseStart_of_here (hc : Claim.ClauseHere s k c) :
    ∃ t, FetchOnly s t k ∧ ∀ u, t.beginClause k c = some u → s.clauseStart k = some u := by
  rcases hc with hc | ⟨hn, hb | ⟨hb, e, he, hx, hpc, hh, hws⟩⟩
  · exact ⟨s, ⟨rfl, _, _, (s.group k).with_own_fetch⟩, fun u hu => (State.clauseStart_of_clause h hc).trans hu⟩
  · exact ⟨s.fromBuffer k c, ⟨rfl, _, _, State.group_setGroup_self _ _ _⟩, fun u hu =>
      (State.clauseStart_of_buffer h hn hb).trans (congrArg (fun x : Option State => some (x.getD _)) hu)⟩
  · obtain ⟨t, ht, hf⟩ := State.fetchClause_of_cached hx hpc he hh hws
    exact ⟨t, ht, fun u hu => (State.clauseStart_of_fetch h hn hb).trans (hf u hu)⟩

end

/-! ### What begins -/

/-- The state in which a group that begins a clause is at it. -/
theorem State.beginClause_fetched (hf : FetchOnly s t k) (hb : (s.group k).mayBegin c)
    (hw : (s.group k).waitMet c.header = true) :
    ∃ u buf, t.beginClause k c = some u ∧
      u.group k = { s.group k with clause := some c, started := true, resumed := false, fetchBuf := buf } ∧
      u = { s with groups := u.groups, clusters := (s.takeHint k c).clusters, routers := u.routers } := by
  obtain ⟨ht, buf, cl, hg⟩ := hf
  have hc : t.clusters = s.clusters := by rw [ht]
  have hu := State.beginClause_started (s := t) (k := k) (c := c) (by rw [hg]; exact hb) (by rw [hg]; exact hw)
  rw [State.takeHint_congr hc (by rw [hg])] at hu
  refine ⟨_, buf, hu, (State.group_setGroup_self _ _ _).trans ?_, ?_⟩
  · show ({ t.group k with clause := some c, started := true, resumed := false } : Group) = _
    rw [hg]
  · rw [ht]
    rfl

/-! ### Faults at a clause boundary -/

/-- What a group that enters its handler has, whatever its demotion. -/
theorem Group.entered_demoted (g : Group) (now : Nat) (f : Trap) (pc : Addr) (word : Nat) (site : Site) (tb : Addr) :
    let x := (g.demoted now).entered f pc word site tb
    x.trapMode = true ∧ x.started = false ∧ x.s = g.s ∧ x.v = g.v ∧ x.pending = g.pending ∧
      x.pc.toNat = (tb.toNat + 64 * f.cause) % 2 ^ 56 ∧
      x.trap = { cause := BitVec.ofNat 6 f.cause, mask := f.mask, val := BitVec.ofNat 64 f.val, pc := pc
                 word := BitVec.ofNat 4 word, site := site, frame := g.stklim } := by
  rw [g.demoted_eq now]
  exact ⟨rfl, rfl, rfl, rfl, rfl, toNat_handler _ _, rfl⟩

theorem State.vector_group {f : Trap} {pc : Addr} {word : Nat} {site : Site} (h : (s.group k).trapMode = false) :
    (s.vector k f pc word site).group k =
      ((s.group k).demoted (s.cycle k)).entered f pc word site (s.context (s.group k).ctx).tbase := by
  rw [State.vector_of_no_trap s k f pc word site h]
  exact AMap.get_put_self _ _ _ _

theorem State.vector_mem {f : Trap} {pc : Addr} {word : Nat} {site : Site} (h : (s.group k).trapMode = false) :
    (s.vector k f pc word site).mem = s.mem := by
  rw [State.vector_of_no_trap s k f pc word site h]

/-- A clause that breaks a rule, at the boundary of a quiet group outside trap mode: its group enters its handler. -/
theorem State.beginClause_faulted (hf : FetchOnly s t k) (hb : ¬(s.group k).mayBegin c) (hq : (s.group k).quiet = true)
    (ht : (s.group k).trapMode = false) :
    ∃ u, t.beginClause k c = some u ∧ (u.group k).trapMode = true ∧ (u.group k).trap.cause = 0x03 ∧
      (u.group k).trap.val = c.header.setWidth 64 ∧ (u.group k).trap.mask = (s.group k).xm ∧
      (u.group k).trap.pc = (s.group k).pc ∧ (u.group k).trap.word = BitVec.ofNat 4 (s.group k).word ∧
      (u.group k).started = false ∧ (u.group k).s = (s.group k).s ∧ (u.group k).v = (s.group k).v ∧
      (∀ a, u.byte a = s.byte a) ∧
      (u.group k).pc.toNat = ((s.context (s.group k).ctx).tbase.toNat + 64 * 0x03) % 2 ^ 56 := by
  obtain ⟨hs, buf, cl, hg⟩ := hf
  have hctx : t.contexts = s.contexts := by rw [hs]
  have hmem : t.mem = s.mem := by rw [hs]
  have ht' : (t.group k).trapMode = false := by rw [hg]; exact ht
  refine ⟨_, State.beginClause_fault (by rw [hg]; exact hb) (by rw [hg]; exact hq), ?_⟩
  unfold State.fetchFault
  dsimp only
  obtain ⟨h1, h2, h3, h4, -, h5, h6⟩ := (t.group k).entered_demoted (t.cycle k)
    ⟨0x03, c.header.toNat, (t.group k).xm, 0⟩ (t.group k).pc (t.group k).word (t.group k).site
    (t.context (t.group k).ctx).tbase
  rw [State.vector_group ht']
  rw [h1, h2, h3, h4, h5, h6]
  refine ⟨rfl, rfl, by simp, by rw [hg]; rfl, by rw [hg], by rw [hg], rfl, by rw [hg], by rw [hg], fun a => ?_, ?_⟩
  · unfold State.byte
    rw [State.vector_mem ht', hmem]
  · rw [hg]
    unfold State.context
    rw [hctx]

/-- A pending late store fault is delivered: its group enters its handler (R285). -/
theorem State.deliverPending_lateStore {site : Site} {n : Nat} {ps : List Pending}
    (hp : (s.group k).pending = .lateStore site n :: ps) (ht : (s.group k).trapMode = false) :
    let t := s.deliverPending k (.lateStore site n)
    (t.group k).trapMode = true ∧ (t.group k).trap.cause = 0x11 ∧ (t.group k).trap.val.toNat = n % 2 ^ 64 ∧
      (t.group k).trap.site = site ∧ (t.group k).trap.pc = (s.group k).pc ∧ (t.group k).pending = ps ∧
      (t.group k).pc.toNat = ((s.context (s.group k).ctx).tbase.toNat + 64 * 0x11) % 2 ^ 56 := by
  have hg : (s.setGroup k { s.group k with pending := (s.group k).pending.tail }).group k =
      { s.group k with pending := ps } := by rw [State.group_setGroup_self, hp]; rfl
  unfold State.deliverPending
  dsimp only
  rw [State.modGroup_eq, State.vector_group (by rw [hg]; exact ht), hg]
  obtain ⟨h1, -, -, -, h2, h3, h4⟩ := ({ s.group k with pending := ps } : Group).entered_demoted
    ((s.setGroup k { s.group k with pending := (s.group k).pending.tail }).cycle k)
    ⟨0x11, n, 0, 0⟩ (s.group k).pc 0 site (s.context (s.group k).ctx).tbase
  exact ⟨h1, congrArg (fun x : TrapRegs => x.cause) h4,
    (congrArg (fun x : TrapRegs => x.val.toNat) h4).trans (BitVec.toNat_ofNat n 64),
    congrArg (fun x : TrapRegs => x.site) h4, congrArg (fun x : TrapRegs => x.pc) h4, h2, h3⟩

end Sys2Proof.Machine
end

section
/-! SUPPORT. What CLAUSE_START does (R12, R52, R285, R289). -/

namespace Sys2Proof.Machine

variable {s : State} {k : Nat} {c : Clause}

theorem State.takeHint_group (s : State) (k : Nat) (c : Clause) : (s.takeHint k c).group k = s.group k :=
  State.group_congr (t := s.takeHint k c) (congrArg State.groups (State.takeHint_congr rfl rfl c)) k

section
variable (h : (s.group k).AtBoundary) (hb : (s.group k).mayBegin c) (hw : (s.group k).waitMet c.header = true)
include h hb hw

/-- A clause that a group has begun to fetch starts. -/
theorem State.clauseStart_held (hc : (s.group k).clause = some c) : s.clauseStart k =
    some ((s.takeHint k c).setGroup k { s.group k with clause := some c, started := true, resumed := false }) := by
  rw [State.clauseStart_of_clause h hc, State.beginClause_started hb hw, State.modGroup_eq, State.takeHint_group]

/-- A clause of the fetch buffer starts. -/
theorem State.clauseStart_buffered (hc : (s.group k).clause = none)
    (hf : ((s.group k).fetchBuf.find? fun x => x.pc == (s.group k).pc) = some c) : s.clauseStart k =
    some ((s.takeHint k c).setGroup k { s.group k with
      clause := some c, started := true, resumed := false
      fetchBuf := (s.group k).fetchBuf.filter fun x => c.pc.toNat < x.pc.toNat }) := by
  have hg : (s.fromBuffer k c).group k = { s.group k with
      fetchBuf := (s.group k).fetchBuf.filter fun x => c.pc.toNat < x.pc.toNat, clause := some c } :=
    State.group_setGroup_self _ _ _
  rw [State.clauseStart_of_buffer h hc hf,
    State.beginClause_started (s := s.fromBuffer k c) (by rw [hg]; exact hb) (by rw [hg]; exact hw), State.modGroup_eq,
    State.takeHint_group, hg, State.takeHint_congr (s := s) (t := s.fromBuffer k c) rfl (by rw [hg]),
    State.takeHint_congr (s := s) (t := s) rfl rfl]
  unfold State.fromBuffer State.setGroup
  rw [Option.getD_some, AMap.put_put]

end

/-- A grid that has been cancelled has ended. -/
theorem State.gridEnded_iff (s : State) (k : Nat) :
    s.gridEnded k = true ↔ ∃ q, s.grids.find? (s.group k).grid = some q ∧ q.cancelled = true := by
  unfold State.gridEnded
  cases s.grids.find? (s.group k).grid <;> simp

section
variable (hm : s.mayRun k = true) (hs : (s.group k).started = false) (hw : (s.group k).wait = .none)
include hm hs hw

/-- A group of an ended grid ends at its clause boundary (R289). -/
theorem clauseStart_ended (h0 : (s.group k).word = 0)
    (he : ∃ q, s.grids.find? (s.group k).grid = some q ∧ q.cancelled = true) :
    ∃ t, exec (.clauseStart k) s = .next t ∧ (t.group k).halted = true ∧ (t.group k).started = false ∧
      (t.group k).s = (s.group k).s ∧ (t.group k).v = (s.group k).v ∧
      ((s.group k).pending = [] → ∀ a, t.byte a = s.byte a) := by
  have hx : exec (.clauseStart k) s = .next (s.endGroup k) := by
    show event "CLAUSE_START" (s.startOrStop k) = _
    unfold State.startOrStop
    dsimp only
    rw [if_neg (by simp [hm, hs, hw]), if_pos (by simp [h0, (s.gridEnded_iff k).2 he])]
    rfl
  obtain ⟨h1, -, -, h2, h3, h4, -⟩ :=
    Group.halts_demoted { s.group k with pending := [] } ((s.flushPending k).cycle k)
  refine ⟨_, hx, ?_⟩
  rw [s.endGroup_group k]
  exact ⟨h1, h2, h3, h4, fun hp a => congrArg (fun m : AMap Byte => m.get 0 a) (s.endGroup_mem k hp)⟩

/-- In the middle of a clause, and at a boundary where it need not stop, a group may go on. -/
theorem exec_clauseStart {t : State} (h : (s.group k).word ≠ 0 ∨
      (∀ q, s.grids.find? (s.group k).grid = some q → q.cancelled = false) ∧ s.atLimit k = false)
    (ht : s.clauseStart k = some t) : exec (.clauseStart k) s = .next t := by
  have he : ¬((s.group k).word == 0 && s.gridEnded k) = true := by
    rcases h with h | ⟨h, -⟩
    · simp [h]
    · have : s.gridEnded k ≠ true := fun hx => by
        obtain ⟨q, hq, hc⟩ := (s.gridEnded_iff k).1 hx
        exact Bool.false_ne_true ((h q hq).symm.trans hc)
      simp [this]
  have hl : ¬((s.group k).word == 0 && s.atLimit k) = true := by rcases h with h | ⟨-, h⟩ <;> simp [h]
  show event "CLAUSE_START" (s.startOrStop k) = _
  unfold State.startOrStop
  dsimp only
  rw [if_neg (by simp [hm, hs, hw]), if_neg he, if_neg hl, ht]
  rfl

end

/-- The oldest late store fault of a quiet group outside trap mode comes before its clause (R285). -/
theorem State.clauseStart_lateStore {site : Site} {n : Nat} {ps : List Pending} (hs : (s.group k).started = false)
    (hw : (s.group k).wait = .none) (ht : (s.group k).trapMode = false) (h0 : (s.group k).word = 0)
    (hp : (s.group k).pending = .lateStore site n :: ps) (hq : (s.group k).quiet = true) :
    s.clauseStart k = some (s.deliverPending k (.lateStore site n)) := by
  have h : (if (s.group k).trapMode || (s.group k).word != 0 then none else (s.group k).pending.head?) =
      some (.lateStore site n) := by simp [ht, h0, hp]
  unfold State.clauseStart
  dsimp only
  rw [if_neg (by simp [hs, hw]), h]
  exact if_pos hq

end Sys2Proof.Machine
end

section
/-! SUPPORT. Walks and fills: what a group's reads at the home slices leave alone, and how a spoilt line stays so. -/

namespace Sys2Proof.Machine

variable {s t u : State}

/-! ### The service of a line -/

/-- t is s but for what the service of a line in a slice changes. -/
abbrev ServeOnly (s t : State) : Prop :=
  t = { s with l2 := t.l2, reuse := t.reuse, contexts := t.contexts, routers := t.routers }

theorem ServeOnly.trans (x : ServeOnly s t) (y : ServeOnly t u) : ServeOnly s u := by
  have e : ({ t with l2 := u.l2, reuse := u.reuse, contexts := u.contexts, routers := u.routers } : State) =
      { s with l2 := u.l2, reuse := u.reuse, contexts := u.contexts, routers := u.routers } := by rw [x]
  exact Eq.trans y e

theorem State.addBuckets_serveOnly (l : List ReuseReg) (s : State) :
    ServeOnly s (l.foldl (fun s r => s.addBucket r.ctx r.slot (min 31 (Nat.log2 (r.d + 1)))) s) := by
  induction l generalizing s with
  | nil => rfl
  | cons r l ih => exact ServeOnly.trans (t := s.addBucket r.ctx r.slot (min 31 (Nat.log2 (r.d + 1)))) rfl (ih _)

theorem State.reuseSeen_serveOnly (s : State) (line : Nat) : ServeOnly s (s.reuseSeen line) := by
  unfold State.reuseSeen
  exact ite_holds rfl ((State.addBuckets_serveOnly _ s).trans rfl)

theorem State.l2Serve_serveOnly (s : State) (line : Nat) : ServeOnly s (s.l2Serve line) := by
  unfold State.l2Serve
  refine ite_holds (s.reuseSeen_serveOnly line) ?_
  exact ite_holds ((s.reuseSeen_serveOnly line).trans rfl) ((s.reuseSeen_serveOnly line).trans rfl)

/-! ### Walks -/

/-- No sector of a line is pinned. -/
def State.Pinless (s : State) : Prop := ∀ line i, s.pinOwner line i = none

/-- What the reads of walks that end keep: memory, grids, the groups but for what they hold at slices, and that no sector is
pinned. -/
structure Reached (s t : State) : Prop where
  mem : t.mem = s.mem
  grids : t.grids = s.grids
  group : ∀ k, ∃ h, t.group k = { s.group k with walkHeld := h }
  pinless : s.Pinless → t.Pinless

namespace Reached

theorem of_kept (hm : t.mem = s.mem) (hg : t.grids = s.grids) (hk : t.groups = s.groups) (hp : t.pins = s.pins) :
    Reached s t where
  mem := hm
  grids := hg
  group k := ⟨(s.group k).walkHeld, State.group_congr hk k⟩
  pinless h line i := by
    unfold State.pinOwner
    rw [hp]
    exact h line i

theorem refl (s : State) : Reached s s := of_kept rfl rfl rfl rfl

theorem trans (x : Reached s t) (y : Reached t u) : Reached s u where
  mem := y.mem.trans x.mem
  grids := y.grids.trans x.grids
  group k := by
    obtain ⟨h, hx⟩ := x.group k
    obtain ⟨h', hy⟩ := y.group k
    exact ⟨h', by rw [hy, hx]⟩
  pinless h := y.pinless (x.pinless h)

theorem of_serve (x : ServeOnly s t) : Reached s t :=
  of_kept (by rw [x]) (by rw [x]) (by rw [x]) (by rw [x])

end Reached

/-- A group that holds no walk. -/
theorem State.reached_unheld (s : State) (k : Nat) : Reached s (s.setGroup k { s.group k with walkHeld := none }) where
  mem := rfl
  grids := rfl
  group j := by
    by_cases h : j = k
    · exact ⟨none, by rw [h, State.group_setGroup_self]⟩
    · exact ⟨(s.group j).walkHeld, State.group_setGroup_ne _ _ _ _ h⟩
  pinless h := h

/-- Which sectors are pinned does not depend on who is held. -/
theorem State.pinless_put {line : Nat} {p : Pin} (hp : s.pins.find? line = some p) (held : List (Nat × Nat))
    (ht : t.pins = (if p.owners.isEmpty && held.isEmpty && !p.recalling then s.pins.erase line
      else s.pins.put line { p with held := held })) (h : s.Pinless) : t.Pinless := by
  intro l i
  have hl := h l i
  unfold State.pinOwner at hl ⊢
  rw [ht]
  by_cases e : l = line
  · subst e
    rw [hp] at hl
    split_ifs
    · rw [AMap.find?_erase_self]
    · rw [AMap.find?_put_self]
      exact hl
  · split_ifs
    · rw [AMap.find?_erase_ne _ _ _ e]
      exact hl
    · rw [AMap.find?_put_ne _ _ _ _ e]
      exact hl

theorem State.dropHeld_reached (s : State) (line : Nat) (r : Nat × Nat) : Reached s (s.dropHeld line r) := by
  unfold State.dropHeld
  cases hp : s.pins.find? line with
  | none => exact .refl s
  | some p =>
    refine ite_holds (.refl s) ?_
    have unheld : Reached s (if r.2 = 0 then s.modGroup r.1 fun g => { g with walkHeld := none } else s) :=
      ite_holds (s.reached_unheld r.1) (.refl s)
    have pins : (if r.2 = 0 then s.modGroup r.1 fun g => { g with walkHeld := none } else s).pins = s.pins :=
      ite_holds (P := fun u : State => u.pins = s.pins) rfl rfl
    exact { unheld with pinless := State.pinless_put hp _ (by dsimp only; rw [pins]) }

theorem State.meetPins_reached {c : Nat} {r : Nat × Nat} {k n : Nat} (h : s.meetPins c r k n = .served t) : Reached s t := by
  unfold State.meetPins at h
  dsimp only at h
  split at h
  · cases h
    exact .refl s
  · split_ifs at h
    cases h
    exact s.dropHeld_reached _ r

theorem State.readReach_reached (as : List Nat) {c : Nat} {r : Nat × Nat} {n : Nat} (h : s.readReach c r n as = .served t) :
    Reached s t := by
  induction as generalizing s with
  | nil =>
    obtain rfl := Meet.served.inj h
    exact .refl _
  | cons a as ih =>
    unfold State.readReach at h
    split at h
    · next u hu =>
      split at h
      · cases h
      · exact ((State.meetPins_reached hu).trans
          (.of_serve (ServeOnly.trans (t := u.flit (pathTo c a)) rfl (State.l2Serve_serveOnly _ _)))).trans (ih h)
    · next m hm => exact absurd h (hm t)

theorem State.tryWalk_reached {k n : Nat} {reads : List Nat} (h : s.tryWalk k reads n = .served t) : Reached s t := by
  unfold State.tryWalk at h
  split at h
  · cases h
  · split at h
    · cases h
    · exact State.readReach_reached reads h

theorem State.fetchKey_reached {k va key : Nat} (h : s.fetchKey k va = (t, .ok key)) : Reached s t := by
  unfold State.fetchKey at h
  dsimp only at h
  split at h
  · obtain ⟨rfl, -⟩ := Prod.mk.inj h
    exact .refl _
  · split at h
    · next u hu =>
      split at h
      · obtain ⟨rfl, -⟩ := Prod.mk.inj h
        exact (State.tryWalk_reached hu).trans (.of_kept rfl rfl rfl rfl)
      · exact absurd (Prod.mk.inj h).2 nofun
      · exact absurd (Prod.mk.inj h).2 nofun
    all_goals exact absurd (Prod.mk.inj h).2 nofun

end Sys2Proof.Machine
end

section
/-! SUPPORT. A line that an error has spoilt stays spoilt through the end of a grid, where no sector is pinned (R368). -/

namespace Sys2Proof.Machine

variable {s t u : State}

/-- From s to t, where no sector is pinned, none becomes so, and no line's poison ends. -/
structure SpoiltStays (s t : State) : Prop where
  pinless : s.Pinless → t.Pinless
  poison : s.Pinless → ∀ line ∈ s.poison, line ∈ t.poison

namespace SpoiltStays

theorem of_kept (hp : t.pins = s.pins) (hx : t.poison = s.poison) : SpoiltStays s t where
  pinless h line i := by
    unfold State.pinOwner
    rw [hp]
    exact h line i
  poison _ line hl := by
    rw [hx]
    exact hl

theorem refl (s : State) : SpoiltStays s s := of_kept rfl rfl

theorem trans (x : SpoiltStays s t) (y : SpoiltStays t u) : SpoiltStays s u where
  pinless h := y.pinless (x.pinless h)
  poison h line hl := y.poison (x.pinless h) line (x.poison h line hl)

/-- A change that touches neither pins nor poison may come first. -/
theorem after (y : SpoiltStays t u) (hp : t.pins = s.pins) (hx : t.poison = s.poison) : SpoiltStays s u :=
  (of_kept hp hx).trans y

theorem ite {c : Prop} [Decidable c] (ht : SpoiltStays s t) (hu : SpoiltStays s u) : SpoiltStays s (if c then t else u) :=
  ite_holds ht hu

theorem foldl {α : Type} {f : State → α → State} (h : ∀ s x, SpoiltStays s (f s x)) (l : List α) (s : State) :
    SpoiltStays s (l.foldl f s) := by
  induction l generalizing s with
  | nil => exact refl s
  | cons x l ih => exact (h s x).trans (ih _)

theorem of_serve (x : ServeOnly s t) : SpoiltStays s t := of_kept (by rw [x]) (by rw [x])

end SpoiltStays

/-- With nothing pinned nothing is recalled. -/
theorem State.recallRange_of_pinless (h : s.Pinless) (k n : Nat) : s.recallRange k n = s := by
  unfold State.recallRange
  induction linesOf k n with
  | nil => rfl
  | cons line ls ih =>
    have : s.recallSectors line (sectorMask line k n) = s := by
      unfold State.recallSectors
      exact if_neg (by simp [h line])
    rw [List.foldl_cons, this]
    exact ih

theorem State.recallRange_spoiltStays (s : State) (k n : Nat) : SpoiltStays s (s.recallRange k n) where
  pinless h := by rw [State.recallRange_of_pinless h]; exact h
  poison h line hl := by rw [State.recallRange_of_pinless h]; exact hl

/-- A write of less than a line ends no poison. -/
theorem State.homeWrite_spoiltStays (s : State) (by_ : Option Nat) (k : Nat) {bs : List Byte} (h : bs.length < 192) :
    SpoiltStays s (s.homeWrite by_ k bs) := by
  have filter (u : State) : SpoiltStays u { u with
      poison := u.poison.filter fun line => !(k ≤ 192 * line && 192 * line + 192 ≤ k + bs.length) } :=
    ⟨fun h => h, fun _ line hl => List.mem_filter.2 ⟨hl, by simp; omega⟩⟩
  unfold State.homeWrite
  refine SpoiltStays.trans ((s.recallRange_spoiltStays k bs.length).trans ?_) (filter _)
  refine .after (.foldl (fun s line => ?_) _ _) rfl rfl
  cases by_ <;> exact (SpoiltStays.of_serve (s.l2Serve_serveOnly line)).trans (.of_kept rfl rfl)

theorem State.homeWord_spoiltStays (s : State) (k : Nat) (w : Word) : SpoiltStays s (s.homeWord k w) :=
  s.homeWrite_spoiltStays none k (by rw [Claim.length_leBytes]; omega)

/-- A record of fewer than 48 words ends no poison. -/
theorem State.pushRecord_spoiltStays (s : State) (ctx q desc : Nat) {ws : List Word} (h : ws.length < 48) :
    SpoiltStays s (s.pushRecord ctx q desc ws) := by
  have hl : (wordsBytes ws).length < 192 := by
    simp [wordsBytes, List.length_flatMap]
    omega
  unfold State.pushRecord
  refine SpoiltStays.trans ?_ (.ite (.refl _) (.of_kept rfl rfl))
  exact ((s.homeWrite_spoiltStays none _ hl).trans (State.homeWord_spoiltStays _ _ _)).trans (.of_kept rfl rfl)

/-- A fault record ends no poison. -/
theorem State.faultRecord_spoiltStays (s : State) (ctx : Nat) (r : FaultRecord) : SpoiltStays s (s.faultRecord ctx r) := by
  have push (ws : List Word) (h : ws.length < 48) : SpoiltStays s (s.pushFault ctx ws) :=
    .ite ((s.pushRecord_spoiltStays ctx 0 _ h).trans (.of_kept rfl rfl)) (s.pushRecord_spoiltStays ctx 0 _ h)
  have enqueue (ws : List Word) (h : ws.length < 48) : SpoiltStays s (s.enqueueFault ctx ws) :=
    .ite (push ws h) (.of_kept rfl rfl)
  exact (enqueue _ (by simp [FaultRecord.words, Site.words])).trans (.of_kept rfl rfl)

theorem State.pendingRecords_spoiltStays (s : State) (k : Nat) : SpoiltStays s (s.pendingRecords k) := by
  refine .foldl (fun s p => ?_) _ s
  cases p with
  | lateStore site n => exact s.faultRecord_spoiltStays _ _
  | engine site st => exact .refl s

theorem TeamsOnly.pins (x : TeamsOnly s t) : t.pins = s.pins := by rw [x]; rfl
theorem TeamsOnly.poison (x : TeamsOnly s t) : t.poison = s.poison := by rw [x]; rfl

theorem State.endGroup_spoiltStays (s : State) (k : Nat) : SpoiltStays s (s.endGroup k) := by
  have flushed : SpoiltStays s (s.flushPending k) := by
    rw [s.flushPending_eq k]
    exact (s.pendingRecords_spoiltStays k).trans (.of_kept rfl rfl)
  have halted := (s.flushPending k).haltGroup_teamsOnly k
  exact flushed.trans (.of_kept halted.pins halted.poison)

theorem State.endGrid_spoiltStays (s : State) (grid code va : Nat) : SpoiltStays s (s.endGrid grid code va) := by
  unfold State.endGrid
  split
  · exact .refl s
  · refine .ite (.refl s) (SpoiltStays.trans ?_ (State.faultRecord_spoiltStays _ _ _))
    exact .after (.foldl (fun s k => .ite (s.endGroup_spoiltStays k) (.refl s)) _ _) rfl rfl

/-! ### The end of a grid over an error -/

/-- The end of a group leaves the other groups alone. -/
theorem State.endGroup_group_ne (s : State) {k j : Nat} (h : j ≠ k) : (s.endGroup k).group j = s.group j := by
  have flushed : (s.flushPending k).group j = s.group j := by
    rw [s.flushPending_eq k, State.group_setGroup_ne _ _ _ _ h, (s.pendingRecords_memoryOnly k).group]
  unfold State.endGroup
  rw [State.group_congr ((s.flushPending k).haltGroup_teamsOnly k).groups, ← flushed]
  exact AMap.get_put_ne _ _ _ _ _ h

/-- A group that ends keeps the number of its grid. -/
theorem State.endGroup_grid (s : State) (k j : Nat) : ((s.endGroup k).group j).grid = (s.group j).grid := by
  by_cases h : j = k
  · subst h
    obtain ⟨-, -, -, -, -, -, -, hg, -⟩ := Group.halts_demoted { s.group j with pending := [] } ((s.flushPending j).cycle j)
    rw [s.endGroup_group j, hg]
  · rw [s.endGroup_group_ne h]

/-- The ends of some groups change no grid, and no group's number of its grid. -/
theorem State.endGroups_grids (ks : List Nat) (s : State) (j : Nat) :
    let t := ks.foldl (fun s k => if (s.group k).stopsAtOnce then s.endGroup k else s) s
    t.grids = s.grids ∧ (t.group j).grid = (s.group j).grid := by
  induction ks generalizing s with
  | nil => exact ⟨rfl, rfl⟩
  | cons k ks ih =>
    obtain ⟨h1, h2⟩ := ih (if (s.group k).stopsAtOnce then s.endGroup k else s)
    have h3 : (if (s.group k).stopsAtOnce then s.endGroup k else s).grids = s.grids :=
      ite_holds (P := fun u : State => u.grids = s.grids) (s.endGroup_grids k) rfl
    have h4 : ((if (s.group k).stopsAtOnce then s.endGroup k else s).group j).grid = (s.group j).grid :=
      ite_holds (P := fun u : State => (u.group j).grid = (s.group j).grid) (s.endGroup_grid k j) rfl
    exact ⟨h1.trans h3, h2.trans h4⟩

/-- A grid that is there has ended after its end (R289). -/
theorem State.endGrid_gridEnded (s : State) (k code va : Nat) (h : (s.grids.find? (s.group k).grid).isSome = true) :
    (s.endGrid (s.group k).grid code va).gridEnded k = true := by
  obtain ⟨q, hq⟩ := Option.isSome_iff_exists.1 h
  rw [State.gridEnded_iff]
  unfold State.endGrid
  rw [hq]
  dsimp only
  split
  · next hc => exact ⟨q, hq, hc⟩
  · rw [(State.faultRecord_memoryOnly _ _ _).grids, (State.faultRecord_memoryOnly _ _ _).group,
      (State.endGroups_grids _ _ k).1, (State.endGroups_grids _ _ k).2]
    exact ⟨_, AMap.find?_put_self _ _ _, rfl⟩

/-- Code on a spoilt line ends the grid, and the group that waits for it; the line stays spoilt where nothing is pinned
(R289, R368). -/
theorem State.codeError_ends (s : State) (k block line : Nat) :
    ((s.codeError k block line).group k).halted = true ∧
      ((s.grids.find? (s.group k).grid).isSome = true → (s.codeError k block line).gridEnded k = true) ∧
      (s.Pinless → line ∈ (s.codeError k block line).poison) := by
  have spoilt : line ∈ (s.spoil line).poison := by
    unfold State.spoil
    dsimp only
    split
    · next h => simpa using h
    · exact List.mem_cons_self
  unfold State.codeError
  refine ⟨?_, fun h => ?_, fun h => ?_⟩
  · rw [State.endGroup_group]
    exact (Group.halts_demoted _ _).1
  · obtain ⟨q, hq⟩ := (State.gridEnded_iff _ _).1 (State.endGrid_gridEnded (s.spoil line) k 0xE0 block h)
    rw [State.gridEnded_iff, State.endGroup_grids, State.endGroup_grid]
    exact ⟨q, hq⟩
  · exact ((State.endGrid_spoiltStays (s.spoil line) _ _ _).trans (State.endGroup_spoiltStays _ k)).poison h line spoilt

end Sys2Proof.Machine
end

section
/-! SETTLED: O43. The start of a clause, code that arrives, and the ends of the waits for releases and caches (R51, R83,
R165, R223, R229). -/

namespace Sys2Proof.Machine

variable {s u v : State} {k block key : Nat}

/-! ### Hints and blocks -/

/-- A cluster as it is after a change of it. -/
theorem State.cluster_modCluster (s : State) (c : Nat) (f : Cluster → Cluster) :
    (s.modCluster c f).cluster c = f (s.cluster c) := AMap.get_put_self _ _ _ _

/-- The cache takes a hint for a block that it does not hold, while it is not busy with another (R51, R83). -/
theorem State.askCode_eq (s : State) (k : Nat) (va : Int) :
    let c := s.cluster (clusterOf k)
    s.askCode k va =
      if 0 ≤ va ∧ va < 2 ^ 56 ∧ c.asked = none ∧
          (∀ b ∈ c.icache, b.ctx = (s.group k).ctx → b.va ≠ va.toNat / 64 * 64) then
        s.modCluster (clusterOf k) fun c => { c with asked := some ((s.group k).ctx, va.toNat / 64 * 64) }
      else s := by
  intro c
  have h : (va < 0 || 2 ^ 56 ≤ va || c.asked.isSome ||
      c.icache.any (fun b => b.ctx == (s.group k).ctx && b.va == va.toNat / 64 * 64)) = true ↔
      ¬(0 ≤ va ∧ va < 2 ^ 56 ∧ c.asked = none ∧
        ∀ b ∈ c.icache, b.ctx = (s.group k).ctx → b.va ≠ va.toNat / 64 * 64) := by
    cases c.asked <;> simp [or_iff_not_imp_left]
  unfold State.askCode
  dsimp only
  by_cases hc : 0 ≤ va ∧ va < 2 ^ 56 ∧ c.asked = none ∧
      ∀ b ∈ c.icache, b.ctx = (s.group k).ctx → b.va ≠ va.toNat / 64 * 64
  · rw [if_pos hc, if_neg (fun x => h.1 x hc)]
  · rw [if_neg hc, if_pos (h.2 hc)]

/-- The block that the cache takes is in it. -/
theorem State.mem_putBlock (s : State) (k block a : Nat) :
    ⟨(s.group k).ctx, block, a, s.bytes a 64⟩ ∈ ((s.putBlock k block a).cluster (clusterOf k)).icache := by
  unfold State.putBlock
  dsimp only
  rw [State.cluster_modCluster]
  exact List.mem_of_mem_take (i := 4096) (by simp)

section
variable (hk : s.fetchKey k block = (u, .ok key)) (hv : u.tryWalk k [key / 64 * 64] 64 = .served v)
include hk hv

/-- A block whose walks and reads end is taken, with the bytes that its home held before. -/
theorem State.fillBlock_taken (he : u.err ≠ .line) :
    ∃ t, s.fillBlock k block = .taken t ∧ t.mem = s.mem ∧ (∃ h, t.group k = { s.group k with walkHeld := h }) ∧
      ⟨(s.group k).ctx, block, key / 64 * 64, s.bytes (key / 64 * 64) 64⟩ ∈ (t.cluster (clusterOf k)).icache := by
  have hr : Reached s v := (State.fetchKey_reached hk).trans (State.tryWalk_reached hv)
  have hb : s.bytes (key / 64 * 64) 64 = v.bytes (key / 64 * 64) 64 := by
    unfold State.bytes State.byte
    rw [hr.mem]
  refine ⟨v.putBlock k block (key / 64 * 64), ?_, hr.mem, hr.group k, ?_⟩
  · unfold State.fillBlock
    dsimp only
    rw [hk]
    dsimp only
    rw [hv]
    exact if_neg he
  · obtain ⟨h, hg⟩ := hr.group k
    have := v.mem_putBlock k block (key / 64 * 64)
    rw [hg, ← hb] at this
    exact this

/-- A block on a line that an error has spoilt is not taken. -/
theorem State.fillBlock_spoilt (he : u.err = .line) : s.fillBlock k block = .spoilt u (lineOf (key / 64 * 64)) := by
  unfold State.fillBlock
  dsimp only
  rw [hk]
  dsimp only
  rw [hv]
  exact if_pos he

end

/-! ### The fill of a frozen group, and that of a hint -/

/-- What the fill of a frozen group comes to is the step. -/
theorem exec_fill_of_fetch (h : (s.group k).wait = .fetch block) {t : State} (ht : s.fillCode k block = some t) :
    exec (.instructionCacheFill k) s = .next t := by
  show event "INSTRUCTION_CACHE_FILL" _ = _
  rw [h]
  dsimp only
  rw [ht]
  rfl

/-- What the fill for a hint comes to is the step, where no group is frozen. -/
theorem exec_fill_of_asked (h : ∀ b, (s.group k).wait ≠ .fetch b)
    (ha : (s.cluster (clusterOf k)).asked = some ((s.group k).ctx, block)) {t : State} (ht : s.fillAsked k block = some t) :
    exec (.instructionCacheFill k) s = .next t := by
  show event "INSTRUCTION_CACHE_FILL" _ = _
  split
  · next b hb => exact absurd hb (h b)
  · rw [ha]
    dsimp only
    rw [if_neg (by simp), ht]
    rfl

/-- A block for a frozen group arrives, and it goes on (R165). -/
theorem fill_frozen (h : (s.group k).wait = .fetch block) (hk : s.fetchKey k block = (u, .ok key))
    (hv : u.tryWalk k [key / 64 * 64] 64 = .served v) (he : u.err ≠ .line) :
    ∃ t, exec (.instructionCacheFill k) s = .next t ∧ (∀ a, t.byte a = s.byte a) ∧
      (∃ h, t.group k = { s.group k with wait := .none, walkHeld := h }) ∧
      ⟨(s.group k).ctx, block, key / 64 * 64, s.bytes (key / 64 * 64) 64⟩ ∈ (t.cluster (clusterOf k)).icache := by
  obtain ⟨t, ht, hm, ⟨w, hg⟩, hc⟩ := State.fillBlock_taken hk hv he
  have hf : s.fillCode k block = some (t.setGroup k { t.group k with wait := .none }) := by
    unfold State.fillCode
    rw [ht]
    rfl
  refine ⟨_, exec_fill_of_fetch h hf, fun a => congrArg (fun m : AMap Byte => m.get 0 a) hm, ⟨w, ?_⟩, hc⟩
  rw [State.group_setGroup_self, hg]

/-- Of code that an error has spoilt the grid is ended (R368). -/
theorem fill_spoilt (h : (s.group k).wait = .fetch block) (hk : s.fetchKey k block = (u, .ok key))
    (hv : u.tryWalk k [key / 64 * 64] 64 = .served v) (he : u.err = .line)
    (hq : (s.grids.find? (s.group k).grid).isSome = true) :
    ∃ t, exec (.instructionCacheFill k) s = .next t ∧ (t.group k).halted = true ∧ t.gridEnded k = true ∧
      ((∀ line i, s.pinOwner line i = none) → lineOf (key / 64 * 64) ∈ t.poison) := by
  have hr := State.fetchKey_reached hk
  obtain ⟨w, hg⟩ := hr.group k
  have hf : s.fillCode k block = some (u.codeError k block (lineOf (key / 64 * 64))) := by
    unfold State.fillCode
    rw [State.fillBlock_spoilt hk hv he]
  obtain ⟨h1, h2, h3⟩ := u.codeError_ends k block (lineOf (key / 64 * 64))
  exact ⟨_, exec_fill_of_fetch h hf, h1, h2 (by rw [hr.grids, hg]; exact hq), fun hp => h3 (hr.pinless hp)⟩

/-- The block that a hint asked for comes, unless an error has spoilt it (R51, R368). -/
theorem fill_asked (h : ∀ b, (s.group k).wait ≠ .fetch b)
    (ha : (s.cluster (clusterOf k)).asked = some ((s.group k).ctx, block)) (hk : s.fetchKey k block = (u, .ok key))
    (hv : u.tryWalk k [key / 64 * 64] 64 = .served v) :
    ∃ t, exec (.instructionCacheFill k) s = .next t ∧ (∀ a, t.byte a = s.byte a) ∧
      (∃ h, t.group k = { s.group k with walkHeld := h }) ∧ (t.cluster (clusterOf k)).asked = none ∧
      (u.err ≠ .line →
        ⟨(s.group k).ctx, block, key / 64 * 64, s.bytes (key / 64 * 64) 64⟩ ∈ (t.cluster (clusterOf k)).icache) := by
  by_cases he : u.err = .line
  · have hr := State.fetchKey_reached hk
    have hf : s.fillAsked k block = some (u.modCluster (clusterOf k) fun c => { c with asked := none }) := by
      unfold State.fillAsked
      rw [State.fillBlock_spoilt hk hv he]
    refine ⟨_, exec_fill_of_asked h ha hf, fun a => congrArg (fun m : AMap Byte => m.get 0 a) hr.mem, hr.group k, ?_,
      fun hn => absurd he hn⟩
    rw [State.cluster_modCluster]
  · obtain ⟨t, ht, hm, hg, hc⟩ := State.fillBlock_taken hk hv he
    have hf : s.fillAsked k block = some (t.modCluster (clusterOf k) fun c => { c with asked := none }) := by
      unfold State.fillAsked
      rw [ht]
    refine ⟨_, exec_fill_of_asked h ha hf, fun a => congrArg (fun m : AMap Byte => m.get 0 a) hm, hg, ?_, fun _ => ?_⟩
    · rw [State.cluster_modCluster]
    · rw [State.cluster_modCluster]
      exact hc

/-! ### Releases and ICINV -/

/-- A release whose conditions hold ends (R223). -/
theorem releaseComplete_done {scope : BitVec 3} (h : (s.group k).wait = .release scope) (hd : s.drained k s.fresh = true) :
    ∃ t, exec (.releaseComplete k) s = .next t ∧ t.group k = (s.group k).wakes (s.cycle k) ∧
      t = { s.releaseL1 (coreOf k) scope with groups := t.groups } := by
  refine ⟨(s.releaseL1 (coreOf k) scope).modGroup k fun x => x.wakes (s.cycle k), ?_, ?_, rfl⟩
  · show event "RELEASE_COMPLETE" _ = _
    rw [h]
    dsimp only
    rw [if_pos hd]
    rfl
  · rw [State.modGroup_eq, State.group_setGroup_self, (s.releaseL1_memoryOnly _ _).group]

/-- Reading a map whose values have been changed, where the default stays. -/
theorem AMap.get_mapVals {α : Type} (d : α) (m : AMap α) (f : Nat → α → α) (n : Nat) (h : f n d = d) :
    (m.mapVals f).get d n = f n (m.get d n) := by
  induction m with
  | nil => exact h.symm
  | cons p m ih =>
    by_cases e : p.1 = n
    · subst e
      simp [AMap.mapVals, AMap.get]
    · simpa [AMap.mapVals, AMap.get, e] using ih

/-- Cluster n once the ICINV of group k at a scope has been done: where it is named, without the blocks of the group's
context that meet [lo, hi) (R229). -/
def State.invalidated (s : State) (k lo hi : Nat) (scope : BitVec 3) (n : Nat) (c : Cluster) : Cluster :=
  if icinvNames scope (clusterOf k) n ((s.context (s.group k).ctx).hasCluster n) then
    { c with icache := c.icache.filter fun b => !(b.ctx == (s.group k).ctx && lo < hi && b.va < hi && lo < b.va + 64) }
  else c

/-- ICINV ends: each cache that it names has dropped the blocks (R229). -/
theorem icinvComplete_done {lo hi : Nat} {scope : BitVec 3} (h : (s.group k).wait = .icinv lo hi scope) :
    ∃ t, exec (.icinvComplete k) s = .next t ∧ t.group k = { s.group k with wait := .none } ∧
      t = { s with groups := t.groups, clusters := t.clusters } ∧
      ∀ n, t.cluster n = s.invalidated k lo hi scope n (s.cluster n) := by
  refine ⟨({ s with clusters := s.clusters.mapVals (s.invalidated k lo hi scope) }).setGroup k
    { s.group k with wait := .none }, ?_, State.group_setGroup_self _ _ _, rfl, fun n => ?_⟩
  · show event "ICINV_COMPLETE" _ = _
    rw [h]
    rfl
  · refine AMap.get_mapVals {} s.clusters (s.invalidated k lo hi scope) n ?_
    unfold State.invalidated
    exact ite_holds (P := fun c : Cluster => c = {}) rfl rfl

end Sys2Proof.Machine

namespace Sys2Proof.Claim

open Machine

/-- Settles O43: the start of a clause by what its group has at hand, the fill of a block by the walks and reads that it
makes, the ends of the waits by their equations. -/
theorem clausesAndWaits : Obligations.ClausesAndWaits := by
  unfold Obligations.ClausesAndWaits
  refine ⟨?_, ?_, ?_, ?_, ?_⟩
  · intro s k c hm hs hw g asked
    refine ⟨fun he h0 => clauseStart_ended hm hs hw h0 he, fun hgo => ?_⟩
    have goes {t : State} (ht : s.clauseStart k = some t) : exec (.clauseStart k) s = .next t :=
      exec_clauseStart hm hs hw hgo ht
    refine ⟨fun site n ps ht h0 hp hq => ⟨_, goes (State.clauseStart_lateStore hs hw ht h0 hp hq),
      State.deliverPending_lateStore hp ht⟩, fun hp hhere => ?_⟩
    have hbd : g.AtBoundary := ⟨hs, hw, hp⟩
    obtain ⟨t, hf, hb⟩ := State.clauseStart_of_here hbd hhere
    refine ⟨fun hok hr hcnt => ?_, fun hbad ht hq => ?_⟩
    · have hmet : g.waitMet c.header = true := by simpa [Group.waitMet, or_iff_not_imp_left] using hcnt
      obtain ⟨u, buf, hu, hgu, heq⟩ := State.beginClause_fetched hf ⟨hok, hr⟩ hmet
      exact ⟨fun hc => goes (State.clauseStart_held hbd ⟨hok, hr⟩ hmet hc),
        fun hn hbuf => goes (State.clauseStart_buffered hbd ⟨hok, hr⟩ hmet hn hbuf), u, buf, goes (hb u hu), hgu, heq⟩
    · obtain ⟨u, hu, hall⟩ := State.beginClause_faulted hf (Group.not_mayBegin g c hbad) hq ht
      exact ⟨u, goes (hb u hu), hall⟩
  · intro s k block h g u v key hk hv
    exact ⟨fill_frozen h hk hv, fill_spoilt h hk hv⟩
  · intro s k h g c
    exact ⟨s.askCode_eq k, fun block key u v ha hk hv => fill_asked h ha hk hv⟩
  · intro s k scope h hd
    exact releaseComplete_done h hd
  · intro s k lo hi scope h
    obtain ⟨t, ht, hg, he, hc⟩ := icinvComplete_done h
    refine ⟨t, ht, hg, he, fun n => ?_⟩
    rw [hc n]
    unfold State.invalidated
    split <;> exact ⟨rfl, rfl⟩

end Sys2Proof.Claim
end

section
/-! SETTLED: O59. The round trip of the encoding (R55 to R57, R60, R62, R63): the round trips of the instructions, one for each
constructor, put together; a step of another agent has no encoding. -/

namespace Sys2Proof.Laws

open RoundTrip in
/-- The round trip of every instruction. -/
theorem roundTrip (i : Instr) : RoundTrip.Statement i := by
  cases i with
  | sadd => apply sadd | ssub => apply ssub | smul => apply smul | smulhi => apply smulhi | smulhn => apply smulhn
  | sdiv => apply sdiv | sdivn => apply sdivn | srem => apply srem | smin => apply smin | smax => apply smax
  | sminn => apply sminn | smaxn => apply smaxn | saddc => apply saddc | ssubb => apply ssubb | sand => apply sand
  | sor => apply sor | sxor => apply sxor | sandn => apply sandn | sshl => apply sshl | sshr => apply sshr
  | ssra => apply ssra | srot => apply srot | sclz => apply sclz | spopc => apply spopc | sbrev => apply sbrev
  | sext => apply sext | scmp => apply scmp | ssel => apply ssel | smov => apply smov | saddImm => apply saddImm
  | sandImm => apply sandImm | sshlImm => apply sshlImm | sshrImm => apply sshrImm | ssraImm => apply ssraImm
  | srotImm => apply srotImm | slit => apply slit | saddLit => apply saddLit | sandLit => apply sandLit
  | sorLit => apply sorLit | sxorLit => apply sxorLit | smulLit => apply smulLit | sld => apply sld | sst => apply sst
  | btset => apply btset | btget => apply btget | srd => apply srd | swr => apply swr | mand => apply mand
  | mor => apply mor | mxor => apply mxor | mandn => apply mandn | mnot => apply mnot | mpopc => apply mpopc
  | mfirst => apply mfirst | msetx => apply msetx | mgetx => apply mgetx | mtest => apply mtest | br => apply br
  | jmp => apply jmp | call => apply call | ret => apply ret | jmpi => apply jmpi | loop => apply loop | nop => apply nop
  | halt => apply halt | yield => apply yield | ipref => apply ipref | bara => apply bara | barw => apply barw
  | baraw => apply baraw | vadd => apply vadd | vsub => apply vsub | vmul => apply vmul | vmulhi => apply vmulhi
  | vmulhn => apply vmulhn | vmin => apply vmin | vmax => apply vmax | vminn => apply vminn | vmaxn => apply vmaxn
  | vadds => apply vadds | vsubs => apply vsubs | vabs => apply vabs | vand => apply vand | vor => apply vor
  | vxor => apply vxor | vandn => apply vandn | vshl => apply vshl | vshr => apply vshr | vsra => apply vsra
  | vclz => apply vclz | vpopc => apply vpopc | vmad => apply vmad | vsel => apply vsel | vcmp => apply vcmp
  | vmov => apply vmov | vidx => apply vidx | vbcast => apply vbcast | fadd => apply fadd | fsub => apply fsub
  | fmul => apply fmul | fmin => apply fmin | fmax => apply fmax | fscale => apply fscale | fclass => apply fclass
  | ffma => apply ffma | fcmp => apply fcmp | frnd => apply frnd | faddRm => apply faddRm | fsubRm => apply fsubRm
  | fmulRm => apply fmulRm | hadd2Bf16 => apply hadd2Bf16 | hadd2F16 => apply hadd2F16 | hmul2Bf16 => apply hmul2Bf16
  | hmul2F16 => apply hmul2F16 | hfma2 => apply hfma2 | hadd2 => apply hadd2 | hmul2 => apply hmul2 | frcp => apply frcp
  | frsq => apply frsq | fsqrt => apply fsqrt | fdiv => apply fdiv | fexp2 => apply fexp2 | flog2 => apply flog2
  | fsin => apply fsin | fcos => apply fcos | cvt => apply cvt | cvtsr => apply cvtsr | pack2 => apply pack2
  | unpack2 => apply unpack2 | pack4 => apply pack4 | unpack4 => apply unpack4 | tagrd => apply tagrd | tagwr => apply tagwr
  | vrng => apply vrng | zip2 => apply zip2 | zip3 => apply zip3 | zip4 => apply zip4 | unzip2 => apply unzip2
  | unzip3 => apply unzip3 | unzip4 => apply unzip4 | lshuf => apply lshuf | lrot => apply lrot | lread => apply lread
  | lwrite => apply lwrite | faddx => apply faddx | fsubx => apply fsubx | fmulx => apply fmulx | dwadd => apply dwadd
  | dwadds => apply dwadds | dwmul => apply dwmul | dwmuls => apply dwmuls | dwdiv => apply dwdiv | dwsqrt => apply dwsqrt
  | dwnorm => apply dwnorm | dwcvt => apply dwcvt | dwcmp => apply dwcmp | creduce => apply creduce
  | credseg => apply credseg | qswapx => apply qswapx | qswapy => apply qswapy | qswapd => apply qswapd
  | qbcast => apply qbcast | greduce => apply greduce | gscan => apply gscan | gsegred => apply gsegred
  | gmatch => apply gmatch | vld => apply vld | vld2w => apply vld2w | vst => apply vst | vst2w => apply vst2w
  | vlds => apply vlds | vlds2w => apply vlds2w | vsts => apply vsts | vsts2w => apply vsts2w | pref => apply pref
  | pref2w => apply pref2w | vldp => apply vldp | vldp2w => apply vldp2w | vstp => apply vstp | vstp2w => apply vstp2w
  | vldi => apply vldi | vldi2w => apply vldi2w | vsti => apply vsti | vsti2w => apply vsti2w | spld => apply spld
  | spld2w => apply spld2w | spst => apply spst | spst2w => apply spst2w | spldx => apply spldx | spldx2w => apply spldx2w
  | spstx => apply spstx | spstx2w => apply spstx2w | atom => apply atom | red => apply red | spatom => apply spatom
  | satom => apply satom | fence => apply fence | icinv => apply icinv | ifence => apply ifence | msend => apply msend
  | mrecv => apply mrecv | wakew => apply wakew | waitw => apply waitw | cpy => apply cpy | ewait => apply ewait
  | epoll => apply epoll | mma => apply mma | mmas => apply mmas | mmag => apply mmag | mbatch => apply mbatch
  | mwait => apply mwait | gath => apply gath | scat => apply scat | scbegin => apply scbegin | scprobe => apply scprobe
  | scsave => apply scsave | nredx => apply nredx | promote => apply promote | trap => apply trap | bkpt => apply bkpt
  | rte => apply rte | rteEnd => apply rteEnd | tsave => apply tsave | tload => apply tload | ctxsave => apply ctxsave
  | ctxload => apply ctxload | progress => apply progress | undefinedInstruction => apply undefinedInstruction
  | reservedMajor => apply reservedMajor
  | clauseStart | instructionCacheFill | loadReturn | storeAccepted | atomicReturn | resultWrite | releaseComplete
  | icinvComplete | promotionStart | promotionSwitchDone | demotionSwitchDone | barrierLaggardQualify | barrierPhaseComplete
  | barrierWake | groupRegistersReturn | teamEnd | cbitmapSet | dispatcherTailRead | launchRecordTake | teamPlacement
  | consumerRelease | pinGrant | accessRetryResend | recallComplete | l1LineFill | l2LineFill | pageWalkComplete
  | faultRecordAnswer | invalidateRange | invalidateRangeDone | compact | compactDone | translationRequestFail
  | commandIssueResume | sourceReadDone | copyEngineTake | cpyComplete | enginePageFault | engineFailure | matrixEngineTake
  | matrixCommandComplete | gatherScatterComplete | scsaveStart | scsaveComplete | scprobeComplete | partialMerge
  | roundResultSend | nredxComplete | messageDelivery | wakeDelivery | waitwTimeout | routerPowerDown | routerWake
  | faultRecordRelease | eventRecordRelease | forcedSave | preemptStatusWrite | teamRestore | tiadeRead | tiadeWrite
  | tiadeAtomic | tiadeFrameDrop | createContext | destroyContext | setStep | preemptContext | resumeContext
  | registerWindow | removeWindow | registerLaunchQueueTable | harvestRecord | rosterRecord | getVersion | getCapabilities
  | negotiateAlgorithms | getMeasurements | vendorHarvestRequest | vendorRosterRequest | spdmUnsupportedRequest
  | linkAuthentication | linkAuthRetry | peerAccess | peerAck | linkFailure | peerPathTimeout | sample | trialDelayExpire
  | chunkCommit | powerLimit | coreClock | routerPowerDownControl | hostPortControl | peerPortsControl | samplingControl
  | reuseHistogramControl | causalTrialControl | replayControl | expertBlockWrite | controlApply | bootRecordClear
  | moduleReset | coreFailure | clockStepDown | coolantFlowLost | coolantFlowRestored | flitCrcError => exact no_words rfl

/-- Settles O59, from the round trip of each instruction. -/
theorem encodeDecode : Obligations.EncodeDecode := by
  unfold Obligations.EncodeDecode
  exact roundTrip

end Sys2Proof.Laws
end

section
/-! SETTLED: O57. Words that the spec writes out (R55, R59, R62 to R64): the decoder evaluates on each. -/

namespace Sys2Proof.Laws

/-- Settles O57, by evaluating the decoder on the words of each format in turn. -/
theorem decodeWords : Obligations.DecodeWords := by
  unfold Obligations.DecodeWords
  refine ⟨?scalar, ?control, ?vector, ?memory, ?engine, ?reserved, ?undefined⟩ <;> decide

end Sys2Proof.Laws
end

section
/-! SETTLED: O8. The decode faults that depend on the state (R66): `Group.decodeTrap` answers the first of its conditions that
holds; an instruction that meets none and may not issue yet leaves the state alone. -/

namespace Sys2Proof.Claim

open Machine

/-- A search for what some member of a list meets finds one. -/
theorem find?_of_exists {α : Type} {l : List α} {p : α → Bool} (h : ∃ x ∈ l, p x = true) : ∃ x, l.find? p = some x :=
  Option.isSome_iff_exists.1 (List.find?_isSome.2 h)

section
variable {g : Group} {i : Instr} {n : Info}

/-- A vector register at or above the declared count (R10). -/
theorem decodeTrap_of_high (h : (n.vr ++ n.vw).any (fun r => g.n ≤ r) = true) :
    g.decodeTrap i n = some ⟨0x01, i.word.toNat, g.xm, 0⟩ := if_pos h

variable (high : (n.vr ++ n.vw).any (fun r => g.n ≤ r) = false) (hb : n.barred = false)
include high hb

/-- A pair field that is odd or reaches s61 (R20). -/
theorem decodeTrap_of_odd (h : ∃ p ∈ n.pairs, p.bad = true) : ∃ v, g.decodeTrap i n = some ⟨0x08, v, g.xm, 0⟩ := by
  obtain ⟨p, hp⟩ := find?_of_exists h
  exact ⟨_, by simp only [Group.decodeTrap, high, hb, hp]; rfl⟩

variable (odd : n.pairs.find? PairField.bad = none)
include odd

/-- Under GCTL.FMT a source with another tag than the expected one (R19). -/
theorem decodeTrap_of_tag (hf : g.fmt = true) (h : ∃ p ∈ n.tags, (!tagMatches (g.tagOf p.1) p.2) = true) :
    ∃ v, g.decodeTrap i n = some ⟨0x06, v, g.xm, 0⟩ := by
  obtain ⟨p, hp⟩ := find?_of_exists h
  exact ⟨_, by simp only [Group.decodeTrap, high, hb, odd, hf, hp]; rfl⟩

variable (tag : (if g.fmt then n.tags.find? fun p => !tagMatches (g.tagOf p.1) p.2 else none) = none)
include tag

/-- A register that a look window covers (R58). -/
theorem decodeTrap_of_covered (h : ∃ r ∈ n.regs, (g.looks.any fun w => w.regs.contains r) = true) :
    ∃ v, g.decodeTrap i n = some ⟨0x05, v, g.xm, 0⟩ := by
  obtain ⟨r, hr⟩ := find?_of_exists h
  exact ⟨_, by simp only [Group.decodeTrap, high, hb, odd, tag, hr]; rfl⟩

theorem decodeTrap_eq_none (h : n.regs.find? (fun r => g.looks.any fun w => w.regs.contains r) = none) :
    g.decodeTrap i n = none := by
  simp only [Group.decodeTrap, high, hb, odd, tag, h]
  rfl

end

/-- Settles O8, by the first condition of `Group.decodeTrap` that holds. -/
theorem decodeFaultOrder : Obligations.DecodeFaultOrder := by
  unfold Obligations.DecodeFaultOrder
  intro i n body s hw high odd tag covered
  have takes {c : Nat} (h : ∃ v, s.g.decodeTrap i n = some ⟨c, v, s.g.xm, 0⟩) :
      ∃ v, perform i n body s = .next (s.raise ⟨c, v, s.g.xm, 0⟩) := h.imp fun _ => perform_decode hw
  have low (h : ¬high) : (n.vr ++ n.vw).any (fun r => s.g.n ≤ r) = false := by
    simpa [high, or_imp, forall_and] using h
  have even (h : ¬odd) : n.pairs.find? PairField.bad = none := by simpa [odd] using h
  have typed (h : ¬tag) : (if s.g.fmt then n.tags.find? fun p => !tagMatches (s.g.tagOf p.1) p.2 else none) = none := by
    simpa [tag] using h
  have free (h : ¬covered) : n.regs.find? (fun r => s.g.looks.any fun w => w.regs.contains r) = none := by
    simpa [covered] using h
  refine ⟨fun h => ?_, fun h hb => ?_, fun h hb ho => ?_, fun h hb ho ht => ?_, fun h hb ho ht hc => ?_,
    fun h hb ho ht hc hr => ?_⟩
  · exact perform_decode hw (decodeTrap_of_high (by simpa [high, or_and_right, exists_or] using h))
  · exact perform_barred hw hb (by simpa [high] using h)
  · exact takes (decodeTrap_of_odd (low h) hb ho)
  · exact takes (decodeTrap_of_tag (low h) hb (even ho) ht.1 (by simpa [tag] using ht.2))
  · exact takes (decodeTrap_of_covered (low h) hb (even ho) (typed ht) (by simpa [covered] using hc))
  · exact perform_stall (decodeTrap_eq_none (low h) hb (even ho) (typed ht) (free hc)) hr

end Sys2Proof.Claim
end

section
/-! SETTLED: O14. The long-latency FP32 instructions (R58, R89, R98, R99): those of one operand share the meaning `longFp1`;
`vecLate` says of that and of FDIV how the result starts on its way. -/

namespace Sys2Proof.Claim

open Machine

/-- A long-latency instruction of one operand has issued: each active lane is to take what f gives of it (R98). -/
theorem lateLanes_longFp1 {i : Instr} {d a : BitVec 7} {look : BitVec 4} {f : Group → Word → Word × Flags}
    (hi : ∀ s, exec i s = longFp1 i d a look f s) :
    LateLanes i { vr := [a.toNat], vw := [d.toNat], tags := [(.v a.toNat, 3)], look := some look.toNat } d 3
      (fun g l =>
        let x := g.vsrc a.toNat 3 l
        let r := ftzOut g.ftz (f g (ftzIn g.ftz x.1))
        (r.1, x.2 ||| r.2)) (fun _ => 0) (some (24, 1)) :=
  lateLanes_of hi

/-- Settles O14, each instruction by the lemma of its shape. -/
theorem longLatencyFp : Obligations.LongLatencyFp := by
  unfold Obligations.LongLatencyFp
  refine ⟨?frcp, ?frsq, ?fexp2, ?flog2, ?fsin, ?fcos, ?fsqrt, ?fdiv⟩
  case fsqrt =>
    exact fun rm d a look =>
      lateLanes_longFp1 (f := fun g x => toWord (Fmt.fp32.sqrt (RMode.ofField g.rm rm) (f32 x))) fun _ => rfl
  case fdiv => exact fun d a b rm look => lateLanes_of fun _ => rfl
  all_goals exact fun d a look => lateLanes_longFp1 fun _ => rfl

end Sys2Proof.Claim
end

section
/-! SETTLED: O5. Transfers (R60, R61, R83): an instruction whose effect lies in its group and that may transfer either completes,
with the frame, or takes the fault of its target; BR by its condition, IPREF by what the cluster's cache takes. -/

namespace Sys2Proof.Machine

/-! ### The hints that the cluster's cache takes -/

theorem State.askCode_g (s : State) (k : Nat) (va : Int) : (s.askCode k va).g = s.g :=
  ite_holds (P := fun t : State => t.g = s.g) rfl rfl

theorem State.askCode_byte (s : State) (k : Nat) (va : Int) (a : Nat) : (s.askCode k va).byte a = s.byte a :=
  ite_holds (P := fun t : State => t.byte a = s.byte a) rfl rfl

/-- A hint for a block that the cache does not hold is taken while the cache is not busy (R83). -/
theorem State.askCode_taken {s : State} {k : Nat} {va : Int} (hv : Claim.inSpace va) (ha : (s.cluster (clusterOf k)).asked = none)
    (hi : ∀ b ∈ (s.cluster (clusterOf k)).icache, ¬(b.ctx = (s.group k).ctx ∧ b.va = va.toNat / 64 * 64)) :
    s.askCode k va =
      s.modCluster (clusterOf k) fun c => { c with asked := some ((s.group k).ctx, va.toNat / 64 * 64) } :=
  (s.askCode_eq k va).trans (if_pos ⟨hv.1, hv.2, ha, fun b hb hc hx => hi b hb ⟨hc, hx⟩⟩)

/-- A hint for no address is dropped. -/
theorem State.askCode_dropped {s : State} {k : Nat} {va : Int} (hv : ¬Claim.inSpace va) : s.askCode k va = s :=
  (s.askCode_eq k va).trans (if_neg fun h => hv ⟨h.1, h.2.1⟩)

end Sys2Proof.Machine

namespace Sys2Proof.Claim

open Machine

/-! ### Where a transfer goes -/

/-- A target in the address space is where control goes. -/
theorem transfer_inSpace (g : Group) {a : Int} (h : inSpace a) : transfer g a = .ok (.jump (addr a)) := by
  obtain ⟨h0, h1⟩ := h
  exact if_neg (by simpa [h0] using h1)

/-- A target outside the address space is a protection fault. -/
theorem transfer_outside (g : Group) {a : Int} (h : ¬inSpace a) : ∃ f : Trap, f.cause = 0x0A ∧ transfer g a = .error f :=
  ⟨_, rfl, if_pos (by simpa [inSpace, or_iff_not_imp_left] using h)⟩

section
variable {i : Instr} {n : Info} {s : State} {body : Group → Except Trap Eff} {g : Group} {sw vw : List Nat} (h : Issues i n s)
include h

/-- An instruction that changes registers of its group and says where control goes: it completes, with the frame. -/
theorem performG_ran {f : Flow} {P : State → Prop} (hb : body s.g = .ok { g := g, flow := f })
    (hr : RegsOnly s.g g sw vw) (hg : g.gstat = s.g.gstat)
    (k : ∀ t, Ran i f s t sw vw 0 [] → (∀ r, t.g.sreg r = g.sreg r) → P t) :
    ∃ t, performG i n body s = .next t ∧ P t := by
  obtain ⟨h1, h2, h3, _, h5⟩ := ran_of_eff (i := i) (n := n) (s := s) (e := { g := g, flow := f }) (f := f) (fl := 0)
    (cnt := []) hr (by simp [hg]) rfl rfl
  exact ⟨_, performG_next h hb, k _ h1 fun r => Group.sreg_congr h2 h3 h5 r⟩

/-- An instruction that changes nothing of its group but its place. -/
theorem performG_goes {f : Flow} (hb : body s.g = .ok { g := s.g, flow := f }) :
    ∃ t, performG i n body s = .next t ∧ Ran i f s t [] [] 0 [] :=
  performG_ran h hb (RegsOnly.refl _ [] []) rfl fun _ hran _ => hran

/-- An instruction whose effect is a fault. -/
theorem performG_faults {c : Nat} (hb : ∃ f : Trap, f.cause = c ∧ body s.g = .error f) :
    ∃ f : Trap, f.cause = c ∧ performG i n body s = .next (s.raise f) :=
  hb.imp fun _ ⟨hf, he⟩ => ⟨hf, performG_trap h he⟩

variable {a : Int}

/-- A transfer that changes no register. -/
theorem performG_jumps (hb : body s.g = flowEff s.g (transfer s.g a)) (ha : inSpace a) :
    ∃ t, performG i n body s = .next t ∧ Ran i (.jump (addr a)) s t [] [] 0 [] :=
  performG_goes h (by rw [hb, transfer_inSpace _ ha]; rfl)

/-- A transfer to a target outside the address space is not made. -/
theorem performG_outside (hb : body s.g = flowEff g (transfer s.g a)) (ha : ¬inSpace a) :
    ∃ f : Trap, f.cause = 0x0A ∧ performG i n body s = .next (s.raise f) := by
  obtain ⟨f, hf, ht⟩ := transfer_outside s.g ha
  exact performG_faults h ⟨f, hf, by rw [hb, ht]; rfl⟩

end

/-! ### BR -/

/-- A condition of BR is one on a scalar or one on a triple (R60). -/
theorem brOk_bounds {cond : BitVec 4} {sc : BitVec 6} (h : brOk cond sc = true) :
    cond.toNat ≤ 6 ∨ 8 ≤ cond.toNat ∧ cond.toNat ≤ 11 := by
  by_cases h0 : cond.toNat = 0
  · exact .inl (by omega)
  · simp [brOk, h0] at h
    tauto

/-- Whether BR transfers: conditions 8 and above are on a triple and xm, the others on a scalar (R60). -/
def brTakes (cond : BitVec 4) (v : Word) (m x : LaneMask) : Bool :=
  if 8 ≤ cond.toNat then condMask cond m x else condScalar cond v

theorem brTakes_iff {cond : BitVec 4} {sc : BitVec 6} (h : brOk cond sc = true) (v : Word) (m x : LaneMask) :
    brTakes cond v m x = true ↔ branchTaken cond v m x := by
  have hc := brOk_bounds h
  unfold brTakes condMask condScalar branchTaken
  generalize cond.toNat = c at hc
  have : c ≤ 11 := by omega
  interval_cases c <;> simp [BitVec.slt, BitVec.sle] at hc ⊢

/-- The assertion of uniformity of BR fails (R61). -/
abbrev diverges (u : BitVec 1) (cond : BitVec 4) (m x : LaneMask) : Prop :=
  8 ≤ cond.toNat ∧ u = 1 ∧ m &&& x ≠ 0 ∧ m &&& x ≠ x

theorem not_diverges_of_uniform {u : BitVec 1} {cond : BitVec 4} {m x : LaneMask} (h : uniform u cond m x) :
    ¬diverges u cond m x := by
  unfold uniform at h
  tauto

section
variable (u : BitVec 1) (cond : BitVec 4) (sc : BitVec 6) (disp : BitVec 15)

/-- What BR does in its group: a divergence fault, a transfer, or nothing (R60, R61). -/
def brEff (g : Group) : Except Trap Eff :=
  let m := g.triple sc.toNat
  if diverges u cond m g.xm then .error ⟨0x04, popCount (m &&& g.xm), m &&& g.xm, 0⟩
  else if brTakes cond (g.sval sc.toNat) m g.xm then flowEff g (transfer g (reach g disp.toInt))
  else .ok { g := g }

theorem exec_br (s : State) :
    exec (.br u cond sc disp) s = performG (.br u cond sc disp) (infoBr cond sc) (brEff u cond sc disp) s := by
  unfold exec execBr brEff brTakes diverges infoBr
  by_cases h8 : 8 ≤ cond.toNat
  · simp only [h8, decide_true, if_true, true_and]
    rfl
  · by_cases h0 : cond = 0 <;> simp only [h8, h0, decide_false, if_false, if_true, false_and] <;> rfl

end

section
variable {u : BitVec 1} {cond : BitVec 4} {sc : BitVec 6} {disp : BitVec 15} {g : Group} (hok : brOk cond sc = true)
  (hu : uniform u cond (g.triple sc.toNat) g.xm)
include hok hu

theorem brEff_taken (ht : branchTaken cond (g.sval sc.toNat) (g.triple sc.toNat) g.xm) :
    brEff u cond sc disp g = flowEff g (transfer g (reach g disp.toInt)) :=
  (if_neg (not_diverges_of_uniform hu)).trans (if_pos ((brTakes_iff hok _ _ _).2 ht))

theorem brEff_not_taken (ht : ¬branchTaken cond (g.sval sc.toNat) (g.triple sc.toNat) g.xm) :
    brEff u cond sc disp g = .ok { g := g } :=
  (if_neg (not_diverges_of_uniform hu)).trans (if_neg (mt (brTakes_iff hok _ _ _).1 ht))

end

/-! ### CALL, RET and LOOP -/

/-- An address lies in a pair as its low word and its high 24 bits. -/
theorem toNat_halves (a : Addr) :
    ((a.extractLsb' 32 24).setWidth 32).toNat * 2 ^ 32 + (a.setWidth 32).toNat = a.toNat := by
  simp
  omega

theorem isDiff_sub (x y : Word) : isDiff x y (x - y) := by
  unfold isDiff
  rw [BitVec.toNat_sub]
  congr 1
  omega

section
variable {s : State} {sc : BitVec 6} {disp : BitVec 15}

/-- CALL leaves the address of the next clause in its pair (R83). -/
theorem exec_call (h : Issues (.call sc disp) { sw := [sc.toNat, sc.toNat + 1], pairs := [⟨true, sc.toNat⟩] } s)
    (ha : inSpace (reach s.g disp.toInt)) :
    ∃ t, exec (.call sc disp) s = .next t ∧ (t.g.sreg sc.toNat).tag = 14 ∧ (t.g.sreg (sc.toNat + 1)).tag = 14 ∧
      t.g.pairNat sc.toNat = (s.g.pc.toNat + 4 * (s.g.code.words.length + 1)) % 2 ^ 56 ∧
      Ran (.call sc disp) (.jump (addr (reach s.g disp.toInt))) s t [sc.toNat, sc.toNat + 1] [] 0 [] := by
  let r := nextHeader s.g.pc s.g.code.words.length
  have hr := (s.g.setS_regsOnly sc.toNat (r.setWidth 32) 14 [sc.toNat] [] (by simp)).trans
    (Group.setS_regsOnly _ (sc.toNat + 1) ((r.extractLsb' 32 24).setWidth 32) 14 [sc.toNat + 1] [] (by simp))
  unfold exec execCall
  refine performG_ran h (congrArg (flowEff _) (transfer_inSpace s.g ha)) hr (by simp) fun t hran hs => ⟨?_, ?_, ?_, hran⟩
  · simp [hs]
  · simp [hs]
  · unfold Group.pairNat Group.sval
    rw [hs, hs, Group.sreg_setS_self, Group.sreg_setS_ne _ _ _ _ _ (by omega), Group.sreg_setS_self, toNat_halves]
    exact toNat_handler _ _

/-- LOOP counts its scalar down, and transfers until it is zero (R83). -/
theorem exec_loop (h : Issues (.loop sc disp) { sr := [sc.toNat], sw := [sc.toNat] } s)
    (ha : s.g.sval sc.toNat ≠ 1 → inSpace (reach s.g disp.toInt)) :
    ∃ t, exec (.loop sc disp) s = .next t ∧ isDiff (s.g.sval sc.toNat) 1 (t.g.sreg sc.toNat).val ∧
      (t.g.sreg sc.toNat).tag = 1 ∧
      Ran (.loop sc disp) (if s.g.sval sc.toNat = 1 then .seq else .jump (addr (reach s.g disp.toInt))) s t
        [sc.toNat] [] 0 [] := by
  unfold exec execLoop
  have hr := s.g.setS_regsOnly sc.toNat (s.g.sval sc.toNat - 1) 1 [sc.toNat] [] (by simp)
  have counts (x : SReg) (e : x = ⟨s.g.sval sc.toNat - 1, 1⟩) : isDiff (s.g.sval sc.toNat) 1 x.val ∧ x.tag = 1 := by
    subst e
    exact ⟨isDiff_sub _ _, rfl⟩
  by_cases h1 : s.g.sval sc.toNat = 1
  · rw [if_pos h1]
    refine performG_ran h (if_neg (not_not.2 (sub_eq_zero.2 h1))) hr (by simp) fun t hran hs => ?_
    obtain ⟨hv, htag⟩ := counts _ ((hs sc.toNat).trans (Group.sreg_setS_self _ _ _ _))
    exact ⟨hv, htag, hran⟩
  · rw [if_neg h1]
    refine performG_ran h ((if_pos (mt sub_eq_zero.1 h1)).trans (congrArg (flowEff _) (transfer_inSpace s.g (ha h1)))) hr
      (by simp) fun t hran hs => ?_
    obtain ⟨hv, htag⟩ := counts _ ((hs sc.toNat).trans (Group.sreg_setS_self _ _ _ _))
    exact ⟨hv, htag, hran⟩

theorem loop_outside (h : Issues (.loop sc disp) { sr := [sc.toNat], sw := [sc.toNat] } s) (h1 : s.g.sval sc.toNat ≠ 1)
    (ha : ¬inSpace (reach s.g disp.toInt)) : ∃ f : Trap, f.cause = 0x0A ∧ exec (.loop sc disp) s = .next (s.raise f) := by
  unfold exec execLoop
  exact performG_outside h (if_pos (mt sub_eq_zero.1 h1)) ha

end

/-! ### IPREF -/

/-- IPREF changes what its hint changes, and the place of its group. -/
theorem exec_ipref {s : State} {disp : BitVec 15} (h : Issues (.ipref disp) {} s) :
    ∃ t, exec (.ipref disp) s = .next t ∧ Did (.ipref disp) .seq s (s.askCode s.cur (reach s.g disp.toInt)) t := by
  have hg := s.askCode_g s.cur (reach s.g disp.toInt)
  unfold exec execIpref
  exact ⟨_, perform_next h rfl, State.retire_retired s _ _ _ _ (congrArg _ hg) (congrArg _ hg) (congrArg _ hg),
    s.askCode_byte _ _⟩

/-- Settles O5: each transfer by its equation in `performG`, BR by its condition. -/
theorem controlTransfers : Obligations.ControlTransfers := by
  unfold Obligations.ControlTransfers
  refine ⟨⟨?br, ?jmp, ?call, ?ret, ?jmpi, ?loop, ?nop, ?ipref, ?asked⟩,
    ?diverges, ?brOut, ?jmpOut, ?callOut, ?jmpiOut, ?loopOut, ?retOut, ?retOdd⟩
  case br =>
    intro s u cond sc disp hok h hu
    rw [exec_br]
    exact ⟨fun ht ha => performG_jumps h (brEff_taken hok hu ht) ha, fun ht => performG_goes h (brEff_not_taken hok hu ht)⟩
  case jmp =>
    intro s disp h ha
    unfold exec execJmp
    exact performG_jumps h rfl ha
  case call => exact fun s sc disp h ha => exec_call h ha
  case ret =>
    intro s sc h h56 h4
    unfold exec execRet
    exact performG_goes h ((if_neg (by omega)).trans (if_neg (by omega)))
  case jmpi =>
    intro s sc h ha
    unfold exec execJmpi
    exact performG_jumps h rfl ha
  case loop => exact fun s sc disp h ha => exec_loop h ha
  case nop =>
    intro s h
    unfold exec execNop
    exact performG_goes h rfl
  case ipref => exact fun s disp h => exec_ipref h
  case asked =>
    intro s k va c block u
    refine ⟨fun hv ha hi => ?_, fun hv => State.askCode_dropped hv⟩
    have hu : u = _ := State.askCode_taken hv ha hi
    rw [hu]
    exact ⟨rfl, State.cluster_modCluster _ _ _, fun d hd => AMap.get_put_ne _ _ _ _ _ hd⟩
  case diverges =>
    intro s cond sc disp h8 h h0 h1
    rw [exec_br]
    exact performG_faults h ⟨_, rfl, if_pos ⟨h8, rfl, h0, h1⟩⟩
  case brOut =>
    intro s u cond sc disp hok h hu ht ha
    rw [exec_br]
    exact performG_outside h (brEff_taken hok hu ht) ha
  case jmpOut =>
    intro s disp h ha
    unfold exec execJmp
    exact performG_outside h rfl ha
  case callOut =>
    intro s sc disp h ha
    unfold exec execCall
    exact performG_outside h rfl ha
  case jmpiOut =>
    intro s sc h ha
    unfold exec execJmpi
    exact performG_outside h rfl ha
  case loopOut => exact fun s sc disp h h1 ha => loop_outside h h1 ha
  case retOut =>
    intro s sc h h56
    unfold exec execRet
    exact performG_faults h ⟨_, rfl, if_pos h56⟩
  case retOdd =>
    intro s sc h h56 h4
    unfold exec execRet
    exact performG_faults h ⟨_, rfl, (if_neg (by omega)).trans (if_pos h4)⟩

end Sys2Proof.Claim
end

section
/-! SETTLED: O6. TRAP, BKPT, RTE, HALT, YIELD and the words that are no instruction (R64, R84, R85, R301, R302): the faults by
`State.raise`, the others by the effect in which they retire. -/

namespace Sys2Proof.Machine

variable {s u : State} {i : Instr} {n : Info} {f : Flow}

/-! ### Retirement -/

theorem Group.looks_advance (g : Group) (k : Nat) (f : Flow) : (g.advance k f).looks = g.looks := by
  rw [Group.placed_advance g k f]
  cases f with
  | seq => unfold Group.advance; dsimp only; split <;> rfl
  | _ => rfl

/-- A closing instruction leaves no look window (R58). -/
theorem State.retire_looks (s : State) (i : Instr) (f : Flow) (hc : n.closes = true) (hl : n.look = none) :
    (s.retire i n f).g.looks = [] := by
  have closed : (s.g.countLooks n f.transfers).looks = [] := by simp [Group.countLooks, hc, hl]
  have trial (b g : Group) : (s.trialDelay b f g).looks = g.looks := by
    unfold State.trialDelay Trial.delays
    split
    · dsimp only
      split
      · rfl
      · split <;> rfl
    · rfl
  have chunk (g : Group) : (s.countChunk n g).looks = g.looks := by
    unfold State.countChunk
    split
    · rfl
    · split <;> rfl
  unfold State.retire
  rw [State.g_setG, chunk, trial]
  split <;> exact (Group.looks_advance _ _ _).trans closed

/-- An instruction whose effect is done has retired from where its group stood. -/
theorem perform_retired {body : State → Res} {P : State → Prop} (h : Issues i n s) (hb : body s = .done u f)
    (hp : u.g.clause = s.g.clause ∧ u.g.pc = s.g.pc ∧ u.g.word = s.g.word)
    (k : ∀ t, Retired i f s u t → (n.closes = true → n.look = none → t.g.looks = []) → P t) :
    ∃ t, perform i n body s = .next t ∧ P t := by
  obtain ⟨h1, h2, h3⟩ := hp
  exact ⟨_, perform_next h hb, k _ (State.retire_retired s u i n f h1 h2 h3) (State.retire_looks u i f)⟩

/-- What retires from s itself has changed its place alone. -/
theorem ran_of_retired {t : State} (h : Retired i f s s t) : Ran i f s t [] [] 0 [] := by
  obtain ⟨hp, hw, hg, ht⟩ := h
  have hs : t.g.s = s.g.s := by rw [hg]; rfl
  have hts : t.g.ts = s.g.ts := by rw [hg]; rfl
  have hv : t.g.v = s.g.v := by rw [hg]; rfl
  have hgs : t.g.gstat = s.g.gstat := by rw [hg]; rfl
  refine ⟨hp, hw, fun r _ => by rw [hs], fun r _ => by rw [hts], fun r _ => by unfold Group.vreg; rw [hv], by simp [hgs], ?_,
    ht, fun k hk => ?_, fun a => ?_⟩
  · rw [hs, hts, hv, hgs]
    exact hg
  · rw [ht]
    exact State.group_setG_ne _ _ _ hk
  · rw [ht]
    rfl

/-! ### What leaving a class and being demoted keep -/

/-- t has s's memory and selection, and the registers of its group k. -/
structure KeepsRegs (s t : State) (k : Nat) : Prop where
  cur : t.cur = s.cur
  mem : t.mem = s.mem
  scalars : (t.group k).s = (s.group k).s
  vectors : (t.group k).v = (s.group k).v

theorem KeepsRegs.trans {t : State} {k : Nat} (x : KeepsRegs s u k) (y : KeepsRegs u t k) : KeepsRegs s t k :=
  ⟨y.cur.trans x.cur, y.mem.trans x.mem, y.scalars.trans x.scalars, y.vectors.trans x.vectors⟩

theorem KeepsRegs.modGroup (s : State) (k : Nat) {f : Group → Group} (hs : (f (s.group k)).s = (s.group k).s)
    (hv : (f (s.group k)).v = (s.group k).v) : KeepsRegs s (s.modGroup k f) k :=
  ⟨rfl, rfl, by simp [hs], by simp [hv]⟩

theorem State.demote_keepsRegs (s : State) (k : Nat) : KeepsRegs s (s.demote k) k := by
  refine ⟨?_, ?_, ?_, ?_⟩
  · unfold State.demote; split <;> rfl
  · unfold State.demote; split <;> rfl
  · rw [State.demote_group, Group.demoted_eq]
  · rw [State.demote_group, Group.demoted_eq]

theorem State.leaveClass_keepsRegs (s : State) (k : Nat) (c : PClass) : KeepsRegs s (s.leaveClass k c) k := by
  have left := KeepsRegs.modGroup s k (f := fun g => { g with classes := g.classes.filter (· != c) }) rfl rfl
  exact ite_holds (P := fun t => KeepsRegs s t k)
    ((left.trans (State.demote_keepsRegs _ k)).trans (KeepsRegs.modGroup _ k rfl rfl)) left

/-! ### The end of a grid -/

theorem State.endGroup_cur (s : State) (k : Nat) : (s.endGroup k).cur = s.cur :=
  ((s.flushPending k).haltGroup_teamsOnly k).cur.trans (s.flushPending_cur k)

theorem State.endGrid_cur (s : State) (grid code va : Nat) : (s.endGrid grid code va).cur = s.cur := by
  have groups (ks : List Nat) (t : State) :
      (ks.foldl (fun s k => if (s.group k).stopsAtOnce then s.endGroup k else s) t).cur = t.cur := by
    induction ks generalizing t with
    | nil => rfl
    | cons k ks ih => exact (ih _).trans (ite_holds (P := fun u : State => u.cur = t.cur) (t.endGroup_cur k) rfl)
  unfold State.endGrid
  split
  · rfl
  · refine ite_holds (P := fun u : State => u.cur = s.cur) rfl ?_
    exact (State.faultRecord_memoryOnly _ _ _).cur.trans (groups _ _)

/-- A grid that is there is cancelled by its end (R289). -/
theorem State.endGrid_cancelled {grid : Nat} {q : Grid} (h : s.grids.find? grid = some q) (code va : Nat) :
    ∃ q', (s.endGrid grid code va).grids.find? grid = some q' ∧ q'.cancelled = true := by
  unfold State.endGrid
  rw [h]
  dsimp only
  split
  · next hc => exact ⟨q, h, hc⟩
  · rw [(State.faultRecord_memoryOnly _ _ _).grids, (State.endGroups_grids _ _ 0).1]
    exact ⟨_, AMap.find?_put_self _ _ _, rfl⟩

end Sys2Proof.Machine

namespace Sys2Proof.Claim

open Machine

variable {s : State}

/-! ### TRAP, BKPT and the words that are no instruction -/

/-- TRAP or BKPT where it may be run: the group enters its handler (R301). -/
theorem trapWith_entered {i : Instr} (c : Nat) {n : BitVec 18} (h : Issues i {} s) (hf : TakesFaults s)
    (hp : (s.context s.g.ctx).priv = true) :
    ∃ t, trapWith i c n s = .next t ∧ Entered s t ⟨c, n.toNat, s.g.xm, 0⟩ := by
  have hb : ({ barred := !(s.g.trapMode || s.privileged) } : Info) = {} := by simp [State.privileged, hp]
  unfold trapWith
  exact ⟨_, perform_trap (hb ▸ h) rfl, s.raise_entered _ hf⟩

/-- A group that waits for nothing enters its handler. -/
theorem entered_of_no_wait (f : Trap) (hw : s.g.wait = .none) (hf : TakesFaults s) :
    ∃ t, Host.Outcome.next (φ := Fault) (ρ := Refusal) (if s.g.wait != .none then s else s.raise f) = .next t ∧
      Entered s t f :=
  ⟨_, congrArg _ (if_neg (by simp [hw])), s.raise_entered f hf⟩

/-! ### RTE -/

/-- RTE and RTE end in trap mode are not barred. -/
theorem issues_in_trap {i : Instr} (h : Issues i { serial := some false } s) (ht : s.g.trapMode = true) :
    Issues i { barred := !s.g.trapMode, closes := true, ends := some 2, serial := some false } s := by
  rw [ht]
  exact h

/-- What RTE counts: the emulation of a reserved major, for each active lane that is no helper lane (R288, R302). -/
def emulations (g : Group) : List (Nat × Nat) :=
  if g.trap.cause = 2 ∧ ¬(g.trap.pc = g.trap.site.clause ∧ g.trap.word.toNat = g.trap.site.word)
  then [(29, popCount (g.xm &&& ~~~g.helper))] else []

theorem harvests_emulations (u : State) (g : Group) :
    (if (g.trap.cause == 2 && !(g.trap.pc == g.trap.site.clause && g.trap.word.toNat == g.trap.site.word)) = true
      then u.harvests g.ctx [(29, popCount (g.xm &&& ~~~g.helper))] else u) = u.harvests g.ctx (emulations g) := by
  unfold emulations
  simp only [Bool.and_eq_true, Bool.not_eq_true', ← Bool.not_eq_true, beq_iff_eq]
  split <;> rfl

/-- RTE leaves trap mode and resumes at TPC (R302). -/
theorem exec_rte (h : Issues .rte { serial := some false } s) (ht : s.g.trapMode = true) :
    ∃ t, exec .rte s = .next t ∧
      Retired .rte (.resume s.g.trap.pc s.g.trap.word.toNat) s
        ((s.setG { s.g with trapMode := false }).harvests s.g.ctx (emulations s.g)) t ∧
      t.g.trapMode = false ∧ t.g.pc = s.g.trap.pc ∧ t.g.word = s.g.trap.word.toNat ∧ t.g.looks = [] ∧
      ∀ a, t.byte a = s.byte a := by
  unfold exec execRte
  refine perform_retired (issues_in_trap h ht)
    (congrArg (Res.done · _) (harvests_emulations (s.setG { s.g with trapMode := false }) s.g)) (by simp)
    fun t hr hl => ⟨hr, ?_, ?_, ?_, hl rfl rfl, fun a => ?_⟩
  all_goals obtain ⟨hp, hw, hg, hs⟩ := hr
  · rw [hg, State.g_harvests, State.g_setG]
    rfl
  · exact hp
  · exact hw
  · rw [hs, State.byte_setG]
    exact congrArg (fun m : AMap Byte => m.get 0 a) (State.mem_harvests _ _ _)

/-- RTE end leaves trap mode, ends the group and its grid (R289, R302). -/
theorem exec_rteEnd (h : Issues .rteEnd { serial := some false } s) (ht : s.g.trapMode = true) :
    ∃ t, exec .rteEnd s = .next t ∧ t.g.halted = true ∧ t.g.trapMode = false ∧
      ∀ q, s.grids.find? s.g.grid = some q → ∃ q', t.grids.find? s.g.grid = some q' ∧ q'.cancelled = true := by
  let v := s.setG { s.g with trapMode := false }
  let u := (v.endGrid s.g.grid 0 0).endGroup s.cur
  have hu : u.g = u.group s.cur := congrArg u.group ((State.endGroup_cur _ _).trans (State.endGrid_cur v _ _ _))
  unfold exec execRteEnd
  obtain ⟨g, he, hg, -⟩ := u.retire_group .rteEnd
    { barred := !s.g.trapMode, closes := true, ends := some 2, serial := some false } .ended
  obtain ⟨halted, trapMode, -⟩ := Group.halts_demoted { (v.endGrid s.g.grid 0 0).group s.cur with pending := [] }
    (((v.endGrid s.g.grid 0 0).flushPending s.cur).cycle s.cur)
  refine ⟨u.setG g, (perform_next (issues_in_trap h ht) rfl).trans (congrArg _ he), ?_, ?_, fun q hq => ?_⟩
  · rw [State.g_setG, hg, hu, State.endGroup_group]
    exact halted
  · rw [State.g_setG, hg, hu, State.endGroup_group]
    exact trapMode
  · rw [State.setG_grids, State.endGroup_grids]
    exact State.endGrid_cancelled (s := v) hq 0 0

/-! ### HALT -/

/-- A group that has halted stays so where its place alone changes. -/
theorem Halted.of_placed {u : State} {g : Group} (h : Halted s u) (hg : PlacedOf u.g g) : Halted s (u.setG g) := by
  obtain ⟨h1, h2, h3, h4, h5, h6⟩ := h
  unfold Halted
  rw [State.g_setG, hg]
  exact ⟨h1, h2, h3, h4, h5, h6⟩

/-- HALT outside the sprinter ends its group (R85). -/
theorem exec_halt (h : Issues .halt { serial := some true } s) (hp : s.g.pending = []) (he : s.g.engine ≠ .sprinter) :
    ∃ t, exec .halt s = .next t ∧ Halted s t ∧ (∀ k, k ≠ s.cur → t.group k = s.group k) ∧ ∀ a, t.byte a = s.byte a := by
  have hg : s.group s.cur = { s.g with pending := [] } := by rw [← hp]; rfl
  have halted := (halted_haltGroup rfl hg).1
  have teams := s.haltGroup_teamsOnly s.cur
  have mem := s.haltGroup_mem s.cur
  have hx (t : State) (ht : (s.haltGroup s.cur).retire .halt { ends := some 3, serial := some true } .ended = t) :
      exec .halt s = .next t := by
    show execHalt s = _
    unfold execHalt
    rw [← ht]
    refine perform_next h ?_
    simp only [hp, he, if_false]
  generalize s.haltGroup s.cur = u at halted teams mem hx
  obtain ⟨g, hr, hu, -⟩ := u.retire_group .halt { ends := some 3, serial := some true } .ended
  refine ⟨_, hx _ hr, halted.of_placed hu, fun k hk => ?_, fun a => congrArg (fun m : AMap Byte => m.get 0 a) mem⟩
  rw [State.group_setG_ne _ _ _ (by rw [teams.cur]; exact hk), State.group_congr teams.groups]
  exact AMap.get_put_ne _ _ _ _ _ hk

/-- HALT in the sprinter demotes its group first, over 12 clocks (R161, R162). -/
theorem exec_halt_sprinter (h : Issues .halt { serial := some true } s) (hp : s.g.pending = [])
    (he : s.g.engine = .sprinter) :
    ∃ t, exec .halt s = .next t ∧ (∀ a, t.byte a = s.byte a) ∧ (∀ k, k ≠ s.cur → t.group k = s.group k) ∧
      t.g = { s.g with engine := .demoting (s.cycle s.cur + 12), demoteNext := true } := by
  have hb : execHalt s = .next ((s.demote s.cur).modGroup s.cur fun g => { g with demoteNext := true }) := by
    unfold execHalt
    refine perform_hold h ?_
    simp only [hp, he, if_true]
  have keeps := s.demote_keepsRegs s.cur
  refine ⟨_, hb, fun a => ?_, fun k hk => ?_, ?_⟩
  · exact congrArg (fun m : AMap Byte => m.get 0 a) keeps.mem
  · rw [State.modGroup_eq, s.demote_setGroup]
    exact AMap.get_put_ne _ _ _ _ _ hk
  · rw [State.modGroup_eq, s.demote_setGroup, s.demote_group]
    refine (AMap.get_put_self _ _ _ _).trans ?_
    unfold Group.demoted
    rw [show (s.group s.cur).engine = .sprinter from he]
    rfl

/-! ### YIELD -/

/-- The command of a ticket is outstanding where one of the group's own that is not saved carries it (R243). -/
theorem outstanding_iff (k : Nat) (w : Word) :
    s.outstanding k w = true ↔ ∃ c ∈ s.cmds, c.2.group = k ∧ c.2.saved = false ∧ c.2.ticket = w := by
  simp [State.outstanding, and_assoc]

/-- Where a displacement from the header of the present clause leads (R60). -/
theorem target_eq (g : Group) (disp : BitVec 15) : target g.pc disp = reach g disp.toInt := rfl

theorem not_beyond {last w : Word} (h : (last - w).toNat < 2 ^ 31) : ¬beyond last w = true := by
  simpa [beyond] using h

section
variable {sc : BitVec 6} {disp : BitVec 15}

section
variable (h : Issues (.yield sc disp) { sr := if sc = 63 then [] else [sc.toNat], serial := some false } s)
  (ha : inSpace (reach s.g disp.toInt)) (hb : ¬(sc ≠ 63 ∧ beyond s.g.ticket (s.g.sval sc.toNat) = true))
include h ha hb

/-- YIELD that waits for no command goes to its continuation (R84). -/
theorem yield_goes (ho : ¬(sc ≠ 63 ∧ s.outstanding s.cur (s.g.sval sc.toNat) = true)) :
    ∃ t, exec (.yield sc disp) s = .next t ∧ t.g.looks = [] ∧
      Ran (.yield sc disp) (.jump (addr (reach s.g disp.toInt))) s t [] [] 0 [] := by
  show ∃ t, execYield sc disp s = _ ∧ _
  unfold execYield
  refine perform_retired h ?_ ⟨rfl, rfl, rfl⟩ fun t hr hl => ⟨hl rfl rfl, ran_of_retired hr⟩
  dsimp only
  rw [if_neg hb, target_eq, transfer_inSpace s.g ha]
  exact if_neg ho

/-- YIELD with the ticket of a command that has not completed waits at its continuation (R84). -/
theorem yield_waits (ho : sc ≠ 63 ∧ s.outstanding s.cur (s.g.sval sc.toNat) = true) :
    ∃ t, exec (.yield sc disp) s = .next t ∧ t.g.wait = .ticket (s.g.sval sc.toNat) true ∧
      t.g.pc = addr (reach s.g disp.toInt) ∧ t.g.word = 0 ∧ t.g.s = s.g.s ∧ t.g.v = s.g.v ∧ ∀ a, t.byte a = s.byte a := by
  let left := (s.leaveClass s.cur .hint).demote s.cur
  let u := left.modGroup s.cur fun g => { g with wait := .ticket (s.g.sval sc.toNat) true }
  have keeps : KeepsRegs s left s.cur := (s.leaveClass_keepsRegs s.cur .hint).trans (State.demote_keepsRegs _ _)
  have hu : u.g = { left.group s.cur with wait := .ticket (s.g.sval sc.toNat) true } := by
    show u.group left.cur = _
    rw [keeps.cur]
    exact State.group_setGroup_self _ _ _
  obtain ⟨g, hr, hg, hpc, hword⟩ := u.retire_group (.yield sc disp)
    { sr := if sc = 63 then [] else [sc.toNat], closes := true, ends := some 1, serial := some false }
    (.jump (addr (reach s.g disp.toInt)))
  refine ⟨u.setG g, ?_, ?_, ?_, ?_, ?_, ?_, fun a => congrArg (fun m : AMap Byte => m.get 0 a) keeps.mem⟩
  · show execYield sc disp s = _
    unfold execYield
    rw [← hr]
    refine perform_next h ?_
    dsimp only
    rw [if_neg hb, target_eq, transfer_inSpace s.g ha]
    exact if_pos ho
  · rw [State.g_setG, hg, hu]
    rfl
  · rw [State.g_setG, hpc]
    rfl
  · rw [State.g_setG, hword]
    rfl
  · rw [State.g_setG, hg, hu]
    exact keeps.scalars
  · rw [State.g_setG, hg, hu]
    exact keeps.vectors

end

/-- A ticket that has not been given yet is a fault (R84, R265). -/
theorem yield_beyond (hsc : sc ≠ 63) (h : Issues (.yield sc disp) { sr := [sc.toNat], serial := some false } s)
    (hb : 2 ^ 31 ≤ (s.g.ticket - s.g.sval sc.toNat).toNat) :
    exec (.yield sc disp) s = .next (s.raise ⟨0x12, 3, s.g.xm, 0⟩) := by
  show execYield sc disp s = _
  unfold execYield
  rw [if_neg hsc]
  exact perform_trap h (if_pos ⟨hsc, decide_eq_true hb⟩)

end

/-- Settles O6, each clause by the effect of its instruction. -/
theorem trapInstructionsAndHalt : Obligations.TrapInstructionsAndHalt := by
  unfold Obligations.TrapInstructionsAndHalt
  refine ⟨⟨?trap, ?bkpt, ?rte, ?rteEnd, ?undefined, ?reserved⟩, ?halt, ?haltSprinter, ?yield, ?yieldDone, ?yieldWaits,
    ?yieldBeyond⟩
  case trap => exact fun s n h hf hp => trapWith_entered 0x0F h hf hp
  case bkpt => exact fun s n h hf hp => trapWith_entered 0x10 h hf hp
  case rte => exact fun s h ht => exec_rte h ht
  case rteEnd => exact fun s h ht => exec_rteEnd h ht
  case undefined => exact fun s w hw hf => entered_of_no_wait _ hw hf
  case reserved => exact fun s w hw hf => entered_of_no_wait _ hw hf
  case halt => exact fun s h hp he => exec_halt h hp he
  case haltSprinter => exact fun s h hp he => exec_halt_sprinter h hp he
  case yield => exact fun s disp h ha => yield_goes h ha (by simp) (by simp)
  case yieldDone =>
    intro s sc disp hsc h ha hb hc
    refine yield_goes (by rwa [if_neg hsc]) ha (fun x => not_beyond hb x.2) fun x => ?_
    obtain ⟨c, hm, hx⟩ := (outstanding_iff _ _).1 x.2
    exact hc c hm hx
  case yieldWaits =>
    exact fun s sc disp hsc h ha hb hc =>
      yield_waits (by rwa [if_neg hsc]) ha (fun x => not_beyond hb x.2) ⟨hsc, (outstanding_iff _ _).2 hc⟩
  case yieldBeyond => exact fun s sc disp hsc h hb => yield_beyond hsc h hb

end Sys2Proof.Claim
end

section
/-! SETTLED: O39. What a returned load leaves: its destination, the group without the access, and no byte changed. -/

namespace Sys2Proof.Claim

open Machine

/-! ### The groups and the home memory, which no service of a line changes -/

/-- t has the groups and the home memory of s. -/
def GroupsMemKept (s t : State) : Prop := t.groups = s.groups ∧ t.mem = s.mem

namespace GroupsMemKept

variable {s t u : State}

theorem refl (s : State) : GroupsMemKept s s := ⟨rfl, rfl⟩

theorem trans (x : GroupsMemKept s t) (y : GroupsMemKept t u) : GroupsMemKept s u :=
  ⟨y.1.trans x.1, y.2.trans x.2⟩

theorem foldl {α : Type} {f : State → α → State} (h : ∀ s x, GroupsMemKept s (f s x)) (l : List α) (s : State) :
    GroupsMemKept s (l.foldl f s) := by
  induction l generalizing s with
  | nil => exact refl s
  | cons x l ih => exact (h s x).trans (ih _)

theorem group (x : GroupsMemKept s t) (k : Nat) : t.group k = s.group k := State.group_congr x.1 k

theorem byte (x : GroupsMemKept s t) (k : Nat) : t.byte k = s.byte k :=
  congrArg (fun m : AMap Byte => m.get 0 k) x.2

theorem of_serve (x : ServeOnly s t) : GroupsMemKept s t := ⟨by rw [x], by rw [x]⟩

theorem armReuse (s : State) (g line : Nat) : GroupsMemKept s (s.armReuse g line) := by
  unfold State.armReuse
  refine ite_holds (refl s) ?_
  split
  · exact refl s
  · exact ite_holds ⟨rfl, rfl⟩ ⟨rfl, rfl⟩

theorem touchSlice (s : State) (g line : Nat) : GroupsMemKept s (s.touchSlice g line) := by
  have flit : GroupsMemKept s (s.flit (routePart (coreOf g) (dieOf line))) := ⟨rfl, rfl⟩
  have noted : GroupsMemKept ((s.flit (routePart (coreOf g) (dieOf line))).l2Serve line)
      (((s.flit (routePart (coreOf g) (dieOf line))).l2Serve line).noteServed line g) := ⟨rfl, rfl⟩
  exact ((flit.trans (of_serve (State.l2Serve_serveOnly _ line))).trans noted).trans (armReuse _ g line)

theorem touchBeats (s : State) (g : Nat) (a : Access) (line : Nat) (need : BitVec 4 → BitVec 4) :
    GroupsMemKept s (s.touchBeats g a line need) :=
  foldl (fun s _ => ite_holds (refl s) (touchSlice s g line)) _ s

theorem loadTouch (s : State) (g : Nat) (a : Access) : GroupsMemKept s (s.loadTouch g a) := by
  refine foldl (fun s p => ?_) _ s
  have touched := touchBeats s g a p.1 (s.loadMisses (coreOf g) a.hint p.1)
  dsimp only
  split
  · exact ite_holds (touched.trans ⟨rfl, rfl⟩) (touched.trans ⟨rfl, rfl⟩)
  · exact touched.trans ⟨rfl, rfl⟩

theorem windowFlits (s : State) (g : Nat) (a : Access) : GroupsMemKept s (s.windowFlits g a) := by
  unfold State.windowFlits
  refine foldl (fun s x => ?_) _ s
  exact ite_holds (refl s) ⟨rfl, rfl⟩

theorem acquireL1 (s : State) (c : Nat) (scope : BitVec 3) : GroupsMemKept s (s.acquireL1 c scope) :=
  ite_holds (refl s) ⟨rfl, rfl⟩

end GroupsMemKept

/-! ### The group after its access -/

/-- A group without an access that has ended: its counter has fallen (R52). -/
def Group.without (x : Group) (a : Access) : Group :=
  { x with accesses := x.accesses.filter fun b => b.id != a.id }.lowerCounter a.counter

/-- A group that a load returns to, with the value of each lane: the destination is written, and a wait for the access
is over. -/
def Group.loaded (x : Group) (a : Access) (value : Nat → Word × Word) : Group :=
  let x := (a.writes value).foldl Group.write x
  if x.waitAccess = some a.id then { x with waitAccess := none, waitRead := some (value 0).1 } else x

section

variable (x : Group) (a : Access)

/-- Lowering a counter changes the counters alone. -/
theorem lowerCounter_kept (c : Option Nat) :
    (x.lowerCounter c).accesses = x.accesses ∧ (x.lowerCounter c).v = x.v ∧ (x.lowerCounter c).s = x.s ∧
      (x.lowerCounter c).ts = x.ts := by
  cases c with
  | none => exact ⟨rfl, rfl, rfl, rfl⟩
  | some c => exact ⟨rfl, rfl, rfl, rfl⟩

/-- A register write leaves the accesses in flight. -/
theorem write_accesses (w : RegWrite) : (x.write w).accesses = x.accesses := by
  cases w with
  | sreg r v t => simp only [Group.write]; split <;> rfl
  | vreg r m l t => simp only [Group.write, Group.setV]; split <;> rfl

theorem foldl_write_accesses (l : List RegWrite) (x : Group) : (l.foldl Group.write x).accesses = x.accesses := by
  induction l generalizing x with
  | nil => rfl
  | cons w l ih => exact (ih _).trans (write_accesses x w)

/-- A returned load that has ended: the accesses but for it, and the registers with its destination written. -/
theorem without_loaded (value : Nat → Word × Word) :
    let y := Group.without (Group.loaded x a value) a
    let w := (a.writes value).foldl Group.write x
    y.accesses = x.accesses.filter (fun b => b.id != a.id) ∧ y.v = w.v ∧ y.s = w.s ∧ y.ts = w.ts := by
  intro y w
  have ended : ∀ u : Group, (Group.without u a).accesses = u.accesses.filter (fun b => b.id != a.id) ∧
      (Group.without u a).v = u.v ∧ (Group.without u a).s = u.s ∧ (Group.without u a).ts = u.ts :=
    fun u => lowerCounter_kept _ a.counter
  have hl : (Group.loaded x a value).accesses = x.accesses ∧ (Group.loaded x a value).v = w.v ∧
      (Group.loaded x a value).s = w.s ∧ (Group.loaded x a value).ts = w.ts := by
    have hw : w.accesses = x.accesses := foldl_write_accesses _ x
    exact ite_holds (P := fun u : Group => u.accesses = x.accesses ∧ u.v = w.v ∧ u.s = w.s ∧ u.ts = w.ts)
      ⟨hw, rfl, rfl, rfl⟩ ⟨hw, rfl, rfl, rfl⟩
  obtain ⟨ea, ev, es, et⟩ := ended (Group.loaded x a value)
  obtain ⟨la, lv, ls, lt⟩ := hl
  exact ⟨by rw [ea, la], ev.trans lv, es.trans ls, et.trans lt⟩

end

/-- The end of an access changes its group, and no byte. -/
theorem endAccess_ends (s : State) (g : Nat) (a : Access) :
    (s.endAccess g a).group g = Group.without (s.group g) a ∧ ∀ k, (s.endAccess g a).byte k = s.byte k := by
  have sent := GroupsMemKept.windowFlits s g a
  have unheld : GroupsMemKept ((s.windowFlits g a).modGroup g (Group.without · a))
      (((s.windowFlits g a).modGroup g (Group.without · a)).unhold g a.id) := ⟨rfl, rfl⟩
  have ended : GroupsMemKept ((s.windowFlits g a).modGroup g (Group.without · a)) (s.endAccess g a) :=
    ite_holds (unheld.trans (.acquireL1 _ _ _)) unheld
  refine ⟨?_, fun k => (ended.byte k).trans (sent.byte k)⟩
  rw [ended.group, State.modGroup_eq, State.group_setGroup_self, sent.group]

/-- A returned load changes its group as `Group.loaded` says, ends its access, and changes no byte. -/
theorem performLoad_ends (s : State) (g : Nat) (a : Access) (z : BitVec 3) :
    (s.performLoad g a z).group g =
        Group.without (Group.loaded (s.group g) a fun l => laneValue z (s.laneBytes g a l)) a ∧
      ∀ k, (s.performLoad g a z).byte k = s.byte k := by
  have ht : GroupsMemKept s ((s.loadTouch g a).noteReads g (a.lines.map (·.1))) :=
    (GroupsMemKept.loadTouch s g a).trans ⟨rfl, rfl⟩
  obtain ⟨eg, eb⟩ := endAccess_ends (((s.loadTouch g a).noteReads g (a.lines.map (·.1))).modGroup g fun x =>
    Group.loaded x a fun l => laneValue z (s.laneBytes g a l)) g a
  refine ⟨eg.trans ?_, fun k => (eb k).trans (ht.byte k)⟩
  rw [State.modGroup_eq, State.group_setGroup_self, ht.group]

/-! ### The destination -/

/-- The lanes in which a returned access writes. -/
def Access.written (a : Access) : LaneMask := laneMask (a.lanes.map fun x => x.lane) ||| a.zeros

/-- The value that a lane of a destination takes, `old` where the access leaves it. -/
def Access.laneTaken (a : Access) (l : Nat) (value old : Word) : Word :=
  if a.zeros.getLsbD l then 0
  else if (laneMask (a.lanes.map fun x => x.lane)).getLsbD l then value else old

/-- The list of values that a returned access writes to a vector. -/
def Access.column (a : Access) (f : Nat → Word) : List Word :=
  laneList.map fun l => if a.zeros.getLsbD l then 0 else if (Access.written a).getLsbD l then f l else 0

/-- The write of a returned access to a vector. -/
def Access.vecWrite (a : Access) (r : Nat) (f : Nat → Word) : RegWrite :=
  .vreg r (Access.written a) (Access.column a f) a.tag

section

variable (x : Group) (a : Access) (r : Nat) (f : Nat → Word)

/-- A vector write of a returned access changes the vectors alone, and of those its own. -/
theorem write_vecWrite_frame :
    (x.write (Access.vecWrite a r f)).s = x.s ∧
      ∀ q, q ≠ r → (x.write (Access.vecWrite a r f)).vreg q = x.vreg q := by
  have h := Group.setV_regsOnly x r (Access.written a) (fun i => (Access.column a f).getD i 0) a.tag [] [r] (by simp)
  refine ⟨?_, fun q hq => h.v q (by simpa using hq)⟩
  show (x.setV _ _ _ _).s = x.s
  unfold Group.setV
  split <;> rfl

theorem write_vecWrite_tag (hm : Access.written a ≠ 0) : ((x.write (Access.vecWrite a r f)).vreg r).tag = a.tag :=
  (Group.lane_setV x r _ _ a.tag 0 (by omega) hm).1

/-- The lanes that a vector write of a returned access leaves in its vector. -/
theorem write_vecWrite_lane {l : Nat} (h : l < 96) :
    (x.write (Access.vecWrite a r f)).lane r l = Access.laneTaken a l (f l) (x.lane r l) := by
  by_cases hm : Access.written a = 0
  · have unwritten : (Access.written a).getLsbD l = false := by simp [hm]
    rw [Access.written, BitVec.getLsbD_or, Bool.or_eq_false_iff] at unwritten
    have hx : x.write (Access.vecWrite a r f) = x := if_pos hm
    simp only [hx, Access.laneTaken, unwritten.1, unwritten.2, Bool.false_eq_true, if_false]
  · have e := (Group.lane_setV x r _ (fun i => (Access.column a f).getD i 0) a.tag l h hm).2
    refine e.trans ?_
    simp only [Access.column, laneList_getD _ _ h, Access.laneTaken, Access.written, BitVec.getLsbD_or]
    cases a.zeros.getLsbD l <;> cases (laneMask (a.lanes.map fun x => x.lane)).getLsbD l <;> rfl

end

section

variable {a : Access} {r : Nat} (f : Nat → Word × Word)

theorem writes_vec (h : a.dest = .vec r) : a.writes f = [Access.vecWrite a r fun l => (f l).1] := by
  simp only [Access.writes, h]; rfl

theorem writes_pair (h : a.dest = .pair r) :
    a.writes f = [Access.vecWrite a (r + 1) fun l => (f l).1, Access.vecWrite a r fun l => (f l).2] := by
  simp only [Access.writes, h]; rfl

theorem writes_scalar (h : a.dest = .scalar r) : a.writes f = [.sreg r (f 0).1 a.tag] := by
  simp only [Access.writes, h]

end

/-- A scalar written by its number in the register file reads as it was written, and no vector changes. -/
theorem file_write_sreg (x : Group) (r : Nat) (v : Word) (t : BitVec 4) :
    (x.write (.sreg r v t)).file r = ⟨v, t⟩ ∧ (x.write (.sreg r v t)).v = x.v := by
  by_cases h : 64 ≤ r
  · simp [Group.write, Group.file, h]
  · simp [Group.write, Group.file, h]

section

variable {s : State} {g : Nat} {a : Access} {z : BitVec 3} {r : Nat}

/-- A load returned to a scalar. -/
theorem performLoad_scalar (h : a.dest = .scalar r) :
    ((s.performLoad g a z).group g).file r = ⟨loadWord z (s.laneBytes g a 0), a.tag⟩ ∧
      ((s.performLoad g a z).group g).v = (s.group g).v := by
  rw [(performLoad_ends s g a z).1]
  obtain ⟨-, hv, hs, hts⟩ := without_loaded (s.group g) a fun l => laneValue z (s.laneBytes g a l)
  rw [writes_scalar _ h, List.foldl_cons, List.foldl_nil] at hv hs hts
  obtain ⟨ef, ev⟩ := file_write_sreg (s.group g) r (loadWord z (s.laneBytes g a 0)) a.tag
  refine ⟨?_, hv.trans ev⟩
  rw [← ef]
  unfold Group.file
  rw [hs, hts]
  rfl

/-- A load returned to a vector. -/
theorem performLoad_vec (h : a.dest = .vec r) :
    (Access.written a ≠ 0 → (((s.performLoad g a z).group g).vreg r).tag = a.tag) ∧
      ((s.performLoad g a z).group g).s = (s.group g).s ∧
      (∀ q, q ≠ r → ((s.performLoad g a z).group g).vreg q = (s.group g).vreg q) ∧
      ∀ l, l < 96 → ((s.performLoad g a z).group g).lane r l =
        Access.laneTaken a l (loadWord z (s.laneBytes g a l)) ((s.group g).lane r l) := by
  rw [(performLoad_ends s g a z).1]
  obtain ⟨-, hv, hs, -⟩ := without_loaded (s.group g) a fun l => laneValue z (s.laneBytes g a l)
  rw [writes_vec _ h, List.foldl_cons, List.foldl_nil] at hv hs
  simp only [Group.lane, Group.vreg, hv, hs]
  obtain ⟨es, eq⟩ := write_vecWrite_frame (s.group g) a r fun l => (laneValue z (s.laneBytes g a l)).1
  exact ⟨write_vecWrite_tag _ a r _, es, eq, fun l hl => write_vecWrite_lane _ a r _ hl⟩

/-- A load returned to a pair: the low words go to the second vector. -/
theorem performLoad_pair (h : a.dest = .pair r) :
    (Access.written a ≠ 0 → (((s.performLoad g a z).group g).vreg r).tag = a.tag ∧
        (((s.performLoad g a z).group g).vreg (r + 1)).tag = a.tag) ∧
      ((s.performLoad g a z).group g).s = (s.group g).s ∧
      (∀ q, q ≠ r → q ≠ r + 1 → ((s.performLoad g a z).group g).vreg q = (s.group g).vreg q) ∧
      ∀ l, l < 96 →
        ((s.performLoad g a z).group g).lane r l =
          Access.laneTaken a l (loadWord 4 ((s.laneBytes g a l).drop 4)) ((s.group g).lane r l) ∧
        ((s.performLoad g a z).group g).lane (r + 1) l =
          Access.laneTaken a l (loadWord z (s.laneBytes g a l)) ((s.group g).lane (r + 1) l) := by
  rw [(performLoad_ends s g a z).1]
  obtain ⟨-, hv, hs, -⟩ := without_loaded (s.group g) a fun l => laneValue z (s.laneBytes g a l)
  rw [writes_pair _ h, List.foldl_cons, List.foldl_cons, List.foldl_nil] at hv hs
  simp only [Group.lane, Group.vreg, hv, hs]
  obtain ⟨es, eq⟩ := write_vecWrite_frame (s.group g) a (r + 1) fun l => (laneValue z (s.laneBytes g a l)).1
  have lows := fun hm => write_vecWrite_tag (s.group g) a (r + 1) (fun l => (laneValue z (s.laneBytes g a l)).1) hm
  have lanes := fun l (hl : l < 96) =>
    write_vecWrite_lane (s.group g) a (r + 1) (fun l => (laneValue z (s.laneBytes g a l)).1) hl
  generalize (s.group g).write (Access.vecWrite a (r + 1) fun l => (laneValue z (s.laneBytes g a l)).1) = low at *
  obtain ⟨fs, fq⟩ := write_vecWrite_frame low a r fun l => (laneValue z (s.laneBytes g a l)).2
  refine ⟨fun hm => ⟨write_vecWrite_tag low a r _ hm, ?_⟩, fs.trans es, fun q hr hr' => (fq q hr).trans (eq q hr'),
    fun l hl => ⟨?_, ?_⟩⟩
  · exact (congrArg VReg.tag (fq (r + 1) (by omega))).trans (lows hm)
  · refine (write_vecWrite_lane low a r _ hl).trans ?_
    exact congrArg (Access.laneTaken a l _) (congrArg (fun v : VReg => v.lanes.getD l 0) (eq r (by omega)))
  · exact (congrArg (fun v : VReg => v.lanes.getD l 0) (fq (r + 1) (by omega))).trans (lanes l hl)

/-! ### The events -/

/-- A load that may be performed is performed. -/
theorem exec_loadReturn {id : Nat} (hr : s.result g id .load = none) (ha : s.access g id = some a)
    (hop : a.op = .load z) (hm : s.mayPerform g a = true) (hl : s.loadReady g a = true) (hb : s.loadBarred g = false)
    (he : s.errorLine a true = none) : exec (.loadReturn g id) s = .next (s.performLoad g a z) := by
  show execLoadReturn g id s = _
  simp [execLoadReturn, hr, ha, hop, hm, hl, hb, he, event]

end

/-- What a result leaves in its group. -/
theorem group_finishResult (s : State) (g : Nat) (r : Result) :
    (s.finishResult g r).group g =
      { r.writes.foldl Group.write (s.group g) with
        results := (s.group g).results.filter fun x => x.id != r.id }.lowerCounter r.counter := by
  unfold State.finishResult
  dsimp only
  rw [State.group_harvests, State.modGroup_eq, State.group_setGroup_self]

theorem byte_finishResult (s : State) (g : Nat) (r : Result) (k : Nat) : (s.finishResult g r).byte k = s.byte k := by
  unfold State.finishResult
  exact congrArg (fun m : AMap Byte => m.get 0 k) (State.mem_harvests _ _ _)

/-- Settles O39: a load by what it leaves in its group, a result by `State.finishResult`. -/
theorem loadsReturn : Obligations.LoadsReturn := by
  unfold Obligations.LoadsReturn
  refine ⟨?load, ?served, ?result⟩
  case load =>
    intro s g id a z hr ha hop hm hl hb he
    refine ⟨s.performLoad g a z, exec_loadReturn hr ha hop hm hl hb he, (performLoad_ends s g a z).2, ?_,
      fun r h => performLoad_scalar h, fun r h => performLoad_vec h, fun r h => performLoad_pair h⟩
    rw [(performLoad_ends s g a z).1]
    exact (without_loaded (s.group g) a _).1
  case served =>
    intro s g id r
    refine ⟨fun h => ?_, fun h hb => ?_, fun h => ?_⟩
    · show execLoadReturn g id s = _
      simp [execLoadReturn, h, event]
    · show execStoreAccepted g id s = _
      simp [execStoreAccepted, h, hb, event]
    · show execAtomicReturn g id s = _
      simp [execAtomicReturn, h, event]
  case result =>
    intro s g r rs h
    refine ⟨s.finishResult g r, ?_, byte_finishResult s g r, group_finishResult s g r⟩
    show execResultWrite g s = _
    simp [execResultWrite, h, event]

end Sys2Proof.Claim
end

section
/-! SUPPORT. What the operations on words give, in plain arithmetic (R71, R74 to R77): one lemma for each operation, saying
that its result is the one that claims name. -/

namespace Sys2Proof.Claim

open Machine

/-! ### Sums, products and quotients -/

theorem isSum_add (x y : Word) : isSum x y (x + y) := BitVec.toNat_add x y

theorem isProd_mul (x y : Word) : isProd x y (x * y) := BitVec.toNat_mul x y

/-- An integer that a word holds is the signed value of its word. -/
theorem toInt_ofInt_of_bounds {z : Int} (h0 : -2 ^ 31 ≤ z) (h1 : z < 2 ^ 31) : (BitVec.ofInt 32 z).toInt = z := by
  rw [BitVec.toInt_ofInt]
  exact Int.bmod_eq_of_le (by omega) (by omega)

/-- The bounds of a word's signed value. -/
theorem toInt_bounds (x : Word) : -2 ^ 31 ≤ x.toInt ∧ x.toInt < 2 ^ 31 :=
  ⟨BitVec.le_toInt x, BitVec.toInt_lt⟩

theorem isHighI_mulHigh (x y : Word) : isHighI x y (mulHigh x.toInt y.toInt) := by
  obtain ⟨hx0, hx1⟩ := toInt_bounds x
  obtain ⟨hy0, hy1⟩ := toInt_bounds y
  have h1 : x.toInt * y.toInt ≤ 2 ^ 62 := by nlinarith
  have h0 : -2 ^ 62 ≤ x.toInt * y.toInt := by nlinarith
  exact toInt_ofInt_of_bounds (by omega) (by omega)

theorem isHighN_mulHigh (x y : Word) : isHighN x y (mulHigh x.toNat y.toNat) := by
  have h : x.toNat * y.toNat / 2 ^ 32 < 2 ^ 32 := by
    have := Nat.mul_lt_mul'' x.isLt y.isLt
    omega
  unfold isHighN mulHigh
  rw [show (x.toNat : Int) * y.toNat / 2 ^ 32 = ((x.toNat * y.toNat / 2 ^ 32 : Nat) : Int) by push_cast; rfl,
    BitVec.ofInt_natCast, BitVec.toNat_ofNat, Nat.mod_eq_of_lt h]

/-- The signed quotient of two words lies in a word, but for -2^31 / -1. -/
theorem tdiv_bounds (x y : Word) (h : ¬(x.toInt = -2 ^ 31 ∧ y.toInt = -1)) :
    -2 ^ 31 ≤ x.toInt.tdiv y.toInt ∧ x.toInt.tdiv y.toInt < 2 ^ 31 := by
  obtain ⟨hx0, hx1⟩ := toInt_bounds x
  have hq : (x.toInt.tdiv y.toInt).natAbs = x.toInt.natAbs / y.toInt.natAbs := Int.natAbs_tdiv _ _
  by_cases hy : y.toInt.natAbs ≤ 1
  · have : y.toInt = 0 ∨ y.toInt = 1 ∨ y.toInt = -1 := by omega
    rcases this with e | e | e <;> rw [e] <;> simp <;> omega
  · have : x.toInt.natAbs / y.toInt.natAbs ≤ x.toInt.natAbs / 2 := Nat.div_le_div_left (by omega) (by omega)
    omega

theorem isQuotI_sdivQ (x y : Word) : isQuotI x y (sdivQ x y) := by
  unfold isQuotI sdivQ
  split
  · rfl
  · split
    · next h => rw [h.1, h.2]; rfl
    · next h => exact toInt_ofInt_of_bounds (tdiv_bounds x y h).1 (tdiv_bounds x y h).2

theorem isQuotN_sdivNQ (x y : Word) : isQuotN x y (sdivNQ x y) := by
  unfold isQuotN sdivNQ
  split
  · rfl
  · rw [BitVec.toNat_ofNat]
    exact Nat.mod_eq_of_lt ((Nat.div_le_self _ _).trans_lt x.isLt)

theorem isRem_sremR (x y : Word) : isRem x y (sremR x y) := by
  unfold isRem sremR
  split
  · rfl
  · have hr : x.toInt.tmod y.toInt = x.toInt - x.toInt.tdiv y.toInt * y.toInt := by rw [Int.tmod_def, mul_comm]
    split
    · next h => rw [h.1, h.2]; rfl
    · next hy _ =>
      rw [← hr]
      obtain ⟨hy0, hy1⟩ := toInt_bounds y
      have h0 : y.toInt ≠ 0 := fun e => hy (BitVec.eq_of_toInt_eq e)
      have h : (x.toInt.tmod y.toInt).natAbs < y.toInt.natAbs := by
        rw [Int.natAbs_tmod]
        exact Nat.mod_lt _ (by omega)
      exact toInt_ofInt_of_bounds (by omega) (by omega)

/-! ### Orders, carries and conditions -/

theorem isMinI_pick (x y : Word) : isMinI x y (pick (x.slt y) x y) := by
  unfold isMinI pick
  rw [BitVec.slt_eq_decide]
  by_cases h : x.toInt < y.toInt <;> simp [h] <;> omega

theorem isMaxI_pick (x y : Word) : isMaxI x y (pick (y.slt x) x y) := by
  unfold isMaxI pick
  rw [BitVec.slt_eq_decide]
  by_cases h : y.toInt < x.toInt <;> simp [h] <;> omega

theorem isMinN_pick (x y : Word) : isMinN x y (pick (x.ult y) x y) := by
  unfold isMinN pick
  rw [BitVec.ult_eq_decide]
  by_cases h : x.toNat < y.toNat <;> simp [h] <;> omega

theorem isMaxN_pick (x y : Word) : isMaxN x y (pick (y.ult x) x y) := by
  unfold isMaxN pick
  rw [BitVec.ult_eq_decide]
  by_cases h : y.toNat < x.toNat <;> simp [h] <;> omega

theorem toNat_bit (b : Bool) : (bit b).toNat = if b then 1 else 0 := by cases b <;> rfl

theorem isCarry_bit (x y : Word) : isCarry x y (bit (2 ^ 32 ≤ x.toNat + y.toNat)) := by
  unfold isCarry
  rw [toNat_bit]
  simp only [decide_eq_true_eq]

theorem isBorrow_bit (x y : Word) : isBorrow x y (bit (x.ult y)) := by
  unfold isBorrow
  rw [toNat_bit, BitVec.ult_eq_decide]
  simp only [decide_eq_true_eq]

/-- The conditions of a compare are those of R63. -/
theorem cmpHolds_iff {cc : BitVec 4} (h : cc.toNat ≤ 9) (x y : Word) : cmpHolds cc x y = true ↔ condHolds cc.toNat x y := by
  unfold cmpHolds condHolds
  generalize cc.toNat = c at h
  interval_cases c <;>
    simp [BitVec.slt_eq_decide, BitVec.sle_eq_decide, BitVec.ult_eq_decide, BitVec.ule_eq_decide, BitVec.toNat_inj]

/-! ### Bits -/

theorem isBits_and (x y : Word) : isBits and x y (x &&& y) := fun _ _ => BitVec.getLsbD_and

theorem isBits_or (x y : Word) : isBits or x y (x ||| y) := fun _ _ => BitVec.getLsbD_or

theorem isBits_xor (x y : Word) : isBits xor x y (x ^^^ y) := fun _ _ => BitVec.getLsbD_xor

theorem isBits_andn (x y : Word) : isBits (fun a b => a && !b) x y (x &&& ~~~y) := by
  intro k hk
  simp [hk]

theorem isBrev_reverse (x : Word) : isBrev x x.reverse := by
  intro k hk
  rw [BitVec.getLsbD_reverse, BitVec.getMsbD]
  simp [hk]

/-- The bits that are set are as many as their sum. -/
theorem length_filter_eq_sum (p : Nat → Bool) (l : List Nat) : (l.filter p).length = (l.map fun k => (p k).toNat).sum := by
  induction l with
  | nil => rfl
  | cons k l ih => cases h : p k <;> simp [h, ih, Nat.add_comm]

theorem isPopc_popc (x : Word) : isPopc x (popc x) := by
  unfold isPopc popc
  have h : ((List.range 32).filter fun k => x.getLsbD k).length ≤ 32 := (List.length_filter_le _ _).trans (by simp)
  rw [BitVec.toNat_ofNat, Nat.mod_eq_of_lt (by omega), length_filter_eq_sum]

/-- A number lies between the power of two of its length and half of it. -/
theorem bitLen_bounds {m k : Nat} (h : m < 2 ^ k) : bitLen m ≤ k ∧ m < 2 ^ bitLen m ∧ (m ≠ 0 → 2 ^ (bitLen m - 1) ≤ m) := by
  unfold bitLen
  split
  · next e => subst e; simp
  · next e => exact ⟨(Nat.log2_lt e).2 h, Nat.lt_log2_self, fun _ => Nat.log2_self_le e⟩

theorem isClz_clz (x : Word) : isClz x (clz x) := by
  obtain ⟨hk, hlt, hle⟩ := bitLen_bounds x.isLt
  have hv : (clz x).toNat = 32 - bitLen x.toNat := by
    unfold clz
    rw [BitVec.toNat_ofNat]
    omega
  have e : 32 - (32 - bitLen x.toNat) = bitLen x.toNat := by omega
  unfold isClz
  rw [hv, e]
  refine ⟨by omega, hlt, fun h => ?_⟩
  have h0 : x.toNat ≠ 0 := fun hz => by simp [hz, bitLen] at h
  rw [show 31 - (32 - bitLen x.toNat) = bitLen x.toNat - 1 by omega]
  exact hle h0

/-! ### Shifts -/

theorem isShl_shl (x y : Word) : isShl x y (shl x y) := by
  unfold isShl shl
  rw [BitVec.toNat_shiftLeft, Nat.shiftLeft_eq]
  split
  · next h => exact Nat.mod_eq_zero_of_dvd (Dvd.dvd.mul_left (Nat.pow_dvd_pow 2 h) _)
  · rfl

theorem isShr_shr (x y : Word) : isShr x y (shr x y) := by
  unfold isShr shr
  rw [BitVec.toNat_ushiftRight, Nat.shiftRight_eq_div_pow]
  split
  · next h => exact Nat.div_eq_of_lt (x.isLt.trans_le (Nat.pow_le_pow_right (by omega) h))
  · rfl

/-- Beyond its width a word shifted right with its sign is the sign alone. -/
theorem toInt_ediv_of_width_le (x : Word) {n : Nat} (h : 32 ≤ n) :
    x.toInt / 2 ^ n = if x.getLsbD 31 then -1 else 0 := by
  obtain ⟨h0, h1⟩ := toInt_bounds x
  have hp : (2 : Int) ^ 32 ≤ 2 ^ n := pow_le_pow_right₀ (by omega) h
  have hs : x.getLsbD 31 = decide (x.toInt < 0) := (BitVec.msb_eq_getLsbD_last x).symm.trans BitVec.msb_eq_toInt
  rw [hs]
  by_cases hx : x.toInt < 0
  · rw [if_pos (by simpa using hx)]
    exact Int.ediv_eq_neg_one_of_neg_of_le hx (by omega)
  · rw [if_neg (by simpa using hx)]
    exact Int.ediv_eq_zero_of_lt (by omega) (by omega)

theorem isSra_sra (x y : Word) : isSra x y (sra x y) := by
  unfold isSra sra
  rw [BitVec.toInt_sshiftRight, Int.shiftRight_eq_div_pow]
  push_cast
  split
  · next h => exact toInt_ediv_of_width_le x h
  · rfl

theorem isRot_rot (x y : Word) : isRot x y (rot x y) := by
  intro k hk
  unfold rot
  rw [BitVec.getLsbD_rotateLeft]
  by_cases h : (k + y.toNat) % 32 < y.toNat % 32 % 32
  · rw [decide_eq_true h, cond_true]
    congr 1
    omega
  · rw [decide_eq_false h, cond_false, decide_eq_true (Nat.mod_lt _ (by omega)), Bool.true_and]
    congr 1
    omega

theorem isSext_signExt (x : Word) {n : Nat} (h1 : 1 ≤ n) (h2 : n ≤ 32) : isSext n x (signExt x n) := by
  have e : signExt x n = (x.setWidth n).signExtend 32 := by
    unfold signExt
    ext i hi
    simp only [BitVec.getElem_sshiftRight, BitVec.getElem_signExtend, BitVec.getElem_shiftLeft, BitVec.msb_shiftLeft]
    by_cases h : i < n
    · rw [dif_pos h, dif_pos (by omega), BitVec.getElem_setWidth, decide_eq_false (by omega)]
      simp [show 32 - n + i - (32 - n) = i by omega, ← BitVec.getLsbD_eq_getElem]
    · rw [dif_neg h, dif_neg (by omega), BitVec.msb_eq_getLsbD_last, BitVec.getMsbD, BitVec.getLsbD_setWidth]
      simp [show 32 - 1 - (32 - n) = n - 1 by omega]

  unfold isSext
  rw [e, BitVec.toInt_signExtend_of_le h2, BitVec.toInt_setWidth]

end Sys2Proof.Claim
end

section
/-! SETTLED: O1, O2, O3. Scalar instructions (R71, R74 to R77): `scalar1_ran` and `scalar2_ran` say how one runs, and the
lemmas on words what it gives. -/

namespace Sys2Proof.Claim

open Machine

section
variable {i : BitVec 6 → BitVec 6 → BitVec 6 → Instr} {ea eb t : BitVec 4} {r : Word → Word → Word → Prop}
  {f : Word → Word → Word}

/-- An instruction on two scalars whose result is a relation of its operands. -/
theorem scalar2_of {tag : Group → Nat → BitVec 4} (hr : ∀ x y, r x y (f x y))
    (hi : ∀ d a b s, exec (i d a b) s = scalar2 (i d a b) d a b ea eb f (fun g => tag g a.toNat) s) :
    Scalar2 i ea eb r tag := by
  intro s d a b h
  obtain ⟨t, h1, h2, h3⟩ := scalar2_ran (f := f) (tag := fun g => tag g a.toNat) h
  refine ⟨t, (hi d a b s).trans h1, ?_⟩
  rw [h2]
  exact ⟨hr _ _, rfl, h3⟩

/-- One whose result carries one tag. -/
theorem scalar2_plain (hr : ∀ x y, r x y (f x y))
    (hi : ∀ d a b s, exec (i d a b) s = scalar2 (i d a b) d a b ea eb f (fun _ => t) s) : Scalar2 i ea eb r (plainTag t) :=
  scalar2_of hr hi

/-- One whose result is an address where its first operand is one (R74). -/
theorem scalar2_addr (hr : ∀ x y, r x y (f x y))
    (hi : ∀ d a b s, exec (i d a b) s = scalar2 (i d a b) d a b ea eb f (addrTag a t) s) : Scalar2 i ea eb r (addrOr t) :=
  scalar2_of hr hi

end

section
variable {i : Instr} {d a : BitVec 6} {t : BitVec 4} {r : Word → Word → Prop} {f : Word → Word}

/-- An instruction on one scalar whose result is a relation of its operand. -/
theorem scalar1_of {tag : Group → Nat → BitVec 4} (hr : ∀ x, r x (f x))
    (hi : ∀ s, exec i s = scalar1 i d a f (fun g => tag g a.toNat) s) : Scalar1 i d a r tag := by
  intro s h
  obtain ⟨t, h1, h2, h3⟩ := scalar1_ran (f := f) (tag := fun g => tag g a.toNat) h
  refine ⟨t, (hi s).trans h1, ?_⟩
  rw [h2]
  exact ⟨hr _, rfl, h3⟩

/-- One whose result carries one tag. -/
theorem scalar1_plain (hr : ∀ x, r x (f x)) (hi : ∀ s, exec i s = scalar1 i d a f (fun _ => t) s) :
    Scalar1 i d a r (plainTag t) :=
  scalar1_of hr hi

/-- One whose result is an address where its operand is one (R74). -/
theorem scalar1_addr (hr : ∀ x, r x (f x)) (hi : ∀ s, exec i s = scalar1 i d a f (addrTag a t) s) :
    Scalar1 i d a r (addrOr t) :=
  scalar1_of hr hi

end

section
variable {s : State} {d a b c : BitVec 6}

/-- SSEL takes the value and the tag of the selected source (R74). -/
theorem ssel_ran (h : Issues (.ssel d a b c) { sr := [a.toNat, b.toNat, c.toNat], sw := [d.toNat] } s) :
    ∃ t, exec (.ssel d a b c) s = .next t ∧
      t.g.sreg d.toNat = (if s.g.sval c.toNat = 0 then s.g.sreg b.toNat else s.g.sreg a.toNat) ∧
      Ran (.ssel d a b c) .seq s t [d.toNat] [] 0 [] := by
  unfold exec execSsel
  refine performG_ran h rfl (s.g.setS_regsOnly d.toNat _ _ [d.toNat] [] (by simp)) (by simp) fun t hran hs => ⟨?_, hran⟩
  rw [hs, Group.sreg_setS_self, apply_ite s.g.sreg]

/-- SLIT takes its literal under its tag (R77). -/
theorem slit_ran {tag : BitVec 4} {lit : Word} (h : Issues (.slit d tag lit) { sw := [d.toNat] } s) :
    ∃ t, exec (.slit d tag lit) s = .next t ∧ t.g.sreg d.toNat = ⟨lit, tag⟩ ∧
      Ran (.slit d tag lit) .seq s t [d.toNat] [] 0 [] := by
  unfold exec execSlit
  refine performG_ran h rfl (s.g.setS_regsOnly d.toNat _ _ [d.toNat] [] (by simp)) (by simp) fun t hran hs => ⟨?_, hran⟩
  rw [hs, Group.sreg_setS_self]

end

/-- Settles O1: each instruction by how those of its shape run, and by what its operation on words gives. -/
theorem scalarOperations : Obligations.ScalarOperations := by
  unfold Obligations.ScalarOperations
  refine ⟨⟨?sadd, ?ssub, ?smul, ?smulhi, ?smulhn, ?smin, ?smax, ?sminn, ?smaxn, ?saddc, ?ssubb⟩,
    ⟨?sand, ?sor, ?sxor, ?sandn, ?sclz, ?spopc, ?sbrev, ?sext⟩,
    ?scmp, ?ssel, ?smov, ?slit, ?saddImm, ?sandImm, ?sshlImm, ?sshrImm, ?ssraImm, ?srotImm,
    ?saddLit, ?sandLit, ?sorLit, ?sxorLit, ?smulLit⟩
  case sadd => exact scalar2_addr isSum_add fun _ _ _ _ => rfl
  case ssub => exact scalar2_addr isDiff_sub fun _ _ _ _ => rfl
  case smul => exact scalar2_plain isProd_mul fun _ _ _ _ => rfl
  case smulhi => exact scalar2_plain isHighI_mulHigh fun _ _ _ _ => rfl
  case smulhn => exact scalar2_plain isHighN_mulHigh fun _ _ _ _ => rfl
  case smin => exact scalar2_plain isMinI_pick fun _ _ _ _ => rfl
  case smax => exact scalar2_plain isMaxI_pick fun _ _ _ _ => rfl
  case sminn => exact scalar2_plain isMinN_pick fun _ _ _ _ => rfl
  case smaxn => exact scalar2_plain isMaxN_pick fun _ _ _ _ => rfl
  case saddc => exact scalar2_plain isCarry_bit fun _ _ _ _ => rfl
  case ssubb => exact scalar2_plain isBorrow_bit fun _ _ _ _ => rfl
  case sand => exact scalar2_addr isBits_and fun _ _ _ _ => rfl
  case sor => exact scalar2_plain isBits_or fun _ _ _ _ => rfl
  case sxor => exact scalar2_plain isBits_xor fun _ _ _ _ => rfl
  case sandn => exact scalar2_plain isBits_andn fun _ _ _ _ => rfl
  case sclz => exact fun d a => scalar1_plain isClz_clz fun _ => rfl
  case spopc => exact fun d a => scalar1_plain isPopc_popc fun _ => rfl
  case sbrev => exact fun d a => scalar1_plain isBrev_reverse fun _ => rfl
  case sext => exact fun d a n hn => scalar1_plain (fun x => isSext_signExt x hn.1 hn.2) fun _ => rfl
  case scmp =>
    intro cc hcc
    refine scalar2_plain (f := fun x y => bit (cmpHolds cc x y)) (fun x y => ?_) fun _ _ _ _ => rfl
    rw [← cmpHolds_iff hcc, Bool.not_eq_true]
    exact ⟨fun h => congrArg bit h, fun h => congrArg bit h⟩
  case ssel => exact fun s d a b c h => ssel_ran h
  case smov => exact fun d a => scalar1_of (fun _ => rfl) fun _ => rfl
  case slit => exact fun s d tag lit h => slit_ran h
  case saddImm => exact fun d a imm => scalar1_addr (isSum_add · _) fun _ => rfl
  case sandImm => exact fun d a imm => scalar1_addr (isBits_and · _) fun _ => rfl
  case sshlImm => exact fun d a n => scalar1_plain (isShl_shl · _) fun _ => rfl
  case sshrImm => exact fun d a n => scalar1_plain (isShr_shr · _) fun _ => rfl
  case ssraImm => exact fun d a n => scalar1_plain (isSra_sra · _) fun _ => rfl
  case srotImm => exact fun d a n => scalar1_plain (isRot_rot · _) fun _ => rfl
  case saddLit => exact fun d a lit => scalar1_addr (isSum_add · _) fun _ => rfl
  case sandLit => exact fun d a lit => scalar1_addr (isBits_and · _) fun _ => rfl
  case sorLit => exact fun d a lit => scalar1_plain (isBits_or · _) fun _ => rfl
  case sxorLit => exact fun d a lit => scalar1_plain (isBits_xor · _) fun _ => rfl
  case smulLit => exact fun d a lit => scalar1_plain (isProd_mul · _) fun _ => rfl

/-- Settles O2: the quotients and the remainder by what they are as integers. -/
theorem scalarDivision : Obligations.ScalarDivision :=
  ⟨scalar2_plain isQuotI_sdivQ fun _ _ _ _ => rfl,
    scalar2_plain isQuotN_sdivNQ fun _ _ _ _ => rfl,
    scalar2_plain isRem_sremR fun _ _ _ _ => rfl⟩

/-- Settles O3: the shifts and the rotate by what they are for every count. -/
theorem scalarShifts : Obligations.ScalarShifts :=
  ⟨scalar2_plain isShl_shl fun _ _ _ _ => rfl,
    scalar2_plain isShr_shr fun _ _ _ _ => rfl,
    scalar2_plain isSra_sra fun _ _ _ _ => rfl,
    scalar2_plain isRot_rot fun _ _ _ _ => rfl⟩

end Sys2Proof.Claim
end

section
/-! SETTLED: O4. The mask instructions (R15, R86): what reads as written of a triple and of xm, and what each instruction
leaves. -/

namespace Sys2Proof.Claim

open Machine

/-! ### Triples and xm -/

/-- The execution mask lies in s61 to s63, in a handler too (R15). -/
theorem xm_eq_triple (g : Group) : g.xm = g.triple 61 := by
  unfold Group.xm Group.triple Group.sval Group.sreg
  simp

/-- The number of a triple beside another reads as before. -/
theorem sreg_setTriple_of_notMem (g : Group) {r q : Nat} (m : LaneMask) (h : q < r ∨ r + 2 < q) :
    (g.setTriple r m).sreg q = g.sreg q := by
  unfold Group.setTriple
  rw [Group.sreg_setS_ne _ _ _ _ _ (by omega), Group.sreg_setS_ne _ _ _ _ _ (by omega),
    Group.sreg_setS_ne _ _ _ _ _ (by omega)]

/-- A triple below another reads as before. -/
theorem triple_setTriple_of_lt (g : Group) {r q : Nat} (m : LaneMask) (h : q + 2 < r) :
    (g.setTriple r m).triple q = g.triple q := by
  unfold Group.triple Group.sval
  rw [sreg_setTriple_of_notMem g m (by omega), sreg_setTriple_of_notMem g m (by omega),
    sreg_setTriple_of_notMem g m (by omega)]

/-- Reading a triple of a state whose scalars are those of a group. -/
theorem triple_congr {g h : Group} (hs : ∀ r, g.sreg r = h.sreg r) (r : Nat) : g.triple r = h.triple r := by
  unfold Group.triple Group.sval
  rw [hs, hs, hs]

/-- A triple takes the mask written, and its words the tag mask. -/
theorem tookMask_setTriple {t : State} {g : Group} {d : BitVec 6} {m : LaneMask}
    (hs : ∀ r, t.g.sreg r = (g.setTriple d.toNat m).sreg r) : TookMask t d m := by
  obtain ⟨k0, k1, k2⟩ := g.sreg_setTriple d.toNat m
  refine ⟨(triple_congr hs _).trans (g.triple_setTriple _ _), ?_⟩
  simp only [List.forall_mem_cons, hs, k0, k1, k2]
  simp

/-! ### The instructions -/

/-- A mask instruction on two triples whose mask is lane by lane a function of theirs. -/
theorem mask2_of {i : BitVec 6 → BitVec 6 → BitVec 6 → Instr} {f : Bool → Bool → Bool} {h : LaneMask → LaneMask → LaneMask}
    (hf : ∀ x y l, l < 96 → (h x y).getLsbD l = f (x.getLsbD l) (y.getLsbD l))
    (hi : ∀ d a b s, exec (i d a b) s = mask2 (i d a b) d a b h s) : Mask2 i f := by
  intro s d a b hs
  obtain ⟨t, h1, h2, h3, h4⟩ := mask2_ran (f := h) hs
  exact ⟨t, _, (hi d a b s).trans h1, ⟨h2, h3⟩, hf _ _, h4⟩

section
variable {i : Instr} {n : Info} {s : State} {d : BitVec 6} (h : Issues i n s)
include h

/-- An instruction that writes a mask to a triple. -/
theorem tripleWrite_ran (m : Group → LaneMask) :
    ∃ t, performG i n (pureG fun g => g.setTriple d.toNat (m g)) s = .next t ∧ TookMask t d (m s.g) ∧
      Ran i .seq s t (tripleRegs d) [] 0 [] :=
  performG_ran h rfl (s.g.setTriple_regsOnly _ _ (tripleRegs d) [] (by simp [tripleRegs])) (by simp)
    fun _ hran hs => ⟨tookMask_setTriple hs, hran⟩

/-- An instruction that writes a count or a condition of masks to a scalar, as n32. -/
theorem countWrite_ran {v : Group → Word} {r : Nat} (hv : (v s.g).toNat = r) :
    ∃ t, performG i n (pureG fun g => g.setS d.toNat (v g) 2) s = .next t ∧ (t.g.sreg d.toNat).tag = 2 ∧
      (t.g.sreg d.toNat).val.toNat = r ∧ Ran i .seq s t [d.toNat] [] 0 [] := by
  refine performG_ran h rfl (s.g.setS_regsOnly d.toNat _ _ [d.toNat] [] (by simp)) (by simp) fun t hran hs => ?_
  rw [hs, Group.sreg_setS_self]
  exact ⟨rfl, hv, hran⟩

end

/-- A number of lanes is what its word holds. -/
theorem toNat_ofNat_of_le {k : Nat} (h : k ≤ 96) : (BitVec.ofNat 32 k).toNat = k :=
  (BitVec.toNat_ofNat _ _).trans (Nat.mod_eq_of_lt (by omega))

/-- The lowest lane of a mask, or 96 (R86). -/
theorem headD_lanesOf (m : LaneMask) : (lanesOf m).headD 96 ≤ 96 ∧
    if m = 0 then (lanesOf m).headD 96 = 96
    else m.getLsbD ((lanesOf m).headD 96) = true ∧ ∀ l, l < (lanesOf m).headD 96 → m.getLsbD l = false := by
  have e : (lanesOf m).headD 96 = ((List.range 96).find? fun l => m.getLsbD l).getD 96 := by
    rw [List.headD_eq_head?_getD, lanesOf, laneList, List.head?_filter]
  rw [e]
  cases hf : (List.range 96).find? fun l => m.getLsbD l with
  | none =>
    have hm : m = 0 := BitVec.eq_of_getLsbD_eq fun l hl => by
      simpa using List.find?_range_eq_none.1 hf l hl
    exact ⟨le_rfl, by rw [if_pos hm]; rfl⟩
  | some k =>
    obtain ⟨hk, hlt, hmin⟩ := List.find?_range_eq_some.1 hf
    have hm : m ≠ 0 := fun e => by simp [e] at hk
    rw [if_neg hm]
    exact ⟨(List.mem_range.1 hlt).le, hk, fun l hl => by simpa using hmin l hl⟩

/-- The word of MTEST. -/
theorem toNat_bits (p q : Bool) : (bit p + 2 * bit q).toNat = (if p then 1 else 0) + if q then 2 else 0 := by
  cases p <;> cases q <;> rfl

/-- MSETX saves xm, then narrows it (R86). -/
theorem msetx_ran {s : State} {d a : BitVec 6} (hd : d.toNat ≤ 58)
    (h : Issues (.msetx d a) { infoM a with sw := tripleRegs d ++ [61, 62, 63], mask := true } s) :
    ∃ t, exec (.msetx d a) s = .next t ∧ TookMask t d s.g.xm ∧ TookMask t 61 (s.g.xm &&& s.g.triple a.toNat) ∧
      t.g.xm = s.g.xm &&& s.g.triple a.toNat ∧
      Ran (.msetx d a) .seq s t (tripleRegs d ++ [61, 62, 63]) [] 0 [] := by
  unfold exec execMsetx
  have hr := (s.g.setTriple_regsOnly d.toNat s.g.xm (tripleRegs d) [] (by simp [tripleRegs])).trans
    (Group.setTriple_regsOnly _ 61 (s.g.xm &&& s.g.triple a.toNat) [61, 62, 63] [] (by simp))
  refine performG_ran h rfl hr (by simp) fun t hran hs => ?_
  have hx : TookMask t 61 (s.g.xm &&& s.g.triple a.toNat) := tookMask_setTriple hs
  refine ⟨⟨?_, ?_⟩, hx, (xm_eq_triple _).trans hx.1, hran⟩
  · rw [triple_congr hs, triple_setTriple_of_lt _ _ (by omega), Group.triple_setTriple]
  · obtain ⟨k0, k1, k2⟩ := s.g.sreg_setTriple d.toNat s.g.xm
    simp only [List.forall_mem_cons, hs, sreg_setTriple_of_notMem _ _ (Or.inl (show d.toNat < 61 by omega)),
      sreg_setTriple_of_notMem _ _ (Or.inl (show d.toNat + 1 < 61 by omega)),
      sreg_setTriple_of_notMem _ _ (Or.inl (show d.toNat + 2 < 61 by omega)), k0, k1, k2]
    simp

/-- Settles O4: the instructions on two triples by their lanes, the others by the triple or the scalar that they write. -/
theorem maskInstructions : Obligations.MaskInstructions := by
  unfold Obligations.MaskInstructions
  refine ⟨?mand, ?mor, ?mxor, ?mandn, ?mnot, ?mpopc, ?mfirst, ?msetx, ?mgetx, ?mtest⟩
  case mand => exact mask2_of (fun _ _ _ _ => BitVec.getLsbD_and) fun _ _ _ _ => rfl
  case mor => exact mask2_of (fun _ _ _ _ => BitVec.getLsbD_or) fun _ _ _ _ => rfl
  case mxor => exact mask2_of (fun _ _ _ _ => BitVec.getLsbD_xor) fun _ _ _ _ => rfl
  case mandn => exact mask2_of (h := fun x y => x &&& ~~~y) (fun x y l hl => by simp [hl]) fun _ _ _ _ => rfl
  case mnot => exact fun s d a h => tripleWrite_ran h fun g => ~~~g.triple a.toNat
  case mpopc =>
    intro s d a h
    refine countWrite_ran h (v := fun g => BitVec.ofNat 32 (popCount (g.triple a.toNat))) ?_
    have : popCount (s.g.triple a.toNat) ≤ 96 := (List.length_filter_le _ _).trans (by simp [laneList])
    exact toNat_ofNat_of_le this
  case mfirst =>
    intro s d a h
    obtain ⟨hle, hfirst⟩ := headD_lanesOf (s.g.triple a.toNat)
    obtain ⟨t, h1, htag, hv, h2⟩ := countWrite_ran h
      (v := fun g => BitVec.ofNat 32 ((lanesOf (g.triple a.toNat)).headD 96)) (toNat_ofNat_of_le hle)
    refine ⟨t, h1, htag, ?_, h2⟩
    rw [hv]
    exact hfirst
  case msetx => exact fun s d a hd h => msetx_ran hd h
  case mgetx => exact fun s d h => tripleWrite_ran h Group.xm
  case mtest =>
    intro s d a h
    refine countWrite_ran h
      (v := fun g => bit (g.triple a.toNat &&& g.xm != 0) + 2 * bit (g.triple a.toNat &&& g.xm == g.xm)) ?_
    rw [toNat_bits]
    simp only [bne_iff_ne, beq_iff_eq]

end Sys2Proof.Claim
end

section
/-! SETTLED: O26. The checks of a lane's address, in their order (R79, R111, R114), and translation through the TLB (R187,
R188). -/

namespace Sys2Proof.Claim

open Machine

/-- An access wants a permission that is not there. -/
abbrev Denied (rd wr haveR haveW : Bool) : Prop := rd = true ∧ haveR = false ∨ wr = true ∧ haveW = false

section
variable (s : State) (ctx va key : Nat) {rd wr haveR haveW : Bool}

/-- An access without a permission that it needs is a protection fault. -/
theorem permitted_denied (h : Denied rd wr haveR haveW) : s.permitted ctx va key rd wr haveR haveW = .fail 0x0A va :=
  if_pos (by simpa [Denied] using h)

/-- An access with the permissions that it needs names its byte, unless a compaction holds a store. -/
theorem permitted_ok (h : ¬Denied rd wr haveR haveW) (hc : wr = false ∨ s.compacting ctx va = false) :
    s.permitted ctx va key rd wr haveR haveW = .ok va key := by
  unfold State.permitted
  rw [if_neg (by simpa [Denied] using h), if_neg (by rcases hc with h | h <;> simp [h])]

/-- A page of the TLB translates by its own permissions. -/
theorem translate_of_find {k : Nat} {e : TlbEntry}
    (h : ((s.core (coreOf k)).tlb.find? fun x => x.holds (s.group k).ctx va) = some e) :
    s.translate k va rd wr = s.permitted (s.group k).ctx va (e.key va) rd wr e.rd e.wr := by
  unfold State.translate
  dsimp only
  rw [h]

end

section
variable {s : State} {k : Nat} {b : BaseReg} {a : Int} {n : Nat} {rd wr : Bool}

/-- The checks of an access through a base register (R111). -/
theorem baseLane_eq : s.baseLane k b a n rd wr =
    if b.everset = false then .fail 0x0A (a % 2 ^ 64).toNat
    else if a < 0 ∨ 2 ^ 56 ≤ a then .fail 0x0A (a % 2 ^ 64).toNat
    else if a.toNat % n ≠ 0 then .fail 0x0D a.toNat
    else if b.vb.toNat ≤ a.toNat ∧ a.toNat < b.vb.toNat + b.limit then
      s.permitted (s.group k).ctx a.toNat (b.target.key (b.start + (a.toNat - b.vb.toNat))) rd wr b.rd b.wr
    else s.translate k a.toNat rd wr := by
  refine if_congr (by simp) rfl (if_congr ?_ rfl (if_congr Iff.rfl rfl (if_congr ?_ rfl rfl)))
  · simp only [Bool.or_eq_true, decide_eq_true_eq]
  · simp only [Bool.and_eq_true, decide_eq_true_eq]

/-- The checks of an access through an address pair (R79). -/
theorem pairLane_eq (hi : Word) : s.pairLane k hi a rd wr =
    if 2 ^ 24 ≤ hi.toNat ∨ a < 0 ∨ 2 ^ 56 ≤ a then .fail 0x0A (addrVal a)
    else if a.toNat % 4 ≠ 0 then .fail 0x0D a.toNat
    else s.translate k a.toNat rd wr := by
  have hbyte : hi.extractLsb' 24 8 ≠ 0 ↔ 2 ^ 24 ≤ hi.toNat := by
    have := hi.isLt
    rw [Ne, ← BitVec.toNat_inj, BitVec.extractLsb'_toNat, Nat.shiftRight_eq_div_pow]
    change ¬_ = 0 ↔ _
    omega
  refine if_congr ?_ rfl rfl
  simp only [Bool.or_eq_true, decide_eq_true_eq, hbyte, or_assoc]

/-- The checks of a private access (R114). -/
theorem privLane_eq (l : Nat) (w : Int) (m : Nat) : s.privLane k w m l rd wr =
    if w < 0 ∨ ((s.group k).stklim.toNat : Int) ≤ w + m then .fail 0x0B (addrVal w)
    else if 2 ^ 56 ≤ (s.group k).pvbase.toNat + 384 * w.toNat + 4 * l then
      .fail 0x0A ((s.group k).pvbase.toNat + 384 * w.toNat + 4 * l)
    else s.translate k ((s.group k).pvbase.toNat + 384 * w.toNat + 4 * l) rd wr := by
  refine if_congr ?_ rfl rfl
  simp only [Bool.or_eq_true, decide_eq_true_eq]

end

/-- Settles O26: each check by the condition that decides it, those before it passed. -/
theorem addressChecksAndTranslation : Obligations.AddressChecksAndTranslation := by
  unfold Obligations.AddressChecksAndTranslation
  refine ⟨⟨?base, ?pair, ?priv⟩, ?tlb⟩
  case base =>
    intro s k b a n rd wr _
    rw [baseLane_eq]
    unfold inSpace
    have set (h : b.everset = true) : ¬b.everset = false := by simp [h]
    refine ⟨fun h => if_pos h, fun h ha => ?_, fun h ha hn => ?_, fun h ha hn h0 h1 => ?_, fun h ha hn hb => ?_⟩
    · exact (if_neg (set h)).trans (if_pos (by omega))
    · exact (if_neg (set h)).trans ((if_neg (by omega)).trans (if_pos hn))
    · rw [if_neg (set h), if_neg (by omega), if_neg (not_not.2 hn), if_pos ⟨h0, h1⟩]
      exact ⟨permitted_denied _ _ _ _, permitted_ok _ _ _ _⟩
    · rw [if_neg (set h), if_neg (by omega), if_neg (not_not.2 hn), if_neg hb]
  case pair =>
    intro s k hi a rd wr
    rw [pairLane_eq]
    unfold inSpace
    refine ⟨fun h => ⟨_, if_pos (by omega)⟩, fun h ha hn => ?_, fun h ha hn => ?_⟩
    · exact (if_neg (by omega)).trans (if_pos hn)
    · exact (if_neg (by omega)).trans (if_neg (not_not.2 hn))
  case priv =>
    intro s k l w m rd wr a
    rw [privLane_eq]
    refine ⟨fun h => ⟨_, if_pos h⟩, fun h0 h1 ha => ?_, fun h0 h1 ha => ?_⟩
    · exact (if_neg (by omega)).trans (if_pos ha)
    · exact (if_neg (by omega)).trans (if_neg (by omega))
  case tlb =>
    intro s k va e rd wr he
    rw [translate_of_find s va he]
    exact ⟨permitted_denied _ _ _ _, permitted_ok _ _ _ _⟩

end Sys2Proof.Claim
end

section
/-! SUPPORT. What the translation of a base register finds (R185, R188): pages stand at multiples of their size, and the run of
a page ends where it does not go on. -/

namespace Sys2Proof.Machine

variable {s : State}

/-! ### The run of a page -/

/-- A page that a walk finds holds the address, at a multiple of its size. -/
theorem State.walkFrom_page {ctx va lvl table : Nat} {e : TlbEntry} (h : s.walkFrom ctx va lvl table = .ok e) :
    ∃ n, e.va = va / e.size * e.size ∧ e.size = 24576 * n := by
  induction lvl generalizing table with
  | zero => cases h
  | succ lvl ih =>
    unfold State.walkFrom at h
    dsimp only at h
    split_ifs at h
    · cases h
      exact ⟨_, rfl, rfl⟩
    · exact ih h

theorem State.walk_page {ctx va : Nat} {e : TlbEntry} (h : s.walk ctx va = .ok e) :
    ∃ n, e.va = va / e.size * e.size ∧ e.size = 24576 * n := by
  unfold State.walk at h
  dsimp only at h
  split_ifs at h
  exact State.walkFrom_page h

/-- A base page goes on with the run of a page. -/
theorem goesOn_iff {ctx : Nat} {e : TlbEntry} {a start : Nat} (h : start = e.start + (a - e.va)) :
    Claim.goesOn s ctx e a ↔ (a % (24576 * 256) != 0 && (s.walk ctx a).follows e start) = true := by
  subst h
  unfold Claim.goesOn Walk.follows
  cases s.walk ctx a <;> simp [and_assoc]

section
variable {ctx : Nat} {e : TlbEntry} (hs : e.size = 24576)
include hs

/-- The run of a base page ends where the next page does not go on with it. -/
theorem isRunEnd_of_stop {i : Nat} (hi : ∀ j, j < i → Claim.goesOn s ctx e (e.va + e.size + 24576 * j))
    (h : ¬Claim.goesOn s ctx e (e.va + e.size + 24576 * i)) : Claim.IsRunEnd s ctx e (e.va + e.size + 24576 * i) :=
  ⟨i, rfl, by rw [if_pos hs]; exact ⟨hi, h⟩⟩

/-- The search for the end of a run finds it where the 6 MiB region ends in one of the pages that it may take. -/
theorem State.runEnd_isRunEnd (n i : Nat) (hn : ∃ j, i ≤ j ∧ j ≤ i + n ∧ (e.va + e.size + 24576 * j) % (24576 * 256) = 0)
    (hi : ∀ j, j < i → Claim.goesOn s ctx e (e.va + e.size + 24576 * j)) :
    Claim.IsRunEnd s ctx e (s.runEnd ctx e n (e.va + e.size + 24576 * i) (e.start + e.size + 24576 * i)) := by
  obtain ⟨j, hij, hjn, hr⟩ := hn
  induction n generalizing i with
  | zero =>
    obtain rfl : j = i := by omega
    exact isRunEnd_of_stop hs hi fun hg => hg.1 hr
  | succ n ih =>
    have hg := goesOn_iff (s := s) (ctx := ctx) (e := e) (a := e.va + e.size + 24576 * i)
      (start := e.start + e.size + 24576 * i) (by omega)
    unfold State.runEnd
    by_cases h : Claim.goesOn s ctx e (e.va + e.size + 24576 * i)
    · have hne : j ≠ i := fun e => h.1 (e ▸ hr)
      rw [if_pos (hg.1 h), Nat.add_assoc _ (24576 * i), Nat.add_assoc _ (24576 * i), ← Nat.mul_add_one]
      exact ih (i + 1) (fun k hk => (Nat.lt_succ_iff_lt_or_eq.1 hk).elim (hi k) fun e => e ▸ h) (by omega) (by omega)
    · rw [if_neg (mt hg.2 h)]
      exact isRunEnd_of_stop hs hi h

end

/-- The end that a base register takes for the run of its page is the run's. -/
theorem State.setBase_run {ctx va : Nat} {e : TlbEntry} (h : s.walk ctx va = .ok e) :
    Claim.IsRunEnd s ctx e
      (if e.size = 24576 then s.runEnd ctx e 256 (e.va + e.size) (e.start + e.size) else e.va + e.size) := by
  obtain ⟨n, hva, hn⟩ := State.walk_page h
  split
  · next hs =>
    refine State.runEnd_isRunEnd hs 256 0 ⟨255 - va / e.size % 256, by omega, by omega, ?_⟩ nofun
    rw [hs] at hva ⊢
    omega
  · next hs => exact ⟨0, rfl, by rw [if_neg hs]⟩

end Sys2Proof.Machine
end

section
/-! SUPPORT. The reads of a group's walk leave the other groups alone (R194, R198). -/

namespace Sys2Proof.Machine

variable {s t : State} {j : Nat}

theorem State.dropHeld_others (line : Nat) {r : Nat × Nat} (h : j ≠ r.1) : (s.dropHeld line r).group j = s.group j := by
  unfold State.dropHeld
  split
  · rfl
  · refine ite_holds (P := fun t : State => t.group j = s.group j) rfl ?_
    exact ite_holds (P := fun t : State => t.group j = s.group j) (s.group_setGroup_ne _ _ _ h) rfl

theorem State.meetPins_others {c : Nat} {r : Nat × Nat} {k n : Nat} (hj : j ≠ r.1) (h : s.meetPins c r k n = .served t) :
    t.group j = s.group j := by
  unfold State.meetPins at h
  dsimp only at h
  split at h
  · cases h
    rfl
  · split_ifs at h
    cases h
    exact State.dropHeld_others _ hj

theorem State.readReach_others (as : List Nat) {c : Nat} {r : Nat × Nat} {n : Nat} (hj : j ≠ r.1)
    (h : s.readReach c r n as = .served t) : t.group j = s.group j := by
  induction as generalizing s with
  | nil =>
    obtain rfl := Meet.served.inj h
    rfl
  | cons a as ih =>
    unfold State.readReach at h
    split at h
    · next u hu =>
      split at h
      · cases h
      · exact (ih h).trans (((State.l2Serve_memoryOnly _ _).group j).trans
          (show u.group j = _ from State.meetPins_others hj hu))
    · next m hm => exact absurd h (hm t)

theorem State.walkMade_others {k : Nat} (reads : List Nat) (hj : j ≠ k) : (s.walkMade k reads).group j = s.group j := by
  unfold State.walkMade
  split
  · next t h =>
    unfold State.tryWalk at h
    split at h
    · cases h
    · split at h
      · cases h
      · exact State.readReach_others reads hj h
  · rfl

theorem State.freshBase_others {k n : Nat} (hj : j ≠ k) : (s.freshBase k n).group j = s.group j :=
  ite_holds (P := fun t : State => t.group j = s.group j)
    ((State.group_setGroup_ne _ _ _ _ hj).trans (State.walkMade_others _ hj)) rfl

end Sys2Proof.Machine
end

section
/-! SETTLED: O29. Scalar accesses (R79, R225, R234) by the issue of one entry, BTSET by the walk of its address and the run of
its page (R80, R188), BTGET by the scalars that it writes (R81), PREF by its effect (R115). -/

namespace Sys2Proof.Claim

open Machine

variable {s : State}

/-! ### BTSET -/

section
variable {n : BitVec 2} {a : BitVec 6} {perm : BitVec 2}
  (h : Issues (.btset n a perm)
    { sr := [a.toNat, a.toNat + 1], pairs := [⟨true, a.toNat⟩], tags := [(.s a.toNat, 14), (.s (a.toNat + 1), 14)]
      serial := some false } s)
include h

/-- BTSET of no address is a protection fault (R80). -/
theorem btset_outside (hv : 2 ^ 56 ≤ s.g.pairNat a.toNat) :
    exec (.btset n a perm) s = .next (s.raise ⟨0x0A, s.g.pairNat a.toNat, s.g.xm, 0⟩) := by
  unfold exec execBtset
  exact perform_trap h (if_pos hv)

section
variable (hv : s.g.pairNat a.toNat < 2 ^ 56)
include hv

/-- BTSET waits while its walk does not end (R194). -/
theorem btset_waits {v : State}
    (ht : s.walkTurned s.cur (s.g.pairNat a.toNat) (s.baseReads s.g.ctx (BitVec.ofNat 56 (s.g.pairNat a.toNat))) = some v) :
    exec (.btset n a perm) s = .next v := by
  unfold exec execBtset
  refine perform_hold h ?_
  dsimp only
  rw [if_neg (by omega), ht]

/-- BTSET sets its base register once its walk has ended (R80). -/
theorem btset_done
    (ht : s.walkTurned s.cur (s.g.pairNat a.toNat) (s.baseReads s.g.ctx (BitVec.ofNat 56 (s.g.pairNat a.toNat))) = none) :
    let va := s.g.pairNat a.toNat
    let u := s.walkMade s.cur (s.baseReads s.g.ctx (BitVec.ofNat 56 va))
    let b := s.setBase s.g.ctx (BitVec.ofNat 56 va) (perm.getLsbD 0) (perm.getLsbD 1)
    ∃ t, exec (.btset n a perm) s = .next t ∧
      Did (.btset n a perm) .seq s (u.setG { u.g with b := s.g.b.put n.toNat b }) t := by
  intro va u b
  obtain ⟨hc, hm, x, hg⟩ := walked_walkMade s s.cur (s.baseReads s.g.ctx (BitVec.ofNat 56 va))
  have hb : u.g.b = s.g.b := by rw [hg]
  refine did_of (by unfold exec execBtset; rfl) h (u := u.setG _) ?_ ?_ ?_ ?_ fun k => ?_
  · dsimp only
    rw [if_neg (by omega), ht, ← hb]
    rfl
  · rw [State.g_setG, hg]
  · rw [State.g_setG, hg]
  · rw [State.g_setG, hg]
  · exact congrArg (fun m : AMap Byte => m.get 0 k) hm

end
end

section
variable (s : State) (ctx : Nat) {va : Nat} (hv : va < 2 ^ 56) (rd wr : Bool)
include hv

/-- BTSET leaves a base register valid at its address (R80). -/
theorem setBase_set : (s.setBase ctx (BitVec.ofNat 56 va) rd wr).vb.toNat = va ∧
    (s.setBase ctx (BitVec.ofNat 56 va) rd wr).valid = true ∧ (s.setBase ctx (BitVec.ofNat 56 va) rd wr).everset = true := by
  have hva : (BitVec.ofNat 56 va).toNat = va := (BitVec.toNat_ofNat _ _).trans (Nat.mod_eq_of_lt hv)
  unfold State.setBase
  rw [hva]
  cases s.walk ctx va <;> exact ⟨hva, rfl, rfl⟩

/-- A base register at an address that translates takes its page, to the end of the run that it begins (R80, R188). -/
theorem setBase_page {e : TlbEntry} (hw : s.walk ctx va = .ok e) :
    let b := s.setBase ctx (BitVec.ofNat 56 va) rd wr
    b.rd = (rd && e.rd) ∧ b.wr = (wr && e.wr) ∧ b.target = e.target ∧ b.start = e.start + (va - e.va) ∧
      ∃ end_, IsRunEnd s ctx e end_ ∧ b.limit = min (end_ - va) (2 ^ 32 - 1) := by
  have hva : (BitVec.ofNat 56 va).toNat = va := (BitVec.toNat_ofNat _ _).trans (Nat.mod_eq_of_lt hv)
  unfold State.setBase
  rw [hva, hw]
  exact ⟨rfl, rfl, rfl, rfl, _, State.setBase_run hw, rfl⟩

/-- A base register at an address that does not translate has no bytes (R80). -/
theorem setBase_none (hw : ∀ e, s.walk ctx va ≠ .ok e) :
    let b := s.setBase ctx (BitVec.ofNat 56 va) rd wr
    b.limit = 0 ∧ b.rd = rd ∧ b.wr = wr := by
  have hva : (BitVec.ofNat 56 va).toNat = va := (BitVec.toNat_ofNat _ _).trans (Nat.mod_eq_of_lt hv)
  unfold State.setBase
  rw [hva]
  cases he : s.walk ctx va with
  | ok e => exact absurd he (hw e)
  | absent => exact ⟨rfl, rfl, rfl⟩
  | malformed => exact ⟨rfl, rfl, rfl⟩

end

/-! ### BTGET -/

/-- The low word of an address and what lies above it are the address. -/
theorem toNat_words (a : Addr) : (BitVec.ofNat 32 (a.toNat / 2 ^ 32)).toNat * 2 ^ 32 + (a.setWidth 32).toNat = a.toNat := by
  have := a.isLt
  rw [BitVec.toNat_ofNat, BitVec.toNat_setWidth]
  omega

/-- The state of a base register, as BTGET gives it (R81). -/
def stateWord (b : BaseReg) : Word :=
  BitVec.ofNat 32 ((if b.valid then 2 ^ 31 else 0) + (if b.everset then 2 ^ 30 else 0) + (if b.wr then 2 ^ 1 else 0) +
    if b.rd then 2 ^ 0 else 0)

theorem getLsbD_stateWord (b : BaseReg) : ∀ k, k < 32 → (stateWord b).getLsbD k =
    if k = 31 then b.valid else if k = 30 then b.everset else if k = 1 then b.wr else if k = 0 then b.rd else false := by
  unfold stateWord
  generalize b.valid = valid, b.everset = everset, b.wr = wr, b.rd = rd
  revert valid everset wr rd
  decide

section
variable {d : BitVec 6} {n : BitVec 2}

/-- BTGET of the base reads it into an address pair (R81). -/
theorem btget_base (h : Issues (.btget d n 0) { sw := [d.toNat, d.toNat + 1], pairs := [⟨true, d.toNat⟩] } s) :
    ∃ t, exec (.btget d n 0) s = .next t ∧ t.g.pairNat d.toNat = (s.g.base n.toNat).vb.toNat ∧
      (∀ r ∈ [d.toNat, d.toNat + 1], (t.g.sreg r).tag = 14) ∧
      Ran (.btget d n 0) .seq s t [d.toNat, d.toNat + 1] [] 0 [] := by
  let vb := (s.g.base n.toNat).vb
  let low := s.g.setS d.toNat (vb.setWidth 32) 14
  have hr := (s.g.setS_regsOnly d.toNat (vb.setWidth 32) 14 [d.toNat] [] (by simp)).trans
    (low.setS_regsOnly (d.toNat + 1) (BitVec.ofNat 32 (vb.toNat / 2 ^ 32)) 14 [d.toNat + 1] [] (by simp))
  unfold exec execBtget
  refine performG_ran h rfl hr (by simp) fun t hran hs => ?_
  have h0 : t.g.sreg d.toNat = ⟨vb.setWidth 32, 14⟩ :=
    (hs _).trans ((Group.sreg_setS_ne _ _ _ _ _ (by omega)).trans (Group.sreg_setS_self _ _ _ _))
  have h1 : t.g.sreg (d.toNat + 1) = ⟨BitVec.ofNat 32 (vb.toNat / 2 ^ 32), 14⟩ := (hs _).trans (Group.sreg_setS_self _ _ _ _)
  refine ⟨?_, ?_, hran⟩
  · unfold Group.pairNat Group.sval
    rw [h0, h1]
    exact toNat_words vb
  · simp [h0, h1]

/-- BTGET of the limit (R81). -/
theorem btget_limit (h : Issues (.btget d n 1) { sw := [d.toNat] } s) :
    ∃ t, exec (.btget d n 1) s = .next t ∧ t.g.sreg d.toNat = ⟨BitVec.ofNat 32 (s.g.base n.toNat).limit, 2⟩ ∧
      Ran (.btget d n 1) .seq s t [d.toNat] [] 0 [] := by
  unfold exec execBtget
  refine performG_ran h rfl (s.g.setS_regsOnly d.toNat _ _ [d.toNat] [] (by simp)) (by simp) fun t hran hs => ⟨?_, hran⟩
  exact (hs _).trans (Group.sreg_setS_self _ _ _ _)

/-- BTGET of the state: valid, set ever, and the permissions (R81). -/
theorem btget_state (h : Issues (.btget d n 2) { sw := [d.toNat] } s) :
    ∃ t, exec (.btget d n 2) s = .next t ∧
      t.g.sreg d.toNat = ⟨stateWord (s.g.base n.toNat), 0⟩ ∧ Ran (.btget d n 2) .seq s t [d.toNat] [] 0 [] := by
  unfold exec execBtget
  refine performG_ran h rfl (s.g.setS_regsOnly d.toNat _ _ [d.toNat] [] (by simp)) (by simp) fun t hran hs => ⟨?_, hran⟩
  exact (hs _).trans (Group.sreg_setS_self _ _ _ _)

end

/-! ### PREF -/

/-- What a prefetch does to find its base leaves alone: all of its group but the request that a walk holds, the other groups
and memory. -/
structure Looked (s v : State) : Prop where
  cur : v.cur = s.cur
  mem : v.mem = s.mem
  g : ∃ h, v.g = { s.g with walkHeld := h }
  others : ∀ k, k ≠ s.cur → v.group k = s.group k

/-- A base register that is translated again for a prefetch is put back as it was (R115). -/
theorem looked_of_fresh {s u : State} (hc : u.cur = s.cur) (hm : u.mem = s.mem)
    (hg : ∃ b h, u.g = { s.g with b := b, walkHeld := h }) (ho : ∀ k, k ≠ s.cur → u.group k = s.group k) :
    Looked s (u.setG { u.g with b := s.g.b }) := by
  obtain ⟨b, h, hg⟩ := hg
  refine ⟨hc, hm, ⟨h, by rw [State.g_setG, hg]⟩, fun k hk => ?_⟩
  exact (State.group_setG_ne _ _ _ (by rw [hc]; exact hk)).trans (ho k hk)

/-- A prefetch looks for its base, and may then put one load in flight that returns to no register (R115). -/
theorem prefetch_cases (t : BitVec 2) (o : BitVec 7) (x : MlExt) (s : State) : ∃ v, Looked s v ∧
    (prefetch t o x s = v ∨ x.hint = 0 ∧ ∃ y : Access, y.pref = true ∧ y.dest = .none ∧ y.counter = none ∧ y.op = .load 0 ∧
      prefetch t o x s = v.bump.setG { v.g with accesses := v.g.accesses ++ [y] }) := by
  unfold prefetch
  dsimp only
  generalize hu : (if (s.baseTurned s.cur t.toNat).isSome = true then s else s.freshBase s.cur t.toNat) = u
  have hl : Looked s (u.setG { u.g with b := s.g.b }) := by
    obtain ⟨hc, hm, hg⟩ := refreshes_freshBase t.toNat s
    subst hu
    split
    · exact looked_of_fresh rfl rfl ⟨_, _, rfl⟩ fun _ _ => rfl
    · exact looked_of_fresh hc hm hg fun k hk => State.freshBase_others hk
  refine ⟨_, hl, ?_⟩
  split
  · exact .inl rfl
  · next h =>
    simp only [Bool.or_eq_true, bne_iff_ne, not_or, not_not] at h
    obtain ⟨⟨-, hx⟩, -⟩ := h
    exact .inr ⟨hx, _, rfl, rfl, rfl, rfl, rfl⟩

/-- A prefetch changes of its group the request that a walk holds and its accesses alone, and nothing of other groups and of
memory (R115). -/
theorem prefetch_frame (t : BitVec 2) (o : BitVec 7) (x : MlExt) (s : State) :
    (prefetch t o x s).g = { s.g with
      walkHeld := (prefetch t o x s).g.walkHeld, accesses := (prefetch t o x s).g.accesses } ∧
    (∀ k, k ≠ s.cur → (prefetch t o x s).group k = s.group k) ∧ (∀ a, (prefetch t o x s).byte a = s.byte a) ∧
    ((prefetch t o x s).g.accesses = s.g.accesses ∨ x.hint = 0 ∧
      ∃ y, (prefetch t o x s).g.accesses = s.g.accesses ++ [y] ∧ y.pref = true ∧ y.dest = .none ∧ y.counter = none ∧
        y.op = .load 0) := by
  obtain ⟨v, ⟨hc, hm, ⟨h, hg⟩, ho⟩, hv⟩ := prefetch_cases t o x s
  have hb (a : Nat) : v.byte a = s.byte a := congrArg (fun m : AMap Byte => m.get 0 a) hm
  rcases hv with e | ⟨hx, y, h1, h2, h3, h4, e⟩
  · rw [e, hg]
    exact ⟨rfl, ho, hb, .inl rfl⟩
  · rw [e, State.g_setG, hg]
    exact ⟨rfl, fun k hk => (State.group_setG_ne _ _ _ (by rw [← hc] at hk; exact hk)).trans (ho k hk), hb,
      .inr ⟨hx, y, rfl, h1, h2, h3, h4⟩⟩

section
variable {i : Instr} {o : BitVec 7} (h : Issues i { vr := [o.toNat], mask := true } s)
include h

/-- A prefetch completes; with an empty mask it has no effect (R14, R115). -/
theorem pref_did {t : BitVec 2} {x : MlExt} (hi : exec i s = perform i { vr := [o.toNat], mask := true }
      (fun s => .done (if s.g.xm = 0 then s else prefetch t o x s) .seq) s) :
    ∃ u, exec i s = .next u ∧ Did i .seq s (if s.g.xm = 0 then s else prefetch t o x s) u := by
  obtain ⟨hg, -, hb, -⟩ := prefetch_frame t o x s
  by_cases hx : s.g.xm = 0
  · rw [if_pos hx]
    exact did_of hi h (congrArg (Res.done · .seq) (if_pos hx)) rfl rfl rfl fun _ => rfl
  · rw [if_neg hx]
    exact did_of hi h (congrArg (Res.done · .seq) (if_neg hx)) (by rw [hg]) (by rw [hg]) (by rw [hg]) hb

end

/-- Settles O29: each access as one entry, BTSET by how its walk ends, BTGET by its part, PREF by what it leaves alone. -/
theorem scalarAccessesAndBaseRegisters : Obligations.ScalarAccessesAndBaseRegisters := by
  unfold Obligations.ScalarAccessesAndBaseRegisters
  refine ⟨⟨?sld, ?sst, ?wakew⟩, ?btset, ?base, ?limit, ?state, ?pref, ?pref2w, ?prefetch⟩
  case sld => exact fun d a off look => scalarAccess_of (fun _ => rfl) fun _ => .inl rfl
  case sst => exact fun d a off => scalarAccess_of (fun _ => rfl) fun _ => .inr rfl
  case wakew => exact fun a b scope => scalarAccess_of (fun _ => rfl) fun _ => .inr rfl
  case btset =>
    intro s n a perm h
    refine ⟨fun hv ht => ?_, fun v hv ht => btset_waits h hv ht, fun hv => btset_outside h hv⟩
    obtain ⟨t, h1, h2⟩ := btset_done h hv ht
    obtain ⟨hvb, hvalid, hever⟩ := setBase_set s s.g.ctx hv (perm.getLsbD 0) (perm.getLsbD 1)
    refine ⟨t, s.setBase s.g.ctx (BitVec.ofNat 56 (s.g.pairNat a.toNat)) (perm.getLsbD 0) (perm.getLsbD 1), h1, h2, hvb,
      hvalid, hever, ?_⟩
    cases hw : s.walk s.g.ctx (s.g.pairNat a.toNat) with
    | ok e => exact setBase_page s s.g.ctx hv _ _ hw
    | absent => exact setBase_none s s.g.ctx hv _ _ (by rw [hw]; nofun)
    | malformed => exact setBase_none s s.g.ctx hv _ _ (by rw [hw]; nofun)
  case base => exact fun s d n h => btget_base h
  case limit => exact fun s d n h => btget_limit h
  case state =>
    intro s d n h
    obtain ⟨t, h1, h2, h3⟩ := btget_state h
    exact ⟨t, _, h1, h2, getLsbD_stateWord _, h3⟩
  case pref => exact fun s t o h => pref_did h rfl
  case pref2w => exact fun s t o x h => pref_did h rfl
  case prefetch => exact fun s t o x => prefetch_frame t o x s

end Sys2Proof.Claim
end

section
/-! SUPPORT. Promotion and demotion of a group (R161 to R163): what counting a scheduling event and beginning a demotion leave
alone, and each event of the switches by what its group becomes. -/

namespace Sys2Proof.Machine

variable {s : State} {k : Nat}

/-! ### Counting an event -/

/-- Counting an event moves no clock. -/
@[simp] theorem State.countEvent_cycle (s : State) (c k : Nat) (f : CoreEvents → CoreEvents) :
    (s.countEvent c f).cycle k = s.cycle k := by
  unfold State.cycle State.coreCycle State.countEvent
  by_cases h : coreOf k = c
  · simp [h, State.setCore, State.core]
  · simp [h, State.setCore, State.core]

@[simp] theorem State.countEvent_group (s : State) (c k : Nat) (f : CoreEvents → CoreEvents) :
    (s.countEvent c f).group k = s.group k := rfl

@[simp] theorem State.setGroup_cycle (s : State) (j k : Nat) (g : Group) : (s.setGroup j g).cycle k = s.cycle k := rfl

/-- s with the groups and cores of t. -/
def State.switchedAs (s t : State) : State := { s with groups := t.groups, cores := t.cores }

/-- t is s but for its groups and the event counts of its cores. -/
abbrev SwitchOnly (s t : State) : Prop := t = s.switchedAs t

theorem SwitchOnly.trans {s t u : State} (x : SwitchOnly s t) (y : SwitchOnly t u) : SwitchOnly s u := by
  have e : t.switchedAs u = s.switchedAs u := by rw [x]; rfl
  exact Eq.trans y e

theorem State.demote_switchOnly (s : State) (k : Nat) : SwitchOnly s (s.demote k) := by
  unfold State.demote
  split <;> rfl

@[simp] theorem State.demote_cycle (s : State) (j k : Nat) : (s.demote j).cycle k = s.cycle k := by
  unfold State.demote
  split <;> simp

/-- A demotion leaves the other groups alone. -/
theorem State.demote_group_ne (s : State) {j k : Nat} (h : k ≠ j) : (s.demote j).group k = s.group k := by
  unfold State.demote
  split <;> simp [h]

/-! ### PROMOTION_START -/

/-- A group that takes a sprinter slot at a clock (R161). -/
def Group.startsPromotion (g : Group) (now : Nat) : Group :=
  { g with engine := .promoting (now + 12), promotedAt := now, displaced := false, qualAt := none, demoteNext := false }

/-- A group that is tried is not to be demoted. -/
theorem demoteNext_of_tries (h : s.tries k = true) : (s.group k).demoteNext = false := by
  unfold State.tries at h
  simp only [Bool.and_eq_true, Bool.not_eq_true'] at h
  tauto

theorem State.startPromotion_eq (u : State) (h : (u.group k).demoteNext = false) :
    u.startPromotion k = u.setGroup k ((u.group k).startsPromotion (u.cycle k)) := by
  unfold State.startPromotion Group.startsPromotion
  rw [State.modGroup_eq, ← h]

/-- A group w is displaced from its slot (R163). -/
def State.displace (s : State) (core w : Nat) : State :=
  ((s.demote w).modGroup w fun x => { x with displaced := true }).countEvent core fun e =>
    { e with displacements := e.displacements + 1 }

section
variable (ht : s.tries k = true) (ho : s.outranked k = false)
include ht ho

/-- A group that qualifies takes a free slot (R163). -/
theorem exec_promotionStart_free (hf : (s.promoted (coreOf k)).length < 4) :
    exec (.promotionStart k) s = .next (s.setGroup k ((s.group k).startsPromotion (s.cycle k))) := by
  rw [← s.startPromotion_eq (demoteNext_of_tries ht)]
  show execPromotionStart k s = _
  unfold execPromotionStart
  dsimp only
  rw [if_neg (by simp [ht, ho]), if_pos hf]
  rfl

/-- With no slot free a group displaces the weakest one of a lower rank (R163). -/
theorem exec_promotionStart_displaces {w : Nat} (hf : 4 ≤ (s.promoted (coreOf k)).length)
    (hw : s.weakest (coreOf k) = some w) (hr : s.rankOf w < s.rankOf k) :
    exec (.promotionStart k) s = .next ((s.displace (coreOf k) w).startPromotion k) := by
  show execPromotionStart k s = _
  unfold execPromotionStart
  dsimp only
  rw [if_neg (by simp [ht, ho]), if_neg (by omega), hw]
  dsimp only
  rw [if_pos hr]
  rfl

end

/-- A displaced group begins its demotion (R161, R163). -/
theorem State.displace_group (s : State) (core w : Nat) :
    (s.displace core w).group w = { (s.group w).demoted (s.cycle w) with displaced := true } := by
  unfold State.displace
  rw [State.countEvent_group, State.modGroup_eq, State.group_setGroup_self, State.demote_group]

theorem State.displace_group_ne (s : State) (core : Nat) {w k : Nat} (h : k ≠ w) :
    (s.displace core w).group k = s.group k := by
  unfold State.displace
  rw [State.countEvent_group, State.modGroup_eq, State.group_setGroup_ne _ _ _ _ h, State.demote_group_ne s h]

@[simp] theorem State.displace_cycle (s : State) (core w k : Nat) : (s.displace core w).cycle k = s.cycle k := by
  unfold State.displace
  rw [State.countEvent_cycle, State.modGroup_eq, State.setGroup_cycle, State.demote_cycle]

theorem State.displace_mem (s : State) (core w : Nat) : (s.displace core w).mem = s.mem :=
  show (s.demote w).mem = s.mem by rw [s.demote_switchOnly w]; rfl

/-- What the displacement of a group by another leaves. -/
theorem State.displace_startPromotion {core w : Nat} (h : k ≠ w) (hd : (s.group k).demoteNext = false) :
    ((s.displace core w).startPromotion k).group k = (s.group k).startsPromotion (s.cycle k) ∧
      ((s.displace core w).startPromotion k).group w = { (s.group w).demoted (s.cycle w) with displaced := true } ∧
      ((s.displace core w).startPromotion k).mem = s.mem := by
  have hk := s.displace_group_ne core h
  rw [State.startPromotion_eq _ (by rw [hk]; exact hd), hk, State.displace_cycle]
  exact ⟨State.group_setGroup_self _ _ _, (State.group_setGroup_ne _ _ _ _ h.symm).trans (s.displace_group core w),
    s.displace_mem core w⟩

/-! ### The ends of switches -/

/-- A group whose promotion has switched: it sprints, or is demoted where it has left every class or is to be (R161). -/
def Group.switched (g : Group) (leaves : Bool) (now : Nat) : Group :=
  if leaves then { g with engine := .demoting (now + 12), demoteNext := false } else { g with engine := .sprinter }

theorem State.countPromotion_switchOnly (s : State) (k : Nat) : SwitchOnly s (s.countPromotion k) := by
  unfold State.countPromotion
  exact ite_holds (P := SwitchOnly s) rfl rfl

@[simp] theorem State.countPromotion_group (s : State) (j k : Nat) : (s.countPromotion j).group k = s.group k :=
  ite_holds (P := fun t : State => t.group k = s.group k) rfl rfl

@[simp] theorem State.countPromotion_cycle (s : State) (j k : Nat) : (s.countPromotion j).cycle k = s.cycle k :=
  ite_holds (P := fun t : State => t.cycle k = s.cycle k) rfl (by simp)

/-- A promotion switch ends at its clock (R161). -/
theorem exec_promotionSwitchDone {u : Nat} (he : (s.group k).engine = .promoting u) (hu : u ≤ s.cycle k) :
    ∃ t, exec (.promotionSwitchDone k) s = .next t ∧
      t.group k = (s.group k).switched (s.rankOf k == 0 || (s.group k).demoteNext) (s.cycle k) ∧ SwitchOnly s t := by
  let v := (s.countPromotion k).setGroup k { s.group k with engine := .sprinter }
  have hv : SwitchOnly s v := (s.countPromotion_switchOnly k).trans rfl
  refine ⟨if s.rankOf k == 0 || (s.group k).demoteNext then v.demote k else v, ?_, ?_, ?_⟩
  · show execPromotionSwitchDone k s = _
    unfold execPromotionSwitchDone
    rw [he]
    dsimp only
    rw [if_neg (by omega), State.modGroup_eq, State.group_setGroup_self, State.countPromotion_group]
    rfl
  · unfold Group.switched
    split
    · rw [State.demote_group]
      simp [v, Group.demoted]
    · exact State.group_setGroup_self _ _ _
  · exact ite_holds (P := SwitchOnly s) (hv.trans (v.demote_switchOnly k)) hv

/-- A demotion switch ends at its clock, and the group is back in the herd (R161). -/
theorem exec_demotionSwitchDone {u : Nat} (he : (s.group k).engine = .demoting u) (hu : u ≤ s.cycle k) :
    exec (.demotionSwitchDone k) s = .next (s.setGroup k { s.group k with engine := .herd, lastIssue := some (u - 12) }) := by
  show execDemotionSwitchDone k s = _
  unfold execDemotionSwitchDone
  rw [he]
  exact congrArg (event _) (if_neg (by omega))

/-- A group that has not arrived 512 clocks after three quarters of its team becomes a laggard (R162). -/
theorem exec_barrierLaggardQualify {n u : Nat} (hq : (s.barrier (s.group k).team n).quorumAt = some u) (hn : n < 16)
    (hr : (s.group k).resident = true) (hh : (s.group k).halted = false)
    (ha : k ∉ (s.barrier (s.group k).team n).arrived) (hl : n ∉ (s.group k).laggardOf) (hu : u + 512 ≤ s.cycle k) :
    exec (.barrierLaggardQualify k n) s = .next (s.setGroup k { s.group k with
      classes := if (s.group k).classes.contains .laggard then (s.group k).classes else (s.group k).classes ++ [.laggard]
      qualAt := some (s.cycle k), qualHeld := (s.group k).keepsHerd, laggardOf := (s.group k).laggardOf ++ [n] }) := by
  show execBarrierLaggardQualify k n s = _
  unfold execBarrierLaggardQualify
  dsimp only
  rw [hq]
  dsimp only
  rw [if_pos (by simp [*])]
  unfold State.gainClass
  simp only [State.modGroup_eq, State.group_setGroup_self, State.setGroup_setGroup]
  rfl

end Sys2Proof.Machine
end

section
/-! SUPPORT. Phases and wakes of barriers (R178): what reads of a barrier once it is replaced, and who a wake makes ready. -/

namespace Sys2Proof.Machine

variable {s : State} {team n : Nat}

/-! ### A barrier that is replaced -/

/-- A team's barrier reads as it was replaced; a gang's where the gang stands. -/
theorem State.barrier_setBarrier {tm : Team} (ht : s.teams.find? team = some tm)
    (hg : n < 16 ∨ (s.gangs.find? tm.gang).isSome = true) (b : Barrier) : (s.setBarrier team n b).barrier team n = b := by
  unfold State.setBarrier State.barrier
  rw [ht]
  by_cases hn : n < 16
  · simp [hn]
  · obtain ⟨q, hq⟩ := Option.isSome_iff_exists.1 (hg.resolve_left hn)
    simp [hn, ht, AMap.find?_modify, hq]

/-- A barrier at which someone is to be readied stands: its team, and for a gang barrier its gang. -/
theorem barrier_stands (h : s.barrier team n ≠ {}) :
    ∃ tm, s.teams.find? team = some tm ∧ (n < 16 ∨ (s.gangs.find? tm.gang).isSome = true) := by
  unfold State.barrier at h
  split at h
  · exact absurd rfl h
  · next tm ht =>
    refine ⟨tm, ht, or_iff_not_imp_left.2 fun hn => ?_⟩
    rw [if_neg hn] at h
    cases hg : s.gangs.find? tm.gang with
    | none => exact absurd (by rw [hg]; rfl) h
    | some q => rfl

/-- A barrier replaced by one of the same phase leaves every phase as it was. -/
theorem State.phase_setBarrier {b : Barrier} (hb : b.phase = (s.barrier team n).phase) (other m : Nat) :
    ((s.setBarrier team n b).barrier other m).phase = (s.barrier other m).phase := by
  unfold State.setBarrier
  cases ht : s.teams.find? team with
  | none => rfl
  | some tm =>
    unfold State.barrier at hb ⊢
    rw [ht] at hb
    dsimp only at hb ⊢
    by_cases hn : n < 16
    · rw [if_pos hn] at hb ⊢
      by_cases ho : other = team
      · subst ho
        by_cases hm : m = n
        · subst hm
          simp [ht, hn, hb]
        · by_cases h16 : m < 16 <;> simp [ht, hm, h16]
      · simp [ho]
    · rw [if_neg hn] at hb ⊢
      cases hu : s.teams.find? other with
      | none => simp
      | some u =>
        by_cases hg : u.gang = tm.gang
        · rw [← hg] at hb ⊢
          cases hq : s.gangs.find? u.gang with
          | none => simp [AMap.find?_modify, hq]
          | some q =>
            by_cases hm : m = n
            · subst hm
              simpa [hn, AMap.find?_modify, hq] using hb
            · simp [AMap.find?_modify, hq, hm]
        · simp [AMap.find?_modify, hg]

/-- Replacing a barrier leaves of a team what does not stand in its barriers. -/
theorem State.team_setBarrier {α : Type} (f : Team → α)
    (hf : ∀ (t : Team) (x : AMap Barrier), f { t with barriers := x } = f t)
    (b : Barrier) (u : Nat) :
    ((s.setBarrier team n b).teams.find? u).map f = (s.teams.find? u).map f := by
  unfold State.setBarrier
  cases ht : s.teams.find? team with
  | none => rfl
  | some tm =>
    by_cases hn : n < 16
    · by_cases hu : u = team
      · subst hu
        simp [hn, ht, hf]
      · simp [hn, hu]
    · simp [hn]

/-- Replacing a barrier leaves the teams of a gang. -/
theorem State.gangTeams_setBarrier (b : Barrier) (g : Nat) :
    ((s.setBarrier team n b).gangs.find? g).map (·.teams) = (s.gangs.find? g).map (·.teams) := by
  unfold State.setBarrier
  cases s.teams.find? team with
  | none => rfl
  | some tm =>
    by_cases hn : n < 16
    · simp [hn]
    · by_cases hg : g = tm.gang
      · simp [hn, hg, AMap.find?_modify, Function.comp_def]
      · simp [hn, hg, AMap.find?_modify]

/-- Which groups a team has depends on where it lies, and on the groups. -/
theorem State.teamGroups_eq (s : State) (u : Nat) : s.teamGroups u =
    (((s.teams.find? u).map fun t => t.slots.map fun l => 48 * t.core + l).getD []).filter fun k => (s.group k).team == u := by
  unfold State.teamGroups
  cases s.teams.find? u <;> rfl

/-- Replacing a barrier changes nobody's team. -/
theorem State.teamGroups_setBarrier (b : Barrier) (u : Nat) : (s.setBarrier team n b).teamGroups u = s.teamGroups u := by
  rw [State.teamGroups_eq, State.teamGroups_eq, State.team_setBarrier _ (fun _ _ => rfl)]
  simp only [State.group_congr (s.setBarrier_teamsOnly team n b).groups]

theorem State.teamCore_setBarrier (b : Barrier) (u : Nat) : (s.setBarrier team n b).teamCore u = s.teamCore u :=
  congrArg (·.getD 0) (State.team_setBarrier _ (fun _ _ => rfl) b u)

/-- Which groups of a core share a barrier depends on the gang of the team. -/
theorem State.barrierGroups_eq (s : State) (u m core : Nat) : s.barrierGroups u m core =
    if m < 16 then s.teamGroups u
    else (((((s.teams.find? u).map fun t => t.gang).bind fun g => (s.gangs.find? g).map (·.teams)).getD []).filter
      fun v => s.teamCore v == core).flatMap s.teamGroups := by
  unfold State.barrierGroups
  cases s.teams.find? u <;> rfl

theorem State.barrierGroups_setBarrier (b : Barrier) (u m core : Nat) :
    (s.setBarrier team n b).barrierGroups u m core = s.barrierGroups u m core := by
  have hg : (s.setBarrier team n b).teamGroups = s.teamGroups := funext fun v => State.teamGroups_setBarrier b v
  simp only [State.barrierGroups_eq, hg, State.team_setBarrier (fun t => t.gang) (fun _ _ => rfl),
    State.gangTeams_setBarrier, State.teamCore_setBarrier]

/-! ### BARRIER_PHASE_COMPLETE -/

/-- A phase that is due ends, and its waiters are noted (R178). -/
theorem exec_barrierPhaseComplete (hd : (s.barrier team n).due = true) :
    exec (.barrierPhaseComplete team n) s = .next (s.setBarrier team n
      { s.barrier team n with
        phase := (s.barrier team n).phase + 1, arrived := [], due := false, quorumAt := none
        wakeAt := (s.barrierCores team n).foldl
          (fun m c => AMap.put m c (s.coreCycle c + if n < 16 then 4 else 16)) (s.barrier team n).wakeAt }) := by
  show execBarrierPhaseComplete team n s = _
  unfold execBarrierPhaseComplete
  dsimp only
  rw [if_neg (by simp [hd])]
  rfl

/-- A value put at each of some numbers is found there. -/
theorem find?_foldl_put {α : Type} (f : Nat → α) (l : List Nat) (m : AMap α) {k : Nat}
    (h : k ∈ l ∨ AMap.find? m k = some (f k)) : AMap.find? (l.foldl (fun m c => AMap.put m c (f c)) m) k = some (f k) := by
  induction l generalizing m with
  | nil => simpa using h
  | cons c l ih =>
    rw [List.foldl_cons]
    refine ih _ ?_
    by_cases hk : k = c
    · subst hk
      exact .inr (AMap.find?_put_self _ _ _)
    · rw [AMap.find?_put_ne _ _ _ _ hk]
      exact h.imp_left fun h => (List.mem_cons.1 h).resolve_left hk

/-! ### BARRIER_WAKE -/

/-- Whether a group waits at barrier n for a phase that is over. -/
abbrev State.waitsOver (s : State) (n k : Nat) : Prop := (s.group k).wait = .barrier n ∧ s.phaseOver k n = true

theorem State.waitsOver_congr {s t : State} {k : Nat} (hg : t.group k = s.group k)
    (hb : ∀ u, (t.barrier u n).phase = (s.barrier u n).phase) : t.waitsOver n k ↔ s.waitsOver n k := by
  unfold State.waitsOver State.phaseOver
  simp only [hg, hb]

/-- One group of those that a wake names becomes ready at the clock of its core (R178). -/
def State.wakeOne (n c : Nat) (s : State) (k : Nat) : State :=
  if (s.group k).wait == .barrier n && s.phaseOver k n then s.modGroup k fun g => g.wakes (s.coreCycle c) else s

theorem State.wakeOne_eq (c : Nat) (s : State) (k : Nat) :
    s.wakeOne n c k = if s.waitsOver n k then s.setGroup k ((s.group k).wakes (s.coreCycle c)) else s :=
  if_congr (by simp) rfl rfl

/-- What a wake leaves: everything but the groups that wait for a phase that is over, which become ready. -/
theorem State.wakeAll_group (c : Nat) (l : List Nat) (s : State) (k : Nat) :
    (l.foldl (State.wakeOne n c) s).group k =
      if k ∈ l ∧ s.waitsOver n k then (s.group k).wakes (s.coreCycle c) else s.group k := by
  induction l generalizing s with
  | nil => simp
  | cons j l ih =>
    rw [List.foldl_cons, ih, State.wakeOne_eq]
    by_cases hj : s.waitsOver n j
    · rw [if_pos hj]
      by_cases hk : k = j
      · subst hk
        -- a group that has been woken waits no more
        have hn : ¬(s.setGroup k ((s.group k).wakes (s.coreCycle c))).waitsOver n k := fun h => by
          simpa [Group.wakes] using h.1
        rw [if_neg fun h => hn h.2, if_pos ⟨List.mem_cons_self, hj⟩, State.group_setGroup_self]
      · have hg := s.group_setGroup_ne j k ((s.group j).wakes (s.coreCycle c)) hk
        refine if_congr ?_ (congrArg (Group.wakes · (s.coreCycle c)) hg) hg
        rw [State.waitsOver_congr hg fun _ => rfl, List.mem_cons, or_iff_right hk]
    · rw [if_neg hj]
      refine if_congr ?_ rfl rfl
      rw [List.mem_cons, or_and_right]
      exact (or_iff_right fun h : k = j ∧ s.waitsOver n k => hj (h.1 ▸ h.2)).symm

theorem State.wakeAll_rest (c : Nat) (l : List Nat) (s : State) :
    l.foldl (State.wakeOne n c) s = { s with groups := (l.foldl (State.wakeOne n c) s).groups } := by
  induction l generalizing s with
  | nil => rfl
  | cons j l ih =>
    rw [List.foldl_cons, ih, State.wakeOne_eq]
    split <;> rfl

/-- The state in which a wake of barrier n has been taken off those of a team's core. -/
def State.wakeTaken (s : State) (team n c age : Nat) : State :=
  (s.passes (if n < 16 then [] else [c / 32]) 0 age 0).setBarrier team n
    { s.barrier team n with wakeAt := (s.barrier team n).wakeAt.erase c }

section
variable (team n) (c age : Nat)

/-- Taking a wake off changes routers, teams and gangs alone. -/
theorem State.wakeTaken_rest (s : State) : TeamsOnly (s.passes (if n < 16 then [] else [c / 32]) 0 age 0)
    (s.wakeTaken team n c age) :=
  State.setBarrier_teamsOnly _ _ _ _

/-- Who waits for a phase that is over does so once the wake has been taken off. -/
theorem State.wakeTaken_waitsOver (s : State) (k : Nat) : (s.wakeTaken team n c age).waitsOver n k ↔ s.waitsOver n k :=
  State.waitsOver_congr (State.group_congr (s.wakeTaken_rest team n c age).groups k) fun u =>
    State.phase_setBarrier (s := s.passes (if n < 16 then [] else [c / 32]) 0 age 0)
      (b := { s.barrier team n with wakeAt := (s.barrier team n).wakeAt.erase c }) rfl u n

theorem State.wakeTaken_barrierGroups (s : State) (core : Nat) :
    (s.wakeTaken team n c age).barrierGroups team n core = s.barrierGroups team n core :=
  State.barrierGroups_setBarrier (s := s.passes (if n < 16 then [] else [c / 32]) 0 age 0) _ _ _ _

theorem State.wakeTaken_coreCycle (s : State) (core : Nat) : (s.wakeTaken team n c age).coreCycle core = s.coreCycle core := by
  rw [s.wakeTaken_rest team n c age]
  rfl

end

section
variable {u : Nat} (hw : (s.barrier team n).wakeAt.find? (s.teamCore team) = some u)
include hw

/-- A wake whose clock has come makes the groups of its core ready (R178). -/
theorem exec_barrierWake (hu : u ≤ s.coreCycle (s.teamCore team))
    (hp : n < 16 ∨ s.mayPass [s.teamCore team / 32] 0 (s.clock - (s.coreCycle (s.teamCore team) - u)) 0 = true) :
    let c := s.teamCore team
    exec (.barrierWake team n) s = .next ((s.barrierGroups team n c).foldl (State.wakeOne n c)
      (s.wakeTaken team n c (s.clock - (s.coreCycle c - u)))) := by
  have hm : s.mayPass (if n < 16 then [] else [s.teamCore team / 32]) 0
      (s.clock - (s.coreCycle (s.teamCore team) - u)) 0 = true := by
    by_cases hn : n < 16
    · rw [if_pos hn]
      rfl
    · rw [if_neg hn]
      exact hp.resolve_left hn
  intro c
  rw [← s.wakeTaken_barrierGroups team n c (s.clock - (s.coreCycle c - u))]
  show execBarrierWake team n s = _
  unfold execBarrierWake
  dsimp only
  rw [hw]
  dsimp only
  rw [if_neg (by simp [hu, hm])]
  rfl

/-- The wake that has been taken off is gone. -/
theorem wakeAt_wakeTaken (age : Nat) :
    ((s.wakeTaken team n (s.teamCore team) age).barrier team n).wakeAt =
      (s.barrier team n).wakeAt.erase (s.teamCore team) := by
  obtain ⟨tm, ht, hg⟩ := barrier_stands (s := s) (team := team) (n := n) fun e => by simp [e] at hw
  exact congrArg Barrier.wakeAt (State.barrier_setBarrier
    (s := s.passes (if n < 16 then [] else [s.teamCore team / 32]) 0 age 0) ht hg _)

end

end Sys2Proof.Machine
end

section
/-! SUPPORT. The end of groups and teams (R85, R239). -/

namespace Sys2Proof.Machine

variable {s : State}

/-- The registers of a halted group return once its counters read zero, from the clock after its HALT on (R85, R239). -/
theorem exec_groupRegistersReturn {k : Nat} (hr : (s.group k).resident = true) (hh : (s.group k).halted = true)
    (hl : (s.group k).lastIssue ≠ some (s.cycle k)) (hc : ∀ i, i < 8 → (s.group k).counters.get 0 i = 0) :
    exec (.groupRegistersReturn k) s = .next (s.setGroup k { s.group k with resident := false }) := by
  show execGroupRegistersReturn k s = _
  unfold execGroupRegistersReturn
  dsimp only
  rw [if_pos]
  · rfl
  · simpa [hr, hh, hl] using hc

/-- The grids once a team has ended: its own has it among the ended, and those of its context are offered again (R155). -/
def Team.endsIn (t : Team) (n : Nat) (q : Grid) : Grid :=
  if n = t.grid then { q with ended := q.ended ++ [t.index], offered := false }
  else if q.ctx = t.ctx then { q with offered := false } else q

/-- A team whose groups have halted and whose commands have completed ends (R85). -/
theorem exec_teamEnd {team : Nat} {tm : Team} (ht : s.teams.find? team = some tm) (he : tm.ended = false)
    (hh : ∀ l ∈ tm.slots, (s.group (48 * tm.core + l)).team = team → (s.group (48 * tm.core + l)).halted = true)
    (hc : ∀ c ∈ s.cmds, c.2.team ≠ team) :
    exec (.teamEnd team) s = .next { s with
      teams := s.teams.put team { tm with ended := true }
      contexts := s.contexts.modify tm.ctx fun c => { c with saved := c.saved.map fun u => { u with offered := false } }
      grids := s.grids.mapVals tm.endsIn } := by
  have ha : (s.teamAlive team tm).isEmpty = true := by
    simpa [State.teamAlive] using hh
  show execTeamEnd team s = _
  unfold execTeamEnd
  rw [ht]
  dsimp only
  rw [if_neg]
  · rfl
  · simpa [he, ha] using fun a b hm => hc (a, b) hm

/-- The saved teams of one context are offered again, those of the others stay as they are (R155). -/
theorem State.context_withoutOffers (s : State) (c n : Nat) :
    (s.modCtx c fun x => { x with saved := x.saved.map fun u => { u with offered := false } }).context n =
      { s.context n with
        saved := (s.context n).saved.map fun u => if n = c then { u with offered := false } else u } := by
  rw [State.context_modCtx]
  by_cases h : n = c
  · subst h
    unfold State.context
    rw [AMap.get_eq_find?]
    cases AMap.find? s.contexts n <;> simp
  · simp [h]

/-- What a map of the values finds. -/
theorem AMap.find?_mapVals {α : Type} (m : AMap α) (f : Nat → α → α) (k : Nat) :
    AMap.find? (m.mapVals f) k = (AMap.find? m k).map (f k) := by
  induction m with
  | nil => rfl
  | cons p m ih =>
    by_cases h : p.1 = k
    · subst h
      simp [AMap.mapVals, AMap.find?]
    · simpa [AMap.mapVals, AMap.find?, h] using ih

end Sys2Proof.Machine
end

section
/-! SETTLED: O44. Promotion, barriers' phases and wakes, and the ends of groups and teams, each event by its equation. -/

namespace Sys2Proof.Claim

open Machine

/-- Settles O44: the switches by what their group becomes, a phase by what reads of its barrier, a wake by whom it makes ready,
and the ends of groups and teams by their equations. -/
theorem promotionPhasesAndEnds : Obligations.PromotionPhasesAndEnds := by
  unfold Obligations.PromotionPhasesAndEnds
  refine ⟨⟨?start, ?promoted, ?demoted, ?laggard⟩, ?phase, ?gangPhase, ?wake, ?registers, ?team⟩
  case start =>
    intro s k ht ho up
    refine ⟨exec_promotionStart_free ht ho, fun w hf hw hr => ?_⟩
    have hk : k ≠ w := fun e => by subst e; exact Nat.lt_irrefl _ hr
    obtain ⟨h1, h2, h3⟩ := State.displace_startPromotion (core := coreOf k) hk (demoteNext_of_tries ht)
    refine ⟨_, exec_promotionStart_displaces ht ho hf hw hr, h1, h3, fun he => h2.trans ?_, fun u he => h2.trans ?_⟩
    · simp [Group.demoted, he]
    · simp [Group.demoted, he]
  case promoted =>
    intro s k u he hu
    obtain ⟨t, h1, h2, h3⟩ := exec_promotionSwitchDone he hu
    refine ⟨t, h1, h2.trans (if_congr ?_ rfl rfl), h3⟩
    simp
  case demoted => exact fun s k u he hu => exec_demotionSwitchDone he hu
  case laggard =>
    intro s k n u hq hn hr hh ha hl hu
    refine ⟨_, exec_barrierLaggardQualify hq hn hr hh ha hl hu, ?_⟩
    rw [State.group_setGroup_self]
    refine ⟨?_, rfl, rfl⟩
    dsimp only
    split
    · next h => exact List.contains_iff_mem.1 h
    · exact List.mem_append_right _ (List.mem_singleton_self _)
  case phase =>
    intro s team n tm ht hn hd
    refine ⟨_, exec_barrierPhaseComplete hd, (State.setBarrier_teamsOnly _ _ _ _).groups,
      (State.setBarrier_teamsOnly _ _ _ _).mem, ?_⟩
    rw [State.barrier_setBarrier ht (.inl hn)]
    simp [State.barrierCores, State.teamCore, ht, hn]
  case gangPhase =>
    intro s team n tm q ht hq hn hd
    refine ⟨_, exec_barrierPhaseComplete hd, (State.setBarrier_teamsOnly _ _ _ _).groups,
      (State.setBarrier_teamsOnly _ _ _ _).mem, ?_⟩
    rw [State.barrier_setBarrier ht (.inr (by rw [hq]; rfl))]
    refine ⟨rfl, fun u hu => ?_⟩
    have hc : s.teamCore u ∈ s.barrierCores team n := by
      simpa [State.barrierCores, ht, hq, show ¬n < 16 by omega] using ⟨u, hu, rfl⟩
    exact (find?_foldl_put (fun c => s.coreCycle c + if n < 16 then 4 else 16) _ _ (.inl hc)).trans
      (congrArg (fun x => some (s.coreCycle (s.teamCore u) + x)) (if_neg (by omega)))
  case wake =>
    intro s team n u c hw hu hp
    refine ⟨_, exec_barrierWake hw hu hp, ?_, ?_, fun k => ?_⟩
    · rw [State.wakeAll_rest]
      exact (s.wakeTaken_rest team n c _).mem
    · rw [State.wakeAll_rest]
      exact wakeAt_wakeTaken hw _
    · rw [State.wakeAll_group, State.wakeTaken_coreCycle]
      have hg := State.group_congr (s.wakeTaken_rest team n c (s.clock - (s.coreCycle c - u))).groups k
      refine if_congr ?_ (congrArg (Group.wakes · (s.coreCycle c)) hg) hg
      exact and_congr_right fun _ => s.wakeTaken_waitsOver team n c _ k
  case registers => exact fun s k hr hh hl hc => exec_groupRegistersReturn hr hh hl hc
  case team =>
    intro s team tm ht he hh hc
    refine ⟨_, exec_teamEnd ht he hh hc, rfl, rfl, fun n => ?_, fun q hq => ?_⟩
    · exact State.context_withoutOffers s tm.ctx n
    · rw [AMap.find?_mapVals, hq]
      simp [Team.endsIn]

end Sys2Proof.Claim
end

section
/-! SETTLED: O13. FP32 and packed 16-bit arithmetic (R93 to R97, R100): each instruction is one of the shapes `vec2`, `vec1`,
`vecRun` and `cmpRun`, and the lemma of its shape says what it does. The mode of no suffix is that of GCTL; a packed type
fixes format, tag and counter. -/

namespace Sys2Proof.Claim

open Machine

section
variable {i : Instr} {d a : BitVec 7} {b : Src} {rm : BitVec 3}

/-- FP32 arithmetic on v(a) and B in a mode (R94). -/
theorem vecF2_fpArith {f : RMode → FpVal → FpVal → Nat × Flags} (hi : ∀ s, exec i s = fpArith i d a b f rm s) :
    VecF2 i d a b 3 3 3 (fun g => fp2 (f (RMode.ofField g.rm rm)) g) (some (24, 1)) :=
  vecF2_of hi

/-- Packed arithmetic on v(a) and B in a mode: the type gives the format, the tag and the counter (R100). -/
theorem vecF2_halfArith {f : Fmt → RMode → FpVal → FpVal → Nat × Flags} {ty : BitVec 4}
    (hi : ∀ s, exec i s = halfArith i d a b ty rm f s) :
    VecF2 i d a b (halfTag ty) (halfTag ty) (halfTag ty)
      (fun g => half2 (halfFmt ty) (f (halfFmt ty) (RMode.ofField g.rm rm))) (halfCount ty 2) :=
  vecF2_of hi

end

/-- Settles O13, each instruction by the lemma of its shape. -/
theorem fpElementwise : Obligations.FpElementwise := by
  unfold Obligations.FpElementwise
  refine ⟨fun d a b rm => ⟨?fadd, ?fsub, ?fmul, ?faddRm, ?fsubRm, ?fmulRm, ?haddB, ?haddF, ?hmulB, ?hmulF, ?haddRmF,
    ?haddRmB, ?hmulRmF, ?hmulRmB⟩, ?ffma, ?hfma2, ?fmin, ?fmax, ?fscale, ?fclass, ?frnd, ?fcmp⟩
  case fadd => exact vecF2_fpArith (f := Fmt.fp32.add) (rm := 0) fun _ => rfl
  case fsub => exact vecF2_fpArith (f := Fmt.fp32.sub) (rm := 0) fun _ => rfl
  case fmul => exact vecF2_fpArith (f := Fmt.fp32.mul) (rm := 0) fun _ => rfl
  case faddRm => exact vecF2_fpArith fun _ => rfl
  case fsubRm => exact vecF2_fpArith fun _ => rfl
  case fmulRm => exact vecF2_fpArith fun _ => rfl
  case haddB => exact vecF2_halfArith (f := Fmt.add) (ty := 8) (rm := 0) fun _ => rfl
  case haddF => exact vecF2_halfArith (f := Fmt.add) (ty := 9) (rm := 0) fun _ => rfl
  case hmulB => exact vecF2_halfArith (f := Fmt.mul) (ty := 8) (rm := 0) fun _ => rfl
  case hmulF => exact vecF2_halfArith (f := Fmt.mul) (ty := 9) (rm := 0) fun _ => rfl
  case haddRmB => exact vecF2_halfArith (f := Fmt.add) (ty := 8) fun _ => rfl
  case haddRmF => exact vecF2_halfArith (f := Fmt.add) (ty := 9) fun _ => rfl
  case hmulRmB => exact vecF2_halfArith (f := Fmt.mul) (ty := 8) fun _ => rfl
  case hmulRmF => exact vecF2_halfArith (f := Fmt.mul) (ty := 9) fun _ => rfl
  case ffma => exact fun d a b c rm => lanes_of fun _ => rfl
  case hfma2 => exact fun d a b c rm ty _ => lanes_of fun _ => rfl
  case fmin => exact fun d a b => vecF2_of fun _ => rfl
  case fmax => exact fun d a b => vecF2_of fun _ => rfl
  case fscale => exact fun d a b => vecF2_of fun _ => rfl
  case fclass => exact fun d a => vecF1_of fun _ => rfl
  case frnd => exact fun d a rm => vecF1_of fun _ => rfl
  case fcmp => exact fun d a b cc _ => compares_of fun _ => rfl

end Sys2Proof.Claim
end

section
/-! SETTLED: O15. Conversion, packing, unpacking and tags (R30, R101, R103, R104). The element that an unpack takes is a bit
field of its lane, and what it writes is that field, extended as the type's sign says. -/

namespace Sys2Proof.Claim

open Machine

/-! ### Unpacking (R103) -/

/-- A number of so many bits, wrapped as a signed one, is the signed value of its bits (R33). -/
theorem wrapInt_toNat {w : Nat} (h : 0 < w) (x : BitVec w) : wrapInt w true x.toNat = x.toInt := by
  have hx := x.isLt
  have hp : (2 : Nat) ^ w = 2 * 2 ^ (w - 1) := by rw [← pow_succ', Nat.sub_add_cancel h]
  have hm : (x.toNat : Int) % 2 ^ w = x.toNat := by
    exact_mod_cast congrArg Nat.cast (Nat.mod_eq_of_lt hx)
  have hc : (2 : Int) ^ (w - 1) ≤ x.toNat ↔ ¬2 * x.toNat < 2 ^ w := by
    rw [hp]
    exact_mod_cast show 2 ^ (w - 1) ≤ x.toNat ↔ _ by omega
  unfold wrapInt
  rw [BitVec.toInt_eq_toNat_cond]
  simp only [hm, Bool.true_and, decide_eq_true_eq, hc, ite_not]
  push_cast
  rfl

theorem unpackTag_signed (ty : BitVec 4) : unpackTag ty = 1 ↔ ty = 3 ∨ ty = 5 := by
  revert ty
  decide

/-- A field of bits extended as an unpack's type says: by its sign for i16 and i8, else by zeros (R103). -/
theorem extendBits_toNat (ty : BitVec 4) {w : Nat} (h : 0 < w) (x : BitVec w) :
    extendBits ty w x.toNat = if ty = 3 ∨ ty = 5 then x.signExtend 32 else x.setWidth 32 := by
  unfold extendBits
  refine if_congr (unpackTag_signed ty) ?_ (BitVec.ofNat_toNat 32 x)
  rw [wrapInt_toNat h]
  rfl

/-- An unpack of elements of w bits, element k counted from the lowest (R30, R103). -/
theorem vec1_unpack {i : BitVec 7 → BitVec 7 → Instr} {ty : BitVec 4} {w k : Nat} (hw : 0 < w)
    (hi : ∀ d a s, exec (i d a) s =
      vec1 (i d a) d a 0 (unpackTag ty) (fun _ x => (extendBits ty w (x.toNat / 2 ^ (w * k) % 2 ^ w), 0)) none s) :
    Vec1 i 0
      (fun x v => if ty = 3 ∨ ty = 5 then v = (x.extractLsb' (w * k) w).signExtend 32
        else v = (x.extractLsb' (w * k) w).setWidth 32) (unpackTag ty) := by
  refine vec1_of hi (fun _ _ => rfl) fun _ x => ?_
  have e := extendBits_toNat ty hw (x.extractLsb' (w * k) w)
  rw [BitVec.extractLsb'_toNat, Nat.shiftRight_eq_div_pow] at e
  dsimp only
  rw [e]
  split <;> rfl

/-! ### Tags (R104) -/

/-- A group with a vector register replaced. -/
theorem putV_regsOnly (g : Group) (r : Nat) (x : VReg) : RegsOnly g { g with v := g.v.put r x } [] [r] :=
  ⟨rfl, fun _ _ => rfl, fun _ _ => rfl, fun _ hq => AMap.get_put_ne _ _ _ _ _ (by simpa using hq)⟩

section
variable {s : State} {tag : BitVec 4}

theorem tagrd_ran {d : BitVec 6} {b : Src} (h : Issues (.tagrd d b) { sr := b.sregs, vr := b.vregs, sw := [d.toNat] } s) :
    ∃ t, exec (.tagrd d b) s = .next t ∧ t.g.sreg d.toNat = ⟨(s.g.btag b).setWidth 32, 2⟩ ∧
      Ran (.tagrd d b) .seq s t [d.toNat] [] 0 [] := by
  obtain ⟨t, h1, h2, h3, _⟩ := performG_pure (f := fun g => g.setS d.toNat ((g.btag b).setWidth 32) 2) h
    (s.g.setS_regsOnly d.toNat _ _ [d.toNat] [] (by simp)) (by simp)
  exact ⟨t, h1, by simp [h3], h2⟩

/-- TAGWR of a vector keeps its lanes. -/
theorem tagwr_vector_ran {r : BitVec 7} (h : Issues (.tagwr (.v r) tag) { vw := [r.toNat] } s) :
    ∃ t, exec (.tagwr (.v r) tag) s = .next t ∧ t.g.vreg r.toNat = { s.g.vreg r.toNat with tag := tag } ∧
      Ran (.tagwr (.v r) tag) .seq s t [] [r.toNat] 0 [] := by
  obtain ⟨t, h1, h2, _, h4⟩ := performG_pure
    (f := fun g => { g with v := g.v.put r.toNat { g.vreg r.toNat with tag := tag } }) h (putV_regsOnly _ _ _) rfl
  exact ⟨t, h1, (h4 _).trans (AMap.get_put_self _ _ _ _), h2⟩

/-- TAGWR of a scalar keeps its value. -/
theorem tagwr_scalar_ran {r : BitVec 6} (h : Issues (.tagwr (.s r) tag) { sw := [r.toNat] } s) :
    ∃ t, exec (.tagwr (.s r) tag) s = .next t ∧ t.g.sreg r.toNat = ⟨s.g.sval r.toNat, tag⟩ ∧
      Ran (.tagwr (.s r) tag) .seq s t [r.toNat] [] 0 [] := by
  obtain ⟨t, h1, h2, h3, _⟩ := performG_pure (f := fun g => g.setS r.toNat (g.sval r.toNat) tag) h
    (s.g.setS_regsOnly r.toNat _ _ [r.toNat] [] (by simp)) (by simp)
  exact ⟨t, h1, by simp [h3], h2⟩

end

/-- Settles O15, each instruction by the lemma of its shape. -/
theorem conversionPackingTags : Obligations.ConversionPackingTags := by
  unfold Obligations.ConversionPackingTags
  refine ⟨?cvt, ?pack2, ?pack4, ?unpack2, ?unpack4, ?tagrd, ?tagwrV, ?tagwrS⟩
  case cvt => exact fun d a t sf rm sat i j => lanes_of fun _ => rfl
  case pack2 => exact fun d a b ty => moves_of fun _ => rfl
  case pack4 => exact fun d a b ty => moves_of fun _ => rfl
  case unpack2 => exact fun ty h => vec1_unpack (by omega) fun _ _ _ => rfl
  case unpack4 => exact fun ty k => vec1_unpack (by omega) fun _ _ _ => rfl
  case tagrd => exact fun s d b h => tagrd_ran h
  case tagwrV => exact fun s r tag h => tagwr_vector_ran h
  case tagwrS => exact fun s r tag h => tagwr_scalar_ran h

end Sys2Proof.Claim
end

section
/-! SUPPORT. The masks of one lane and of a list of lanes, lane by lane. -/

namespace Sys2Proof.Claim

open Machine

theorem getLsbD_laneBit {l k : Nat} (h : k < 96) : (laneBit l).getLsbD k = decide (k = l) := by
  rw [Bool.eq_iff_iff, laneBit, BitVec.getLsbD_shiftLeft, BitVec.getLsbD_one]
  simp [h]
  omega

theorem laneBit_ne_zero {n : Nat} (h : n < 96) : laneBit n ≠ 0 := by
  intro e
  simpa [e] using getLsbD_laneBit (l := n) h

/-- A mask of lanes names the lanes of its list. -/
theorem getLsbD_laneMask (ls : List Nat) {k : Nat} (h : k < 96) : (laneMask ls).getLsbD k = true ↔ k ∈ ls := by
  have key (m : LaneMask) : (ls.foldl (fun m x => m ||| laneBit x) m).getLsbD k = true ↔ m.getLsbD k = true ∨ k ∈ ls := by
    induction ls generalizing m with
    | nil => simp
    | cons l ls ih => simp [ih, BitVec.getLsbD_or, getLsbD_laneBit h, or_assoc]
  simpa [laneMask] using key 0

end Sys2Proof.Claim
end

section
/-! SETTLED: O24, O27. Vector accesses to global memory (R110 to R116, R147, R221, R224, R284). Each instruction of the three
families is `vecAccess` with the entries that its claim writes out, so what holds of every such access holds of the families:
`accesses_of` for what issues, `laneFaultsOf_of` for what a lane that fails a check comes to. -/

namespace Sys2Proof.Claim

open Machine

/-! ### What holds of every vector access -/

/-- A claim that holds of every vector access which is made lane by lane, whose helper lanes are spared, and before which
at most a base register is fetched again. -/
def HoldsOfVecAccess (P : AccessClaim) : Prop :=
  ∀ {i : Instr} {n : Info} {r : Req} {turned : State → Option State} {refresh : State → State}
    {entries : State → Nat → List Entry} {evs : Group → List FlagEvent},
    (∀ s, exec i s = vecAccess i n r turned refresh entries evs s) → Refreshes refresh →
    r.scalar = false ∧ r.helpers = false → r.op.returns = true ∨ r.op.writes = true →
    P i n r turned refresh entries evs

/-- The entry of an atomic as its claims write it: CAS is operation 7 (R224). -/
theorem atomEntry_eq (a : BitVec 7) (b : Src) (c : BitVec 7) (t : BitVec 2) (f : AtomFields) (rd : Bool) (s : State)
    (l : Nat) :
    atomEntry a b c t f rd s l =
      [{ res := s.baseLane s.cur (s.g.base t.toNat) ((s.g.base t.toNat).vb.toNat + (s.g.lane a.toNat l).toNat) 4 rd true
         b := (s.g.blane b (typeTag f.ty) l).1
         c := if f.op = 7 then (s.g.vsrc c.toNat (typeTag f.ty) l).1 else 0 }] := by
  simp [atomEntry, atomOperands, isCas]

section
variable {P : AccessClaim} (hP : HoldsOfVecAccess P)
include hP

/-- It holds of the loads and stores through a base register. -/
theorem globalForms_of : GlobalForms P := by
  refine ⟨⟨?_, ?_, ?_, ?_, ?_, ?_⟩, ?_, ?_, ?_, ?_, ?_, ?_⟩ <;> intros <;>
    exact hP (fun _ => rfl) (refreshes_freshBase _) ⟨rfl, rfl⟩ (by simp [AccessOp.returns, AccessOp.writes])

/-- It holds of the private loads and stores. -/
theorem privateForms_of : PrivateForms P := by
  refine ⟨?_, ?_, ?_, ?_⟩
  · exact fun d o look z _ => hP (fun _ => rfl) refreshes_id ⟨rfl, rfl⟩ (.inl rfl)
  · exact fun d o look z x _ => hP (fun _ => rfl) refreshes_id ⟨rfl, rfl⟩ (.inl rfl)
  · exact fun r o z hz => hP (privStore_eq hz (.vstp r o z) r o noExt) refreshes_id ⟨rfl, rfl⟩ (.inr rfl)
  · exact fun r o z x hz => hP (privStore_eq hz (.vstp2w r o z x) r o x) refreshes_id ⟨rfl, rfl⟩ (.inr rfl)

/-- It holds of the vector atomics. -/
theorem atomicForms_of : AtomicForms P := by
  unfold AtomicForms
  simp only [← atomEntry_eq]
  refine ⟨?_, ?_⟩
  · exact fun d a b c t f lock look => hP (fun _ => rfl) (refreshes_freshBase _) ⟨rfl, rfl⟩ (.inr rfl)
  · exact fun a b t f lock _ => hP (fun _ => rfl) (refreshes_freshBase _) ⟨rfl, rfl⟩ (.inr rfl)

end

/-- Settles O24: what issues of each load and store. -/
theorem globalLoadsAndStores : Obligations.GlobalLoadsAndStores :=
  globalForms_of accesses_of

/-! ### A lane that fails a check -/

/-- No page of an access is walked or absent. -/
def PagesFound (l : List ReqLane) : Prop := ∀ y ∈ l, ∀ va c, y.res ≠ .miss va ∧ y.res ≠ .absent va c

/-- Pages that are found leave none to walk. -/
theorem missPages_of_found {l : List ReqLane} (h : PagesFound l) : missPages l = [] := by
  unfold missPages
  rw [filterMap_nil_of l]
  · rfl
  · intro y hy
    split
    · next va e => exact absurd e (h y hy va 0).1
    · rfl

/-- With every page found, the lanes that fail at issue are those that missed a byte and are no helper lanes. -/
theorem badLanes_of_found {l : List ReqLane} (h : PagesFound l) (loads pager : Bool) (helper : LaneMask) :
    badLanes loads pager helper l = l.filter fun y => LaneMissed y && !helper.getLsbD y.lane := by
  refine List.filter_congr fun y hy => ?_
  rw [Bool.and_comm]
  unfold LaneMissed
  cases e : y.res with
  | absent va c => exact absurd e (h y hy va c).2
  | _ => rfl

/-- The issue of an access of which a lane that is no helper lane fails: the lowest one decides the fault (R111, R147). -/
theorem issue_traps {s : State} {r : Req} {l : List ReqLane} {zeros : LaneMask} {x : ReqLane} {xs : List ReqLane}
    {cause val : Nat} (hs : r.scalar = false ∧ r.helpers = false) (h : PagesFound l)
    (hb : (l.filter fun y => LaneMissed y && !s.g.helper.getLsbD y.lane) = x :: xs) (hx : x.res = .fail cause val) :
    s.issue r l zeros = .trap ⟨cause, val, laneMask ((x :: xs).map fun y => y.lane), 0⟩ := by
  obtain ⟨h1, h2⟩ := hs
  unfold State.issue
  simp only [missPages_of_found h, badLanes_of_found h, h1, h2, Bool.or_false, Bool.false_eq_true, if_false, hb, hx]
  rfl

/-- The spec of a vector access of which a lane fails. -/
theorem laneFaultsOf_of : HoldsOfVecAccess LaneFaultsOf := by
  intro i n r turned refresh entries evs hi hf hs _ s x xs cause val h ht hx hw hn es fails hfound hes hres
  obtain ⟨_, _, b, wh, hg⟩ := hf s
  obtain ⟨g', hset⟩ : ∃ g', (refresh s).g.settle (evs s.g) (refresh s).g = .ok g' :=
    ⟨_, Group.settle_ok _ _ _ (by rw [hg]; exact hn)⟩
  have hissue (zeros : LaneMask) :
      (refresh s).issue r es zeros = .trap ⟨cause, val, laneMask ((x :: xs).map fun y => y.lane), 0⟩ :=
    issue_traps hs hfound (by rw [hg]; exact hes) hres
  have htraps : exec i s = .next (s.raise ⟨cause, val, laneMask ((x :: xs).map fun y => y.lane), 0⟩) := by
    refine (hi s).trans (perform_trap h ?_)
    dsimp only
    rw [if_neg hx, hw]
    have hes' : ((lanesOf (if r.op.writes then s.g.xm &&& ~~~s.g.helper else s.g.xm)).flatMap fun l =>
        (entries (refresh s) l).map fun e => ({ lane := l, res := e.res, data := e.data, b := e.b, c := e.c } : ReqLane)) =
        es := by
      show _ = entriesOf (refresh s) r entries
      unfold entriesOf takesPart
      rw [hg]
      rfl
    dsimp only
    unfold issueWith
    rw [hset, hes', hissue]
  refine ⟨_, _, htraps, s.raise_entered _ ht, fun l hl => ?_⟩
  rw [getLsbD_laneMask _ hl, ← hes]
  simp [and_assoc]

/-! ### An access with one entry in each lane -/

/-- The first number that a search over a range keeps is the least one that it may keep. -/
theorem filter_range_eq_cons {p : Nat → Bool} {n l : Nat} (hl : l < n) (hp : p l = true)
    (hmin : ∀ k, k < l → p k = false) :
    ∃ ks, (List.range n).filter p = l :: ks := by
  have h : ((List.range n).filter p).head? = some l := by
    rw [List.head?_filter, List.find?_range_eq_some]
    exact ⟨hp, List.mem_range.2 hl, fun k hk => by simp [hmin k hk]⟩
  exact List.head?_eq_some_iff.1 h

/-- The entries of an access that has one in each lane. -/
theorem entriesOf_singleton (u : State) (r : Req) (res : State → Nat → LaneRes) :
    entriesOf u r (fun s l => [{ res := res s l }]) =
      (lanesOf (takesPart u.g r)).map fun l => ({ lane := l, res := res u l } : ReqLane) := by
  simp [entriesOf, List.map_eq_flatMap]

/-- What a filter keeps of the lanes of a mask. -/
theorem filter_map_lanesOf {α : Type} (m : LaneMask) (f : Nat → α) (p : α → Bool) :
    ((lanesOf m).map f).filter p = ((List.range 96).filter fun k => m.getLsbD k && p (f k)).map f := by
  rw [List.filter_map, lanesOf, laneList, List.filter_filter]
  simp [Bool.and_comm]

/-- A lane fails a check and is no helper lane (R111, R147). -/
def laneFails (g : Group) (res : Nat → LaneRes) (l : Nat) : Prop :=
  g.active l = true ∧ g.helper.getLsbD l = false ∧ ∃ c v, res l = .fail c v

section
variable {g : Group} {res : Nat → LaneRes}
  (hfound : ∀ k va, k < 96 → g.active k = true → res k ≠ .miss va ∧ ∀ c, res k ≠ .absent va c)
include hfound

theorem pagesFound_map_lanesOf : PagesFound ((lanesOf g.xm).map fun l => { lane := l, res := res l }) := by
  intro y hy va c
  obtain ⟨k, hk, rfl⟩ := List.mem_map.1 hy
  obtain ⟨hk, ha⟩ := (mem_lanesOf _ _).1 hk
  exact ⟨(hfound k va hk ha).1, (hfound k va hk ha).2 c⟩

/-- With every page found, a lane that missed its byte failed a check. -/
theorem missed_iff_laneFails {l : Nat} (hl : l < 96) :
    (g.xm.getLsbD l && (LaneMissed { lane := l, res := res l } && !g.helper.getLsbD l)) = true ↔ laneFails g res l := by
  have hmissed (ha : g.active l = true) : LaneMissed { lane := l, res := res l } = true ↔ ∃ c v, res l = .fail c v := by
    unfold LaneMissed
    cases e : res l with
    | absent va c => exact absurd e ((hfound l va hl ha).2 c)
    | _ => simp
  show (g.active l && _) = true ↔ _
  unfold laneFails
  rw [Bool.and_eq_true, Bool.and_eq_true, Bool.not_eq_true']
  exact and_congr_right fun ha => and_comm.trans (and_congr_right fun _ => hmissed ha)

end

/-- A load with one entry in each lane faults by its lowest failing lane, and TMASK names those that fail. -/
theorem LaneFaultsOf.lowest {i : Instr} {n : Info} {r : Req} {turned : State → Option State} {refresh : State → State}
    {res : State → Nat → LaneRes} {s : State} {l cause val : Nat}
    (hP : LaneFaultsOf i n r turned refresh (fun s l => [{ res := res s l }]) fun _ => []) (hr : r.op.writes = false)
    (h : Issues i { n with mask := true, access := true, counter := r.counter } s) (ht : TakesFaults s)
    (hturned : turned s = none) (hfresh : refresh s = s)
    (hfound : ∀ k va, k < 96 → s.g.active k = true → res s k ≠ .miss va ∧ ∀ c, res s k ≠ .absent va c)
    (hl : l < 96) (ha : s.g.active l = true) (hh : s.g.helper.getLsbD l = false) (hres : res s l = .fail cause val)
    (hmin : ∀ k, k < l → ¬laneFails s.g (res s) k) :
    ∃ t m, exec i s = .next t ∧ Entered s t ⟨cause, val, m, 0⟩ ∧
      ∀ k, k < 96 → (m.getLsbD k = true ↔ laneFails s.g (res s) k) := by
  have hes : entriesOf (refresh s) r (fun s l => [{ res := res s l }]) =
      (lanesOf s.g.xm).map fun l => { lane := l, res := res s l } := by
    rw [hfresh, entriesOf_singleton, takesPart, hr]
    rfl
  obtain ⟨ks, hks⟩ := filter_range_eq_cons hl ((missed_iff_laneFails hfound hl).2 ⟨ha, hh, _, _, hres⟩) fun k hk =>
    Bool.eq_false_iff.2 fun hf => hmin k hk ((missed_iff_laneFails hfound (hk.trans hl)).1 hf)
  have hfails := (filter_map_lanesOf s.g.xm (fun l => ({ lane := l, res := res s l } : ReqLane))
    fun y => LaneMissed y && !s.g.helper.getLsbD y.lane).trans (congrArg (List.map _) hks)
  obtain ⟨t, m, he, hin, hm⟩ := hP s _ _ cause val h ht (fun hx => by simp [xm_eq_zero_inactive hx] at ha) hturned
    (.inr (by simp [Group.raisedFlags, Group.raised])) (by rw [hes]; exact pagesFound_map_lanesOf hfound)
    (by rw [hes]; exact hfails) hres
  refine ⟨t, m, he, hin, fun k hk => (hm k hk).trans ?_⟩
  rw [hes, ← missed_iff_laneFails hfound hk]
  simp [mem_lanesOf, hk, and_assoc]

/-! ### VLD -/

/-- A base register that is not cleared is used as it stands (R190). -/
theorem baseTurned_of_not_cleared {s : State} {k n : Nat} (h : ((s.group k).base n).cleared = false) :
    s.baseTurned k n = none :=
  if_neg (by simp [h])

theorem freshBase_of_not_cleared {s : State} {k n : Nat} (h : ((s.group k).base n).cleared = false) :
    s.freshBase k n = s :=
  if_neg (by simp [h])

/-- How lane l of VLD stands (R110, R111). -/
def vldLane (t : BitVec 2) (o : BitVec 7) (z : BitVec 3) (s : State) (l : Nat) : LaneRes :=
  s.baseLane s.cur (s.g.base t.toNat) ((s.g.base t.toNat).vb.toNat + (s.g.lane o.toNat l).toNat) (sizeBytes z) true false

/-- VLD faults by its lowest failing lane, as every vector access does. -/
theorem vld_laneFaults (d : BitVec 7) (t : BitVec 2) (o : BitVec 7) (look : BitVec 4) (z : BitVec 3) :
    LaneFaultsOf (.vld d t o look z)
      { vr := [o.toNat], vw := sizeRegs d z, pairs := sizePairs d z, look := some look.toNat }
      { op := .load z, size := sizeBytes z, dest := loadDest d z, tag := sizeTag z, counter := some 0 }
      (fun s => s.baseTurned s.cur t.toNat) (fun s => s.freshBase s.cur t.toNat)
      (fun s l => [{ res := vldLane t o z s l }]) fun _ => [] := by
  refine laneFaultsOf_of (fun s => ?_) (refreshes_freshBase t.toNat) ⟨rfl, rfl⟩ (.inl rfl)
  have e (s : State) (l : Nat) : vldLane t o z s l = baseAddr t noExt z true false (addVec o) s l := by
    simp [vldLane, baseAddr, noExt, addVec]
  simp only [e]
  rfl

/-- Settles O27: every access by its issue, and VLD with a base register that is not translated again by its lowest lane. -/
theorem laneFaults : Obligations.LaneFaults := by
  unfold Obligations.LaneFaults
  refine ⟨⟨globalForms_of laneFaultsOf_of, privateForms_of laneFaultsOf_of, atomicForms_of laneFaultsOf_of⟩, ?_⟩
  intro s d t o look z l cause val h ht hb res hfound hl ha hh hres hmin
  have hc : (s.g.base t.toNat).cleared = false := by
    unfold BaseReg.cleared
    rcases hb with hb | hb <;> simp [hb]
  exact (vld_laneFaults d t o look z).lowest rfl h ht (baseTurned_of_not_cleared hc) (freshBase_of_not_cleared hc) hfound
    hl ha hh hres fun k hk ⟨hka, hkh, c, v, e⟩ => hmin k hk hka hkh c v e

end Sys2Proof.Claim
end

section
/-! SETTLED: O17. Interleave, shuffle, rotation, single lanes and quad exchange (R106 to R109, R168): `interleave_ran` says what
a block of registers takes, `moves_of` what an instruction does that only moves lanes; what is left is arithmetic of lane
numbers. -/

namespace Sys2Proof.Claim

open Machine

/-- What a register's lanes took depends on the 96 lanes alone. -/
theorem wroteLanes_congr {s t : State} {d : Nat} {tag : BitVec 4} {f h : Nat → Word} (e : ∀ l, l < 96 → f l = h l)
    (hw : WroteLanes s t d tag f) : WroteLanes s t d tag h := by
  unfold WroteLanes at *
  split at hw
  · next hx => rwa [if_pos hx]
  · next hx =>
    rw [if_neg hx]
    exact ⟨hw.1, fun l hl => by rw [hw.2 l hl, e l hl]⟩

/-! ### Interleave (R107) -/

section
variable {i : Instr} {k : Nat} {d a : BitVec 7} {s : State} (h : Issues i { vr := block a k, vw := block d k, mask := true } s)
include h

/-- ZIP: element 96 j + l of the destination block comes from the lanes of the sources in turn. -/
theorem zip_ran (hi : exec i s = zip i k d a s) :
    ∃ t, exec i s = .next t ∧
      (∀ j, j < k → WroteLanes s t (d.toNat + j) (s.g.vreg a.toNat).tag fun l =>
        s.g.lane (a.toNat + (96 * j + l) % k) ((96 * j + l) / k)) ∧ Ran i .seq s t [] (block d k) 0 [] :=
  hi ▸ interleave_ran h

/-- UNZIP: lane l of register j of the destination block is element k l + j of the source block. -/
theorem unzip_ran (hi : exec i s = unzip i k d a s) :
    ∃ t, exec i s = .next t ∧
      (∀ j, j < k → WroteLanes s t (d.toNat + j) (s.g.vreg a.toNat).tag fun l =>
        s.g.lane (a.toNat + (k * l + j) / 96) ((k * l + j) % 96)) ∧ Ran i .seq s t [] (block d k) 0 [] := by
  obtain ⟨t, h1, h2, h3⟩ := interleave_ran (f := fun g e => g.blockElem a (k * (e % 96) + e / 96)) h
  refine ⟨t, hi.trans h1, fun j hj => wroteLanes_congr (fun l hl => ?_) (h2 j hj), h3⟩
  have hmod : (96 * j + l) % 96 = l := by omega
  have hdiv : (96 * j + l) / 96 = j := by omega
  rw [hmod, hdiv]
  rfl

end

/-! ### Single lanes (R109) -/

/-- An instruction that raises no flag settles to what it leaves. -/
theorem settle_nil (g : Group) : g.settle [] g = .ok g := by
  unfold Group.settle
  split <;> simp [Group.raisedFlags, Group.raised]

/-- LREAD: the lane is read at issue, and its write waits (R58). -/
theorem lread_started {d : BitVec 6} {a : BitVec 7} {k : LaneIdx} {look : BitVec 4} {s : State}
    (h : Issues (.lread d a k look) { sr := k.sregs, sw := [d.toNat], vr := [a.toNat], look := some look.toNat } s) :
    ∃ t, exec (.lread d a k look) s = .next t ∧
      StartedAll (.lread d a k look) s t
        [.sreg (s.g.phys d.toNat) (if s.g.laneNum k < 96 then s.g.lane a.toNat (s.g.laneNum k) else 0) (s.g.vreg a.toNat).tag]
        0 [] := by
  obtain ⟨g, hset, hstart⟩ := queued_started (i := .lread d a k look)
    (n := { sr := k.sregs, sw := [d.toNat], vr := [a.toNat], look := some look.toNat }) (s := s) (evs := [])
    (w := [.sreg (s.g.phys d.toNat) (if s.g.laneNum k < 96 then s.g.lane a.toNat (s.g.laneNum k) else 0)
      (s.g.vreg a.toNat).tag]) (cnt := []) (noTrap_zero s.g) rfl
  obtain rfl : g = s.g := Except.ok.inj (hset.symm.trans (settle_nil s.g))
  refine ⟨_, ?_, hstart⟩
  unfold exec execLread
  exact perform_next h rfl

/-- The group after LWRITE: a number that is no lane's writes nothing (R109). -/
def lwritten (d : BitVec 7) (a : BitVec 6) (k : LaneIdx) (g : Group) : Group :=
  if g.laneNum k < 96 then g.setV d.toNat (laneBit (g.laneNum k)) (fun _ => g.sval a.toNat) (g.sreg a.toNat).tag else g

theorem lwritten_regsOnly (d : BitVec 7) (a : BitVec 6) (k : LaneIdx) (g : Group) :
    RegsOnly g (lwritten d a k g) [] [d.toNat] := by
  unfold lwritten
  split
  · exact g.setV_regsOnly _ _ _ _ _ _ (by simp)
  · exact RegsOnly.refl g _ _

theorem gstat_lwritten (d : BitVec 7) (a : BitVec 6) (k : LaneIdx) (g : Group) : (lwritten d a k g).gstat = g.gstat := by
  unfold lwritten
  split <;> simp

/-- LWRITE: one lane takes the scalar, and the register its tag, where the number is that of a lane. -/
theorem lwrite_ran {d : BitVec 7} {a : BitVec 6} {k : LaneIdx} {s : State}
    (h : Issues (.lwrite d a k) { sr := a.toNat :: k.sregs, vw := [d.toNat] } s) :
    ∃ t, exec (.lwrite d a k) s = .next t ∧
      (if s.g.laneNum k < 96 then
        (t.g.vreg d.toNat).tag = (s.g.sreg a.toNat).tag ∧
          ∀ l, l < 96 → t.g.lane d.toNat l = if l = s.g.laneNum k then s.g.sval a.toNat else s.g.lane d.toNat l
       else t.g.vreg d.toNat = s.g.vreg d.toNat) ∧ Ran (.lwrite d a k) .seq s t [] [d.toNat] 0 [] := by
  obtain ⟨t, h1, h2, _, h4⟩ := performG_pure (f := lwritten d a k) h (lwritten_regsOnly d a k s.g)
    (gstat_lwritten d a k s.g)
  refine ⟨t, h1, ?_, h2⟩
  unfold Group.lane
  rw [h4]
  by_cases hk : s.g.laneNum k < 96
  · have hlane := s.g.lane_setV d.toNat (laneBit (s.g.laneNum k)) (fun _ => s.g.sval a.toNat) (s.g.sreg a.toNat).tag
    rw [if_pos hk, lwritten, if_pos hk]
    refine ⟨(hlane 0 (by omega) (laneBit_ne_zero hk)).1, fun l hl => (hlane l hl (laneBit_ne_zero hk)).2.trans ?_⟩
    simp [getLsbD_laneBit hl, Group.lane]
  · rw [if_neg hk, lwritten, if_neg hk]

/-! ### Quads (R168) -/

/-- A mask below 4 changes the place of a lane in its quad. -/
theorem quad_xor (l : Nat) {c : Nat} (hc : c < 4) : l / 4 * 4 + (l % 4 ^^^ c) = l ^^^ c := by
  have hmod : (l ^^^ c) % 4 = l % 4 ^^^ c := by
    rw [Nat.xor_mod_two_pow (n := 2), Nat.mod_eq_of_lt (a := c) hc]
  have hdiv : (l ^^^ c) / 4 = l / 4 := by
    rw [Nat.xor_div_two_pow (n := 2), Nat.div_eq_of_lt (a := c) hc, Nat.xor_zero]
  rw [← hmod, ← hdiv]
  omega

/-- A quad move by such a mask: lane l takes lane l xor c. -/
theorem quadMove_xor_ran {i : Instr} {d a : BitVec 7} {c : Nat} {s : State} (hc : c < 4)
    (hi : ∀ s, exec i s = quadMove i d a (· ^^^ c) s) (h : Issues i { vr := [a.toNat], vw := [d.toNat], mask := true } s) :
    ∃ t val, exec i s = .next t ∧ WroteLanes s t d.toNat (s.g.vreg a.toNat).tag val ∧
      (∀ l, l < 96 → val l = s.g.lane a.toNat (l ^^^ c)) ∧ Ran i .seq s t [] [d.toNat] 0 [] := by
  obtain ⟨t, h1, h2, h3⟩ := moves_of (n := { vr := [a.toNat], vw := [d.toNat] }) hi s h
  exact ⟨t, _, h1, h2, fun l _ => congrArg _ (quad_xor l hc), h3⟩

/-- Settles O17, each instruction by the lemma of its shape. -/
theorem laneMovement : Obligations.LaneMovement := by
  unfold Obligations.LaneMovement
  refine ⟨?zip, ?unzip, ?lshuf, ?lrot, ?lread, ?lwrite, ?qswap, ?qbcast⟩
  case zip =>
    intro s k i d a hi h
    simp only [List.mem_cons, List.not_mem_nil, or_false, Prod.mk.injEq] at hi
    rcases hi with ⟨rfl, rfl⟩ | ⟨rfl, rfl⟩ | ⟨rfl, rfl⟩ <;> exact zip_ran h rfl
  case unzip =>
    intro s k i d a hi h
    simp only [List.mem_cons, List.not_mem_nil, or_false, Prod.mk.injEq] at hi
    rcases hi with ⟨rfl, rfl⟩ | ⟨rfl, rfl⟩ | ⟨rfl, rfl⟩ <;> exact unzip_ran h rfl
  case lshuf => exact fun d a b => moves_of fun _ => rfl
  case lrot =>
    intro d a k
    simp only [← Nat.add_mod_mod _ (Group.laneNum _ k)]
    exact moves_of fun _ => rfl
  case lread => exact fun s d a k look h => lread_started h
  case lwrite => exact fun s d a k h => lwrite_ran h
  case qswap =>
    intro i d a m hi s h
    simp only [List.mem_cons, List.not_mem_nil, or_false, Prod.mk.injEq] at hi
    rcases hi with ⟨rfl, rfl⟩ | ⟨rfl, rfl⟩ | ⟨rfl, rfl⟩ <;> exact quadMove_xor_ran (by omega) (fun _ => rfl) h
  case qbcast =>
    intro d a k
    have e (l : Nat) : l - l % 4 + k.toNat = l / 4 * 4 + k.toNat := by omega
    simp only [e]
    exact moves_of fun _ => rfl

end Sys2Proof.Claim
end

section
/-! SETTLED: O18. Exact pairs and double-word arithmetic (R117 to R122, R124, R125): each instruction is one of the shapes
`pairRun`, `pairLate`, `vecRun` and `cmpRun`, and the lemma of its shape says what it does. -/

namespace Sys2Proof.Claim

open Machine

/-- A primitive on two FP32 words: each active lane takes the rounded result and its error (R117, R118). -/
theorem pairs_primitive {i : Instr} {d a : BitVec 7} {b : Src} {f : Word → Word → PairRes}
    (hi : ∀ s, exec i s = primitive i d a b f s) :
    Pairs i (info2 d a b 3 3) d
      (fun g l => (f (g.vsrc a.toNat 3 l).1 (g.blane b 3 l).1).plus ((g.vsrc a.toNat 3 l).2 ||| (g.blane b 3 l).2))
      fun g => g.bshared b 3 :=
  pairs_of hi

/-- Settles O18, each instruction by the lemma of its shape. -/
theorem exactPairs : Obligations.ExactPairs := by
  unfold Obligations.ExactPairs
  refine ⟨?faddx, ?fsubx, ?fmulx, ?dwadd, ?dwmul, ?dwadds, ?dwmuls, ?dwnorm, ?dwdiv, ?dwsqrt, ?toPair, ?fromPair, ?dwcmp⟩
  case faddx => exact fun d a b => pairs_primitive fun _ => rfl
  case fsubx => exact fun d a b => pairs_primitive fun _ => rfl
  case fmulx => exact fun d a b => pairs_primitive fun _ => rfl
  case dwadd => exact fun d a b => pairs_of fun _ => rfl
  case dwmul => exact fun d a b => pairs_of fun _ => rfl
  case dwadds => exact fun d a b => pairs_of fun _ => rfl
  case dwmuls => exact fun d a b => pairs_of fun _ => rfl
  case dwnorm => exact fun d a => pairs_of fun _ => rfl
  case dwdiv => exact fun d a b look => latePairs_of fun _ => rfl
  case dwsqrt => exact fun d a look => latePairs_of fun _ => rfl
  case toPair => exact fun d a ty rm => pairs_of fun _ => rfl
  case fromPair => exact fun d a ty rm => lanes_of fun _ => rfl
  case dwcmp => exact fun d a b cc _ => compares_of fun _ => rfl

end Sys2Proof.Claim
end

section
/-! SETTLED: O20. The reductions, the scan and the match (R126 to R128, R130, R170 to R176): the meaning of each is a body that
leaves the state alone with an empty mask (R14) and otherwise ends in `lateWrites`, which `lateRun_of` speaks of. -/

namespace Sys2Proof.Claim

open Machine

/-- A collective whose body, with some lane active, queues its writes. -/
theorem lateRun_queued {i : Instr} {n : Info} {evs : Group → List FlagEvent} {w : Group → List RegWrite}
    {cnt : Group → List (Nat × Nat)}
    (hi : ∀ s, exec i s =
      perform i n (fun s => if s.g.xm = 0 then .done s .seq else lateWrites s (evs s.g) (w s.g) (cnt s.g)) s) :
    LateRun i n evs w cnt :=
  lateRun_of hi (fun _ hx => if_pos hx) fun _ hx => if_neg hx

/-- Settles O20, each instruction by the shape that they share. -/
theorem collectives : Obligations.Collectives := by
  unfold Obligations.Collectives
  refine ⟨?creduce, ?credseg, ?greduce, ?gscan, ?gsegred, ?gmatch⟩
  case creduce => exact fun d a c single look => lateRun_queued fun _ => rfl
  case credseg => exact fun d a c single look => lateRun_queued fun _ => rfl
  case greduce => exact fun d a c op ty rm sat look => lateRun_queued fun _ => rfl
  case gscan => exact fun d a op excl ty rm sat look => lateRun_queued fun _ => rfl
  case gsegred => exact fun d a c op ty rm sat look => lateRun_queued fun _ => rfl
  case gmatch => exact fun d a mode look => lateRun_queued fun _ => rfl

end Sys2Proof.Claim
end

section
/-! SETTLED: O21. The fixed tree (R127, R171). The model halves a list of nodes level by level, and `halves` splits a range of
lanes from the top down: `halves_pairs` turns one into the other. Values and lane masks are then two images of the tree of
nodes under maps that respect combination. -/

namespace Sys2Proof.Claim

open Machine

/-! ### Results that may be absent -/

section
variable {α β : Type} {f : α → α → α}

@[simp] theorem join_none_right (x : Option α) : join f x none = x := by cases x <;> rfl

theorem halves_succ (leaf : Nat → Option α) (n lo : Nat) :
    halves f leaf (n + 1) lo = join f (halves f leaf n lo) (halves f leaf n (lo + 2 ^ n)) := by
  rw [halves]
  cases halves f leaf n lo <;> cases halves f leaf n (lo + 2 ^ n) <;> rfl

/-- Combining neighbours first and then halving is halving once more. -/
theorem halves_pairs (leaf : Nat → Option α) (n lo : Nat) :
    halves f (fun l => join f (leaf (2 * l)) (leaf (2 * l + 1))) n lo = halves f leaf (n + 1) (2 * lo) := by
  induction n generalizing lo with
  | zero => rw [halves_succ]; rfl
  | succ n ih =>
    rw [halves_succ, ih, ih, halves_succ leaf (n + 1)]
    congr 2
    ring

variable {g : β → β → β} {h : α → β} (hom : ∀ x y, h (f x y) = g (h x) (h y))
include hom

theorem map_join (x y : Option α) : (join f x y).map h = join g (x.map h) (y.map h) := by
  cases x <;> cases y <;> simp [join, hom]

theorem map_halves (leaf : Nat → Option α) (n lo : Nat) :
    (halves f leaf n lo).map h = halves g (fun l => (leaf l).map h) n lo := by
  induction n generalizing lo with
  | zero => rfl
  | succ n ih => rw [halves_succ, halves_succ, map_join hom, ih, ih]

end

/-! ### The tree of nodes -/

section
variable {α : Type} (f : α → α → α × Flags)

/-- The node of two nodes that both hold something. -/
def mergeNodes (x y : Node α) : Node α := ⟨(f x.val y.val).1, x.lanes ||| y.lanes⟩

theorem combine_fst (x y : Option (Node α)) : (combine f x y).1 = join (mergeNodes f) x y := by
  cases x <;> cases y <;> rfl

/-- One level: node k combines nodes 2 k and 2 k + 1. -/
theorem halve_getD (ls : List (Option (Node α))) (k : Nat) :
    (halve f ls).1.getD k none = join (mergeNodes f) (ls.getD (2 * k) none) (ls.getD (2 * k + 1) none) := by
  fun_induction halve f ls generalizing k with
  | case1 x y ls c r ih =>
    cases k with
    | zero => simp [c, combine_fst]
    | succ k => simpa [Nat.mul_succ] using ih k
  | case2 ls hls =>
    match ls, k with
    | [], _ => rfl
    | [x], 0 => simp
    | [x], k + 1 => simp [Nat.mul_succ, join]
    | x :: y :: ls, _ => exact absurd rfl (hls x y ls)

/-- After n levels, node k holds lanes 2^n k to 2^n k + 2^n - 1. -/
theorem levels_getD (n : Nat) (ls : List (Option (Node α))) (k : Nat) :
    (levels f n ls).1.getD k none = halves (mergeNodes f) (fun l => ls.getD l none) n (2 ^ n * k) := by
  induction n generalizing ls with
  | zero => simp [levels, halves]
  | succ n ih =>
    have hlo : 2 ^ (n + 1) * k = 2 * (2 ^ n * k) := by ring
    rw [levels, ih, hlo, ← halves_pairs]
    simp only [halve_getD]

theorem leavesOf_getD (m : LaneMask) (v : Nat → α) (l : Nat) :
    (leavesOf m v).getD l none = if m.getLsbD l then some ⟨v l, laneBit l⟩ else none := by
  by_cases hl : l < 96
  · exact laneList_map_getD _ _ _ hl
  · rw [BitVec.getLsbD_of_ge _ _ (by omega)]
    simp [leavesOf, laneList, hl]

end

/-- The three beats of 32 lanes each, joined from the left. -/
def joinBeats {α : Type} (f : α → α → α) (leaf : Nat → Option α) : Option α :=
  let beat := fun k => halves f leaf 5 (32 * k)
  join f (join f (beat 0) (beat 1)) (beat 2)

/-- The image of the three beats under a map that respects combination. -/
theorem map_joinBeats {α β : Type} {f : α → α → α} {g : β → β → β} {h : α → β} (hom : ∀ x y, h (f x y) = g (h x) (h y))
    (leaf : Nat → Option α) : (joinBeats f leaf).map h = joinBeats g fun l => (leaf l).map h := by
  simp only [joinBeats, map_join hom, map_halves hom]

theorem tree_fst {α : Type} (f : α → α → α × Flags) (m : LaneMask) (v : Nat → α) :
    (tree f (leavesOf m v)).1 =
      joinBeats (mergeNodes f) fun l => if m.getLsbD l then some ⟨v l, laneBit l⟩ else none := by
  simp only [tree, combine_fst, levels_getD, leavesOf_getD]
  rfl

/-- The image of the tree under a map of nodes that respects combination. -/
theorem map_tree {α β : Type} {f : α → α → α × Flags} {g : β → β → β} {h : Node α → β}
    (hom : ∀ x y, h (mergeNodes f x y) = g (h x) (h y)) (m : LaneMask) (v : Nat → α) :
    (tree f (leavesOf m v)).1.map h = joinBeats g fun l => if m.getLsbD l then some (h ⟨v l, laneBit l⟩) else none := by
  rw [tree_fst, map_joinBeats hom]
  simp only [apply_ite (Option.map _), Option.map_some, Option.map_none]

/-! ### The lanes that entered -/

theorem join_or_getD (x y : Option LaneMask) : (join (· ||| ·) x y).getD 0 = x.getD 0 ||| y.getD 0 := by
  cases x <;> cases y <;> simp [join]

/-- The entering lanes of a range, united. -/
theorem halves_laneBits (m : LaneMask) (n lo : Nat) {k : Nat} (hk : k < 96) :
    ((halves (· ||| ·) (fun l => if m.getLsbD l then some (laneBit l) else none) n lo).getD 0).getLsbD k = true ↔
      (lo ≤ k ∧ k < lo + 2 ^ n) ∧ m.getLsbD k = true := by
  induction n generalizing lo with
  | zero =>
    have hone : (lo ≤ k ∧ k < lo + 2 ^ 0) ↔ k = lo := by omega
    rw [hone, halves]
    by_cases hlo : m.getLsbD lo = true
    · simp +contextual [hlo, getLsbD_laneBit hk]
    · have hne : k = lo → m.getLsbD k = false := by rintro rfl; simpa using hlo
      simpa [hlo] using hne
  | succ n ih =>
    have hsplit : (lo ≤ k ∧ k < lo + 2 ^ (n + 1)) ↔
        (lo ≤ k ∧ k < lo + 2 ^ n) ∨ (lo + 2 ^ n ≤ k ∧ k < lo + 2 ^ n + 2 ^ n) := by omega
    rw [halves_succ, join_or_getD, BitVec.getLsbD_or, Bool.or_eq_true, ih, ih, hsplit, or_and_right]

/-- All three beats name the whole mask. -/
theorem joinBeats_laneBits (m : LaneMask) :
    (joinBeats (· ||| ·) fun l => if m.getLsbD l then some (laneBit l) else none).getD 0 = m := by
  refine BitVec.eq_of_getLsbD_eq fun k hk => Bool.eq_iff_iff.2 ?_
  simp only [joinBeats, join_or_getD, BitVec.getLsbD_or, Bool.or_eq_true, halves_laneBits m _ _ hk, ← or_and_right]
  exact and_iff_right (by omega)

/-- Settles O21: values and lanes are the two images of the tree of nodes. -/
theorem reductionTree : Obligations.ReductionTree := by
  unfold Obligations.ReductionTree
  intro α f m v leaf beat
  refine ⟨map_tree (h := Node.val) (fun _ _ => rfl) m v, fun t ht => ?_⟩
  have hlanes := map_tree (f := f) (g := (· ||| ·)) (h := Node.lanes) (fun _ _ => rfl) m v
  rw [ht] at hlanes
  calc t.lanes = ((some t).map Node.lanes).getD 0 := rfl
    _ = m := by rw [hlanes, joinBeats_laneBits]

end Sys2Proof.Claim
end

section
/-! SETTLED: O55. What a Utril load answers with (R132, R133, R135, R136, R138): `load_eq_ok` gives the budget, `parse_eq_ok`
and `kernelAt_eq_ok` what an accepted image holds; the passes over the native items only put items in, so the prologue
stays in front. -/

namespace Sys2Proof.Utril

/-! ### Attempts that answer -/

section
variable {ε α β : Type}

theorem bind_eq_ok {x : Except ε α} {f : α → Except ε β} {b : β} :
    x >>= f = .ok b ↔ ∃ a, x = .ok a ∧ f a = .ok b := by
  cases x with
  | error e => exact ⟨nofun, fun ⟨_, h, _⟩ => nomatch h⟩
  | ok a => exact ⟨fun h => ⟨a, rfl, h⟩, fun ⟨_, h, h'⟩ => Except.ok.inj h ▸ h'⟩

/-- Attempts over a list answer with the list of their answers. -/
theorem map_eq_of_mapM_ok {f : α → Except ε β} {xs : List α} {ys : List β} (h : xs.mapM f = .ok ys) :
    xs.map f = ys.map .ok := by
  induction xs generalizing ys with
  | nil =>
    obtain rfl : [] = ys := Except.ok.inj h
    rfl
  | cons x xs ih =>
    rw [List.mapM_cons] at h
    obtain ⟨y, hy, h⟩ := bind_eq_ok.1 h
    obtain ⟨zs, hzs, h⟩ := bind_eq_ok.1 h
    obtain rfl : y :: zs = ys := Except.ok.inj h
    rw [List.map_cons, List.map_cons, hy, ih hzs]

theorem length_of_mapM_ok {f : α → Except ε β} {xs : List α} {ys : List β} (h : xs.mapM f = .ok ys) :
    ys.length = xs.length := by
  simpa using (congrArg List.length (map_eq_of_mapM_ok h)).symm

theorem exists_of_mem_mapM_ok {f : α → Except ε β} {xs : List α} {ys : List β} (h : xs.mapM f = .ok ys) {y : β}
    (hy : y ∈ ys) : ∃ x ∈ xs, f x = .ok y :=
  List.mem_map.1 (map_eq_of_mapM_ok h ▸ List.mem_map_of_mem hy)

end

/-! ### The load and its budget (R136) -/

theorem load_eq_ok {image : List Byte} {n : Nat} {ts : List Translated} (h : load image n = .ok ts) :
    (n % 8 = 0 ∧ 16 ≤ n ∧ n ≤ 128) ∧ ∃ ks, parse image = .ok ks ∧ ks.mapM (translate n) = .ok ts := by
  obtain ⟨ks, hks, h⟩ := bind_eq_ok.1 h
  split at h
  · exact nomatch h
  · exact ⟨by omega, ks, hks, h⟩

theorem translate_eq_ok {n : Nat} {k : Kernel} {t : Translated} (h : translate n k = .ok t) : t.n = n ∧ t.gctl = 0 := by
  obtain ⟨_, _, h⟩ := bind_eq_ok.1 h
  obtain rfl := Except.ok.inj h
  exact ⟨rfl, rfl⟩

/-! ### An accepted image (R132, R133, R138) -/

theorem codeOf_mask_le {w0 w1 w2 : Word} {u : Code} (h : codeOf w0 w1 w2 = some u) : u.k ≤ 14 := by
  simp only [codeOf] at h
  split at h
  · simp only [Option.bind_eq_bind, Option.bind_eq_some_iff] at h
    obtain ⟨_, -, _, -, _, -, _, -, _, -, h⟩ := h
    have hk : w0.toNat / 2 ^ 20 % 16 ≠ 15 ∧ w0.toNat / 2 ^ 20 % 16 = u.k := by
      split at h
      all_goals
        obtain ⟨_, -, h⟩ := Option.bind_eq_some_iff.1 h
        obtain ⟨hk, h⟩ := Option.ite_none_left_eq_some.1 h
        exact ⟨hk, congrArg Code.k (Option.some.inj h)⟩
    omega
  · exact nomatch h

theorem codeAt_mask_le {image : List Byte} {o : Nat} {u : Code} (h : codeAt image o = some u) : u.k ≤ 14 := by
  simp only [codeAt, Option.bind_eq_bind, Option.bind_eq_some_iff] at h
  obtain ⟨_, -, _, -, _, -, h⟩ := h
  exact codeOf_mask_le h

/-- A kernel without a rejected instruction: every field decodes, to an instruction that breaks no limit. -/
theorem firstFault_eq_none {code : List (Option Code)} (h : firstFault code = none) :
    ∃ us : List Code, code = us.map some ∧ ∀ (i : Nat) (u : Code), us[i]? = some u → u.fault us.length i = none := by
  have hat (i : Nat) (o : Option Code) (ho : code[i]? = some o) : ∃ u, o = some u ∧ u.fault code.length i = none := by
    have hi := List.findSome?_eq_none_iff.1 h (o, i) (List.mem_zipIdx_iff_getElem?.2 ho)
    cases o with
    | none => exact nomatch hi
    | some u => exact ⟨u, rfl, Option.map_eq_none_iff.1 hi⟩
  obtain ⟨us, rfl⟩ : code ∈ Set.range (List.map some) := by
    rw [Set.range_list_map]
    intro o ho
    obtain ⟨i, hi⟩ := List.mem_iff_getElem?.1 ho
    obtain ⟨u, rfl, -⟩ := hat i o hi
    exact ⟨u, rfl⟩
  refine ⟨us, rfl, fun i u hu => ?_⟩
  obtain ⟨_, hu', hfault⟩ := hat i (some u) (by simp [hu])
  obtain rfl := Option.some.inj hu'
  simpa using hfault

/-- The kernel of an accepted table entry: its code is the whole of what the entry names. -/
theorem kernelAt_eq_ok {image : List Byte} {o : Nat} {k : Kernel} (h : kernelAt image o = .ok k) :
    ∃ off n, (1 ≤ n ∧ n ≤ 65536) ∧ k.code.map some = (List.range n).map (fun i => codeAt image (off + 12 * i)) ∧
      ∀ (i : Nat) (u : Code), k.code[i]? = some u → u.fault k.code.length i = none := by
  simp only [kernelAt] at h
  split at h
  · exact nomatch h
  · next name off n params hentry =>
    have hn : 1 ≤ n ∧ n ≤ 65536 := by
      simp only [Option.bind_eq_bind, Option.bind_eq_some_iff] at hentry
      obtain ⟨_, -, _, -, _, -, _, -, hentry⟩ := hentry
      obtain ⟨hn, hentry⟩ := Option.ite_none_right_eq_some.1 hentry
      cases hentry
      exact hn
    split at h
    · exact nomatch h
    · next hfault =>
      obtain ⟨us, hus, hlimits⟩ := firstFault_eq_none hfault
      obtain rfl := Except.ok.inj h
      refine ⟨off, n, hn, ?_⟩
      rw [hus, List.filterMap_map]
      simpa using hlimits

theorem parse_eq_ok {image : List Byte} {ks : List Kernel} (h : parse image = .ok ks) :
    (1 ≤ ks.length ∧ ks.length ≤ 256) ∧ ∀ k ∈ ks, ∃ o, kernelAt image o = .ok k := by
  simp only [parse] at h
  split at h
  · exact nomatch h
  · next n table hhead =>
    have hn : 1 ≤ n ∧ n ≤ 256 := by
      simp only [Option.bind_eq_bind, Option.bind_eq_some_iff] at hhead
      obtain ⟨_, -, _, -, _, -, _, -, hhead⟩ := hhead
      obtain ⟨⟨-, -, hlow, hhigh, -⟩, hhead⟩ := Option.ite_none_right_eq_some.1 hhead
      cases hhead
      exact ⟨hlow, hhigh⟩
    have hlen : ks.length = n := (length_of_mapM_ok h).trans List.length_range
    refine ⟨hlen ▸ hn, fun k hk => ?_⟩
    obtain ⟨i, -, hi⟩ := exists_of_mem_mapM_ok h hk
    exact ⟨_, hi⟩

theorem kernelAt_length {image : List Byte} {o : Nat} {k : Kernel} (h : kernelAt image o = .ok k) :
    1 ≤ k.code.length ∧ k.code.length ≤ 65536 := by
  obtain ⟨_, n, hn, hcode, -⟩ := kernelAt_eq_ok h
  have hlen : k.code.length = n := by simpa using congrArg List.length hcode
  exact hlen ▸ hn

theorem kernelAt_mask_le {image : List Byte} {o : Nat} {k : Kernel} (h : kernelAt image o = .ok k) {u : Code}
    (hu : u ∈ k.code) : u.k ≤ 14 := by
  obtain ⟨_, _, -, hcode, -⟩ := kernelAt_eq_ok h
  obtain ⟨_, -, hat⟩ := List.mem_map.1 (hcode ▸ List.mem_map_of_mem hu : some u ∈ _)
  exact codeAt_mask_le hat

theorem kernelAt_fault {image : List Byte} {o : Nat} {k : Kernel} (h : kernelAt image o = .ok k) {i : Nat} {u : Code}
    (hu : k.code[i]? = some u) : u.fault k.code.length i = none := by
  obtain ⟨_, _, -, -, hlimits⟩ := kernelAt_eq_ok h
  exact hlimits i u hu

/-! ### The prologue stays in front (R135) -/

/-- A fold whose steps only add to the end of a list keeps what the list began with. -/
theorem prefix_foldl {α β γ : Type} {f : List α × β → γ → List α × β} (hf : ∀ acc x, acc.1 <+: (f acc x).1) (xs : List γ)
    (acc : List α × β) : acc.1 <+: (xs.foldl f acc).1 := by
  induction xs generalizing acc with
  | nil => exact List.prefix_rfl
  | cons x xs ih => exact (hf acc x).trans (ih _)

/-- The prologue expects no tag, so a tag pass puts nothing into it. -/
theorem prologue_prefix_tagPass (m : List (Nat × Tags)) (is : List Item) : prologue <+: (tagPass m (prologue ++ is)).1 := by
  simp only [tagPass, List.foldl_append]
  refine prefix_foldl (fun acc x => ?_) is (prologue, m, _)
  split <;> exact List.prefix_append _ _

theorem tagFix_eq_tagPass (is : List Item) (fuel : Nat) (m : List (Nat × Tags)) :
    ∃ m', tagFix is fuel m = (tagPass m' is).1 := by
  induction fuel generalizing m with
  | zero => exact ⟨m, rfl⟩
  | succ fuel ih =>
    rw [tagFix]
    split
    · exact ⟨m, rfl⟩
    · exact ih _

theorem prologue_prefix_withTags (ls : List Nat) (is : List Item) : prologue <+: withTags ls (prologue ++ is) := by
  obtain ⟨m, hm⟩ := tagFix_eq_tagPass (prologue ++ is) _ _
  rw [withTags, hm]
  exact prologue_prefix_tagPass m is

theorem withLooks_append {xs : List Item} (h : ∀ x ∈ xs, x.late = false) (ys : List Item) :
    withLooks (xs ++ ys) = xs ++ withLooks ys := by
  induction xs with
  | nil => rfl
  | cons x xs ih =>
    obtain ⟨hx, hxs⟩ := List.forall_mem_cons.1 h
    rw [List.cons_append, withLooks, hx, ih hxs]
    rfl

theorem prologue_prefix_nativeItems {n : Nat} {k : Kernel} {is : List Item} {p : Nat} (h : nativeItems n k = .ok (is, p)) :
    prologue <+: is := by
  simp only [nativeItems] at h
  split at h
  · exact nomatch h
  · cases h
    obtain ⟨ys, hys⟩ := prologue_prefix_withTags (labels k.code) _
    rw [Plan.items, ← hys, withLooks_append (by decide)]
    exact List.prefix_append _ _

end Sys2Proof.Utril

namespace Sys2Proof.Claim

open Utril

/-- Settles O55: each conjunct is what the loader's own function answers with. -/
theorem utrilLoads : Obligations.UtrilLoads := by
  unfold Obligations.UtrilLoads
  refine ⟨fun image n ts h => ?_, fun image ks h => ?_, fun n k is p h => ?_⟩
  · obtain ⟨⟨hmod, hlow, hhigh⟩, ks, -, hts⟩ := load_eq_ok h
    refine ⟨hmod, hlow, hhigh, fun t ht => ?_⟩
    obtain ⟨k, -, hk⟩ := exists_of_mem_mapM_ok hts ht
    exact translate_eq_ok hk
  · obtain ⟨⟨hlow, hhigh⟩, hkernels⟩ := parse_eq_ok h
    refine ⟨hlow, hhigh, fun k hk => ?_⟩
    obtain ⟨o, ho⟩ := hkernels k hk
    obtain ⟨hone, hmost⟩ := kernelAt_length ho
    exact ⟨hone, hmost, fun i u hu => ⟨kernelAt_mask_le ho (List.mem_of_getElem? hu), kernelAt_fault ho hu⟩⟩
  · obtain ⟨ys, rfl⟩ := prologue_prefix_nativeItems h
    rfl

end Sys2Proof.Claim
end

section
/-! SETTLED: O22. Collectives in plain arithmetic (R170, R171, R173, R175). A scan writes one entry for each entering lane, in
lane order, so that a lane's entry is what the step for it wrote, from the state that the lanes below it left; what that state
holds is the fold of those lanes, or their exact sum. -/

namespace Sys2Proof.Machine

theorem AMap.find?_append {α : Type} (m m' : AMap α) (k : Nat) :
    AMap.find? (m ++ m') k = (AMap.find? m k).or (AMap.find? m' k) := by
  induction m with
  | nil => rfl
  | cons p m ih => by_cases h : p.1 = k <;> simp [AMap.find?, h, ih]

end Sys2Proof.Machine

namespace Sys2Proof.Claim

open Machine

/-! ### Lanes in order -/

/-- A range up to one of its numbers. -/
theorem range_eq_append {l n : Nat} (h : l < n) : ∃ above, List.range n = List.range l ++ l :: above := by
  induction n, h using Nat.le_induction with
  | base => exact ⟨[], List.range_succ⟩
  | succ n _ ih =>
    obtain ⟨above, e⟩ := ih
    exact ⟨above ++ [n], by rw [List.range_succ, e, List.append_assoc, List.cons_append]⟩

/-- The lanes below an active one, that one, and the lanes above. -/
theorem lanesOf_eq_append {g : Group} {l : Nat} (hl : l < 96) (ha : g.active l = true) :
    ∃ above, lanesOf g.xm = (List.range l).filter g.active ++ l :: above := by
  obtain ⟨above, e⟩ := range_eq_append hl
  refine ⟨above.filter g.active, ?_⟩
  show laneList.filter g.active = _
  rw [laneList, e, List.filter_append, List.filter_cons_of_pos ha]

/-- The numbers of a range that lie below one of its numbers. -/
theorem filter_lt_range {l n : Nat} (h : l ≤ n) (p : Nat → Bool) :
    ((List.range n).filter p).filter (· < l) = (List.range l).filter p := by
  induction n, h using Nat.le_induction with
  | base => exact List.filter_eq_self.2 fun k hk => by simp_all
  | succ n h ih =>
    have hn : ¬n < l := by omega
    rw [List.range_succ, List.filter_append, List.filter_append, ih]
    cases hp : p n <;> simp [hp, hn]

/-! ### Sums and clamping -/

/-- A clamped number is the value of its word (R33, R170). -/
theorem intOf_clamped (signed : Bool) (v : Int) :
    let r := intRange signed
    intOf signed (BitVec.ofInt 32 (max r.1 (min r.2 v))) = max r.1 (min r.2 v) := by
  cases signed with
  | true => exact toInt_ofInt_of_bounds (le_max_left _ _) (by simp [intRange])
  | false =>
    simp only [intRange, intOf, Bool.false_eq_true, if_false, BitVec.toNat_ofInt]
    omega

/-- The sum of a saturated reduction (R170, R171). -/
theorem intOf_satSum (ty : BitVec 4) (vals : Nat → Word) (m : LaneMask) :
    let r := intRange (ty == 1)
    intOf (ty == 1) (satSum ty vals m) = max r.1 (min r.2 ((lanesOf m).map fun l => intOf (ty == 1) (vals l)).sum) := by
  unfold satSum
  rw [← List.foldl_map, ← List.sum_eq_foldl]
  exact intOf_clamped _ _

/-! ### Entries written in order -/

section
variable {σ : Type} {step : σ → Nat → σ} {out : σ → AMap Word} {val : σ → Nat → Word}
  (happ : ∀ z l, out (step z l) = out z ++ [(l, val z l)])
include happ

/-- Later entries leave an entry as it is. -/
theorem find?_foldl_of_some {l : Nat} {v : Word} (ls : List Nat) {z : σ} (h : AMap.find? (out z) l = some v) :
    AMap.find? (out (ls.foldl step z)) l = some v := by
  induction ls generalizing z with
  | nil => exact h
  | cons k ls ih => exact ih (by rw [happ, AMap.find?_append, h]; rfl)

/-- A number that is not among those entered has no entry. -/
theorem find?_foldl_of_notMem {l : Nat} (ls : List Nat) {z : σ} (h : AMap.find? (out z) l = none) (hl : l ∉ ls) :
    AMap.find? (out (ls.foldl step z)) l = none := by
  induction ls generalizing z with
  | nil => exact h
  | cons k ls ih =>
    obtain ⟨hk, hls⟩ := not_or.1 (List.mem_cons.not.1 hl)
    exact ih (by simp [happ, AMap.find?_append, h, AMap.find?, Ne.symm hk]) hls

/-- A number's entry is what its own step wrote, after the numbers before it. -/
theorem get_foldl_entered {l : Nat} {before after : List Nat} {z : σ} (h : AMap.find? (out z) l = none) (hl : l ∉ before) :
    (out ((before ++ l :: after).foldl step z)).get 0 l = val (before.foldl step z) l := by
  have entered : AMap.find? (out (step (before.foldl step z) l)) l = some (val (before.foldl step z) l) := by
    rw [happ, AMap.find?_append, find?_foldl_of_notMem happ before h hl]
    simp [AMap.find?]
  rw [List.foldl_append, List.foldl_cons, AMap.get_eq_find?, find?_foldl_of_some happ after entered]
  rfl

end

/-! ### The steps of a scan -/

section
variable (g : Group) (op : BitVec 3) (ty : BitVec 4) (rm : BitVec 3) (vals : Nat → Word)

/-- The inclusive value that a lane gets of a scan without saturation: the value so far combined with the lane's (R173). -/
def scanIncl (z : Scan) (l : Nat) : Word :=
  match z.acc with
  | none => vals l
  | some x => (collOp g op ty rm x (vals l)).1

/-- A sum as a word of the type, clamped to its range (R170). -/
def clampWord (v : Int) : Word :=
  let r := intRange (ty == 1)
  BitVec.ofInt 32 (max r.1 (min r.2 v))

theorem incl_scanStep (z : Scan) (l : Nat) :
    (scanStep g op ty rm 0 vals z l).incl = z.incl ++ [(l, scanIncl g op ty rm vals z l)] := by
  unfold scanStep scanIncl
  cases z.acc <;> rfl

theorem excl_scanStep (z : Scan) (l : Nat) :
    (scanStep g op ty rm 0 vals z l).excl = z.excl ++ [(l, z.acc.getD (collEmpty op ty))] := by
  unfold scanStep
  cases z.acc <;> rfl

theorem acc_scanStep (z : Scan) (l : Nat) : (scanStep g op ty rm 0 vals z l).acc = some (scanIncl g op ty rm vals z l) := by
  unfold scanStep scanIncl
  cases z.acc <;> rfl

theorem incl_scanStep_sat (z : Scan) (l : Nat) : (scanStep g op ty rm 1 vals z l).incl =
    z.incl ++ [(l, clampWord ty (z.exact + intOf (ty == 1) (vals l)))] := rfl

theorem excl_scanStep_sat (z : Scan) (l : Nat) :
    (scanStep g op ty rm 1 vals z l).excl = z.excl ++ [(l, clampWord ty z.exact)] := rfl

/-- The values of lanes combined from the left; the empty value where there is none (R173). -/
def scanFold : List Nat → Word
  | [] => collEmpty op ty
  | k :: ks => ks.foldl (fun x k => (collOp g op ty rm x (vals k)).1) (vals k)

/-- What a scan has combined after some lanes. -/
theorem acc_foldl_scanStep (ls : List Nat) (z : Scan) {x : Word} (h : z.acc = some x) :
    (ls.foldl (scanStep g op ty rm 0 vals) z).acc = some (ls.foldl (fun x k => (collOp g op ty rm x (vals k)).1) x) := by
  induction ls generalizing z x with
  | nil => exact h
  | cons l ls ih => exact ih _ (by rw [acc_scanStep, scanIncl, h])

theorem getD_acc_scan (ls : List Nat) :
    (ls.foldl (scanStep g op ty rm 0 vals) {}).acc.getD (collEmpty op ty) = scanFold g op ty rm vals ls := by
  cases ls with
  | nil => rfl
  | cons k ks => rw [List.foldl_cons, acc_foldl_scanStep _ _ _ _ _ ks _ rfl]; rfl

theorem scanIncl_scan (ls : List Nat) (l : Nat) :
    scanIncl g op ty rm vals (ls.foldl (scanStep g op ty rm 0 vals) {}) l = scanFold g op ty rm vals (ls ++ [l]) := by
  rw [← getD_acc_scan, List.foldl_append, List.foldl_cons, List.foldl_nil, acc_scanStep]
  rfl

/-- What a saturated scan has summed after some lanes. -/
theorem exact_scan (ls : List Nat) (z : Scan) : (ls.foldl (scanStep g op ty rm 1 vals) z).exact =
    z.exact + (ls.map fun k => intOf (ty == 1) (vals k)).sum := by
  induction ls generalizing z with
  | nil => simp
  | cons l ls ih => 
    rw [List.foldl_cons, ih, List.map_cons, List.sum_cons, ← add_assoc]
    rfl

end

/-! ### What a scan gives -/

section
variable (g : Group) (op : BitVec 3) (ty : BitVec 4) (rm : BitVec 3) (vals : Nat → Word) {l : Nat} (hl : l < 96)
  (ha : g.active l = true)
include hl ha

/-- A scan gives an active lane the fold of the lanes up to it, and of those before it (R173). -/
theorem get_scan :
    let z := (lanesOf g.xm).foldl (scanStep g op ty rm 0 vals) {}
    let before := (List.range l).filter g.active
    z.incl.get 0 l = scanFold g op ty rm vals (before ++ [l]) ∧ z.excl.get 0 l = scanFold g op ty rm vals before := by
  obtain ⟨above, e⟩ := lanesOf_eq_append hl ha
  have hn : l ∉ (List.range l).filter g.active := by simp
  dsimp only
  rw [e, get_foldl_entered (incl_scanStep g op ty rm vals) rfl hn, get_foldl_entered (excl_scanStep g op ty rm vals) rfl hn,
    scanIncl_scan, getD_acc_scan]
  exact ⟨rfl, rfl⟩

/-- A saturated scan gives an active lane the clamped sum of the lanes up to it, and of those before it (R170, R173). -/
theorem get_scan_sat :
    let z := (lanesOf g.xm).foldl (scanStep g op ty rm 1 vals) {}
    let sum := fun ls : List Nat => (ls.map fun k => intOf (ty == 1) (vals k)).sum
    let before := (List.range l).filter g.active
    z.incl.get 0 l = clampWord ty (sum (before ++ [l])) ∧ z.excl.get 0 l = clampWord ty (sum before) := by
  obtain ⟨above, e⟩ := lanesOf_eq_append hl ha
  have hn : l ∉ (List.range l).filter g.active := by simp
  dsimp only
  rw [e, get_foldl_entered (incl_scanStep_sat g op ty rm vals) rfl hn,
    get_foldl_entered (excl_scanStep_sat g op ty rm vals) rfl hn, exact_scan, List.map_append, List.sum_append]
  simp

end

/-! ### Matches -/

section
variable (g : Group) (a : BitVec 7) (l : Nat)

/-- The active lanes whose word is lane l's. -/
def sameLanes : List Nat := (List.range 96).filter fun k => g.active k && g.lane a.toNat k == g.lane a.toNat l

theorem filter_lanesOf_same : ((lanesOf g.xm).filter fun k => g.lane a.toNat k == g.lane a.toNat l) = sameLanes g a l := by
  rw [lanesOf, laneList, List.filter_filter]
  exact List.filter_congr fun k _ => Bool.and_comm _ _

theorem length_sameLanes_le : (sameLanes g a l).length ≤ 96 :=
  (List.length_filter_le _ _).trans (List.length_range).le

/-- The leader of a match is the lowest active lane of the same word (R175). -/
theorem matchOf_leader (hl : l < 96) (ha : g.active l = true) :
    let same := fun k => g.active k = true ∧ g.lane a.toNat k = g.lane a.toNat l
    ∃ k, k < 96 ∧ same k ∧ (∀ j, j < k → ¬same j) ∧ (matchOf g a 0 l).toNat = k := by
  intro same
  have hfind : ((List.range 96).find? fun k => g.active k && g.lane a.toNat k == g.lane a.toNat l).isSome = true :=
    List.find?_isSome.2 ⟨l, List.mem_range.2 hl, by simp [ha]⟩
  obtain ⟨k, hk⟩ := Option.isSome_iff_exists.1 hfind
  obtain ⟨hsame, hlt, hmin⟩ := List.find?_range_eq_some.1 hk
  have hk96 := List.mem_range.1 hlt
  refine ⟨k, hk96, by simpa [same] using hsame, fun j hj ⟨h1, h2⟩ => by simpa [h1, h2] using hmin j hj, ?_⟩
  have hhead : (sameLanes g a l).headD l = k := by
    rw [List.headD_eq_head?_getD, sameLanes, List.head?_filter, hk]
    rfl
  show (BitVec.ofNat 32 (List.headD _ l)).toNat = k
  rw [filter_lanesOf_same, hhead]
  exact toNat_ofNat_of_le hk96.le

/-- The count of a match (R175). -/
theorem matchOf_count : (matchOf g a 1 l).toNat = (sameLanes g a l).length := by
  show (BitVec.ofNat 32 (List.length _)).toNat = _
  rw [filter_lanesOf_same]
  exact toNat_ofNat_of_le (length_sameLanes_le g a l)

/-- The rank of a match is the number of lower lanes of the same word (R175). -/
theorem matchOf_rank (hl : l < 96) : (matchOf g a 2 l).toNat =
    ((List.range l).filter fun k => g.active k && g.lane a.toNat k == g.lane a.toNat l).length := by
  show (BitVec.ofNat 32 (List.length (List.filter _ _))).toNat = _
  rw [filter_lanesOf_same, ← filter_lt_range hl.le]
  exact toNat_ofNat_of_le ((List.length_filter_le _ _).trans (length_sameLanes_le g a l))

end

/-- Settles O22: a clamped sum is the value of its word, a scan's entries are those of its steps, and a match is what the lanes
of the same word give. -/
theorem collectiveValues : Obligations.CollectiveValues := by
  unfold Obligations.CollectiveValues
  refine ⟨fun g ty rm vals m hty => ?sums, fun g op ty rm vals l hl ha => ?scan, fun g op ty rm vals l hl ha hty => ?scanSat,
    fun g a l hl ha => ⟨matchOf_leader g a l hl ha, matchOf_count g a l, matchOf_rank g a l hl⟩⟩
  case sums =>
    have hsum := intOf_satSum ty vals m
    rcases hty with rfl | rfl <;> exact hsum
  case scan =>
    intro z before fold
    have hfold (ls : List Nat) : fold ls = scanFold g op ty rm vals ls := by cases ls <;> rfl
    rw [hfold, hfold]
    exact get_scan g op ty rm vals hl ha
  case scanSat =>
    intro z sum before lo hi
    obtain ⟨hincl, hexcl⟩ := get_scan_sat g op ty rm vals hl ha
    have clamp (v : Int) : intOf (ty == 1) (clampWord ty v) = max lo (min hi v) := by
      have hv := intOf_clamped (ty == 1) v
      rcases hty with rfl | rfl <;> exact hv
    exact ⟨(congrArg _ hincl).trans (clamp _), (congrArg _ hexcl).trans (clamp _)⟩

end Sys2Proof.Claim
end

section
/-! SUPPORT. Classes of promotion (R162, R163), the requests of CTXSAVE and CTXLOAD (R304) and the end of a trial (R360): what
each leaves alone, and what it makes of the parts that it changes. -/

namespace Sys2Proof.Machine

variable {s : State}

/-! ### Leaving a class -/

/-- Leaving a class changes of the group its classes and where its engine stands. -/
theorem State.leaveClass_group (s : State) (k : Nat) (c : PClass) :
    let x := (s.leaveClass k c).group k
    x = { s.group k with
          classes := (s.group k).classes.filter (· != c), engine := x.engine, demoteNext := x.demoteNext
          displaced := x.displaced } := by
  unfold State.leaveClass
  dsimp only
  split
  · simp only [State.modGroup_eq, State.group_setGroup_self, State.demote_group]
    rw [Group.demoted_eq]
  · simp only [State.modGroup_eq, State.group_setGroup_self]

theorem State.leaveClass_group_ne (s : State) {j k : Nat} (c : PClass) (h : k ≠ j) :
    (s.leaveClass j c).group k = s.group k := by
  have left := s.group_setGroup_ne j k { s.group j with classes := (s.group j).classes.filter (· != c) } h
  refine ite_holds (P := fun t : State => t.group k = s.group k) ?_ left
  rw [State.modGroup_eq, State.group_setGroup_ne _ _ _ _ h, State.demote_group_ne _ h]
  exact left

theorem State.leaveClass_switchOnly (s : State) (k : Nat) (c : PClass) : SwitchOnly s (s.leaveClass k c) := by
  refine ite_holds (P := SwitchOnly s) ?_ rfl
  exact (SwitchOnly.trans (t := s.modGroup k fun g => { g with classes := g.classes.filter (· != c) }) rfl
    (State.demote_switchOnly _ k)).trans rfl

/-- The group that issues after it has left a class. -/
theorem State.leaveClass_g (s : State) (c : PClass) : (s.leaveClass s.cur c).g = (s.leaveClass s.cur c).group s.cur := by
  rw [State.g_eq, s.leaveClass_switchOnly s.cur c]
  rfl

theorem State.notMem_classes_leaveClass (s : State) (k : Nat) (c : PClass) : c ∉ ((s.leaveClass k c).group k).classes := by
  rw [State.leaveClass_group]
  simp

/-! ### Changes of several cores -/

/-- s with the cores of t. -/
def State.coresAs (s t : State) : State := { s with cores := t.cores }

/-- t is s but for its cores. -/
abbrev CoresOnly (s t : State) : Prop := t = s.coresAs t

theorem CoresOnly.context {t : State} (x : CoresOnly s t) (c : Nat) : t.context c = s.context c := by rw [x]; rfl
theorem CoresOnly.group {t : State} (x : CoresOnly s t) (k : Nat) : t.group k = s.group k := by rw [x]; rfl

theorem State.foldl_modCore_coresOnly (f : State → Nat → Core → Core) (l : List Nat) (s : State) :
    CoresOnly s (l.foldl (fun s c => s.modCore c (f s c)) s) := by
  induction l generalizing s with
  | nil => rfl
  | cons c l ih => rw [List.foldl_cons, ih]; rfl

/-- Each of some cores gets a limit that its clock count gives, whether it stands once or more among them. -/
theorem State.foldl_limitAt (limit : Nat) (l : List Nat) (s : State) {v : Nat}
    (h : v ∈ l ∨ (s.core v).limitAt = some (s.coreCycle v + limit)) :
    ((l.foldl (fun s c => s.modCore c fun x => { x with limitAt := some (s.coreCycle c + limit) }) s).core v).limitAt =
      some (s.coreCycle v + limit) := by
  induction l generalizing s with
  | nil => simpa using h
  | cons c l ih =>
    have hc : (s.modCore c fun x => { x with limitAt := some (s.coreCycle c + limit) }).coreCycle v = s.coreCycle v := by
      unfold State.coreCycle
      by_cases hv : v = c <;> simp [hv]
    rw [List.foldl_cons, ih, hc]
    rw [hc]
    by_cases hv : v = c
    · subst hv
      exact .inr (by simp)
    · simpa [hv] using h

/-! ### CTXSAVE and CTXLOAD -/

/-- s with the contexts, cores and requests of t. -/
def State.requestedAs (s t : State) : State := { s with contexts := t.contexts, cores := t.cores, requests := t.requests }

/-- t is s but for its contexts, cores and requests. -/
abbrev RequestOnly (s t : State) : Prop := t = s.requestedAs t

/-- A context begins to drain; what follows of its pre-emption changes cores alone. -/
theorem State.startPreempt_coresOnly (s : State) (ctx limit : Nat) :
    CoresOnly (s.modCtx ctx fun c => { c with preempt := .draining }) (s.startPreempt ctx limit) :=
  State.foldl_modCore_coresOnly (fun s c x => { x with limitAt := some (s.coreCycle c + limit) }) _ _

theorem State.stopPreempt_coresOnly (s : State) (ctx : Nat) :
    CoresOnly (s.modCtx ctx fun c => { c with preempt := .none }) (s.stopPreempt ctx) :=
  State.foldl_modCore_coresOnly (fun _ _ x => { x with limitAt := none }) _ _

theorem State.requestSave_requestOnly (s : State) (issuer target addr : Nat) :
    RequestOnly s (s.requestSave issuer target addr) := by
  unfold State.requestSave
  dsimp only
  split
  · rfl
  · next c _ =>
    refine ite_holds (P := RequestOnly s) ?_ rfl
    rw [s.startPreempt_coresOnly target c.preemptLimit.toNat]
    rfl

theorem State.requestLoad_requestOnly (s : State) (issuer target addr : Nat) :
    RequestOnly s (s.requestLoad issuer target addr) := by
  unfold State.requestLoad
  dsimp only
  split
  · rfl
  · refine ite_holds (P := RequestOnly s) rfl ?_
    rw [s.stopPreempt_coresOnly target]
    rfl

section
variable {target : Nat} {c : Context} (h : s.contexts.find? target = some c)
include h

/-- A context that is live reads as it is changed. -/
theorem State.context_modCtx_self (f : Context → Context) : (s.modCtx target f).context target = f c := by
  rw [State.context_modCtx, if_pos rfl, h]
  rfl

/-- A pre-emption that has begun: the context drains, and each of its cores counts the limit from now (R294). -/
theorem State.startPreempt_of_find (limit : Nat) :
    ((s.startPreempt target limit).context target).preempt = .draining ∧
      ∀ v ∈ c.coreList, ((s.startPreempt target limit).core v).limitAt = some (s.coreCycle v + limit) := by
  have hctx := State.context_modCtx_self h fun c => { c with preempt := .draining }
  refine ⟨congrArg Context.preempt (((s.startPreempt_coresOnly target limit).context target).trans hctx), fun v hv => ?_⟩
  unfold State.startPreempt
  dsimp only
  rw [hctx]
  exact State.foldl_limitAt limit _ _ (.inl hv)

theorem State.stopPreempt_of_find : ((s.stopPreempt target).context target).preempt = .none :=
  congrArg Context.preempt
    (((s.stopPreempt_coresOnly target).context target).trans (State.context_modCtx_self h fun c => { c with preempt := .none }))

end

/-! ### The end of a trial -/

/-- s with the groups, cores and contexts of t. -/
def State.trialAs (s t : State) : State := { s with groups := t.groups, cores := t.cores, contexts := t.contexts }

theorem State.stopTrial_rest (s : State) (ctx : Nat) : s.stopTrial ctx = s.trialAs (s.stopTrial ctx) := by
  unfold State.stopTrial
  dsimp only
  split
  · rfl
  · rw [State.foldl_modCore_coresOnly (fun _ _ x => { x with trialStart := none })]
    rfl

/-- The end of a trial changes of a group nothing but its delay. -/
theorem State.stopTrial_group (s : State) (ctx k : Nat) :
    ∃ d, (s.stopTrial ctx).group k = { s.group k with delayUntil := d } := by
  unfold State.stopTrial
  dsimp only
  split
  · exact ⟨_, rfl⟩
  · rw [(State.foldl_modCore_coresOnly (fun _ _ x => { x with trialStart := none }) _ _).group]
    unfold State.group
    rw [AMap.get_mapVals]
    · split
      · exact ⟨none, rfl⟩
      · exact ⟨_, rfl⟩
    · split <;> rfl

end Sys2Proof.Machine
end

section
/-! SETTLED: O35. PROMOTE, PROGRESS, CTXSAVE and CTXLOAD (R181, R294, R304, R305, R360): the effect of each leaves the group's
place alone, so that it retires, and what it changes is what its own operation changes. -/

namespace Sys2Proof.Claim

open Machine

variable {s : State}

/-- What has retired from u has u's group but for its place. -/
theorem classes_of_retired {i : Instr} {f : Flow} {u t : State} (h : Retired i f s u t) : t.g.classes = u.g.classes := by
  obtain ⟨-, -, hg, -⟩ := h
  rw [hg]
  rfl

/-- An instruction whose effect leaves the group's place alone retires. -/
theorem perform_did {i : Instr} {n : Info} {body : State → Res} {u : State} {f : Flow} {x : Group} (h : Issues i n s)
    (hb : body s = .done u f) (hg : u.g = x) (hx : x.clause = s.g.clause ∧ x.pc = s.g.pc ∧ x.word = s.g.word)
    (hm : ∀ a, u.byte a = s.byte a) : ∃ t, perform i n body s = .next t ∧ Did i f s u t := by
  subst hg
  obtain ⟨hc, hp, hw⟩ := hx
  exact ⟨_, perform_next h hb, State.retire_retired s u i n f hc hp hw, hm⟩

/-! ### PROMOTE and PROGRESS -/

theorem gainClass_g (s : State) (c : PClass) : (s.gainClass s.cur c).g =
    { s.g with
      classes := if s.g.classes.contains c then s.g.classes else s.g.classes ++ [c], qualAt := some (s.cycle s.cur)
      qualHeld := s.g.keepsHerd } :=
  State.g_setG _ _

/-- PROMOTE for promotion: the group is in the hint class (R181). -/
theorem promote_gains (h : Issues (.promote 1) { serial := some false } s) :
    ∃ t, exec (.promote 1) s = .next t ∧ Did (.promote 1) .seq s (s.gainClass s.cur .hint) t ∧ .hint ∈ t.g.classes := by
  have hg := gainClass_g s .hint
  obtain ⟨t, ht, hd⟩ : ∃ t, exec (.promote 1) s = .next t ∧ Did (.promote 1) .seq s (s.gainClass s.cur .hint) t := by
    unfold exec execPromote
    exact perform_did h rfl hg ⟨rfl, rfl, rfl⟩ fun _ => rfl
  refine ⟨t, ht, hd, ?_⟩
  rw [classes_of_retired hd.1, hg]
  by_cases hc : PClass.hint ∈ s.g.classes <;> simp [hc]

/-- PROMOTE for demotion: the group has left the hint class (R181). -/
theorem promote_leaves (h : Issues (.promote 0) { serial := some false } s) :
    ∃ t, exec (.promote 0) s = .next t ∧ Did (.promote 0) .seq s (s.leaveClass s.cur .hint) t ∧ .hint ∉ t.g.classes := by
  have hg := s.leaveClass_g .hint
  obtain ⟨t, ht, hd⟩ : ∃ t, exec (.promote 0) s = .next t ∧ Did (.promote 0) .seq s (s.leaveClass s.cur .hint) t := by
    unfold exec execPromote
    refine perform_did h rfl (hg.trans (s.leaveClass_group s.cur .hint)) ⟨rfl, rfl, rfl⟩ fun _ => ?_
    rw [s.leaveClass_switchOnly]
    rfl
  refine ⟨t, ht, hd, ?_⟩
  rw [classes_of_retired hd.1, hg]
  exact s.notMem_classes_leaveClass _ _

section
variable {k : BitVec 3} (h : Issues (.progress k) { serial := some false } s)
include h

theorem progress_left_out (hn : s.noObserve = true) :
    ∃ t, exec (.progress k) s = .next t ∧ Did (.progress k) .seq s s t := by
  unfold exec execProgress
  exact perform_did h (if_pos hn) rfl ⟨rfl, rfl, rfl⟩ fun _ => rfl

/-- The state in which PROGRESS has counted (R305). -/
def counted (s : State) (k : BitVec 3) : State :=
  s.modCtx s.g.ctx fun c =>
    { c with
      observe := { c.observe with
        progress := c.observe.progress.set 0 k.toNat (sat64 ((s.context s.g.ctx).observe.progress.get 0 k.toNat + 1)) } }

theorem progress_counts (hn : s.noObserve = false)
    (hx : ∀ x, (s.context s.g.ctx).observe.trial = some x →
      ¬(x.counter = k.toNat ∧ x.target ≤ sat64 ((s.context s.g.ctx).observe.progress.get 0 k.toNat + 1))) :
    ∃ t, exec (.progress k) s = .next t ∧ Did (.progress k) .seq s (counted s k) t := by
  unfold exec execProgress
  refine perform_did h (u := counted s k) ?_ rfl ⟨rfl, rfl, rfl⟩ fun _ => rfl
  dsimp only
  rw [if_neg (by simp [hn])]
  congr 1
  split
  · next x ht => exact if_neg (hx x ht)
  · rfl

/-- A trial whose target the counter reaches stops (R360). -/
theorem progress_stops (hn : s.noObserve = false) {x : Trial} (ht : (s.context s.g.ctx).observe.trial = some x)
    (hc : x.counter = k.toNat) (hv : x.target ≤ sat64 ((s.context s.g.ctx).observe.progress.get 0 k.toNat + 1)) :
    ∃ t, exec (.progress k) s = .next t ∧ Did (.progress k) .seq s ((counted s k).stopTrial s.g.ctx) t := by
  obtain ⟨d, hg⟩ := (counted s k).stopTrial_group s.g.ctx s.cur
  have hcur : ((counted s k).stopTrial s.g.ctx).g = ((counted s k).stopTrial s.g.ctx).group s.cur := by
    rw [State.g_eq, State.stopTrial_rest]
    rfl
  rw [hg] at hcur
  unfold exec execProgress
  refine perform_did h ?_ hcur ⟨rfl, rfl, rfl⟩ fun _ => ?_
  · dsimp only
    rw [if_neg (by simp [hn]), ht]
    exact congrArg (Res.done · .seq) (if_pos ⟨hc, hv⟩)
  · rw [State.stopTrial_rest]
    rfl

end

/-! ### CTXSAVE and CTXLOAD -/

/-- A request of a privileged context retires with what it makes of the state. -/
theorem ctxRequest_did {i : Instr} {c a : BitVec 6} {f : State → Nat → Nat → Nat → State}
    (hi : exec i s = ctxRequest i c a f s) (hp : (s.context s.g.ctx).priv = true)
    (h : Issues i
      { sr := [c.toNat, a.toNat, a.toNat + 1], pairs := [⟨true, a.toNat⟩]
        tags := [(.s a.toNat, 14), (.s (a.toNat + 1), 14)], serial := some false } s)
    (hf : RequestOnly s (f s s.g.ctx (s.g.sval c.toNat).toNat (s.g.pairNat a.toNat))) :
    ∃ t, exec i s = .next t ∧ Did i .seq s (f s s.g.ctx (s.g.sval c.toNat).toNat (s.g.pairNat a.toNat)) t := by
  have hbar : (!s.privileged) = false := by simp [State.privileged, hp]
  have hg : (f s s.g.ctx (s.g.sval c.toNat).toNat (s.g.pairNat a.toNat)).g = s.g := by rw [hf]; rfl
  unfold ctxRequest at hi
  rw [hi, hbar]
  refine perform_did h rfl hg ⟨rfl, rfl, rfl⟩ fun _ => ?_
  rw [hf]
  rfl

/-- CTXSAVE, by whether its target is live and is being pre-empted (R304). -/
theorem requestSave_did {i : Instr} {t : State} {issuer x addr : Nat} (h : Did i .seq s (s.requestSave issuer x addr) t) :
    let save : CtxRequest := { target := x, save := true, issuer := issuer, addr := addr }
    match s.contexts.find? x with
    | none => Did i .seq s { s with requests := s.requests ++ [{ save with status := some 2 }] } t
    | some k =>
      if k.preempt = .none then
        (t.context x).preempt = .draining ∧ t.requests = s.requests ++ [save] ∧ (∀ a, t.byte a = s.byte a) ∧
          ∀ v ∈ k.coreList, (t.core v).limitAt = some (s.coreCycle v + k.preemptLimit.toNat)
      else Did i .seq s { s with requests := s.requests ++ [{ save with status := some 3 }] } t := by
  unfold State.requestSave at h
  dsimp only at h ⊢
  cases hx : s.contexts.find? x with
  | none => rwa [hx] at h
  | some k =>
    rw [hx] at h
    dsimp only at h ⊢
    by_cases hk : k.preempt = .none
    · rw [if_pos hk] at h ⊢
      obtain ⟨⟨-, -, -, ht⟩, hb⟩ := h
      obtain ⟨hdrain, hlimit⟩ := State.startPreempt_of_find hx k.preemptLimit.toNat
      refine ⟨?_, ?_, hb, fun v hv => ?_⟩
      · rw [ht]; exact hdrain
      · rw [ht, s.startPreempt_coresOnly]; rfl
      · rw [ht]; exact hlimit v hv
    · rwa [if_neg hk] at h ⊢

/-- CTXLOAD, by whether its target is live and is being pre-empted (R304). -/
theorem requestLoad_did {i : Instr} {t : State} {issuer x addr : Nat} (h : Did i .seq s (s.requestLoad issuer x addr) t) :
    let load : CtxRequest := { target := x, save := false, issuer := issuer, addr := addr }
    match s.contexts.find? x with
    | none => Did i .seq s { s with requests := s.requests ++ [{ load with status := some 2 }] } t
    | some k =>
      if k.preempt = .none then Did i .seq s { s with requests := s.requests ++ [{ load with status := some 3 }] } t
      else (t.context x).preempt = .none ∧ { load with status := some 1 } ∈ t.requests ∧
        (k.preempt = .draining → ∀ r ∈ s.requests, r.save = true → r.target = x → r.status = none →
          { r with status := some (if s.vacated x then 1 else 4) } ∈ t.requests) ∧ ∀ a, t.byte a = s.byte a := by
  unfold State.requestLoad at h
  dsimp only at h ⊢
  cases hx : s.contexts.find? x with
  | none => rwa [hx] at h
  | some k =>
    rw [hx] at h
    dsimp only at h ⊢
    by_cases hk : k.preempt = .none
    · rwa [if_pos hk] at h ⊢
    · rw [if_neg hk] at h ⊢
      obtain ⟨⟨-, -, -, ht⟩, hb⟩ := h
      have hreq : (s.stopPreempt x).requests = s.requests := by rw [s.stopPreempt_coresOnly]; rfl
      have hvac : (s.stopPreempt x).vacated x = s.vacated x := by rw [s.stopPreempt_coresOnly]; rfl
      have htr := congrArg State.requests ht
      refine ⟨?_, ?_, fun hd r hr h1 h2 h3 => ?_, hb⟩
      · rw [ht]
        exact State.stopPreempt_of_find hx
      · rw [htr]
        exact List.mem_append_right _ (List.mem_singleton_self _)
      · rw [htr]
        refine List.mem_append_left _ (List.mem_map.2 ⟨r, hreq ▸ hr, ?_⟩)
        rw [hvac, hd, if_pos (by simp [h1, h2, h3])]
        cases s.vacated x <;> rfl

/-- Settles O35, each instruction by its effect. -/
theorem promoteProgressAndContextRequests : Obligations.PromoteProgressAndContextRequests := by
  unfold Obligations.PromoteProgressAndContextRequests
  refine ⟨⟨fun s h => promote_gains h, fun s h => promote_leaves h, fun s k h => ⟨progress_left_out h, progress_counts h,
    fun hn x ht hc hv => progress_stops h hn ht hc hv⟩⟩, fun s c a hp => ⟨fun h => ?save, fun h => ?load⟩⟩
  case save =>
    obtain ⟨t, ht, hd⟩ := ctxRequest_did (f := State.requestSave) rfl hp h (s.requestSave_requestOnly _ _ _)
    exact ⟨t, ht, requestSave_did hd⟩
  case load =>
    obtain ⟨t, ht, hd⟩ := ctxRequest_did (f := State.requestLoad) rfl hp h (s.requestLoad_requestOnly _ _ _)
    exact ⟨t, ht, requestLoad_did hd⟩

end Sys2Proof.Claim
end

section
/-! SUPPORT. Arrival at a barrier (R162, R178): who a barrier expects does not depend on what stands in the barriers, so that
the check after an arrival asks for the groups that were expected before it. -/

namespace Sys2Proof.Machine

variable {s t : State}

section
variable {team n : Nat}

/-! ### The expected set -/

/-- The groups of a team that have not halted, by the team's number. -/
def State.alive (s : State) (u : Nat) : List Nat := ((s.teams.find? u).map (s.teamAlive u)).getD []

/-- A group is alive in a team when one of the team's slots holds it and it has not halted. -/
theorem State.mem_alive {u x : Nat} : x ∈ s.alive u ↔ ∃ tm, s.teams.find? u = some tm ∧
    x ∈ (tm.slots.map fun l => 48 * tm.core + l) ∧ (s.group x).team = u ∧ (s.group x).halted = false := by
  unfold State.alive State.teamAlive
  cases s.teams.find? u <;> simp

/-- A team barrier expects its team, a gang barrier the teams of the gang (R178). -/
theorem State.expected_eq (s : State) (team n : Nat) : s.expected team n =
    if n < 16 then s.alive team
    else ((((s.teams.find? team).map (·.gang)).bind fun g => (s.gangs.find? g).map (·.teams)).getD []).flatMap s.alive := by
  unfold State.expected State.alive
  cases s.teams.find? team with
  | none => simp
  | some tm => rfl

/-- Who is alive depends on where the teams lie, and on the groups' teams and ends. -/
theorem State.alive_congr
    (ht : ∀ u, (t.teams.find? u).map (fun x => x.slots.map fun l => 48 * x.core + l) =
      (s.teams.find? u).map fun x => x.slots.map fun l => 48 * x.core + l)
    (hg : ∀ k, (t.group k).team = (s.group k).team ∧ (t.group k).halted = (s.group k).halted) : t.alive = s.alive := by
  have e (s : State) (u : Nat) : s.alive u =
      (((s.teams.find? u).map fun x => x.slots.map fun l => 48 * x.core + l).getD []).filter fun k =>
        (s.group k).team == u && !(s.group k).halted := by
    unfold State.alive State.teamAlive
    cases s.teams.find? u <;> rfl
  funext u
  rw [e, e, ht]
  simp only [hg]

/-- Replacing a barrier changes no expected set. -/
theorem State.expected_setBarrier (b : Barrier) (u m : Nat) : (s.setBarrier team n b).expected u m = s.expected u m := by
  rw [State.expected_eq, State.expected_eq,
    State.alive_congr (State.team_setBarrier _ (fun _ _ => rfl) b)
      fun k => by rw [State.group_congr (s.setBarrier_teamsOnly team n b).groups]; exact ⟨rfl, rfl⟩,
    State.team_setBarrier (fun x => x.gang) (fun _ _ => rfl)]
  simp only [State.gangTeams_setBarrier]

/-- Who is expected depends on the teams, the gangs, and the groups' teams and ends. -/
theorem State.expected_congr (ht : t.teams = s.teams) (hq : t.gangs = s.gangs)
    (hg : ∀ k, (t.group k).team = (s.group k).team ∧ (t.group k).halted = (s.group k).halted) (u m : Nat) :
    t.expected u m = s.expected u m := by
  rw [State.expected_eq, State.expected_eq, State.alive_congr (fun _ => by rw [ht]) hg, ht, hq]

theorem State.barrier_congr (ht : t.teams = s.teams) (hq : t.gangs = s.gangs) (u m : Nat) : t.barrier u m = s.barrier u m := by
  unfold State.barrier
  rw [ht, hq]

/-- Teams of one gang share its barriers (R177). -/
theorem State.barrier_of_gang {u v : Nat} (hn : 16 ≤ n)
    (h : (s.teams.find? u).map (·.gang) = (s.teams.find? v).map (·.gang)) : s.barrier u n = s.barrier v n := by
  have e (u : Nat) : s.barrier u n =
      (((s.teams.find? u).map (·.gang)).bind fun g => (s.gangs.find? g).map fun q => q.barriers.get {} n).getD {} := by
    unfold State.barrier
    cases s.teams.find? u with
    | none => rfl
    | some tm => exact if_neg (by omega)
  rw [e, e, h]

/-! ### The check -/

/-- A phase at which someone has arrived is due once all who are expected have (R178). -/
theorem State.barrier_checkBarrier (h : (s.barrier team n).arrived ≠ []) : (s.checkBarrier team n).barrier team n =
    { s.barrier team n with
      due := (s.barrier team n).due || (s.expected team n).all (s.barrier team n).arrived.contains } := by
  obtain ⟨tm, ht, hg⟩ := barrier_stands (s := s) (team := team) (n := n) fun e => h (by rw [e])
  unfold State.checkBarrier
  dsimp only
  by_cases ha : (s.expected team n).all (s.barrier team n).arrived.contains = true
  · rw [if_pos (by simp [h, ha]), State.barrier_setBarrier ht hg, ha, Bool.or_true]
  · rw [if_neg (by simp [ha]), Bool.eq_false_iff.2 ha, Bool.or_false]

theorem State.teamGang_checkBarrier (u : Nat) :
    ((s.checkBarrier team n).teams.find? u).map (·.gang) = (s.teams.find? u).map (·.gang) :=
  ite_holds (P := fun t : State => (t.teams.find? u).map (·.gang) = (s.teams.find? u).map (·.gang))
    (State.team_setBarrier _ (fun _ _ => rfl) _ u) rfl

end

/-! ### The arrival -/

/-- A barrier once group k has arrived (R162, R178). -/
def State.arrivedAt (s : State) (k n : Nat) : Barrier :=
  let b := s.barrier (s.group k).team n
  s.quorum (s.group k).team n (s.cycle k) { b with arrived := b.arrived ++ [k] }

theorem State.arrivedAt_eq (s : State) (k n : Nat) : s.arrivedAt k n =
    { s.barrier (s.group k).team n with
      arrived := (s.barrier (s.group k).team n).arrived ++ [k], quorumAt := (s.arrivedAt k n).quorumAt } := by
  unfold State.arrivedAt State.quorum
  dsimp only
  split <;> rfl

/-- The flit of an arrival at a gang barrier has passed the bed's local crossbar (R316). -/
def State.arrivalPassed (s : State) (k n : Nat) : State := if n < 16 then s else s.passes [coreOf k / 32] 0 s.clock 0

/-- The barrier with group k in its arrived set. -/
def State.inArrived (s : State) (k n : Nat) : State :=
  (s.arrivalPassed k n).setBarrier (s.group k).team n (s.arrivedAt k n)

/-- Group k knows the phase in which it has arrived, and is a laggard of the barrier no more (R162, R178). -/
def State.phaseNoted (s : State) (k n : Nat) : State :=
  (s.inArrived k n).modGroup k fun g =>
    { g with phases := g.phases.put n (s.arrivedAt k n).phase, laggardOf := g.laggardOf.filter (· != n) }

/-- A group that is no barrier's laggard leaves their class (R162). -/
def State.laggardLeft (s : State) (k : Nat) : State :=
  if (s.group k).laggardOf.isEmpty then s.leaveClass k .laggard else s

theorem State.arrive_eq (s : State) (k n : Nat) :
    s.arrive k n = ((s.phaseNoted k n).laggardLeft k).checkBarrier (s.group k).team n := rfl

/-- The flit changes routers alone. -/
theorem State.arrivalPassed_rest (s : State) (k n : Nat) :
    ∃ rs, s.arrivalPassed k n = { s with routers := rs } := by
  unfold State.arrivalPassed
  split
  · exact ⟨_, rfl⟩
  · exact ⟨_, rfl⟩

theorem State.laggardLeft_switchOnly (s : State) (k : Nat) : SwitchOnly s (s.laggardLeft k) :=
  ite_holds (P := SwitchOnly s) (s.leaveClass_switchOnly k _) rfl

theorem State.laggardLeft_group (s : State) (k : Nat) :
    let x := (s.laggardLeft k).group k
    x = { s.group k with
          classes := x.classes, engine := x.engine, demoteNext := x.demoteNext, displaced := x.displaced } := by
  unfold State.laggardLeft
  dsimp only
  split
  · rw [State.leaveClass_group]
  · rfl

theorem State.laggardLeft_group_ne (s : State) {j k : Nat} (h : k ≠ j) : (s.laggardLeft j).group k = s.group k :=
  ite_holds (P := fun t : State => t.group k = s.group k) (s.leaveClass_group_ne _ h) rfl

section
variable (s : State) (k n : Nat)

theorem State.inArrived_group (j : Nat) : (s.inArrived k n).group j = s.group j := by
  obtain ⟨rs, e⟩ := s.arrivalPassed_rest k n
  unfold State.inArrived
  rw [State.group_congr (State.setBarrier_teamsOnly _ _ _ _).groups, e]
  rfl

theorem State.phaseNoted_group : (s.phaseNoted k n).group k =
    { s.group k with
      phases := (s.group k).phases.put n (s.barrier (s.group k).team n).phase
      laggardOf := (s.group k).laggardOf.filter (· != n) } := by
  rw [State.phaseNoted, State.modGroup_eq, State.group_setGroup_self, State.inArrived_group, State.arrivedAt_eq]

/-- Who has arrived notes the phase; its place and registers stay. -/
theorem State.arrive_group :
    let x := (s.arrive k n).group k
    x = { s.group k with
          phases := (s.group k).phases.put n (s.barrier (s.group k).team n).phase, laggardOf := x.laggardOf
          classes := x.classes, engine := x.engine, demoteNext := x.demoteNext, displaced := x.displaced } := by
  rw [State.arrive_eq, State.group_congr (State.checkBarrier_teamsOnly _ _ _).groups, State.laggardLeft_group]
  dsimp only
  rw [State.phaseNoted_group]

theorem State.arrive_cur : (s.arrive k n).cur = s.cur := by
  obtain ⟨rs, e⟩ := s.arrivalPassed_rest k n
  rw [State.arrive_eq, (State.checkBarrier_teamsOnly _ _ _).cur, State.laggardLeft_switchOnly]
  show ((s.arrivalPassed k n).setBarrier _ n _).cur = _
  rw [(State.setBarrier_teamsOnly _ _ _ _).cur, e]

theorem State.arrive_mem : (s.arrive k n).mem = s.mem := by
  obtain ⟨rs, e⟩ := s.arrivalPassed_rest k n
  rw [State.arrive_eq, (State.checkBarrier_teamsOnly _ _ _).mem, State.laggardLeft_switchOnly]
  show ((s.arrivalPassed k n).setBarrier _ n _).mem = _
  rw [(State.setBarrier_teamsOnly _ _ _ _).mem, e]

/-- What the check after an arrival reads: the teams and gangs with the arrival, and who was expected before it. -/
theorem State.laggardLeft_phaseNoted :
    ((s.phaseNoted k n).laggardLeft k).teams = (s.inArrived k n).teams ∧
      ((s.phaseNoted k n).laggardLeft k).gangs = (s.inArrived k n).gangs := by
  rw [State.laggardLeft_switchOnly]
  exact ⟨rfl, rfl⟩

theorem State.laggardLeft_phaseNoted_group (j : Nat) :
    (((s.phaseNoted k n).laggardLeft k).group j).team = (s.group j).team ∧
      (((s.phaseNoted k n).laggardLeft k).group j).halted = (s.group j).halted := by
  by_cases hj : j = k
  · subst hj
    have hteam := congrArg Group.team (s.phaseNoted_group j n)
    have hhalted := congrArg Group.halted (s.phaseNoted_group j n)
    rw [(s.phaseNoted j n).laggardLeft_group j]
    exact ⟨hteam, hhalted⟩
  · rw [State.laggardLeft_group_ne _ hj, State.phaseNoted, State.modGroup_eq, State.group_setGroup_ne _ _ _ _ hj,
      State.inArrived_group]
    exact ⟨rfl, rfl⟩

theorem State.expected_laggardLeft_phaseNoted (u m : Nat) :
    ((s.phaseNoted k n).laggardLeft k).expected u m = s.expected u m := by
  obtain ⟨rs, e⟩ := s.arrivalPassed_rest k n
  obtain ⟨ht, hq⟩ := s.laggardLeft_phaseNoted k n
  calc ((s.phaseNoted k n).laggardLeft k).expected u m
      = (s.inArrived k n).expected u m := State.expected_congr ht hq (fun j => by
          rw [s.inArrived_group]; exact s.laggardLeft_phaseNoted_group k n j) u m
    _ = (s.arrivalPassed k n).expected u m := State.expected_setBarrier _ u m
    _ = s.expected u m := by rw [e]; rfl

/-- The team's gang is as it was. -/
theorem State.teamGang_arrive (u : Nat) : ((s.arrive k n).teams.find? u).map (·.gang) = (s.teams.find? u).map (·.gang) := by
  obtain ⟨rs, e⟩ := s.arrivalPassed_rest k n
  rw [State.arrive_eq, State.teamGang_checkBarrier, (s.laggardLeft_phaseNoted k n).1, State.inArrived,
    State.team_setBarrier (fun x => x.gang) (fun _ _ => rfl), e]

end

/-- The barrier after an arrival: the group is in its arrived set, the phase is the same, and it is due once all who are
expected have arrived (R178). -/
theorem State.barrier_arrive {k n : Nat} {tm : Team} (ht : s.teams.find? (s.group k).team = some tm)
    (hg : n < 16 ∨ (s.gangs.find? tm.gang).isSome = true) :
    let b := s.barrier (s.group k).team n
    (s.arrive k n).barrier (s.group k).team n =
      { b with
        arrived := b.arrived ++ [k], quorumAt := (s.arrivedAt k n).quorumAt
        due := b.due || (s.expected (s.group k).team n).all (b.arrived ++ [k]).contains } := by
  obtain ⟨rs, e⟩ := s.arrivalPassed_rest k n
  obtain ⟨hteams, hgangs⟩ := s.laggardLeft_phaseNoted k n
  have hb : ((s.phaseNoted k n).laggardLeft k).barrier (s.group k).team n = s.arrivedAt k n := by
    rw [State.barrier_congr hteams hgangs]
    exact State.barrier_setBarrier (by rw [e]; exact ht) (by rw [e]; exact hg) _
  have ha := s.arrivedAt_eq k n
  rw [State.arrive_eq, State.barrier_checkBarrier, hb, State.expected_laggardLeft_phaseNoted, ha]
  rw [hb, ha]
  simp

end Sys2Proof.Machine
end

section
/-! SETTLED: O34. BARA, BARW and BARAW (R177 to R180): the arrival by what `tryArrive` answers, the wait by whether the phase is
over; a group that waits has left the hint class and keeps its registers and its place. -/

namespace Sys2Proof.Claim

open Machine

variable {s : State}

/-! ### What the instructions ask -/

theorem arrivalPasses_iff (s : State) (k n : Nat) :
    s.arrivalPasses k n = true ↔ n < 16 ∨ s.inTurns [coreOf k / 32] 0 s.clock 0 = true := by
  simp [State.arrivalPasses]

theorem phaseOver_iff (s : State) (k n : Nat) : s.phaseOver k n = true ↔
    ∀ p, (s.group k).phases.find? n = some p → (s.barrier (s.group k).team n).phase ≠ p := by
  unfold State.phaseOver
  cases (s.group k).phases.find? n <;> simp

/-- The state in which the group that issues waits for something. -/
def waitingFor (s : State) (w : Wait) : State := s.setG { s.g with wait := w }

section
variable {n : Nat}

/-- A group in the arrived set waits for the phase to end (R178). -/
theorem tryArrive_arrived (h : s.cur ∈ (s.barrier s.g.team n).arrived) :
    tryArrive s n = .error (waitingFor s (.barrier n)) :=
  if_pos (List.contains_iff_mem.2 h)

variable (h : s.cur ∉ (s.barrier s.g.team n).arrived)
include h

/-- An arrival at a gang barrier out of turn stays where it is (R316). -/
theorem tryArrive_blocked (hp : s.arrivalPasses s.cur n = false) : tryArrive s n = .error s := by
  unfold tryArrive
  rw [if_neg (by simpa using h), if_pos (by simp [hp])]

variable (hp : s.arrivalPasses s.cur n = true)
include hp

/-- An arrival waits until its release is complete (R179). -/
theorem tryArrive_undrained (hd : s.drained s.cur s.fresh = false) :
    tryArrive s n = .error (waitingFor s (.release (barrierScope n))) := by
  unfold tryArrive
  rw [if_neg (by simpa using h), if_neg (by simp [hp]), if_neg (by simp [hd])]
  rfl

theorem tryArrive_done (hd : s.drained s.cur s.fresh = true) :
    tryArrive s n = .ok ((s.releaseL1 (coreOf s.cur) (barrierScope n)).arrive s.cur n) := by
  unfold tryArrive
  rw [if_neg (by simpa using h), if_neg (by simp [hp]), if_pos hd]

end

/-! ### The group that waits, and the group that has arrived -/

/-- y is group x in a wait: out of the hint class, with its registers and its place (R180). -/
structure Waits (x y : Group) (w : Wait) : Prop where
  wait : y.wait = w
  scalars : y.s = x.s
  vectors : y.v = x.v
  pc : y.pc = x.pc
  word : y.word = x.word
  arrivalDone : y.arrivalDone = x.arrivalDone
  hint : .hint ∉ y.classes

theorem waits_leaveClass (s : State) : Waits s.g (s.leaveClass s.cur .hint).g s.g.wait := by
  have hn := s.notMem_classes_leaveClass s.cur .hint
  rw [← s.leaveClass_g] at hn
  have hg := (s.leaveClass_g .hint).trans (s.leaveClass_group s.cur .hint)
  exact ⟨(congrArg Group.wait hg :), (congrArg Group.s hg :), (congrArg Group.v hg :), (congrArg Group.pc hg :),
    (congrArg Group.word hg :), (congrArg Group.arrivalDone hg :), hn⟩

theorem byte_leaveClass (s : State) (a : Nat) : (s.leaveClass s.cur .hint).byte a = s.byte a := by
  rw [s.leaveClass_switchOnly]
  rfl

/-- The wait for a phase. -/
theorem waitBarrier_waits (s : State) (n : Nat) :
    ∃ t, waitBarrier s n = .hold t ∧ Waits s.g t.g (.barrier n) ∧ ∀ a, t.byte a = s.byte a := by
  have hw := waits_leaveClass s
  rw [s.leaveClass_g] at hw
  have hg : ((s.leaveClass s.cur .hint).modGroup s.cur fun g => { g with wait := .barrier n }).g =
      { (s.leaveClass s.cur .hint).group s.cur with wait := .barrier n } := by
    rw [State.g_eq, State.modGroup_eq, State.setGroup_cur, s.leaveClass_switchOnly s.cur .hint]
    exact State.group_setGroup_self _ _ _
  refine ⟨_, rfl, ?_, fun a => byte_leaveClass s a⟩
  rw [hg]
  exact ⟨rfl, hw.scalars, hw.vectors, hw.pc, hw.word, hw.arrivalDone, hw.hint⟩

/-- The state in which the group that issues has released and arrived. -/
def released (s : State) (n : Nat) : State := (s.releaseL1 (coreOf s.cur) (barrierScope n)).arrive s.cur n

theorem released_cur (s : State) (n : Nat) : (released s n).cur = s.cur :=
  (State.arrive_cur _ _ _).trans (s.releaseL1_memoryOnly _ _).cur

/-- Release and arrival leave the group's registers and its place. -/
theorem released_g (s : State) (n : Nat) :
    let y := (released s n).g
    y.s = s.g.s ∧ y.v = s.g.v ∧ y.pc = s.g.pc ∧ y.word = s.g.word ∧ y.clause = s.g.clause := by
  have hg : (released s n).g = (released s n).group s.cur := congrArg (released s n).group (released_cur s n)
  have hr := (s.releaseL1_memoryOnly (coreOf s.cur) (barrierScope n)).group s.cur
  have ha := (s.releaseL1 (coreOf s.cur) (barrierScope n)).arrive_group s.cur n
  rw [hr] at ha
  dsimp only
  rw [hg, released, ha]
  exact ⟨rfl, rfl, rfl, rfl, rfl⟩

/-! ### BARA -/

section
variable {n : BitVec 6}

section
variable (h : Issues (.bara n) { serial := some false } s)
include h

theorem bara_arrives (ha : s.cur ∉ (s.barrier s.g.team n.toNat).arrived) (hp : s.arrivalPasses s.cur n.toNat = true)
    (hd : s.drained s.cur s.fresh = true) :
    ∃ t, exec (.bara n) s = .next t ∧ Retired (.bara n) .seq s (released s n.toNat) t := by
  obtain ⟨-, -, hpc, hword, hclause⟩ := released_g s n.toNat
  unfold exec execBara
  refine perform_retired h ?_ ⟨hclause, hpc, hword⟩ fun t ht _ => ht
  rw [tryArrive_done ha hp hd]
  rfl

theorem bara_holds {u : State} (hu : tryArrive s n.toNat = .error u) : exec (.bara n) s = .next u := by
  unfold exec execBara
  exact perform_hold h (by rw [hu])

end

/-! ### BARW and BARAW -/

/-- The state in which a group's wait for a phase is over: an acquire, where it has arrived (R179). -/
def phaseEnded (s : State) (n : Nat) : State :=
  let left := s.setG { s.g with arrivalDone := false }
  if (s.g.phases.find? n).isSome then left.acquireL1 (coreOf s.cur) (barrierScope n) else left

theorem barrierDone_eq (s : State) (n : Nat) : barrierDone s n = .done (phaseEnded s n) .seq := rfl

theorem phaseEnded_kept (s : State) (n : Nat) : GroupsMemKept (s.setG { s.g with arrivalDone := false }) (phaseEnded s n) :=
  ite_holds (P := GroupsMemKept _) (.acquireL1 _ _ _) (.refl _)

theorem phaseEnded_g (s : State) (n : Nat) : (phaseEnded s n).g = { s.g with arrivalDone := false } := by
  have hc : (phaseEnded s n).cur = s.cur :=
    ite_holds (P := fun t : State => t.cur = s.cur) (ite_holds (P := fun t : State => t.cur = s.cur) rfl rfl) rfl
  rw [State.g_eq, hc, (phaseEnded_kept s n).group]
  exact State.group_setG_cur _ _

/-- An instruction that waits for a phase, where the phase is over. -/
theorem perform_phaseEnded {i : Instr} {m : Info} {body : State → Res} (h : Issues i m s)
    (hb : body s = barrierDone s n.toNat) :
    ∃ t, perform i m body s = .next t ∧ Retired i .seq s (phaseEnded s n.toNat) t ∧ ∀ a, t.byte a = s.byte a :=
  perform_did h hb (phaseEnded_g s n.toNat) ⟨rfl, rfl, rfl⟩ (phaseEnded_kept s n.toNat).byte

section
variable (h : Issues (.barw n) { serial := some false } s)
include h

theorem barw_ends (hp : s.phaseOver s.cur n.toNat = true) :
    ∃ t, exec (.barw n) s = .next t ∧ Retired (.barw n) .seq s (phaseEnded s n.toNat) t ∧ ∀ a, t.byte a = s.byte a := by
  unfold exec execBarw
  exact perform_phaseEnded h (if_pos hp)

theorem barw_waits (hp : s.phaseOver s.cur n.toNat = false) :
    ∃ t, exec (.barw n) s = .next t ∧ Waits s.g t.g (.barrier n.toNat) ∧ ∀ a, t.byte a = s.byte a := by
  obtain ⟨t, ht, hw⟩ := waitBarrier_waits s n.toNat
  unfold exec execBarw
  exact ⟨t, perform_hold h ((if_neg (by simp [hp])).trans ht), hw⟩

end

section
variable (h : Issues (.baraw n) { serial := some false } s)
include h

theorem baraw_ends (ha : s.g.arrivalDone = true) (hp : s.phaseOver s.cur n.toNat = true) :
    ∃ t, exec (.baraw n) s = .next t ∧ Retired (.baraw n) .seq s (phaseEnded s n.toNat) t ∧ ∀ a, t.byte a = s.byte a := by
  unfold exec execBaraw
  exact perform_phaseEnded h ((if_pos ha).trans (if_pos hp))

variable (hf : s.g.arrivalDone = false)
include hf

/-- A BARAW that arrives goes on to wait for the phase (R178). -/
theorem baraw_arrives (ha : s.cur ∉ (s.barrier s.g.team n.toNat).arrived) (hp : s.arrivalPasses s.cur n.toNat = true)
    (hd : s.drained s.cur s.fresh = true) :
    ∃ t, exec (.baraw n) s = .next t ∧
      Waits { (released s n.toNat).g with arrivalDone := true } t.g (.barrier n.toNat) := by
  obtain ⟨t, ht, hw, -⟩ := waitBarrier_waits
    ((released s n.toNat).setG { (released s n.toNat).g with arrivalDone := true }) n.toNat
  rw [State.g_setG] at hw
  unfold exec execBaraw
  refine ⟨t, perform_hold h ((if_neg (by simp [hf])).trans ?_), hw⟩
  rw [tryArrive_done ha hp hd]
  exact ht

/-- A BARAW whose arrival waits leaves the hint class (R180). -/
theorem baraw_holds {w : Wait} (hw : w ≠ .none) (hu : tryArrive s n.toNat = .error (waitingFor s w)) :
    ∃ t, exec (.baraw n) s = .next t ∧ Waits s.g t.g w := by
  have hg : (waitingFor s w).g = { s.g with wait := w } := State.g_setG _ _
  have hx := waits_leaveClass (waitingFor s w)
  rw [hg] at hx
  refine ⟨(waitingFor s w).leaveClass (waitingFor s w).cur .hint, ?_,
    ⟨hx.wait, hx.scalars, hx.vectors, hx.pc, hx.word, hx.arrivalDone, hx.hint⟩⟩
  unfold exec execBaraw
  refine perform_hold h ((if_neg (by simp [hf])).trans ?_)
  rw [hu]
  exact congrArg Res.hold (if_neg (by simpa [hg] using hw))

end

end

/-! ### The arrived set -/

/-- What an arrival makes of its barrier (R178). -/
theorem arrive_barrier {k n : Nat} {tm : Team} (ht : s.teams.find? (s.group k).team = some tm)
    (hg : n < 16 ∨ (s.gangs.find? tm.gang).isSome = true) :
    let u := s.arrive k n
    let b := s.barrier (s.group k).team n
    let b' := u.barrier (s.group k).team n
    b'.arrived = b.arrived ++ [k] ∧ b'.phase = b.phase ∧ (u.group k).phases.find? n = some b.phase ∧
      (b'.due = true ↔ b.due = true ∨ ∀ x ∈ s.expected (s.group k).team n, x ∈ b.arrived ++ [k]) := by
  dsimp only
  rw [State.barrier_arrive ht hg, s.arrive_group]
  refine ⟨rfl, rfl, AMap.find?_put_self _ _ _, ?_⟩
  simp

theorem byte_arrive (s : State) (k n a : Nat) : (s.arrive k n).byte a = s.byte a :=
  congrArg (fun m : AMap Byte => m.get 0 a) (s.arrive_mem k n)

/-- A team barrier expects the groups of the team that have not halted (R178). -/
theorem forall_expected_team {team n : Nat} {tm : Team} (hn : n < 16) (ht : s.teams.find? team = some tm) {P : Nat → Prop} :
    (∀ x ∈ s.expected team n, P x) ↔ ∀ x ∈ (tm.slots.map fun l => 48 * tm.core + l),
      (s.group x).team = team → (s.group x).halted = false → P x := by
  rw [State.expected_eq, if_pos hn]
  simp only [State.mem_alive, ht, Option.some.injEq]
  exact ⟨fun h x hx h1 h2 => h x ⟨tm, rfl, hx, h1, h2⟩, fun h x ⟨_, e, hx, h1, h2⟩ => h x (e ▸ hx) h1 h2⟩

/-- A gang barrier expects the groups of all the gang's teams (R178). -/
theorem forall_expected_gang {team n : Nat} {tm : Team} {q : Gang} (hn : 16 ≤ n) (ht : s.teams.find? team = some tm)
    (hq : s.gangs.find? tm.gang = some q) {P : Nat → Prop} :
    (∀ x ∈ s.expected team n, P x) ↔ ∀ v ∈ q.teams, ∀ tv, s.teams.find? v = some tv →
      ∀ x ∈ (tv.slots.map fun l => 48 * tv.core + l), (s.group x).team = v → (s.group x).halted = false → P x := by
  have he : s.expected team n = q.teams.flatMap s.alive := by
    rw [State.expected_eq, if_neg (by omega), ht]
    simp [hq]
  rw [he]
  simp only [List.mem_flatMap, State.mem_alive]
  exact ⟨fun h v hv tv htv x hx h1 h2 => h x ⟨v, hv, tv, htv, hx, h1, h2⟩,
    fun h x ⟨v, hv, tv, htv, hx, h1, h2⟩ => h v hv tv htv x hx h1 h2⟩

/-- All the teams of the gang see an arrival at a gang barrier (R177). -/
theorem barrier_arrive_gang {k n v : Nat} {tm tv : Team} (hn : 16 ≤ n) (ht : s.teams.find? (s.group k).team = some tm)
    (hv : s.teams.find? v = some tv) (hg : tv.gang = tm.gang) :
    (s.arrive k n).barrier v n = (s.arrive k n).barrier (s.group k).team n :=
  State.barrier_of_gang hn (by simp [State.teamGang_arrive, ht, hv, hg])

/-- Settles O34: the instructions by what `tryArrive` and `State.phaseOver` answer, the arrival by the barrier it leaves. -/
theorem barrierInstructions : Obligations.BarrierInstructions := by
  unfold Obligations.BarrierInstructions
  refine ⟨fun s n _ => ?instructions, fun s k n tm hn ht => ?team, fun s k n tm q hn ht hq => ?gang⟩
  case instructions =>
    intro scope b ended left done waits info passes
    have hpass : passes → s.arrivalPasses s.cur n.toNat = true := (arrivalPasses_iff s s.cur n.toNat).2
    have hblock (h : ¬passes) : s.arrivalPasses s.cur n.toNat = false :=
      Bool.eq_false_iff.2 fun e => h ((arrivalPasses_iff s s.cur n.toNat).1 e)
    have hover : ended → s.phaseOver s.cur n.toNat = true := (phaseOver_iff s s.cur n.toNat).2
    have hrun (h : ¬ended) : s.phaseOver s.cur n.toNat = false :=
      Bool.eq_false_iff.2 fun e => h ((phaseOver_iff s s.cur n.toNat).1 e)
    refine ⟨fun h ha hp hd => ?_, fun h ha => ?_, fun h ha hp hd => ?_, fun h ha hp => ?_, fun h he => ?_, fun h he => ?_,
      fun h hf he => ?_, fun h hf ha hp hd => ?_, fun h hf hw => ?_⟩
    · exact bara_arrives h ha (hpass hp) hd
    · exact bara_holds h (tryArrive_arrived ha)
    · exact bara_holds h (tryArrive_undrained ha (hpass hp) hd)
    · exact bara_holds h (tryArrive_blocked ha (hblock hp))
    · exact barw_ends h (hover he)
    · obtain ⟨t, ht, hw, hb⟩ := barw_waits h (hrun he)
      exact ⟨t, ht, ⟨hw.wait, hw.scalars, hw.vectors, hw.pc, hw.word⟩, hw.hint, hb⟩
    · exact baraw_ends h hf (hover he)
    · obtain ⟨t, ht, hw⟩ := baraw_arrives h hf ha (hpass hp) hd
      obtain ⟨hs, hv, hpc, hword, -⟩ := released_g s n.toNat
      exact ⟨t, ht, ⟨hw.wait, hw.scalars.trans hs, hw.vectors.trans hv, hw.pc.trans hpc, hw.word.trans hword⟩, hw.arrivalDone⟩
    · by_cases ha : s.cur ∈ b.arrived
      · obtain ⟨t, ht, hx⟩ := baraw_holds h hf (by simp) (tryArrive_arrived ha)
        exact ⟨t, ht, hx.hint, hx.scalars, hx.vectors, hx.pc, hx.wait.trans (if_pos ha).symm⟩
      · obtain ⟨hp, hd⟩ := hw.resolve_left ha
        obtain ⟨t, ht, hx⟩ := baraw_holds h hf (by simp) (tryArrive_undrained ha (hpass hp) hd)
        exact ⟨t, ht, hx.hint, hx.scalars, hx.vectors, hx.pc, hx.wait.trans (if_neg ha).symm⟩
  case team =>
    obtain ⟨harrived, hphase, hnoted, hdue⟩ := arrive_barrier ht (.inl hn)
    exact ⟨harrived, hphase, hnoted, hdue.trans (or_congr_right (forall_expected_team hn ht)), byte_arrive s k n⟩
  case gang =>
    obtain ⟨harrived, hphase, hnoted, hdue⟩ := arrive_barrier (n := n) ht (.inr (by rw [hq]; rfl))
    exact ⟨harrived, hphase, hnoted, hdue.trans (or_congr_right (forall_expected_gang hn ht hq)),
      fun v tv hv hg => barrier_arrive_gang hn ht hv hg, byte_arrive s k n⟩

end Sys2Proof.Claim
end

section
/-! SUPPORT. The L1s and the home bytes under what a core writes back (R193 to R195): what each write leaves of every line that
an L1 holds and of every byte at home. -/

namespace Sys2Proof.Machine

variable {s t : State}

/-! ### Sectors written at the home -/

section
variable {α β : Type} [DecidableEq α] {d : α} {p : β → Bool} {k : β → Nat} {v : β → α} {a : Nat}

/-- A number that none of some writes names reads as before. -/
theorem AMap.get_foldl_set_of_ne {l : List β} (m : AMap α) (h : ∀ x ∈ l, p x = true → k x ≠ a) :
    (l.foldl (fun m x => if p x then m.set d (k x) (v x) else m) m).get d a = m.get d a := by
  induction l generalizing m with
  | nil => rfl
  | cons x l ih =>
    rw [List.foldl_cons, ih _ fun y hy => h y (List.mem_cons_of_mem _ hy)]
    split
    · next hx => exact AMap.get_set_ne _ _ _ _ _ (h x List.mem_cons_self hx).symm
    · rfl

/-- A number that some writes name, all with one value, reads as that value. -/
theorem AMap.get_foldl_set_of_eq {l : List β} (m : AMap α) {w : α} (h : ∀ x ∈ l, p x = true → k x = a → v x = w)
    (hx : ∃ x ∈ l, p x = true ∧ k x = a) :
    (l.foldl (fun m x => if p x then m.set d (k x) (v x) else m) m).get d a = w := by
  induction l generalizing m with
  | nil => exact absurd hx (by simp)
  | cons y l ih =>
    have htail : ∀ x ∈ l, p x = true → k x = a → v x = w := fun x hx => h x (List.mem_cons_of_mem _ hx)
    rw [List.foldl_cons]
    by_cases hl : ∃ x ∈ l, p x = true ∧ k x = a
    · exact ih _ htail hl
    · obtain ⟨x, hx, hp, hk⟩ := hx
      obtain rfl | hx := List.mem_cons.1 hx
      · rw [AMap.get_foldl_set_of_ne _ fun z hz hpz hkz => hl ⟨z, hz, hpz, hkz⟩, if_pos hp, hk, AMap.get_set_self]
        exact h x List.mem_cons_self hp hk
      · exact absurd ⟨x, hx, hp, hk⟩ hl

end

/-- The bytes of the sectors of a mask come from the line, and all others stay. -/
theorem get_putSectors (m : AMap Byte) (line : Nat) (mask : BitVec 4) (b : AMap Byte) (a : Nat) :
    (putSectors m line mask b).get 0 a =
      if a / 192 = line ∧ mask.getLsbD (a % 192 / 48) = true then b.get 0 (a % 192) else m.get 0 a := by
  unfold putSectors
  split
  · next h =>
    obtain ⟨rfl, hm⟩ := h
    refine AMap.get_foldl_set_of_eq m (fun i _ _ e => ?_) ⟨a % 192, List.mem_range.2 (by omega), hm, by omega⟩
    rw [show i = a % 192 by omega]
  · next h =>
    refine AMap.get_foldl_set_of_ne m fun i hi hm e => h ?_
    have hlt := List.mem_range.1 hi
    exact ⟨by omega, by rw [show a % 192 = i by omega]; exact hm⟩

/-! ### Lines of an L1 -/

theorem State.core_congr (h : t.cores = s.cores) (c : Nat) : t.core c = s.core c :=
  congrArg (fun m : AMap Core => m.get ({} : Core) c) h

theorem State.l1_congr (h : t.cores = s.cores) (c line : Nat) : t.l1 c line = s.l1 c line :=
  congrArg (fun x : Core => x.l1.find? line) (State.core_congr h c)

theorem State.byte_congr (h : t.mem = s.mem) (a : Nat) : t.byte a = s.byte a :=
  congrArg (fun m : AMap Byte => m.get 0 a) h

@[simp] theorem State.l1_setCore_self (s : State) (c line : Nat) (x : Core) :
    (s.setCore c x).l1 c line = x.l1.find? line := by
  unfold State.l1
  rw [State.core_setCore_self]

@[simp] theorem State.l1_setCore_ne (s : State) {c d : Nat} (line : Nat) (x : Core) (h : d ≠ c) :
    (s.setCore c x).l1 d line = s.l1 d line := by
  unfold State.l1
  rw [State.core_setCore_ne _ _ _ _ h]

theorem State.l1_setL1_self (s : State) (c line : Nat) (x : L1Line) : (s.setL1 c line x).l1 c line = some x := by
  unfold State.setL1
  rw [State.modCore_eq, State.l1_setCore_self, AMap.find?_put_self]

theorem State.l1_setL1_ne (s : State) {c line d n : Nat} (x : L1Line) (h : d ≠ c ∨ n ≠ line) :
    (s.setL1 c line x).l1 d n = s.l1 d n := by
  unfold State.setL1
  rw [State.modCore_eq]
  by_cases hd : d = c
  · subst hd
    rw [State.l1_setCore_self, AMap.find?_put_ne _ _ _ _ (h.resolve_left (not_not_intro rfl))]
    rfl
  · rw [State.l1_setCore_ne _ _ _ hd]

/-- A line with clean sectors of a mask marked as changed at the home (R195). -/
def L1Line.staled (l : L1Line) (mask : BitVec 4) : L1Line := { l with stale := l.stale ||| (l.valid &&& mask &&& ~~~l.dirty) }

/-- Marking changes the lines of other cores alone. -/
theorem State.l1_markStale (s : State) (by_ : Option Nat) (line : Nat) (mask : BitVec 4) (c n : Nat) :
    (s.markStale by_ line mask).l1 c n =
      if some c ≠ by_ ∧ n = line then (s.l1 c n).map (L1Line.staled · mask) else s.l1 c n := by
  have hc : (s.markStale by_ line mask).core c = if some c = by_ then s.core c else
      { s.core c with l1 := (s.core c).l1.modify line (L1Line.staled · mask) } :=
    AMap.get_mapVals ({} : Core) s.cores
      (fun c (x : Core) => if some c = by_ then x else { x with l1 := x.l1.modify line (L1Line.staled · mask) }) c
      (ite_self _)
  unfold State.l1
  rw [hc]
  by_cases hb : some c = by_
  · simp [hb]
  · by_cases hn : n = line
    · simp [hb, hn, AMap.find?_modify]
    · simp [hb, hn, AMap.find?_modify]

/-! ### Writing sectors back -/

/-- A line of an L1 once its dirty sectors of a mask have been written back (R194). -/
def L1Line.written (l : L1Line) (mask : BitVec 4) (rec_ : BitVec 3) : L1Line :=
  { l with
    filled := l.filled &&& ~~~(l.dirty &&& mask), stale := l.stale &&& ~~~(l.dirty &&& mask)
    dirty := l.dirty &&& ~~~(l.dirty &&& mask), pinned := l.pinned &&& ~~~mask, rec_ := rec_ }

/-- A line written back whole is clean. -/
theorem L1Line.written_clean (l : L1Line) (rec_ : BitVec 3) : (l.written 15 rec_).dirty = 0 := by
  have (d : BitVec 4) : d &&& ~~~(d &&& 15) = 0 := by revert d; decide
  exact this l.dirty

/-- Of a line that the core does not hold nothing is written back. -/
theorem State.writeSectors_none {c line : Nat} (h : s.l1 c line = none) (mask : BitVec 4) (rec_ : BitVec 3) :
    s.writeSectors c line mask rec_ = s := by
  unfold State.writeSectors
  rw [h]

section
variable {c line : Nat} {l : L1Line} (h : s.l1 c line = some l) (mask : BitVec 4) (rec_ : BitVec 3)
include h

/-- A write-back puts the sectors at the home, ends their pins, marks the other cores' copies and leaves the line clean. -/
theorem State.writeSectors_some :
    ∃ u : State, u.cores = s.cores ∧ u.mem = putSectors s.mem line (l.dirty &&& mask) l.bytes ∧
      u.pins = unpin s.pins c line mask ∧
      s.writeSectors c line mask rec_ =
        (u.markStale (some c) line (l.dirty &&& mask)).setL1 c line (l.written mask rec_) := by
  let v : State := { s with
    mem := putSectors s.mem line (l.dirty &&& mask) l.bytes, pins := unpin s.pins c line mask
    poison := if l.dirty &&& mask = 15 then s.poison.filter (· != line) else s.poison }
  have served : ServeOnly v ((v.flit (routePart c (dieOf line))).l2Serve line) :=
    ServeOnly.trans (t := v.flit (routePart c (dieOf line))) rfl (State.l2Serve_serveOnly _ _)
  refine ⟨if l.dirty &&& mask = 0 then v else (v.flit (routePart c (dieOf line))).l2Serve line, ?_, ?_, ?_, ?_⟩
  · split
    · rfl
    · rw [served]
  · split
    · rfl
    · rw [served]
  · split
    · rfl
    · rw [served]
  · unfold State.writeSectors
    rw [h]
    rfl

theorem State.byte_writeSectors (a : Nat) :
    (s.writeSectors c line mask rec_).byte a =
      if a / 192 = line ∧ (l.dirty &&& mask).getLsbD (a % 192 / 48) = true then l.bytes.get 0 (a % 192) else s.byte a := by
  obtain ⟨u, -, hm, -, e⟩ := State.writeSectors_some h mask rec_
  rw [e]
  show u.mem.get 0 a = _
  rw [hm, get_putSectors]
  rfl

theorem State.pins_writeSectors : (s.writeSectors c line mask rec_).pins = unpin s.pins c line mask := by
  obtain ⟨u, -, -, hp, e⟩ := State.writeSectors_some h mask rec_
  rw [e]
  exact hp

theorem State.l1_writeSectors_self : (s.writeSectors c line mask rec_).l1 c line = some (l.written mask rec_) := by
  obtain ⟨u, -, -, -, e⟩ := State.writeSectors_some h mask rec_
  rw [e, State.l1_setL1_self]

end

/-- A write-back leaves other lines. -/
theorem State.l1_writeSectors_line (s : State) (c : Nat) {line n : Nat} (mask : BitVec 4) (rec_ : BitVec 3) (d : Nat)
    (hn : n ≠ line) : (s.writeSectors c line mask rec_).l1 d n = s.l1 d n := by
  cases hl : s.l1 c line with
  | none => rw [State.writeSectors_none hl]
  | some l =>
    obtain ⟨u, hu, -, -, e⟩ := State.writeSectors_some hl mask rec_
    rw [e, State.l1_setL1_ne _ _ (.inr hn), State.l1_markStale, if_neg fun h => hn h.2, State.l1_congr hu]

/-- Of the line at other cores a write-back marks clean sectors at most. -/
theorem State.l1_writeSectors_core (s : State) {c d : Nat} (line n : Nat) (mask : BitVec 4) (rec_ : BitVec 3) (hd : d ≠ c) :
    ∃ m, (s.writeSectors c line mask rec_).l1 d n = (s.l1 d n).map (L1Line.staled · m) := by
  have same : (s.l1 d n).map (L1Line.staled · 0) = s.l1 d n := by
    cases s.l1 d n <;> simp [L1Line.staled]
  cases hl : s.l1 c line with
  | none => exact ⟨0, by rw [State.writeSectors_none hl, same]⟩
  | some l =>
    obtain ⟨u, hu, -, -, e⟩ := State.writeSectors_some hl mask rec_
    rw [e, State.l1_setL1_ne _ _ (.inl hd), State.l1_markStale, State.l1_congr hu]
    split
    · exact ⟨_, rfl⟩
    · exact ⟨0, same.symm⟩

/-! ### Release and acquire (R195) -/

/-- The write-back of a line, where it is dirty. -/
def State.releaseLine (c : Nat) (scope : BitVec 3) (s : State) (p : Nat × L1Line) : State :=
  if p.2.dirty = 0 then s else s.writeBack c p.1 scope

theorem State.releaseL1_eq (s : State) (c : Nat) {scope : BitVec 3} (h : 2 ≤ scope.toNat) :
    s.releaseL1 c scope = (s.core c).l1.foldl (State.releaseLine c scope) s :=
  if_neg (by omega)

/-- Releasing one line leaves the others. -/
theorem State.l1_releaseLine_ne (s : State) (c : Nat) (scope : BitVec 3) (p : Nat × L1Line) {n : Nat} (h : n ≠ p.1) :
    (s.releaseLine c scope p).l1 c n = s.l1 c n := by
  unfold State.releaseLine
  split
  · rfl
  · exact State.l1_writeSectors_line s c 15 scope c h

/-- Releasing a line that the core holds leaves it clean. -/
theorem State.l1_releaseLine_self {c : Nat} {p : Nat × L1Line} (h : s.l1 c p.1 = some p.2) (scope : BitVec 3) :
    ∃ l, (s.releaseLine c scope p).l1 c p.1 = some l ∧ l.dirty = 0 := by
  unfold State.releaseLine
  split
  · next hd => exact ⟨p.2, h, hd⟩
  · exact ⟨_, State.l1_writeSectors_self h 15 scope, p.2.written_clean scope⟩

/-- Releasing a line puts its dirty sectors at the home, and changes no other byte. -/
theorem State.byte_releaseLine {c : Nat} {p : Nat × L1Line} (h : s.l1 c p.1 = some p.2) (scope : BitVec 3) (a : Nat) :
    (s.releaseLine c scope p).byte a =
      if a / 192 = p.1 ∧ p.2.dirty.getLsbD (a % 192 / 48) = true then p.2.bytes.get 0 (a % 192) else s.byte a := by
  have all (d : BitVec 4) : d &&& 15 = d := by revert d; decide
  unfold State.releaseLine
  split
  · next hd => simp [hd]
  · exact (State.byte_writeSectors h 15 scope a).trans (by rw [all])

/-- The lines of a list released one after another, each of which the core holds: every byte of a dirty sector of them is at
the home, and they are clean. -/
theorem State.releaseLines (c : Nat) (scope : BitVec 3) {ls : AMap L1Line} (hs : ls.sorted = true)
    (h : ∀ p ∈ ls, s.l1 c p.1 = some p.2) :
    let u := ls.foldl (State.releaseLine c scope) s
    (∀ a, u.byte a = match ls.find? (a / 192) with
      | some l => if l.dirty.getLsbD (a % 192 / 48) then l.bytes.get 0 (a % 192) else s.byte a
      | none => s.byte a) ∧
    ∀ n, (ls.find? n = none → u.l1 c n = s.l1 c n) ∧ ((ls.find? n).isSome = true → ∃ l, u.l1 c n = some l ∧ l.dirty = 0) := by
  induction ls generalizing s with
  | nil => exact ⟨fun a => rfl, fun n => ⟨fun _ => rfl, fun hn => absurd hn (by simp)⟩⟩
  | cons p ls ih =>
    obtain ⟨hp, hls⟩ := List.pairwise_cons.1 ((AMap.sorted_iff _).1 hs)
    have hne (n : Nat) (hn : (AMap.find? ls n).isSome = true) : n ≠ p.1 := by
      obtain ⟨l, hl⟩ := Option.isSome_iff_exists.1 hn
      have := hp _ (AMap.find?_mem _ _ _ hl)
      omega
    have hhead := h p List.mem_cons_self
    have hheld : ∀ q ∈ ls, (s.releaseLine c scope p).l1 c q.1 = some q.2 := fun q hq => by
      rw [State.l1_releaseLine_ne s c scope p (Nat.ne_of_gt (hp q hq))]
      exact h q (List.mem_cons_of_mem _ hq)
    obtain ⟨hbyte, hline⟩ := ih ((AMap.sorted_iff _).2 hls) hheld
    refine ⟨fun a => ?_, fun n => ⟨fun hn => ?_, fun hn => ?_⟩⟩
    · rw [List.foldl_cons, hbyte a, State.byte_releaseLine hhead scope a]
      by_cases e : p.1 = a / 192
      · have hnone : AMap.find? ls (a / 192) = none := by
          by_contra hsome
          exact hne _ (Option.isSome_iff_ne_none.2 hsome) e.symm
        simp [AMap.find?, e, hnone]
      · simp only [AMap.find?, if_neg e]
        rw [if_neg fun hx => e hx.1.symm]
    · have e : ¬p.1 = n := fun e => by simp [AMap.find?, e] at hn
      simp only [AMap.find?, if_neg e] at hn
      rw [List.foldl_cons, (hline n).1 hn, State.l1_releaseLine_ne s c scope p fun x => e x.symm]
    · by_cases e : p.1 = n
      · subst e
        have hnone : AMap.find? ls p.1 = none := by
          by_contra hsome
          exact hne _ (Option.isSome_iff_ne_none.2 hsome) rfl
        rw [List.foldl_cons, (hline p.1).1 hnone]
        exact State.l1_releaseLine_self hhead scope
      · simp only [AMap.find?, if_neg e] at hn
        exact (hline n).2 hn

/-- The lines that an acquire leaves in its core's L1. -/
theorem State.l1_acquireL1 (s : State) (c : Nat) {scope : BitVec 3} (h : 2 ≤ scope.toNat) (line : Nat) :
    (s.acquireL1 c scope).l1 c line =
      (s.l1 c line).map fun l => { l with valid := l.valid &&& ~~~((l.filled ||| l.stale) &&& ~~~l.dirty) } := by
  unfold State.acquireL1
  rw [if_neg (by omega), State.modCore_eq, State.l1_setCore_self, AMap.find?_mapVals]
  rfl

end Sys2Proof.Machine
end

section
/-! SETTLED: O31. What a release writes home and what an acquire drops (R195). -/

namespace Sys2Proof.Claim

open Machine

/-- Settles O31: the lines of the core's L1 one after another for a release, one map of them for an acquire. -/
theorem releaseAndAcquire : Obligations.ReleaseAndAcquire := by
  unfold Obligations.ReleaseAndAcquire
  refine fun s c scope => ⟨fun h => ⟨if_pos h, if_pos h⟩, fun h hs => ?release, fun h => ?acquire⟩
  case release =>
    obtain ⟨hbyte, hline⟩ := State.releaseLines (s := s) c scope hs fun p hp => AMap.find?_of_mem _ hs _ _ hp
    rw [State.releaseL1_eq s c h]
    refine ⟨hbyte, fun line l hl => ?_⟩
    cases hf : AMap.find? (s.core c).l1 line with
    | none =>
      rw [(hline line).1 hf] at hl
      exact absurd (hf.symm.trans hl) nofun
    | some x =>
      obtain ⟨l', hl', hd⟩ := (hline line).2 (by rw [hf]; rfl)
      obtain rfl := Option.some.inj (hl'.symm.trans hl)
      exact hd
  case acquire =>
    have kept := GroupsMemKept.acquireL1 s c scope
    refine ⟨kept.byte, kept.1, fun line => ?_⟩
    have drops (v f d : BitVec 4) : v &&& ~~~(f &&& ~~~d) = v &&& (d ||| ~~~f) := by
      rw [BitVec.not_and, BitVec.not_not, BitVec.or_comm]
    rw [State.l1_acquireL1 s c h]
    simp only [drops]

end Sys2Proof.Claim
end

section
/-! REFUTED: O40. A store written through recalls the line that it writes, and its own core's pins end before that. Where the
home slice names a second owner behind the core for the same sector, the recall finds that one, and writes back what it holds
dirty in the line's other sectors: bytes that the store does not name and its own L1 does not hold. No hypothesis of the
statement rules such a pin out. -/

namespace Sys2Proof.Claim

open Machine

/-- A store of one word to the first sector of line 1, written through. -/
def throughStore : Access :=
  { id := 1, op := .store, scope := 4, hint := 1, lanes := [{ lane := 0, va := 192, key := 192, data := [1, 2, 3, 4] }] }

/-- Group 0 has the store in flight. Its core holds the sector pinned and clean; behind it the pin names core 1, which holds
byte 240, of the line's second sector, as 7, dirty. -/
def twiceOwned : State :=
  { groups := [(0, { accesses := [throughStore] })], l2 := [1], pins := [(1, { owners := [(0, 0), (0, 1)] })]
    cores := [(0, { l1 := [(1, { valid := 1, pinned := 1 })] }),
      (1, { l1 := [(1, { valid := 3, dirty := 2, bytes := [(48, 7)] })] })] }

/-- The byte at k after a step, where it goes on. -/
def byteAfter (o : Host.Outcome State Fault Refusal) (k : Nat) : Option Byte :=
  match o with
  | .next t => some (t.byte k)
  | _ => none

/-- The store brings core 1's byte home. -/
theorem byteAfter_twiceOwned : byteAfter (exec (.storeAccepted 0 1) twiceOwned) 240 = some 7 := by decide +kernel

/-- Core 0 knows 0 there, and the store does not name the byte. -/
theorem storedAt_twiceOwned : storedAt throughStore.lanes 240 (newest twiceOwned 0 240) = 0 := by decide +kernel

/-- Refutes O40: a store written through, of whose sector the home slice names two owners, changes a byte of its line that
neither it nor its L1 holds. -/
theorem not_storesPerformed : ¬ Obligations.StoresPerformed := by
  unfold Obligations.StoresPerformed
  intro h
  obtain ⟨-, through, -⟩ := h twiceOwned 0 1 throughStore (by decide +kernel) (by decide +kernel) (by decide +kernel)
    (by decide +kernel) (by decide +kernel) (by decide +kernel) (by decide +kernel) (by decide +kernel) (by decide +kernel)
  have held : ∀ p ∈ throughStore.lines, (twiceOwned.l1 (coreOf 0) p.1).isSome = true := by decide +kernel
  obtain ⟨t, ht, hbyte⟩ := through (by decide +kernel) (by decide +kernel) fun p hp _ _ => held p hp
  have named : t.byte 240 = storedAt throughStore.lanes 240 (newest twiceOwned 0 240) :=
    (if_pos (by decide +kernel : 240 / 192 ∈ throughStore.lines.map (·.1))).mp (hbyte 240)
  have brought : some (t.byte 240) = some 7 := by
    have e := byteAfter_twiceOwned
    rw [ht] at e
    exact e
  rw [named, storedAt_twiceOwned] at brought
  exact absurd brought (by decide)

end Sys2Proof.Claim
end

section
/-! SUPPORT. Requests at a home slice (R193, R194, R372): which beat of an access a slice serves or turns away, what its service
leaves alone, and what room, a fill and a recall leave in an L1. -/

namespace Sys2Proof.Machine

variable {s t : State}

/-! ### What a service leaves alone -/

/-- t is s but for what the slices, the routers and the counts of reuse keep of a service. -/
abbrev TouchOnly (s t : State) : Prop :=
  t = { s with
    l2 := t.l2, reuse := t.reuse, contexts := t.contexts, routers := t.routers, served := t.served, free := t.free }

theorem State.armReuse_touchOnly (s : State) (g line : Nat) : TouchOnly s (s.armReuse g line) := by
  unfold State.armReuse
  refine ite_holds rfl ?_
  split
  · rfl
  · exact ite_holds rfl rfl

theorem State.touchSlice_touchOnly (s : State) (g line : Nat) : TouchOnly s (s.touchSlice g line) := by
  let u := (s.flit (routePart (coreOf g) (dieOf line))).l2Serve line
  have served : ServeOnly s u :=
    ServeOnly.trans (t := s.flit (routePart (coreOf g) (dieOf line))) rfl (State.l2Serve_serveOnly _ _)
  have armed : TouchOnly (u.noteServed line g) (s.touchSlice g line) := State.armReuse_touchOnly _ _ _
  unfold TouchOnly at armed ⊢
  rw [armed, served]
  rfl

theorem State.l1_countEvent (s : State) (c : Nat) (f : CoreEvents → CoreEvents) (d line : Nat) :
    (s.countEvent c f).l1 d line = s.l1 d line := by
  unfold State.countEvent
  by_cases h : d = c
  · rw [h, State.modCore_eq, State.l1_setCore_self]
    rfl
  · rw [State.modCore_eq, State.l1_setCore_ne _ _ _ h]

/-- A load replay changes a count and no more. -/
theorem State.noteReplay_kept (s : State) (c line : Nat) :
    (s.noteReplay c line).groups = s.groups ∧ (s.noteReplay c line).pins = s.pins ∧
      ∀ d n, (s.noteReplay c line).l1 d n = s.l1 d n := by
  unfold State.noteReplay
  dsimp only
  split
  · exact ⟨rfl, rfl, fun d n => State.l1_countEvent _ _ _ _ _⟩
  · exact ⟨rfl, rfl, fun _ _ => rfl⟩

/-! ### The first beat at a slice (R197) -/

theorem State.access_id {g id : Nat} {a : Access} (h : s.access g id = some a) : a.id = id := by
  unfold State.access at h
  rw [List.head?_filter] at h
  simpa using List.find?_some h

/-- A slice serves the first beat that asks it for sectors, where it is open to that beat. -/
theorem State.openBeat_of_first {g line b : Nat} {a : Access} {need : BitVec 4 → BitVec 4} (hb : b < 3)
    (hbefore : ∀ i, i < b → need (a.beatMask line i) = 0) (hneed : need (a.beatMask line b) ≠ 0)
    (hopen : s.homeOpen g line (need (a.beatMask line b)) = true)
    (hserves : s.servesOf line (· == (g, requestKey a.id b)) = true) (hresent : s.resent g a.id line b = true) :
    s.openBeat g a line need = some (b, need (a.beatMask line b)) := by
  unfold State.openBeat
  rw [List.head?_filter, List.find?_map, List.find?_range_eq_some.2 ⟨?_, List.mem_range.2 hb, fun i hi => ?_⟩]
  · rfl
  · simpa [hopen, hserves, hresent] using hneed
  · simp [hbefore i hi]

/-- A slice turns away the first beat that must reach it, where a recall runs or another core holds a sector pinned. -/
theorem State.turnedAway_of_first {g line b : Nat} {a : Access} {p : Pin} (hb : b < 3)
    (hbefore : ∀ i, i < b → s.homeSectors g a line (a.beatMask line i) = 0)
    (hneed : s.homeSectors g a line (a.beatMask line b) ≠ 0) (hsent : a.retryAt.get 0 (3 * line + b) ≤ s.cycle g)
    (hheld : (g, requestKey a.id b) ∉ p.held)
    (hp : p.recalling = true ∨
      s.pinnedElsewhere (coreOf g) line (s.homeSectors g a line (a.beatMask line b)) = true) :
    s.turnedAway g a line p = some b := by
  unfold State.turnedAway
  rw [List.head?_filter, List.find?_range_eq_some]
  refine ⟨?_, List.mem_range.2 hb, fun i hi => ?_⟩
  · have met : (if p.recalling = true then true else
        s.pinnedElsewhere (coreOf g) line (s.homeSectors g a line (a.beatMask line b))) = true := by
      split
      · rfl
      · next h => exact hp.resolve_left h
    simpa [hsent, hheld] using And.intro hneed met
  · simp [hbefore i hi]

/-! ### Room in an L1 (R193) -/

/-- The end of a core's pins on a line leaves the other lines' pins. -/
theorem find?_unpin_ne (pins : AMap Pin) (c : Nat) {line n : Nat} (mask : BitVec 4) (h : n ≠ line) :
    AMap.find? (unpin pins c line mask) n = AMap.find? pins n := by
  unfold unpin
  split
  · rfl
  · dsimp only
    split_ifs
    · exact AMap.find?_put_ne _ _ _ _ h
    · exact AMap.find?_erase_ne _ _ _ h
    · exact AMap.find?_put_ne _ _ _ _ h

/-- A write-back leaves the other lines' pins. -/
theorem State.pins_writeSectors_ne (s : State) (c : Nat) {line n : Nat} (mask : BitVec 4) (rec_ : BitVec 3) (h : n ≠ line) :
    AMap.find? (s.writeSectors c line mask rec_).pins n = AMap.find? s.pins n := by
  cases hl : s.l1 c line with
  | none => rw [State.writeSectors_none hl]
  | some l => rw [State.pins_writeSectors hl, find?_unpin_ne _ _ _ h]

/-- A pick along a list that starts from nothing picks an entry of the list. -/
theorem foldl_picks {f : Option (Nat × Nat) → Nat × L1Line → Option (Nat × Nat)}
    (hf : ∀ m p, f m p = m ∨ ∃ u, f m p = some (p.1, u)) (ls : AMap L1Line) (m : Option (Nat × Nat)) :
    ls.foldl f m = m ∨ ∃ p ∈ ls, ∃ u, ls.foldl f m = some (p.1, u) := by
  induction ls generalizing m with
  | nil => exact .inl rfl
  | cons p ls ih =>
    rw [List.foldl_cons]
    obtain e | ⟨q, hq, u, e⟩ := ih (f m p)
    · rw [e]
      exact (hf m p).imp_right fun ⟨u, hu⟩ => ⟨p, List.mem_cons_self, u, hu⟩
    · exact .inr ⟨q, List.mem_cons_of_mem _ hq, u, e⟩

theorem AMap.find?_isSome_of_mem {α : Type} {m : AMap α} {p : Nat × α} (h : p ∈ m) : (AMap.find? m p.1).isSome = true := by
  induction m with
  | nil => exact absurd h (List.not_mem_nil)
  | cons q m ih =>
    by_cases e : q.1 = p.1
    · simp [AMap.find?, e]
    · have hm : p ∈ m := (List.mem_cons.1 h).resolve_left fun x => e (by rw [x])
      simpa [AMap.find?, e] using ih hm

/-- The line used longest ago is one that the L1 holds. -/
theorem leastUsed_held {l1 : AMap L1Line} {v : Nat} (h : leastUsed l1 = some v) : ∃ p ∈ l1, p.1 = v := by
  unfold leastUsed at h
  obtain ⟨r, hr, rfl⟩ := Option.map_eq_some_iff.1 h
  have picked : ∃ p ∈ l1, ∃ u, some r = some (p.1, u) := by
    rw [← hr]
    refine (foldl_picks (fun m p => ?_) l1 none).resolve_left fun e => absurd (e.symm.trans hr) nofun
    cases m with
    | none => exact .inr ⟨_, rfl⟩
    | some q =>
      dsimp only
      split
      · exact .inr ⟨_, rfl⟩
      · exact .inl rfl
  obtain ⟨p, hp, u, e⟩ := picked
  exact ⟨p, hp, (congrArg Prod.fst (Option.some.inj e)).symm⟩

/-- What an eviction keeps: the groups, and the pins of other lines. -/
theorem State.evictL1_kept (s : State) (c : Nat) {v line : Nat} (h : line ≠ v) :
    (s.evictL1 c v).groups = s.groups ∧ AMap.find? (s.evictL1 c v).pins line = AMap.find? s.pins line := by
  have counted (u : State) (hg : u.groups = s.groups) (hp : u.pins = s.pins) :
      (((u.noteReplay c v).writeBack c v 1).modCore c fun x => { x with l1 := x.l1.erase v }).groups = s.groups ∧
        AMap.find? (((u.noteReplay c v).writeBack c v 1).modCore c fun x => { x with l1 := x.l1.erase v }).pins line =
          AMap.find? s.pins line := by
    obtain ⟨rg, rp, -⟩ := u.noteReplay_kept c v
    refine ⟨(((u.noteReplay c v).writeBack_memoryOnly c v 1).groups.trans rg).trans hg, ?_⟩
    exact ((u.noteReplay c v).pins_writeSectors_ne c 15 1 h).trans (by rw [rp, hp])
  unfold State.evictL1
  dsimp only
  split
  · exact counted s rfl rfl
  · exact counted _ rfl rfl

/-- What room for a line keeps: the groups, and the pins of that line. -/
theorem State.makeRoom_kept (s : State) (c line : Nat) :
    (s.makeRoom c line none).groups = s.groups ∧ AMap.find? (s.makeRoom c line none).pins line = AMap.find? s.pins line := by
  unfold State.makeRoom
  dsimp only
  split
  · exact ⟨rfl, rfl⟩
  · next hfull =>
    split
    · next v hv =>
      obtain ⟨p, hp, rfl⟩ := leastUsed_held hv
      have hnone : AMap.find? (s.core c).l1 line = none := by
        by_contra h
        exact hfull (by simp [Option.isSome_iff_ne_none.2 h])
      refine s.evictL1_kept c fun e => ?_
      have hsome := AMap.find?_isSome_of_mem hp
      rw [← e, hnone] at hsome
      exact absurd hsome (by decide)
    · exact ⟨rfl, rfl⟩

theorem State.makeRoom_of_room {c line : Nat} (h : (s.l1 c line).isSome = true ∨ (s.core c).l1.length < l1Capacity)
    (victim : Option Nat) : s.makeRoom c line victim = s :=
  if_pos (by simpa [State.l1] using h)

/-! ### Fills (R193) -/

/-- A fill makes valid what is not dirty of the sectors that it brings, with the home's bytes. -/
theorem State.l1_fillSectors (s : State) (c line : Nat) (mask : BitVec 4) (filled : Bool) :
    ∃ l, (s.fillSectors c line mask filled).l1 c line = some l ∧ mask &&& ~~~(l.valid ||| l.dirty) = 0 ∧
      ∀ i, i < 192 → mask.getLsbD (i / 48) = true → l.dirty.getLsbD (i / 48) = false →
        l.bytes.get 0 i = s.byte (192 * line + i) := by
  have covers (m v d : BitVec 4) : m &&& ~~~(v ||| m &&& ~~~d ||| d) = 0 := by
    ext i
    simp
    grind
  unfold State.fillSectors
  dsimp only
  refine ⟨_, State.l1_setL1_self _ _ _ _, covers _ _ _, fun i hi hm hd => ?_⟩
  refine AMap.get_foldl_set_of_eq (k := fun i => i) _ (fun j _ _ e => ?_) ⟨i, List.mem_range.2 hi, ?_, rfl⟩
  · rw [e]
  · rw [BitVec.getLsbD_and, BitVec.getLsbD_not, hm, hd]
    simp
    omega

/-! ### Recalls (R194) -/

/-- A core holds a line clean, or does not hold it. -/
def State.HoldsClean (s : State) (c line : Nat) : Prop := ∀ l, s.l1 c line = some l → l.dirty = 0

theorem State.holdsClean_writeBack (s : State) (c line : Nat) (rec_ : BitVec 3) : (s.writeBack c line rec_).HoldsClean c line := by
  intro l hl
  cases h : s.l1 c line with
  | none =>
    rw [State.writeBack, State.writeSectors_none h] at hl
    exact absurd (h.symm.trans hl) nofun
  | some x =>
    obtain rfl := Option.some.inj ((State.l1_writeSectors_self h 15 rec_).symm.trans hl)
    exact x.written_clean rec_

theorem State.HoldsClean.writeBack {c line : Nat} (h : s.HoldsClean c line) (d : Nat) (rec_ : BitVec 3) :
    (s.writeBack d line rec_).HoldsClean c line := by
  by_cases hc : c = d
  · rw [hc]
    exact s.holdsClean_writeBack d line rec_
  · intro l hl
    obtain ⟨m, e⟩ := s.l1_writeSectors_core line line 15 rec_ hc
    rw [State.writeBack, e] at hl
    obtain ⟨x, hx, rfl⟩ := Option.map_eq_some_iff.1 hl
    exact h x hx

/-- One holder of a recalled line writes it back, and counts a recall (R194, R200). -/
def State.recallHolder (line : Nat) (s : State) (c : Nat) : State :=
  (s.writeBack c line 1).countEvent c fun e => { e with recalls := e.recalls + 1 }

theorem State.recallLine_eq {line : Nat} {p : Pin} (h : s.pins.find? line = some p) :
    s.recallLine line = ((p.owners.map (·.2)).eraseDups).foldl (State.recallHolder line) s := by
  unfold State.recallLine
  rw [h]
  rfl

theorem State.holdsClean_recallHolder (s : State) (line c : Nat) : (s.recallHolder line c).HoldsClean c line := by
  intro l hl
  rw [State.recallHolder, State.l1_countEvent] at hl
  exact s.holdsClean_writeBack c line 1 l hl

theorem State.HoldsClean.recallHolder {c line : Nat} (h : s.HoldsClean c line) (d : Nat) :
    (s.recallHolder line d).HoldsClean c line := by
  intro l hl
  rw [State.recallHolder, State.l1_countEvent] at hl
  exact h.writeBack d 1 l hl

/-- Holders that write a line back one after another hold it clean. -/
theorem State.holdsClean_recallHolders {line c : Nat} (cs : List Nat) {s : State} (h : c ∈ cs ∨ s.HoldsClean c line) :
    (cs.foldl (State.recallHolder line) s).HoldsClean c line := by
  induction cs generalizing s with
  | nil => exact h.resolve_left (List.not_mem_nil)
  | cons d cs ih =>
    refine ih ?_
    obtain hc | hs := h
    · obtain rfl | hc := List.mem_cons.1 hc
      · exact .inr (s.holdsClean_recallHolder line c)
      · exact .inl hc
    · exact .inr (hs.recallHolder d)

/-- The holders of a recalled line hold it clean. -/
theorem State.holdsClean_recallLine {line c : Nat} {p : Pin} (h : s.pins.find? line = some p)
    (hc : c ∈ p.owners.map (·.2)) : (s.recallLine line).HoldsClean c line := by
  rw [State.recallLine_eq h]
  exact State.holdsClean_recallHolders _ (.inl (List.mem_eraseDups.2 hc))

end Sys2Proof.Machine
end

section
/-! SETTLED: O42. Pins, retries, recalls and fills (R193, R194, R196, R197, R372), each event by its equation. -/

namespace Sys2Proof.Claim

open Machine

variable {s : State} {g id line b : Nat} {a : Access}

/-! ### PIN_GRANT -/

/-- The state in which the slice has granted a beat of an access the pins of some sectors of a line. -/
def granted (s : State) (g id line b : Nat) (fresh : BitVec 4) : State :=
  let u := (s.makeRoom (coreOf g) line none).touchSlice g line
  let p := (u.pins.find? line).getD {}
  { u with
    pins := u.pins.put line
      { p with
        owners := (List.range 4).foldl (fun o i => if fresh.getLsbD i then AMap.put o i (coreOf g) else o) p.owners
        held := p.held.filter (· != (g, requestKey id b)) } }

/-- The L1 has taken the line's sectors with the pins. -/
def pinFilled (s : State) (g id line b : Nat) (fresh : BitVec 4) : State :=
  ((granted s g id line b fresh).fillSectors (coreOf g) line fresh true).modCore (coreOf g) fun x =>
    { x with l1 := x.l1.modify line fun l => { l with pinned := l.pinned ||| fresh } }

theorem exec_pinGrant {fresh : BitVec 4} (ha : s.access g id = some a)
    (ho : s.openBeat g a line (fun m => s.needPins (coreOf g) a line m &&& ~~~s.ownPins (coreOf g) line) = some (b, fresh)) :
    exec (.pinGrant g id line) s = .next (pinFilled s g id line b fresh) := by
  show execPinGrant g id line s = _
  unfold execPinGrant
  simp only [ha, ho]
  rfl

/-- The owner of a sector once some sectors have been given to a core. -/
theorem find?_foldl_put (fresh : BitVec 4) (c : Nat) (is : List Nat) (o : AMap Nat) (i : Nat) :
    AMap.find? (is.foldl (fun o i => if fresh.getLsbD i then AMap.put o i c else o) o) i =
      if i ∈ is ∧ fresh.getLsbD i = true then some c else AMap.find? o i := by
  induction is generalizing o with
  | nil => simp
  | cons j is ih =>
    rw [List.foldl_cons, ih]
    by_cases hi : i ∈ is ∧ fresh.getLsbD i = true
    · simp [hi]
    · rw [if_neg hi]
      by_cases hj : i = j ∧ fresh.getLsbD i = true
      · obtain ⟨rfl, hf⟩ := hj
        rw [if_pos hf, AMap.find?_put_self, if_pos ⟨List.mem_cons_self, hf⟩]
      · have hout : ¬(i ∈ j :: is ∧ fresh.getLsbD i = true) := fun h =>
          (List.mem_cons.1 h.1).elim (fun e => hj ⟨e, h.2⟩) fun e => hi ⟨e, h.2⟩
        rw [if_neg hout]
        split
        · next hf => exact AMap.find?_put_ne _ _ _ _ fun e => hj ⟨e, e ▸ hf⟩
        · rfl

/-- The pins that a grant leaves: the granted sectors are the core's, the line's others as they were. -/
theorem pinOwner_pinFilled (s : State) (g id line b : Nat) (fresh : BitVec 4) {i : Nat} (hi : i < 4) :
    (pinFilled s g id line b fresh).pinOwner line i =
      if fresh.getLsbD i = true then some (coreOf g) else s.pinOwner line i := by
  have touched := State.touchSlice_touchOnly (s.makeRoom (coreOf g) line none) g line
  have same : AMap.find? ((s.makeRoom (coreOf g) line none).touchSlice g line).pins line = AMap.find? s.pins line := by
    rw [touched]
    exact (s.makeRoom_kept (coreOf g) line).2
  have put : AMap.find? (pinFilled s g id line b fresh).pins line = some
      { (AMap.find? s.pins line).getD {} with
        owners := (List.range 4).foldl (fun o i => if fresh.getLsbD i then AMap.put o i (coreOf g) else o)
          ((AMap.find? s.pins line).getD {}).owners
        held := ((AMap.find? s.pins line).getD {}).held.filter (· != (g, requestKey id b)) } := by
    rw [← same]
    exact AMap.find?_put_self _ _ _
  unfold State.pinOwner
  rw [put]
  dsimp only
  rw [find?_foldl_put]
  cases hf : fresh.getLsbD i
  · cases AMap.find? s.pins line <;> simp
  · simp [hi]

theorem groups_pinFilled (s : State) (g id line b : Nat) (fresh : BitVec 4) :
    (pinFilled s g id line b fresh).groups = s.groups := by
  have filled : (pinFilled s g id line b fresh).groups = (granted s g id line b fresh).groups := rfl
  rw [filled, ← (s.makeRoom_kept (coreOf g) line).1]
  exact (GroupsMemKept.touchSlice (s.makeRoom (coreOf g) line none) g line).1

/-- The line that a grant leaves in the L1 holds the granted sectors, pinned. -/
theorem l1_pinFilled (s : State) (g id line b : Nat) (fresh : BitVec 4) :
    ∃ l, (pinFilled s g id line b fresh).l1 (coreOf g) line = some l ∧ fresh &&& ~~~(l.valid ||| l.dirty) = 0 ∧
      fresh &&& ~~~l.pinned = 0 := by
  obtain ⟨l, hl, hv, -⟩ := (granted s g id line b fresh).l1_fillSectors (coreOf g) line fresh true
  have pins (f p : BitVec 4) : f &&& ~~~(p ||| f) = 0 := by
    ext i
    simp
    grind
  refine ⟨{ l with pinned := l.pinned ||| fresh }, ?_, hv, pins _ _⟩
  unfold pinFilled
  rw [State.modCore_eq, State.l1_setCore_self, AMap.find?_modify, if_pos rfl]
  exact congrArg (Option.map _) hl

/-! ### ACCESS_RETRY_RESEND -/

section
variable {p : Pin} (ha : s.access g id = some a) (hp : s.pins.find? line = some p) (hb : s.turnedAway g a line p = some b)
include ha hp hb

/-- A request that comes while the recall runs joins those held. -/
theorem exec_accessRetryResend_recalling (hr : p.recalling = true) :
    exec (.accessRetryResend g id line) s =
      .next { s with pins := s.pins.put line { p with held := holdRequest p.held (g, requestKey id b) } } := by
  show execAccessRetryResend g id line s = _
  unfold execAccessRetryResend
  simp only [ha, hp, hb, hr, if_true]
  rfl

variable (hr : p.recalling = false) (hh : (g, requestKey id b) ∉ p.held)
include hr hh

/-- The 4,096th request is held, and brings the recall. -/
theorem exec_accessRetryResend_last (hn : 4095 ≤ p.retries) :
    exec (.accessRetryResend g id line) s =
      .next { s with pins := s.pins.put line { p with recalling := true, held := (g, requestKey id b) :: p.held } } := by
  have others : p.held.filter (· != (g, requestKey id b)) = p.held :=
    List.filter_eq_self.2 fun h hm => bne_iff_ne.2 fun e => hh (e ▸ hm)
  show execAccessRetryResend g id line s = _
  unfold execAccessRetryResend
  simp only [ha, hp, hb, hr, Option.map_some, others, hn, if_true, Bool.false_eq_true, if_false]
  rfl

/-- An earlier one goes again 32 clocks later, and is counted. -/
theorem exec_accessRetryResend_retry (hn : p.retries < 4095) :
    exec (.accessRetryResend g id line) s = .next
      ((({ s with pins := s.pins.put line { p with retries := p.retries + 1 } } : State).countEvent (coreOf g) fun e =>
        { e with pinRetries := e.pinRetries + 1 }).modGroup g fun x =>
          { x with
            accesses := x.accesses.map fun y =>
              if y.id = id then { y with retryAt := y.retryAt.put (3 * line + b) (s.cycle g + 32) } else y }) := by
  have others : p.held.filter (· != (g, requestKey id b)) = p.held :=
    List.filter_eq_self.2 fun h hm => bne_iff_ne.2 fun e => hh (e ▸ hm)
  show execAccessRetryResend g id line s = _
  unfold execAccessRetryResend
  simp only [ha, hp, hb, hr, Option.map_some, others, if_neg (Nat.not_le.2 hn), Bool.false_eq_true, if_false, State.countEvent_cycle]
  rfl

end

/-! ### RECALL_COMPLETE -/

/-- The state in which the holders of a line have written it back. -/
def recalledBy (s : State) (line : Nat) (p : Pin) : State :=
  (((p.owners.map (·.2)).eraseDups).foldl (fun s c => s.noteReplay c line) s).recallLine line

theorem exec_recallComplete {p : Pin} (hp : s.pins.find? line = some p) (hr : p.recalling = true) :
    exec (.recallComplete line) s = .next { recalledBy s line p with
      pins := if p.held.isEmpty then (recalledBy s line p).pins.erase line
        else (recalledBy s line p).pins.put line { held := p.held } } := by
  show execRecallComplete line s = _
  unfold execRecallComplete
  simp only [hp, hr]
  rfl

theorem noteReplays_kept (cs : List Nat) (s : State) (line : Nat) :
    (cs.foldl (fun s c => s.noteReplay c line) s).groups = s.groups ∧
      (cs.foldl (fun s c => s.noteReplay c line) s).pins = s.pins := by
  induction cs generalizing s with
  | nil => exact ⟨rfl, rfl⟩
  | cons c cs ih =>
    obtain ⟨hg, hp, -⟩ := s.noteReplay_kept c line
    obtain ⟨ig, ip⟩ := ih (s.noteReplay c line)
    exact ⟨ig.trans hg, ip.trans hp⟩

/-- A line whose pins have been dropped or left with no owner has none. -/
theorem pinOwner_unowned {t : State} {pins : AMap Pin} {held : List (Nat × Nat)}
    (h : t.pins = if held.isEmpty then pins.erase line else pins.put line { held := held }) (i : Nat) :
    t.pinOwner line i = none := by
  unfold State.pinOwner
  rw [h]
  split_ifs
  · rw [AMap.find?_erase_self]
  · rw [AMap.find?_put_self]
    rfl

theorem recallComplete_ends {p : Pin} (hp : s.pins.find? line = some p) (hr : p.recalling = true) :
    ∃ t, exec (.recallComplete line) s = .next t ∧ t.groups = s.groups ∧ (∀ i, t.pinOwner line i = none) ∧
      (∀ c ∈ p.owners.map (fun o => o.2), ∀ l, t.l1 c line = some l → l.dirty = 0) ∧
      (t.pins.find? line).map (fun q => (q.recalling, q.retries, q.held)) =
        if p.held = [] then none else some (false, 0, p.held) := by
  obtain ⟨hg, hpins⟩ := noteReplays_kept (p.owners.map (·.2)).eraseDups s line
  refine ⟨_, exec_recallComplete hp hr, (State.recallLine_memoryOnly _ line).groups.trans hg, pinOwner_unowned rfl,
    fun c hc l hl => State.holdsClean_recallLine (by rw [hpins]; exact hp) hc l hl, ?_⟩
  cases hh : p.held <;> simp

/-! ### L1_LINE_FILL -/

theorem exec_l1LineFill {z : BitVec 3} {miss : BitVec 4} (ha : s.access g id = some a) (hop : a.op = .load z)
    (hhint : a.hint = 0) (hroom : (s.l1 (coreOf g) line).isSome = true ∨ (s.core (coreOf g)).l1.length < l1Capacity)
    (ho : s.openBeat g a line (s.loadMisses (coreOf g) 0 line) = some (b, miss))
    (he : s.errorLine { a with lanes := a.lanes.filter fun x => lineOf x.key == line } true = none) :
    exec (.l1LineFill g id line none) s =
      .next (((s.dropHeld line (g, requestKey id b)).touchSlice g line).fillSectors (coreOf g) line miss true) := by
  have hfull : ((s.l1 (coreOf g) line).isNone && decide (l1Capacity ≤ (s.core (coreOf g)).l1.length)) = false := by
    obtain h | h := hroom
    · rw [Option.isNone_eq_false_iff.2 h, Bool.false_and]
    · rw [decide_eq_false (Nat.not_le.2 h), Bool.and_false]
  have hdrop : (s.dropHeld line (g, requestKey id b)).cores = s.cores := by
    unfold State.dropHeld
    split
    · rfl
    · dsimp only
      split_ifs <;> rfl
  have hmake : (s.dropHeld line (g, requestKey id b)).makeRoom (coreOf g) line none = s.dropHeld line (g, requestKey id b) :=
    State.makeRoom_of_room (by rwa [State.l1_congr hdrop, State.core_congr hdrop]) none
  show execL1LineFill g id line none s = _
  unfold execL1LineFill
  simp only [hop, hhint] at he
  simp only [ha, hop, hhint, hfull, ho]
  rw [if_neg (by decide)]
  simp only [he, hmake]
  rfl

/-- Dropping a request of an access from those held changes no group and no byte. -/
theorem dropHeld_kept (s : State) (line : Nat) {r : Nat × Nat} (h : r.2 ≠ 0) : GroupsMemKept s (s.dropHeld line r) := by
  unfold State.dropHeld
  split
  · exact .refl s
  · dsimp only
    rw [if_neg h]
    exact ite_holds (.refl s) ⟨rfl, rfl⟩

/-! ### L2_LINE_FILL -/

theorem asksHome_of (h : ∃ p ∈ s.groups, ∃ a ∈ p.2.accesses, ∃ q ∈ a.lines, q.1 = line ∧ s.homeSectors p.1 a line q.2 ≠ 0) :
    s.asksHome line = true := by
  obtain ⟨p, hp, a, ha, q, hq, e, hs⟩ := h
  unfold State.asksHome
  simp only [List.any_eq_true]
  exact ⟨p, hp, a, ha, q, hq, by simpa [e] using hs⟩

/-- A slice that an access asks for a line that it does not hold fills it, in the place of a victim where the set is full. -/
theorem exec_l2LineFill {victim : Option Nat} (hl : line ∉ s.l2) (ha : s.asksHome line = true)
    (hv : match victim with
      | some v => 16 ≤ (s.l2Way line).length ∧ v ∈ (s.l2Way line).tail
      | none => (s.l2Way line).length < 16) :
    exec (.l2LineFill line victim) s = .next { s with l2 := line :: s.l2.filter fun l => some l != victim } := by
  show execL2LineFill line victim s = _
  unfold execL2LineFill
  cases victim <;> simp_all [event]

/-- Settles O42: a grant, a retry, a recall and the fills of an L1 and of a slice. -/
theorem pinsAndFills : Obligations.PinsAndFills := by
  unfold Obligations.PinsAndFills
  refine ⟨?grant, ?retry, ?recalled, ?fill, ?slice⟩
  case grant =>
    intro s g id line b a ha hb c fresh hbefore hfresh hopen hserves hresent
    have ho := State.openBeat_of_first (s := s) (g := g) (line := line) (a := a)
      (need := fun m => s.needPins c a line m &&& ~~~s.ownPins c line) hb hbefore hfresh hopen
      (by rw [State.access_id ha]; exact hserves) (by rw [State.access_id ha]; exact hresent)
    refine ⟨_, exec_pinGrant ha ho, groups_pinFilled _ _ _ _ _ _, fun i hi hf => ?_, fun i hi hf => ?_, l1_pinFilled _ _ _ _ _ _⟩
    · exact (pinOwner_pinFilled s g id line b fresh hi).trans (if_pos hf)
    · exact (pinOwner_pinFilled s g id line b fresh hi).trans (if_neg (by simp [hf]))
  case retry =>
    intro s g id line b a p r ha hp hb hbefore hneed hsent hheld
    have turned (h : p.recalling = true ∨
        s.pinnedElsewhere (coreOf g) line (s.homeSectors g a line (a.beatMask line b)) = true) :
        s.turnedAway g a line p = some b :=
      State.turnedAway_of_first hb hbefore hneed hsent (by rw [State.access_id ha]; exact hheld) h
    refine ⟨fun hr => exec_accessRetryResend_recalling ha hp (turned (.inl hr)) hr, fun hr hpe => ⟨fun hn => ?_, fun hn => ?_⟩⟩
    · exact exec_accessRetryResend_last ha hp (turned (.inr hpe)) hr hheld hn
    · refine ⟨_, exec_accessRetryResend_retry ha hp (turned (.inr hpe)) hr hheld hn, rfl, ?_, fun x hx hid => ?_, rfl⟩
      · rw [State.modGroup_eq, State.core_setGroup, State.countEvent, State.modCore_eq, State.core_setCore_self]
        rfl
      · rw [State.modGroup_eq, State.group_setGroup_self] at hx
        obtain ⟨y, -, rfl⟩ := List.mem_map.1 hx
        by_cases hy : y.id = id
        · rw [if_pos hy]
          exact AMap.get_put_self _ _ _ _
        · rw [if_neg hy] at hid
          exact absurd hid hy
  case recalled => exact fun s line p hp hr => recallComplete_ends hp hr
  case fill =>
    intro s g id line b a ha hb hid c miss hbefore ⟨z, hop⟩ hhint hmiss hopen hserves hresent hroom he
    have ho := State.openBeat_of_first (s := s) (g := g) (line := line) (a := a) (need := s.loadMisses c 0 line) hb hbefore
      hmiss hopen (by rw [State.access_id ha]; exact hserves) (by rw [State.access_id ha]; exact hresent)
    let v := (s.dropHeld line (g, requestKey id b)).touchSlice g line
    have kept : GroupsMemKept s v :=
      (dropHeld_kept s line (by unfold requestKey; dsimp only; omega)).trans (.touchSlice _ g line)
    obtain ⟨l, hl, hcovers, hbytes⟩ := v.l1_fillSectors c line miss true
    refine ⟨_, exec_l1LineFill ha hop hhint hroom ho he, kept.1, kept.byte, l, hl, hcovers, fun i hi hm hd => ?_⟩
    exact (hbytes i hi hm hd).trans (kept.byte _)
  case slice =>
    intro s line hl hask
    have asks := asksHome_of hask
    refine ⟨fun hn => ?_, fun hn v hv => ?_⟩
    · have all : s.l2.filter (fun l => some l != none) = s.l2 := List.filter_eq_self.2 fun l _ => rfl
      rw [exec_l2LineFill (victim := none) hl asks hn, all]
    · exact exec_l2LineFill (victim := some v) hl asks ⟨hn, hv⟩

end Sys2Proof.Claim
end

section
/-! SUPPORT. Scratchpads (R183, R219, R220, R226): how lanes stand at a bank, what an access changes of the state, and the fault
of a store that a range lock has barred meanwhile (R27, R214, R281). -/

namespace Sys2Proof.Claim

open Machine

variable {s t u : State}

/-! ### Lanes at a bank -/

/-- A lane that passes its checks stands at its byte. -/
theorem spLane_of_pass {tm : Team} {id n : Nat} {o : Int} {writes : Bool} (h : spPass s tm id o n writes = true) :
    s.spLane (some tm) id o n writes = .ok o.toNat (tm.scratchBase + o.toNat) := by
  unfold spPass at h
  rw [Bool.and_eq_true, decide_eq_true_eq, Bool.not_eq_true'] at h
  obtain ⟨⟨h0, hn, hm⟩, hl⟩ := h
  have bounds : ¬((o < 0 || (tm.scratch : Int) < o + n) = true) := by simp; omega
  unfold State.spLane
  dsimp only
  rw [if_neg bounds, if_neg (not_not_intro hm), hl]
  rfl

/-- A lane that does not pass fails. -/
theorem spLane_of_not_pass {tm : Team} {id n : Nat} {o : Int} {writes : Bool} (h : spPass s tm id o n writes = false) :
    ∃ c v, s.spLane (some tm) id o n writes = .fail c v := by
  unfold State.spLane
  dsimp only
  split_ifs with hb hm hl
  · exact ⟨_, _, rfl⟩
  · exact ⟨_, _, rfl⟩
  · exact ⟨_, _, rfl⟩
  · refine absurd h ?_
    rw [Bool.or_eq_true, decide_eq_true_eq, decide_eq_true_eq, not_or] at hb
    simp only [spPass, hl, Bool.not_false, Bool.and_true, Bool.not_eq_false, decide_eq_true_eq]
    omega

/-- The byte at which a lane stands, where it passes. -/
theorem spLane_key (s : State) (tm : Team) (id : Nat) (o : Int) (n : Nat) (writes : Bool) :
    (s.spLane (some tm) id o n writes).key = if spPass s tm id o n writes then some (tm.scratchBase + o.toNat) else none := by
  cases h : spPass s tm id o n writes
  · obtain ⟨c, v, e⟩ := spLane_of_not_pass h
    rw [e]
    rfl
  · rw [spLane_of_pass h]
    rfl

/-- No lane faults where each is a helper or stands at a byte. -/
theorem spFault_none {helper : LaneMask} {lanes : List (Nat × LaneRes)}
    (h : ∀ p ∈ lanes, helper.getLsbD p.1 = true ∨ ∃ va key, p.2 = .ok va key) : spFault helper lanes = none := by
  unfold spFault
  dsimp only
  rw [filterMap_nil_of lanes]
  intro p hp
  obtain e | ⟨va, key, e⟩ := h p hp
  · exact if_pos e
  · rw [e]
    exact ite_self _

/-- The entry of a lane among those of a mask. -/
theorem find?_lanes (m : LaneMask) (f : Nat → LaneRes) {l : Nat} (h : l < 96) (hm : m.getLsbD l = true) :
    ((lanesOf m).map fun l => (l, f l)).find? (fun p => p.1 == l) = some (l, f l) := by
  have found : (lanesOf m).find? (fun k => k == l) = some l := by
    cases e : (lanesOf m).find? (fun k => k == l) with
    | none => exact absurd (List.find?_eq_none.1 e l ((mem_lanesOf m l).2 ⟨h, hm⟩)) (by simp)
    | some k => exact congrArg some (by simpa using List.find?_some e)
  rw [List.find?_map]
  exact congrArg (Option.map _) found

/-- An access that finds its team names none outside the gang, and reaches that team's core. -/
theorem spTeam_found {remote : Option Nat} {tm : Team} (h : s.spTeam s.cur remote = some tm) :
    s.spOutside remote = none ∧ s.spCore remote = tm.core := by
  constructor
  · unfold State.spOutside
    rw [h]
    split
    · next e => cases e
    · rfl
  · unfold State.spCore
    rw [h]
    rfl

/-! ### What an access changes -/

/-- t has the groups of s, and the same one issues. -/
structure SameGroups (s t : State) : Prop where
  groups : t.groups = s.groups
  cur : t.cur = s.cur

namespace SameGroups

theorem refl (s : State) : SameGroups s s := ⟨rfl, rfl⟩

theorem trans (x : SameGroups s t) (y : SameGroups t u) : SameGroups s u := ⟨y.groups.trans x.groups, y.cur.trans x.cur⟩

theorem g (x : SameGroups s t) : t.g = s.g := by
  unfold State.g
  rw [x.cur, State.group_congr x.groups]

theorem of_cores (x : CoresOnly s t) : SameGroups s t := ⟨by rw [x]; rfl, by rw [x]; rfl⟩

theorem of_memory (x : MemoryOnly s t) : SameGroups s t := ⟨x.groups, x.cur⟩

end SameGroups

theorem spFlit_kept (s : State) (remote : Option Nat) : SameGroups s (s.spFlit remote) ∧ (s.spFlit remote).mem = s.mem := by
  unfold State.spFlit
  split
  · exact ⟨⟨rfl, rfl⟩, rfl⟩
  · exact ⟨.refl s, rfl⟩

theorem spAcquire_coresOnly (s : State) (order : BitVec 2) (scope : BitVec 3) : CoresOnly s (s.spAcquire order scope) :=
  ite_holds (ite_holds rfl rfl) rfl

/-- A result that is added stands in its group, whose place stays. -/
theorem addResult_placed (x : SameGroups s u) (kind : ResultKind) (writes : List RegWrite) (counter : Option Nat)
    (bank : Option BankStore) :
    let v := u.addResult kind writes counter bank
    v.g.clause = s.g.clause ∧ v.g.pc = s.g.pc ∧ v.g.word = s.g.word ∧ v.mem = u.mem := by
  dsimp only
  have placed (g : Group) (h : g.clause = u.g.clause ∧ g.pc = u.g.pc ∧ g.word = u.g.word) :
      (u.bump.setG g).g.clause = s.g.clause ∧ (u.bump.setG g).g.pc = s.g.pc ∧ (u.bump.setG g).g.word = s.g.word ∧
        (u.bump.setG g).mem = u.mem := by
    rw [State.g_setG, ← x.g]
    exact ⟨h.1, h.2.1, h.2.2, rfl⟩
  cases counter <;> exact placed _ ⟨rfl, rfl, rfl⟩

/-- The form of an instruction whose effect adds a result. -/
theorem retired_addResult {i : Instr} {n : Info} {body : State → Res} {kind : ResultKind} {writes : List RegWrite}
    {counter : Option Nat} {bank : Option BankStore} (hi : exec i s = perform i n body s) (h : Issues i n s)
    (x : SameGroups s u) (hb : body s = .done (u.addResult kind writes counter bank) .seq) :
    ∃ t, exec i s = .next t ∧ Retired i .seq s (u.addResult kind writes counter bank) t ∧ t.mem = u.mem := by
  obtain ⟨hc, hp, hw, hm⟩ := addResult_placed x kind writes counter bank
  have retired := State.retire_retired s _ i n .seq hc hp hw
  refine ⟨_, hi.trans (perform_next h hb), retired, ?_⟩
  obtain ⟨-, -, -, e⟩ := retired
  rw [e, ← hm]
  rfl

theorem did_addResult {i : Instr} {n : Info} {body : State → Res} {kind : ResultKind} {writes : List RegWrite}
    {counter : Option Nat} {bank : Option BankStore} (hi : exec i s = perform i n body s) (h : Issues i n s)
    (x : SameGroups s u) (hm : u.mem = s.mem) (hb : body s = .done (u.addResult kind writes counter bank) .seq) :
    ∃ t, exec i s = .next t ∧ Did i .seq s (u.addResult kind writes counter bank) t := by
  obtain ⟨t, ht, hr, e⟩ := retired_addResult hi h x hb
  exact ⟨t, ht, hr, State.byte_congr (e.trans hm)⟩

/-- A command with an empty mask. -/
theorem did_emptyIssue {i : Instr} {n : Info} {body : State → Res} {kind : ResultKind} {c : Nat}
    (hi : exec i s = perform i n body s) (h : Issues i n s) (hb : body s = s.issueEmpty kind (some c)) :
    ∃ t, exec i s = .next t ∧ Did i .seq s (emptyIssue s kind c) t :=
  did_addResult (kind := kind) (writes := []) (counter := some c) (bank := none) hi h (.refl s) rfl hb

/-! ### Loads and stores -/

/-- The writes of a scratchpad load whose lanes have read these bytes. -/
def laneWrites (d : BitVec 7) (m : LaneMask) (z : BitVec 3) (vals : List (List Byte)) : List RegWrite :=
  if z = 5 then
    [.vreg (d.toNat + 1) m (vals.map (loadWord z)) 0, .vreg d.toNat m (vals.map fun b => loadWord 4 (b.drop 4)) 0]
  else [.vreg d.toNat m (vals.map (loadWord z)) (sizeTag z)]

theorem spLoadWrites_eq (s : State) (tm : Team) (id : Nat) (d : BitVec 7) (z : BitVec 3) (off : Nat → Int) :
    spLoadWrites s tm id d z off = laneWrites d s.g.xm z (laneList.map fun l => if s.g.active l then
        if spPass s tm id (off l) (sizeBytes z) false then
          s.spBytes tm.core (tm.scratchBase + (off l).toNat) (sizeBytes z)
        else List.replicate (sizeBytes z) 0
      else []) := by
  unfold laneWrites
  rw [List.map_map, List.map_map]
  rfl

/-- A scratchpad load by the bytes that its lanes' offsets name. -/
theorem spLoads_of {i : Instr} {d o : BitVec 7} {remote : Option Nat} {look : BitVec 4} {z : BitVec 3} {x : MlExt}
    (hi : ∀ s, exec i s = spLoad i d o remote look z x s) : SpLoads i d o remote look z x := by
  intro s tm h hteam id off
  obtain ⟨hout, hcore⟩ := spTeam_found hteam
  have hexec : exec i s = perform i _ _ s := hi s
  refine ⟨fun hm => did_emptyIssue hexec h (if_pos hm), fun hm hpass => ?_⟩
  have hlanes : s.spLanes remote s.g.xm (fun g l => addVec o g l + x.off.toInt) (sizeBytes z) false =
      (lanesOf s.g.xm).map fun l => (l, s.spLane (some tm) id (off l) (sizeBytes z) false) := by
    unfold State.spLanes
    rw [hteam]
    rfl
  have hfault : spFault s.g.helper ((lanesOf s.g.xm).map fun l =>
      (l, s.spLane (some tm) id (off l) (sizeBytes z) false)) = none := by
    refine spFault_none fun p hp => ?_
    obtain ⟨l, hl, rfl⟩ := List.mem_map.1 hp
    obtain ⟨hl, ha⟩ := (mem_lanesOf _ l).1 hl
    by_cases hh : s.g.helper.getLsbD l = true
    · exact .inl hh
    · exact .inr ⟨_, _, spLane_of_pass (hpass l hl ha (Bool.eq_false_of_not_eq_true hh))⟩
  refine ⟨fun hturn => hexec.trans (perform_hold h ?_), fun hturn => ?_⟩
  · rw [if_neg hm]
    simp only [hlanes, hout, hfault, hcore, hturn]
    rfl
  have hread : (((lanesOf s.g.xm).map fun l => (l, s.spLane (some tm) id (off l) (sizeBytes z) false)).filterMap
      fun p => p.2.key).map (scratchLine tm.core) = spLines s tm id z off := by
    unfold spLines
    rw [List.filterMap_map, ← List.filterMap_eq_map, ← List.filterMap_eq_filter, List.filterMap_filterMap,
      List.map_filterMap]
    refine List.filterMap_congr fun l _ => ?_
    rw [Function.comp_apply, spLane_key]
    cases h : spPass s tm id (off l) (sizeBytes z) false <;> simp [h, Option.guard]
  let u := (s.noteReads s.cur (spLines s tm id z off)).spFlit remote
  obtain ⟨hflit, hmem⟩ := spFlit_kept (s.noteReads s.cur (spLines s tm id z off)) remote
  have acquired := spAcquire_coresOnly (u.noteServed (bankPoint tm.core) s.cur) x.order x.scope
  have read : SameGroups s (u.noteServed (bankPoint tm.core) s.cur) := ⟨hflit.groups, hflit.cur⟩
  refine did_addResult hexec h (read.trans (.of_cores acquired)) (by rw [acquired]; exact hmem) ?_
  have hbytes : (laneList.map fun l => if s.g.active l then
      match (((lanesOf s.g.xm).map fun l => (l, s.spLane (some tm) id (off l) (sizeBytes z) false)).find?
        fun p => p.1 == l).bind fun p => p.2.key with
      | some key => s.spBytes tm.core key (sizeBytes z)
      | none => List.replicate (sizeBytes z) 0
      else []) = laneList.map fun l => if s.g.active l then
        if spPass s tm id (off l) (sizeBytes z) false then
          s.spBytes tm.core (tm.scratchBase + (off l).toNat) (sizeBytes z)
        else List.replicate (sizeBytes z) 0
      else [] := by
    refine List.map_congr_left fun l hl => ?_
    cases ha : s.g.active l
    · rfl
    · rw [find?_lanes _ _ (List.mem_range.1 hl) ha]
      simp only [Option.bind_some, spLane_key]
      cases spPass s tm id (off l) (sizeBytes z) false <;> rfl
  rw [if_neg hm, spLoadWrites_eq]
  simp only [hlanes, hout, hfault, hcore, hturn, hread]
  exact congrArg (fun vals => Res.done (((u.noteServed (bankPoint tm.core) s.cur).spAcquire x.order x.scope).addResult .load
    (laneWrites d s.g.xm z vals) (some 1)) .seq) hbytes

/-- Lanes that all pass stand at their bytes. -/
theorem spLanes_of_pass {remote : Option Nat} {tm : Team} {m : LaneMask} {at_ : Group → Nat → Int} {n : Nat} {writes : Bool}
    (hteam : s.spTeam s.cur remote = some tm)
    (hpass : ∀ l ∈ lanesOf m, spPass s tm (s.spTeamId s.cur remote) (at_ s.g l) n writes = true) :
    s.spLanes remote m at_ n writes =
      (lanesOf m).map fun l => (l, .ok (at_ s.g l).toNat (tm.scratchBase + (at_ s.g l).toNat)) := by
  unfold State.spLanes
  rw [hteam]
  exact List.map_congr_left fun l hl => by rw [spLane_of_pass (hpass l hl)]

/-- No lane faults where all pass. -/
theorem spFault_of_pass (m : List Nat) (va key : Nat → Nat) : spFault 0 (m.map fun l => (l, .ok (va l) (key l))) = none :=
  spFault_none fun p hp => by
    obtain ⟨l, -, rfl⟩ := List.mem_map.1 hp
    exact .inr ⟨_, _, rfl⟩

/-- The lanes that enter without the helpers. -/
theorem mem_lanesOf_real (g : Group) (l : Nat) :
    l ∈ lanesOf (g.xm &&& ~~~g.helper) ↔ l < 96 ∧ g.active l = true ∧ g.helper.getLsbD l = false := by
  rw [mem_lanesOf]
  unfold Group.active
  simp only [BitVec.getLsbD_and, BitVec.getLsbD_not, Bool.and_eq_true, Bool.not_eq_true', decide_eq_true_eq]
  tauto

theorem bankStore_congr (x : MemoryOnly s t) (remote : Option Nat) (r : BitVec 7) (z : BitVec 3)
    (lanes : List (Nat × LaneRes)) : t.bankStore remote r z lanes = s.bankStore remote r z lanes := by
  rw [x]
  rfl

/-- The store that lanes which all pass put on its way. -/
theorem bankStore_of_pass {remote : Option Nat} {tm : Team} (hteam : s.spTeam s.cur remote = some tm) (r : BitVec 7)
    (z : BitVec 3) (off : Nat → Int) :
    s.bankStore remote r z ((lanesOf (s.g.xm &&& ~~~s.g.helper)).map fun l =>
      (l, .ok (off l).toNat (tm.scratchBase + (off l).toNat))) = bankStoreOf s tm remote off (stored s.g r z) := by
  unfold State.bankStore bankStoreOf
  dsimp only
  rw [(spTeam_found hteam).2, List.filterMap_map, ← List.filterMap_eq_map]
  rfl

/-- A scratchpad store by the bytes that its lanes' offsets name. -/
theorem spStores_of {i : Instr} {r o : BitVec 7} {remote : Option Nat} {z : BitVec 3} {x : MlExt}
    (hi : ∀ s, exec i s = spStore i r o remote z x s) : SpStores i r o remote z x := by
  intro s tm h hteam id off
  have hexec : exec i s = perform i _ _ s := hi s
  refine ⟨fun hm => did_emptyIssue hexec h (if_pos hm), fun hm hpass => ?_⟩
  intro b
  have hlanes : s.spLanes remote (s.g.xm &&& ~~~s.g.helper) (fun g l => addVec o g l + x.off.toInt) (sizeBytes z) true =
      (lanesOf (s.g.xm &&& ~~~s.g.helper)).map fun l => (l, .ok (off l).toNat (tm.scratchBase + (off l).toNat)) :=
    spLanes_of_pass hteam fun l hl => by
      obtain ⟨hl, ha, hh⟩ := (mem_lanesOf_real _ l).1 hl
      exact hpass l hl ha hh
  have hstore (u : State) (e : MemoryOnly s u) :
      u.bankStore remote r z ((lanesOf (s.g.xm &&& ~~~s.g.helper)).map fun l =>
        (l, .ok (off l).toNat (tm.scratchBase + (off l).toNat))) = b :=
    (bankStore_congr e ..).trans (bankStore_of_pass hteam r z off)
  have issued (u : State) (e : MemoryOnly s u) (hr : s.spRelease x.order x.scope = some u) :
      ∃ t, exec i s = .next t ∧ Retired i .seq s (u.addResult .store [] (some 3) (some b)) t ∧ t.mem = u.mem :=
    retired_addResult hexec h (.of_memory e) (by
      rw [if_neg hm]
      simp only [hlanes, (spTeam_found hteam).1, spFault_of_pass, hr, hstore u e]
      rfl)
  refine ⟨fun ho => ?_, fun ho hd => ?_⟩
  · obtain ⟨t, ht, hr, e⟩ := issued s (.refl s) (by rw [ho]; rfl)
    exact ⟨t, ht, hr, State.byte_congr e⟩
  · obtain ⟨t, ht, hr, -⟩ := issued _ (s.releaseL1_memoryOnly (coreOf s.cur) x.scope) (by rw [ho]; exact if_pos hd)
    exact ⟨t, ht, hr⟩

end Sys2Proof.Claim
end

section
/-! SUPPORT. Atomics on a scratchpad and the store that a bank takes (R183, R214, R219, R225, R226). -/

namespace Sys2Proof.Claim

open Machine

variable {s t u : State}

/-! ### Atomics -/

/-- An instruction whose effect leaves the groups retires from there. -/
theorem retired_done {i : Instr} {n : Info} {body : State → Res} (hi : exec i s = perform i n body s) (h : Issues i n s)
    (x : SameGroups s u) (hb : body s = .done u .seq) :
    ∃ t, exec i s = .next t ∧ Retired i .seq s u t ∧ t.mem = u.mem := by
  have retired := State.retire_retired s u i n .seq (by rw [x.g]) (by rw [x.g]) (by rw [x.g])
  refine ⟨_, hi.trans (perform_next h hb), retired, ?_⟩
  obtain ⟨-, -, -, e⟩ := retired
  rw [e]
  rfl

/-- An atomic's lanes change the scratchpads alone, and chunks that have read them. -/
theorem spAtomLanes_kept (f : AtomFields) (core : Nat) (ops : Nat → Word × Word) (lanes : List (Nat × LaneRes)) (s : State) :
    SameGroups s (spAtomLanes f core ops s lanes).1 ∧ (spAtomLanes f core ops s lanes).1.mem = s.mem := by
  induction lanes generalizing s with
  | nil => exact ⟨.refl s, rfl⟩
  | cons p lanes ih =>
    obtain ⟨l, r⟩ := p
    unfold spAtomLanes
    dsimp only
    split
    · exact ih s
    · split
      · next key _ _ v _ =>
        obtain ⟨hg, hm⟩ := ih (s.spWrite core key (leBytes 4 v.toNat))
        exact ⟨⟨hg.groups, hg.cur⟩, hm⟩
      · exact ih s

/-- An atomic's first lane works on the word, and the others on what it has left (R225, R226). -/
theorem spAtomLanes_cons (f : AtomFields) (core : Nat) (ops : Nat → Word × Word) (s : State) (l key va : Nat)
    (rest : List (Nat × LaneRes)) :
    let old := BitVec.ofNat 32 (leNat (s.spBytes core key 4))
    let s' := match atomNew f.op f.ty old (ops l).1 (ops l).2 with
      | some v => s.spWrite core key (leBytes 4 v.toNat)
      | none => s
    (spAtomLanes f core ops s ((l, .ok va key) :: rest)).1 = (spAtomLanes f core ops s' rest).1 ∧
      (spAtomLanes f core ops s ((l, .ok va key) :: rest)).2.find? l = some old :=
  ⟨rfl, if_pos rfl⟩

/-- An effect that ends in a result or in none leaves what it was made on. -/
theorem spatom_issued {i : Instr} {n : Info} {body : State → Res} {nr : BitVec 1} {kind : ResultKind}
    {writes : List RegWrite} {c : Nat} (hi : exec i s = perform i n body s) (h : Issues i n s) (x : SameGroups s u)
    (hb : body s = .done (if nr = 0 then u.addResult kind writes (if nr = 0 then some c else none) else u) .seq) :
    ∃ t, exec i s = .next t ∧ Retired i .seq s (if nr = 0 then u.addResult kind writes (some c) else u) t ∧
      t.mem = u.mem := by
  by_cases hr : nr = 0
  · rw [if_pos hr, if_pos hr] at hb
    rw [if_pos hr]
    exact retired_addResult hi h x hb
  · rw [if_neg hr] at hb ⊢
    exact retired_done hi h x hb

/-- SPATOM on the lanes of a team's scratchpad: what an empty mask, a bank that has served a higher slot and a turn of the
bank make of it. -/
theorem spatom_turns (s : State) (d a : BitVec 7) (b : Src) (c : BitVec 7) (x : BitVec 1) (n : BitVec 2) (f : AtomFields)
    (nr : BitVec 1) (look : BitVec 4) (tm : Team) (remote : Option Nat)
    (hremote : (if x = 1 then some n.toNat else none) = remote) :
    let i := Instr.spatom d a b c x n f nr look
    Issues i
      { atomInfo a b c f with
        vw := if nr = 0 then [d.toNat] else [], mask := true, access := true, serial := some false
        counter := if nr = 0 then some 1 else none, look := if nr = 0 then some look.toNat else none } s →
    s.spTeam s.cur remote = some tm →
    let id := s.spTeamId s.cur remote
    let lanes := lanesOf (s.g.xm &&& ~~~s.g.helper)
    let key := fun l => tm.scratchBase + (s.g.lane a.toNat l).toNat
    (s.g.xm = 0 → ∃ t, exec i s = .next t ∧ Did i .seq s (if nr = 0 then emptyIssue s .atomic 1 else s) t) ∧
    (s.g.xm ≠ 0 → (∀ l ∈ lanes, spPass s tm id (s.g.lane a.toNat l).toNat 4 true = true) →
      s.turnOf (bankPoint tm.core) s.cur = false → exec i s = .next s) ∧
    (s.g.xm ≠ 0 → s.turnOf (bankPoint tm.core) s.cur = true →
      f.order.getLsbD 1 = false ∨ s.drained s.cur s.fresh = true →
      (∀ l ∈ lanes, spPass s tm id (s.g.lane a.toNat l).toNat 4 true = true) →
      let released := if f.order.getLsbD 1 then s.releaseL1 (coreOf s.cur) f.scope else s
      let p := spAtomLanes f tm.core (atomOperands b c f s.g)
        ((released.spFlit remote).noteServed (bankPoint tm.core) s.cur)
        (lanes.map fun l => (l, .ok (s.g.lane a.toNat l).toNat (key l)))
      let u := p.1.spAcquire f.order f.scope
      ∃ t, exec i s = .next t ∧
        Retired i .seq s
          (if nr = 0 then
            u.addResult .atomic [.vreg d.toNat s.g.xm (laneList.map fun l => p.2.get 0 l) (typeTag f.ty)] (some 1)
           else u) t ∧
        (f.order.getLsbD 1 = false → ∀ a, t.byte a = s.byte a)) := by
  intro i h hteam id lanes key
  have hexec : exec i s = execSpatom d a b c x n f nr look s := rfl
  rw [execSpatom.eq_def] at hexec
  simp only [hremote, beq_iff_eq] at hexec
  obtain ⟨hout, hcore⟩ := spTeam_found hteam
  have hlanes (hpass : ∀ l ∈ lanes, spPass s tm id (s.g.lane a.toNat l).toNat 4 true = true) :
      s.spLanes remote (s.g.xm &&& ~~~s.g.helper) (addVec a) 4 true =
        lanes.map fun l => (l, .ok (s.g.lane a.toNat l).toNat (key l)) := spLanes_of_pass hteam hpass
  refine ⟨fun hm => ?_, fun hm hpass hturn => ?_, fun hm hturn hd hpass => ?_⟩
  · by_cases hr : nr = 0
    · rw [if_pos hr]
      refine did_emptyIssue hexec h ((if_pos hm).trans ?_)
      rw [hr]
      rfl
    · rw [if_neg hr]
      obtain ⟨t, ht, hret, e⟩ := retired_done hexec h (.refl s) ((if_pos hm).trans (by
        rw [if_neg hr]
        rfl))
      exact ⟨t, ht, hret, State.byte_congr e⟩
  · refine hexec.trans (perform_hold h ?_)
    rw [if_neg hm]
    simp only [hlanes hpass, hout, spFault_of_pass, hcore, hturn]
    rfl
  · intro released p u
    have hrel : s.spRelease f.order f.scope = some released := by
      unfold State.spRelease
      show _ = some (if f.order.getLsbD 1 then s.releaseL1 (coreOf s.cur) f.scope else s)
      cases ho : f.order.getLsbD 1
      · rfl
      · obtain hd | hd := hd
        · rw [ho] at hd
          cases hd
        · rw [hd]
          rfl
    have relKept : MemoryOnly s released := .ite (s.releaseL1_memoryOnly _ _) (.refl s)
    obtain ⟨hf, hfm⟩ := spFlit_kept released remote
    obtain ⟨hp, hpm⟩ := spAtomLanes_kept f tm.core (atomOperands b c f s.g)
      (lanes.map fun l => (l, .ok (s.g.lane a.toNat l).toNat (key l)))
      ((released.spFlit remote).noteServed (bankPoint tm.core) s.cur)
    have hu : CoresOnly p.1 u := spAcquire_coresOnly _ _ _
    have served : SameGroups s ((released.spFlit remote).noteServed (bankPoint tm.core) s.cur) :=
      (SameGroups.of_memory relKept).trans ⟨hf.groups, hf.cur⟩
    have kept : SameGroups s u := served.trans (hp.trans (.of_cores hu))
    have hcore' : released.spCore remote = tm.core := by
      rw [relKept]
      exact hcore
    obtain ⟨t, ht, hret, e⟩ := spatom_issued (nr := nr) (u := u) (kind := .atomic)
      (writes := [.vreg d.toNat s.g.xm (laneList.map fun l => p.2.get 0 l) (typeTag f.ty)]) (c := 1) hexec h kept (by
        rw [if_neg hm]
        simp only [hlanes hpass, hout, spFault_of_pass, hcore, hturn, hrel, hcore', relKept.cur]
        rfl)
    refine ⟨t, ht, hret, fun ho => State.byte_congr ?_⟩
    have none_released : released = s := if_neg (by rw [ho]; exact Bool.false_ne_true)
    rw [e, hu]
    exact hpm.trans (hfm.trans (congrArg State.mem none_released))

/-- The word that an atomic writes, by its operation (R224, R225). -/
theorem atomNew_laws (op ty : BitVec 4) (old b c : Word) :
    (op = 0 → ty ≠ 7 → ∃ v, atomNew op ty old b c = some v ∧ isSum old b v) ∧
    (op = 1 → ty = 1 → ∃ v, atomNew op ty old b c = some v ∧ isMinI old b v) ∧
    (op = 2 → ty = 1 → ∃ v, atomNew op ty old b c = some v ∧ isMaxI old b v) ∧
    (op = 1 → ty = 2 → ∃ v, atomNew op ty old b c = some v ∧ isMinN old b v) ∧
    (op = 2 → ty = 2 → ∃ v, atomNew op ty old b c = some v ∧ isMaxN old b v) ∧
    (op = 3 → ∃ v, atomNew op ty old b c = some v ∧ isBits and old b v) ∧
    (op = 4 → ∃ v, atomNew op ty old b c = some v ∧ isBits or old b v) ∧
    (op = 5 → ∃ v, atomNew op ty old b c = some v ∧ isBits xor old b v) ∧
    (op = 6 → atomNew op ty old b c = some b) ∧
    (op = 7 → atomNew op ty old b c = if old = c then some b else none) := by
  refine ⟨?_, ?_, ?_, ?_, ?_, ?_, ?_, ?_, ?_, ?_⟩ <;> rintro rfl
  · exact fun ht => ⟨_, congrArg some (if_neg ht), isSum_add old b⟩
  · rintro rfl
    exact ⟨_, rfl, isMinI_pick old b⟩
  · rintro rfl
    exact ⟨_, rfl, isMaxI_pick old b⟩
  · rintro rfl
    exact ⟨_, rfl, isMinN_pick old b⟩
  · rintro rfl
    exact ⟨_, rfl, isMaxN_pick old b⟩
  · exact ⟨_, rfl, isBits_and old b⟩
  · exact ⟨_, rfl, isBits_or old b⟩
  · exact ⟨_, rfl, isBits_xor old b⟩
  · rfl
  · rfl

/-! ### The store that a bank takes -/

section

variable (s) (k : Nat) (f : Trap) (pc : Addr) (word : Nat) (site : Site) (h : (s.group k).trapMode = false)
include h

/-- A group that takes a fault outside trap mode is in its handler. -/
theorem group_vector : (s.vector k f pc word site).group k =
    ((s.group k).demoted (s.cycle k)).entered f pc word site (s.context (s.group k).ctx).tbase := by
  rw [s.vector_of_no_trap k f pc word site h]
  exact State.group_setGroup_self ..

theorem group_vector_ne {j : Nat} (ne : j ≠ k) : (s.vector k f pc word site).group j = s.group j := by
  rw [s.vector_of_no_trap k f pc word site h]
  exact State.group_setGroup_ne _ _ _ _ ne

theorem mem_vector : (s.vector k f pc word site).mem = s.mem := by
  rw [s.vector_of_no_trap k f pc word site h]

theorem scratch_vector (c : Nat) : ((s.vector k f pc word site).core c).scratch = (s.core c).scratch := by
  rw [s.vector_of_no_trap k f pc word site h]
  show ((s.demote k).core c).scratch = _
  obtain e | ⟨n, e⟩ := s.demote_core k c <;> rw [e]

/-- A group takes a fault outside trap mode: its trap registers hold it, and no byte of memory or of a scratchpad changes. -/
theorem takeFault_entered :
    let t := s.takeFault k f pc word site
    (t.group k).trapMode = true ∧
      (t.group k).trap = ((s.group k).entered f pc word site 0).trap ∧
      (t.group k).ticket = (s.group k).ticket ∧ t.mem = s.mem ∧ ∀ c, (t.core c).scratch = (s.core c).scratch := by
  have held : ((s.vector k f pc word site).group k).trapMode = true ∧
      ((s.vector k f pc word site).group k).trap = ((s.group k).entered f pc word site 0).trap ∧
      ((s.vector k f pc word site).group k).ticket = (s.group k).ticket := by
    rw [group_vector s k f pc word site h, Group.demoted_eq]
    exact ⟨rfl, rfl, rfl⟩
  have mem := mem_vector s k f pc word site h
  have scratch := scratch_vector s k f pc word site h
  unfold State.takeFault
  dsimp only
  split
  · exact ⟨held.1, held.2.1, held.2.2, mem, scratch⟩
  · rw [State.modGroup_eq, State.group_setGroup_self]
    exact ⟨held.1, held.2.1, held.2.2, mem, scratch⟩

end

/-- A fold of steps that each keep a part of a group. -/
theorem foldl_kept {α β γ : Type} (part : γ → β) (step : γ → α → γ) (h : ∀ g a, part (step g a) = part g) (l : List α)
    (g : γ) : part (l.foldl step g) = part g := by
  induction l generalizing g with
  | nil => rfl
  | cons a l ih => exact (ih _).trans (h g a)

theorem trapMode_write (g : Group) (r : Nat) (v : Word) (t : BitVec 4) : (g.write (.sreg r v t)).trapMode = g.trapMode := by
  unfold Group.write
  dsimp only
  split <;> rfl

theorem trapMode_lowerCounter (g : Group) (c : Option Nat) : (g.lowerCounter c).trapMode = g.trapMode := by
  cases c <;> rfl

/-- A command that is undone leaves the group's mode. -/
theorem trapMode_undone (cs : List (Nat × Cmd)) (g : Group) :
    (cs.foldr (fun c g =>
      (match c.2.old with
        | some (r, v) => g.write (.sreg r v.val v.tag)
        | none => g).lowerCounter c.2.counter) g).trapMode = g.trapMode := by
  induction cs with
  | nil => rfl
  | cons c cs ih =>
    rw [List.foldr_cons, trapMode_lowerCounter]
    split
    · exact (trapMode_write _ _ _ _).trans ih
    · exact ih

/-- A core without the locks of some commands. -/
def unlocked (ids : List Nat) (c : Core) : Core := { c with locks := c.locks.filter fun l => !ids.contains l.cmd }

/-- What is undone behind a store leaves the group's mode, the memory and the scratchpads. -/
theorem undoAfter_kept (s : State) (k id : Nat) (ticket : Word) :
    let t := s.undoAfter k id ticket
    (t.group k).trapMode = (s.group k).trapMode ∧ (t.group k).ticket = ticket ∧ t.mem = s.mem ∧
      ∀ c, (t.core c).scratch = (s.core c).scratch := by
  refine ⟨?_, ?_, rfl, fun c => ?_⟩
  · unfold State.undoAfter
    dsimp only
    rw [State.modGroup_eq, State.group_setGroup_self]
    exact (foldl_kept Group.trapMode (fun g (r : Result) => g.lowerCounter r.counter)
      (fun g r => trapMode_lowerCounter g r.counter) _ _).trans (trapMode_undone _ _)
  · unfold State.undoAfter
    dsimp only
    rw [State.modGroup_eq, State.group_setGroup_self]
  · obtain ⟨ids, e⟩ : ∃ ids, (s.undoAfter k id ticket).cores = s.cores.mapVals fun _ => unlocked ids := ⟨_, rfl⟩
    unfold State.core
    rw [e, AMap.get_mapVals {} s.cores (fun _ => unlocked ids) c rfl]
    rfl

theorem exec_storeAccepted {g id : Nat} {r : Result} {b : BankStore} (hr : s.result g id .store = some r)
    (hb : r.bank = some b) : exec (.storeAccepted g id) s = event "STORE_ACCEPTED" (s.bankTake g r b) := by
  show execStoreAccepted g id s = _
  unfold execStoreAccepted
  simp only [hr, hb]

/-- No older store of the group is on its way, and the bank's turn has come. -/
theorem bankTake_guard {g : Nat} {r : Result} {b : BankStore}
    (hold : ∀ y ∈ (s.group g).results, y.bank.isSome = true → r.id ≤ y.id) (hturn : s.turnOf (bankPoint b.core) g = true) :
    ¬((s.group g).results.any (fun y => y.bank.isSome && y.id < r.id) || !s.turnOf (bankPoint b.core) g) = true := by
  rw [hturn, Bool.not_true, Bool.or_false, List.any_eq_true]
  rintro ⟨y, hy, h⟩
  rw [Bool.and_eq_true, decide_eq_true_eq] at h
  exact absurd (hold y hy h.1) (not_le.2 h.2)

/-- A store that meets no locked range, or whose group has halted, is performed. -/
theorem bankTake_performed {g : Nat} {r : Result} {b : BankStore}
    (hold : ∀ y ∈ (s.group g).results, y.bank.isSome = true → r.id ≤ y.id) (hturn : s.turnOf (bankPoint b.core) g = true)
    (h : (s.group g).halted = true ∨ s.barredLanes b = []) :
    s.bankTake g r b = some (((b.lanes.foldl (fun u y => u.spWrite b.core y.key y.data)
      (if b.remote then s.flit [coreOf g / 32] else s)).noteServed (bankPoint b.core) g).finishResult g r) := by
  have hbars : (if (s.group g).halted then [] else s.barredLanes b) = [] := by
    obtain h | h := h
    · exact if_pos h
    · rw [h]
      exact ite_self _
  unfold State.bankTake
  dsimp only
  rw [if_neg (bankTake_guard hold hturn), hbars]

/-- A store that meets a locked range is a fault of its group, once all that is older has completed. -/
theorem bankTake_barred {g : Nat} {r : Result} {b : BankStore} {y : BankLane} {ys : List BankLane}
    (hturn : s.turnOf (bankPoint b.core) g = true) (halt : (s.group g).halted = false) (h : s.barredLanes b = y :: ys)
    (hres : ∀ z ∈ (s.group g).results, r.id ≤ z.id) (hacc : ∀ a ∈ (s.group g).accesses, r.id ≤ a.id) :
    s.bankTake g r b = some ((s.undoAfter g r.id b.site.ticket).takeFault g
      ⟨0x0C, y.off, laneMask ((y :: ys).map fun z => z.lane), 0⟩ b.pc b.word b.site) := by
  have oldest : ((s.group g).results.all (fun z => r.id ≤ z.id) &&
      (s.group g).accesses.all (fun a => r.id ≤ a.id)) = true := by
    rw [Bool.and_eq_true, List.all_eq_true, List.all_eq_true]
    exact ⟨fun z hz => decide_eq_true (hres z hz), fun a ha => decide_eq_true (hacc a ha)⟩
  unfold State.bankTake
  dsimp only
  rw [if_neg (bankTake_guard (fun y hy _ => hres y hy) hturn), halt, if_neg Bool.false_ne_true, h]
  exact if_pos oldest

/-- What a group's store that its bank takes comes to. -/
theorem storeAccepted_bank (s : State) (g id : Nat) (r : Result) (b : BankStore) (hr : s.result g id .store = some r)
    (hb : r.bank = some b) :
    let x := s.group g
    let barred := b.lanes.filter fun y => s.locked b.core b.team y.off y.data.length true
    (∀ y ∈ x.results, y.bank.isSome = true → r.id ≤ y.id) → s.turnOf (bankPoint b.core) g = true →
    (x.halted = true ∨ barred = [] →
      let u := if b.remote then s.flit [coreOf g / 32] else s
      exec (.storeAccepted g id) s = .next
        (((b.lanes.foldl (fun u y => u.spWrite b.core y.key y.data) u).noteServed (bankPoint b.core) g).finishResult g r)) ∧
    (∀ y ys, x.halted = false → x.trapMode = false → barred = y :: ys → y.off < 2 ^ 64 →
      (∀ z ∈ x.results, r.id ≤ z.id) → (∀ a ∈ x.accesses, r.id ≤ a.id) →
      ∃ t, exec (.storeAccepted g id) s = .next t ∧ (t.group g).trapMode = true ∧ (t.group g).trap.cause = 0x0C ∧
        (t.group g).trap.val.toNat = y.off ∧
        (∀ l, l < 96 → ((t.group g).trap.mask.getLsbD l = true ↔ ∃ z ∈ y :: ys, z.lane = l)) ∧
        (t.group g).trap.pc = b.pc ∧ (t.group g).trap.site = b.site ∧ (t.group g).ticket = b.site.ticket ∧
        (∀ a, t.byte a = s.byte a) ∧ ∀ c k, t.spBytes c k 1 = s.spBytes c k 1) := by
  intro x barred hold hturn
  have hexec := exec_storeAccepted hr hb
  refine ⟨fun h => ?_, fun y ys halt mode hbar hoff hres hacc => ?_⟩
  · rw [hexec, bankTake_performed hold hturn h]
    rfl
  · rw [hexec, bankTake_barred hturn halt hbar hres hacc]
    obtain ⟨uMode, uTicket, uMem, uScratch⟩ := undoAfter_kept s g r.id b.site.ticket
    obtain ⟨tMode, tTrap, tTicket, tMem, tScratch⟩ := takeFault_entered (s.undoAfter g r.id b.site.ticket) g
      ⟨0x0C, y.off, laneMask ((y :: ys).map fun z => z.lane), 0⟩ b.pc b.word b.site (uMode.trans mode)
    refine ⟨_, rfl, tMode, ?_, ?_, fun l hl => ?_, ?_, ?_, tTicket.trans uTicket, State.byte_congr (tMem.trans uMem),
      fun c k => ?_⟩
    · rw [tTrap]
      rfl
    · rw [tTrap]
      exact (BitVec.toNat_ofNat ..).trans (Nat.mod_eq_of_lt hoff)
    · rw [tTrap]
      exact (getLsbD_laneMask _ hl).trans List.mem_map
    · rw [tTrap]
      rfl
    · rw [tTrap]
      rfl
    · unfold State.spBytes
      rw [tScratch, uScratch]

end Sys2Proof.Claim
end

section
/-! SETTLED: O30. Scratchpad loads, stores and atomics (R183, R214, R219, R220, R225, R226). -/

namespace Sys2Proof.Claim

open Machine

/-- Settles O30: each load is `spLoad` and each store `spStore`, SPATOM and its lanes by their own laws, the bank's turn by
whether its store meets a locked range. -/
theorem scratchpad : Obligations.Scratchpad := by
  unfold Obligations.Scratchpad
  refine ⟨⟨fun d o look z => spLoads_of fun s => rfl, fun d o look z x => spLoads_of fun s => rfl,
    fun d n o look z => spLoads_of fun s => rfl, fun d n o look z x => spLoads_of fun s => rfl,
    fun r o z => spStores_of fun s => rfl, fun r o z x => spStores_of fun s => rfl,
    fun r n o z => spStores_of fun s => rfl, fun r n o z x => spStores_of fun s => rfl⟩, ?_, ?_, ?_, atomNew_laws⟩
  · exact fun s d a b c x n f nr look tm => spatom_turns s d a b c x n f nr look tm _ rfl
  · exact spAtomLanes_cons
  · exact storeAccepted_bank

end Sys2Proof.Claim
end

section
/-! SUPPORT. What service at the home slices leaves of a machine beyond its groups: the cores but for their L1s and counts, the
contexts but for what they observe, the wakes on their way and the next number (R194, R198, R314, R372). -/

namespace Sys2Proof.Machine

variable {s t u : State}

/-- A context apart from what it observes of the slices. -/
def Context.unobserved (c : Context) : Context := { c with observe := {} }

/-- A core apart from its L1 and its event counts. -/
def Core.unserved (x : Core) : Core := { x with l1 := [], events := {} }

/-- t has the groups, code caches, wakes and numbers of s, its contexts but for what they observe, and its cores but for their
L1s and counts. -/
structure HomeKept (s t : State) : Prop where
  groups : t.groups = s.groups
  clusters : t.clusters = s.clusters
  wakes : t.wakes = s.wakes
  fresh : t.fresh = s.fresh
  context : ∀ c, (t.context c).unobserved = (s.context c).unobserved
  present : ∀ c, (t.contexts.find? c).isSome = (s.contexts.find? c).isSome
  core : ∀ c, (t.core c).unserved = (s.core c).unserved

/-- A part of a context that a change of one keeps. -/
theorem State.context_modCtx_part {β : Type} (part : Context → β) {f : Context → Context} (h : ∀ x, part (f x) = part x)
    (s : State) (c d : Nat) : part ((s.modCtx c f).context d) = part (s.context d) := by
  rw [State.context_modCtx]
  split
  · next e =>
    subst e
    unfold State.context
    rw [AMap.get_eq_find?]
    cases AMap.find? s.contexts d with
    | none => rfl
    | some x => exact h x
  · rfl

theorem State.present_modCtx (s : State) (c d : Nat) (f : Context → Context) :
    ((s.modCtx c f).contexts.find? d).isSome = (s.contexts.find? d).isSome := by
  show ((s.contexts.modify c f).find? d).isSome = _
  rw [AMap.find?_modify]
  split
  · exact Option.isSome_map
  · rfl

/-- A part of a core that a change of one keeps. -/
theorem State.core_modCore_part {β : Type} (part : Core → β) {f : Core → Core} (h : ∀ x, part (f x) = part x)
    (s : State) (c d : Nat) : part ((s.modCore c f).core d) = part (s.core d) := by
  by_cases e : d = c
  · rw [e, State.modCore_eq, State.core_setCore_self, h]
  · rw [State.modCore_eq, State.core_setCore_ne _ _ _ _ e]

/-- A part of a group that a change of one keeps. -/
theorem State.group_modGroup_part {β : Type} (part : Group → β) {f : Group → Group} (h : ∀ x, part (f x) = part x)
    (s : State) (k j : Nat) : part ((s.modGroup k f).group j) = part (s.group j) := by
  by_cases e : j = k
  · rw [e, State.modGroup_eq, State.group_setGroup_self, h]
  · rw [State.modGroup_eq, State.group_setGroup_ne _ _ _ _ e]

namespace HomeKept

theorem of_contexts (hg : t.groups = s.groups) (hk : t.clusters = s.clusters) (hw : t.wakes = s.wakes)
    (hf : t.fresh = s.fresh) (hc : t.contexts = s.contexts) (hv : ∀ c, (t.core c).unserved = (s.core c).unserved) :
    HomeKept s t where
  groups := hg
  clusters := hk
  wakes := hw
  fresh := hf
  context c := by
    unfold State.context
    rw [hc]
  present c := by rw [hc]
  core := hv

/-- What changes memory, poison, pins, slices, routers and chunks alone. -/
theorem of_cores (hg : t.groups = s.groups) (hk : t.clusters = s.clusters) (hw : t.wakes = s.wakes)
    (hf : t.fresh = s.fresh) (hc : t.contexts = s.contexts) (hv : t.cores = s.cores) : HomeKept s t :=
  of_contexts hg hk hw hf hc fun c => by
    unfold State.core
    rw [hv]

theorem refl (s : State) : HomeKept s s := of_cores rfl rfl rfl rfl rfl rfl

theorem trans (x : HomeKept s t) (y : HomeKept t u) : HomeKept s u where
  groups := y.groups.trans x.groups
  clusters := y.clusters.trans x.clusters
  wakes := y.wakes.trans x.wakes
  fresh := y.fresh.trans x.fresh
  context c := (y.context c).trans (x.context c)
  present c := (y.present c).trans (x.present c)
  core c := (y.core c).trans (x.core c)

theorem ite {c : Prop} [Decidable c] (ht : HomeKept s t) (hu : HomeKept s u) : HomeKept s (if c then t else u) :=
  ite_holds ht hu

theorem foldl {α : Type} {f : State → α → State} (h : ∀ s x, HomeKept s (f s x)) (l : List α) (s : State) :
    HomeKept s (l.foldl f s) := by
  induction l generalizing s with
  | nil => exact refl s
  | cons x l ih => exact (h s x).trans (ih _)

theorem modCtx (s : State) (c : Nat) {f : Context → Context} (h : ∀ x, (f x).unobserved = x.unobserved) :
    HomeKept s (s.modCtx c f) :=
  ⟨rfl, rfl, rfl, rfl, State.context_modCtx_part _ h s c, fun d => s.present_modCtx c d f, fun _ => rfl⟩

theorem modCore (s : State) (c : Nat) {f : Core → Core} (h : ∀ x, (f x).unserved = x.unserved) :
    HomeKept s (s.modCore c f) :=
  of_contexts rfl rfl rfl rfl rfl (State.core_modCore_part _ h s c)

theorem ptroot (x : HomeKept s t) (c : Nat) : (t.context c).ptroot = (s.context c).ptroot :=
  show (t.context c).unobserved.ptroot = (s.context c).unobserved.ptroot from congrArg Context.ptroot (x.context c)

theorem xlateOp (x : HomeKept s t) (c : Nat) : (t.context c).xlateOp = (s.context c).xlateOp :=
  show (t.context c).unobserved.xlateOp = (s.context c).unobserved.xlateOp from congrArg Context.xlateOp (x.context c)

theorem coreList (x : HomeKept s t) (c : Nat) : (t.context c).coreList = (s.context c).coreList :=
  show (t.context c).unobserved.coreList = (s.context c).unobserved.coreList from congrArg Context.coreList (x.context c)

theorem tlb (x : HomeKept s t) (c : Nat) : (t.core c).tlb = (s.core c).tlb :=
  show (t.core c).unserved.tlb = (s.core c).unserved.tlb from congrArg Core.tlb (x.core c)

theorem sideLog (x : HomeKept s t) (c : Nat) : (t.core c).sideLog = (s.core c).sideLog :=
  show (t.core c).unserved.sideLog = (s.core c).unserved.sideLog from congrArg Core.sideLog (x.core c)

end HomeKept

theorem State.countEvent_homeKept (s : State) (c : Nat) (f : CoreEvents → CoreEvents) : HomeKept s (s.countEvent c f) :=
  .modCore s c fun _ => rfl

theorem State.flit_homeKept (s : State) (rs : List Nat) : HomeKept s (s.flit rs) :=
  .of_cores rfl rfl rfl rfl rfl rfl

theorem State.addBucket_homeKept (s : State) (c slot b : Nat) : HomeKept s (s.addBucket c slot b) := .modCtx s c fun _ => rfl

theorem State.reuseSeen_homeKept (s : State) (line : Nat) : HomeKept s (s.reuseSeen line) := by
  unfold State.reuseSeen
  have counted := HomeKept.foldl (f := fun s (r : ReuseReg) => s.addBucket r.ctx r.slot (min 31 (Nat.log2 (r.d + 1))))
    (fun s r => s.addBucket_homeKept _ _ _) (s.reuse.filter fun r => r.awaits s.clock line) s
  exact .ite (.refl s) (counted.trans (.of_cores rfl rfl rfl rfl rfl rfl))

theorem State.l2Serve_homeKept (s : State) (line : Nat) : HomeKept s (s.l2Serve line) := by
  have seen := s.reuseSeen_homeKept line
  have slice (u : State) (lines : List Nat) : HomeKept u { u.flit [8 + dieOf line] with l2 := lines } :=
    .of_cores rfl rfl rfl rfl rfl rfl
  unfold State.l2Serve
  exact .ite seen (.ite (seen.trans (slice _ _)) (seen.trans (slice _ _)))

theorem State.markStale_homeKept (s : State) (by_ : Option Nat) (line : Nat) (mask : BitVec 4) :
    HomeKept s (s.markStale by_ line mask) := by
  refine .of_contexts rfl rfl rfl rfl rfl fun c => ?_
  unfold State.markStale State.core
  rw [AMap.get_mapVals {} s.cores _ c (ite_self _)]
  exact ite_holds (P := fun x : Core => x.unserved = _) rfl rfl

theorem State.dirtied_homeKept (s : State) (line : Nat) : HomeKept s (s.dirtied line) := .of_cores rfl rfl rfl rfl rfl rfl

theorem State.writeSectors_homeKept (s : State) (c line : Nat) (mask : BitVec 4) (rec_ : BitVec 3) :
    HomeKept s (s.writeSectors c line mask rec_) := by
  unfold State.writeSectors
  split
  · exact .refl s
  · next l h =>
    have written (mem : AMap Byte) (pins : AMap Pin) (poison : List Nat) :
        HomeKept s { s with mem := mem, pins := pins, poison := poison } :=
      .of_cores rfl rfl rfl rfl rfl rfl
    have served (u : State) : HomeKept u ((u.flit (routePart c (dieOf line))).l2Serve line) :=
      (u.flit_homeKept _).trans (State.l2Serve_homeKept _ _)
    have marked (u : State) (d : BitVec 4) (y : L1Line) : HomeKept u ((u.markStale (some c) line d).setL1 c line y) :=
      (u.markStale_homeKept _ _ _).trans (.modCore _ c fun _ => rfl)
    exact (HomeKept.trans (written _ _ _) (.ite (.refl _) (served _))).trans (marked _ _ _)

theorem State.recallLine_homeKept (s : State) (line : Nat) : HomeKept s (s.recallLine line) := by
  unfold State.recallLine
  split
  · exact .refl s
  · exact .foldl (fun s c => (s.writeSectors_homeKept c line 15 1).trans (State.countEvent_homeKept _ c _)) _ s

theorem State.recallRange_homeKept (s : State) (k n : Nat) : HomeKept s (s.recallRange k n) :=
  .foldl (fun s line => .ite (s.recallLine_homeKept line) (.refl s)) _ s

/-- A write by an agent that is no core. -/
theorem State.homeWrite_homeKept (s : State) (k : Nat) (bs : List Byte) : HomeKept s (s.homeWrite none k bs) := by
  have written (u : State) (mem : AMap Byte) : HomeKept u { u with mem := mem } :=
    .of_cores rfl rfl rfl rfl rfl rfl
  have filtered (u : State) (poison : List Nat) : HomeKept u { u with poison := poison } :=
    .of_cores rfl rfl rfl rfl rfl rfl
  have line (u : State) (line : Nat) :
      HomeKept u ((((u.l2Serve line).markStale none line (sectorMask line k bs.length)).dirtied line).flit
        (huskPart (dieOf line))) :=
    (u.l2Serve_homeKept line).trans ((State.markStale_homeKept _ _ _ _).trans
      ((State.dirtied_homeKept _ _).trans (State.flit_homeKept _ _)))
  unfold State.homeWrite
  exact ((s.recallRange_homeKept k bs.length).trans (written _ _)).trans ((HomeKept.foldl line _ _).trans (filtered _ _))

theorem State.homeWord_homeKept (s : State) (k : Nat) (w : Word) : HomeKept s (s.homeWord k w) := s.homeWrite_homeKept k _

theorem State.agentTouch_homeKept (s : State) (k n : Nat) : HomeKept s (s.agentTouch k n) :=
  (s.recallRange_homeKept k n).trans
    (.foldl (fun s line => (s.flit_homeKept _).trans (State.l2Serve_homeKept _ line)) _ _)

theorem State.agentWalk_homeKept (s : State) (ctx va n : Nat) : HomeKept s (s.agentWalk ctx va n) := by
  induction n with
  | zero => exact .refl s
  | succ n ih =>
    unfold State.agentWalk
    dsimp only
    split
    · exact ih.trans (State.agentTouch_homeKept _ _ 8)
    · exact ih

theorem State.recallFrames_homeKept (s : State) (fs : List Nat) : HomeKept s (s.recallFrames fs) :=
  .foldl (fun s (p : Nat × Pin) => s.recallLine_homeKept p.1) _ s

end Sys2Proof.Machine
end

section
/-! SUPPORT. What records, the ends of grids and the replay of side logs leave of the translations: the request that a context
has in progress, the TLBs and the base registers (R189, R192, R216, R292). -/

namespace Sys2Proof.Machine

variable {s t u : State}

/-- t has the translation requests in progress, the TLBs and the base registers of s. -/
structure MapKept (s t : State) : Prop where
  op : ∀ c, (t.context c).xlateOp = (s.context c).xlateOp
  tlb : ∀ c, (t.core c).tlb = (s.core c).tlb
  bases : ∀ k, (t.group k).b = (s.group k).b

namespace MapKept

theorem of_same (hc : t.contexts = s.contexts) (hv : t.cores = s.cores) (hg : t.groups = s.groups) : MapKept s t where
  op c := by
    unfold State.context
    rw [hc]
  tlb c := by
    unfold State.core
    rw [hv]
  bases k := by rw [State.group_congr hg]

theorem refl (s : State) : MapKept s s := of_same rfl rfl rfl

theorem trans (x : MapKept s t) (y : MapKept t u) : MapKept s u where
  op c := (y.op c).trans (x.op c)
  tlb c := (y.tlb c).trans (x.tlb c)
  bases k := (y.bases k).trans (x.bases k)

theorem ite {c : Prop} [Decidable c] (ht : MapKept s t) (hu : MapKept s u) : MapKept s (if c then t else u) :=
  ite_holds ht hu

theorem ite_fst {α : Type} {c : Prop} [Decidable c] {p q : State × α} (hp : MapKept s p.1) (hq : MapKept s q.1) :
    MapKept s (if c then p else q).1 :=
  ite_holds (P := fun r : State × α => MapKept s r.1) hp hq

theorem foldl {α : Type} {f : State → α → State} (h : ∀ s x, MapKept s (f s x)) (l : List α) (s : State) :
    MapKept s (l.foldl f s) := by
  induction l generalizing s with
  | nil => exact refl s
  | cons x l ih => exact (h s x).trans (ih _)

theorem of_home (x : HomeKept s t) : MapKept s t := ⟨x.xlateOp, x.tlb, fun k => by rw [State.group_congr x.groups]⟩

theorem modCtx (s : State) (c : Nat) {f : Context → Context} (h : ∀ x, (f x).xlateOp = x.xlateOp) :
    MapKept s (s.modCtx c f) := ⟨State.context_modCtx_part _ h s c, fun _ => rfl, fun _ => rfl⟩

theorem modCore (s : State) (c : Nat) {f : Core → Core} (h : ∀ x, (f x).tlb = x.tlb) : MapKept s (s.modCore c f) :=
  ⟨fun _ => rfl, State.core_modCore_part _ h s c, fun _ => rfl⟩

theorem modGroup (s : State) (k : Nat) {f : Group → Group} (h : ∀ x, (f x).b = x.b) : MapKept s (s.modGroup k f) :=
  ⟨fun _ => rfl, fun _ => rfl, State.group_modGroup_part _ h s k⟩

theorem setGroup (s : State) (k : Nat) {g : Group} (h : g.b = (s.group k).b) : MapKept s (s.setGroup k g) := by
  refine ⟨fun _ => rfl, fun _ => rfl, fun j => ?_⟩
  by_cases e : j = k
  · rw [e, State.group_setGroup_self, h]
  · rw [State.group_setGroup_ne _ _ _ _ e]

end MapKept

/-! ### Records -/

theorem State.sendWake_mapKept (s : State) (from_ ctx key : Nat) : MapKept s (s.sendWake from_ ctx key) :=
  .of_same rfl rfl rfl

theorem State.eventPacket_mapKept (s : State) (ctx q : Nat) (tail : Word) : MapKept s (s.eventPacket ctx q tail) := by
  have sent (p : HostOut) : MapKept s (s.send p) := .of_same rfl rfl rfl
  exact .ite (.refl s) ((sent _).trans (.modCtx _ ctx fun _ => rfl))

theorem State.pushRecord_mapKept (s : State) (ctx q desc : Nat) (ws : List Word) : MapKept s (s.pushRecord ctx q desc ws) := by
  unfold State.pushRecord
  exact (MapKept.of_home ((s.homeWrite_homeKept _ _).trans (State.homeWord_homeKept _ _ _))).trans
    ((State.sendWake_mapKept _ _ _ _).trans (State.eventPacket_mapKept _ _ _ _))

theorem State.pushFault_mapKept (s : State) (ctx : Nat) (ws : List Word) : MapKept s (s.pushFault ctx ws) := by
  have pushed := s.pushRecord_mapKept ctx 0 (s.context ctx).faultq ws
  exact .ite (pushed.trans (.modCtx _ ctx fun _ => rfl)) pushed

theorem State.faultRecord_mapKept (s : State) (ctx : Nat) (r : FaultRecord) : MapKept s (s.faultRecord ctx r) := by
  have queued (ws : List Word) : MapKept s (s.enqueueFault ctx ws) :=
    .ite (s.pushFault_mapKept ctx ws) (.modCtx s ctx fun _ => rfl)
  exact (queued _).trans (.modCtx _ ctx fun _ => rfl)

theorem State.storeRecords_mapKept (s : State) (k : Nat) (site : Site) (ls : AMap (Nat × Nat × Nat)) :
    MapKept s (s.storeRecords k site ls) :=
  .foldl (fun s (p : Nat × Nat × Nat × Nat) => s.faultRecord_mapKept (s.group k).ctx (s.groupRecord k
    { kind := 2, code := 0x09 + 256 * p.2.2.2, site := site, va := p.2.2.1 })) _ s

/-! ### The ends of groups and grids -/

theorem State.pendingRecords_mapKept (s : State) (k : Nat) : MapKept s (s.pendingRecords k) := by
  refine .foldl (fun s p => ?_) _ s
  cases p with
  | lateStore site n => exact s.faultRecord_mapKept _ _
  | engine site st => exact .refl s

theorem State.haltGroup_mapKept (s : State) (k : Nat) : MapKept s (s.haltGroup k) := by
  have halted := s.haltGroup_teamsOnly k
  refine ⟨fun c => by rw [halted]; rfl, fun c => ?_, fun j => ?_⟩
  · rw [halted]
    show ((s.demote k).core c).tlb = _
    obtain e | ⟨n, e⟩ := s.demote_core k c <;> rw [e]
  · rw [State.group_congr halted.groups]
    by_cases e : j = k
    · subst e
      exact (congrArg Group.b (AMap.get_put_self ..)).trans (by rw [Group.demoted_eq]; rfl)
    · exact congrArg Group.b (AMap.get_put_ne _ _ _ _ _ e)

theorem State.endGroup_mapKept (s : State) (k : Nat) : MapKept s (s.endGroup k) := by
  have flushed : MapKept s (s.flushPending k) := by
    rw [s.flushPending_eq k]
    exact (s.pendingRecords_mapKept k).trans (.setGroup _ k (by rw [(s.pendingRecords_memoryOnly k).group]))
  exact flushed.trans (State.haltGroup_mapKept _ k)

theorem State.endGrid_mapKept (s : State) (grid code va : Nat) : MapKept s (s.endGrid grid code va) := by
  have marked (ctx : Nat) (grids : AMap Grid) (cmds : AMap Cmd) : MapKept s { s with
      grids := grids, cmds := cmds
      contexts := s.contexts.modify ctx fun c => { c with saved := c.saved.filter fun t => t.team.grid != grid } } :=
    (MapKept.modCtx s ctx (f := fun c => { c with saved := c.saved.filter fun t => t.team.grid != grid }) fun _ => rfl).trans
      (.of_same rfl rfl rfl)
  unfold State.endGrid
  split
  · exact .refl s
  · exact .ite (.refl s) (((marked _ _ _).trans
      (.foldl (fun s k => .ite (s.endGroup_mapKept k) (.refl s)) _ _)).trans (State.faultRecord_mapKept _ _ _))

/-! ### The side log -/

theorem State.sendTo_mapKept (s : State) (ctx : Nat) (p : PeerSend) : MapKept s (s.sendTo ctx p) := .of_same rfl rfl rfl

theorem State.sendPeer_mapKept (s : State) (k lane va key : Nat) (op : PeerOp) (access : Option Nat) (site : Site) :
    MapKept s (s.sendPeer k lane va key op access site) :=
  (MapKept.of_home (s.flit_homeKept _)).trans (State.sendTo_mapKept _ _ _)

theorem State.removedStore_mapKept (s : State) (e : SideEntry) : MapKept s (s.removedStore e) :=
  .ite (s.faultRecord_mapKept _ _) (.modGroup s _ fun _ => rfl)

theorem State.replayEntry_mapKept (s : State) (e : SideEntry) (p : TlbEntry) : MapKept s (s.replayEntry e p) := by
  have numbered : MapKept s s.bump := .of_same rfl rfl rfl
  have flown (a : Access) : MapKept s (s.bump.modGroup e.group fun g => { g with accesses := g.accesses ++ [a] }) :=
    numbered.trans (.modGroup _ _ fun _ => rfl)
  unfold State.replayEntry
  dsimp only
  split
  · exact flown _
  · refine MapKept.trans ?_ (.foldl (fun s (x : LaneAcc) => s.sendPeer_mapKept _ _ _ _ _ _ _) _ _)
    exact flown _

theorem State.drainList_mapKept (es : List SideEntry) (s : State) (blocked : List Nat) :
    MapKept s (s.drainList blocked es).1 := by
  induction es generalizing s blocked with
  | nil => exact .refl s
  | cons e es ih =>
    have walked : MapKept s (s.agentWalk e.ctx (192 * e.line) 4) := .of_home (s.agentWalk_homeKept _ _ 4)
    refine .ite_fst (ih s _) (.ite_fst (walked.trans ((State.endGrid_mapKept _ _ _ _).trans (ih _ _))) ?_)
    split
    · exact .ite_fst (walked.trans ((State.removedStore_mapKept _ _).trans (ih _ _)))
        (.ite_fst (walked.trans (ih _ _)) (walked.trans ((State.replayEntry_mapKept _ _ _).trans (ih _ _))))
    · exact walked.trans ((State.storeRecords_mapKept _ _ _ _).trans (ih _ _))
    · exact walked.trans ((State.storeRecords_mapKept _ _ _ _).trans (ih _ _))

theorem State.sideRoom_mapKept (s : State) (c : Nat) : MapKept s (s.sideRoom c) := by
  refine .ite (.refl s) ⟨fun _ => rfl, fun _ => rfl, fun k => ?_⟩
  unfold State.group
  rw [AMap.get_mapVals {} s.groups _ k (ite_self _)]
  exact ite_holds (P := fun g : Group => g.b = _) rfl rfl

theorem State.drainLog_mapKept (s : State) (c : Nat) : MapKept s (s.drainLog c) :=
  ((State.drainList_mapKept (s.core c).sideLog s []).trans
    (.modCore _ c (f := fun x => { x with sideLog := (s.drainList [] (s.core c).sideLog).2 }) fun _ => rfl)).trans
    (State.sideRoom_mapKept _ c)

/-! ### The status of a request -/

theorem State.agentWord_mapKept (s : State) (ctx va key : Nat) (w : Word) : MapKept s (s.agentWord ctx va key w) :=
  .ite ((MapKept.of_home (s.flit_homeKept _)).trans (State.sendTo_mapKept _ _ _)) (.of_home (s.homeWord_homeKept _ _))

theorem State.xlateStatus_mapKept (s : State) (ctx done status : Nat) : MapKept s (s.xlateStatus ctx done status) := by
  unfold State.xlateStatus
  split
  · exact (MapKept.of_home (s.agentWalk_homeKept _ _ 4)).trans
      ((State.agentWord_mapKept _ _ _ _ _).trans (State.sendWake_mapKept _ _ _ _))
  · exact .refl s

end Sys2Proof.Machine
end

section
/-! SUPPORT. How a page walk of a group ends (R187, R194, R198, R368): its reads at slices where nothing turns it away, and what
PAGE_WALK_COMPLETE makes of each end. -/

namespace Sys2Proof.Machine

variable {s t u : State}

/-! ### Walks of equal tables -/

theorem State.bytes_congr (h : t.mem = s.mem) (a n : Nat) : t.bytes a n = s.bytes a n := by
  unfold State.bytes
  exact List.map_congr_left fun i _ => State.byte_congr h _

theorem State.walkFrom_congr (h : t.mem = s.mem) (ctx va lvl table : Nat) :
    t.walkFrom ctx va lvl table = s.walkFrom ctx va lvl table := by
  induction lvl generalizing table with
  | zero => rfl
  | succ lvl ih =>
    unfold State.walkFrom
    simp only [State.bytes_congr h, ih]

/-- A walk reads memory from its context's root. -/
theorem State.walk_congr (h : t.mem = s.mem) {ctx : Nat} (hr : (t.context ctx).ptroot = (s.context ctx).ptroot) (va : Nat) :
    t.walk ctx va = s.walk ctx va := by
  unfold State.walk
  simp only [State.bytes_congr h, hr, State.walkFrom_congr h]

/-! ### A read at a slice -/

/-- The home slice of byte k holds no request through a recall. -/
def State.Unheld (s : State) (k : Nat) : Prop := ∀ p, s.pins.find? (lineOf k) = some p → p.recalling = false ∧ p.held = []

theorem State.nextHeld_none {line : Nat} {p : Pin} (h : p.held = []) (r : Nat × Nat) :
    (s.nextHeld line p).any (· != r) = false := by
  unfold State.nextHeld
  rw [h]
  rfl

theorem State.dropHeld_unheld {k : Nat} (h : s.Unheld k) (r : Nat × Nat) : s.dropHeld (lineOf k) r = s := by
  unfold State.dropHeld
  cases hp : s.pins.find? (lineOf k) with
  | none => rfl
  | some p =>
    obtain ⟨-, held⟩ := h p hp
    dsimp only
    rw [held]
    rfl

/-- A read meets nothing where no other core holds its sectors. -/
theorem State.meetPins_served {c k n : Nat} (h : s.Unheld k)
    (free : s.pinnedElsewhere c (lineOf k) (sectorMask (lineOf k) k n) = false) (r : Nat × Nat) :
    s.meetPins c r k n = .served s := by
  unfold State.meetPins
  dsimp only
  cases hp : s.pins.find? (lineOf k) with
  | none => rfl
  | some p =>
    obtain ⟨recalling, held⟩ := h p hp
    dsimp only
    rw [recalling, State.nextHeld_none held, free, State.dropHeld_unheld h]
    rfl

/-- A line of which another core holds a sector is pinned. -/
theorem State.pin_of_pinnedElsewhere {c line : Nat} {m : BitVec 4} (h : s.pinnedElsewhere c line m = true) :
    ∃ p, s.pins.find? line = some p := by
  cases hp : s.pins.find? line with
  | some p => exact ⟨p, rfl⟩
  | none =>
    refine absurd h ?_
    unfold State.pinnedElsewhere State.pinOwner
    simp [hp]

/-- A read that another core's sector turns away is counted, and changes nothing else but the count of its line. -/
theorem State.meetPins_retry {c k n : Nat} (h : s.Unheld k)
    (taken : s.pinnedElsewhere c (lineOf k) (sectorMask (lineOf k) k n) = true)
    (few : ∀ p, s.pins.find? (lineOf k) = some p → p.retries < 4095) (r : Nat × Nat) :
    ∃ t, s.meetPins c r k n = .retry t ∧ t.mem = s.mem ∧ t.groups = s.groups := by
  obtain ⟨p, hp⟩ := State.pin_of_pinnedElsewhere taken
  obtain ⟨recalling, held⟩ := h p hp
  unfold State.meetPins
  simp only [hp, recalling, State.nextHeld_none held, taken, State.dropHeld_unheld h, not_le.2 (few p hp)]
  exact ⟨_, rfl, rfl, rfl⟩

/-! ### The reads of a walk -/

/-- Reads that nothing turns away are served, one line after another. -/
theorem State.readReach_served (as : List Nat) {c n : Nat} (r : Nat × Nat) (h : ∀ a ∈ as, s.Unheld a)
    (free : ∀ a ∈ as, lineOf a ∉ s.poison ∧ s.pinnedElsewhere c (lineOf a) (sectorMask (lineOf a) a n) = false) :
    ∃ t, s.readReach c r n as = .served t ∧ ServeOnly s t ∧ HomeKept s t := by
  induction as generalizing s with
  | nil => exact ⟨s, rfl, rfl, .refl s⟩
  | cons a as ih =>
    obtain ⟨clean, unpinned⟩ := free a List.mem_cons_self
    have met := State.meetPins_served (h a List.mem_cons_self) unpinned r
    have served : ServeOnly s ((s.flit (pathTo c a)).l2Serve (lineOf a)) :=
      ServeOnly.trans (t := s.flit (pathTo c a)) rfl (State.l2Serve_serveOnly _ _)
    have kept : HomeKept s ((s.flit (pathTo c a)).l2Serve (lineOf a)) :=
      (s.flit_homeKept _).trans (State.l2Serve_homeKept _ _)
    have pins : ((s.flit (pathTo c a)).l2Serve (lineOf a)).pins = s.pins := by rw [served]
    have poison : ((s.flit (pathTo c a)).l2Serve (lineOf a)).poison = s.poison := by rw [served]
    obtain ⟨t, ht, ts, tk⟩ := ih (s := (s.flit (pathTo c a)).l2Serve (lineOf a))
      (fun b hb p hp => h b (List.mem_cons_of_mem _ hb) p (by rw [← pins]; exact hp))
      (fun b hb => by
        unfold State.pinnedElsewhere State.pinOwner
        rw [poison, pins]
        exact free b (List.mem_cons_of_mem _ hb))
    refine ⟨t, ?_, served.trans ts, kept.trans tk⟩
    unfold State.readReach
    rw [met]
    dsimp only
    rw [if_neg (by simpa using clean)]
    exact ht

/-- The first read of a walk that a sector of another core turns away. -/
theorem State.readReach_retry {a c n : Nat} {as : List Nat} {r : Nat × Nat} (h : s.meetPins c r a n = .retry t) :
    s.readReach c r n (a :: as) = .retry t := by
  unfold State.readReach
  rw [h]

/-- The first read of a walk on a line that an error has spoilt. -/
theorem State.readReach_spoilt {a c n : Nat} {as : List Nat} {r : Nat × Nat} (h : s.meetPins c r a n = .served s)
    (hx : lineOf a ∈ s.poison) : s.readReach c r n (a :: as) = .spoilt (lineOf a) := by
  unfold State.readReach
  rw [h]
  exact if_pos (by simpa using hx)

/-! ### PAGE_WALK_COMPLETE -/

/-- The core of a group counts a walk. -/
def State.countMiss (s : State) (k : Nat) : State :=
  s.countEvent (coreOf k) fun e => { e with tlbMisses := e.tlbMisses + 1 }

/-- What a group's walk of a page makes of its core's TLB and of the group. -/
def State.walkEnd (u : State) (k page : Nat) : Walk → State
  | .ok e => (u.takeTlb (coreOf k) e).modGroup k fun x => x.walked page none
  | .absent => u.modGroup k fun x => x.walked page (some 1)
  | .malformed => u.modGroup k fun x => x.walked page (some 2)

section

variable {k page : Nat} {ps : List Nat} (hw : (s.group k).wait = .walk ps) (hp : page ∈ ps)
include hw hp

/-- The end of a walk that is sent again. -/
theorem exec_pageWalk_retry (ht : s.tryWalk k (s.walkReads (s.group k).ctx (24576 * page)) 8 = .retry t) :
    exec (.pageWalkComplete k page) s = .next t := by
  show execPageWalkComplete k page s = _
  unfold execPageWalkComplete
  simp only [hw, ht, List.contains_iff_mem.2 hp]
  rfl

/-- The end of a walk on a line that an error has spoilt. -/
theorem exec_pageWalk_spoilt {line : Nat} (ht : s.tryWalk k (s.walkReads (s.group k).ctx (24576 * page)) 8 = .spoilt line) :
    exec (.pageWalkComplete k page) s = .next ((s.errorEnd k (24576 * page)).endGroup k) := by
  show execPageWalkComplete k page s = _
  unfold execPageWalkComplete
  simp only [hw, ht, List.contains_iff_mem.2 hp]
  rfl

/-- The end of a walk whose reads are all served: it is counted, and the group goes on with what it has found. -/
theorem exec_pageWalk_served (ht : s.tryWalk k (s.walkReads (s.group k).ctx (24576 * page)) 8 = .served t) :
    exec (.pageWalkComplete k page) s =
      .next ((t.countMiss k).walkEnd k page ((t.countMiss k).walk (s.group k).ctx (24576 * page))) := by
  show execPageWalkComplete k page s = _
  unfold execPageWalkComplete
  have counted : (t.countEvent (coreOf k) fun e => { e with tlbMisses := e.tlbMisses + 1 }) = t.countMiss k := rfl
  simp only [hw, ht, List.contains_iff_mem.2 hp, counted]
  unfold State.walkEnd
  cases (t.countMiss k).walk (s.group k).ctx (24576 * page) <;> rfl

end

/-- A group after a walk, by the wait that is left. -/
theorem Group.walked_of_wait {g : Group} {ps : List Nat} {page : Nat} (h : g.wait = .walk ps) :
    let left := ps.filter (· != page)
    let w : Wait := if left = [] then .none else .walk left
    g.walked page none = { g with wait := w } ∧
      ∀ code, g.walked page (some code) = { g with wait := w, badPages := g.badPages ++ [(page, code)] } := by
  unfold Group.walked
  simp [h]

end Sys2Proof.Machine
end

section
/-! SUPPORT. The page walks of O47 (R187, R194, R368): each end as the claim states it. -/

namespace Sys2Proof.Claim

open Machine

variable {s : State} {g page : Nat} {ps : List Nat}

/-- A grid that is there after its end is cancelled. -/
theorem endGrid_cancelled {grid code va : Nat} {q : Grid} (h : (s.endGrid grid code va).grids.find? grid = some q) :
    q.cancelled = true := by
  unfold State.endGrid at h
  split at h
  · next hn =>
    rw [hn] at h
    cases h
  · next q' hq =>
    split at h
    · next hc =>
      obtain rfl := Option.some.inj (hq.symm.trans h)
      exact hc
    · rw [(State.faultRecord_memoryOnly _ _ _).grids, (State.endGroups_grids _ _ 0).1, AMap.find?_put_self] at h
      obtain rfl := Option.some.inj h
      rfl

section

variable (hw : (s.group g).wait = .walk ps) (hp : page ∈ ps) (due : (s.group g).walkAt ≤ s.cycle g)
include hw hp due

/-- A walk whose first entry another core holds pinned goes again 32 clocks later. -/
theorem pageWalk_retried {a : Nat} (first : (s.walkReads (s.group g).ctx (24576 * page)).head? = some a) (hu : s.Unheld a)
    (taken : s.pinnedElsewhere (coreOf g) (lineOf a) (sectorMask (lineOf a) a 8) = true)
    (few : ∀ p, s.pins.find? (lineOf a) = some p → p.retries < 4095) :
    ∃ t, exec (.pageWalkComplete g page) s = .next t ∧ (∀ a, t.byte a = s.byte a) ∧
      t.group g = { s.group g with walkAt := s.cycle g + 32 } := by
  obtain ⟨as, hreads⟩ := List.head?_eq_some_iff.1 first
  obtain ⟨u, met, mem, groups⟩ := State.meetPins_retry hu taken few (g, 0)
  have tried : s.tryWalk g (s.walkReads (s.group g).ctx (24576 * page)) 8 =
      .retry (u.modGroup g fun x => { x with walkAt := s.cycle g + 32 }) := by
    unfold State.tryWalk
    rw [if_neg (not_lt.2 due), hreads, State.readReach_retry met]
  refine ⟨_, exec_pageWalk_retry hw hp tried, State.byte_congr mem, ?_⟩
  rw [State.modGroup_eq, State.group_setGroup_self, State.group_congr groups]

/-- A walk on a line that an error has spoilt ends its grid, and the group with it. -/
theorem pageWalk_spoilt {a : Nat} (first : (s.walkReads (s.group g).ctx (24576 * page)).head? = some a) (hu : s.Unheld a)
    (free : s.pinnedElsewhere (coreOf g) (lineOf a) (sectorMask (lineOf a) a 8) = false) (hx : lineOf a ∈ s.poison) :
    ∃ t, exec (.pageWalkComplete g page) s = .next t ∧ (t.group g).halted = true ∧
      ∀ q, t.grids.find? (s.group g).grid = some q → q.cancelled = true := by
  obtain ⟨as, hreads⟩ := List.head?_eq_some_iff.1 first
  have tried : s.tryWalk g (s.walkReads (s.group g).ctx (24576 * page)) 8 = .spoilt (lineOf a) := by
    unfold State.tryWalk
    rw [if_neg (not_lt.2 due), hreads, State.readReach_spoilt (State.meetPins_served hu free (g, 0)) hx]
  refine ⟨_, exec_pageWalk_spoilt hw hp tried, ?_, fun q hq => ?_⟩
  · rw [State.endGroup_group]
    exact (Group.halts_demoted _ _).1
  · rw [State.endGroup_grids] at hq
    exact endGrid_cancelled hq

/-- A walk that nothing turns away ends with the page in the TLB, or noted as absent or malformed. -/
theorem pageWalk_served (hu : ∀ a ∈ s.walkReads (s.group g).ctx (24576 * page), s.Unheld a)
    (free : ∀ a ∈ s.walkReads (s.group g).ctx (24576 * page), lineOf a ∉ s.poison ∧
      s.pinnedElsewhere (coreOf g) (lineOf a) (sectorMask (lineOf a) a 8) = false) :
    let left := ps.filter (· != page)
    let w : Wait := if left = [] then .none else .walk left
    ∃ t, exec (.pageWalkComplete g page) s = .next t ∧ (∀ a, t.byte a = s.byte a) ∧
      (t.core (coreOf g)).events.tlbMisses = sat64 ((s.core (coreOf g)).events.tlbMisses + 1) ∧
      (∀ e, s.walk (s.group g).ctx (24576 * page) = .ok e →
        e ∈ (t.core (coreOf g)).tlb ∧ t.group g = { s.group g with wait := w }) ∧
      (s.walk (s.group g).ctx (24576 * page) = .absent →
        t.group g = { s.group g with wait := w, badPages := (s.group g).badPages ++ [(page, 1)] }) ∧
      (s.walk (s.group g).ctx (24576 * page) = .malformed →
        t.group g = { s.group g with wait := w, badPages := (s.group g).badPages ++ [(page, 2)] }) := by
  intro left w
  obtain ⟨u, reached, served, kept⟩ := State.readReach_served _ (g, 0) hu free
  have tried : s.tryWalk g (s.walkReads (s.group g).ctx (24576 * page)) 8 = .served u := by
    unfold State.tryWalk
    rw [if_neg (not_lt.2 due), reached]
  have walked : (u.countMiss g).walk (s.group g).ctx (24576 * page) = s.walk (s.group g).ctx (24576 * page) :=
    State.walk_congr (by rw [served]) (kept.ptroot _) _
  have counted : ((u.countMiss g).core (coreOf g)).events.tlbMisses =
      sat64 ((s.core (coreOf g)).events.tlbMisses + 1) := by
    have cores : u.core (coreOf g) = s.core (coreOf g) := by rw [served]; rfl
    rw [← cores]
    exact congrArg (fun x : Core => x.events.tlbMisses) (State.core_setCore_self ..)
  have group : (u.countMiss g).group g = s.group g := State.group_congr kept.groups g
  have bytes (x : State) (hm : x.mem = u.mem) (a : Nat) : x.byte a = s.byte a :=
    State.byte_congr (hm.trans (by rw [served])) a
  obtain ⟨went, bad⟩ := Group.walked_of_wait (page := page) hw
  have ended := exec_pageWalk_served hw hp tried
  rw [walked] at ended
  generalize s.walk (s.group g).ctx (24576 * page) = found at ended
  cases found with
  | ok e =>
    have taken : (((u.countMiss g).takeTlb (coreOf g) e).core (coreOf g)) = _ := State.core_setCore_self ..
    refine ⟨_, ended, bytes _ rfl, (congrArg (fun x : Core => x.events.tlbMisses) taken).trans counted, ?_, nofun, nofun⟩
    rintro e' ⟨⟩
    constructor
    · show e ∈ (((u.countMiss g).takeTlb (coreOf g) e).core (coreOf g)).tlb
      rw [taken]
      exact List.mem_cons_self
    · refine Eq.trans ?_ went
      rw [← group]
      exact State.group_setGroup_self ..
  | absent =>
    refine ⟨_, ended, bytes _ rfl, counted, nofun, fun _ => Eq.trans ?_ (bad 1), nofun⟩
    rw [← group]
    exact State.group_setGroup_self ..
  | malformed =>
    refine ⟨_, ended, bytes _ rfl, counted, nofun, nofun, fun _ => Eq.trans ?_ (bad 2)⟩
    rw [← group]
    exact State.group_setGroup_self ..

end

end Sys2Proof.Claim
end

section
/-! SUPPORT. The answer to a fault record at the one group that waits for it (R290, R291). -/

namespace Sys2Proof.Machine

variable {s t u : State}

/-- Group j waits for no answer to record seq. -/
def State.Unasked (s : State) (seq j : Nat) : Prop :=
  ∀ recs va lanes, (s.group j).wait = .records recs va lanes → (seq, none) ∉ recs

theorem State.answerGroup_unasked {seq j : Nat} (h : s.Unasked seq j) (resp : Nat) : s.answerGroup j seq resp = some s := by
  unfold State.answerGroup
  dsimp only
  split
  · next recs va lanes hw => exact if_pos (by simpa using h recs va lanes hw)
  · rfl

/-- Groups that wait for no answer leave the state. -/
theorem State.foldl_answerGroup_unasked {seq resp : Nat} {ids : List Nat} (h : ∀ j ∈ ids, s.Unasked seq j) :
    ids.foldl (fun o k => o.bind fun s => s.answerGroup k seq resp) (some s) = some s := by
  induction ids with
  | nil => rfl
  | cons j ids ih =>
    rw [List.foldl_cons, Option.bind_some, State.answerGroup_unasked (h j List.mem_cons_self)]
    exact ih fun i hi => h i (List.mem_cons_of_mem _ hi)

/-- Among groups of which one alone waits for an answer, the answer reaches that one. -/
theorem State.foldl_answerGroup {seq resp k : Nat} {ids : List Nat} (hk : k ∈ ids) (nodup : ids.Nodup)
    (other : ∀ j ∈ ids, j ≠ k → s.Unasked seq j) (hu : s.answerGroup k seq resp = some u)
    (kept : ∀ j, j ≠ k → u.group j = s.group j) :
    ids.foldl (fun o k => o.bind fun s => s.answerGroup k seq resp) (some s) = some u := by
  obtain ⟨before, after, rfl⟩ := List.append_of_mem hk
  rw [List.nodup_append] at nodup
  obtain ⟨-, nodup, apart⟩ := nodup
  rw [List.foldl_append, State.foldl_answerGroup_unasked, List.foldl_cons, Option.bind_some, hu,
    State.foldl_answerGroup_unasked]
  · intro j hj
    have ne : j ≠ k := fun e => (List.nodup_cons.1 nodup).1 (e ▸ hj)
    unfold State.Unasked
    rw [kept j ne]
    exact other j (by simp [hj]) ne
  · exact fun j hj => other j (by simp [hj]) (apart j hj k List.mem_cons_self)

/-- The group that a sorted map holds. -/
theorem State.group_of_mem (sorted : s.groups.sorted = true) {p : Nat × Group} (hp : p ∈ s.groups) : s.group p.1 = p.2 := by
  unfold State.group
  rw [AMap.get_eq_find?, AMap.find?_of_mem _ sorted _ _ hp]
  rfl

/-! ### The answer at the group -/

/-- The answer 1, retry. -/
theorem State.answerGroup_retry {k seq va : Nat} {lanes : LaneMask} (hw : (s.group k).wait = .records [(seq, none)] va lanes) :
    s.answerGroup k seq 1 = some ((s.acquireL1 (coreOf k) 4).modGroup k fun g => { g with wait := .none }) := by
  unfold State.answerGroup
  simp [hw, noteAnswer, strongest]

/-- The answer 2, deliver. -/
theorem State.answerGroup_deliver {k seq va : Nat} {lanes : LaneMask}
    (hw : (s.group k).wait = .records [(seq, none)] va lanes) (quiet : (s.group k).quiet = true) :
    s.answerGroup k seq 2 = some ((s.acquireL1 (coreOf k) 4).vector k ⟨0x09, va, lanes, 0⟩ (s.group k).pc (s.group k).word
      (s.group k).site) := by
  unfold State.answerGroup
  simp [hw, noteAnswer, strongest, quiet]

/-- FAULT_RECORD_ANSWER of a kind-1 record for which one group alone waits. -/
theorem exec_faultRecordAnswer {ctx seq k entry va0 resp : Nat}
    (hrec : (s.context ctx).records.find? seq = some (entry, va0)) (kind : s.peekNat entry 4 = 1)
    (hresp : s.peekNat (entry + 0x30) 4 = resp) (low : resp ≠ 0) (high : resp ≤ 3)
    (woken : entry + 0x30 ∈ (s.context ctx).woken) (here : ∃ p ∈ s.groups, p.1 = k) (resident : (s.group k).resident = true)
    (hctx : (s.group k).ctx = ctx) (sorted : s.groups.sorted = true)
    (other : ∀ p ∈ s.groups, p.1 ≠ k → ∀ rs v m, p.2.wait = .records rs v m → (seq, none) ∉ rs)
    (cmds : ∀ p ∈ s.cmds, p.2.waitsFor ctx seq = false) (grids : ∀ p ∈ s.grids, ∀ h ∈ p.2.holds, h.seq ≠ seq)
    (hu : s.answerGroup k seq resp = some u) (kept : ∀ j, j ≠ k → u.group j = s.group j) :
    exec (.faultRecordAnswer ctx seq) s = .next (u.modCtx ctx fun c =>
      { c with records := c.records.erase seq, woken := c.woken.filter (· != entry + 0x30) }) := by
  have noCmds : s.cmds.filter (fun p => p.2.waitsFor ctx seq) = [] := by
    rw [List.filter_eq_nil_iff]
    intro p hp
    rw [cmds p hp]
    exact Bool.false_ne_true
  have noGrids : s.grids.filter (fun p => p.2.ctx == ctx && p.2.holds.any fun h => h.seq == seq) = [] := by
    rw [List.filter_eq_nil_iff]
    intro p hp
    have none_ : (p.2.holds.any fun h => h.seq == seq) = false := by
      rw [List.any_eq_false]
      exact fun h hh => by simpa using grids p hp h hh
    rw [none_, Bool.and_false]
    exact Bool.false_ne_true
  have answered : ((s.groups.filter fun p => p.2.resident && p.2.ctx == ctx).map (·.1)).foldl
      (fun o k => o.bind fun s => s.answerGroup k seq resp) (some s) = some u := by
    refine State.foldl_answerGroup ?_ ?_ ?_ hu kept
    · obtain ⟨p, hp, rfl⟩ := here
      rw [State.group_of_mem sorted hp] at resident hctx
      exact List.mem_map.2 ⟨p, List.mem_filter.2 ⟨hp, by simp [resident, hctx]⟩, rfl⟩
    · exact List.Nodup.sublist (List.filter_sublist.map _) (List.pairwise_map.2 (((AMap.sorted_iff _).1 sorted).imp ne_of_lt))
    · intro j hj ne
      obtain ⟨p, hp, rfl⟩ := List.mem_map.1 hj
      have mem := (List.mem_filter.1 hp).1
      intro rs v m hw
      rw [State.group_of_mem sorted mem] at hw
      exact other p mem ne rs v m hw
  have store : (s.peekNat entry 4 == 2) = false := by rw [kind]; rfl
  have guard : (resp = 0 || 3 < resp || !(s.context ctx).woken.contains (entry + 0x30)) = false := by
    simp [low, high, woken]
  have hans (page : Nat) : s.answer ctx seq page resp false = some u := by
    unfold State.answer
    simp only [answered, noCmds, noGrids]
    rfl
  show execFaultRecordAnswer ctx seq s = _
  unfold execFaultRecordAnswer
  simp only [hrec, hresp, guard, store, hans]
  rfl

end Sys2Proof.Machine
end

section
/-! SUPPORT. The answers to records and the translation requests of O47 (R189, R190, R290, R291, R330): each outcome as the claim
states it. -/

namespace Sys2Proof.Claim

open Machine

variable {s u : State}

/-! ### Answers -/

/-- A context without a record that has been answered. -/
def answered (seq key : Nat) (c : Context) : Context :=
  { c with records := c.records.erase seq, woken := c.woken.filter (· != key) }

theorem records_answered (u : State) (ctx seq key : Nat) :
    ((u.modCtx ctx (answered seq key)).context ctx).records.find? seq = none := by
  rw [State.context_modCtx, if_pos rfl]
  cases AMap.find? u.contexts ctx with
  | none => rfl
  | some c => exact AMap.find?_erase_self _ _

section

variable {ctx seq k entry va0 va : Nat} {lanes : LaneMask}
  (hrec : (s.context ctx).records.find? seq = some (entry, va0)) (kind : s.peekNat entry 4 = 1)
  (woken : entry + 0x30 ∈ (s.context ctx).woken) (here : ∃ p ∈ s.groups, p.1 = k) (resident : (s.group k).resident = true)
  (hctx : (s.group k).ctx = ctx) (hw : (s.group k).wait = .records [(seq, none)] va lanes) (sorted : s.groups.sorted = true)
  (other : ∀ p ∈ s.groups, p.1 ≠ k → ∀ rs v m, p.2.wait = .records rs v m → (seq, none) ∉ rs)
  (cmds : ∀ p ∈ s.cmds, p.2.waitsFor ctx seq = false) (grids : ∀ p ∈ s.grids, ∀ h ∈ p.2.holds, h.seq ≠ seq)
include hrec kind woken here resident hctx hw sorted other cmds grids

/-- The answer 1 frees the group to try again. -/
theorem recordAnswer_retry (hresp : s.peekNat (entry + 0x30) 4 = 1) :
    ∃ t, exec (.faultRecordAnswer ctx seq) s = .next t ∧ (t.context ctx).records.find? seq = none ∧
      t.group k = { s.group k with wait := .none } ∧ ∀ a, t.byte a = s.byte a := by
  have acquired : CoresOnly s (s.acquireL1 (coreOf k) 4) := rfl
  refine ⟨_, exec_faultRecordAnswer hrec kind hresp (by omega) (by omega) woken here resident hctx sorted other cmds grids
    (State.answerGroup_retry hw) fun j ne => ?_, records_answered _ ctx seq _, ?_, fun a => rfl⟩
  · exact (State.group_setGroup_ne _ _ _ _ ne).trans (acquired.group j)
  · exact State.group_setGroup_self ..

/-- The answer 2 delivers the page fault. -/
theorem recordAnswer_deliver (hresp : s.peekNat (entry + 0x30) 4 = 2) (quiet : (s.group k).quiet = true)
    (mode : (s.group k).trapMode = false) :
    ∃ t, exec (.faultRecordAnswer ctx seq) s = .next t ∧ (t.context ctx).records.find? seq = none ∧
      (t.group k).trapMode = true ∧ (t.group k).trap.cause = 0x09 ∧ (t.group k).trap.mask = lanes ∧
      (t.group k).trap.val.toNat = va % 2 ^ 64 ∧ (t.group k).trap.pc = (s.group k).pc ∧
      (t.group k).pc.toNat = ((s.context ctx).tbase.toNat + 64 * 9) % 2 ^ 56 ∧ ∀ a, t.byte a = s.byte a := by
  have acquired : CoresOnly s (s.acquireL1 (coreOf k) 4) := rfl
  have mode' : ((s.acquireL1 (coreOf k) 4).group k).trapMode = false := (congrArg Group.trapMode (acquired.group k)).trans mode
  have other' {j : Nat} (ne : j ≠ k) :=
    group_vector_ne _ k ⟨0x09, va, lanes, 0⟩ (s.group k).pc (s.group k).word (s.group k).site mode' ne
  have mem := mem_vector _ k ⟨0x09, va, lanes, 0⟩ (s.group k).pc (s.group k).word (s.group k).site mode'
  have entered := group_vector _ k ⟨0x09, va, lanes, 0⟩ (s.group k).pc (s.group k).word (s.group k).site mode'
  rw [acquired.group, acquired.context, hctx, Group.demoted_eq] at entered
  refine ⟨_, exec_faultRecordAnswer hrec kind hresp (by omega) (by omega) woken here resident hctx sorted other cmds grids
    (State.answerGroup_deliver hw quiet) (fun j ne => (other' ne).trans (acquired.group j)), records_answered _ ctx seq _, ?_⟩
  rw [State.group_modCtx, entered]
  exact ⟨rfl, rfl, rfl, BitVec.toNat_ofNat .., rfl, toNat_handler _ _, State.byte_congr mem⟩

end

end Sys2Proof.Claim
end

section
/-! SUPPORT. Translation requests (R189, R192): what an invalidation drops and clears, and how a request begins and ends. -/

namespace Sys2Proof.Machine

variable {s t u : State} {ctx : Nat}

/-! ### What an invalidation drops -/

/-- The failed walks of a group that an invalidation drops with the entries of its context. -/
def Group.unwalked (g : Group) (ctx va n : Nat) : Group :=
  if g.ctx = ctx then { g with badPages := g.badPages.filter fun p => !overlap (24576 * p.1) 24576 va n } else g

/-- A group whose base registers into a range are cleared with those of its context. -/
def Group.unbased (g : Group) (ctx va n : Nat) : Group := if g.ctx = ctx then g.clearBases va n else g

theorem Group.unwalked_b (g : Group) (ctx va n : Nat) : (g.unwalked ctx va n).b = g.b :=
  ite_holds (P := fun x : Group => x.b = g.b) rfl rfl

theorem Group.unwalked_ctx (g : Group) (ctx va n : Nat) : (g.unwalked ctx va n).ctx = g.ctx :=
  ite_holds (P := fun x : Group => x.ctx = g.ctx) rfl rfl

theorem Group.unbased_badPages (g : Group) (ctx va n : Nat) : (g.unbased ctx va n).badPages = g.badPages :=
  ite_holds (P := fun x : Group => x.badPages = g.badPages) rfl rfl

theorem Group.clearBases_congr {g h : Group} (e : g.b = h.b) (va n : Nat) : (g.clearBases va n).b = (h.clearBases va n).b := by
  unfold Group.clearBases
  rw [e]

/-- The base registers that are left of a group. -/
theorem Group.unbased_b (g : Group) (ctx va n : Nat) :
    (g.unbased ctx va n).b = if g.ctx = ctx then (g.clearBases va n).b else g.b := by
  unfold Group.unbased
  split <;> rfl

theorem Group.unwalked_empty (ctx va n : Nat) : ({} : Group).unwalked ctx va n = {} := by
  unfold Group.unwalked
  split <;> rfl

theorem Group.unbased_empty (ctx va n : Nat) : ({} : Group).unbased ctx va n = {} := by
  unfold Group.unbased
  split <;> rfl

/-- A core without the TLB entries that an invalidation drops. -/
def Core.untranslated (x : Core) (ctx va n : Nat) : Core := { x with tlb := x.tlb.filter fun e => !e.meets ctx va n }

/-- A cluster without the entries for its code that an invalidation drops. -/
def Cluster.untranslated (x : Cluster) (ctx va n : Nat) : Cluster :=
  { x with itlb := x.itlb.filter fun e => !e.meets ctx va n }

theorem State.group_dropTlbs (s : State) (ctx va n k : Nat) : (s.dropTlbs ctx va n).group k = (s.group k).unwalked ctx va n :=
  AMap.get_mapVals ({} : Group) s.groups (fun _ g => g.unwalked ctx va n) k (Group.unwalked_empty ctx va n)

theorem State.group_clearBases (s : State) (ctx va n k : Nat) : (s.clearBases ctx va n).group k = (s.group k).unbased ctx va n :=
  AMap.get_mapVals ({} : Group) s.groups (fun _ g => g.unbased ctx va n) k (Group.unbased_empty ctx va n)

theorem State.core_dropTlbs (s : State) (ctx va n c : Nat) : (s.dropTlbs ctx va n).core c = (s.core c).untranslated ctx va n :=
  AMap.get_mapVals ({} : Core) s.cores (fun _ x => x.untranslated ctx va n) c rfl

theorem State.cluster_dropTlbs (s : State) (ctx va n c : Nat) :
    (s.dropTlbs ctx va n).cluster c = (s.cluster c).untranslated ctx va n :=
  AMap.get_mapVals ({} : Cluster) s.clusters (fun _ x => x.untranslated ctx va n) c rfl

theorem State.present_clearBases (s : State) (ctx va n c : Nat) :
    ((s.clearBases ctx va n).contexts.find? c).isSome = (s.contexts.find? c).isSome :=
  s.present_modCtx ctx c fun c =>
    { c with saved := c.saved.map fun t => { t with groups := t.groups.map fun p => (p.1, p.2.clearBases va n) } }

/-- A request is noted with its context. -/
theorem State.xlateOp_modCtx (h : (s.contexts.find? ctx).isSome = true) (o : Option XlateOp) :
    ((s.modCtx ctx fun c => { c with xlateOp := o }).context ctx).xlateOp = o := by
  obtain ⟨c, hc⟩ := Option.isSome_iff_exists.1 h
  rw [State.context_modCtx, if_pos rfl, hc]
  rfl

/-! ### A request begins -/

theorem State.present_of_nextXlate {r : XlateReq} (h : s.nextXlate ctx = some r) : (s.contexts.find? ctx).isSome = true := by
  unfold State.nextXlate at h
  split at h
  · cases h
  · next c hc => rw [hc]; rfl

theorem State.takeXlate_homeKept (s : State) (ctx : Nat) : HomeKept s (s.takeXlate ctx) := s.homeWord_homeKept _ _

section

variable {r : XlateReq} (hr : s.nextXlate ctx = some r)
include hr

theorem exec_translationRequestFail_malformed (hi : r.invalidates = false) (hc : r.compacts = false) :
    exec (.translationRequestFail ctx) s = .next ((s.takeXlate ctx).xlateStatus ctx r.done 2) := by
  show execTranslationRequestFail ctx s = _
  unfold execTranslationRequestFail
  simp only [hr, hi, hc]
  rfl

theorem exec_translationRequestFail_compaction (hi : r.invalidates = false) (hc : r.compacts = true)
    (hn : s.compactable ctx r.va = none) :
    exec (.translationRequestFail ctx) s = .next ((s.takeXlate ctx).xlateStatus ctx r.done 3) := by
  show execTranslationRequestFail ctx s = _
  unfold execTranslationRequestFail
  simp only [hr, hi, hc, hn]
  rfl

theorem exec_invalidateRange (hi : r.invalidates = true) :
    exec (.invalidateRange ctx) s = .next
      ((((s.takeXlate ctx).dropTlbs ctx r.va (24576 * r.len)).clearBases ctx r.va (24576 * r.len)).modCtx ctx fun c =>
        { c with
          xlateOp := some
            { compact := false, va := r.va, bytes := 24576 * r.len, frame := 0, done := r.done
              waitFor := s.oldAccesses ctx r.va (24576 * r.len), waitPeers := s.oldSends ctx r.va (24576 * r.len) } }) := by
  show execInvalidateRange ctx s = _
  unfold execInvalidateRange
  simp only [hr, hi]
  rfl

theorem exec_compact (hc : r.compacts = true) (hs : (s.compactable ctx r.va).isSome = true) :
    exec (.compact ctx) s = .next
      (((s.takeXlate ctx).clearBases ctx r.va (256 * 24576)).modCtx ctx fun c =>
        { c with
          xlateOp := some { compact := true, va := r.va, bytes := 256 * 24576, frame := r.len, done := r.done } }) := by
  have present : (s.compactable ctx r.va).isNone = false := by rw [Option.isNone_eq_false_iff, hs]
  show execCompact ctx s = _
  unfold execCompact
  simp only [hr, hc, present]
  rfl

end

/-! ### A request ends -/

theorem State.oldDone_of {o : XlateOp} (hw : ∀ p ∈ o.waitFor, ∀ a ∈ (s.group p.1).accesses, a.id ≠ p.2)
    (hp : ∀ p ∈ o.waitPeers, ∀ q ∈ s.peerSends, ¬(q.dev = p.1 ∧ q.seq = p.2)) : s.oldDone o = true := by
  unfold State.oldDone
  rw [Bool.and_eq_true, List.all_eq_true, List.all_eq_true]
  constructor
  · intro p h
    rw [Bool.not_eq_true', List.any_eq_false]
    exact fun a ha => by simpa using hw p h a ha
  · intro p h
    rw [Bool.not_eq_true', List.any_eq_false]
    exact fun q hq => by simpa using hp p h q hq

theorem exec_invalidateRangeDone {o : XlateOp} (ho : (s.context ctx).xlateOp = some o) (hc : o.compact = false)
    (hd : s.oldDone o = true) :
    exec (.invalidateRangeDone ctx) s =
      .next ((s.xlateStatus ctx o.done 1).modCtx ctx fun c => { c with xlateOp := none }) := by
  show execInvalidateRangeDone ctx s = _
  unfold execInvalidateRangeDone
  simp only [ho, hc, hd]
  rfl

/-! ### Held records -/

theorem exec_faultRecordRelease {ws : List Word} {rest : List (List Word)} (h : (s.context ctx).heldFaults = ws :: rest)
    (room : s.queueRoom (s.context ctx).faultq = true) :
    exec (.faultRecordRelease ctx) s =
      .next ((s.modCtx ctx fun c => { c with heldFaults := rest }).pushFault ctx ws) := by
  show execFaultRecordRelease ctx s = _
  unfold execFaultRecordRelease
  simp only [h, room]
  rfl

theorem exec_eventRecordRelease {ws : List Word} {rest : List (List Word)} (h : (s.context ctx).heldEvents = ws :: rest)
    (room : s.queueRoom (s.context ctx).eventq = true) :
    exec (.eventRecordRelease ctx) s =
      .next ((s.modCtx ctx fun c => { c with heldEvents := rest }).pushRecord ctx 1 (s.context ctx).eventq ws) := by
  show execEventRecordRelease ctx s = _
  unfold execEventRecordRelease
  simp only [h, room]
  rfl

end Sys2Proof.Machine
end

section
/-! SUPPORT. The beginnings of the translation requests of O47 as the claim states them (R189, R192). -/

namespace Sys2Proof.Claim

open Machine

variable {s : State} {ctx : Nat} {r : XlateReq}

/-- An invalidation drops its range from TLBs, base registers and failed walks, and notes what it waits for. -/
theorem invalidateRange_begins (hr : s.nextXlate ctx = some r) (kind : r.kind = 1) (aligned : r.va % 24576 = 0)
    (low : r.va < 2 ^ 56) (some_ : r.len ≠ 0) :
    let n := 24576 * r.len
    ∃ t, exec (.invalidateRange ctx) s = .next t ∧
      (∀ c, (t.core c).tlb = (s.core c).tlb.filter fun e => !e.meets ctx r.va n) ∧
      (∀ c, (t.cluster c).itlb = (s.cluster c).itlb.filter fun e => !e.meets ctx r.va n) ∧
      (∀ k, (t.group k).b = if (s.group k).ctx = ctx then ((s.group k).clearBases r.va n).b else (s.group k).b) ∧
      (∀ k, (s.group k).ctx = ctx →
        (t.group k).badPages = (s.group k).badPages.filter fun p => !overlap (24576 * p.1) 24576 r.va n) ∧
      (t.context ctx).xlateOp = some
        { compact := false, va := r.va, bytes := n, frame := 0, done := r.done
          waitFor := s.oldAccesses ctx r.va n, waitPeers := s.oldSends ctx r.va n } := by
  intro n
  have invalidates : r.invalidates = true := by
    unfold XlateReq.invalidates
    simpa [kind, aligned, some_] using low
  have taken := s.takeXlate_homeKept ctx
  let u := ((s.takeXlate ctx).dropTlbs ctx r.va n).clearBases ctx r.va n
  have group (k : Nat) : u.group k = ((s.group k).unwalked ctx r.va n).unbased ctx r.va n := by
    rw [State.group_clearBases, State.group_dropTlbs, State.group_congr taken.groups]
  have present : (u.contexts.find? ctx).isSome = true :=
    (State.present_clearBases ..).trans ((taken.present ctx).trans (State.present_of_nextXlate hr))
  refine ⟨_, exec_invalidateRange hr invalidates, fun c => ?_, fun c => ?_, fun k => ?_, fun k hk => ?_,
    State.xlateOp_modCtx present _⟩
  · rw [← taken.tlb c]
    exact congrArg Core.tlb (State.core_dropTlbs ..)
  · have cluster : (s.takeXlate ctx).cluster c = s.cluster c := by
      unfold State.cluster
      rw [taken.clusters]
    rw [← cluster]
    exact congrArg Cluster.itlb (State.cluster_dropTlbs ..)
  · refine (congrArg Group.b (group k)).trans ?_
    rw [Group.unbased_b, Group.unwalked_ctx, Group.clearBases_congr (Group.unwalked_b _ _ _ _), Group.unwalked_b]
  · refine (congrArg Group.badPages (group k)).trans ((Group.unbased_badPages _ _ _ _).trans ?_)
    unfold Group.unwalked
    rw [if_pos hk]

/-- A compaction begins by clearing the base registers into its region. -/
theorem compact_begins (hr : s.nextXlate ctx = some r) (kind : r.kind = 2) (aligned : r.va % (256 * 24576) = 0)
    (low : r.va < 2 ^ 56) (frame : r.len % 256 = 0) (local_ : r.len < Config.frames)
    (may : (s.compactable ctx r.va).isSome = true) :
    ∃ t, exec (.compact ctx) s = .next t ∧
      (∀ k, (t.group k).b =
        if (s.group k).ctx = ctx then ((s.group k).clearBases r.va (256 * 24576)).b else (s.group k).b) ∧
      (∀ c, (t.core c).tlb = (s.core c).tlb) ∧
      (t.context ctx).xlateOp = some { compact := true, va := r.va, bytes := 256 * 24576, frame := r.len, done := r.done } := by
  have compacts : r.compacts = true := by
    unfold XlateReq.compacts
    simpa [kind, aligned, frame, local_] using low
  have taken := s.takeXlate_homeKept ctx
  have present : (((s.takeXlate ctx).clearBases ctx r.va (256 * 24576)).contexts.find? ctx).isSome = true :=
    (State.present_clearBases ..).trans ((taken.present ctx).trans (State.present_of_nextXlate hr))
  refine ⟨_, exec_compact hr compacts may, fun k => ?_, taken.tlb, State.xlateOp_modCtx present _⟩
  refine (congrArg Group.b ((State.group_clearBases ..).trans
    (congrArg (fun g : Group => g.unbased ctx r.va (256 * 24576)) (State.group_congr taken.groups k)))).trans ?_
  exact Group.unbased_b _ _ _ _

end Sys2Proof.Claim
end

section
/-! SUPPORT. What a compaction copies: the bytes of frames moved to new frames (R192, step 3). -/

namespace Sys2Proof.Machine

variable {s t u : State}

/-- Reading a map of which the entries at some numbers are left. -/
theorem AMap.get_filter_key {α : Type} (d : α) (m : AMap α) (q : Nat → Bool) (a : Nat) :
    AMap.get d (m.filter fun p => q p.1) a = if q a then m.get d a else d := by
  induction m with
  | nil => exact (ite_self d).symm
  | cons p m ih =>
    have cons (m : AMap α) : AMap.get d (p :: m) a = if p.1 = a then p.2 else m.get d a := rfl
    by_cases hq : q p.1 = true
    · rw [List.filter_cons_of_pos (p := fun p : Nat × α => q p.1) hq, cons, cons, ih]
      by_cases e : p.1 = a
      · subst e
        rw [if_pos rfl, if_pos rfl, if_pos hq]
      · rw [if_neg e, if_neg e]
    · rw [List.filter_cons_of_neg (p := fun p : Nat × α => q p.1) hq, ih, cons]
      by_cases e : p.1 = a
      · subst e
        rw [if_neg hq, if_neg hq]
      · rw [if_neg e]

/-- A number that a map does not list reads as the default. -/
theorem AMap.get_of_not_mem {α : Type} (d : α) (m : AMap α) {a : Nat} (h : ∀ p ∈ m, p.1 ≠ a) : m.get d a = d := by
  induction m with
  | nil => rfl
  | cons p m ih =>
    unfold AMap.get
    rw [if_neg (h p List.mem_cons_self)]
    exact ih fun q hq => h q (List.mem_cons_of_mem _ hq)

theorem AMap.get_of_mem {α : Type} (d : α) {m : AMap α} (sorted : m.sorted = true) {p : Nat × α} (h : p ∈ m) :
    m.get d p.1 = p.2 := by
  rw [AMap.get_eq_find?, AMap.find?_of_mem _ sorted _ _ h]
  rfl

/-- Where the bytes of a frame go. -/
theorem mem_compactKeys {frames : List Nat} {f k a : Nat} (h : frames.length = 256) :
    a ∈ compactKeys frames f k ↔ ∃ i, i < 256 ∧ frames.getD i 0 = k / 24576 ∧ a = (f + i) * 24576 + k % 24576 := by
  unfold compactKeys
  simp only [List.mem_map, List.mem_filter, beq_iff_eq]
  constructor
  · rintro ⟨⟨x, i⟩, ⟨hz, hx⟩, rfl⟩
    obtain ⟨n, hn⟩ := List.mem_iff_getElem?.1 hz
    obtain ⟨hfn, hrn⟩ := List.getElem?_zip_eq_some.1 hn
    obtain ⟨hlt, hrn⟩ := List.getElem?_eq_some_iff.1 hrn
    rw [List.getElem_range] at hrn
    subst hrn
    exact ⟨n, by simpa using hlt, by rw [List.getD_eq_getElem?_getD, hfn]; exact hx, rfl⟩
  · rintro ⟨i, hi, hx, rfl⟩
    refine ⟨(k / 24576, i), ⟨List.mem_iff_getElem?.2 ⟨i, List.getElem?_zip_eq_some.2 ⟨?_, ?_⟩⟩, rfl⟩, rfl⟩
    · rw [← hx, List.getD_eq_getElem?_getD, List.getElem?_eq_getElem (by omega)]
      rfl
    · rw [List.getElem?_eq_getElem (by simpa using hi), List.getElem_range]

/-- The cells that a compaction writes. -/
def compactCells (frames : List Nat) (f : Nat) (m : AMap Byte) : AMap Byte :=
  m.flatMap fun p => (compactKeys frames f p.1).map fun k => (k, p.2)

theorem mem_compactCells {frames : List Nat} {f : Nat} {m : AMap Byte} {x : Nat × Byte} (h : frames.length = 256) :
    x ∈ compactCells frames f m ↔
      ∃ p ∈ m, x.2 = p.2 ∧ ∃ i, i < 256 ∧ frames.getD i 0 = p.1 / 24576 ∧ x.1 = (f + i) * 24576 + p.1 % 24576 := by
  unfold compactCells
  rw [List.mem_flatMap]
  constructor
  · rintro ⟨p, hp, hx⟩
    obtain ⟨k, hk, rfl⟩ := List.mem_map.1 hx
    exact ⟨p, hp, rfl, (mem_compactKeys h).1 hk⟩
  · rintro ⟨p, hp, hv, hk⟩
    exact ⟨p, hp, List.mem_map.2 ⟨x.1, (mem_compactKeys h).2 hk, by rw [← hv]⟩⟩

/-- A byte of the state after a copy, by the cells written over what is left outside the new frames. -/
theorem State.byte_copyFrames (s : State) (frames : List Nat) (f a : Nat) :
    (s.copyFrames frames f).byte a =
      ((compactCells frames f s.mem).foldl (fun (m : AMap Byte) (p : Nat × Byte) => m.set 0 p.1 p.2)
        (s.mem.filter fun p : Nat × Byte => !(f ≤ p.1 / 24576 && p.1 / 24576 < f + 256))).get 0 a := rfl

/-- A copied byte is that of the old frame (R192). -/
theorem State.byte_copyFrames_inside {frames : List Nat} (wf : Memory.wf s.mem = true) (h : frames.length = 256) (f : Nat)
    {i j : Nat} (hi : i < 256) (hj : j < 24576) :
    (s.copyFrames frames f).byte ((f + i) * 24576 + j) = s.byte (frames.getD i 0 * 24576 + j) := by
  have sorted : s.mem.sorted = true := ((Memory.wf_iff _).1 wf).1
  rw [State.byte_copyFrames]
  have from_ {x : Nat × Byte} (hx : x ∈ compactCells frames f s.mem)
      (hk : x.1 = (f + i) * 24576 + j) : (frames.getD i 0 * 24576 + j, x.2) ∈ s.mem := by
    obtain ⟨p, hp, hv, n, hn, hf, hk'⟩ := (mem_compactCells h).1 hx
    obtain rfl : n = i := by omega
    have : p.1 = frames.getD n 0 * 24576 + j := by omega
    rw [← this, hv]
    exact hp
  by_cases listed : ∃ p ∈ s.mem, p.1 = frames.getD i 0 * 24576 + j
  · obtain ⟨p, hp, hk⟩ := listed
    refine AMap.get_foldl_set_of_eq (p := fun _ => true) (k := fun x : Nat × Byte => x.1) (v := fun x => x.2) _
      (w := s.byte (frames.getD i 0 * 24576 + j)) (fun x hx _ hk => (AMap.get_of_mem 0 sorted (from_ hx hk)).symm)
      ⟨((f + i) * 24576 + j, p.2), ?_, rfl, rfl⟩
    exact (mem_compactCells h).2 ⟨p, hp, rfl, i, hi, by omega, by omega⟩
  · have none_ : s.byte (frames.getD i 0 * 24576 + j) = 0 := AMap.get_of_not_mem 0 _ fun p hp e => listed ⟨p, hp, e⟩
    rw [none_]
    refine (AMap.get_foldl_set_of_ne (p := fun _ => true) (k := fun x : Nat × Byte => x.1) (v := fun x => x.2) _
      fun x hx _ hk => listed ⟨_, from_ hx hk, rfl⟩).trans ?_
    refine (AMap.get_filter_key 0 s.mem (fun k => !(f ≤ k / 24576 && k / 24576 < f + 256)) _).trans (if_neg ?_)
    have lo : f ≤ ((f + i) * 24576 + j) / 24576 := by omega
    have hi' : ((f + i) * 24576 + j) / 24576 < f + 256 := by omega
    simp [lo, hi']

/-- A byte outside the new frames stays. -/
theorem State.byte_copyFrames_outside {frames : List Nat} (h : frames.length = 256) {f a : Nat}
    (ha : a < f * 24576 ∨ (f + 256) * 24576 ≤ a) : (s.copyFrames frames f).byte a = s.byte a := by
  rw [State.byte_copyFrames]
  refine (AMap.get_foldl_set_of_ne (p := fun _ => true) (k := fun x : Nat × Byte => x.1) (v := fun x => x.2) _
    fun x hx _ hk => ?_).trans ?_
  · obtain ⟨p, -, -, i, hi, -, hk'⟩ := (mem_compactCells h).1 hx
    omega
  · refine (AMap.get_filter_key 0 s.mem (fun k => !(f ≤ k / 24576 && k / 24576 < f + 256)) _).trans (if_pos ?_)
    simp
    omega

/-! ### Frames that nothing pins -/

/-- Frames of which no line is pinned need no recall. -/
theorem State.recallFrames_of_unpinned {fs : List Nat} (h : ∀ p ∈ s.pins, 192 * p.1 / 24576 ∉ fs) : s.recallFrames fs = s := by
  have none_ : s.pins.filter (fun p => fs.contains (192 * p.1 / 24576)) = [] := by
    rw [List.filter_eq_nil_iff]
    exact fun p hp => by simpa using h p hp
  unfold State.recallFrames
  rw [none_]
  rfl

end Sys2Proof.Machine
end

section
/-! SUPPORT. How a compaction ends (R192), and the DONE word of a request (R190). -/

namespace Sys2Proof.Machine

variable {s t u : State} {ctx : Nat}

/-! ### Bytes written at their home -/

theorem State.bytes_homeWrite (s : State) (by_ : Option Nat) (k : Nat) (bs : List Byte) :
    (s.homeWrite by_ k bs).bytes k bs.length = bs := by
  refine List.ext_getElem (by simp [State.bytes]) fun i h₁ h₂ => ?_
  simp only [State.bytes, List.getElem_map, List.getElem_range]
  unfold State.byte
  rw [State.mem_homeWrite, get_putBytes_inside _ _ _ _ h₂]
  simp [h₂]

theorem State.byte_writeBack_ne (s : State) (c line : Nat) (rec_ : BitVec 3) {a : Nat} (h : a / 192 ≠ line) :
    (s.writeBack c line rec_).byte a = s.byte a := by
  unfold State.writeBack
  cases hl : s.l1 c line with
  | none =>
    unfold State.writeSectors
    rw [hl]
  | some l =>
    rw [State.byte_writeSectors hl]
    exact if_neg fun e => h e.1

theorem State.byte_recallLine_ne (s : State) {line a : Nat} (h : a / 192 ≠ line) : (s.recallLine line).byte a = s.byte a := by
  have holders (l : List Nat) (s : State) : (l.foldl (fun s c => (s.writeBack c line 1).countEvent c fun e =>
      { e with recalls := e.recalls + 1 }) s).byte a = s.byte a := by
    induction l generalizing s with
    | nil => rfl
    | cons c l ih => exact (ih _).trans (s.byte_writeBack_ne c line 1 h)
  unfold State.recallLine
  split
  · rfl
  · exact holders _ s

/-- A recall for some bytes writes only to their lines. -/
theorem State.byte_recallRange_ne (s : State) {k n a : Nat} (h : a / 192 ∉ linesOf k n) :
    (s.recallRange k n).byte a = s.byte a := by
  unfold State.recallRange
  generalize linesOf k n = ls at h
  induction ls generalizing s with
  | nil => rfl
  | cons line ls ih =>
    rw [List.foldl_cons, ih _ fun e => h (List.mem_cons_of_mem _ e)]
    exact ite_holds (P := fun u : State => u.byte a = s.byte a)
      (s.byte_recallLine_ne fun e => h (e ▸ List.mem_cons_self)) rfl

/-- The 8 bytes of an aligned entry lie in one line. -/
theorem linesOf_entry {k : Nat} (h : k % 8 = 0) : linesOf k 8 = [k / 192] := by
  unfold linesOf
  rw [show (k + 8 + 191) / 192 - k / 192 = 1 by omega]
  rfl

/-- An aligned entry that is written leaves every other line. -/
theorem State.byte_homeWrite_entry (s : State) {k a : Nat} {bs : List Byte} (aligned : k % 8 = 0) (len : bs.length = 8)
    (h : a / 192 ≠ k / 192) : (s.homeWrite none k bs).byte a = s.byte a := by
  rw [State.byte, State.mem_homeWrite, get_putBytes_outside _ _ _ _ (by omega)]
  refine s.byte_recallRange_ne ?_
  rw [len, linesOf_entry aligned]
  simpa using h

/-! ### The DONE word -/

/-- A DONE word in the device's memory holds the status, and its context's cores are woken (R190, R234). -/
theorem State.xlateStatus_local {done st key : Nat} (hk : s.keyOf ctx done true = some key) (near : isPeer key = false)
    (low : st < 2 ^ 32) :
    (s.xlateStatus ctx done st).bytes key 4 = leBytes 4 st ∧
      (s.xlateStatus ctx done st).wakes = s.wakes ++ (s.context ctx).coreList.map fun c => ⟨s.fresh, 256, c, key⟩ := by
  have status : s.xlateStatus ctx done st =
      ((s.agentWalk ctx done 4).homeWord key (BitVec.ofNat 32 st)).sendWake 256 ctx key := by
    unfold State.xlateStatus
    rw [hk]
    dsimp only
    unfold State.agentWord
    rw [near]
    rfl
  have word : leBytes 4 (BitVec.ofNat 32 st).toNat = leBytes 4 st := by
    rw [BitVec.toNat_ofNat, Nat.mod_eq_of_lt low]
  have kept := (s.agentWalk_homeKept ctx done 4).trans (State.homeWord_homeKept _ key (BitVec.ofNat 32 st))
  rw [status]
  constructor
  · have written := (s.agentWalk ctx done 4).bytes_homeWrite none key (leBytes 4 (BitVec.ofNat 32 st).toNat)
    rw [Claim.length_leBytes] at written
    exact written.trans word
  · unfold State.sendWake
    rw [kept.wakes, kept.coreList, kept.fresh]

/-! ### The end of a compaction -/

/-- The old frames of a region, by its leaves. -/
def leafFrames (es : List Nat) : List Nat := es.map fun e => e / 2 ^ 16 % 2 ^ 26

/-- The lines of the old frames and of those that replace them are recalled (R192, step 2). -/
def State.recalledFor (s : State) (o : XlateOp) (es : List Nat) : State :=
  (s.recallFrames (leafFrames es)).recallFrames ((List.range 256).map (o.frame + ·))

/-- The leaf that replaces those of a region (R192, step 4). -/
def newLeaf (o : XlateOp) (es : List Nat) : List Byte := leBytes 8 (3 + 8 * (es.headD 0 / 8 % 8) + 2 ^ 16 * o.frame)

/-- The frames are copied and the leaf is replaced. -/
def State.relocated (s : State) (o : XlateOp) (at_ : Nat) (es : List Nat) : State :=
  ((s.recalledFor o es).copyFrames (leafFrames es) o.frame).homeWrite none at_ (newLeaf o es)

/-- The region is dropped, and the request is over (R192, step 5). -/
def State.remapped (s : State) (ctx : Nat) (o : XlateOp) : State :=
  ((s.dropTlbs ctx o.va o.bytes).clearBases ctx o.va o.bytes).modCtx ctx fun c => { c with xlateOp := none }

/-- A core's side log once its entries in a region are no longer held. -/
def releaseLog (ctx : Nat) (o : XlateOp) (x : Core) : Core :=
  { x with
    sideLog := x.sideLog.map fun e =>
      if e.ctx == ctx && overlap (192 * e.line) 192 o.va o.bytes then { e with hold := false } else e }

/-- The held accesses of a context's cores go on. -/
def State.released (s : State) (ctx : Nat) (o : XlateOp) : State :=
  (s.context ctx).coreList.foldl (fun s c => (s.modCore c (releaseLog ctx o)).drainLog c) s

theorem exec_compactDone {o : XlateOp} {at_ : Nat} {es : List Nat} (ho : (s.context ctx).xlateOp = some o)
    (hc : o.compact = true) (accesses : s.oldAccesses ctx o.va o.bytes = []) (sends : s.oldSends ctx o.va o.bytes = [])
    (hs : s.compactable ctx o.va = some (at_, es)) :
    exec (.compactDone ctx) s =
      .next ((((s.relocated o at_ es).remapped ctx o).released ctx o).xlateStatus ctx o.done 1) := by
  show execCompactDone ctx s = _
  unfold execCompactDone
  simp only [ho, hc, accesses, sends, hs]
  rfl

theorem State.copyFrames_homeKept (s : State) (frames : List Nat) (f : Nat) : HomeKept s (s.copyFrames frames f) := by
  refine .of_contexts rfl rfl rfl rfl rfl fun c => ?_
  unfold State.copyFrames State.core
  dsimp only
  rw [AMap.get_mapVals {} s.cores _ c rfl]
  rfl

theorem State.recalledFor_homeKept (s : State) (o : XlateOp) (es : List Nat) : HomeKept s (s.recalledFor o es) :=
  (s.recallFrames_homeKept _).trans (State.recallFrames_homeKept _ _)

theorem State.relocated_homeKept (s : State) (o : XlateOp) (at_ : Nat) (es : List Nat) : HomeKept s (s.relocated o at_ es) :=
  ((s.recalledFor_homeKept o es).trans (State.copyFrames_homeKept _ _ _)).trans (State.homeWrite_homeKept _ _ _)

theorem Context.coreList_congr {c d : Context} (h : c.clusters = d.clusters) : c.coreList = d.coreList := by
  unfold Context.coreList Context.hasCluster
  rw [h]

theorem State.clusters_clearBases (s : State) (ctx va n c : Nat) :
    ((s.clearBases ctx va n).context c).clusters = (s.context c).clusters :=
  State.context_modCtx_part Context.clusters
    (f := fun c => { c with saved := c.saved.map fun t => { t with groups := t.groups.map fun p => (p.1, p.2.clearBases va n) } })
    (fun _ => rfl) s ctx c

theorem State.coreList_remapped (s : State) (ctx : Nat) (o : XlateOp) (c : Nat) :
    ((s.remapped ctx o).context c).coreList = (s.context c).coreList :=
  Context.coreList_congr ((State.context_modCtx_part Context.clusters (f := fun c => { c with xlateOp := none }) (fun _ => rfl) _
    ctx c).trans (State.clusters_clearBases (s.dropTlbs ctx o.va o.bytes) ctx o.va o.bytes c))

theorem State.released_mapKept (s : State) (ctx : Nat) (o : XlateOp) : MapKept s (s.released ctx o) :=
  .foldl (fun s c => (MapKept.modCore s c (f := releaseLog ctx o) fun _ => rfl).trans (State.drainLog_mapKept _ c)) _ s

/-- An empty side log has nothing to replay. -/
theorem State.drainLog_empty {c : Nat} (h : (s.core c).sideLog = []) :
    (s.drainLog c).mem = s.mem ∧ ∀ d, ((s.drainLog c).core d).sideLog = (s.core d).sideLog := by
  have room (u : State) : (u.sideRoom c).mem = u.mem ∧ (u.sideRoom c).cores = u.cores :=
    ite_holds (P := fun v : State => v.mem = u.mem ∧ v.cores = u.cores) ⟨rfl, rfl⟩ ⟨rfl, rfl⟩
  unfold State.drainLog
  rw [h]
  obtain ⟨hm, hv⟩ := room ((s.drainList [] []).1.modCore c fun x => { x with sideLog := (s.drainList [] []).2 })
  refine ⟨hm, fun d => ?_⟩
  rw [State.core_congr hv]
  by_cases e : d = c
  · rw [e, h]
    exact congrArg Core.sideLog (State.core_setCore_self ..)
  · exact congrArg Core.sideLog (State.core_setCore_ne _ _ _ _ e)

/-- With empty side logs nothing that was held writes to memory. -/
theorem State.mem_released {o : XlateOp} (h : ∀ c ∈ (s.context ctx).coreList, (s.core c).sideLog = []) :
    (s.released ctx o).mem = s.mem := by
  unfold State.released
  generalize (s.context ctx).coreList = l at h
  induction l generalizing s with
  | nil => rfl
  | cons c l ih =>
    have empty := h c List.mem_cons_self
    have log (d : Nat) : ((s.modCore c (releaseLog ctx o)).core d).sideLog = if d = c then [] else (s.core d).sideLog := by
      by_cases e : d = c
      · rw [if_pos e, e, State.modCore_eq, State.core_setCore_self]
        unfold releaseLog
        rw [empty]
        rfl
      · rw [if_neg e, State.modCore_eq, State.core_setCore_ne _ _ _ _ e]
    obtain ⟨mem, logs⟩ := State.drainLog_empty ((log c).trans (if_pos rfl))
    rw [List.foldl_cons, ih fun d hd => ?_]
    · exact mem
    · rw [logs, log]
      split
      · rfl
      · exact h d (List.mem_cons_of_mem _ hd)

end Sys2Proof.Machine
end

section
/-! SETTLED: O47. Page walks, answers to fault records, translation requests and compaction (R187, R189 to R192, R194, R198,
R290 to R292, R330, R368). -/

namespace Sys2Proof.Claim

open Machine

variable {s : State} {ctx at_ : Nat} {o : XlateOp} {es : List Nat}

/-- A region that may be compacted has 256 leaves. -/
theorem length_of_compactable {va : Nat} (h : s.compactable ctx va = some (at_, es)) : es.length = 256 := by
  unfold State.compactable at h
  obtain ⟨a, -, h⟩ := Option.bind_eq_some_iff.1 h
  obtain ⟨es', hes, h⟩ := Option.bind_eq_some_iff.1 h
  dsimp only at h
  split at h
  · obtain ⟨rfl, rfl⟩ := Prod.mk.inj (Option.some.inj h)
    unfold State.level1 at hes
    dsimp only at hes
    split at hes
    · obtain rfl := Option.some.inj hes
      simp
    · cases hes
  · cases h

/-- The leaf and the bytes of the new frames, before the held accesses go on. -/
theorem relocated_bytes (hs : s.compactable ctx o.va = some (at_, es)) (wf : Memory.wf s.mem = true) (aligned : at_ % 8 = 0)
    (apart : at_ + 8 ≤ o.frame * 24576 ∨ (o.frame + 256) * 24576 ≤ at_) :
    (s.relocated o at_ es).bytes at_ 8 = newLeaf o es ∧
      ∀ i j, i < 256 → j < 24576 →
        (s.relocated o at_ es).byte ((o.frame + i) * 24576 + j) =
          (s.recalledFor o es).byte ((leafFrames es).getD i 0 * 24576 + j) := by
  have len : (newLeaf o es).length = 8 := length_leBytes ..
  have frames : (leafFrames es).length = 256 := List.length_map .. |>.trans (length_of_compactable hs)
  have canonical : Memory.wf (s.recalledFor o es).mem = true := State.wf_recallFrames _ _ (State.wf_recallFrames _ _ wf)
  constructor
  · have written := ((s.recalledFor o es).copyFrames (leafFrames es) o.frame).bytes_homeWrite none at_ (newLeaf o es)
    rw [len] at written
    exact written
  · intro i j hi hj
    refine (State.byte_homeWrite_entry _ aligned len ?_).trans
      (State.byte_copyFrames_inside canonical frames o.frame hi hj)
    omega

/-- A compaction ends (R192, steps 2 to 5). -/
theorem compactDone_ends (ho : (s.context ctx).xlateOp = some o) (hc : o.compact = true)
    (accesses : s.oldAccesses ctx o.va o.bytes = []) (sends : s.oldSends ctx o.va o.bytes = [])
    (hs : s.compactable ctx o.va = some (at_, es)) :
    let frames := es.map fun e => e / 2 ^ 16 % 2 ^ 26
    let recalled := (s.recallFrames frames).recallFrames ((List.range 256).map (o.frame + ·))
    ∃ t u : State, exec (.compactDone ctx) s = .next t ∧ t = u.xlateStatus ctx o.done 1 ∧ (t.context ctx).xlateOp = none ∧
      (∀ c, (t.core c).tlb = (s.core c).tlb.filter fun e => !e.meets ctx o.va o.bytes) ∧
      (∀ k, (t.group k).b =
        if (s.group k).ctx = ctx then ((s.group k).clearBases o.va o.bytes).b else (s.group k).b) ∧
      ((∀ c ∈ (s.context ctx).coreList, (s.core c).sideLog = []) → Memory.wf s.mem = true → frames.Nodup →
        at_ % 8 = 0 → at_ + 8 ≤ o.frame * 24576 ∨ (o.frame + 256) * 24576 ≤ at_ →
        u.bytes at_ 8 = leBytes 8 (3 + 8 * (es.headD 0 / 8 % 8) + 2 ^ 16 * o.frame) ∧
        ∀ i j, i < 256 → j < 24576 →
          u.byte ((o.frame + i) * 24576 + j) = recalled.byte (frames.getD i 0 * 24576 + j)) := by
  intro frames recalled
  have moved := s.relocated_homeKept o at_ es
  have went : MapKept ((s.relocated o at_ es).remapped ctx o)
      ((((s.relocated o at_ es).remapped ctx o).released ctx o).xlateStatus ctx o.done 1) :=
    (State.released_mapKept _ ctx o).trans (State.xlateStatus_mapKept _ _ _ _)
  have here : (s.contexts.find? ctx).isSome = true := by
    cases hx : s.contexts.find? ctx with
    | some c => rfl
    | none =>
      unfold State.context at ho
      rw [AMap.get_eq_find?, hx] at ho
      cases ho
  have present : (((((s.relocated o at_ es).dropTlbs ctx o.va o.bytes).clearBases ctx o.va o.bytes).contexts.find? ctx)).isSome =
      true := (State.present_clearBases ..).trans ((moved.present ctx).trans here)
  refine ⟨_, _, exec_compactDone ho hc accesses sends hs, rfl, (went.op ctx).trans (State.xlateOp_modCtx present none),
    fun c => (went.tlb c).trans ?_, fun k => (went.bases k).trans ?_, fun logs wf _ aligned apart => ?_⟩
  · rw [← moved.tlb c]
    exact congrArg Core.tlb (State.core_dropTlbs ..)
  · have group : ((s.relocated o at_ es).remapped ctx o).group k =
        ((s.group k).unwalked ctx o.va o.bytes).unbased ctx o.va o.bytes := by
      rw [← State.group_congr moved.groups, ← State.group_dropTlbs, ← State.group_clearBases]
      rfl
    rw [group, Group.unbased_b, Group.unwalked_ctx, Group.clearBases_congr (Group.unwalked_b _ _ _ _), Group.unwalked_b]
  · have list : (((s.relocated o at_ es).remapped ctx o).context ctx).coreList = (s.context ctx).coreList :=
      (State.coreList_remapped _ _ _ _).trans (moved.coreList ctx)
    have log (c : Nat) : (((s.relocated o at_ es).remapped ctx o).core c).sideLog = (s.core c).sideLog :=
      (congrArg Core.sideLog (State.core_dropTlbs ..)).trans (moved.sideLog c)
    have mem : (((s.relocated o at_ es).remapped ctx o).released ctx o).mem = (s.relocated o at_ es).mem :=
      State.mem_released fun c hcl => (log c).trans (logs c (list ▸ hcl))
    obtain ⟨leaf, bytes⟩ := relocated_bytes hs wf aligned apart
    exact ⟨(State.bytes_congr mem at_ 8).trans leaf,
      fun i j hi hj => (State.byte_congr mem _).trans (bytes i j hi hj)⟩

/-- Settles O47: each walk, answer and request by how it begins or ends, a compaction by what its copy and its release of held
accesses keep. -/
theorem walksAnswersAndCompaction : Obligations.WalksAnswersAndCompaction := by
  unfold Obligations.WalksAnswersAndCompaction
  refine ⟨⟨?walks, ?answers, ?requests, ?invalidated, ?held⟩, ?compact, ?done, ?unpinned, ?status, ?copy⟩
  case walks =>
    intro s g page ps hw hp left w reads due unheld
    refine ⟨fun a first => ?_, fun free => ?_⟩
    · have slice : s.Unheld a := unheld a (List.mem_of_mem_head? first)
      exact ⟨fun taken few => pageWalk_retried hw hp due first slice taken few,
        fun free spoilt => pageWalk_spoilt hw hp due first slice free spoilt⟩
    · obtain ⟨t, ht, bytes, counted, ok, absent, malformed⟩ := pageWalk_served hw hp due unheld free
      refine ⟨t, ht, bytes, counted, ?_⟩
      split
      · next e he => exact ok e he
      · next he => exact absent he
      · next he => exact malformed he
  case answers =>
    intro s ctx seq k entry va0 va lanes hrec kind woken here resident hctx hw sorted other cmds grids
    exact ⟨recordAnswer_retry hrec kind woken here resident hctx hw sorted other cmds grids,
      recordAnswer_deliver hrec kind woken here resident hctx hw sorted other cmds grids⟩
  case requests =>
    intro s ctx r hr
    exact ⟨exec_translationRequestFail_malformed hr, exec_translationRequestFail_compaction hr, invalidateRange_begins hr⟩
  case invalidated =>
    exact fun s ctx o ho hc accesses peers => exec_invalidateRangeDone ho hc (State.oldDone_of accesses peers)
  case held => exact fun s ctx ws rest => ⟨exec_faultRecordRelease, exec_eventRecordRelease⟩
  case compact => exact fun s ctx r hr kind aligned low frame local_ may => compact_begins hr kind aligned low frame local_ may
  case done => exact fun s ctx at_ o es ho hc accesses sends hs => compactDone_ends ho hc accesses sends hs
  case unpinned => exact fun s fs h => State.recallFrames_of_unpinned h
  case status => exact fun s ctx done st key hk near low => State.xlateStatus_local hk near low
  case copy =>
    exact fun s frames f wf len _ => ⟨fun i j hi hj => State.byte_copyFrames_inside wf len f hi hj,
      fun k hk => State.byte_copyFrames_outside len hk⟩

end Sys2Proof.Claim
end
